-- ==== Sys2Proof/Word.lean ====
section
/-! DEFINITION. The word types of the machine, and the plain data that names its parts and its outside events. -/

namespace Sys2Proof

/-- One byte of memory (00 R4). -/
abbrev Byte := BitVec 8
/-- One instruction word (03 R72). -/
abbrev Word := BitVec 32
/-- One scalar register (01 R16). -/
abbrev Dword := BitVec 64
/-- One array row: 512 data columns, 64 bytes of A-space (01 R33). -/
abbrev Row := BitVec 512
/-- One tag or validity column: a bit for each of the 16,384 rows of a cluster (01 R28). -/
abbrev Column := BitVec 16384
/-- Number of a scalar register. -/
abbrev Reg := BitVec 5
/-- Number of a field register. -/
abbrev VReg := BitVec 4
/-- Number of a tag column of the hart. -/
abbrev Tag := BitVec 2
/-- A stall count (03 R80). -/
abbrev Stall := BitVec 3

/-- A core identifier (00 R9): die pair [8:5], die [4], core [3:0]. -/
abbrev CoreId := Nat
/-- A cluster: 8 · core + cluster. -/
abbrev ClusterKey := Nat
/-- A residency slot of a cluster: 4 · cluster key + slot, which names at most one hart. -/
abbrev HartKey := Nat
/-- A twin pair: 16 · die pair + core within its die. -/
abbrev PairKey := Nat

/-- What an access does with the page it reaches (09 R216). -/
inductive Access where
  | load | store | update | fetch
deriving DecidableEq, Repr

/-- The storage an uncorrectable error strikes (17 R365). -/
inductive ErrorSite where
  /-- A line of a core's L1. -/
  | l1Line (core : CoreId) (line : Nat)
  /-- A 128-byte line of a shared cache or of HBM, by physical line number. -/
  | homeLine (line : Nat)
  /-- W-space or C-space bytes that the oldest started matrix entry of a core reads, at an address. -/
  | matrixRead (core : CoreId) (addr : Dword)
  /-- W-space or C-space bytes that the context engine reads for a spill of a context. -/
  | spillRead (ctx : Nat)
  /-- Array, tag, validity or work columns, strip or table buffer, or sequencer state of a cluster. -/
  | clusterState (cluster : ClusterKey)
  /-- Chain, park, matrix queue or drain memory state of a core. -/
  | engineState (core : CoreId)
deriving DecidableEq, Repr

/-- The thermal levels of a die (21 R435). -/
inductive Thermal where
  | normal | warm | hot | critical
deriving DecidableEq, Repr

/-- The AtomicOps of the host and peers (21 R421). -/
inductive PeerAtomic where
  | fetchAdd | swap | cas
deriving DecidableEq, Repr

/-- A boot image as the boot controller meets it (21 R430): its bytes, its signature and its security version;
`readable` is false where the flash could not be read. -/
structure BootImage where
  bytes : List Byte
  signature : List Byte
  version : Nat
  readable : Bool
deriving DecidableEq, Repr

/-- One participant's contribution to a collective (21 R418): its group table, its index in it, its parameters and its
input elements. -/
structure CollInput where
  group : List Dword
  index : Nat
  op : Nat
  ty : Nat
  count : Nat
  root : Nat
  tag : Word
  rm : BitVec 3
  data : List Dword
deriving DecidableEq, Repr

end Sys2Proof
end

