-- ==== Sys2Proof/Machine/Float.lean ====
section
/-! DEFINITION. Numbers: exact values, the floating formats, rounding, the arithmetic of 02 and the F4B codes. -/

namespace Sys2Proof.Machine

/-- An exact value: (−1)^neg · m · 2^e, an infinity, or a NaN. A zero keeps its sign. -/
inductive Num where
  | nan
  | inf (neg : Bool)
  | fin (neg : Bool) (m : Nat) (e : Int)
deriving DecidableEq, Repr

/-- Sticky flags in the layout of fflags (01 R24). -/
abbrev Flags := BitVec 7
/-- NX. -/
def flagNX : Flags := 1
/-- UF. -/
def flagUF : Flags := 2
/-- OF. -/
def flagOF : Flags := 4
/-- DZ. -/
def flagDZ : Flags := 8
/-- NV. -/
def flagNV : Flags := 16
/-- SAT. -/
def flagSAT : Flags := 32
/-- INVST. -/
def flagINVST : Flags := 64

/-- A floating format (02 R53, R54). -/
structure Fmt where
  bits : Nat
  ebits : Nat
  fbits : Nat
  bias : Nat
  /-- Infinities exist, and the top exponent code holds only them and NaNs. -/
  ieee : Bool
  nan : Nat
deriving DecidableEq, Repr

/-- FP32. -/
def fmtF32 : Fmt := { bits := 32, ebits := 8, fbits := 23, bias := 127, ieee := true, nan := 0x7FC00000 }
/-- FP16. -/
def fmtF16 : Fmt := { bits := 16, ebits := 5, fbits := 10, bias := 15, ieee := true, nan := 0x7E00 }
/-- BF16. -/
def fmtBf16 : Fmt := { bits := 16, ebits := 8, fbits := 7, bias := 127, ieee := true, nan := 0x7FC0 }
/-- E4M3. -/
def fmtE4m3 : Fmt := { bits := 8, ebits := 4, fbits := 3, bias := 7, ieee := false, nan := 0x7F }
/-- E5M2. -/
def fmtE5m2 : Fmt := { bits := 8, ebits := 5, fbits := 2, bias := 15, ieee := true, nan := 0x7E }

/-- The format of a type code, where the type is a float (01 R31). -/
def fmtOf : Nat → Option Fmt
  | 2 => some fmtBf16
  | 3 => some fmtF16
  | 4 => some fmtF32
  | 5 => some fmtE4m3
  | 6 => some fmtE5m2
  | _ => none

/-- The sign bit of an encoding. -/
def Fmt.sign (f : Fmt) (neg : Bool) : Nat := if neg then 2 ^ (f.bits - 1) else 0
/-- Exponent of the least subnormal. -/
def Fmt.qmin (f : Fmt) : Int := 1 - (f.bias : Int) - f.fbits
/-- Exponent of the last place of the largest finite value. -/
def Fmt.qmax (f : Fmt) : Int := (2 ^ f.ebits : Int) - (if f.ieee then 2 else 1) - f.bias - f.fbits
/-- Significand of the largest finite value. -/
def Fmt.maxSig (f : Fmt) : Nat := if f.ieee then 2 ^ (f.fbits + 1) - 1 else 2 ^ (f.fbits + 1) - 2

/-- The encoding of a significand at an exponent of its last place. -/
def Fmt.pack (f : Fmt) (neg : Bool) (sig : Nat) (q : Int) : Nat :=
  f.sign neg + (if sig < 2 ^ f.fbits then sig else (q - f.qmin).toNat * 2 ^ f.fbits + sig)

/-- The infinity of a sign; E4M3 has none and gives its NaN. -/
def Fmt.infinity (f : Fmt) (neg : Bool) : Nat :=
  if f.ieee then f.sign neg + (2 ^ f.ebits - 1) * 2 ^ f.fbits else f.nan

/-- The value that an encoding stands for (R53, R54). -/
def Fmt.decode (f : Fmt) (v : Nat) : Num :=
  let neg := v / 2 ^ (f.bits - 1) % 2 == 1
  let ex := v / 2 ^ f.fbits % 2 ^ f.ebits
  let fr := v % 2 ^ f.fbits
  if ex = 2 ^ f.ebits - 1 ∧ (f.ieee ∨ fr = 2 ^ f.fbits - 1) then
    if f.ieee ∧ fr = 0 then .inf neg else .nan
  else if ex = 0 then .fin neg fr f.qmin
  else .fin neg (2 ^ f.fbits + fr) (f.qmin + ex - 1)

/-- Rounds m · 2^(−sh) to an integer under a mode (R62): the integer and whether it differs. -/
def roundShift (mode : Nat) (neg : Bool) (m sh : Nat) : Nat × Bool :=
  if m = 0 then (0, false)
  else if sh > Nat.log2 m + 1 then (if (mode == 2 && neg) || (mode == 3 && !neg) then 1 else 0, true)
  else
    let d := 2 ^ sh
    let q := m / d
    let r := m % d
    let up :=
      match mode with
      | 0 => decide (2 * r > d) || (decide (2 * r = d) && q % 2 == 1)
      | 1 => false
      | 2 => neg && decide (r ≠ 0)
      | 3 => !neg && decide (r ≠ 0)
      | _ => decide (2 * r ≥ d)
    (if up && decide (r ≠ 0) then q + 1 else q, decide (r ≠ 0))

/-- round(x, fmt, mode) of R63: the encoding and its flags. -/
def Fmt.round (f : Fmt) (mode : Nat) : Num → Nat × Flags
  | .nan => (f.nan, 0)
  | .inf neg => (f.infinity neg, if f.ieee then 0 else flagNV)
  | .fin neg m e =>
    if m = 0 then (f.sign neg, 0)
    else
      let q := max ((Nat.log2 m : Int) + e - f.fbits) f.qmin
      let (sig, nx) := if q ≤ e then (m * 2 ^ (e - q).toNat, false) else roundShift mode neg m (q - e).toNat
      let (sig, q) := if sig = 2 ^ (f.fbits + 1) then (2 ^ f.fbits, q + 1) else (sig, q)
      if q > f.qmax ∨ (q = f.qmax ∧ sig > f.maxSig) then
        let big := f.pack neg f.maxSig f.qmax
        let toInf := f.ieee && (mode == 0 || mode == 4 || (mode == 2 && neg) || (mode == 3 && !neg))
        (if toInf then f.infinity neg else big, flagOF ||| flagNX)
      else
        (f.pack neg sig q,
          (if nx then flagNX else 0) ||| (if nx && decide (sig ≠ 0) && decide (sig < 2 ^ f.fbits) then flagUF else 0))

/-! ## Exact arithmetic (R64 to R66) -/

/-- A value from an integer and an exponent; zero is positive. -/
def Num.ofInt (i : Int) (e : Int := 0) : Num := .fin (i < 0) i.natAbs e

/-- The sign of an exact zero sum (R64). -/
def zeroSum (mode : Nat) (a b : Bool) : Bool := if a == b then a else mode == 2

/-- The exact sum, and NV for ∞ − ∞. -/
def Num.add (mode : Nat) : Num → Num → Num × Flags
  | .nan, _ => (.nan, 0)
  | _, .nan => (.nan, 0)
  | .inf a, .inf b => if a == b then (.inf a, 0) else (.nan, flagNV)
  | .inf a, .fin .. => (.inf a, 0)
  | .fin .., .inf b => (.inf b, 0)
  | .fin a m e, .fin b n g =>
    if m = 0 ∧ n = 0 then (.fin (zeroSum mode a b) 0 0, 0)
    else
      let l := min e g
      let x : Int := (m * 2 ^ (e - l).toNat : Nat)
      let y : Int := (n * 2 ^ (g - l).toNat : Nat)
      let z := (if a then -x else x) + (if b then -y else y)
      if z = 0 then (.fin (mode == 2) 0 0, 0) else (.fin (z < 0) z.natAbs l, 0)

/-- The value with its sign inverted. -/
def Num.neg : Num → Num
  | .nan => .nan
  | .inf a => .inf !a
  | .fin a m e => .fin (!a) m e

/-- The exact difference. -/
def Num.sub (mode : Nat) (a b : Num) : Num × Flags := Num.add mode a b.neg

/-- The exact product, and NV for 0 × ∞. -/
def Num.mul : Num → Num → Num × Flags
  | .nan, _ => (.nan, 0)
  | _, .nan => (.nan, 0)
  | .inf a, .inf b => (.inf (a != b), 0)
  | .inf a, .fin b n _ => if n = 0 then (.nan, flagNV) else (.inf (a != b), 0)
  | .fin a m _, .inf b => if m = 0 then (.nan, flagNV) else (.inf (a != b), 0)
  | .fin a m e, .fin b n g => (.fin (a != b) (m * n) (e + g), 0)

/-- a × b + c before rounding. -/
def Num.fma (mode : Nat) (a b c : Num) : Num × Flags :=
  let (p, f) := a.mul b
  if f ≠ 0 then (.nan, f) else p.add mode c

/-- A quotient of naturals with a sticky last bit: enough bits for any format's rounding. -/
def quotient (m n : Nat) (e : Int) (neg : Bool) : Num :=
  let k := 80 + Nat.log2 n
  let q := m * 2 ^ k / n
  .fin neg (2 * q + (if m * 2 ^ k % n = 0 then 0 else 1)) (e - k - 1)

/-- The quotient, NV and DZ by R66. -/
def Num.div : Num → Num → Num × Flags
  | .nan, _ => (.nan, 0)
  | _, .nan => (.nan, 0)
  | .inf _, .inf _ => (.nan, flagNV)
  | .inf a, .fin b _ _ => (.inf (a != b), 0)
  | .fin a _ _, .inf b => (.fin (a != b) 0 0, 0)
  | .fin a m e, .fin b n g =>
    if n = 0 then (if m = 0 then (.nan, flagNV) else (.inf (a != b), flagDZ))
    else if m = 0 then (.fin (a != b) 0 0, 0)
    else (quotient m n (e - g) (a != b), 0)

/-- The reciprocal. -/
def Num.rcp (a : Num) : Num × Flags := Num.div (.fin false 1 0) a

/-- Integer square root, by bits from the top. -/
def isqrtBits (n : Nat) : Nat → Nat → Nat
  | 0, r => r
  | k + 1, r =>
    let t := r + 2 ^ k
    isqrtBits n k (if t * t ≤ n then t else r)

/-- The largest r with r · r ≤ n. -/
def isqrt (n : Nat) : Nat := isqrtBits n (Nat.log2 n / 2 + 1) 0

/-- The reciprocal square root, NV and DZ by R66. -/
def Num.rsq : Num → Num × Flags
  | .nan => (.nan, 0)
  | .inf neg => if neg then (.nan, flagNV) else (.fin false 0 0, 0)
  | .fin neg m e =>
    if m = 0 then (.inf neg, flagDZ)
    else if neg then (.nan, flagNV)
    else
      let (m, e) := if e % 2 = 0 then (m, e) else (2 * m, e - 1)
      let k := 2 * (Nat.log2 m + 80)
      let r := isqrt (2 ^ k / m)
      (.fin false (2 * r + (if r * r * m = 2 ^ k then 0 else 1)) (-(e / 2) - (k / 2 : Nat) - 1), 0)

/-- Whether a finite or infinite value is below another; zeros are equal; false with a NaN. -/
def Num.lt : Num → Num → Bool
  | .nan, _ => false
  | _, .nan => false
  | .inf a, .inf b => a && !b
  | .inf a, .fin .. => a
  | .fin .., .inf b => !b
  | .fin a m e, .fin b n g =>
    let l := min e g
    let x : Int := (m * 2 ^ (e - l).toNat : Nat)
    let y : Int := (n * 2 ^ (g - l).toNat : Nat)
    decide ((if a then -x else x) < (if b then -y else y))

/-- Whether a value is a NaN. -/
def Num.isNan : Num → Bool
  | .nan => true
  | _ => false

/-- The sign of a value; a NaN's is 0. -/
def Num.sign : Num → Bool
  | .nan => false
  | .inf a => a
  | .fin a _ _ => a

/-- Equal in value: −0 equals +0, a NaN equals nothing. -/
def Num.eq (a b : Num) : Bool := !a.isNan && !b.isNan && !a.lt b && !b.lt a

/-- Strict order with −0 below +0. -/
def Num.below (a b : Num) : Bool := a.lt b || (a.eq b && a.sign && !b.sign)

/-- MIN and MAX of R66. -/
def Num.minMax (wantMax : Bool) (a b : Num) : Num :=
  if a.isNan then b else if b.isNan then a
  else if (if wantMax then a.below b else b.below a) then b else a

/-- A finite value rounded to an integer (R67): the integer, and whether it differs. -/
def roundInt (mode : Nat) (neg : Bool) (m : Nat) (e : Int) : Int × Bool :=
  let (q, nx) := if 0 ≤ e then (m * 2 ^ e.toNat, false) else roundShift mode neg m (-e).toNat
  (if neg then -(q : Int) else q, nx)

/-! ## F4B (R57 to R60) -/

/-- The magnitudes of the ordinary E2M1 codes, in units of 2^−9. -/
def e2m1Units (c : Nat) : Nat := [0, 256, 512, 768, 1024, 1536, 2048, 3072].getD (c % 8) 0

/-- The magnitude of an E4M3 code in units of 2^−9, none for its NaN. -/
def specialUnits (special : Nat) : Option Nat :=
  match fmtE4m3.decode (special % 128) with
  | .fin _ m e => some (m * 2 ^ (e + 9).toNat)
  | _ => none

/-- The value of an element code under a scale and a special byte (R58). -/
def f4bDecode (code scale special : Nat) : Num :=
  if scale = 255 then .nan
  else
    let s : Int := (scale : Int) - 127 - 9
    if code % 16 = 8 then
      match specialUnits special with
      | none => .nan
      | some u => .fin true u s
    else .fin (code % 16 / 8 == 1) (e2m1Units code) s

/-- The candidates of R60: codes with their signed values in units of 2^−9, rising. -/
def f4bCandidates (special : Nat) : List (Nat × Int) :=
  let ordinary : List (Nat × Int) :=
    ([15, 14, 13, 12, 11, 10, 9].map fun c => (c, -(e2m1Units c : Int))) ++
    ([0, 1, 2, 3, 4, 5, 6, 7].map fun c => (c, (e2m1Units c : Int)))
  match specialUnits special with
  | none => ordinary
  | some u =>
    if u = 0 ∨ ordinary.any (fun c => decide (c.2 = -(u : Int))) then ordinary
    else
      let v := -(u : Int)
      ordinary.filter (fun c => decide (c.2 < v)) ++ (8, v) :: ordinary.filter (fun c => decide (v < c.2))

/-- encode(x, S, M, mode) of R60 for a finite x: the code and its flags. -/
def f4bEncodeFin (mode : Nat) (special : Nat) (neg : Bool) (m : Nat) (e : Int) : Nat × Flags :=
  if m = 0 then (0, 0)
  else
    -- y = x / S in units of 2^−9 is m · 2^e; both sides are scaled to whole numbers
    let l := min e 0
    let y : Int := (if neg then -1 else 1) * (m * 2 ^ (e - l).toNat : Nat)
    let unit : Int := (2 ^ (-l).toNat : Nat)
    let cs := (f4bCandidates special).map fun c => (c.1, c.2 * unit)
    let lo := (cs.filter fun c => decide (c.2 ≤ y)).getLast?
    let hi := (cs.filter fun c => decide (y ≤ c.2)).head?
    match lo, hi with
    | none, none => (0, 0)
    | none, some b => (b.1, flagOF ||| flagNX)
    | some a, none => (a.1, flagOF ||| flagNX)
    | some a, some b =>
      if a.2 = y then (a.1, 0)
      else
        let da := y - a.2
        let db := b.2 - y
        let c :=
          match mode with
          | 1 => if neg then b else a
          | 2 => a
          | 3 => b
          | _ =>
            if da < db then a else if db < da then b
            else if a.1 = 8 then b else if b.1 = 8 then a
            else if mode = 0 then (if a.1 % 2 = 0 then a else b)
            else if neg then a else b
        (c.1, flagNX)

/-- Encoding against a supplied pair (R60, R67): the code, its flags, and whether tgv is kept. -/
def f4bEncode (mode scale special : Nat) : Num → Nat × Flags × Bool
  | .fin neg m e =>
    if scale = 255 then (0, 0, false)
    else
      let (c, f) := f4bEncodeFin mode special neg m (e - ((scale : Int) - 127) + 9)
      (c, f, true)
  | _ => (0, 0, false)

/-- floor(log2) of a finite non-zero value. -/
def floorLog2 (m : Nat) (e : Int) : Int := (Nat.log2 m : Int) + e

/-- The scale and special bytes that the canonical encoder of R60 forms for a block of values. -/
def f4bPair (xs : List Num) : Nat × Nat :=
  if xs.any (fun x => match x with | .fin .. => false | _ => true) then (255, 0)
  else
    let amax : Num := xs.foldl (fun a x => if a.lt (if x.sign then x.neg else x) then (if x.sign then x.neg else x) else a)
      (.fin false 0 0)
    let vmin : Num := xs.foldl (fun a x => if x.lt a then x else a) (.fin false 0 0)
    let sc : Int :=
      match amax with
      | .fin _ m e => if m = 0 then 127 else min 254 (max 0 (floorLog2 m e - 2 + 127))
      | _ => 127
    match vmin with
    | .fin _ m e =>
      let y : Num := .fin false m (e - (sc - 127))
      if m ≠ 0 ∧ (Num.fin false 6 0).lt y then
        let c := (fmtE4m3.round 0 y).1
        (sc.toNat, if c = 0x7F then 0x7E else c)
      else (sc.toNat, 0)
    | _ => (sc.toNat, 0)

/-- The canonical encoder of R60 over the values of one block, all members: scale, special, codes and flags. -/
def f4bBlock (mode : Nat) (xs : List Num) : Nat × Nat × List Nat × Flags :=
  let (sc, sp) := f4bPair xs
  if sc = 255 then (255, 0, xs.map fun _ => 0, 0)
  else
    let cs := xs.map fun x => f4bEncode mode sc sp x
    (sc, sp, cs.map fun c => c.1, cs.foldl (fun f c => f ||| c.2.1) 0)

/-! ## Sums in tree order (R68) -/

/-- One level of the tree: pairs rounded, an odd tail passed up. -/
def treeLevel (f : Fmt) (mode : Nat) : List Nat → List Nat × Flags
  | a :: b :: rest =>
    let (s, g) := Num.add mode (f.decode a) (f.decode b)
    let (v, h) := f.round mode s
    let (vs, k) := treeLevel f mode rest
    (v :: vs, g ||| h ||| k)
  | l => (l, 0)

/-- The tree over leaves already in the destination format; n bounds its height. -/
def treeSum (f : Fmt) (mode : Nat) : Nat → List Nat → Nat × Flags
  | 0, l => (l.headD 0, 0)
  | n + 1, l =>
    match l with
    | [] => (0, 0)
    | [a] => (a, 0)
    | l =>
      let (l', g) := treeLevel f mode l
      let (v, h) := treeSum f mode n l'
      (v, g ||| h)

/-- The exact sum of a list, NaN for ∞ − ∞ or any NaN. -/
def exactSum (mode : Nat) (xs : List Num) : Num × Flags :=
  xs.foldl (fun a x => let (s, f) := a.1.add mode x; (s, a.2 ||| f)) (.fin false 0 0, 0)

/-- One k-group of R70: acc := round(acc + Σ a·b, FP32, RNE), flags dropped. -/
def kGroup (acc : Nat) (ps : List (Num × Num)) : Nat :=
  let s := ps.foldl (fun (a : Num) p => (a.add 0 (p.1.mul p.2).1).1) (fmtF32.decode acc)
  (fmtF32.round 0 s).1

end Sys2Proof.Machine
end

