-- ==== Sys2Proof/Syntax.lean ====
section
/-! DEFINITION. The instruction set: one constructor for each row of spec/opcode_table.json. The word rows carry the fields
of their encoding (03 R73, R74), the event rows the data that names the event. A field is named by the table's letter.
The stall count, bits [2:0] of every word, is no field of a constructor: it stands in the instruction register of the
state, beside the word that is being run (03 R72). The constructors without fields stand after those with fields, because
the compiler limits the tags of constructors with fields; the events come last. -/

namespace Sys2Proof

/-- The steps of the machine: 256 instruction words and 88 events. -/
inductive Instr where
  /-- PFX (R84): loads the prefix latch with a predicate and an optional destination copy register for the next word. -/
  | pfx (p : BitVec 3) (i : BitVec 1) (c : BitVec 1) (r : BitVec 5)
  /-- ADD (R99): writes the 64-bit wrapping sum of two scalar registers. -/
  | add (d : BitVec 5) (a : BitVec 5) (b : BitVec 5)
  /-- SUB (R99): writes the 64-bit wrapping difference of two scalar registers. -/
  | sub (d : BitVec 5) (a : BitVec 5) (b : BitVec 5)
  /-- AND (R99): writes the bitwise AND of two scalar registers. -/
  | and (d : BitVec 5) (a : BitVec 5) (b : BitVec 5)
  /-- OR (R99): writes the bitwise OR of two scalar registers. -/
  | or (d : BitVec 5) (a : BitVec 5) (b : BitVec 5)
  /-- XOR (R99): writes the bitwise XOR of two scalar registers. -/
  | xor (d : BitVec 5) (a : BitVec 5) (b : BitVec 5)
  /-- ANDN (R99): writes a AND NOT b. -/
  | andn (d : BitVec 5) (a : BitVec 5) (b : BitVec 5)
  /-- SLL (R99): shifts left by the low six bits of b. -/
  | sll (d : BitVec 5) (a : BitVec 5) (b : BitVec 5)
  /-- SRL (R99): shifts right logically by the low six bits of b. -/
  | srl (d : BitVec 5) (a : BitVec 5) (b : BitVec 5)
  /-- SRA (R99): shifts right arithmetically by the low six bits of b. -/
  | sra (d : BitVec 5) (a : BitVec 5) (b : BitVec 5)
  /-- SLT (R99): writes 1 if a is less than b as signed values. -/
  | slt (d : BitVec 5) (a : BitVec 5) (b : BitVec 5)
  /-- SLTU (R99): writes 1 if a is less than b as unsigned values. -/
  | sltu (d : BitVec 5) (a : BitVec 5) (b : BitVec 5)
  /-- MIN (R99): writes the signed minimum of a and b. -/
  | min (d : BitVec 5) (a : BitVec 5) (b : BitVec 5)
  /-- MAX (R99): writes the signed maximum of a and b. -/
  | max (d : BitVec 5) (a : BitVec 5) (b : BitVec 5)
  /-- MINU (R99): writes the unsigned minimum of a and b. -/
  | minu (d : BitVec 5) (a : BitVec 5) (b : BitVec 5)
  /-- MAXU (R99): writes the unsigned maximum of a and b. -/
  | maxu (d : BitVec 5) (a : BitVec 5) (b : BitVec 5)
  /-- CSEL (R99): writes a if the old xd is non-zero, else b. -/
  | csel (d : BitVec 5) (a : BitVec 5) (b : BitVec 5)
  /-- MUL (R99): writes the low 64 bits of the product. -/
  | mul (d : BitVec 5) (a : BitVec 5) (b : BitVec 5)
  /-- MULH (R99): writes the high 64 bits of the signed product. -/
  | mulh (d : BitVec 5) (a : BitVec 5) (b : BitVec 5)
  /-- MULHU (R99): writes the high 64 bits of the unsigned product. -/
  | mulhu (d : BitVec 5) (a : BitVec 5) (b : BitVec 5)
  /-- DIV (R99): starts a signed division in the cluster divider, with the R52 special cases. -/
  | div (d : BitVec 5) (a : BitVec 5) (b : BitVec 5)
  /-- DIVU (R99): starts an unsigned division in the cluster divider. -/
  | divu (d : BitVec 5) (a : BitVec 5) (b : BitVec 5)
  /-- REM (R99): starts a signed remainder in the cluster divider. -/
  | rem (d : BitVec 5) (a : BitVec 5) (b : BitVec 5)
  /-- REMU (R99): starts an unsigned remainder in the cluster divider. -/
  | remu (d : BitVec 5) (a : BitVec 5) (b : BitVec 5)
  /-- CLZ (R99): counts leading zero bits of a. -/
  | clz (d : BitVec 5) (a : BitVec 5)
  /-- CTZ (R99): counts trailing zero bits of a. -/
  | ctz (d : BitVec 5) (a : BitVec 5)
  /-- POPC (R99): counts one bits of a. -/
  | popc (d : BitVec 5) (a : BitVec 5)
  /-- BREV (R99): reverses the bits of a. -/
  | brev (d : BitVec 5) (a : BitVec 5)
  /-- ADDI (R100): adds a sign-extended 13-bit immediate. -/
  | addi (d : BitVec 5) (a : BitVec 5) (i : BitVec 13)
  /-- ANDI (R100): ANDs with a sign-extended immediate. -/
  | andi (d : BitVec 5) (a : BitVec 5) (i : BitVec 13)
  /-- ORI (R100): ORs with a sign-extended immediate. -/
  | ori (d : BitVec 5) (a : BitVec 5) (i : BitVec 13)
  /-- XORI (R100): XORs with a sign-extended immediate. -/
  | xori (d : BitVec 5) (a : BitVec 5) (i : BitVec 13)
  /-- SLTI (R100): signed compare with an immediate. -/
  | slti (d : BitVec 5) (a : BitVec 5) (i : BitVec 13)
  /-- SLTIU (R100): unsigned compare with a sign-extended immediate. -/
  | sltiu (d : BitVec 5) (a : BitVec 5) (i : BitVec 13)
  /-- SLLI (R101): shifts left by an immediate amount. -/
  | slli (d : BitVec 5) (a : BitVec 5) (h : BitVec 6)
  /-- SRLI (R101): shifts right logically by an immediate amount. -/
  | srli (d : BitVec 5) (a : BitVec 5) (h : BitVec 6)
  /-- SRAI (R101): shifts right arithmetically by an immediate amount. -/
  | srai (d : BitVec 5) (a : BitVec 5) (h : BitVec 6)
  /-- LIH (R102): loads a sign-extended 18-bit immediate shifted left by 13. -/
  | lih (d : BitVec 5) (i : BitVec 18)
  /-- LISH (R102): shifts xd left by 18 and ORs in an 18-bit immediate. -/
  | lish (d : BitVec 5) (i : BitVec 18)
  /-- BEQ (R103): branches when the registers are equal. -/
  | beq (a : BitVec 5) (b : BitVec 5) (o : BitVec 13)
  /-- BNE (R103): branches when the registers differ. -/
  | bne (a : BitVec 5) (b : BitVec 5) (o : BitVec 13)
  /-- BLT (R103): branches when a is less than b, signed. -/
  | blt (a : BitVec 5) (b : BitVec 5) (o : BitVec 13)
  /-- BGE (R103): branches when a is at least b, signed. -/
  | bge (a : BitVec 5) (b : BitVec 5) (o : BitVec 13)
  /-- BLTU (R103): branches when a is less than b, unsigned. -/
  | bltu (a : BitVec 5) (b : BitVec 5) (o : BitVec 13)
  /-- BGEU (R103): branches when a is at least b, unsigned. -/
  | bgeu (a : BitVec 5) (b : BitVec 5) (o : BitVec 13)
  /-- JAL (R105): jumps PC-relative and writes the link register. -/
  | jal (d : BitVec 5) (i : BitVec 18)
  /-- JALR (R105): jumps to a register plus immediate and writes the link register. -/
  | jalr (d : BitVec 5) (a : BitVec 5) (i : BitVec 13)
  /-- LOOP (R106): pushes a loop entry with a register count, or skips the body when the count is zero. -/
  | loop (a : BitVec 5) (o : BitVec 13)
  /-- LOOPI (R106): pushes a loop entry with an immediate count, or skips the body when the count is zero. -/
  | loopi (c : BitVec 10) (o : BitVec 13)
  /-- LIDX (R110): reads the index of a loop level. -/
  | lidx (d : BitVec 5) (l : BitVec 5)
  /-- LCNT (R110): reads the count of a loop level. -/
  | lcnt (d : BitVec 5) (l : BitVec 5)
  /-- LB (R111): loads a sign-extended byte. -/
  | lb (d : BitVec 5) (a : BitVec 5) (o : BitVec 10)
  /-- LBU (R111): loads a zero-extended byte. -/
  | lbu (d : BitVec 5) (a : BitVec 5) (o : BitVec 10)
  /-- LH (R111): loads a sign-extended half word. -/
  | lh (d : BitVec 5) (a : BitVec 5) (o : BitVec 10)
  /-- LHU (R111): loads a zero-extended half word. -/
  | lhu (d : BitVec 5) (a : BitVec 5) (o : BitVec 10)
  /-- LW (R111): loads a sign-extended word. -/
  | lw (d : BitVec 5) (a : BitVec 5) (o : BitVec 10)
  /-- LWU (R111): loads a zero-extended word. -/
  | lwu (d : BitVec 5) (a : BitVec 5) (o : BitVec 10)
  /-- LD (R111): loads a double word. -/
  | ld (d : BitVec 5) (a : BitVec 5) (o : BitVec 10)
  /-- SB (R111): stores a byte. -/
  | sb (x : BitVec 5) (a : BitVec 5) (o : BitVec 10)
  /-- SH (R111): stores a half word. -/
  | sh (x : BitVec 5) (a : BitVec 5) (o : BitVec 10)
  /-- SW (R111): stores a word. -/
  | sw (x : BitVec 5) (a : BitVec 5) (o : BitVec 10)
  /-- SD (R111): stores a double word. -/
  | sd (x : BitVec 5) (a : BitVec 5) (o : BitVec 10)
  /-- CSRR (R112): reads a CSR. -/
  | csrr (d : BitVec 5) (c : BitVec 11)
  /-- CSRW (R112): writes a CSR and returns its old value. -/
  | csrw (d : BitVec 5) (a : BitVec 5) (c : BitVec 11)
  /-- CSRS (R112): sets CSR bits and returns the old value. -/
  | csrs (d : BitVec 5) (a : BitVec 5) (c : BitVec 11)
  /-- CSRC (R112): clears CSR bits and returns the old value. -/
  | csrc (d : BitVec 5) (a : BitVec 5) (c : BitVec 11)
  /-- VDEF (R122): writes a field descriptor of base, width and type. -/
  | vdef (v : BitVec 4) (b : BitVec 9) (w : BitVec 7) (t : BitVec 3)
  /-- VUNDEF (R122): makes a field register undefined. -/
  | vundef (v : BitVec 4)
  /-- VADD (R132): adds two fields row by row. -/
  | vadd (d : BitVec 4) (a : BitVec 4) (b : BitVec 4) (n : BitVec 5) (m : BitVec 1)
  /-- VSUB (R132): subtracts two fields row by row. -/
  | vsub (d : BitVec 4) (a : BitVec 4) (b : BitVec 4) (n : BitVec 5) (m : BitVec 1)
  /-- VMUL (R132): multiplies two fields. -/
  | vmul (d : BitVec 4) (a : BitVec 4) (b : BitVec 4) (n : BitVec 5) (m : BitVec 1)
  /-- VMAC (R132): multiply-accumulates integer fields into vd. -/
  | vmac (d : BitVec 4) (a : BitVec 4) (b : BitVec 4) (n : BitVec 5) (m : BitVec 1)
  /-- VDIV (R132): divides two fields. -/
  | vdiv (d : BitVec 4) (a : BitVec 4) (b : BitVec 4) (n : BitVec 5) (m : BitVec 1)
  /-- VREM (R132): integer remainder of two fields. -/
  | vrem (d : BitVec 4) (a : BitVec 4) (b : BitVec 4) (n : BitVec 5) (m : BitVec 1)
  /-- VMIN (R132): row minimum of two fields. -/
  | vmin (d : BitVec 4) (a : BitVec 4) (b : BitVec 4) (n : BitVec 5) (m : BitVec 1)
  /-- VMAX (R132): row maximum of two fields. -/
  | vmax (d : BitVec 4) (a : BitVec 4) (b : BitVec 4) (n : BitVec 5) (m : BitVec 1)
  /-- VABS (R132): absolute value of a field. -/
  | vabs (d : BitVec 4) (a : BitVec 4) (n : BitVec 5) (m : BitVec 1)
  /-- VNEG (R132): negation of a field. -/
  | vneg (d : BitVec 4) (a : BitVec 4) (n : BitVec 5) (m : BitVec 1)
  /-- VAND (R132): bitwise AND of two fields. -/
  | vand (d : BitVec 4) (a : BitVec 4) (b : BitVec 4) (n : BitVec 5) (m : BitVec 1)
  /-- VOR (R132): bitwise OR of two fields. -/
  | vor (d : BitVec 4) (a : BitVec 4) (b : BitVec 4) (n : BitVec 5) (m : BitVec 1)
  /-- VXOR (R132): bitwise XOR of two fields. -/
  | vxor (d : BitVec 4) (a : BitVec 4) (b : BitVec 4) (n : BitVec 5) (m : BitVec 1)
  /-- VNOT (R132): bitwise NOT of a field. -/
  | vnot (d : BitVec 4) (a : BitVec 4) (n : BitVec 5) (m : BitVec 1)
  /-- VANDN (R132): bitwise a AND NOT b of fields. -/
  | vandn (d : BitVec 4) (a : BitVec 4) (b : BitVec 4) (n : BitVec 5) (m : BitVec 1)
  /-- VMOV (R132): copies the bits of a field. -/
  | vmov (d : BitVec 4) (a : BitVec 4) (n : BitVec 5) (m : BitVec 1)
  /-- VSEL (R132): selects a where tg1 is set, else b. -/
  | vsel (d : BitVec 4) (a : BitVec 4) (b : BitVec 4) (n : BitVec 5) (m : BitVec 1)
  /-- VSHLV (R132): shifts left by a per-row amount. -/
  | vshlv (d : BitVec 4) (a : BitVec 4) (b : BitVec 4) (n : BitVec 5) (m : BitVec 1)
  /-- VSHRV (R132): shifts right, flooring, by a per-row amount. -/
  | vshrv (d : BitVec 4) (a : BitVec 4) (b : BitVec 4) (n : BitVec 5) (m : BitVec 1)
  /-- VADDS (R132): saturating integer add, setting SAT on clamp. -/
  | vadds (d : BitVec 4) (a : BitVec 4) (b : BitVec 4) (n : BitVec 5) (m : BitVec 1)
  /-- VSUBS (R132): saturating integer subtract. -/
  | vsubs (d : BitVec 4) (a : BitVec 4) (b : BitVec 4) (n : BitVec 5) (m : BitVec 1)
  /-- VMULH (R132): high half of the integer product. -/
  | vmulh (d : BitVec 4) (a : BitVec 4) (b : BitVec 4) (n : BitVec 5) (m : BitVec 1)
  /-- VCLZ (R132): counts leading zero bits of a field. -/
  | vclz (d : BitVec 4) (a : BitVec 4) (n : BitVec 5) (m : BitVec 1)
  /-- VPOPC (R132): counts one bits of a field. -/
  | vpopc (d : BitVec 4) (a : BitVec 4) (n : BitVec 5) (m : BitVec 1)
  /-- VFMA (R132): fused multiply-add of float fields with one rounding. -/
  | vfma (d : BitVec 4) (a : BitVec 4) (b : BitVec 4) (n : BitVec 5) (m : BitVec 1)
  /-- VCVT (R135): converts a field to vd's type, using a scale-pair field when f4b is involved. -/
  | vcvt (d : BitVec 4) (a : BitVec 4) (b : BitVec 4) (n : BitVec 5) (m : BitVec 1)
  /-- VRND (R132): rounds a float field to an integral value. -/
  | vrnd (d : BitVec 4) (a : BitVec 4) (n : BitVec 5) (m : BitVec 1)
  /-- VRCP (R132): reciprocal of a float field. -/
  | vrcp (d : BitVec 4) (a : BitVec 4) (n : BitVec 5) (m : BitVec 1)
  /-- VRSQ (R132): reciprocal square root of a float field. -/
  | vrsq (d : BitVec 4) (a : BitVec 4) (n : BitVec 5) (m : BitVec 1)
  /-- VADDX (R138): adds a scalar to a field. -/
  | vaddx (d : BitVec 4) (a : BitVec 4) (b : BitVec 5) (n : BitVec 5) (m : BitVec 1)
  /-- VSUBX (R138): subtracts a scalar from a field. -/
  | vsubx (d : BitVec 4) (a : BitVec 4) (b : BitVec 5) (n : BitVec 5) (m : BitVec 1)
  /-- VMULX (R138): multiplies a field by a scalar. -/
  | vmulx (d : BitVec 4) (a : BitVec 4) (b : BitVec 5) (n : BitVec 5) (m : BitVec 1)
  /-- VMACX (R138): multiply-accumulates a field times a scalar into vd. -/
  | vmacx (d : BitVec 4) (a : BitVec 4) (b : BitVec 5) (n : BitVec 5) (m : BitVec 1)
  /-- VMINX (R138): minimum of a field and a scalar. -/
  | vminx (d : BitVec 4) (a : BitVec 4) (b : BitVec 5) (n : BitVec 5) (m : BitVec 1)
  /-- VMAXX (R138): maximum of a field and a scalar. -/
  | vmaxx (d : BitVec 4) (a : BitVec 4) (b : BitVec 5) (n : BitVec 5) (m : BitVec 1)
  /-- VANDX (R138): ANDs a field with scalar bits. -/
  | vandx (d : BitVec 4) (a : BitVec 4) (b : BitVec 5) (n : BitVec 5) (m : BitVec 1)
  /-- VORX (R138): ORs a field with scalar bits. -/
  | vorx (d : BitVec 4) (a : BitVec 4) (b : BitVec 5) (n : BitVec 5) (m : BitVec 1)
  /-- VXORX (R138): XORs a field with scalar bits. -/
  | vxorx (d : BitVec 4) (a : BitVec 4) (b : BitVec 5) (n : BitVec 5) (m : BitVec 1)
  /-- VSHLX (R138): shifts a field left by a scalar amount. -/
  | vshlx (d : BitVec 4) (a : BitVec 4) (b : BitVec 5) (n : BitVec 5) (m : BitVec 1)
  /-- VSHRX (R138): shifts a field right by a scalar amount. -/
  | vshrx (d : BitVec 4) (a : BitVec 4) (b : BitVec 5) (n : BitVec 5) (m : BitVec 1)
  /-- VSETX (R138): writes scalar bits into every selected row of vd. -/
  | vsetx (d : BitVec 4) (b : BitVec 5) (n : BitVec 5) (m : BitVec 1)
  /-- VRSUBX (R138): subtracts a field from a scalar. -/
  | vrsubx (d : BitVec 4) (a : BitVec 4) (b : BitVec 5) (n : BitVec 5) (m : BitVec 1)
  /-- VSCALX (R138): scales a float field by 2 to a scalar power. -/
  | vscalx (d : BitVec 4) (a : BitVec 4) (b : BitVec 5) (n : BitVec 5) (m : BitVec 1)
  /-- EQ (R141): compares two fields for equality into a tag. -/
  | eq (t : BitVec 2) (c : BitVec 2) (a : BitVec 4) (b : BitVec 4) (n : BitVec 5) (m : BitVec 1)
  /-- NE (R141): compares two fields for inequality into a tag. -/
  | ne (t : BitVec 2) (c : BitVec 2) (a : BitVec 4) (b : BitVec 4) (n : BitVec 5) (m : BitVec 1)
  /-- LT (R141): less-than compare of two fields into a tag. -/
  | lt (t : BitVec 2) (c : BitVec 2) (a : BitVec 4) (b : BitVec 4) (n : BitVec 5) (m : BitVec 1)
  /-- LE (R141): less-or-equal compare into a tag. -/
  | le (t : BitVec 2) (c : BitVec 2) (a : BitVec 4) (b : BitVec 4) (n : BitVec 5) (m : BitVec 1)
  /-- GT (R141): greater-than compare into a tag. -/
  | gt (t : BitVec 2) (c : BitVec 2) (a : BitVec 4) (b : BitVec 4) (n : BitVec 5) (m : BitVec 1)
  /-- GE (R141): greater-or-equal compare into a tag. -/
  | ge (t : BitVec 2) (c : BitVec 2) (a : BitVec 4) (b : BitVec 4) (n : BitVec 5) (m : BitVec 1)
  /-- ISNZ (R141): tests a field for non-zero into a tag. -/
  | isnz (t : BitVec 2) (c : BitVec 2) (a : BitVec 4) (n : BitVec 5) (m : BitVec 1)
  /-- EQX (R141): compares a field with a scalar key for equality. -/
  | eqx (t : BitVec 2) (c : BitVec 2) (a : BitVec 4) (b : BitVec 5) (n : BitVec 5) (m : BitVec 1)
  /-- NEX (R141): compares a field with a key for inequality. -/
  | nex (t : BitVec 2) (c : BitVec 2) (a : BitVec 4) (b : BitVec 5) (n : BitVec 5) (m : BitVec 1)
  /-- LTX (R141): less-than compare with a key. -/
  | ltx (t : BitVec 2) (c : BitVec 2) (a : BitVec 4) (b : BitVec 5) (n : BitVec 5) (m : BitVec 1)
  /-- LEX (R141): less-or-equal compare with a key. -/
  | lex (t : BitVec 2) (c : BitVec 2) (a : BitVec 4) (b : BitVec 5) (n : BitVec 5) (m : BitVec 1)
  /-- GTX (R141): greater-than compare with a key. -/
  | gtx (t : BitVec 2) (c : BitVec 2) (a : BitVec 4) (b : BitVec 5) (n : BitVec 5) (m : BitVec 1)
  /-- GEX (R141): greater-or-equal compare with a key. -/
  | gex (t : BitVec 2) (c : BitVec 2) (a : BitVec 4) (b : BitVec 5) (n : BitVec 5) (m : BitVec 1)
  /-- MATCH (R142): ternary match of a field against a key under kmask. -/
  | matchKey (t : BitVec 2) (c : BitVec 2) (a : BitVec 4) (b : BitVec 5) (n : BitVec 5) (m : BitVec 1)
  /-- RANGE (R142): tests k0 <= a < k1 with keys from two registers. -/
  | rangeKey (t : BitVec 2) (c : BitVec 2) (a : BitVec 4) (b : BitVec 5) (n : BitVec 5) (m : BitVec 1)
  /-- TSET (R125): sets a tag in every row of the range. -/
  | tset (d : BitVec 2) (n : BitVec 5)
  /-- TCLR (R125): clears a tag in the range. -/
  | tclr (d : BitVec 2) (n : BitVec 5)
  /-- TNOT (R125): writes the inverse of a tag. -/
  | tnot (d : BitVec 2) (a : BitVec 2) (n : BitVec 5)
  /-- TAND (R125): ANDs two tags. -/
  | tand (d : BitVec 2) (a : BitVec 2) (b : BitVec 2) (n : BitVec 5)
  /-- TOR (R125): ORs two tags. -/
  | tor (d : BitVec 2) (a : BitVec 2) (b : BitVec 2) (n : BitVec 5)
  /-- TXOR (R125): XORs two tags. -/
  | txor (d : BitVec 2) (a : BitVec 2) (b : BitVec 2) (n : BitVec 5)
  /-- TANDN (R125): writes ta AND NOT tb. -/
  | tandn (d : BitVec 2) (a : BitVec 2) (b : BitVec 2) (n : BitVec 5)
  /-- TMOV (R125): copies a tag. -/
  | tmov (d : BitVec 2) (a : BitVec 2) (n : BitVec 5)
  /-- TFIRST (R125): keeps only the lowest set row of a tag. -/
  | tfirst (d : BitVec 2) (a : BitVec 2) (n : BitVec 5)
  /-- TLAST (R125): keeps only the highest set row of a tag. -/
  | tlast (d : BitVec 2) (a : BitVec 2) (n : BitVec 5)
  /-- TSHUP (R125): shifts a tag toward lower rows. -/
  | tshup (d : BitVec 2) (a : BitVec 2) (n : BitVec 5)
  /-- TSHDN (R125): shifts a tag toward higher rows. -/
  | tshdn (d : BitVec 2) (a : BitVec 2) (n : BitVec 5)
  /-- TVAL (R125): copies tgv into a tag. -/
  | tval (d : BitVec 2) (n : BitVec 5)
  /-- VALT (R125): copies a tag into tgv. -/
  | valt (a : BitVec 2) (n : BitVec 5)
  /-- VCOUNT (R147): counts responder rows of a tag. -/
  | vcount (d : BitVec 5) (t : BitVec 2) (n : BitVec 5)
  /-- VANY (R147): tests whether any responder exists. -/
  | vany (d : BitVec 5) (t : BitVec 2) (n : BitVec 5)
  /-- VFIRSTX (R147): returns the offset of the lowest responder. -/
  | vfirstx (d : BitVec 5) (t : BitVec 2) (n : BitVec 5)
  /-- VEXTR (R147): extracts va of the lowest responder. -/
  | vextr (d : BitVec 5) (t : BitVec 2) (v : BitVec 4) (n : BitVec 5)
  /-- VREDSUM (R147): reduces candidates to their sum, in tree order for floats. -/
  | vredsum (d : BitVec 5) (t : BitVec 2) (v : BitVec 4) (n : BitVec 5)
  /-- VREDMAX (R147): reduces candidates to their maximum. -/
  | vredmax (d : BitVec 5) (t : BitVec 2) (v : BitVec 4) (n : BitVec 5)
  /-- VREDMIN (R147): reduces candidates to their minimum. -/
  | vredmin (d : BitVec 5) (t : BitVec 2) (v : BitVec 4) (n : BitVec 5)
  /-- VTOPK (R149): narrows a tag to the k largest candidates by bit-serial narrowing. -/
  | vtopk (d : BitVec 5) (t : BitVec 2) (v : BitVec 4) (n : BitVec 5)
  /-- VBOTK (R149): narrows a tag to the k smallest candidates. -/
  | vbotk (d : BitVec 5) (t : BitVec 2) (v : BitVec 4) (n : BitVec 5)
  /-- VMAXLOC (R147): locates the largest candidate and tags it alone. -/
  | vmaxloc (d : BitVec 5) (t : BitVec 2) (v : BitVec 4) (n : BitVec 5)
  /-- VSCANADD (R153): inclusive integer prefix sum over rows. -/
  | vscanadd (d : BitVec 4) (a : BitVec 4) (n : BitVec 5) (m : BitVec 1)
  /-- VSCANMAX (R153): inclusive integer prefix maximum over rows. -/
  | vscanmax (d : BitVec 4) (a : BitVec 4) (n : BitVec 5) (m : BitVec 1)
  /-- VROWSH (R152): moves each row's value to the next higher row. -/
  | vrowsh (d : BitVec 4) (a : BitVec 4) (n : BitVec 5) (m : BitVec 1)
  /-- VROWSHUP (R152): moves each row's value to the next lower row. -/
  | vrowshup (d : BitVec 4) (a : BitVec 4) (n : BitVec 5) (m : BitVec 1)
  /-- VIDX (R152): writes each row's offset into vd. -/
  | vidx (d : BitVec 4) (n : BitVec 5) (m : BitVec 1)
  /-- VBCASTF (R152): broadcasts va of the lowest tg1 row. -/
  | vbcastf (d : BitVec 4) (a : BitVec 4) (n : BitVec 5) (m : BitVec 1)
  /-- VFTAG (R152): copies tg0 into bit 0 of vd. -/
  | vftag (d : BitVec 4) (n : BitVec 5) (m : BitVec 1)
  /-- VTAGF (R152): copies bit 0 of va into tg0. -/
  | vtagf (a : BitVec 4) (n : BitVec 5) (m : BitVec 1)
  /-- VTLI (R158): evaluates a piecewise-linear table slot on each row. -/
  | vtli (d : BitVec 4) (a : BitVec 4) (l : BitVec 2) (n : BitVec 5) (m : BitVec 1)
  /-- VTLU (R159): looks each row's index up in a table slot. -/
  | vtlu (d : BitVec 4) (a : BitVec 4) (l : BitVec 2) (n : BitVec 5) (m : BitVec 1)
  /-- VSIMH (R152): counts agreeing bit positions of two fields. -/
  | vsimh (d : BitVec 4) (a : BitVec 4) (b : BitVec 4) (n : BitVec 5) (m : BitVec 1)
  /-- VLDA (R230): checks and starts a dense load of one element per row into a field. -/
  | vlda (d : BitVec 4) (a : BitVec 5) (n : BitVec 5) (m : BitVec 1)
  /-- VLDA_SP (R230): loads one scale pair per 32 rows into a 16-bit field. -/
  | vldaSp (d : BitVec 4) (a : BitVec 5) (n : BitVec 5) (m : BitVec 1)
  /-- VSTA (R230): checks and starts a dense store of a field, skipping rows with tgv 0. -/
  | vsta (v : BitVec 4) (a : BitVec 5) (n : BitVec 5) (m : BitVec 1)
  /-- VLDX (R230): indexed load into a field. -/
  | vldx (d : BitVec 4) (i : BitVec 4) (a : BitVec 5) (n : BitVec 5) (m : BitVec 1)
  /-- VSTX (R230): indexed store from a field. -/
  | vstx (v : BitVec 4) (i : BitVec 4) (a : BitVec 5) (n : BitVec 5) (m : BitVec 1)
  /-- VSTADD (R230): indexed atomic add of a field into memory elements. -/
  | vstadd (v : BitVec 4) (i : BitVec 4) (a : BitVec 5) (n : BitVec 5) (m : BitVec 1)
  /-- VSPILL (R231): writes a compressed spill image of a field. -/
  | vspill (v : BitVec 4) (a : BitVec 5) (n : BitVec 5)
  /-- VFILL (R231): restores a field from a spill image. -/
  | vfill (d : BitVec 4) (a : BitVec 5) (n : BitVec 5)
  /-- TLOAD (R156): starts a 512-byte read into a table buffer slot. -/
  | tload (t : BitVec 2) (a : BitVec 5)
  /-- SBIND (R237): binds a stream to a field through a binding record and starts block 0 of a load stream. -/
  | sbind (q : BitVec 3) (v : BitVec 4) (b : BitVec 5)
  /-- SUNB (R240): waits for the block in flight and unbinds the stream. -/
  | sunb (q : BitVec 3)
  /-- SBAR (R240): orders the named streams' older accesses before younger ones. -/
  | sbar (a : BitVec 5)
  /-- SWAIT (R238): starts the next block and waits until it has landed or been read. -/
  | swait (q : BitVec 3)
  /-- SSTAT (R240): returns the status of a stream. -/
  | sstat (d : BitVec 5) (q : BitVec 3)
  /-- AMOADD (R242): atomic add at the home, returning the old value. -/
  | amoadd (d : BitVec 5) (a : BitVec 5) (b : BitVec 5) (o : BitVec 2) (w : BitVec 1)
  /-- AMOAND (R242): atomic AND at the home. -/
  | amoand (d : BitVec 5) (a : BitVec 5) (b : BitVec 5) (o : BitVec 2) (w : BitVec 1)
  /-- AMOOR (R242): atomic OR at the home. -/
  | amoor (d : BitVec 5) (a : BitVec 5) (b : BitVec 5) (o : BitVec 2) (w : BitVec 1)
  /-- AMOXOR (R242): atomic XOR at the home. -/
  | amoxor (d : BitVec 5) (a : BitVec 5) (b : BitVec 5) (o : BitVec 2) (w : BitVec 1)
  /-- AMOMIN (R242): atomic signed or unsigned minimum at the home. -/
  | amomin (d : BitVec 5) (a : BitVec 5) (b : BitVec 5) (o : BitVec 2) (w : BitVec 1) (u : BitVec 1)
  /-- AMOMAX (R242): atomic signed or unsigned maximum at the home. -/
  | amomax (d : BitVec 5) (a : BitVec 5) (b : BitVec 5) (o : BitVec 2) (w : BitVec 1) (u : BitVec 1)
  /-- AMOSWAP (R242): atomic swap at the home. -/
  | amoswap (d : BitVec 5) (a : BitVec 5) (b : BitVec 5) (o : BitVec 2) (w : BitVec 1)
  /-- AMOCAS (R242): atomic compare-and-swap at the home. -/
  | amocas (d : BitVec 5) (a : BitVec 5) (b : BitVec 5) (o : BitVec 2) (w : BitVec 1)
  /-- AMAXF (R244): folds a magnitude into an FP32 scale word by maximum. -/
  | amaxf (a : BitVec 5) (b : BitVec 5)
  /-- AMAXF_REL (R244): releases at device scope, then folds a magnitude. -/
  | amaxfRel (a : BitVec 5) (b : BitVec 5)
  /-- ACQ (R245): acquire fence at a scope, self-invalidating the L1. -/
  | acq (c : BitVec 3)
  /-- REL (R245): release fence at a scope. -/
  | rel (c : BitVec 3)
  /-- FENCE (R245): full fence at a scope. -/
  | fence (c : BitVec 3)
  /-- CBGET (R247): takes a free slot of a circular buffer as producer. -/
  | cbget (d : BitVec 5) (c : BitVec 4)
  /-- CBPUT (R247): publishes the oldest producer slot as filled. -/
  | cbput (c : BitVec 4)
  /-- CBPOP (R247): takes a filled slot as consumer. -/
  | cbpop (d : BitVec 5) (c : BitVec 4)
  /-- CBREL (R247): returns the oldest consumer slot as free. -/
  | cbrel (c : BitVec 4)
  /-- CBSTAT (R247): returns a circular buffer's state. -/
  | cbstat (d : BitVec 5) (c : BitVec 4)
  /-- CBGETN (R247): takes n free slots at once. -/
  | cbgetn (d : BitVec 5) (c : BitVec 4) (b : BitVec 5)
  /-- CBPOPN (R247): takes n filled slots at once. -/
  | cbpopn (d : BitVec 5) (c : BitVec 4) (b : BitVec 5)
  /-- CBDEF (R247): defines a circular buffer from a 16-byte record. -/
  | cbdef (c : BitVec 4) (b : BitVec 5)
  /-- STRIP (R249): opens a strip that holds the hart's vector stores. -/
  | strip (a : BitVec 5)
  /-- FARM (R188): declares a farm slot with total and strip size. -/
  | farm (f : BitVec 3) (a : BitVec 5) (b : BitVec 5)
  /-- FNEXT (R189): draws the next strip base from a farm slot. -/
  | fnext (d : BitVec 5) (f : BitVec 3)
  /-- XREDADD (R196): sums one scalar from each participant of the team. -/
  | xredadd (d : BitVec 5) (a : BitVec 5)
  /-- XREDMAX (R196): maximum of the participants' scalars. -/
  | xredmax (d : BitVec 5) (a : BitVec 5) (u : BitVec 1)
  /-- XREDMIN (R196): minimum of the participants' scalars. -/
  | xredmin (d : BitVec 5) (a : BitVec 5) (u : BitVec 1)
  /-- XSCANADD (R196): prefix sum over participants by hid. -/
  | xscanadd (d : BitVec 5) (a : BitVec 5)
  /-- XBCAST (R196): broadcasts the root participant's value. -/
  | xbcast (d : BitVec 5) (a : BitVec 5) (b : BitVec 5)
  /-- XREDFADD (R196): floating sum over participants in tree order. -/
  | xredfadd (d : BitVec 5) (a : BitVec 5) (f : BitVec 2)
  /-- CQAPP (R279): appends a list of command records to a chain's batch. -/
  | cqapp (d : BitVec 5) (c : BitVec 5) (b : BitVec 5)
  /-- CQGO (R280): releases and hands the chain's batch to the engine. -/
  | cqgo (c : BitVec 5)
  /-- CQWAIT (R281): waits until DONESEQ reaches a sequence number, then acquires. -/
  | cqwait (c : BitVec 5) (b : BitVec 5)
  /-- CQSTAT (R283): returns the chain's status. -/
  | cqstat (d : BitVec 5) (c : BitVec 5)
  /-- CQDONE (R282): returns whether a given command has completed. -/
  | cqdone (d : BitVec 5) (c : BitVec 5) (b : BitVec 5)
  /-- MMA (R300): checks and queues a matrix multiply of A rows against a B latch with a drain program. -/
  | mma (k : BitVec 1) (a : BitVec 5) (c : BitVec 5) (n : BitVec 5) (p : BitVec 5) (m : BitVec 1) (f : BitVec 1)
  /-- MLDB (R299): checks and queues a load of a B latch. -/
  | mldb (l : BitVec 1) (a : BitVec 5) (b : BitVec 5)
  /-- MLIC_ACQ (R307): posts a licence request and returns whether the licence is held. -/
  | mlicAcq (d : BitVec 5)
  /-- MLIC_ST (R308): returns the licence status word. -/
  | mlicSt (d : BitVec 5)
  /-- DPLOAD (R316): checks a drain program image and parameters for a slot. -/
  | dpload (d : BitVec 5) (a : BitVec 5) (b : BitVec 5)
  /-- DPINFO (R319): returns a drain slot's status. -/
  | dpinfo (d : BitVec 5) (a : BitVec 5)
  /-- KVFIND (R341): finds and references a block by parent and tokens. -/
  | kvfind (d : BitVec 5) (a : BitVec 5) (b : BitVec 5)
  /-- KVINS (R341): finds or inserts a block, allocating the lowest free frame. -/
  | kvins (d : BitVec 5) (a : BitVec 5) (b : BitVec 5)
  /-- KVPIN (R342): pins a live block's frame. -/
  | kvpin (d : BitVec 5) (a : BitVec 5)
  /-- KVUNPIN (R342): releases and unpins a frame, freeing an orphan at zero pins. -/
  | kvunpin (d : BitVec 5) (a : BitVec 5)
  /-- KVREF (R343): adjusts a block's refcount, marks it ready, and removes it at zero with a cascade. -/
  | kvref (d : BitVec 5) (a : BitVec 5) (b : BitVec 5)
  /-- KVWIN (R346): sets the sliding-window edge of a load stream. -/
  | kvwin (q : BitVec 3) (a : BitVec 5)
  /-- NRD (R399): reads a Narrows slot. -/
  | nrd (d : BitVec 5) (t : BitVec 5)
  /-- NWR (R399): writes a Narrows slot, emptying a kept half of this hart. -/
  | nwr (t : BitVec 5) (b : BitVec 5)
  /-- NSWAP (R400): exchanges 64-bit halves with the twin side as one step. -/
  | nswap (d : BitVec 5) (t : BitVec 5) (b : BitVec 5)
  /-- FPUSH (R403): takes an outgoing Ferry entry and reads a 64-byte row into it. -/
  | fpush (a : BitVec 5)
  /-- FPOP (R403): takes the oldest incoming Ferry entry and writes it to a row. -/
  | fpop (a : BitVec 5)
  /-- FCNT (R405): returns the Ferry counters and gate state. -/
  | fcnt (d : BitVec 5)
  /-- PGREQ (R406): requests gating or ungating of the upper core. -/
  | pgreq (d : BitVec 5) (a : BitVec 5)
  /-- TBAR (R400): meets the twin side at a barrier point without data. -/
  | tbar (k : BitVec 5)
  /-- SVSAVE (R361): saves a held hart into a hart record. -/
  | svsave (d : BitVec 5) (a : BitVec 5) (b : BitVec 5)
  /-- SVREST (R361): restores a saved hart from a hart record. -/
  | svrest (d : BitVec 5) (a : BitVec 5) (b : BitVec 5)
  /-- SLREPLAY (R360): replays a side log or resumes a park slot. -/
  | slreplay (d : BitVec 5) (a : BitVec 5)
  /-- TLBINV (R368): performs a shoot-down from a descriptor and waits for it. -/
  | tlbinv (d : BitVec 5) (a : BitVec 5)
  /-- HFREEZE (R364): freezes a master and optionally fails it. -/
  | hfreeze (d : BitVec 5) (a : BitVec 5) (b : BitVec 5)
  /-- HTHAW (R364): thaws a frozen master. -/
  | hthaw (d : BitVec 5) (a : BitVec 5)
  /-- ESLOAD (R369): loads the die pair's eviction schedule. -/
  | esload (d : BitVec 5) (a : BitVec 5) (b : BitVec 5)
  /-- ESTEP (R369): advances the eviction step counter. -/
  | estep (d : BitVec 5)
  /-- LBRK (R110): pops the innermost loop entry and continues after its end. -/
  | lbrk
  /-- LSKIP (R110): performs the loop-end step of the innermost entry at once. -/
  | lskip
  /-- SCALL (R115): retires and raises the SCALL trap. -/
  | scall
  /-- BRK (R115): retires and raises the BRK trap. -/
  | brk
  /-- TRET (R47): returns from a trap handler, restoring the prefix latch. -/
  | tret
  /-- WFE (R117): waits for the hart's event latch, clearing it on completion. -/
  | wfe
  /-- YIELD (R171): bars the hart for its next selection and ends its GTO current status. -/
  | yield
  /-- EXIT (R119): releases at device scope and ends the hart. -/
  | exit
  /-- SNAPT (R118): raises the common snapshot trigger. -/
  | snapt
  /-- SRET (R356): ends a supervisor routine, applies the disposition and dequeues the event; PRIV in a hart. -/
  | sret
  /-- SCOMMIT (R250): translates the strip's pages and commits or discards the strip. -/
  | scommit
  /-- SABORT (R251): discards the open strip. -/
  | sabort
  /-- BAR (R191): arrives at the team barrier and waits for the phase. -/
  | bar
  /-- ARRIVE (R191): arrives at the team barrier without waiting. -/
  | arrive
  /-- AWAIT (R191): waits for the pending phase to complete. -/
  | await
  /-- MWAIT (R305): waits for the hart's MMAs and MLDBs and their drain stores, then acquires. -/
  | mwait
  /-- MLIC_ACQW (R307): requests the licence and waits until it is held. -/
  | mlicAcqw
  /-- MLIC_REL (R307): releases the licence once queued MMAs have streamed, or cancels a pending request. -/
  | mlicRel
  /-- TSYNC_EXPIRY (R423): TSYNC falls to 0 when the last PTM exchange is 10 ms old. -/
  | tsyncExpiry
  /-- SNAPSHOT_TRIGGER (R428): triggers the snapshot, latching every block's state if armed. -/
  | snapshotTrigger
  /-- SNAPSHOT_REARM (R428): re-arms the snapshot and clears the missed count. -/
  | snapshotRearm
  /-- PLIMIT_EXCEEDED (R435): module power above PLIMIT makes the controller apply warm and hot steps. -/
  | plimitExceeded
  /-- HARD_TRIP (R394): the module controller removes power and all state is lost. -/
  | hardTrip
  /-- DEVICE_RESET (R165): columns, slots, latches and typed spaces take their reset state. -/
  | deviceReset
  /-- GET_VERSION (R431): SPDM version request on port 0. -/
  | getVersion
  /-- GET_CAPABILITIES (R431): SPDM capabilities request. -/
  | getCapabilities
  /-- NEGOTIATE_ALGORITHMS (R431): SPDM algorithm negotiation. -/
  | negotiateAlgorithms
  /-- GET_DIGESTS (R431): SPDM certificate digests request. -/
  | getDigests
  /-- NON_INSTRUCTION_WORD (R78): a hart issues a word with a reserved major, an unassigned function value, a broken value range or a non-zero reserved bit, and the word raises ILL. -/
  | nonInstructionWord
  /-- INSTRUCTION_FETCH_FAULT (R353): fetching the next word faults by BOUNDS at 2^52, by LDPF on an invalid translation, or by UCE on a poisoned line, before any word is decoded. -/
  | instructionFetchFault
  /-- DIVIDER_RESULT (R99): the cluster divider writes a division or remainder result to its scoreboarded register after 4 to 36 cycles. -/
  | dividerResult (h : HartKey)
  /-- LOAD_RETURN (R81): a scalar load, AMO or other scoreboarded result returns and is written to its register. -/
  | loadReturn (h : HartKey)
  /-- WFE_TIMEOUT (R117): a WFE completes 65,536 cycles after issue without an event. -/
  | wfeTimeout (h : HartKey)
  /-- VMEM_TRANSFER (R233): the background transfer of a retired VMEM instruction moves its rows through array windows and completes. -/
  | vmemTransfer (h : HartKey)
  /-- TABLE_SLOT_WRITE (R156): when all 512 bytes of a TLOAD have arrived, the slot is written in one piece and tagged with the context. -/
  | tableSlotWrite (h : HartKey)
  /-- STREAM_BLOCK (R238): a bound stream's block finishes moving its rows, releasing a waiting SWAIT or recording a late fault. -/
  | streamBlock (h : HartKey) (q : BitVec 3)
  /-- HOME_WRITE (R254): a write reaches its home, is ordered in the word's modification order, revokes other owners and is acknowledged. -/
  | homeWrite (h : HartKey)
  /-- STRIP_DRAIN (R250): a committed strip's granules drain to memory in the background and free the share. -/
  | stripDrain (h : HartKey)
  /-- LATCH_LOAD (R299): a started MLDB reads its image and the latch takes image and formats as one change. -/
  | latchLoad (core : CoreId)
  /-- MMA_A_STREAM (R302): a queued MMA starts and streams its A rows, accumulating into C rows. -/
  | mmaAStream (core : CoreId)
  /-- MMA_MIGRATION (R310): an MMA that waited past migwait is sent to a neighbour core and its tile returned. -/
  | mmaMigration (core : CoreId)
  /-- DRAIN_ROW (R320): the drain runs the slot's program on one accumulated C row. -/
  | drainRow (core : CoreId)
  /-- DRAIN_SLOT_LOAD (R316): once no queue entry or drain names the slot, the program and parameters take effect. -/
  | drainSlotLoad (h : HartKey)
  /-- LICENCE_RELEASE (R307): a pending licence release takes effect once queued MMAs have read their last A row, starting the gap. -/
  | licenceRelease (pair : PairKey)
  /-- BALLAST_STEP (R410): every 30 cycles of the hand-over gap the ballast rate steps by one eighth. -/
  | ballastStep (pair : PairKey)
  /-- LICENCE_GRANT (R306): the licence passes to the oldest pending request at the end of the gap or 8 cycles after a request. -/
  | licenceGrant (pair : PairKey)
  /-- SLOT_TABLE_TURN (R309): a slot-table entry becomes current each microsecond and may force the licence to its context. -/
  | slotTableTurn (pair : PairKey)
  /-- FERRY_ENTRY_FILLED (R403): after its release, a push fills its taken entry, raising FILL and waking a waiting pop. -/
  | ferryEntryFilled (h : HartKey)
  /-- TWINTO (R400): an unpaired NSWAP or TBAR traps when its ntimeo limit runs out, leaving its place kept. -/
  | twinto (h : HartKey)
  /-- GATE_POWER_REMOVED (R407): after the stop, spill and ramp-down, power of the upper core is removed in 2 µs. -/
  | gatePowerRemoved (pair : PairKey)
  /-- UNGATE_POWER_RETURNED (R407): power returns in 5 µs and the upper core's state and licence are restored. -/
  | ungatePowerReturned (pair : PairKey)
  /-- WALK (R218): a page walk completes, filling a TLB entry or faulting. -/
  | walk (core : CoreId) (ctx : Nat) (va : Dword) (use : Access)
  /-- SUPERVISOR_ROUTINE_START (R354): the steward copies the head event into its CSRs and starts the routine at svec. -/
  | supervisorRoutineStart (core : CoreId)
  /-- TEAM_PLACEMENT (R176): a waiting team is placed on a core with room, its spaces cleared and its harts started. -/
  | teamPlacement (launch : Nat) (core : CoreId)
  /-- GANG_START (R424): when device time reaches GTICK the held harts of a gang launch become eligible. -/
  | gangStart (launch : Nat)
  /-- RESIDENCY_CLEAR (R164): columns, tags and tgv freed by an ended hart are cleared between array instructions. -/
  | residencyClear (cluster : ClusterKey)
  /-- LAUNCH_COMPLETION (R185): after its last team retires, a launch writes its completion record with a release. -/
  | launchCompletion (launch : Nat)
  /-- COPY (R287): copies rows from SRC to DST. -/
  | copy (core : CoreId) (chain : Nat)
  /-- GATHER (R288): gathers indexed table rows into packed rows in index batches. -/
  | gather (core : CoreId) (chain : Nat)
  /-- SCATTER (R288): scatters packed rows into indexed table rows. -/
  | scatter (core : CoreId) (chain : Nat)
  /-- FILL (R287): fills a range with an 8-byte pattern. -/
  | fill (core : CoreId) (chain : Nat)
  /-- MIGRATE (R224): moves one 64 KiB page to a new frame and shoots it down. -/
  | migrate (core : CoreId) (chain : Nat)
  /-- MARKER (R276): does no work and completes when it starts. -/
  | marker (core : CoreId) (chain : Nat)
  /-- MMAF (R291): places an MMA from a command record into the matrix queue. -/
  | mmaf (core : CoreId) (chain : Nat)
  /-- COLL (R418): one participant's collective reduction or broadcast. -/
  | coll (core : CoreId) (chain : Nat)
  /-- LAUNCH (R173): reads and checks a launch record and begins placing its teams. -/
  | launch (core : CoreId) (chain : Nat)
  /-- COMMAND_COMPLETION (R284): a command's writes are performed, its record written, its done bit set and DONESEQ advanced. -/
  | commandCompletion (core : CoreId) (chain : Nat)
  /-- COLL_TIMEOUT_EXPIRY (R419): an absent participant at the collective timeout ends every participant with status 7. -/
  | collTimeoutExpiry (tag : Word)
  /-- UNCORRECTABLE_ERROR (R365): an uncorrectable ECC error poisons, fences or fails according to the storage it strikes. -/
  | uncorrectableError (site : ErrorSite)
  /-- SCHEDULER_TICK (R374): each microsecond the partition's deficit is charged and the turn may pass with a pre-emption decision. -/
  | schedulerTick (part : Nat)
  /-- SWITCH_INSTANT (R375): the tick at which the outgoing context has stopped hands the turn to the incoming queue. -/
  | switchInstant (part : Nat)
  /-- SHADOW_SWAP (R380): a cluster swaps its sequencer state with the shadow bank once its harts have stopped. -/
  | shadowSwap (cluster : ClusterKey)
  /-- CONTEXT_SPILL (R381): the context engine writes the outgoing context into its save area in the order of R389. -/
  | contextSpill (ctx : Nat)
  /-- CONTEXT_RESTORE (R382): the context engine fills the incoming context's harts and core state before they issue. -/
  | contextRestore (ctx : Nat)
  /-- LINK_DOWN (R416): a Causeway link is declared down, traffic reroutes and far-side teams are fenced. -/
  | linkDown (p q : Nat)
  /-- HOST_PEER_WRITE (R269): a host or peer write is performed at its home in arrival order. -/
  | hostPeerWrite (at_ : Nat) (bytes : List Byte)
  /-- HOST_PEER_READ (R269): a host or peer read returns the value at the home. -/
  | hostPeerRead (at_ : Nat) (n : Nat)
  /-- PTM_EXCHANGE (R423): a PTM exchange aligns device time and sets TSYNC. -/
  | ptmExchange (time : Nat)
  /-- DOORBELL (R425): a doorbell write hands a queue's batch over. -/
  | doorbell (queue : Nat)
  /-- APPEND_REGISTER (R437): a list address written to an append register is appended whole to the queue's chain and handed over. -/
  | appendRegister (queue : Nat) (list : Dword)
  /-- CONTEXT_TABLE_WRITE (R371): a host write to a context table entry, refused while the context has state. -/
  | contextTableWrite (ctx : Nat) (entry : BitVec 512)
  /-- QUEUE_DESCRIPTOR_WRITE (R373): a host write of a queue descriptor binds or refuses its chain. -/
  | queueDescriptorWrite (queue : Nat) (desc : BitVec 128)
  /-- REGISTER_WRITE (R426): a write to a host register without a row of its own, such as DEVNUM or PLIMIT. -/
  | registerWrite (offset : Nat) (value : Dword)
  /-- RESYNC (R395): writes the resync summary to a host address within 2 ms. -/
  | resync (at_ : Dword)
  /-- KEY_LOAD (R427): loads an XTS key slot from a host key record. -/
  | keyLoad (slot : Nat) (at_ : Dword)
  /-- UNFENCE (R427): tests and unfences clusters of a core. -/
  | unfence (core : CoreId) (mask : Byte)
  /-- UNGATE (R427): ungates a gated upper core. -/
  | ungate (core : CoreId)
  /-- PRE_EMPT (R377): passes the partition's turn, or gives it to a named queue, or ends a hold. -/
  | preEmpt (part : Nat) (queue : Option Nat)
  /-- PRE_EMPT_HOLD (R377): stops and saves the active context and holds the partition idle. -/
  | preEmptHold (part : Nat)
  /-- ASSIGN_PAIR (R372): assigns a die pair to a partition. -/
  | assignPair (pair : Nat) (part : Nat) (valid : Bool)
  /-- EMERGENCY_ADDRESS (R392): sets the host address for the emergency summary. -/
  | emergencyAddress (at_ : Dword)
  /-- COLLECTIVE_TIMEOUT (R427): sets the collective timeout in µs. -/
  | collectiveTimeout (us : Nat)
  /-- THAW_FUNCTION (R427): thaws a frozen PCIe function. -/
  | thawFunction (fn : Nat)
  /-- SYSTEM_APPEND (R427): appends a record list to a core's system chain and hands it over. -/
  | systemAppend (core : CoreId) (list : Dword)
  /-- THERMAL_LEVEL_CHANGE (R435): a die's thermal level changes and throttling, snapshot and emergency save follow. -/
  | thermalLevelChange (die : Nat) (level : Thermal)
  /-- POWER_ON (R430): the boot controller verifies and measures the boot image chain. -/
  | powerOn (images : List BootImage)
  /-- GET_CERTIFICATE (R431): SPDM certificate request. -/
  | getCertificate (slot : Nat)
  /-- CHALLENGE (R431): SPDM challenge signed with P-521. -/
  | challenge (nonce : BitVec 256)
  /-- GET_MEASUREMENTS (R431): SPDM measurements request. -/
  | getMeasurements (nonce : BitVec 256)
  /-- KEY_EXCHANGE (R431): SPDM session key exchange. -/
  | keyExchange (exchange : List Byte)
  /-- FINISH (R431): SPDM session finish. -/
  | finish (verify : List Byte)
  /-- IDE_KM (R431): sets IDE keys for port 0 inside the SPDM session. -/
  | ideKm (keys : List Byte)
  /-- FLUSH_READ_COMPLETION (R270): the host or a peer completes the zero-length flush read, acknowledging posted writes so that a system-scope release can complete. -/
  | flushReadCompletion (fn : Nat)
  /-- HOST_PEER_ATOMIC (R421): a host or peer function's AtomicOp (FetchAdd, Swap or CAS) reaches this device's memory and is performed at the home as one read-modify-write. -/
  | hostPeerAtomic (op : PeerAtomic) (at_ : Nat) (wide : Bool) (operand compare : Dword)
  /-- PORT_LINK_CHANGE (R422): a PCIe port comes up to a device or goes down, which decides whether DEVNUM may be written and whether requests to that device number raise UCE. -/
  | portLinkChange (port : Nat) (up : Bool)
  /-- COLL_PEER_CONTRIBUTION (R418): the contribution of a collective participant on a peer device arrives over a peer link, letting the collective complete or detect disagreement. -/
  | collPeerContribution (part : CollInput)
deriving DecidableEq, Repr

end Sys2Proof
end

