-- ==== Sys2Proof/WellFormed.lean ====
section
/-! DEFINITION. Well-formed instructions: the value ranges that the layouts of 03 R77 put on a word's fields beyond their
widths. Every event is well formed. -/

namespace Sys2Proof

/-- The value ranges of R77, R84, R122, R140, R195 and R245; a CQ word names a chain 0 to 15, or 16 in the steward
(12 R274, R278). -/
def Instr.WellFormed : Instr → Prop
  | .pfx _ _ c r => c = 1 ∨ r = 0
  | .loop _ o => o ≠ 0
  | .loopi _ o => o ≠ 0
  | .lidx _ l => l.toNat ≤ 5
  | .lcnt _ l => l.toNat ≤ 5
  | .vdef _ _ w _ => w ≠ 0 ∧ w.toNat ≤ 64
  | .rangeKey _ _ _ b _ _ => b.toNat ≠ 31
  | .acq c => c.toNat ≤ 4
  | .rel c => c.toNat ≤ 4
  | .fence c => c.toNat ≤ 4
  | .xredfadd _ _ f => f.toNat ≤ 2
  | .cqapp _ c _ => c.toNat ≤ 16
  | .cqgo c => c.toNat ≤ 16
  | .cqwait c _ => c.toNat ≤ 16
  | .cqstat _ c => c.toNat ≤ 16
  | .cqdone _ c _ => c.toNat ≤ 16
  | _ => True

/-- WellFormed as a check that computes. -/
def Instr.wf : Instr → Bool
  | .pfx _ _ c r => decide (c = 1 ∨ r = 0)
  | .loop _ o => decide (o ≠ 0)
  | .loopi _ o => decide (o ≠ 0)
  | .lidx _ l => decide (l.toNat ≤ 5)
  | .lcnt _ l => decide (l.toNat ≤ 5)
  | .vdef _ _ w _ => decide (w ≠ 0 ∧ w.toNat ≤ 64)
  | .rangeKey _ _ _ b _ _ => decide (b.toNat ≠ 31)
  | .acq c => decide (c.toNat ≤ 4)
  | .rel c => decide (c.toNat ≤ 4)
  | .fence c => decide (c.toNat ≤ 4)
  | .xredfadd _ _ f => decide (f.toNat ≤ 2)
  | .cqapp _ c _ => decide (c.toNat ≤ 16)
  | .cqgo c => decide (c.toNat ≤ 16)
  | .cqwait c _ => decide (c.toNat ≤ 16)
  | .cqstat _ c => decide (c.toNat ≤ 16)
  | .cqdone _ c _ => decide (c.toNat ≤ 16)
  | _ => true

/-- The check decides the predicate. -/
theorem Instr.wf_iff (i : Instr) : i.wf = true ↔ i.WellFormed := by
  cases i <;> simp [Instr.wf, Instr.WellFormed]

end Sys2Proof
end

