-- ==== Sys2Proof/Decode.lean ====
section
/-! DEFINITION. Decoding and encoding of instruction words (03 R72 to R79). The decoder is total: a word that is no
instruction, whatever of R78 it breaks, decodes to none. A word is read as a number w, bit 0 least significant. -/

namespace Sys2Proof

/-- The n bits of w from bit lo up. -/
def fld (w lo n : Nat) : BitVec n := BitVec.ofNat n (w / 2 ^ lo)

/-- Major 0x02 (03 R77), by its function value in bits [10:3]. -/
def decodeAlu (w : Nat) : Option Instr :=
  match w / 8 % 256 with
  | 0x00 => some (.add (fld w 21 5) (fld w 16 5) (fld w 11 5))
  | 0x01 => some (.sub (fld w 21 5) (fld w 16 5) (fld w 11 5))
  | 0x02 => some (.and (fld w 21 5) (fld w 16 5) (fld w 11 5))
  | 0x03 => some (.or (fld w 21 5) (fld w 16 5) (fld w 11 5))
  | 0x04 => some (.xor (fld w 21 5) (fld w 16 5) (fld w 11 5))
  | 0x05 => some (.andn (fld w 21 5) (fld w 16 5) (fld w 11 5))
  | 0x06 => some (.sll (fld w 21 5) (fld w 16 5) (fld w 11 5))
  | 0x07 => some (.srl (fld w 21 5) (fld w 16 5) (fld w 11 5))
  | 0x08 => some (.sra (fld w 21 5) (fld w 16 5) (fld w 11 5))
  | 0x09 => some (.slt (fld w 21 5) (fld w 16 5) (fld w 11 5))
  | 0x0A => some (.sltu (fld w 21 5) (fld w 16 5) (fld w 11 5))
  | 0x0B => some (.min (fld w 21 5) (fld w 16 5) (fld w 11 5))
  | 0x0C => some (.max (fld w 21 5) (fld w 16 5) (fld w 11 5))
  | 0x0D => some (.minu (fld w 21 5) (fld w 16 5) (fld w 11 5))
  | 0x0E => some (.maxu (fld w 21 5) (fld w 16 5) (fld w 11 5))
  | 0x0F => some (.csel (fld w 21 5) (fld w 16 5) (fld w 11 5))
  | 0x10 => some (.mul (fld w 21 5) (fld w 16 5) (fld w 11 5))
  | 0x11 => some (.mulh (fld w 21 5) (fld w 16 5) (fld w 11 5))
  | 0x12 => some (.mulhu (fld w 21 5) (fld w 16 5) (fld w 11 5))
  | 0x13 => some (.div (fld w 21 5) (fld w 16 5) (fld w 11 5))
  | 0x14 => some (.divu (fld w 21 5) (fld w 16 5) (fld w 11 5))
  | 0x15 => some (.rem (fld w 21 5) (fld w 16 5) (fld w 11 5))
  | 0x16 => some (.remu (fld w 21 5) (fld w 16 5) (fld w 11 5))
  | 0x17 => if w / 2048 % 32 = 0 then some (.clz (fld w 21 5) (fld w 16 5)) else none
  | 0x18 => if w / 2048 % 32 = 0 then some (.ctz (fld w 21 5) (fld w 16 5)) else none
  | 0x19 => if w / 2048 % 32 = 0 then some (.popc (fld w 21 5) (fld w 16 5)) else none
  | 0x1A => if w / 2048 % 32 = 0 then some (.brev (fld w 21 5) (fld w 16 5)) else none
  | _ => none

/-- Major 0x09 (03 R77), by its function value in bits [15:14]. -/
def decodeShi (w : Nat) : Option Instr :=
  match w / 16384 % 4 with
  | 0x00 => if w / 512 % 32 = 0 then some (.slli (fld w 21 5) (fld w 16 5) (fld w 3 6)) else none
  | 0x01 => if w / 512 % 32 = 0 then some (.srli (fld w 21 5) (fld w 16 5) (fld w 3 6)) else none
  | 0x02 => if w / 512 % 32 = 0 then some (.srai (fld w 21 5) (fld w 16 5) (fld w 3 6)) else none
  | _ => none

/-- Major 0x16 (03 R77), by its function value in bits [10:3]. -/
def decodeLctl (w : Nat) : Option Instr :=
  match w / 8 % 256 with
  | 0x00 => if w / 2048 % 32768 = 0 then some (.lbrk) else none
  | 0x01 => if w / 2048 % 32 = 0 ∧ (fld w 16 5).toNat ≤ 5 then some (.lidx (fld w 21 5) (fld w 16 5)) else none
  | 0x02 => if w / 2048 % 32 = 0 ∧ (fld w 16 5).toNat ≤ 5 then some (.lcnt (fld w 21 5) (fld w 16 5)) else none
  | 0x03 => if w / 2048 % 32768 = 0 then some (.lskip) else none
  | _ => none

/-- Major 0x17 (03 R77), by its function value in bits [5:3]. -/
def decodeLd (w : Nat) : Option Instr :=
  match w / 8 % 8 with
  | 0x00 => some (.lb (fld w 21 5) (fld w 16 5) (fld w 6 10))
  | 0x01 => some (.lbu (fld w 21 5) (fld w 16 5) (fld w 6 10))
  | 0x02 => some (.lh (fld w 21 5) (fld w 16 5) (fld w 6 10))
  | 0x03 => some (.lhu (fld w 21 5) (fld w 16 5) (fld w 6 10))
  | 0x04 => some (.lw (fld w 21 5) (fld w 16 5) (fld w 6 10))
  | 0x05 => some (.lwu (fld w 21 5) (fld w 16 5) (fld w 6 10))
  | 0x06 => some (.ld (fld w 21 5) (fld w 16 5) (fld w 6 10))
  | _ => none

/-- Major 0x18 (03 R77), by its function value in bits [5:3]. -/
def decodeSt (w : Nat) : Option Instr :=
  match w / 8 % 8 with
  | 0x00 => some (.sb (fld w 21 5) (fld w 16 5) (fld w 6 10))
  | 0x02 => some (.sh (fld w 21 5) (fld w 16 5) (fld w 6 10))
  | 0x04 => some (.sw (fld w 21 5) (fld w 16 5) (fld w 6 10))
  | 0x06 => some (.sd (fld w 21 5) (fld w 16 5) (fld w 6 10))
  | _ => none

/-- Major 0x19 (03 R77), by its function value in bits [4:3]. -/
def decodeCsr (w : Nat) : Option Instr :=
  match w / 8 % 4 with
  | 0x00 => if w / 65536 % 32 = 0 then some (.csrr (fld w 21 5) (fld w 5 11)) else none
  | 0x01 => some (.csrw (fld w 21 5) (fld w 16 5) (fld w 5 11))
  | 0x02 => some (.csrs (fld w 21 5) (fld w 16 5) (fld w 5 11))
  | 0x03 => some (.csrc (fld w 21 5) (fld w 16 5) (fld w 5 11))
  | _ => none

/-- Major 0x1A (03 R77), by its function value in bits [10:3]. -/
def decodeSys (w : Nat) : Option Instr :=
  match w / 8 % 256 with
  | 0x01 => if w / 2048 % 32768 = 0 then some (.scall) else none
  | 0x02 => if w / 2048 % 32768 = 0 then some (.brk) else none
  | 0x03 => if w / 2048 % 32768 = 0 then some (.tret) else none
  | 0x04 => if w / 2048 % 32768 = 0 then some (.wfe) else none
  | 0x05 => if w / 2048 % 32768 = 0 then some (.yield) else none
  | 0x06 => if w / 2048 % 32768 = 0 then some (.exit) else none
  | 0x07 => if w / 2048 % 32768 = 0 then some (.snapt) else none
  | 0x10 => if w / 2048 % 32768 = 0 then some (.sret) else none
  | _ => none

/-- Major 0x1D (03 R77), by its function value in bits [7:3]. -/
def decodeVarith (w : Nat) : Option Instr :=
  match w / 8 % 32 with
  | 0x00 => some (.vadd (fld w 22 4) (fld w 18 4) (fld w 14 4) (fld w 9 5) (fld w 8 1))
  | 0x01 => some (.vsub (fld w 22 4) (fld w 18 4) (fld w 14 4) (fld w 9 5) (fld w 8 1))
  | 0x02 => some (.vmul (fld w 22 4) (fld w 18 4) (fld w 14 4) (fld w 9 5) (fld w 8 1))
  | 0x03 => some (.vmac (fld w 22 4) (fld w 18 4) (fld w 14 4) (fld w 9 5) (fld w 8 1))
  | 0x04 => some (.vdiv (fld w 22 4) (fld w 18 4) (fld w 14 4) (fld w 9 5) (fld w 8 1))
  | 0x05 => some (.vrem (fld w 22 4) (fld w 18 4) (fld w 14 4) (fld w 9 5) (fld w 8 1))
  | 0x06 => some (.vmin (fld w 22 4) (fld w 18 4) (fld w 14 4) (fld w 9 5) (fld w 8 1))
  | 0x07 => some (.vmax (fld w 22 4) (fld w 18 4) (fld w 14 4) (fld w 9 5) (fld w 8 1))
  | 0x08 => if w / 16384 % 16 = 0 then some (.vabs (fld w 22 4) (fld w 18 4) (fld w 9 5) (fld w 8 1)) else none
  | 0x09 => if w / 16384 % 16 = 0 then some (.vneg (fld w 22 4) (fld w 18 4) (fld w 9 5) (fld w 8 1)) else none
  | 0x0A => some (.vand (fld w 22 4) (fld w 18 4) (fld w 14 4) (fld w 9 5) (fld w 8 1))
  | 0x0B => some (.vor (fld w 22 4) (fld w 18 4) (fld w 14 4) (fld w 9 5) (fld w 8 1))
  | 0x0C => some (.vxor (fld w 22 4) (fld w 18 4) (fld w 14 4) (fld w 9 5) (fld w 8 1))
  | 0x0D => if w / 16384 % 16 = 0 then some (.vnot (fld w 22 4) (fld w 18 4) (fld w 9 5) (fld w 8 1)) else none
  | 0x0E => some (.vandn (fld w 22 4) (fld w 18 4) (fld w 14 4) (fld w 9 5) (fld w 8 1))
  | 0x0F => if w / 16384 % 16 = 0 then some (.vmov (fld w 22 4) (fld w 18 4) (fld w 9 5) (fld w 8 1)) else none
  | 0x10 => some (.vsel (fld w 22 4) (fld w 18 4) (fld w 14 4) (fld w 9 5) (fld w 8 1))
  | 0x11 => some (.vshlv (fld w 22 4) (fld w 18 4) (fld w 14 4) (fld w 9 5) (fld w 8 1))
  | 0x12 => some (.vshrv (fld w 22 4) (fld w 18 4) (fld w 14 4) (fld w 9 5) (fld w 8 1))
  | 0x13 => some (.vadds (fld w 22 4) (fld w 18 4) (fld w 14 4) (fld w 9 5) (fld w 8 1))
  | 0x14 => some (.vsubs (fld w 22 4) (fld w 18 4) (fld w 14 4) (fld w 9 5) (fld w 8 1))
  | 0x15 => some (.vmulh (fld w 22 4) (fld w 18 4) (fld w 14 4) (fld w 9 5) (fld w 8 1))
  | 0x16 => if w / 16384 % 16 = 0 then some (.vclz (fld w 22 4) (fld w 18 4) (fld w 9 5) (fld w 8 1)) else none
  | 0x17 => if w / 16384 % 16 = 0 then some (.vpopc (fld w 22 4) (fld w 18 4) (fld w 9 5) (fld w 8 1)) else none
  | 0x18 => some (.vfma (fld w 22 4) (fld w 18 4) (fld w 14 4) (fld w 9 5) (fld w 8 1))
  | 0x19 => some (.vcvt (fld w 22 4) (fld w 18 4) (fld w 14 4) (fld w 9 5) (fld w 8 1))
  | 0x1A => if w / 16384 % 16 = 0 then some (.vrnd (fld w 22 4) (fld w 18 4) (fld w 9 5) (fld w 8 1)) else none
  | 0x1B => if w / 16384 % 16 = 0 then some (.vrcp (fld w 22 4) (fld w 18 4) (fld w 9 5) (fld w 8 1)) else none
  | 0x1C => if w / 16384 % 16 = 0 then some (.vrsq (fld w 22 4) (fld w 18 4) (fld w 9 5) (fld w 8 1)) else none
  | _ => none

/-- Major 0x1E (03 R77), by its function value in bits [6:3]. -/
def decodeVarx (w : Nat) : Option Instr :=
  match w / 8 % 16 with
  | 0x00 => some (.vaddx (fld w 22 4) (fld w 18 4) (fld w 13 5) (fld w 8 5) (fld w 7 1))
  | 0x01 => some (.vsubx (fld w 22 4) (fld w 18 4) (fld w 13 5) (fld w 8 5) (fld w 7 1))
  | 0x02 => some (.vmulx (fld w 22 4) (fld w 18 4) (fld w 13 5) (fld w 8 5) (fld w 7 1))
  | 0x03 => some (.vmacx (fld w 22 4) (fld w 18 4) (fld w 13 5) (fld w 8 5) (fld w 7 1))
  | 0x04 => some (.vminx (fld w 22 4) (fld w 18 4) (fld w 13 5) (fld w 8 5) (fld w 7 1))
  | 0x05 => some (.vmaxx (fld w 22 4) (fld w 18 4) (fld w 13 5) (fld w 8 5) (fld w 7 1))
  | 0x06 => some (.vandx (fld w 22 4) (fld w 18 4) (fld w 13 5) (fld w 8 5) (fld w 7 1))
  | 0x07 => some (.vorx (fld w 22 4) (fld w 18 4) (fld w 13 5) (fld w 8 5) (fld w 7 1))
  | 0x08 => some (.vxorx (fld w 22 4) (fld w 18 4) (fld w 13 5) (fld w 8 5) (fld w 7 1))
  | 0x09 => some (.vshlx (fld w 22 4) (fld w 18 4) (fld w 13 5) (fld w 8 5) (fld w 7 1))
  | 0x0A => some (.vshrx (fld w 22 4) (fld w 18 4) (fld w 13 5) (fld w 8 5) (fld w 7 1))
  | 0x0B => if w / 262144 % 16 = 0 then some (.vsetx (fld w 22 4) (fld w 13 5) (fld w 8 5) (fld w 7 1)) else none
  | 0x0C => some (.vrsubx (fld w 22 4) (fld w 18 4) (fld w 13 5) (fld w 8 5) (fld w 7 1))
  | 0x0D => some (.vscalx (fld w 22 4) (fld w 18 4) (fld w 13 5) (fld w 8 5) (fld w 7 1))
  | _ => none

/-- Major 0x1F (03 R77), by its function value in bits [7:3]. -/
def decodeVcmp (w : Nat) : Option Instr :=
  match w / 8 % 32 with
  | 0x00 => some (.eq (fld w 24 2) (fld w 22 2) (fld w 18 4) (fld w 14 4) (fld w 9 5) (fld w 8 1))
  | 0x01 => some (.ne (fld w 24 2) (fld w 22 2) (fld w 18 4) (fld w 14 4) (fld w 9 5) (fld w 8 1))
  | 0x02 => some (.lt (fld w 24 2) (fld w 22 2) (fld w 18 4) (fld w 14 4) (fld w 9 5) (fld w 8 1))
  | 0x03 => some (.le (fld w 24 2) (fld w 22 2) (fld w 18 4) (fld w 14 4) (fld w 9 5) (fld w 8 1))
  | 0x04 => some (.gt (fld w 24 2) (fld w 22 2) (fld w 18 4) (fld w 14 4) (fld w 9 5) (fld w 8 1))
  | 0x05 => some (.ge (fld w 24 2) (fld w 22 2) (fld w 18 4) (fld w 14 4) (fld w 9 5) (fld w 8 1))
  | 0x06 => if w / 16384 % 16 = 0 then some (.isnz (fld w 24 2) (fld w 22 2) (fld w 18 4) (fld w 9 5) (fld w 8 1)) else none
  | _ => none

/-- Major 0x20 (03 R77), by its function value in bits [6:3]. -/
def decodeVcmpx (w : Nat) : Option Instr :=
  match w / 8 % 16 with
  | 0x00 => some (.eqx (fld w 24 2) (fld w 22 2) (fld w 18 4) (fld w 13 5) (fld w 8 5) (fld w 7 1))
  | 0x01 => some (.nex (fld w 24 2) (fld w 22 2) (fld w 18 4) (fld w 13 5) (fld w 8 5) (fld w 7 1))
  | 0x02 => some (.ltx (fld w 24 2) (fld w 22 2) (fld w 18 4) (fld w 13 5) (fld w 8 5) (fld w 7 1))
  | 0x03 => some (.lex (fld w 24 2) (fld w 22 2) (fld w 18 4) (fld w 13 5) (fld w 8 5) (fld w 7 1))
  | 0x04 => some (.gtx (fld w 24 2) (fld w 22 2) (fld w 18 4) (fld w 13 5) (fld w 8 5) (fld w 7 1))
  | 0x05 => some (.gex (fld w 24 2) (fld w 22 2) (fld w 18 4) (fld w 13 5) (fld w 8 5) (fld w 7 1))
  | 0x06 => some (.matchKey (fld w 24 2) (fld w 22 2) (fld w 18 4) (fld w 13 5) (fld w 8 5) (fld w 7 1))
  | 0x07 => if (fld w 13 5).toNat ≠ 31 then some (.rangeKey (fld w 24 2) (fld w 22 2) (fld w 18 4) (fld w 13 5) (fld w 8 5) (fld w 7 1)) else none
  | _ => none

/-- Major 0x21 (03 R77), by its function value in bits [14:10]. -/
def decodeVtag (w : Nat) : Option Instr :=
  match w / 1024 % 32 with
  | 0x00 => if w / 8 % 128 = 0 ∧ w / 1048576 % 16 = 0 then some (.tset (fld w 24 2) (fld w 15 5)) else none
  | 0x01 => if w / 8 % 128 = 0 ∧ w / 1048576 % 16 = 0 then some (.tclr (fld w 24 2) (fld w 15 5)) else none
  | 0x02 => if w / 8 % 128 = 0 ∧ w / 1048576 % 4 = 0 then some (.tnot (fld w 24 2) (fld w 22 2) (fld w 15 5)) else none
  | 0x03 => if w / 8 % 128 = 0 then some (.tand (fld w 24 2) (fld w 22 2) (fld w 20 2) (fld w 15 5)) else none
  | 0x04 => if w / 8 % 128 = 0 then some (.tor (fld w 24 2) (fld w 22 2) (fld w 20 2) (fld w 15 5)) else none
  | 0x05 => if w / 8 % 128 = 0 then some (.txor (fld w 24 2) (fld w 22 2) (fld w 20 2) (fld w 15 5)) else none
  | 0x06 => if w / 8 % 128 = 0 then some (.tandn (fld w 24 2) (fld w 22 2) (fld w 20 2) (fld w 15 5)) else none
  | 0x07 => if w / 8 % 128 = 0 ∧ w / 1048576 % 4 = 0 then some (.tmov (fld w 24 2) (fld w 22 2) (fld w 15 5)) else none
  | 0x08 => if w / 8 % 128 = 0 ∧ w / 1048576 % 4 = 0 then some (.tfirst (fld w 24 2) (fld w 22 2) (fld w 15 5)) else none
  | 0x09 => if w / 8 % 128 = 0 ∧ w / 1048576 % 4 = 0 then some (.tlast (fld w 24 2) (fld w 22 2) (fld w 15 5)) else none
  | 0x0A => if w / 8 % 128 = 0 ∧ w / 1048576 % 4 = 0 then some (.tshup (fld w 24 2) (fld w 22 2) (fld w 15 5)) else none
  | 0x0B => if w / 8 % 128 = 0 ∧ w / 1048576 % 4 = 0 then some (.tshdn (fld w 24 2) (fld w 22 2) (fld w 15 5)) else none
  | 0x0C => if w / 8 % 128 = 0 ∧ w / 1048576 % 16 = 0 then some (.tval (fld w 24 2) (fld w 15 5)) else none
  | 0x0D => if w / 8 % 128 = 0 ∧ w / 1048576 % 4 = 0 ∧ w / 16777216 % 4 = 0 then some (.valt (fld w 22 2) (fld w 15 5)) else none
  | _ => none

/-- Major 0x22 (03 R77), by its function value in bits [9:3]. -/
def decodeVqry (w : Nat) : Option Instr :=
  match w / 8 % 128 with
  | 0x00 => if w / 32768 % 16 = 0 then some (.vcount (fld w 21 5) (fld w 19 2) (fld w 10 5)) else none
  | 0x01 => if w / 32768 % 16 = 0 then some (.vany (fld w 21 5) (fld w 19 2) (fld w 10 5)) else none
  | 0x02 => if w / 32768 % 16 = 0 then some (.vfirstx (fld w 21 5) (fld w 19 2) (fld w 10 5)) else none
  | 0x03 => some (.vextr (fld w 21 5) (fld w 19 2) (fld w 15 4) (fld w 10 5))
  | 0x04 => some (.vredsum (fld w 21 5) (fld w 19 2) (fld w 15 4) (fld w 10 5))
  | 0x05 => some (.vredmax (fld w 21 5) (fld w 19 2) (fld w 15 4) (fld w 10 5))
  | 0x06 => some (.vredmin (fld w 21 5) (fld w 19 2) (fld w 15 4) (fld w 10 5))
  | 0x07 => some (.vtopk (fld w 21 5) (fld w 19 2) (fld w 15 4) (fld w 10 5))
  | 0x08 => some (.vbotk (fld w 21 5) (fld w 19 2) (fld w 15 4) (fld w 10 5))
  | 0x09 => some (.vmaxloc (fld w 21 5) (fld w 19 2) (fld w 15 4) (fld w 10 5))
  | _ => none

/-- Major 0x23 (03 R77), by its function value in bits [7:3]. -/
def decodeVrow (w : Nat) : Option Instr :=
  match w / 8 % 32 with
  | 0x00 => if w / 16384 % 16 = 0 then some (.vscanadd (fld w 22 4) (fld w 18 4) (fld w 9 5) (fld w 8 1)) else none
  | 0x01 => if w / 16384 % 16 = 0 then some (.vscanmax (fld w 22 4) (fld w 18 4) (fld w 9 5) (fld w 8 1)) else none
  | 0x02 => if w / 16384 % 16 = 0 then some (.vrowsh (fld w 22 4) (fld w 18 4) (fld w 9 5) (fld w 8 1)) else none
  | 0x03 => if w / 16384 % 16 = 0 then some (.vrowshup (fld w 22 4) (fld w 18 4) (fld w 9 5) (fld w 8 1)) else none
  | 0x04 => if w / 16384 % 256 = 0 then some (.vidx (fld w 22 4) (fld w 9 5) (fld w 8 1)) else none
  | 0x05 => if w / 16384 % 16 = 0 then some (.vbcastf (fld w 22 4) (fld w 18 4) (fld w 9 5) (fld w 8 1)) else none
  | 0x06 => if w / 16384 % 256 = 0 then some (.vftag (fld w 22 4) (fld w 9 5) (fld w 8 1)) else none
  | 0x07 => if w / 16384 % 16 = 0 ∧ w / 4194304 % 16 = 0 then some (.vtagf (fld w 18 4) (fld w 9 5) (fld w 8 1)) else none
  | 0x08 => if w / 65536 % 4 = 0 then some (.vtli (fld w 22 4) (fld w 18 4) (fld w 14 2) (fld w 9 5) (fld w 8 1)) else none
  | 0x09 => if w / 65536 % 4 = 0 then some (.vtlu (fld w 22 4) (fld w 18 4) (fld w 14 2) (fld w 9 5) (fld w 8 1)) else none
  | 0x0A => some (.vsimh (fld w 22 4) (fld w 18 4) (fld w 14 4) (fld w 9 5) (fld w 8 1))
  | _ => none

/-- Major 0x24 (03 R77), by its function value in bits [6:3]. -/
def decodeVmem (w : Nat) : Option Instr :=
  match w / 8 % 16 with
  | 0x00 =>
    if w / 262144 % 16 = 0 then some (.vlda (fld w 22 4) (fld w 13 5) (fld w 8 5) (fld w 7 1))
    else if w / 262144 % 16 = 1 then some (.vldaSp (fld w 22 4) (fld w 13 5) (fld w 8 5) (fld w 7 1))
    else none
  | 0x01 => if w / 262144 % 16 = 0 then some (.vsta (fld w 22 4) (fld w 13 5) (fld w 8 5) (fld w 7 1)) else none
  | 0x02 => some (.vldx (fld w 22 4) (fld w 18 4) (fld w 13 5) (fld w 8 5) (fld w 7 1))
  | 0x03 => some (.vstx (fld w 22 4) (fld w 18 4) (fld w 13 5) (fld w 8 5) (fld w 7 1))
  | 0x04 => some (.vstadd (fld w 22 4) (fld w 18 4) (fld w 13 5) (fld w 8 5) (fld w 7 1))
  | 0x05 => if w / 128 % 2 = 0 ∧ w / 262144 % 16 = 0 then some (.vspill (fld w 22 4) (fld w 13 5) (fld w 8 5)) else none
  | 0x06 => if w / 128 % 2 = 0 ∧ w / 262144 % 16 = 0 then some (.vfill (fld w 22 4) (fld w 13 5) (fld w 8 5)) else none
  | 0x07 => if w / 128 % 64 = 0 ∧ w / 262144 % 16 = 0 ∧ w / 16777216 % 4 = 0 then some (.tload (fld w 22 2) (fld w 13 5)) else none
  | _ => none

/-- Major 0x25 (03 R77), by its function value in bits [10:3]. -/
def decodeStream (w : Nat) : Option Instr :=
  match w / 8 % 256 with
  | 0x00 => if w / 1048576 % 2 = 0 ∧ w / 16777216 % 4 = 0 then some (.sbind (fld w 21 3) (fld w 16 4) (fld w 11 5)) else none
  | 0x01 => if w / 2048 % 1024 = 0 ∧ w / 16777216 % 4 = 0 then some (.sunb (fld w 21 3)) else none
  | 0x02 => if w / 2048 % 32 = 0 ∧ w / 2097152 % 32 = 0 then some (.sbar (fld w 16 5)) else none
  | 0x03 => if w / 2048 % 1024 = 0 ∧ w / 16777216 % 4 = 0 then some (.swait (fld w 21 3)) else none
  | 0x04 => if w / 2048 % 32 = 0 ∧ w / 524288 % 4 = 0 then some (.sstat (fld w 21 5) (fld w 16 3)) else none
  | _ => none

/-- Major 0x26 (03 R77), by its function value in bits [8:6]. -/
def decodeAmo (w : Nat) : Option Instr :=
  match w / 64 % 8 with
  | 0x00 => if w / 8 % 4 = 0 then some (.amoadd (fld w 21 5) (fld w 16 5) (fld w 11 5) (fld w 9 2) (fld w 5 1)) else none
  | 0x01 => if w / 8 % 4 = 0 then some (.amoand (fld w 21 5) (fld w 16 5) (fld w 11 5) (fld w 9 2) (fld w 5 1)) else none
  | 0x02 => if w / 8 % 4 = 0 then some (.amoor (fld w 21 5) (fld w 16 5) (fld w 11 5) (fld w 9 2) (fld w 5 1)) else none
  | 0x03 => if w / 8 % 4 = 0 then some (.amoxor (fld w 21 5) (fld w 16 5) (fld w 11 5) (fld w 9 2) (fld w 5 1)) else none
  | 0x04 => if w / 8 % 2 = 0 then some (.amomin (fld w 21 5) (fld w 16 5) (fld w 11 5) (fld w 9 2) (fld w 5 1) (fld w 4 1)) else none
  | 0x05 => if w / 8 % 2 = 0 then some (.amomax (fld w 21 5) (fld w 16 5) (fld w 11 5) (fld w 9 2) (fld w 5 1) (fld w 4 1)) else none
  | 0x06 => if w / 8 % 4 = 0 then some (.amoswap (fld w 21 5) (fld w 16 5) (fld w 11 5) (fld w 9 2) (fld w 5 1)) else none
  | 0x07 => if w / 8 % 4 = 0 then some (.amocas (fld w 21 5) (fld w 16 5) (fld w 11 5) (fld w 9 2) (fld w 5 1)) else none
  | _ => none

/-- Major 0x27 (03 R77), by its function value in bits [10:3]. -/
def decodeFold (w : Nat) : Option Instr :=
  match w / 8 % 256 with
  | 0x00 => if w / 2097152 % 32 = 0 then some (.amaxf (fld w 16 5) (fld w 11 5)) else none
  | 0x01 => if w / 2097152 % 32 = 0 then some (.amaxfRel (fld w 16 5) (fld w 11 5)) else none
  | _ => none

/-- Major 0x28 (03 R77), by its function value in bits [15:13]. -/
def decodeFence (w : Nat) : Option Instr :=
  match w / 8192 % 8 with
  | 0x00 => if w / 8 % 128 = 0 ∧ w / 65536 % 1024 = 0 ∧ (fld w 10 3).toNat ≤ 4 then some (.acq (fld w 10 3)) else none
  | 0x01 => if w / 8 % 128 = 0 ∧ w / 65536 % 1024 = 0 ∧ (fld w 10 3).toNat ≤ 4 then some (.rel (fld w 10 3)) else none
  | 0x02 => if w / 8 % 128 = 0 ∧ w / 65536 % 1024 = 0 ∧ (fld w 10 3).toNat ≤ 4 then some (.fence (fld w 10 3)) else none
  | _ => none

/-- Major 0x29 (03 R77), by its function value in bits [10:3]. -/
def decodeCb (w : Nat) : Option Instr :=
  match w / 8 % 256 with
  | 0x00 => if w / 2048 % 32 = 0 ∧ w / 1048576 % 2 = 0 then some (.cbget (fld w 21 5) (fld w 16 4)) else none
  | 0x01 => if w / 2048 % 32 = 0 ∧ w / 1048576 % 64 = 0 then some (.cbput (fld w 16 4)) else none
  | 0x02 => if w / 2048 % 32 = 0 ∧ w / 1048576 % 2 = 0 then some (.cbpop (fld w 21 5) (fld w 16 4)) else none
  | 0x03 => if w / 2048 % 32 = 0 ∧ w / 1048576 % 64 = 0 then some (.cbrel (fld w 16 4)) else none
  | 0x04 => if w / 2048 % 32 = 0 ∧ w / 1048576 % 2 = 0 then some (.cbstat (fld w 21 5) (fld w 16 4)) else none
  | 0x05 => if w / 1048576 % 2 = 0 then some (.cbgetn (fld w 21 5) (fld w 16 4) (fld w 11 5)) else none
  | 0x06 => if w / 1048576 % 2 = 0 then some (.cbpopn (fld w 21 5) (fld w 16 4) (fld w 11 5)) else none
  | 0x07 => if w / 1048576 % 64 = 0 then some (.cbdef (fld w 16 4) (fld w 11 5)) else none
  | _ => none

/-- Major 0x2A (03 R77), by its function value in bits [10:3]. -/
def decodeStripc (w : Nat) : Option Instr :=
  match w / 8 % 256 with
  | 0x00 => if w / 2048 % 32 = 0 ∧ w / 2097152 % 32 = 0 then some (.strip (fld w 16 5)) else none
  | 0x01 => if w / 2048 % 32768 = 0 then some (.scommit) else none
  | 0x02 => if w / 2048 % 32768 = 0 then some (.sabort) else none
  | _ => none

/-- Major 0x2B (03 R77), by its function value in bits [10:3]. -/
def decodeFarm (w : Nat) : Option Instr :=
  match w / 8 % 256 with
  | 0x00 => if w / 16777216 % 4 = 0 then some (.farm (fld w 21 3) (fld w 16 5) (fld w 11 5)) else none
  | 0x01 => if w / 2048 % 32 = 0 ∧ w / 524288 % 4 = 0 then some (.fnext (fld w 21 5) (fld w 16 3)) else none
  | 0x02 => if w / 2048 % 32768 = 0 then some (.bar) else none
  | 0x03 => if w / 2048 % 32768 = 0 then some (.arrive) else none
  | 0x04 => if w / 2048 % 32768 = 0 then some (.await) else none
  | _ => none

/-- Major 0x2C (03 R77), by its function value in bits [10:3]. -/
def decodeXtree (w : Nat) : Option Instr :=
  match w / 8 % 256 with
  | 0x00 => if w / 2048 % 32 = 0 then some (.xredadd (fld w 21 5) (fld w 16 5)) else none
  | 0x01 => if w / 4096 % 16 = 0 then some (.xredmax (fld w 21 5) (fld w 16 5) (fld w 11 1)) else none
  | 0x02 => if w / 4096 % 16 = 0 then some (.xredmin (fld w 21 5) (fld w 16 5) (fld w 11 1)) else none
  | 0x03 => if w / 2048 % 32 = 0 then some (.xscanadd (fld w 21 5) (fld w 16 5)) else none
  | 0x04 => some (.xbcast (fld w 21 5) (fld w 16 5) (fld w 11 5))
  | 0x05 => if w / 8192 % 8 = 0 ∧ (fld w 11 2).toNat ≤ 2 then some (.xredfadd (fld w 21 5) (fld w 16 5) (fld w 11 2)) else none
  | _ => none

/-- Major 0x2D (03 R77), by its function value in bits [10:3]. -/
def decodeCq (w : Nat) : Option Instr :=
  match w / 8 % 256 with
  | 0x00 => if (fld w 16 5).toNat ≤ 16 then some (.cqapp (fld w 21 5) (fld w 16 5) (fld w 11 5)) else none
  | 0x01 => if w / 2048 % 32 = 0 ∧ w / 2097152 % 32 = 0 ∧ (fld w 16 5).toNat ≤ 16 then some (.cqgo (fld w 16 5)) else none
  | 0x02 => if w / 2097152 % 32 = 0 ∧ (fld w 16 5).toNat ≤ 16 then some (.cqwait (fld w 16 5) (fld w 11 5)) else none
  | 0x03 => if w / 2048 % 32 = 0 ∧ (fld w 16 5).toNat ≤ 16 then some (.cqstat (fld w 21 5) (fld w 16 5)) else none
  | 0x04 => if (fld w 16 5).toNat ≤ 16 then some (.cqdone (fld w 21 5) (fld w 16 5) (fld w 11 5)) else none
  | _ => none

/-- Major 0x2F (03 R77), by its function value in bits [10:3]. -/
def decodeMctl (w : Nat) : Option Instr :=
  match w / 8 % 256 with
  | 0x00 => if w / 4194304 % 16 = 0 then some (.mldb (fld w 21 1) (fld w 16 5) (fld w 11 5)) else none
  | 0x01 => if w / 2048 % 32768 = 0 then some (.mwait) else none
  | 0x02 => if w / 2048 % 1024 = 0 then some (.mlicAcq (fld w 21 5)) else none
  | 0x03 => if w / 2048 % 32768 = 0 then some (.mlicAcqw) else none
  | 0x04 => if w / 2048 % 32768 = 0 then some (.mlicRel) else none
  | 0x05 => if w / 2048 % 1024 = 0 then some (.mlicSt (fld w 21 5)) else none
  | _ => none

/-- Major 0x30 (03 R77), by its function value in bits [10:3]. -/
def decodeDrain (w : Nat) : Option Instr :=
  match w / 8 % 256 with
  | 0x00 => some (.dpload (fld w 21 5) (fld w 16 5) (fld w 11 5))
  | 0x01 => if w / 2048 % 32 = 0 then some (.dpinfo (fld w 21 5) (fld w 16 5)) else none
  | _ => none

/-- Major 0x31 (03 R77), by its function value in bits [10:3]. -/
def decodeKv (w : Nat) : Option Instr :=
  match w / 8 % 256 with
  | 0x00 => some (.kvfind (fld w 21 5) (fld w 16 5) (fld w 11 5))
  | 0x01 => some (.kvins (fld w 21 5) (fld w 16 5) (fld w 11 5))
  | 0x02 => if w / 2048 % 32 = 0 then some (.kvpin (fld w 21 5) (fld w 16 5)) else none
  | 0x03 => if w / 2048 % 32 = 0 then some (.kvunpin (fld w 21 5) (fld w 16 5)) else none
  | 0x04 => some (.kvref (fld w 21 5) (fld w 16 5) (fld w 11 5))
  | 0x05 => if w / 2048 % 32 = 0 ∧ w / 16777216 % 4 = 0 then some (.kvwin (fld w 21 3) (fld w 16 5)) else none
  | _ => none

/-- Major 0x32 (03 R77), by its function value in bits [10:3]. -/
def decodeTwin (w : Nat) : Option Instr :=
  match w / 8 % 256 with
  | 0x00 => if w / 2048 % 32 = 0 then some (.nrd (fld w 21 5) (fld w 16 5)) else none
  | 0x01 => if w / 2097152 % 32 = 0 then some (.nwr (fld w 16 5) (fld w 11 5)) else none
  | 0x02 => some (.nswap (fld w 21 5) (fld w 16 5) (fld w 11 5))
  | 0x03 => if w / 2048 % 32 = 0 ∧ w / 2097152 % 32 = 0 then some (.fpush (fld w 16 5)) else none
  | 0x04 => if w / 2048 % 32 = 0 ∧ w / 2097152 % 32 = 0 then some (.fpop (fld w 16 5)) else none
  | 0x05 => if w / 2048 % 1024 = 0 then some (.fcnt (fld w 21 5)) else none
  | 0x06 => if w / 2048 % 32 = 0 then some (.pgreq (fld w 21 5) (fld w 16 5)) else none
  | 0x07 => if w / 2048 % 32 = 0 ∧ w / 2097152 % 32 = 0 then some (.tbar (fld w 16 5)) else none
  | _ => none

/-- Major 0x33 (03 R77), by its function value in bits [10:3]. -/
def decodeSupv (w : Nat) : Option Instr :=
  match w / 8 % 256 with
  | 0x00 => some (.svsave (fld w 21 5) (fld w 16 5) (fld w 11 5))
  | 0x01 => some (.svrest (fld w 21 5) (fld w 16 5) (fld w 11 5))
  | 0x02 => if w / 2048 % 32 = 0 then some (.slreplay (fld w 21 5) (fld w 16 5)) else none
  | 0x03 => if w / 2048 % 32 = 0 then some (.tlbinv (fld w 21 5) (fld w 16 5)) else none
  | 0x04 => some (.hfreeze (fld w 21 5) (fld w 16 5) (fld w 11 5))
  | 0x05 => if w / 2048 % 32 = 0 then some (.hthaw (fld w 21 5) (fld w 16 5)) else none
  | 0x06 => some (.esload (fld w 21 5) (fld w 16 5) (fld w 11 5))
  | 0x07 => if w / 2048 % 1024 = 0 then some (.estep (fld w 21 5)) else none
  | _ => none

/-- Major 0x1C, VDEF and VUNDEF (05 R122): width 0 undefines the field and leaves base and type reserved. -/
def decodeVdef (w : Nat) : Option Instr :=
  if w / 64 % 128 = 0 then
    if w / 8 % 524288 = 0 then some (.vundef (fld w 22 4)) else none
  else if w / 64 % 128 ≤ 64 then some (.vdef (fld w 22 4) (fld w 13 9) (fld w 6 7) (fld w 3 3))
  else none

/-- The instruction of a 32-bit word, or none where the word is no instruction (R78). -/
def decodeNat (w : Nat) : Option Instr :=
  match w / 67108864 % 64 with
  | 0x01 => if w / 8 % 8192 = 0 ∧ (fld w 21 1 = 1 ∨ fld w 16 5 = 0) then some (.pfx (fld w 23 3) (fld w 22 1) (fld w 21 1) (fld w 16 5)) else none
  | 0x02 => decodeAlu w
  | 0x03 => some (.addi (fld w 21 5) (fld w 16 5) (fld w 3 13))
  | 0x04 => some (.andi (fld w 21 5) (fld w 16 5) (fld w 3 13))
  | 0x05 => some (.ori (fld w 21 5) (fld w 16 5) (fld w 3 13))
  | 0x06 => some (.xori (fld w 21 5) (fld w 16 5) (fld w 3 13))
  | 0x07 => some (.slti (fld w 21 5) (fld w 16 5) (fld w 3 13))
  | 0x08 => some (.sltiu (fld w 21 5) (fld w 16 5) (fld w 3 13))
  | 0x09 => decodeShi w
  | 0x0A => some (.lih (fld w 21 5) (fld w 3 18))
  | 0x0B => some (.lish (fld w 21 5) (fld w 3 18))
  | 0x0C => some (.beq (fld w 21 5) (fld w 16 5) (fld w 3 13))
  | 0x0D => some (.bne (fld w 21 5) (fld w 16 5) (fld w 3 13))
  | 0x0E => some (.blt (fld w 21 5) (fld w 16 5) (fld w 3 13))
  | 0x0F => some (.bge (fld w 21 5) (fld w 16 5) (fld w 3 13))
  | 0x10 => some (.bltu (fld w 21 5) (fld w 16 5) (fld w 3 13))
  | 0x11 => some (.bgeu (fld w 21 5) (fld w 16 5) (fld w 3 13))
  | 0x12 => some (.jal (fld w 21 5) (fld w 3 18))
  | 0x13 => some (.jalr (fld w 21 5) (fld w 16 5) (fld w 3 13))
  | 0x14 => if w / 2097152 % 32 = 0 ∧ fld w 3 13 ≠ 0 then some (.loop (fld w 16 5) (fld w 3 13)) else none
  | 0x15 => if fld w 3 13 ≠ 0 then some (.loopi (fld w 16 10) (fld w 3 13)) else none
  | 0x16 => decodeLctl w
  | 0x17 => decodeLd w
  | 0x18 => decodeSt w
  | 0x19 => decodeCsr w
  | 0x1A => decodeSys w
  | 0x1C => decodeVdef w
  | 0x1D => decodeVarith w
  | 0x1E => decodeVarx w
  | 0x1F => decodeVcmp w
  | 0x20 => decodeVcmpx w
  | 0x21 => decodeVtag w
  | 0x22 => decodeVqry w
  | 0x23 => decodeVrow w
  | 0x24 => decodeVmem w
  | 0x25 => decodeStream w
  | 0x26 => decodeAmo w
  | 0x27 => decodeFold w
  | 0x28 => decodeFence w
  | 0x29 => decodeCb w
  | 0x2A => decodeStripc w
  | 0x2B => decodeFarm w
  | 0x2C => decodeXtree w
  | 0x2D => decodeCq w
  | 0x2E => some (.mma (fld w 25 1) (fld w 20 5) (fld w 15 5) (fld w 10 5) (fld w 5 5) (fld w 4 1) (fld w 3 1))
  | 0x2F => decodeMctl w
  | 0x30 => decodeDrain w
  | 0x31 => decodeKv w
  | 0x32 => decodeTwin w
  | 0x33 => decodeSupv w
  | _ => none

/-- The instruction of a 32-bit word. -/
def decode (w : Word) : Option Instr := decodeNat w.toNat

/-- The word that four bytes hold, the byte at the lowest address first (00 R4). -/
def wordOfBytes (b0 b1 b2 b3 : Byte) : Word := b3 ++ b2 ++ b1 ++ b0

/-- Decoding a byte string: the instruction and the bytes after it. Fewer than four bytes hold no word. -/
def decodeBytes : List Byte → Option (Instr × List Byte)
  | b0 :: b1 :: b2 :: b3 :: rest => (decode (wordOfBytes b0 b1 b2 b3)).map fun i => (i, rest)
  | _ => none

/-- The instruction that the decoder reads from a table word of nbits bits, bits above it zero. -/
def decodeTableWord (nbits w : Nat) : Option Instr :=
  let v : Word := BitVec.ofNat 32 (w % 2 ^ nbits)
  (decodeBytes [v.extractLsb' 0 8, v.extractLsb' 8 8, v.extractLsb' 16 8, v.extractLsb' 24 8]).map Prod.fst

/-- The number of an instruction's word with stall count 0 (03 R73, R74); events have none. -/
def encodeNat : Instr → Option Nat
  | .pfx p i c r => some (0x04000000 + p.toNat * 8388608 + i.toNat * 4194304 + c.toNat * 2097152 + r.toNat * 65536)
  | .add d a b => some (0x08000000 + d.toNat * 2097152 + a.toNat * 65536 + b.toNat * 2048)
  | .sub d a b => some (0x08000008 + d.toNat * 2097152 + a.toNat * 65536 + b.toNat * 2048)
  | .and d a b => some (0x08000010 + d.toNat * 2097152 + a.toNat * 65536 + b.toNat * 2048)
  | .or d a b => some (0x08000018 + d.toNat * 2097152 + a.toNat * 65536 + b.toNat * 2048)
  | .xor d a b => some (0x08000020 + d.toNat * 2097152 + a.toNat * 65536 + b.toNat * 2048)
  | .andn d a b => some (0x08000028 + d.toNat * 2097152 + a.toNat * 65536 + b.toNat * 2048)
  | .sll d a b => some (0x08000030 + d.toNat * 2097152 + a.toNat * 65536 + b.toNat * 2048)
  | .srl d a b => some (0x08000038 + d.toNat * 2097152 + a.toNat * 65536 + b.toNat * 2048)
  | .sra d a b => some (0x08000040 + d.toNat * 2097152 + a.toNat * 65536 + b.toNat * 2048)
  | .slt d a b => some (0x08000048 + d.toNat * 2097152 + a.toNat * 65536 + b.toNat * 2048)
  | .sltu d a b => some (0x08000050 + d.toNat * 2097152 + a.toNat * 65536 + b.toNat * 2048)
  | .min d a b => some (0x08000058 + d.toNat * 2097152 + a.toNat * 65536 + b.toNat * 2048)
  | .max d a b => some (0x08000060 + d.toNat * 2097152 + a.toNat * 65536 + b.toNat * 2048)
  | .minu d a b => some (0x08000068 + d.toNat * 2097152 + a.toNat * 65536 + b.toNat * 2048)
  | .maxu d a b => some (0x08000070 + d.toNat * 2097152 + a.toNat * 65536 + b.toNat * 2048)
  | .csel d a b => some (0x08000078 + d.toNat * 2097152 + a.toNat * 65536 + b.toNat * 2048)
  | .mul d a b => some (0x08000080 + d.toNat * 2097152 + a.toNat * 65536 + b.toNat * 2048)
  | .mulh d a b => some (0x08000088 + d.toNat * 2097152 + a.toNat * 65536 + b.toNat * 2048)
  | .mulhu d a b => some (0x08000090 + d.toNat * 2097152 + a.toNat * 65536 + b.toNat * 2048)
  | .div d a b => some (0x08000098 + d.toNat * 2097152 + a.toNat * 65536 + b.toNat * 2048)
  | .divu d a b => some (0x080000A0 + d.toNat * 2097152 + a.toNat * 65536 + b.toNat * 2048)
  | .rem d a b => some (0x080000A8 + d.toNat * 2097152 + a.toNat * 65536 + b.toNat * 2048)
  | .remu d a b => some (0x080000B0 + d.toNat * 2097152 + a.toNat * 65536 + b.toNat * 2048)
  | .clz d a => some (0x080000B8 + d.toNat * 2097152 + a.toNat * 65536)
  | .ctz d a => some (0x080000C0 + d.toNat * 2097152 + a.toNat * 65536)
  | .popc d a => some (0x080000C8 + d.toNat * 2097152 + a.toNat * 65536)
  | .brev d a => some (0x080000D0 + d.toNat * 2097152 + a.toNat * 65536)
  | .addi d a i => some (0x0C000000 + d.toNat * 2097152 + a.toNat * 65536 + i.toNat * 8)
  | .andi d a i => some (0x10000000 + d.toNat * 2097152 + a.toNat * 65536 + i.toNat * 8)
  | .ori d a i => some (0x14000000 + d.toNat * 2097152 + a.toNat * 65536 + i.toNat * 8)
  | .xori d a i => some (0x18000000 + d.toNat * 2097152 + a.toNat * 65536 + i.toNat * 8)
  | .slti d a i => some (0x1C000000 + d.toNat * 2097152 + a.toNat * 65536 + i.toNat * 8)
  | .sltiu d a i => some (0x20000000 + d.toNat * 2097152 + a.toNat * 65536 + i.toNat * 8)
  | .slli d a h => some (0x24000000 + d.toNat * 2097152 + a.toNat * 65536 + h.toNat * 8)
  | .srli d a h => some (0x24004000 + d.toNat * 2097152 + a.toNat * 65536 + h.toNat * 8)
  | .srai d a h => some (0x24008000 + d.toNat * 2097152 + a.toNat * 65536 + h.toNat * 8)
  | .lih d i => some (0x28000000 + d.toNat * 2097152 + i.toNat * 8)
  | .lish d i => some (0x2C000000 + d.toNat * 2097152 + i.toNat * 8)
  | .beq a b o => some (0x30000000 + a.toNat * 2097152 + b.toNat * 65536 + o.toNat * 8)
  | .bne a b o => some (0x34000000 + a.toNat * 2097152 + b.toNat * 65536 + o.toNat * 8)
  | .blt a b o => some (0x38000000 + a.toNat * 2097152 + b.toNat * 65536 + o.toNat * 8)
  | .bge a b o => some (0x3C000000 + a.toNat * 2097152 + b.toNat * 65536 + o.toNat * 8)
  | .bltu a b o => some (0x40000000 + a.toNat * 2097152 + b.toNat * 65536 + o.toNat * 8)
  | .bgeu a b o => some (0x44000000 + a.toNat * 2097152 + b.toNat * 65536 + o.toNat * 8)
  | .jal d i => some (0x48000000 + d.toNat * 2097152 + i.toNat * 8)
  | .jalr d a i => some (0x4C000000 + d.toNat * 2097152 + a.toNat * 65536 + i.toNat * 8)
  | .loop a o => some (0x50000000 + a.toNat * 65536 + o.toNat * 8)
  | .loopi c o => some (0x54000000 + c.toNat * 65536 + o.toNat * 8)
  | .lbrk => some (0x58000000)
  | .lidx d l => some (0x58000008 + d.toNat * 2097152 + l.toNat * 65536)
  | .lcnt d l => some (0x58000010 + d.toNat * 2097152 + l.toNat * 65536)
  | .lskip => some (0x58000018)
  | .lb d a o => some (0x5C000000 + d.toNat * 2097152 + a.toNat * 65536 + o.toNat * 64)
  | .lbu d a o => some (0x5C000008 + d.toNat * 2097152 + a.toNat * 65536 + o.toNat * 64)
  | .lh d a o => some (0x5C000010 + d.toNat * 2097152 + a.toNat * 65536 + o.toNat * 64)
  | .lhu d a o => some (0x5C000018 + d.toNat * 2097152 + a.toNat * 65536 + o.toNat * 64)
  | .lw d a o => some (0x5C000020 + d.toNat * 2097152 + a.toNat * 65536 + o.toNat * 64)
  | .lwu d a o => some (0x5C000028 + d.toNat * 2097152 + a.toNat * 65536 + o.toNat * 64)
  | .ld d a o => some (0x5C000030 + d.toNat * 2097152 + a.toNat * 65536 + o.toNat * 64)
  | .sb x a o => some (0x60000000 + x.toNat * 2097152 + a.toNat * 65536 + o.toNat * 64)
  | .sh x a o => some (0x60000010 + x.toNat * 2097152 + a.toNat * 65536 + o.toNat * 64)
  | .sw x a o => some (0x60000020 + x.toNat * 2097152 + a.toNat * 65536 + o.toNat * 64)
  | .sd x a o => some (0x60000030 + x.toNat * 2097152 + a.toNat * 65536 + o.toNat * 64)
  | .csrr d c => some (0x64000000 + d.toNat * 2097152 + c.toNat * 32)
  | .csrw d a c => some (0x64000008 + d.toNat * 2097152 + a.toNat * 65536 + c.toNat * 32)
  | .csrs d a c => some (0x64000010 + d.toNat * 2097152 + a.toNat * 65536 + c.toNat * 32)
  | .csrc d a c => some (0x64000018 + d.toNat * 2097152 + a.toNat * 65536 + c.toNat * 32)
  | .scall => some (0x68000008)
  | .brk => some (0x68000010)
  | .tret => some (0x68000018)
  | .wfe => some (0x68000020)
  | .yield => some (0x68000028)
  | .exit => some (0x68000030)
  | .snapt => some (0x68000038)
  | .sret => some (0x68000080)
  | .vdef v b w t => some (0x70000000 + v.toNat * 4194304 + b.toNat * 8192 + w.toNat * 64 + t.toNat * 8)
  | .vundef v => some (0x70000000 + v.toNat * 4194304)
  | .vadd d a b n m => some (0x74000000 + d.toNat * 4194304 + a.toNat * 262144 + b.toNat * 16384 + n.toNat * 512 + m.toNat * 256)
  | .vsub d a b n m => some (0x74000008 + d.toNat * 4194304 + a.toNat * 262144 + b.toNat * 16384 + n.toNat * 512 + m.toNat * 256)
  | .vmul d a b n m => some (0x74000010 + d.toNat * 4194304 + a.toNat * 262144 + b.toNat * 16384 + n.toNat * 512 + m.toNat * 256)
  | .vmac d a b n m => some (0x74000018 + d.toNat * 4194304 + a.toNat * 262144 + b.toNat * 16384 + n.toNat * 512 + m.toNat * 256)
  | .vdiv d a b n m => some (0x74000020 + d.toNat * 4194304 + a.toNat * 262144 + b.toNat * 16384 + n.toNat * 512 + m.toNat * 256)
  | .vrem d a b n m => some (0x74000028 + d.toNat * 4194304 + a.toNat * 262144 + b.toNat * 16384 + n.toNat * 512 + m.toNat * 256)
  | .vmin d a b n m => some (0x74000030 + d.toNat * 4194304 + a.toNat * 262144 + b.toNat * 16384 + n.toNat * 512 + m.toNat * 256)
  | .vmax d a b n m => some (0x74000038 + d.toNat * 4194304 + a.toNat * 262144 + b.toNat * 16384 + n.toNat * 512 + m.toNat * 256)
  | .vabs d a n m => some (0x74000040 + d.toNat * 4194304 + a.toNat * 262144 + n.toNat * 512 + m.toNat * 256)
  | .vneg d a n m => some (0x74000048 + d.toNat * 4194304 + a.toNat * 262144 + n.toNat * 512 + m.toNat * 256)
  | .vand d a b n m => some (0x74000050 + d.toNat * 4194304 + a.toNat * 262144 + b.toNat * 16384 + n.toNat * 512 + m.toNat * 256)
  | .vor d a b n m => some (0x74000058 + d.toNat * 4194304 + a.toNat * 262144 + b.toNat * 16384 + n.toNat * 512 + m.toNat * 256)
  | .vxor d a b n m => some (0x74000060 + d.toNat * 4194304 + a.toNat * 262144 + b.toNat * 16384 + n.toNat * 512 + m.toNat * 256)
  | .vnot d a n m => some (0x74000068 + d.toNat * 4194304 + a.toNat * 262144 + n.toNat * 512 + m.toNat * 256)
  | .vandn d a b n m => some (0x74000070 + d.toNat * 4194304 + a.toNat * 262144 + b.toNat * 16384 + n.toNat * 512 + m.toNat * 256)
  | .vmov d a n m => some (0x74000078 + d.toNat * 4194304 + a.toNat * 262144 + n.toNat * 512 + m.toNat * 256)
  | .vsel d a b n m => some (0x74000080 + d.toNat * 4194304 + a.toNat * 262144 + b.toNat * 16384 + n.toNat * 512 + m.toNat * 256)
  | .vshlv d a b n m => some (0x74000088 + d.toNat * 4194304 + a.toNat * 262144 + b.toNat * 16384 + n.toNat * 512 + m.toNat * 256)
  | .vshrv d a b n m => some (0x74000090 + d.toNat * 4194304 + a.toNat * 262144 + b.toNat * 16384 + n.toNat * 512 + m.toNat * 256)
  | .vadds d a b n m => some (0x74000098 + d.toNat * 4194304 + a.toNat * 262144 + b.toNat * 16384 + n.toNat * 512 + m.toNat * 256)
  | .vsubs d a b n m => some (0x740000A0 + d.toNat * 4194304 + a.toNat * 262144 + b.toNat * 16384 + n.toNat * 512 + m.toNat * 256)
  | .vmulh d a b n m => some (0x740000A8 + d.toNat * 4194304 + a.toNat * 262144 + b.toNat * 16384 + n.toNat * 512 + m.toNat * 256)
  | .vclz d a n m => some (0x740000B0 + d.toNat * 4194304 + a.toNat * 262144 + n.toNat * 512 + m.toNat * 256)
  | .vpopc d a n m => some (0x740000B8 + d.toNat * 4194304 + a.toNat * 262144 + n.toNat * 512 + m.toNat * 256)
  | .vfma d a b n m => some (0x740000C0 + d.toNat * 4194304 + a.toNat * 262144 + b.toNat * 16384 + n.toNat * 512 + m.toNat * 256)
  | .vcvt d a b n m => some (0x740000C8 + d.toNat * 4194304 + a.toNat * 262144 + b.toNat * 16384 + n.toNat * 512 + m.toNat * 256)
  | .vrnd d a n m => some (0x740000D0 + d.toNat * 4194304 + a.toNat * 262144 + n.toNat * 512 + m.toNat * 256)
  | .vrcp d a n m => some (0x740000D8 + d.toNat * 4194304 + a.toNat * 262144 + n.toNat * 512 + m.toNat * 256)
  | .vrsq d a n m => some (0x740000E0 + d.toNat * 4194304 + a.toNat * 262144 + n.toNat * 512 + m.toNat * 256)
  | .vaddx d a b n m => some (0x78000000 + d.toNat * 4194304 + a.toNat * 262144 + b.toNat * 8192 + n.toNat * 256 + m.toNat * 128)
  | .vsubx d a b n m => some (0x78000008 + d.toNat * 4194304 + a.toNat * 262144 + b.toNat * 8192 + n.toNat * 256 + m.toNat * 128)
  | .vmulx d a b n m => some (0x78000010 + d.toNat * 4194304 + a.toNat * 262144 + b.toNat * 8192 + n.toNat * 256 + m.toNat * 128)
  | .vmacx d a b n m => some (0x78000018 + d.toNat * 4194304 + a.toNat * 262144 + b.toNat * 8192 + n.toNat * 256 + m.toNat * 128)
  | .vminx d a b n m => some (0x78000020 + d.toNat * 4194304 + a.toNat * 262144 + b.toNat * 8192 + n.toNat * 256 + m.toNat * 128)
  | .vmaxx d a b n m => some (0x78000028 + d.toNat * 4194304 + a.toNat * 262144 + b.toNat * 8192 + n.toNat * 256 + m.toNat * 128)
  | .vandx d a b n m => some (0x78000030 + d.toNat * 4194304 + a.toNat * 262144 + b.toNat * 8192 + n.toNat * 256 + m.toNat * 128)
  | .vorx d a b n m => some (0x78000038 + d.toNat * 4194304 + a.toNat * 262144 + b.toNat * 8192 + n.toNat * 256 + m.toNat * 128)
  | .vxorx d a b n m => some (0x78000040 + d.toNat * 4194304 + a.toNat * 262144 + b.toNat * 8192 + n.toNat * 256 + m.toNat * 128)
  | .vshlx d a b n m => some (0x78000048 + d.toNat * 4194304 + a.toNat * 262144 + b.toNat * 8192 + n.toNat * 256 + m.toNat * 128)
  | .vshrx d a b n m => some (0x78000050 + d.toNat * 4194304 + a.toNat * 262144 + b.toNat * 8192 + n.toNat * 256 + m.toNat * 128)
  | .vsetx d b n m => some (0x78000058 + d.toNat * 4194304 + b.toNat * 8192 + n.toNat * 256 + m.toNat * 128)
  | .vrsubx d a b n m => some (0x78000060 + d.toNat * 4194304 + a.toNat * 262144 + b.toNat * 8192 + n.toNat * 256 + m.toNat * 128)
  | .vscalx d a b n m => some (0x78000068 + d.toNat * 4194304 + a.toNat * 262144 + b.toNat * 8192 + n.toNat * 256 + m.toNat * 128)
  | .eq t c a b n m => some (0x7C000000 + t.toNat * 16777216 + c.toNat * 4194304 + a.toNat * 262144 + b.toNat * 16384 + n.toNat * 512 + m.toNat * 256)
  | .ne t c a b n m => some (0x7C000008 + t.toNat * 16777216 + c.toNat * 4194304 + a.toNat * 262144 + b.toNat * 16384 + n.toNat * 512 + m.toNat * 256)
  | .lt t c a b n m => some (0x7C000010 + t.toNat * 16777216 + c.toNat * 4194304 + a.toNat * 262144 + b.toNat * 16384 + n.toNat * 512 + m.toNat * 256)
  | .le t c a b n m => some (0x7C000018 + t.toNat * 16777216 + c.toNat * 4194304 + a.toNat * 262144 + b.toNat * 16384 + n.toNat * 512 + m.toNat * 256)
  | .gt t c a b n m => some (0x7C000020 + t.toNat * 16777216 + c.toNat * 4194304 + a.toNat * 262144 + b.toNat * 16384 + n.toNat * 512 + m.toNat * 256)
  | .ge t c a b n m => some (0x7C000028 + t.toNat * 16777216 + c.toNat * 4194304 + a.toNat * 262144 + b.toNat * 16384 + n.toNat * 512 + m.toNat * 256)
  | .isnz t c a n m => some (0x7C000030 + t.toNat * 16777216 + c.toNat * 4194304 + a.toNat * 262144 + n.toNat * 512 + m.toNat * 256)
  | .eqx t c a b n m => some (0x80000000 + t.toNat * 16777216 + c.toNat * 4194304 + a.toNat * 262144 + b.toNat * 8192 + n.toNat * 256 + m.toNat * 128)
  | .nex t c a b n m => some (0x80000008 + t.toNat * 16777216 + c.toNat * 4194304 + a.toNat * 262144 + b.toNat * 8192 + n.toNat * 256 + m.toNat * 128)
  | .ltx t c a b n m => some (0x80000010 + t.toNat * 16777216 + c.toNat * 4194304 + a.toNat * 262144 + b.toNat * 8192 + n.toNat * 256 + m.toNat * 128)
  | .lex t c a b n m => some (0x80000018 + t.toNat * 16777216 + c.toNat * 4194304 + a.toNat * 262144 + b.toNat * 8192 + n.toNat * 256 + m.toNat * 128)
  | .gtx t c a b n m => some (0x80000020 + t.toNat * 16777216 + c.toNat * 4194304 + a.toNat * 262144 + b.toNat * 8192 + n.toNat * 256 + m.toNat * 128)
  | .gex t c a b n m => some (0x80000028 + t.toNat * 16777216 + c.toNat * 4194304 + a.toNat * 262144 + b.toNat * 8192 + n.toNat * 256 + m.toNat * 128)
  | .matchKey t c a b n m => some (0x80000030 + t.toNat * 16777216 + c.toNat * 4194304 + a.toNat * 262144 + b.toNat * 8192 + n.toNat * 256 + m.toNat * 128)
  | .rangeKey t c a b n m => some (0x80000038 + t.toNat * 16777216 + c.toNat * 4194304 + a.toNat * 262144 + b.toNat * 8192 + n.toNat * 256 + m.toNat * 128)
  | .tset d n => some (0x84000000 + d.toNat * 16777216 + n.toNat * 32768)
  | .tclr d n => some (0x84000400 + d.toNat * 16777216 + n.toNat * 32768)
  | .tnot d a n => some (0x84000800 + d.toNat * 16777216 + a.toNat * 4194304 + n.toNat * 32768)
  | .tand d a b n => some (0x84000C00 + d.toNat * 16777216 + a.toNat * 4194304 + b.toNat * 1048576 + n.toNat * 32768)
  | .tor d a b n => some (0x84001000 + d.toNat * 16777216 + a.toNat * 4194304 + b.toNat * 1048576 + n.toNat * 32768)
  | .txor d a b n => some (0x84001400 + d.toNat * 16777216 + a.toNat * 4194304 + b.toNat * 1048576 + n.toNat * 32768)
  | .tandn d a b n => some (0x84001800 + d.toNat * 16777216 + a.toNat * 4194304 + b.toNat * 1048576 + n.toNat * 32768)
  | .tmov d a n => some (0x84001C00 + d.toNat * 16777216 + a.toNat * 4194304 + n.toNat * 32768)
  | .tfirst d a n => some (0x84002000 + d.toNat * 16777216 + a.toNat * 4194304 + n.toNat * 32768)
  | .tlast d a n => some (0x84002400 + d.toNat * 16777216 + a.toNat * 4194304 + n.toNat * 32768)
  | .tshup d a n => some (0x84002800 + d.toNat * 16777216 + a.toNat * 4194304 + n.toNat * 32768)
  | .tshdn d a n => some (0x84002C00 + d.toNat * 16777216 + a.toNat * 4194304 + n.toNat * 32768)
  | .tval d n => some (0x84003000 + d.toNat * 16777216 + n.toNat * 32768)
  | .valt a n => some (0x84003400 + a.toNat * 4194304 + n.toNat * 32768)
  | .vcount d t n => some (0x88000000 + d.toNat * 2097152 + t.toNat * 524288 + n.toNat * 1024)
  | .vany d t n => some (0x88000008 + d.toNat * 2097152 + t.toNat * 524288 + n.toNat * 1024)
  | .vfirstx d t n => some (0x88000010 + d.toNat * 2097152 + t.toNat * 524288 + n.toNat * 1024)
  | .vextr d t v n => some (0x88000018 + d.toNat * 2097152 + t.toNat * 524288 + v.toNat * 32768 + n.toNat * 1024)
  | .vredsum d t v n => some (0x88000020 + d.toNat * 2097152 + t.toNat * 524288 + v.toNat * 32768 + n.toNat * 1024)
  | .vredmax d t v n => some (0x88000028 + d.toNat * 2097152 + t.toNat * 524288 + v.toNat * 32768 + n.toNat * 1024)
  | .vredmin d t v n => some (0x88000030 + d.toNat * 2097152 + t.toNat * 524288 + v.toNat * 32768 + n.toNat * 1024)
  | .vtopk d t v n => some (0x88000038 + d.toNat * 2097152 + t.toNat * 524288 + v.toNat * 32768 + n.toNat * 1024)
  | .vbotk d t v n => some (0x88000040 + d.toNat * 2097152 + t.toNat * 524288 + v.toNat * 32768 + n.toNat * 1024)
  | .vmaxloc d t v n => some (0x88000048 + d.toNat * 2097152 + t.toNat * 524288 + v.toNat * 32768 + n.toNat * 1024)
  | .vscanadd d a n m => some (0x8C000000 + d.toNat * 4194304 + a.toNat * 262144 + n.toNat * 512 + m.toNat * 256)
  | .vscanmax d a n m => some (0x8C000008 + d.toNat * 4194304 + a.toNat * 262144 + n.toNat * 512 + m.toNat * 256)
  | .vrowsh d a n m => some (0x8C000010 + d.toNat * 4194304 + a.toNat * 262144 + n.toNat * 512 + m.toNat * 256)
  | .vrowshup d a n m => some (0x8C000018 + d.toNat * 4194304 + a.toNat * 262144 + n.toNat * 512 + m.toNat * 256)
  | .vidx d n m => some (0x8C000020 + d.toNat * 4194304 + n.toNat * 512 + m.toNat * 256)
  | .vbcastf d a n m => some (0x8C000028 + d.toNat * 4194304 + a.toNat * 262144 + n.toNat * 512 + m.toNat * 256)
  | .vftag d n m => some (0x8C000030 + d.toNat * 4194304 + n.toNat * 512 + m.toNat * 256)
  | .vtagf a n m => some (0x8C000038 + a.toNat * 262144 + n.toNat * 512 + m.toNat * 256)
  | .vtli d a l n m => some (0x8C000040 + d.toNat * 4194304 + a.toNat * 262144 + l.toNat * 16384 + n.toNat * 512 + m.toNat * 256)
  | .vtlu d a l n m => some (0x8C000048 + d.toNat * 4194304 + a.toNat * 262144 + l.toNat * 16384 + n.toNat * 512 + m.toNat * 256)
  | .vsimh d a b n m => some (0x8C000050 + d.toNat * 4194304 + a.toNat * 262144 + b.toNat * 16384 + n.toNat * 512 + m.toNat * 256)
  | .vlda d a n m => some (0x90000000 + d.toNat * 4194304 + a.toNat * 8192 + n.toNat * 256 + m.toNat * 128)
  | .vldaSp d a n m => some (0x90040000 + d.toNat * 4194304 + a.toNat * 8192 + n.toNat * 256 + m.toNat * 128)
  | .vsta v a n m => some (0x90000008 + v.toNat * 4194304 + a.toNat * 8192 + n.toNat * 256 + m.toNat * 128)
  | .vldx d i a n m => some (0x90000010 + d.toNat * 4194304 + i.toNat * 262144 + a.toNat * 8192 + n.toNat * 256 + m.toNat * 128)
  | .vstx v i a n m => some (0x90000018 + v.toNat * 4194304 + i.toNat * 262144 + a.toNat * 8192 + n.toNat * 256 + m.toNat * 128)
  | .vstadd v i a n m => some (0x90000020 + v.toNat * 4194304 + i.toNat * 262144 + a.toNat * 8192 + n.toNat * 256 + m.toNat * 128)
  | .vspill v a n => some (0x90000028 + v.toNat * 4194304 + a.toNat * 8192 + n.toNat * 256)
  | .vfill d a n => some (0x90000030 + d.toNat * 4194304 + a.toNat * 8192 + n.toNat * 256)
  | .tload t a => some (0x90000038 + t.toNat * 4194304 + a.toNat * 8192)
  | .sbind q v b => some (0x94000000 + q.toNat * 2097152 + v.toNat * 65536 + b.toNat * 2048)
  | .sunb q => some (0x94000008 + q.toNat * 2097152)
  | .sbar a => some (0x94000010 + a.toNat * 65536)
  | .swait q => some (0x94000018 + q.toNat * 2097152)
  | .sstat d q => some (0x94000020 + d.toNat * 2097152 + q.toNat * 65536)
  | .amoadd d a b o w => some (0x98000000 + d.toNat * 2097152 + a.toNat * 65536 + b.toNat * 2048 + o.toNat * 512 + w.toNat * 32)
  | .amoand d a b o w => some (0x98000040 + d.toNat * 2097152 + a.toNat * 65536 + b.toNat * 2048 + o.toNat * 512 + w.toNat * 32)
  | .amoor d a b o w => some (0x98000080 + d.toNat * 2097152 + a.toNat * 65536 + b.toNat * 2048 + o.toNat * 512 + w.toNat * 32)
  | .amoxor d a b o w => some (0x980000C0 + d.toNat * 2097152 + a.toNat * 65536 + b.toNat * 2048 + o.toNat * 512 + w.toNat * 32)
  | .amomin d a b o w u => some (0x98000100 + d.toNat * 2097152 + a.toNat * 65536 + b.toNat * 2048 + o.toNat * 512 + w.toNat * 32 + u.toNat * 16)
  | .amomax d a b o w u => some (0x98000140 + d.toNat * 2097152 + a.toNat * 65536 + b.toNat * 2048 + o.toNat * 512 + w.toNat * 32 + u.toNat * 16)
  | .amoswap d a b o w => some (0x98000180 + d.toNat * 2097152 + a.toNat * 65536 + b.toNat * 2048 + o.toNat * 512 + w.toNat * 32)
  | .amocas d a b o w => some (0x980001C0 + d.toNat * 2097152 + a.toNat * 65536 + b.toNat * 2048 + o.toNat * 512 + w.toNat * 32)
  | .amaxf a b => some (0x9C000000 + a.toNat * 65536 + b.toNat * 2048)
  | .amaxfRel a b => some (0x9C000008 + a.toNat * 65536 + b.toNat * 2048)
  | .acq c => some (0xA0000000 + c.toNat * 1024)
  | .rel c => some (0xA0002000 + c.toNat * 1024)
  | .fence c => some (0xA0004000 + c.toNat * 1024)
  | .cbget d c => some (0xA4000000 + d.toNat * 2097152 + c.toNat * 65536)
  | .cbput c => some (0xA4000008 + c.toNat * 65536)
  | .cbpop d c => some (0xA4000010 + d.toNat * 2097152 + c.toNat * 65536)
  | .cbrel c => some (0xA4000018 + c.toNat * 65536)
  | .cbstat d c => some (0xA4000020 + d.toNat * 2097152 + c.toNat * 65536)
  | .cbgetn d c b => some (0xA4000028 + d.toNat * 2097152 + c.toNat * 65536 + b.toNat * 2048)
  | .cbpopn d c b => some (0xA4000030 + d.toNat * 2097152 + c.toNat * 65536 + b.toNat * 2048)
  | .cbdef c b => some (0xA4000038 + c.toNat * 65536 + b.toNat * 2048)
  | .strip a => some (0xA8000000 + a.toNat * 65536)
  | .scommit => some (0xA8000008)
  | .sabort => some (0xA8000010)
  | .farm f a b => some (0xAC000000 + f.toNat * 2097152 + a.toNat * 65536 + b.toNat * 2048)
  | .fnext d f => some (0xAC000008 + d.toNat * 2097152 + f.toNat * 65536)
  | .bar => some (0xAC000010)
  | .arrive => some (0xAC000018)
  | .await => some (0xAC000020)
  | .xredadd d a => some (0xB0000000 + d.toNat * 2097152 + a.toNat * 65536)
  | .xredmax d a u => some (0xB0000008 + d.toNat * 2097152 + a.toNat * 65536 + u.toNat * 2048)
  | .xredmin d a u => some (0xB0000010 + d.toNat * 2097152 + a.toNat * 65536 + u.toNat * 2048)
  | .xscanadd d a => some (0xB0000018 + d.toNat * 2097152 + a.toNat * 65536)
  | .xbcast d a b => some (0xB0000020 + d.toNat * 2097152 + a.toNat * 65536 + b.toNat * 2048)
  | .xredfadd d a f => some (0xB0000028 + d.toNat * 2097152 + a.toNat * 65536 + f.toNat * 2048)
  | .cqapp d c b => some (0xB4000000 + d.toNat * 2097152 + c.toNat * 65536 + b.toNat * 2048)
  | .cqgo c => some (0xB4000008 + c.toNat * 65536)
  | .cqwait c b => some (0xB4000010 + c.toNat * 65536 + b.toNat * 2048)
  | .cqstat d c => some (0xB4000018 + d.toNat * 2097152 + c.toNat * 65536)
  | .cqdone d c b => some (0xB4000020 + d.toNat * 2097152 + c.toNat * 65536 + b.toNat * 2048)
  | .mma k a c n p m f => some (0xB8000000 + k.toNat * 33554432 + a.toNat * 1048576 + c.toNat * 32768 + n.toNat * 1024 + p.toNat * 32 + m.toNat * 16 + f.toNat * 8)
  | .mldb l a b => some (0xBC000000 + l.toNat * 2097152 + a.toNat * 65536 + b.toNat * 2048)
  | .mwait => some (0xBC000008)
  | .mlicAcq d => some (0xBC000010 + d.toNat * 2097152)
  | .mlicAcqw => some (0xBC000018)
  | .mlicRel => some (0xBC000020)
  | .mlicSt d => some (0xBC000028 + d.toNat * 2097152)
  | .dpload d a b => some (0xC0000000 + d.toNat * 2097152 + a.toNat * 65536 + b.toNat * 2048)
  | .dpinfo d a => some (0xC0000008 + d.toNat * 2097152 + a.toNat * 65536)
  | .kvfind d a b => some (0xC4000000 + d.toNat * 2097152 + a.toNat * 65536 + b.toNat * 2048)
  | .kvins d a b => some (0xC4000008 + d.toNat * 2097152 + a.toNat * 65536 + b.toNat * 2048)
  | .kvpin d a => some (0xC4000010 + d.toNat * 2097152 + a.toNat * 65536)
  | .kvunpin d a => some (0xC4000018 + d.toNat * 2097152 + a.toNat * 65536)
  | .kvref d a b => some (0xC4000020 + d.toNat * 2097152 + a.toNat * 65536 + b.toNat * 2048)
  | .kvwin q a => some (0xC4000028 + q.toNat * 2097152 + a.toNat * 65536)
  | .nrd d t => some (0xC8000000 + d.toNat * 2097152 + t.toNat * 65536)
  | .nwr t b => some (0xC8000008 + t.toNat * 65536 + b.toNat * 2048)
  | .nswap d t b => some (0xC8000010 + d.toNat * 2097152 + t.toNat * 65536 + b.toNat * 2048)
  | .fpush a => some (0xC8000018 + a.toNat * 65536)
  | .fpop a => some (0xC8000020 + a.toNat * 65536)
  | .fcnt d => some (0xC8000028 + d.toNat * 2097152)
  | .pgreq d a => some (0xC8000030 + d.toNat * 2097152 + a.toNat * 65536)
  | .tbar k => some (0xC8000038 + k.toNat * 65536)
  | .svsave d a b => some (0xCC000000 + d.toNat * 2097152 + a.toNat * 65536 + b.toNat * 2048)
  | .svrest d a b => some (0xCC000008 + d.toNat * 2097152 + a.toNat * 65536 + b.toNat * 2048)
  | .slreplay d a => some (0xCC000010 + d.toNat * 2097152 + a.toNat * 65536)
  | .tlbinv d a => some (0xCC000018 + d.toNat * 2097152 + a.toNat * 65536)
  | .hfreeze d a b => some (0xCC000020 + d.toNat * 2097152 + a.toNat * 65536 + b.toNat * 2048)
  | .hthaw d a => some (0xCC000028 + d.toNat * 2097152 + a.toNat * 65536)
  | .esload d a b => some (0xCC000030 + d.toNat * 2097152 + a.toNat * 65536 + b.toNat * 2048)
  | .estep d => some (0xCC000038 + d.toNat * 2097152)
  | _ => none

/-- The stall count of a word (03 R72, R80). -/
def stallOf (w : Word) : Stall := w.extractLsb' 0 3

/-- The word of an instruction and a stall count. -/
def encode (i : Instr) (st : Stall) : Option Word := (encodeNat i).map fun n => BitVec.ofNat 32 (n + st.toNat)

/-- Whether a word that does not decode names a privileged form with an assigned function value: check 3 of R79 comes
before its reserved bits. -/
def privilegedWord (w : Word) : Bool :=
  let n := w.toNat
  (n / 67108864 == 0x33 && n / 8 % 256 < 8) || (n / 67108864 == 0x1A && n / 8 % 256 == 0x10)

end Sys2Proof
end

