-- ==== Sys2Proof/Config.lean ====
section
/-! DEFINITION. The constants of the KF-C2-A448, and the free values: constants with no body, of which nothing can be
proved, for what the manual leaves open. -/

namespace Sys2Proof.Config

/-- Cores in a die (00 R9). -/
def coresPerDie : Nat := 14
/-- Die pairs of the module (00 R1). -/
def diePairs : Nat := 16
/-- Rows of a cluster (00 R2). -/
def rowsPerCluster : Nat := 16384
/-- Bytes of HBM of one device (09 R212). -/
def hbmBytes : Nat := 16 * 96 * 1024 * 1024 * 1024
/-- The largest PLIMIT, its reset value (21 R426). -/
def powerLimit : Nat := 8500

/-- DESIGN CHOICE (log 8, safe). The byte that the host holds at a location that nothing of the model has written
(01 R48: it need not be zero). -/
opaque hostByte : Nat → Byte
/-- DESIGN CHOICE (log 4, safe). A free choice among several things the manual leaves unordered (02 R71, 07 R176,
12 R288): the argument is the counter `choice` of the state. -/
opaque pick : Nat → Nat
/-- DESIGN CHOICE (log 10, safe). Energy in nJ that a core measures for the work of a context in one microsecond (18 R390). -/
opaque energyDrawn : Nat → Nat → Nat → Nat
/-- DESIGN CHOICE (log 10, safe). Energy in nJ that a core measures in one microsecond and that serves no single context (18 R390). -/
opaque energyShared : Nat → Nat → Nat
/-- DESIGN CHOICE (log 10, safe). Energy in nJ that the system's own work draws in one microsecond (18 R391). -/
opaque energySystem : Nat → Nat
/-- DESIGN CHOICE (log 10, safe). Energy in nJ of a piece of the work of 18 R391, by the counter `choice` of the state. -/
opaque workEnergy : Nat → Nat
/-- DESIGN CHOICE (log 11, safe). Whether the in-field test of a cluster passes (17 R366). -/
opaque fieldTest : Nat → Bool
/-- DESIGN CHOICE (log 12, safe). The root key hash of the fuses (21 R430). -/
opaque rootKeyHash : BitVec 512
/-- DESIGN CHOICE (log 12, safe). The security version counter of the fuses (21 R430). -/
opaque fusedVersion : Nat
/-- DESIGN CHOICE (log 12, safe). The answers of port 0 to SPDM requests (21 R431): request code, argument bytes and
the measurement registers. -/
opaque spdmAnswer : Nat → List Byte → List (BitVec 512) → List Byte
/-- DESIGN CHOICE (log 12, safe). Whether the verify data of an SPDM FINISH is right. -/
opaque spdmVerify : List Byte → Bool
/-- DESIGN CHOICE (log 52, safe). The power that a die draws in a microsecond (21 R431, R435). -/
opaque dieDraw : Nat → Nat → Nat
/-- DESIGN CHOICE (log 12, safe). The temperature of a die in a microsecond (21 R431). -/
opaque dieTemperature : Nat → Nat → Nat
/-- DESIGN CHOICE (log 13, safe). A byte of the destination frame that a failed migration leaves undefined (09 R225). -/
opaque migrationByte : Nat → Byte

/-- DESIGN CHOICE (log 23, safe). A byte of data that is written as poisoned (12 R289). -/
opaque poisonByte : Nat → Byte
/-- DESIGN CHOICE (log 6, safe). The set of a shared cache half that a line lives in (09 R205). -/
opaque cacheSet : Nat → Nat
/-- DESIGN CHOICE (log 6, safe). The set of an L1 that a line lives in (09 R204). -/
opaque l1Set : Nat → Nat
/-- DESIGN CHOICE (log 6, safe). The set of a core TLB that a translation lives in, by base, size and context (09 R219). -/
opaque tlbSet : Nat → Nat → Nat → Nat

end Sys2Proof.Config
end

