-- ==== Sys2Proof/Machine/Sparse.lean ====
section
/-! DEFINITION. Maps with natural keys as lists of key and value pairs, keys rising: finite maps, and sparse stores whose
unlisted keys read as a default that is never listed. -/

namespace Sys2Proof.Machine

/-- A finite map: pairs with strictly rising keys. -/
abbrev FMap (α : Type) := List (Nat × α)

/-- The value at a key, if listed. -/
def FMap.get? {α : Type} : FMap α → Nat → Option α
  | [], _ => none
  | (j, v) :: m, k => if j = k then some v else FMap.get? m k

/-- Lists a value at a key, in its place. -/
def FMap.put {α : Type} : FMap α → Nat → α → FMap α
  | [], k, v => [(k, v)]
  | (j, w) :: m, k, v =>
    if k < j then (k, v) :: (j, w) :: m else if j = k then (k, v) :: m else (j, w) :: FMap.put m k v

/-- Takes a key off the list. -/
def FMap.erase {α : Type} (m : FMap α) (k : Nat) : FMap α := m.filter fun e => e.1 ≠ k

/-- The keys are strictly rising. -/
def FMap.sorted {α : Type} : FMap α → Bool
  | [] => true
  | [_] => true
  | (j, _) :: (k, w) :: m => decide (j < k) && FMap.sorted ((k, w) :: m)

/-- Changes the value at a key, where it is listed. -/
def FMap.modify {α : Type} (m : FMap α) (k : Nat) (f : α → α) : FMap α :=
  match m.get? k with
  | some v => m.put k (f v)
  | none => m

/-- Puts a value, or erases the key for none. -/
def FMap.set? {α : Type} (m : FMap α) (k : Nat) : Option α → FMap α
  | some v => m.put k v
  | none => m.erase k

/-- What a sparse store holds at a key: the default d where the key is not listed. -/
def sparseGet {α : Type} (d : Nat → α) (m : FMap α) (k : Nat) : α := (m.get? k).getD (d k)

/-- Writes a sparse store; writing the default takes the key off the list. -/
def sparsePut {α : Type} [DecidableEq α] (d : Nat → α) (m : FMap α) (k : Nat) (v : α) : FMap α :=
  if v = d k then m.erase k else m.put k v

/-- The canonical form of a sparse store: keys strictly rising, no key listed with its default. -/
def sparseWf {α : Type} [DecidableEq α] (d : Nat → α) (m : FMap α) : Bool :=
  m.sorted && m.all fun e => decide (e.2 ≠ d e.1)

/-- Puts an element into a list in order, before those that it may precede. -/
def insertBy {α : Type} (le : α → α → Bool) (a : α) : List α → List α
  | [] => [a]
  | b :: l => if le a b then a :: b :: l else b :: insertBy le a l

/-- A list in order; elements of equal rank keep theirs. -/
def sortBy {α : Type} (le : α → α → Bool) : List α → List α
  | [] => []
  | a :: l => insertBy le a (sortBy le l)

end Sys2Proof.Machine
end

