-- ==== Sys2Proof/Machine/State.lean ====
section
/-! DEFINITION. The state of the module as plain data, its reasons to stop, and the state after reset. -/

namespace Sys2Proof.Machine

/-- Why a step stops with a fault. -/
inductive Fault where
  /-- The module has no power (18 R394, R432) and no power-on is waiting: raised by `step` alone. Safe: a machine
  without power does nothing. -/
  | powerOff
deriving DecidableEq, Repr

/-- Why an instruction has no meaning. -/
inductive Refusal where
  /-- The arm of `exec` has no meaning yet. Safe: nothing can be proved of what it does. -/
  | notModelled (mnemonic : String)
deriving DecidableEq, Repr

/-- Whose word runs: a hart (01 R15) or the steward of a core (17 R355). -/
inductive Agent where
  | hart (h : HartKey)
  | steward (core : CoreId)
deriving DecidableEq, Repr

/-! ## The scalar part of a hart, and of a steward -/

/-- A loop stack entry (01 R19). -/
structure LoopEntry where
  index : BitVec 32
  count : BitVec 32
  start : Dword
  last : Dword
deriving DecidableEq, Repr

/-- A loaded prefix latch (01 R20, 03 R84). -/
structure PfxLatch where
  psel : BitVec 3
  pinv : Bool
  dce : Bool
  dcr : BitVec 5
deriving DecidableEq, Repr

/-- A field descriptor (01 R31); width 0 is undefined. -/
structure FieldDesc where
  base : BitVec 9 := 0
  width : BitVec 7 := 0
  type : BitVec 3 := 0
deriving DecidableEq, Repr

/-- What brings a scoreboarded result: the cluster divider (04 R99), a load or an AMO, a query of the rows (06 R146),
a licence request (13 R307), or other work. -/
inductive ResultKind where
  | plain | div | memory | query | licence
deriving DecidableEq, Repr

/-- A result on its way to a scalar register, and the cycle from which it can be read (03 R81). -/
structure PendingWrite where
  rd : Reg
  value : Dword
  ready : Nat
  kind : ResultKind := .plain
  /-- The number of the access on qd that still has to bring the value. -/
  owner : Option Nat := none
deriving DecidableEq, Repr

/-- The scalar state of a hart or a steward. DESIGN CHOICE (log 1). -/
structure Scalar where
  x : Vector Dword 32 := Vector.replicate 32 0
  pc : Dword := 0
  /-- Level 0, the innermost entry, first. -/
  loops : List LoopEntry := []
  latch : Option PfxLatch := none
  preds : Byte := 1
  /-- Fixed-latency results still pending (03 R81 to R83), oldest first. -/
  fixed : List PendingWrite := []
  /-- Scoreboarded results outstanding (03 R81). -/
  board : List PendingWrite := []
  /-- The first cycle in which the next word may issue (03 R80, 04 R97). -/
  nextIssue : Nat := 0
  instret : Dword := 0
deriving DecidableEq, Repr

/-- The control and status registers of a hart that are not held elsewhere (01 R21). -/
structure Csrs where
  hid : Nat := 0
  teamid : Dword := 0
  nharts : Nat := 0
  rowbase : BitVec 14 := 0
  rmode : BitVec 3 := 0
  fflags : BitVec 7 := 0
  kmask : Dword := 0
  mk0 : Dword := BitVec.allOnes 64
  mk1 : Dword := BitVec.allOnes 64
  mbx : Vector Dword 8 := Vector.replicate 8 0
  tvec : Dword := 0
  tepc : Dword := 0
  tcause : Dword := 0
  tval : Dword := 0
  sbase : Dword := 0
  pfxl : BitVec 11 := 0
  tscr : Dword := 0
  inh : Bool := false
  ntimeo : Dword := 1048576
  schk : Bool := false
  migwait : Dword := 65535
deriving DecidableEq, Repr

/-! ## The memory side of a hart -/

/-- The accesses of a stream: the VMEM instructions (10 R228) and the blocks of bound streams, and the scalar loads, stores, AMOs
and folds that wait on qd (R226). -/
inductive TransferKind where
  | load | scale | store | loadX | storeX | addX | spill | fill | table | ld | st | amo | fold
deriving DecidableEq, Repr

/-- An access of a stream that has been issued and is not performed: a VMEM transfer or stream block after its check phase (10
R233), or a scalar access that waits on qd, with what it read at issue. -/
structure Transfer where
  kind : TransferKind
  desc : FieldDesc := {}
  index : FieldDesc := {}
  row0 : Nat := 0
  rows : Nat := 1
  addr : Dword
  masked : Bool := false
  rmode : BitVec 3 := 0
  /-- The table slot of a TLOAD (06 R156). -/
  slot : Nat := 0
  /-- The format byte of a VFILL, read in its check phase (09 R211). -/
  format : Nat := 0
  /-- Its stream: 8 for qd. -/
  stream : Nat := 8
  /-- Its number among the hart's instructions, for the side log and the order of overlapping accesses. -/
  owner : Nat := 0
  /-- The word of a scalar access, with x[xb] and the old x[xd]. -/
  word : Option Instr := none
  data : Dword := 0
  old : Dword := 0
  /-- The window edge that a stream block started with, the stream index of its first row, and whether the edge is taken (15
  R346). -/
  edge : Nat := 0
  index0 : Nat := 0
  edged : Bool := false
  /-- Rows of an indexed form whose element is still to be accessed, with its address, read in the check phase (10 R232). -/
  addrs : List (Nat × Dword) := []
  /-- Rows whose source has been read, their offsets, addresses and values, and whether that is all of them (01 R41, 10 R238). -/
  took : Nat := 0
  taken : Bool := false
  values : List (Nat × Dword × Nat) := []
  /-- Rows of a load whose poison clears tgv. -/
  marked : List Nat := []
  /-- Bytes read of the element, image or table that is being read. -/
  got : List Byte := []
  /-- Units moved so far. -/
  pos : Nat := 0
  /-- The first cycle in which it may move, and the first in which its last unit may land (09 R436, 10 R233). -/
  ready : Nat := 0
  last : Nat := 0
deriving DecidableEq, Repr

/-- The binding of a stream (10 R236 to R240). -/
structure Binding where
  /-- The binding record, byte 0 least significant. -/
  record : BitVec 256
  desc : FieldDesc
  rowbase : Nat
  /-- Blocks started since SBIND. -/
  started : Nat := 0
  /-- Blocks completed since SBIND. -/
  moved : Nat := 0
  /-- SWAITs completed. -/
  waits : Nat := 0
  /-- The block in flight: rows moved of it. -/
  block : Option Transfer := none
  /-- A fault of the block in flight, cause and value, and whether it has been raised (R239). -/
  fault : Option (Nat × Dword) := none
  raised : Bool := false
  /-- A word that holds the hart itself has passed over the failed block: it keeps nothing back until it starts again. -/
  waived : Bool := false
  /-- The edge E of a window bound by KVWIN (15 R346). -/
  edge : Nat := 0
deriving DecidableEq, Repr

/-- A 64-byte granule of a strip (10 R249), or of committed stores that drain (R250). -/
structure Granule where
  addr : Dword
  /-- A bit for each nibble held. -/
  mask : BitVec 128
  data : BitVec 512
  /-- The number of the instruction that stored each byte. -/
  ages : Vector Nat 64 := Vector.replicate 64 0
deriving DecidableEq, Repr

/-- What a side-log entry replays (17 R357). -/
inductive SideKind where
  /-- Stores masked bytes. -/
  | store
  /-- Adds the elements of a type and size in bytes, under a rounding mode. -/
  | add (type : BitVec 3) (size : Nat) (rmode : BitVec 3)
  /-- Folds an FP32 magnitude. -/
  | fold
deriving DecidableEq, Repr

/-- An entry of a side log: one 128-byte line of one instruction (17 R357, 14 R331). DEDUCED (log 55). -/
structure SideEntry where
  line : Dword
  kind : SideKind
  /-- A bit for each nibble held. -/
  mask : BitVec 256
  data : BitVec 1024
  ctx : Nat
  /-- The instruction, or the row of a drain, that it belongs to. -/
  owner : Nat
  /-- The stream of that instruction: 8 for qd. -/
  stream : Nat := 8
deriving DecidableEq, Repr

/-- An ordering point that older accesses still hold back (10 R240, R245). -/
structure OrderPoint where
  /-- Streams whose older accesses must be performed and whose younger accesses wait: bit 8 is qd. -/
  streams : BitVec 9
  /-- Younger loads wait too. -/
  loads : Bool
  /-- Older stores must be performed, not loads alone. -/
  stores : Bool := true
  /-- The scope of a release: 0 h, 1 c, 2 p, 3 d, 4 s; none for none. -/
  release : Option Nat
  /-- The scope of an acquire. -/
  acquire : Option Nat
  /-- The earliest cycle in which it completes. -/
  ready : Nat
  /-- Its older accesses are performed: the self-invalidation of its acquire is under way. -/
  settled : Bool := false
  /-- The number of its instruction: older ones come before it. -/
  owner : Nat
  /-- The release of an FPUSH: the entry that it fills, and the row (19 R403). -/
  fill : Option (Nat × Row) := none
  /-- The release of an ARRIVE, which counts once it is performed (08 R191, R192). -/
  arrives : Bool := false
deriving DecidableEq, Repr

/-- A word that the hart has stored over and that fetch may still return (01 R49), and the number of the storing instruction. -/
structure StaleWord where
  addr : Dword
  old : Word
  owner : Nat
deriving DecidableEq, Repr

/-- What a blocking word of a hart has already done while it waits (07 R166). -/
inductive Wait where
  | none
  /-- WFE since a cycle (04 R117). -/
  | wfe (since : Nat)
  /-- ARRIVE, BAR or XTREE whose release is under way, with what it read at its issue (08 R192, R196). -/
  | releasing (value extra : Dword)
  /-- BAR, AWAIT or XTREE that has arrived (08 R191). -/
  | arrived
  /-- NSWAP or TBAR that waits for its place, up to a cycle, with the value read at its issue (19 R400). -/
  | meeting (deadline : Nat) (value : Dword)
  /-- NSWAP or TBAR whose release is under way, with the cycles that are left of its limit, and its value. -/
  | publishing (left : Nat) (value : Dword)
  /-- NSWAP or TBAR that has arrived and waits for its partner. -/
  | twin
  /-- FPUSH of the row at an address that waits for a free entry (19 R403). -/
  | pushing (va : Dword)
  /-- FPUSH that has taken entry number n of its FIFO and reads its row from a cycle on. -/
  | fpush (n : Nat) (va : Dword) (ready : Nat)
  /-- FPOP to an address that waits until the oldest entry is filled. -/
  | popping (va : Dword)
  /-- FPOP that has taken an entry and writes its row from a cycle on. -/
  | fpop (va : Dword) (row : Row) (ready : Nat)
  /-- A word that reads a record or an image while other agents may write it: the cycle by which it has read it, the bytes that it has
  read, by address, and the two registers that it reads, as read at its issue (11 R257). -/
  | record (due : Nat) (got : List (Dword × Byte)) (x y : Dword)
  /-- SWAIT that has started its block (10 R238). -/
  | swait
  /-- A KV word on its way to its directory: the cycle of its step, the token record, and x[xa] and x[xb] as read at its issue (15
  R340, R344). -/
  | directory (due : Nat) (record : List Byte) (a b : Dword)
  /-- A trap bound for the steward that is taken when the passes of an older array instruction end (01 R44). -/
  | trapping (cause : Nat) (value addr : Dword)
deriving DecidableEq, Repr

/-- A drain program slot (14 R313). -/
structure DrainSlot where
  ctx : Nat
  words : List (BitVec 16)
  params : Vector Dword 32
  q : Nat
deriving DecidableEq, Repr

/-- A DPLOAD that has issued (14 R316, R318): its slot, what it has still to load into it, its number among the hart's instructions,
and the earliest cycle in which its result is written. -/
structure SlotLoad where
  slot : Nat
  program : Option DrainSlot
  owner : Nat
  ready : Nat
deriving DecidableEq, Repr

/-- The drain state of one row (14 R314): the lane registers, the scale latch, and the pending C row. -/
structure Lanes where
  d : Vector (List Nat) 8 := Vector.replicate 8 (List.replicate 128 0)
  scale : List (Option (Nat × Nat)) := List.replicate 4 none
  pending : Option (List Nat) := none
deriving DecidableEq, Repr

/-- The row that a drain runs, and the next of its micro-words. -/
structure DrainRow where
  lanes : Lanes := {}
  pos : Nat := 0
deriving DecidableEq, Repr

/-- A supervisor-level trap that holds a hart (17 R353). -/
structure Held where
  cause : Nat
  value : Dword
  addr : Dword
  /-- Frozen by a PROT, and not thawed since (R363). -/
  frozen : Bool := false
deriving DecidableEq, Repr

/-- A resident hart. -/
structure Hart where
  sc : Scalar := {}
  csr : Csrs := {}
  fields : Vector FieldDesc 16 := Vector.replicate 16 {}
  colbase : Nat := 0
  cols : Nat := 512
  ctx : Nat := 0
  launch : Nat := 0
  team : Nat := 0
  /-- MODEL's own: the cycle of the hart's start, for CSR cycle. -/
  startCycle : Nat := 0
  /-- The event latch (04 R117). Empty at the start: DESIGN CHOICE (log 30). -/
  eventLatch : Bool := false
  /-- The hart is held until this device time by a gang launch (21 R424). -/
  gangHold : Bool := false
  /-- The cycle of the last issue, or of residency (07 R169). -/
  lastIssue : Nat := 0
  /-- The cycle since which the hart claims the arrays (07 R167). -/
  claim : Option Nat := none
  /-- Barred by YIELD for one selection (07 R171). -/
  barred : Bool := false
  /-- The cycle in which the passes of its older array instructions end (01 R42). -/
  arrayDone : Nat := 0
  wait : Wait := .none
  /-- The word that waits, and the cycle of its issue. -/
  waitWord : Word := 0
  waitFrom : Nat := 0
  vmem : List Transfer := []
  streams : Vector (Option Binding) 8 := Vector.replicate 8 none
  orders : List OrderPoint := []
  /-- The base of the open strip. -/
  strip : Option Dword := none
  granules : List Granule := []
  draining : List Granule := []
  sideLog : List SideEntry := []
  stale : List StaleWord := []
  /-- Fetch sees every store of the hart's instructions below `fresh`: those older than the newest FENCE that a taken branch or
  jump has followed; `fenced` counts those older than the newest FENCE (01 R49). -/
  fenced : Nat := 0
  fresh : Nat := 0
  /-- A store that was dropped for want of a route (21 R416): its address, for the next release that waits for it. -/
  lost : Option Dword := none
  /-- Functions that received stores of the hart since their last flush read (11 R270): a peer's number, or 8, the host. -/
  posted : List Nat := []
  /-- The cycle by which every home has acknowledged the hart's stores (11 R254, R272). -/
  ackAt : Nat := 0
  /-- The cycle by which the flush reads of the peers that received its stores have completed (11 R272). -/
  flushAt : Nat := 0
  /-- A fault of an access that had retired: cause and value, raised at the hart's next word. -/
  overdue : Option (Nat × Dword) := none
  /-- Rendezvous state (08 R190). -/
  pend : Bool := false
  pt : Nat := 0
  /-- The phase a pending arrival belongs to broke with this code (08 R194). -/
  broken : Option Nat := none
  /-- The phase in which its word waits has completed while the hart was stopped: its value, its flags, and the participants (08
  R196). -/
  outcome : Option (Dword × BitVec 7 × Nat) := none
  held : Option Held := none
  /-- Frozen by HFREEZE (17 R364). -/
  frozen : Bool := false
  /-- The disposition that a routine has given a held hart after it had left its slot (17 R356). -/
  disposed : Option (Nat × Held) := none
  /-- SVSAVE has saved it, and SVREST has not loaded it since (17 R361); it has been saved since it was last held. -/
  saved : Bool := false
  kept : Bool := false
  /-- Stopped by pre-emption or a gate (18 R376, 19 R407). -/
  stopped : Bool := false
  slotLoads : List SlotLoad := []
  /-- A pending matrix error: cause and value of the next MWAIT (14 R330, 17 R364, R365). -/
  mwaitErr : Option (Nat × Dword) := none
  /-- The cycle from which an MWAIT may retire: 4 after the end of its last drain (13 R305). -/
  mwaitFrom : Nat := 0
deriving DecidableEq, Repr

/-! ## Clusters and cores -/

/-- A table slot of a cluster (06 R155). -/
structure TableSlot where
  ctx : Nat
  data : List Byte
deriving DecidableEq, Repr

/-- A band of columns with a slot's tag and validity columns: of an ended hart not yet cleared (07 R164), or still
resident for a stopped context (18 R381). -/
structure Band where
  slot : Nat
  colbase : Nat
  cols : Nat
  ctx : Nat := 0
  /-- The cycle since which it waits to be cleared, its claim on the arrays (07 R164, R167). -/
  since : Nat := 0
deriving DecidableEq, Repr

/-- A lane cluster. -/
structure Cluster where
  tags : Vector Column 16 := Vector.replicate 16 0
  valid : Vector Column 4 := Vector.replicate 4 0
  tables : Vector (Option TableSlot) 4 := Vector.replicate 4 none
  /-- The first cycle in which the arrays are free (01 R42). -/
  arraysFree : Nat := 0
  /-- The table slot that the array instruction under way reads (06 R160). -/
  reading : Option Nat := none
  /-- The window granted since the last hart array instruction ended: its user and its length so far (09 R203). -/
  window : Option (Nat × Nat) := none
  /-- GTO: the slot of the current hart and its run count; RR: the rotation point (07 R169, R170). -/
  current : Option Nat := none
  runCount : Nat := 0
  rotation : Nat := 0
  fenced : Bool := false
  /-- The thermal controller's limit and the codes in force: 0 sixteen, 1 eight, 2 four arrays (21 R433, R435). -/
  thermalLane : Nat := 0
  /-- The clock pattern that the controller asks for (21 R434, R435). -/
  thermalSkip : Byte := 0
  laneCode : Nat := 0
  railLow : Bool := false
  skip : Byte := 0
  clears : List Band := []
  marks : List Band := []
  /-- The shadow bank (18 R380): slot and hart. -/
  bank : List (Nat × Hart) := []
deriving DecidableEq, Repr

/-- A supervisor event (17 R354, R355). -/
structure SupEvent where
  kind : Nat
  master : BitVec 16
  ctx : Nat
  value : Dword
  pc : Dword
  x : Byte
  /-- MODEL's own: launch and team of the hart of an HTRAP event. -/
  who : Option (Nat × Nat) := none
deriving DecidableEq, Repr

/-- The steward of a core (17 R354, R355). DESIGN CHOICE (log 1). -/
structure Steward where
  sc : Scalar := {}
  /-- The event queue; events beyond the first 64 wait at their sources. -/
  events : List SupEvent := []
  /-- A routine runs, for the head event. -/
  running : Bool := false
  ipol : Byte := 0
  svec : Dword := 0
  sevk : Dword := 0
  sevv : Dword := 0
  sevpc : Dword := 0
  sevx : Dword := 0
  sdisp : BitVec 2 := 0
  serr : Byte := 0
  serrv : Dword := 0
  stxs : BitVec 32 := 0
  clctl : Dword := 0
deriving DecidableEq, Repr

/-- How far a command of a chain has come (12 R280, R284, R292). -/
inductive CmdStage where
  | batch | queued | running
  /-- In a park slot, with the faulting address. -/
  | parked (slot : Nat) (at_ : Dword)
  /-- Faulted while all park slots are full: waits in its execution slot. -/
  | parking (at_ : Dword)
  /-- Resumed by the steward and waiting for an execution slot. -/
  | resumed
  | frozen
  /-- Frozen, and stopped with its context: without its execution slot (18 R379). -/
  | iced
  /-- Handed on: an MMAF in the matrix queue, a launch, a collective. -/
  | handed
  | done
deriving DecidableEq, Repr

/-- A source line that a command has read (11 R265): its address, its bytes, and whether they hold poison. -/
structure LineBuf where
  addr : Dword
  bytes : List Byte
  poisoned : Bool
deriving DecidableEq, Repr

/-- A row of a batch that has not landed: its number, the pieces moved of it, the source line it has read last, and whether a
poisoned one has been counted (12 R289, R292). -/
structure RowLeft where
  row : Nat
  moved : Nat := 0
  held : Option LineBuf := none
  spoilt : Bool := false
deriving DecidableEq, Repr

/-- A batch of GATHER or SCATTER in flight (12 R288): its first row, its indices, none for a poisoned one, the rows that have not
landed, and the cycle from which they may (R293). -/
structure IndexBatch where
  first : Nat
  index : List (Option Nat)
  left : List RowLeft
  ready : Nat := 0
deriving DecidableEq, Repr

/-- A command of a chain. -/
structure Cmd where
  seq : BitVec 32
  /-- The address of its record. -/
  at_ : Dword
  rm : BitVec 3
  /-- Opcode and flags of the header as read at append. -/
  op : Nat
  fence : Bool
  signal : Bool
  follow : Bool
  cbdst : Bool
  crec : Dword
  /-- The follow-on record before it in its list. -/
  following : Bool := false
  /-- The launch and team of the appending hart (09 R201), and the hart for its event. -/
  team : Option (Nat × Nat) := none
  hart : Option HartKey := none
  /-- The windows of W-space and C-space that it uses, from its start on (09 R201): base and length of each. -/
  window : (Nat × Nat) × (Nat × Nat) := ((0, 0), (0, 0))
  /-- The record as read at start (R284), byte 0 least significant. -/
  record : BitVec 512 := 0
  stage : CmdStage := .batch
  /-- The record has been read and its checks have passed. -/
  read : Bool := false
  /-- Pieces of work finished, or batches whose indices have been read. -/
  pos : Nat := 0
  batches : List IndexBatch := []
  /-- The source line that COPY has read last. -/
  held : Option LineBuf := none
  status : Nat := 0
  errors : Nat := 0
  /-- The slot that CBDST took (R290): its buffer, its address, and its place in the order in which that buffer's were taken. -/
  cbSlot : Option (Nat × Dword × Nat) := none
  /-- The first cycle of its next step, and the cycle of its start. -/
  ready : Nat := 0
  begun : Nat := 0
  /-- CREC failed its check: no completion record. -/
  noRecord : Bool := false
  /-- The status of the record that it follows (R291). -/
  inherited : Nat := 0
  /-- Its work is finished; the completion record is outstanding. -/
  finished : Bool := false
  /-- Its context stops: it moves on to the end of the destination line that it is writing, and stops there (18 R379). -/
  halting : Bool := false
deriving DecidableEq, Repr

/-- A command chain (12 R273). -/
structure Chain where
  ctx : Option Nat := none
  appSeq : BitVec 32 := 0
  doneSeq : BitVec 32 := 0
  /-- Commands not yet covered by DONESEQ, in append order. -/
  cmds : List Cmd := []
  err : Bool := false
deriving DecidableEq, Repr

/-- A circular buffer (09 R209, R210, 10 R247). -/
structure CircBuf where
  base : Dword
  slotSize : Nat
  slots : Nat
  ctx : Nat
  free : Nat
  filled : Nat
  pidx : Nat := 0
  cidx : Nat := 0
  hp : Nat := 0
  hc : Nat := 0
deriving DecidableEq, Repr

/-- A B latch (13 R294, R295). -/
structure BLatch where
  ctx : Nat
  bType : BitVec 3
  aType : BitVec 3
  image : List Byte
deriving DecidableEq, Repr

/-- Who placed an entry of the matrix queue. -/
inductive MatSource where
  | hart (h : HartKey)
  | command (chain : Nat) (seq : BitVec 32)
deriving DecidableEq, Repr

/-- An entry of the matrix queue (13 R302), with what it captured at issue (R299, R300). -/
structure MatEntry where
  load : Bool
  ctx : Nat
  source : MatSource
  team : Option (Nat × Nat)
  latch : Nat
  /-- MLDB: source address and formats. MMA: first A row. -/
  addr : Dword
  bType : BitVec 3 := 0
  aType : BitVec 3 := 0
  /-- The windows of W-space and C-space captured at issue: base and length of each. -/
  window : (Nat × Nat) × (Nat × Nat) := ((0, 0), (0, 0))
  /-- The C-space offset of the tile within its window. -/
  cAddr : Nat := 0
  m : Nat := 0
  slot : Nat := 0
  masked : Bool := false
  acc : Bool := false
  outMask : BitVec 128 := 0
  rm : BitVec 3 := 0
  migwait : Nat := 0
  /-- The parameters that the drain runs with (14 R318). -/
  params : Vector Dword 32 := Vector.replicate 32 0
  issued : Nat := 0
  started : Bool := false
  /-- Rows accumulated and rows drained (R303). -/
  rowsDone : Nat := 0
  drained : Nat := 0
  /-- The bytes of its image that an MLDB has read (R299). -/
  image : List Byte := []
  /-- The rows that a migrated MMA has formed, until they come back (R311). -/
  tile : List (List Nat) := []
  /-- The cycles in which its accumulated rows that are not drained yet are ready for the drain (R312). -/
  due : List Nat := []
  /-- Running at a neighbour (R311). -/
  migrated : Option CoreId := none
  /-- The first cycle of its next step. -/
  ready : Nat := 0
  /-- It was queued when its context ran the MLIC.REL that is pending (R307), or it may stream to its end when a slot-table
  entry takes the licence (R309). -/
  owed : Bool := false
  /-- The neighbour's licence was granted for this migration. -/
  lent : Bool := false
deriving DecidableEq, Repr

/-- An entry of the drain side log (14 R331): the bytes of a store, or a folded magnitude, in issue order. -/
structure DrainEntry where
  addr : Dword
  bytes : List (Option Byte)
  fold : Bool
  ctx : Nat
  source : MatSource
  team : Option (Nat × Nat)
  row : Nat
deriving DecidableEq, Repr

/-- The drain restart record (14 R333). -/
structure Restart where
  valid : Bool := false
  slot : Nat := 0
  row : Nat := 0
  cause : Nat := 0
  qpos : Nat := 0
deriving DecidableEq, Repr

/-- The engines of a core. -/
structure CoreState where
  steward : Steward := {}
  chains : Vector Chain 17 := (Vector.replicate 17 {}).set 16 { ctx := some 0 }
  /-- Round-robin point of the copy engine, and the cycle from which it may start its next command (12 R284). -/
  chainTurn : Nat := 0
  nextStart : Nat := 0
  b0 : Option BLatch := none
  b1 : Option BLatch := none
  queue : List MatEntry := []
  /-- The cycles from which the engine streams its next A row, and the drain takes its next row (13 R312). -/
  streamNext : Nat := 0
  drainNext : Nat := 0
  slots : Vector (Option DrainSlot) 32 := Vector.replicate 32 none
  restart : Restart := {}
  drainRow : Option DrainRow := none
  drainLog : List DrainEntry := []
  /-- Pending drain errors: context and kind (14 R319, R330). -/
  drainErr : List (Nat × Nat) := []
  frozenMmas : List MatEntry := []
  /-- Contexts whose copy work, and whose matrix work, is frozen (17 R363, R364). -/
  copyFrozen : List Nat := []
  matFrozen : List Nat := []
  cbs : Vector (Option CircBuf) 16 := Vector.replicate 16 none
  fenced : Bool := false
deriving DecidableEq, Repr

/-! ## Pairs -/

/-- A place of a rendezvous between twins: a half latch, or a side of a barrier point (19 R396, R400). -/
structure Place where
  hart : HartKey
  value : Dword
  waiting : Bool
  arrival : Nat
  limit : Nat
deriving DecidableEq, Repr

/-- A Ferry FIFO (19 R396, R403): entries taken by pushes, oldest first, with the row once it is filled. -/
structure Ferry where
  entries : List (Nat × Option Row) := []
  /-- Number of the next entry. -/
  next : Nat := 0
  /-- Entries that pops have taken and not freed. -/
  popped : Nat := 0
deriving DecidableEq, Repr

/-- The gate of an upper core (19 R407). -/
inductive Gate where
  | on | gating | gated | ungating
deriving DecidableEq, Repr

/-- An entry of the slot table (13 R309). -/
structure MSlot where
  v : Bool := false
  upper : Bool := false
  ctx : BitVec 12 := 0
deriving DecidableEq, Repr

/-- The matrix licence of a twin pair (13 R306, 19 R409). -/
structure Licence where
  /-- The µs of device time in which a slot-table entry last forced the licence (13 R309). -/
  turned : Option Nat := none
  /-- The holder: core and context. -/
  holder : Option (CoreId × Nat) := none
  /-- Requests, oldest first: core, context, cycle made. -/
  requests : List (CoreId × Nat × Nat) := []
  /-- A release of the holder is pending (R307). -/
  releasing : Bool := false
  /-- The gap: its first cycle, the releasing core and the acquiring core. -/
  gap : Option (Nat × CoreId × Option CoreId) := none
  /-- Ballast level of the lower and the upper engine, in eighths (19 R410). -/
  ballast : Nat × Nat := (0, 0)
deriving DecidableEq, Repr

/-- A twin pair of cores. -/
structure Twin where
  narrows : Vector Dword 32 := Vector.replicate 32 0
  /-- Half latches: key 2 · slot + side. -/
  halves : FMap Place := []
  /-- Barrier points: key 2 · point + side. -/
  points : FMap Place := []
  /-- NWRs of this cycle, which take effect at its end: slot, hart and value (19 R399). -/
  writes : List (Nat × HartKey × Dword) := []
  up : Ferry := {}
  down : Ferry := {}
  gate : Gate := .on
  /-- The last requested state: true for gated. -/
  gateWant : Bool := false
  /-- The cycle in which power goes or returns, once that is fixed. -/
  gateReady : Option Nat := none
  /-- The save of the gating core is written (R407). -/
  gateSaved : Bool := false
  licence : Licence := {}
  mslots : Vector MSlot 64 := Vector.replicate 64 {}
deriving DecidableEq, Repr

/-- A pool descriptor (15 R334). -/
structure Pool where
  base : Nat
  frames : Nat
  ctx : Nat
deriving DecidableEq, Repr

/-- A block directory entry (15 R337, R338). -/
structure DirEntry where
  ctx : Nat
  frame : Nat
  parent : Option Nat
  parentHash : Dword
  tokens : List (BitVec 32)
  hash : Dword
  refs : BitVec 32
  pins : BitVec 16
  filled : Bool
deriving DecidableEq, Repr

/-- A die pair. -/
structure DiePair where
  part : Option Nat := none
  pools : List Pool := []
  /-- Directory entries by 65,536 · context + frame. -/
  entries : FMap DirEntry := []
  /-- Frames in state ORPHAN, with their pins, numbered in the same way (15 R335). -/
  orphans : FMap Nat := []
  /-- Eviction schedule entries and the step counter (09 R207). -/
  schedule : List (BitVec 128) := []
  /-- The step counter, 0 at reset: DESIGN CHOICE (log 32). -/
  stepCount : BitVec 16 := 0
deriving DecidableEq, Repr

/-! ## Launches -/

/-- A launch record (07 R173). -/
structure LaunchRec where
  entry : Dword := 0
  tx : Nat := 0
  ty : Nat := 0
  tz : Nat := 0
  hpt : Nat := 1
  allot : Nat := 0
  mbx : Vector Dword 8 := Vector.replicate 8 0
  dptab : Dword := 0
  dpcnt : Nat := 0
  pack : Bool := false
  core : Nat := 0xFFFF
  wuse : Nat := 0
  cuse : Nat := 0
  sema : Dword := 0
  sval : Dword := 0
  bar : Bool := false
  gang : Bool := false
  gtick : Dword := 0
deriving DecidableEq, Repr

/-- A farm slot (07 R183); undeclared slots are absent. -/
structure FarmSlot where
  total : Dword
  size : Dword
  next : Dword
deriving DecidableEq, Repr

/-- A placed team (07 R176, 08 R190). -/
structure Team where
  num : Nat
  core : CoreId
  /-- The cycle of its placement (09 R201). -/
  placed : Nat := 0
  wBase : Nat := 0
  cBase : Nat := 0
  ph : Nat := 0
  arrived : Nat := 0
  kind : Nat := 0
  live : Nat := 1
  /-- What the arrivals of this phase supplied: hid, value, and the root of XBCAST or the rmode of XREDFADD. -/
  supplied : List (Nat × Dword × Dword) := []
  /-- A hart of the team was marked failed. -/
  failed : Bool := false
deriving DecidableEq, Repr

/-- A running launch. -/
structure Launch where
  ctx : Nat
  part : Nat
  core : CoreId
  chain : Nat
  seq : BitVec 32
  /-- The 128 bytes as read, byte 0 least significant, and their fields. -/
  raw : BitVec 1024
  record : LaunchRec
  /-- Linear number of the next team to place. -/
  nextTeam : Nat := 0
  /-- The cycle from which the next team may be placed. -/
  ready : Nat := 0
  teams : List Team := []
  farm : FMap FarmSlot := []
  /-- The die pair that holds the farm slots (08 R189). -/
  home : Option Nat := none
  retired : Nat := 0
  status : Nat := 0
  bitmap : BitVec 16 := 0
  /-- No further team is placed (07 R175). -/
  stop : Bool := false
  /-- Cores that have had their preload (07 R174). -/
  preloaded : List CoreId := []
  /-- The preload entries read so far: slot and program. -/
  preload : List (Nat × DrainSlot) := []
  /-- The record and the preload table have been read and checked. -/
  checked : Bool := false
  /-- Bytes 8 to 31 of the completion record are written. -/
  recorded : Bool := false
deriving DecidableEq, Repr

/-! ## Memory beside the bytes -/

/-- A word of an L1 (09 R204): the bytes it holds and whether the core owns it. -/
structure L1Word where
  data : Dword := 0
  mask : Byte := 0
  owned : Bool := false
deriving DecidableEq, Repr

/-- A hart's store on its way to its home (11 R254): bytes of one 8-byte word. -/
structure FlightWrite where
  hart : HartKey
  core : CoreId
  word : Nat
  data : Dword
  mask : Byte
  key : Nat
  /-- The virtual address of its first byte. -/
  va : Dword
deriving DecidableEq, Repr

/-- A cached translation (09 R219), in the core TLB of a core, unit 0, or in the micro-TLB of one of its units. -/
structure TlbEntry where
  core : Nat := 0
  unit : Nat := 0
  ctx : Nat
  global : Bool
  /-- First virtual address and bytes covered. -/
  base : Nat
  size : Nat
  /-- The frame of the first page and the spacing of the frames, in 64 KiB. -/
  frame : Nat
  spacing : Int
  r : Bool
  w : Bool
  x : Bool
  pp : Nat
  key : Nat
deriving DecidableEq, Repr

/-! ## Contexts, queues and partitions -/

/-- What an area holds, as it stood when its first piece was written: its harts, cores and launches, the chain items of its core records,
and the identifier, COLS and length of each record. -/
structure AreaPlan where
  harts : List (HartKey × Hart)
  cores : List CoreId
  launches : List (Nat × Launch)
  chains : List (CoreId × List Byte) := []
  records : List (Nat × Nat × Nat) := []
deriving DecidableEq, Repr

/-- A save area that is being written (18 R389). -/
structure Spill where
  /-- The number of the next piece. -/
  pos : Nat := 0
  /-- What it holds, once its first piece is written. -/
  plan : Option AreaPlan := none
  /-- Device time and energy when the spill began. -/
  began : Nat := 0
  energy : Nat := 0
  /-- The only core that is spilled, for a gated core (19 R407). -/
  core : Option CoreId := none
  /-- The reason of the stop (R384). -/
  reason : Nat := 1
deriving DecidableEq, Repr

/-- What the device holds of a context beside its table entry. -/
structure CtxState where
  /-- Energy in nJ (18 R390). -/
  energy : Nat := 0
  /-- Hart failures, first frozen master and failure mark, for the resync summary (18 R395). -/
  failures : Nat := 0
  frozenMaster : Option (BitVec 16) := none
  failed : Bool := false
  /-- The area is complete; an emergency lost it. -/
  saved : Bool := false
  lost : Bool := false
  spill : Option Spill := none
  /-- The harts of the context that are neither resident nor in a shadow bank. -/
  harts : FMap Hart := []
  /-- What the context held on its cores at its last stop, and has not been given back. -/
  cores : FMap CoreState := []
  /-- The table buffer slots of the context: cluster, slot, content. -/
  tables : List (ClusterKey × Nat × TableSlot) := []
  /-- Typed-space bytes of its saved reservations, by location. -/
  typed : List Host.Cell := []
  twins : FMap Twin := []
  /-- Tags, tgv and columns of the harts of its gated cores, as their records hold them (19 R407). -/
  stash : FMap (List Byte) := []
  /-- Cores whose record says that the licence was held or requested, until it is granted again (18 R383). -/
  licences : List CoreId := []
  /-- Those of them whose record says held. -/
  licencesHeld : List CoreId := []
deriving DecidableEq, Repr

/-- A hardware queue (18 R373). -/
structure Queue where
  ctx : Nat
  weight : Nat
  core : CoreId
  chain : Nat
  deficit : Int := 0
deriving DecidableEq, Repr

/-- The result of a queue's last append (21 R437). -/
structure Append where
  /-- The list of an append that is in progress. -/
  asking : Option Dword := none
  seq : BitVec 32 := 0
  refused : Bool := false
  why : Nat := 0
deriving DecidableEq, Repr

/-- The stages of a switch of a partition (18 R375 to R383): the outgoing context stops; the incoming one is restored; the same, while
a decision to stop it has been taken already. -/
inductive Switch where
  | stopping | restoring | leaving
deriving DecidableEq, Repr

/-- A partition (18 R372, R374, R377). -/
structure Partition where
  /-- The queue that holds the turn. -/
  turn : Option Nat := none
  /-- A pending change of context: the queue that comes in. -/
  incoming : Option Nat := none
  switch : Option Switch := none
  held : Bool := false
  /-- A command 5 that acts at the next tick: queue and hold bit; GO of the command block reads 1 until then. -/
  request : Option (Option Nat × Bool) := none
  /-- The context that is being taken off the partition. -/
  outgoing : Option Nat := none
  /-- The reason a stop saves with (R384). -/
  reason : Nat := 1
  /-- No queue has work (R374). -/
  idle : Bool := true
  /-- The last tick of device time in µs, and its cycle. -/
  lastTick : Nat := 0
  tickCycle : Nat := 0
deriving DecidableEq, Repr

/-- A participant of a collective that has arrived (21 R418). -/
structure CollPart where
  /-- Its chain and command; none for a participant of another device. -/
  cmd : Option (CoreId × Nat × BitVec 32)
  input : CollInput
  arrived : Nat
  /-- Its own range check failed with this status. -/
  failed : Nat := 0
deriving DecidableEq, Repr

/-- The snapshot registers (21 R428, R429). -/
structure Snapshot where
  armed : Bool := true
  missed : BitVec 32 := 0
  cause : Nat := 0
  source : Nat := 0
  time : Dword := 0
  entries : FMap (List Byte) := []
deriving DecidableEq, Repr

/-- The control page of the host (21 R426, R427). -/
structure Page where
  devnum : BitVec 3 := 0
  boot : Byte := 0
  plimit : Nat := 8500
  op : Byte := 0
  go : Bool := false
  status : Byte := 0
  emergency : Dword := 0
  collTimeout : Nat := 100000
  /-- Bytes 8 to 63 of the command block. -/
  args : Vector Dword 7 := Vector.replicate 7 0
  /-- A command 11 that is in progress: its core and its list. -/
  append : Option (CoreId × Dword) := none
deriving DecidableEq, Repr

/-- The algorithms that the module names in its answers (21 R431). -/
inductive SpdmAlgorithm where
  | ecdsaP521 | sha512
deriving DecidableEq, Repr

/-- An answer to an SPDM request (21 R431): its code, the version that it speaks, 0x13 for 1.3, the algorithms and the measurement registers
that it gives, and what else it holds. -/
structure SpdmAnswer where
  code : Nat
  version : Nat := 0x13
  algorithms : List SpdmAlgorithm := []
  measurements : List (BitVec 512) := []
  rest : List Byte := []
deriving DecidableEq, Repr

/-- The SPDM session of port 0 (21 R431). -/
structure Spdm where
  versioned : Bool := false
  capable : Bool := false
  negotiated : Bool := false
  keyed : Bool := false
  secured : Bool := false
  answer : Option SpdmAnswer := none
deriving DecidableEq, Repr

/-- Which part of the cycle the model is in: engines first, then the issue slots. -/
inductive Phase where
  | background | issue
deriving DecidableEq, Repr

/-- The module, its harts and its engines. -/
structure State where
  powered : Bool := true
  /-- Cycles of the array clock since reset, and device time in ns (21 R423). -/
  now : Nat := 0
  devTime : Nat := 0
  /-- MODEL's own (log 2): the part of the cycle, the agents still to be asked, and the agent whose word runs. -/
  phase : Phase := .background
  todo : List Agent := []
  cur : Agent := .hart 0
  /-- The word that is being run, as fetched: its low bits are the stall count (03 R72). -/
  ir : Word := 0
  /-- MODEL's own (log 3): events from outside, in arrival order. -/
  inputs : List Instr := []
  /-- MODEL's own (log 4): counter of the free choices and free values taken. -/
  choice : Nat := 0
  /-- Bytes by location: HBM by physical address, W-space, C-space and host memory above. -/
  mem : List Host.Cell := []
  /-- A-space rows by 131,072 · core + 16,384 · cluster + row. -/
  rows : FMap Row := []
  /-- L1 words by core and word: 2 ^ 64 · core + word location. -/
  l1 : FMap L1Word := []
  flight : List FlightWrite := []
  /-- Poisoned 128-byte lines, by location, and the poisoned columns of rows of A-space, by row. -/
  poison : List Nat := []
  rowPoison : FMap Row := []
  /-- Lines owned by running commands: line, core, chain, sequence number (11 R265). -/
  lineOwners : List (Nat × CoreId × Nat × BitVec 32) := []
  /-- A-space rows owned by running commands (11 R265). -/
  rowOwners : List (Nat × CoreId × Nat × BitVec 32) := []
  /-- The lines that the shared caches hold (09 R205, R208). -/
  cache : List Nat := []
  /-- Bytes of a write of the host or a peer that are on their way to their homes, in order: location and byte (11 R257). -/
  incoming : List (Nat × Byte) := []
  /-- The read of the host or a peer that is under way: the next location and the bytes left (11 R257). -/
  reading : Option (Nat × Nat) := none
  /-- The keys of the loaded key slots (09 R220). -/
  keys : FMap (BitVec 512) := []
  /-- The key under which a line was last written, none for plaintext; a line that nothing has written is not listed. -/
  lineKeys : FMap (Option (BitVec 512)) := []
  tlb : List TlbEntry := []
  harts : FMap Hart := []
  clusters : FMap Cluster := []
  cores : FMap CoreState := []
  twins : FMap Twin := []
  pairs : FMap DiePair := []
  launches : FMap Launch := []
  nextLaunch : Nat := 0
  /-- The context table (18 R371), and what else the device holds of each context. -/
  contexts : FMap (BitVec 512) := []
  /-- The pool descriptors given for a context and a die pair, by 16 · context + die pair (15 R334). -/
  poolTable : FMap (BitVec 128) := []
  ctxStates : FMap CtxState := []
  queues : FMap Queue := []
  /-- The fields of the queue descriptors that are written with V = 0, by queue (18 R373). -/
  spareQueues : FMap (BitVec 34) := []
  appends : FMap Append := []
  partitions : FMap Partition := []
  colls : List CollPart := []
  page : Page := {}
  snapshot : Snapshot := {}
  lastPtm : Option Nat := none
  /-- Links of the ports that are up. -/
  ports : List Nat := []
  /-- Ports whose link stream is protected by IDE, and functions of port 0 whose selective stream is (21 R421). -/
  linkIde : List Nat := []
  selectiveIde : List Nat := []
  frozenFns : List Nat := []
  downLinks : List (Nat × Nat) := []
  /-- Thermal level of each die that is not normal. -/
  thermal : FMap Thermal := []
  powerCapped : Bool := false
  emergencySave : Bool := false
  measurements : Vector (BitVec 512) 8 := Vector.replicate 8 0
  spdm : Spdm := {}
  /-- The answer to the last read or atomic of the host or a peer. -/
  hostAnswer : List Byte := []
deriving DecidableEq, Repr

/-- The module after device reset: idle, nothing listed, the pages and registers at the reset values of 09 to 21. -/
def State.reset : State := {}

end Sys2Proof.Machine
end

