-- ==== Sys2Proof/Machine/Ops.lean ====
section
/-! DEFINITION. The shared operations on agents and their scalar state: registers, the loop-end step, retirement, taking a
trap and returning from it. -/

namespace Sys2Proof.Machine

/-! ## Numbers of the module's parts (00 R9) -/

/-- The core of a hart. -/
def coreOfHart (h : HartKey) : CoreId := h / 32
/-- The cluster of a hart. -/
def clusterOfHart (h : HartKey) : ClusterKey := h / 4
/-- The residency slot of a hart. -/
def slotOfHart (h : HartKey) : Nat := h % 4
/-- The core of a cluster. -/
def coreOfCluster (k : ClusterKey) : CoreId := k / 8
/-- Die pair of a core. -/
def pairOfCore (c : CoreId) : Nat := c / 32
/-- Die of a core: 2 · die pair + 1 for the upper die. -/
def dieOfCore (c : CoreId) : Nat := c / 16
/-- Whether a core lies on an upper die. -/
def upperCore (c : CoreId) : Bool := c / 16 % 2 == 1
/-- The twin pair of a core. -/
def twinOfCore (c : CoreId) : PairKey := 16 * (c / 32) + c % 16
/-- The lower and the upper core of a twin pair. -/
def lowerCore (t : PairKey) : CoreId := 32 * (t / 16) + t % 16
/-- The upper core of a twin pair. -/
def upperCoreOf (t : PairKey) : CoreId := lowerCore t + 16
/-- Whether a number names a core (R9). -/
def validCore (c : Nat) : Bool := decide (c < 512) && decide (c % 16 < 14)
/-- Every core identifier of the module, rising. -/
def allCores : List CoreId := (List.range 512).filter validCore

/-- The low n bits of a byte list, byte 0 least significant. -/
def bitsOfBytes (n : Nat) : List Byte → BitVec n
  | [] => 0
  | b :: bs => (b.setWidth n) ||| (bitsOfBytes n bs <<< 8)

/-- The first n bytes of a bit vector, least significant first. -/
def bytesOfBits {w : Nat} (v : BitVec w) (n : Nat) : List Byte := (List.range n).map fun i => v.extractLsb' (8 * i) 8

/-! ## The parts of the state -/

/-- The hart in a residency slot, or the blank hart where none is resident. -/
def State.hart (s : State) (h : HartKey) : Hart := (s.harts.get? h).getD {}
/-- Whether a hart is resident. -/
def State.resident (s : State) (h : HartKey) : Bool := (s.harts.get? h).isSome
/-- Puts a hart into its slot. -/
def State.setHart (s : State) (h : HartKey) (v : Hart) : State := { s with harts := s.harts.put h v }
/-- Changes a hart. -/
def State.modHart (s : State) (h : HartKey) (f : Hart → Hart) : State := s.setHart h (f (s.hart h))

/-- A cluster. -/
def State.cluster (s : State) (k : ClusterKey) : Cluster := (s.clusters.get? k).getD {}
/-- Puts a cluster. -/
def State.setCluster (s : State) (k : ClusterKey) (v : Cluster) : State := { s with clusters := s.clusters.put k v }
/-- Changes a cluster. -/
def State.modCluster (s : State) (k : ClusterKey) (f : Cluster → Cluster) : State := s.setCluster k (f (s.cluster k))

/-- A core. -/
def State.core (s : State) (c : CoreId) : CoreState := (s.cores.get? c).getD {}
/-- Puts a core. -/
def State.setCore (s : State) (c : CoreId) (v : CoreState) : State := { s with cores := s.cores.put c v }
/-- Changes a core. -/
def State.modCore (s : State) (c : CoreId) (f : CoreState → CoreState) : State := s.setCore c (f (s.core c))
/-- Changes the steward of a core. -/
def State.modSteward (s : State) (c : CoreId) (f : Steward → Steward) : State :=
  s.modCore c fun v => { v with steward := f v.steward }

/-- A twin pair. -/
def State.twin (s : State) (t : PairKey) : Twin := (s.twins.get? t).getD {}
/-- Changes a twin pair. -/
def State.modTwin (s : State) (t : PairKey) (f : Twin → Twin) : State :=
  { s with twins := s.twins.put t (f (s.twin t)) }
/-- Changes the licence of a twin pair. -/
def State.modLicence (s : State) (t : PairKey) (f : Licence → Licence) : State :=
  s.modTwin t fun v => { v with licence := f v.licence }

/-- A die pair. -/
def State.pair (s : State) (p : Nat) : DiePair := (s.pairs.get? p).getD {}
/-- Changes a die pair. -/
def State.modPair (s : State) (p : Nat) (f : DiePair → DiePair) : State :=
  { s with pairs := s.pairs.put p (f (s.pair p)) }

/-- A partition. -/
def State.partition (s : State) (p : Nat) : Partition := (s.partitions.get? p).getD {}
/-- Changes a partition. -/
def State.modPartition (s : State) (p : Nat) (f : Partition → Partition) : State :=
  { s with partitions := s.partitions.put p (f (s.partition p)) }

/-- The context of the queue that holds a partition's turn. -/
def State.turnCtx (s : State) (part : Nat) : Option Nat :=
  ((s.partition part).turn.bind fun q => s.queues.get? q).map Queue.ctx

/-- Whether a core is without power, or on its way there or back. -/
def State.coreGated (s : State) (core : CoreId) : Bool := upperCore core && decide ((s.twin (twinOfCore core)).gate ≠ .on)

/-- What the device holds of a context. -/
def State.ctxState (s : State) (c : Nat) : CtxState := (s.ctxStates.get? c).getD {}
/-- Changes what the device holds of a context. -/
def State.modCtx (s : State) (c : Nat) (f : CtxState → CtxState) : State :=
  { s with ctxStates := s.ctxStates.put c (f (s.ctxState c)) }

/-- Changes a launch that runs. -/
def State.modLaunch (s : State) (l : Nat) (f : Launch → Launch) : State := { s with launches := s.launches.modify l f }
/-- Changes a team of a launch that runs. -/
def State.modTeam (s : State) (l n : Nat) (f : Team → Team) : State :=
  s.modLaunch l fun v => { v with teams := v.teams.map fun t => if t.num = n then f t else t }
/-- A placed team. -/
def State.team? (s : State) (l n : Nat) : Option Team := do
  let v ← s.launches.get? l
  v.teams.find? fun t => t.num = n

/-- The free choice of one of n things (log 4), and the state after it; one thing needs no choice. -/
def State.choose (s : State) (n : Nat) : Nat × State :=
  if n ≤ 1 then (0, s) else (Config.pick s.choice % n, { s with choice := s.choice + 1 })

/-! ## The agent whose word runs -/

/-- The core of an agent. -/
def Agent.core : Agent → CoreId
  | .hart h => coreOfHart h
  | .steward c => c

/-- Whether an agent is a hart. -/
def Agent.isHart : Agent → Bool
  | .hart _ => true
  | .steward _ => false

/-- The hart whose word runs; slot 0 of the steward's core where a steward runs. -/
def State.me (s : State) : HartKey :=
  match s.cur with
  | .hart h => h
  | .steward c => 32 * c

/-- The record of the hart whose word runs. -/
def State.self (s : State) : Hart := s.hart s.me
/-- Changes the hart whose word runs. -/
def State.modSelf (s : State) (f : Hart → Hart) : State := s.modHart s.me f
/-- Changes the control registers of the hart whose word runs. -/
def State.modCsr (s : State) (f : Csrs → Csrs) : State := s.modSelf fun h => { h with csr := f h.csr }
/-- The cluster of the hart whose word runs. -/
def State.myCluster (s : State) : ClusterKey := clusterOfHart s.me
/-- The context of the agent whose word runs; the steward acts for context 0 (18 R371). -/
def State.myCtx (s : State) : Nat :=
  match s.cur with
  | .hart h => (s.hart h).ctx
  | .steward _ => 0

/-- The scalar state of the agent whose word runs. -/
def State.sc (s : State) : Scalar :=
  match s.cur with
  | .hart h => (s.hart h).sc
  | .steward c => (s.core c).steward.sc

/-- Replaces the scalar state of the agent whose word runs. -/
def State.setSc (s : State) (v : Scalar) : State :=
  match s.cur with
  | .hart h => s.modHart h fun t => { t with sc := v }
  | .steward c => s.modSteward c fun t => { t with sc := v }

/-- Changes the scalar state of the agent whose word runs. -/
def State.modSc (s : State) (f : Scalar → Scalar) : State := s.setSc (f s.sc)

/-! ## Scalar registers (01 R16, 03 R81 to R83) -/

/-- The value of a scalar register; x0 reads zero. -/
def Scalar.get (sc : Scalar) (r : Reg) : Dword := if r = 0 then 0 else sc.x[r.toNat]'(by have := r.isLt; omega)

/-- Writes a scalar register; x0 discards. -/
def Scalar.put (sc : Scalar) (r : Reg) (v : Dword) : Scalar :=
  if r = 0 then sc else { sc with x := sc.x.set r.toNat v (by have := r.isLt; omega) }

/-- Discards the older results on their way to a register (R83). -/
def Scalar.discard (sc : Scalar) (r : Reg) : Scalar :=
  { sc with fixed := sc.fixed.filter fun w => w.rd ≠ r, board := sc.board.filter fun w => w.rd ≠ r }

/-- Writes the fixed-latency results whose cycle has come (R81). -/
def Scalar.commit (sc : Scalar) (now : Nat) : Scalar :=
  let sc' := (sc.fixed.filter fun w => w.ready ≤ now).foldl (fun a w => a.put w.rd w.value) sc
  { sc' with fixed := sc.fixed.filter fun w => ¬ w.ready ≤ now }

/-- Completes every pending fixed-latency result, as before any trap (R83). -/
def Scalar.commitAll (sc : Scalar) : Scalar :=
  { sc.fixed.foldl (fun a w => a.put w.rd w.value) sc with fixed := [] }

/-- A fixed-latency result: register r reads v from cycle `ready` on. -/
def Scalar.later (sc : Scalar) (r : Reg) (v : Dword) (ready : Nat) : Scalar :=
  if r = 0 then sc else
    let sc := sc.discard r
    { sc with fixed := sc.fixed ++ [{ rd := r, value := v, ready := ready }] }

/-- A scoreboarded result: readers of register r wait until it is written, at cycle `ready` (R81). -/
def Scalar.onBoard (sc : Scalar) (r : Reg) (v : Dword) (ready : Nat) (kind : ResultKind := .plain) (owner : Option Nat := none) :
    Scalar :=
  if r = 0 then sc else
    let sc := sc.discard r
    { sc with board := sc.board ++ [{ rd := r, value := v, ready := ready, kind := kind, owner := owner }] }

/-- The value of a scalar register of the running agent. -/
def State.rx (s : State) (r : Reg) : Dword := s.sc.get r

/-- The copy register of a scalar destination copy (03 R86), if the running word carries one. -/
def State.copyReg (s : State) : Option Reg :=
  match s.sc.latch with
  | some p => if p.dce then some p.dcr else none
  | none => none

/-- A fixed-latency result of latency L in register r and in the copy register, if there is one. -/
def State.result (s : State) (r : Reg) (v : Dword) (lat : Nat) : State :=
  s.modSc fun sc =>
    let sc' := sc.later r v (s.now + lat)
    match s.copyReg with
    | some c => sc'.later c v (s.now + lat)
    | none => sc'

/-- A scoreboarded result in register r, and in the copy register, if there is one, written at a cycle. -/
def State.resultAt (s : State) (r : Reg) (v : Dword) (ready : Nat) (kind : ResultKind := .plain) (owner : Option Nat := none) :
    State :=
  s.modSc fun sc =>
    let sc' := sc.onBoard r v ready kind owner
    match s.copyReg with
    | some c => sc'.onBoard c v ready kind owner
    | none => sc'

/-- The access number `owner` brings its value: the results that wait for it can be read from a cycle on. -/
def Scalar.bring (sc : Scalar) (owner : Nat) (v : Dword) (ready : Nat) : Scalar :=
  { sc with board := sc.board.map fun w => if w.owner = some owner then { w with value := v, ready := ready, owner := none } else w }

/-- Whether a scoreboarded result can be read in a cycle. -/
def PendingWrite.due (w : PendingWrite) (now : Nat) : Bool := w.owner.isNone && decide (w.ready ≤ now)

/-- Holds the running agent's next word back until a cycle. -/
def State.delay (s : State) (cycle : Nat) : State := s.modSc fun sc => { sc with nextIssue := max sc.nextIssue cycle }

/-! ## The loop-end step (01 R19, 04 R108) -/

/-- The loop-end steps for the end address `last`: the stack and the PC after them. With no entry that ends there, control
goes to the next address. -/
def loopEnd : List LoopEntry → Dword → List LoopEntry × Dword
  | [], last => ([], last + 4)
  | e :: es, last =>
    if e.last = last then
      if e.index.toNat + 1 < e.count.toNat then ({ e with index := e.index + 1 } :: es, e.start) else loopEnd es last
    else (e :: es, last + 4)

/-! ## Trap causes (17 R352) -/

/-- tcause of each trap. -/
def causeIll : Nat := 0x01
/-- PRIV. -/
def causePriv : Nat := 0x02
/-- STALL. -/
def causeStall : Nat := 0x03
/-- FIELD. -/
def causeField : Nat := 0x04
/-- ALIGN. -/
def causeAlign : Nat := 0x05
/-- LDPF. -/
def causeLdpf : Nat := 0x06
/-- PROT. -/
def causeProt : Nat := 0x07
/-- BOUNDS. -/
def causeBounds : Nat := 0x08
/-- UCE. -/
def causeUce : Nat := 0x09
/-- ENGERR. -/
def causeEngerr : Nat := 0x0A
/-- TWINTO. -/
def causeTwinto : Nat := 0x0B
/-- LIC. -/
def causeLic : Nat := 0x0C
/-- STRIPF. -/
def causeStripf : Nat := 0x0D
/-- BARBRK. -/
def causeBarbrk : Nat := 0x0E
/-- LOOPOVF. -/
def causeLoopovf : Nat := 0x0F
/-- SCALL. -/
def causeScall : Nat := 0x10
/-- BRK. -/
def causeBrk : Nat := 0x11
/-- STRIPOVF. -/
def causeStripovf : Nat := 0x12

/-- Whether a cause is supervisor-level (17 R352). -/
def supervisorCause (c : Nat) : Bool := c == causeLdpf || c == causeProt || c == causeUce

/-! ## Energy (18 R390, R391) -/

/-- The energy of a piece of work is charged to an account: a context, or the system account, context 0. DESIGN CHOICE (log 10). -/
def State.charge (s : State) (ctx : Nat) : State :=
  ({ s with choice := s.choice + 1 } : State).modCtx ctx fun c => { c with energy := c.energy + Config.workEnergy s.choice }

/-- The account of a context's stop, swap and spill: its own, in an emergency save the system's (18 R391). -/
def State.account (s : State) (ctx : Nat) : Nat :=
  if (s.ctxState ctx).spill.any (fun p => decide (p.reason = 3))
      || s.partitions.any fun e => decide (e.2.outgoing = some ctx) && decide (e.2.reason = 3) then 0 else ctx

/-! ## Supervisor events (17 R354, R355, R359) -/

/-- The master identifier of a hart (17 R359). -/
def hartMaster (h : HartKey) : BitVec 16 := BitVec.ofNat 16 (8 * (clusterOfHart h % 8) + slotOfHart h)

/-- Appends an event to the queue of a core's steward. DEDUCED (log 37). -/
def State.postEvent (s : State) (c : CoreId) (e : SupEvent) : State :=
  s.modSteward c fun w => { w with events := w.events ++ [e] }

/-- The licence state of a core in a snapshot: 0 none, 1 requested, 2 held, 3 in a hand-over gap (21 R429). -/
def State.licenceCode (s : State) (c : CoreId) : Nat :=
  let l := (s.twin (twinOfCore c)).licence
  if l.gap.isSome then 3
  else if l.holder.any fun h => decide (h.1 = c) then 2
  else if l.requests.any fun (r : CoreId × Nat × Nat) => decide (r.1 = c) then 1
  else 0

/-- The snapshot entry of a core (21 R429). -/
def State.coreSnapshot (s : State) (c : CoreId) : List Byte :=
  let v := s.core c
  (List.range 32).flatMap (fun i => match s.harts.get? (32 * c + i) with
    | some t => bytesOfBits (BitVec.ofNat 64 (s.now - t.startCycle)) 8 ++ bytesOfBits t.sc.instret 8
    | none => List.replicate 16 0)
  ++ bytesOfBits (v.steward.ipol.setWidth 64) 8 ++ [BitVec.ofNat 8 v.queue.length, BitVec.ofNat 8 (s.licenceCode c)]
  ++ List.replicate 6 0 ++ v.chains.toList.flatMap (fun q => bytesOfBits q.doneSeq 4) ++ List.replicate 44 0

/-- The snapshot trigger (21 R428): while armed, every block latches its state; later triggers only count. Cores with no
entry read as zeros. -/
def State.trigger (s : State) (cause source : Nat) : State :=
  let v := s.snapshot
  if !v.armed then { s with snapshot := { v with missed := v.missed + 1 } }
  else
    let cores : List CoreId := (s.cores.map Prod.fst ++ s.harts.map (fun (e : HartKey × Hart) => coreOfHart e.1)
      ++ s.twins.flatMap fun (t : PairKey × Twin) => [lowerCore t.1, upperCoreOf t.1]).dedup
    { s with snapshot := { armed := false, missed := v.missed, cause := cause, source := source, time := BitVec.ofNat 64 s.devTime,
                           entries := cores.foldl (fun m c => m.put c (s.coreSnapshot c)) [] } }

/-- A master on a core is frozen: for the resync summary (18 R395), and as an error event (21 R428). -/
def State.noteFrozen (s : State) (core : CoreId) (ctx : Nat) (m : BitVec 16) : State :=
  (s.trigger 3 core).modCtx ctx fun c => { c with frozenMaster := c.frozenMaster.or (some m) }

/-! ## Taking a trap (01 R45, 17 R352, R353) -/

/-- The prefix latch in the layout of CSR pfxl (01 R20). -/
def packLatch : Option PfxLatch → BitVec 11
  | none => 0
  | some p => p.dcr ++ BitVec.ofBool p.dce ++ BitVec.ofBool p.pinv ++ p.psel ++ (1 : BitVec 1)

/-- The prefix latch that a pfxl value holds. -/
def unpackLatch (v : BitVec 11) : Option PfxLatch :=
  if v.getLsbD 0 then
    some { psel := v.extractLsb' 1 3, pinv := v.getLsbD 4, dce := v.getLsbD 5, dcr := v.extractLsb' 6 5 }
  else none

/-- Holds a hart at an instruction with a supervisor-level trap, and tells the steward (17 R353). A PROT freezes it (R363). -/
def State.holdHart (s : State) (h : HartKey) (cause : Nat) (value addr : Dword) : State :=
  let t := s.hart h
  let t := { t with sc := t.sc.commitAll }
  let s := s.setHart h { t with held := some { cause := cause, value := value, addr := addr, frozen := cause == causeProt },
                                wait := .none, saved := false, kept := false }
  let s := if cause == causeProt then s.noteFrozen (coreOfHart h) t.ctx (hartMaster h) else s
  s.postEvent (coreOfHart h)
    { kind := 1, master := hartMaster h, ctx := t.ctx, value := value, pc := addr, x := BitVec.ofNat 8 cause,
      who := some (t.launch, t.team) }

/-- Whether a hart is frozen: by HFREEZE, or by a PROT that holds it (R363, R364). -/
def Hart.isFrozen (t : Hart) : Bool := t.frozen || t.held.any Held.frozen

/-- The trap entry of R45 into the hart's own handler. With no prefix pending all of pfxl becomes 0, of which R45 states V alone.
DESIGN CHOICE (log 54). -/
def Hart.enterHandler (t : Hart) (now cause : Nat) (value addr : Dword) : Hart :=
  { t with
    csr := { t.csr with tepc := addr, tcause := BitVec.ofNat 64 cause, tval := value,
                        pfxl := packLatch t.sc.latch, inh := true }
    sc := { t.sc with latch := none, pc := t.csr.tvec, nextIssue := max t.sc.nextIssue (max now t.arrayDone + 2) }
    wait := .none }

/-- Taking a trap in a hart: pending fixed-latency writes complete (03 R83), then a program-level cause enters the handler at
tvec, and every other trap goes to the steward (01 R45, R46, 17 R352), once the passes of the hart's older array instructions have
ended (R44). -/
def State.takeTrap (s : State) (h : HartKey) (cause : Nat) (value addr : Dword) : State :=
  let s := s.modHart h fun t => { t with sc := t.sc.commitAll, wait := .none, claim := none }
  let t := s.hart h
  if supervisorCause cause || t.csr.inh || t.csr.tvec = 0 then
    if s.now < t.arrayDone then s.modHart h fun t => { t with wait := .trapping cause value addr } else s.holdHart h cause value addr
  else s.setHart h (t.enterHandler s.now cause value addr)

/-- A trap bound for the steward is taken when the passes of the older array instructions of its hart have ended (R44). -/
def State.trapStep (s : State) (h : HartKey) : Option State :=
  let t := s.hart h
  match t.wait with
  | .trapping cause value addr => if s.now < t.arrayDone then none else some (s.holdHart h cause value addr)
  | _ => none

/-- The return of TRET (01 R47): the PC from tepc, the prefix latch from pfxl, INH cleared. -/
def Hart.trapReturn (t : Hart) : Hart :=
  { t with
    sc := { t.sc with pc := t.csr.tepc,
                      latch := if t.csr.pfxl.getLsbD 0 then unpackLatch t.csr.pfxl else none }
    csr := { t.csr with pfxl := t.csr.pfxl &&& ~~~1, inh := false } }

/-- A steward word that would raise a trap only notes it (17 R355). -/
def Steward.note (w : Steward) (cause : Nat) (value : Dword) : Steward :=
  if w.serr = 0 then { w with serr := BitVec.ofNat 8 cause, serrv := value } else w

/-! ## How a word ends -/

/-- How a word leaves the state. -/
inductive Flow where
  /-- Retires without a control transfer. -/
  | retire (s : State)
  /-- Retires and leaves the prefix latch loaded: PFX. -/
  | latched (s : State) (p : PfxLatch)
  /-- Retires with a control transfer to an address. -/
  | jump (s : State) (target : Dword)
  /-- TRET: a control transfer that has set PC and latch itself. -/
  | returned (s : State)
  /-- Raises a trap, from the state given. -/
  | trap (s : State) (cause : Nat) (value : Dword)
  /-- Retires, then raises a trap on the next instruction: SCALL and BRK. -/
  | retireTrap (s : State) (cause : Nat)
  /-- Has not retired: the hart waits. -/
  | hold (s : State)
  /-- The agent's word has ended and nothing more happens to its scalar state: EXIT, SRET. -/
  | gone (s : State)

/-- The stall count of the word that runs (03 R72). -/
def State.stall (s : State) : Nat := (stallOf s.ir).toNat

/-- The issue cycle of the running agent's word: for a word that has begun to wait, the cycle in which it began (03 R80). -/
def State.issueCycle (s : State) : Nat :=
  match s.cur with
  | .hart h => if (s.hart h).wait = .none then s.now else (s.hart h).waitFrom
  | .steward _ => s.now

/-- Retirement at the running agent's PC: the loop-end step, instret, and the stall count (01 R19, 03 R80). -/
def Scalar.retire (sc : Scalar) (now stall : Nat) : Scalar :=
  let p := loopEnd sc.loops sc.pc
  { sc with loops := p.1, pc := p.2, latch := none, instret := sc.instret + 1,
            nextIssue := max sc.nextIssue (now + 1 + stall) }

/-- Retirement with a control transfer (04 R97). -/
def Scalar.transfer (sc : Scalar) (target : Dword) (now stall : Nat) : Scalar :=
  { sc with pc := target, latch := none, instret := sc.instret + 1,
            nextIssue := max sc.nextIssue (max (now + 1 + stall) (now + 2)) }

/-- The word has ended: the hart no longer waits and claims nothing. -/
def State.issued (s : State) : State :=
  match s.cur with
  | .hart h => s.modHart h fun t => { t with wait := .none, claim := none }
  | .steward _ => s

/-- The state after a word has ended. -/
def State.finish : Flow → State
  | .retire s => (s.modSc fun sc => sc.retire s.issueCycle s.stall).issued
  | .latched s p => (s.modSc fun sc => { sc.retire s.issueCycle s.stall with latch := some p }).issued
  | .jump s target => (s.modSc fun sc => sc.transfer target s.issueCycle s.stall).issued
  | .returned s =>
    (s.modSc fun sc => { sc with instret := sc.instret + 1,
                                 nextIssue := max sc.nextIssue (max (s.issueCycle + 1 + s.stall) (s.issueCycle + 2)) }).issued
  | .trap s cause value =>
    match s.cur with
    | .hart h => s.takeTrap h cause value s.sc.pc
    | .steward c =>
      (s.modSteward c fun w => w.note cause value).modSc fun sc => sc.retire s.now s.stall
  | .retireTrap s cause =>
    match s.cur with
    | .hart h =>
      let addr := s.sc.pc
      let s := (s.modSc fun sc => sc.retire s.now 0).issued
      s.takeTrap h cause addr s.sc.pc
    | .steward c =>
      (s.modSteward c fun w => w.note cause s.sc.pc).modSc fun sc => sc.retire s.now s.stall
  | .hold s => s
  | .gone s => s

end Sys2Proof.Machine
end

