-- ==== Sys2Proof/Machine/Operands.lean ====
section
/-! DEFINITION. Operand forms: which scalar registers, rows and tags a word uses, the checks of field operands, and the
values of field elements in rows. -/

namespace Sys2Proof.Machine

/-- The scalar registers that a word reads, in the order of the checking scoreboard: xa, xb, xd, xn (03 R82). -/
def scalarSources : Instr → List Reg
  | .add _ a b => [a, b]
  | .sub _ a b => [a, b]
  | .and _ a b => [a, b]
  | .or _ a b => [a, b]
  | .xor _ a b => [a, b]
  | .andn _ a b => [a, b]
  | .sll _ a b => [a, b]
  | .srl _ a b => [a, b]
  | .sra _ a b => [a, b]
  | .slt _ a b => [a, b]
  | .sltu _ a b => [a, b]
  | .min _ a b => [a, b]
  | .max _ a b => [a, b]
  | .minu _ a b => [a, b]
  | .maxu _ a b => [a, b]
  | .csel d a b => [a, b, d]
  | .mul _ a b => [a, b]
  | .mulh _ a b => [a, b]
  | .mulhu _ a b => [a, b]
  | .div _ a b => [a, b]
  | .divu _ a b => [a, b]
  | .rem _ a b => [a, b]
  | .remu _ a b => [a, b]
  | .clz _ a => [a]
  | .ctz _ a => [a]
  | .popc _ a => [a]
  | .brev _ a => [a]
  | .addi _ a _ => [a]
  | .andi _ a _ => [a]
  | .ori _ a _ => [a]
  | .xori _ a _ => [a]
  | .slti _ a _ => [a]
  | .sltiu _ a _ => [a]
  | .slli _ a _ => [a]
  | .srli _ a _ => [a]
  | .srai _ a _ => [a]
  | .lish d _ => [d]
  | .beq a b _ => [a, b]
  | .bne a b _ => [a, b]
  | .blt a b _ => [a, b]
  | .bge a b _ => [a, b]
  | .bltu a b _ => [a, b]
  | .bgeu a b _ => [a, b]
  | .jalr _ a _ => [a]
  | .loop a _ => [a]
  | .lb _ a _ => [a]
  | .lbu _ a _ => [a]
  | .lh _ a _ => [a]
  | .lhu _ a _ => [a]
  | .lw _ a _ => [a]
  | .lwu _ a _ => [a]
  | .ld _ a _ => [a]
  | .sb x a _ => [a, x]
  | .sh x a _ => [a, x]
  | .sw x a _ => [a, x]
  | .sd x a _ => [a, x]
  | .csrw _ a _ => [a]
  | .csrs _ a _ => [a]
  | .csrc _ a _ => [a]
  | .vadd _ _ _ n _ => [n]
  | .vsub _ _ _ n _ => [n]
  | .vmul _ _ _ n _ => [n]
  | .vmac _ _ _ n _ => [n]
  | .vdiv _ _ _ n _ => [n]
  | .vrem _ _ _ n _ => [n]
  | .vmin _ _ _ n _ => [n]
  | .vmax _ _ _ n _ => [n]
  | .vabs _ _ n _ => [n]
  | .vneg _ _ n _ => [n]
  | .vand _ _ _ n _ => [n]
  | .vor _ _ _ n _ => [n]
  | .vxor _ _ _ n _ => [n]
  | .vnot _ _ n _ => [n]
  | .vandn _ _ _ n _ => [n]
  | .vmov _ _ n _ => [n]
  | .vsel _ _ _ n _ => [n]
  | .vshlv _ _ _ n _ => [n]
  | .vshrv _ _ _ n _ => [n]
  | .vadds _ _ _ n _ => [n]
  | .vsubs _ _ _ n _ => [n]
  | .vmulh _ _ _ n _ => [n]
  | .vclz _ _ n _ => [n]
  | .vpopc _ _ n _ => [n]
  | .vfma _ _ _ n _ => [n]
  | .vcvt _ _ _ n _ => [n]
  | .vrnd _ _ n _ => [n]
  | .vrcp _ _ n _ => [n]
  | .vrsq _ _ n _ => [n]
  | .vaddx _ _ b n _ => [b, n]
  | .vsubx _ _ b n _ => [b, n]
  | .vmulx _ _ b n _ => [b, n]
  | .vmacx _ _ b n _ => [b, n]
  | .vminx _ _ b n _ => [b, n]
  | .vmaxx _ _ b n _ => [b, n]
  | .vandx _ _ b n _ => [b, n]
  | .vorx _ _ b n _ => [b, n]
  | .vxorx _ _ b n _ => [b, n]
  | .vshlx _ _ b n _ => [b, n]
  | .vshrx _ _ b n _ => [b, n]
  | .vsetx _ b n _ => [b, n]
  | .vrsubx _ _ b n _ => [b, n]
  | .vscalx _ _ b n _ => [b, n]
  | .eq _ _ _ _ n _ => [n]
  | .ne _ _ _ _ n _ => [n]
  | .lt _ _ _ _ n _ => [n]
  | .le _ _ _ _ n _ => [n]
  | .gt _ _ _ _ n _ => [n]
  | .ge _ _ _ _ n _ => [n]
  | .isnz _ _ _ n _ => [n]
  | .eqx _ _ _ b n _ => [b, n]
  | .nex _ _ _ b n _ => [b, n]
  | .ltx _ _ _ b n _ => [b, n]
  | .lex _ _ _ b n _ => [b, n]
  | .gtx _ _ _ b n _ => [b, n]
  | .gex _ _ _ b n _ => [b, n]
  | .matchKey _ _ _ b n _ => [b, n]
  | .rangeKey _ _ _ b n _ => [b, (b + 1), n]
  | .tset _ n => [n]
  | .tclr _ n => [n]
  | .tnot _ _ n => [n]
  | .tand _ _ _ n => [n]
  | .tor _ _ _ n => [n]
  | .txor _ _ _ n => [n]
  | .tandn _ _ _ n => [n]
  | .tmov _ _ n => [n]
  | .tfirst _ _ n => [n]
  | .tlast _ _ n => [n]
  | .tshup _ _ n => [n]
  | .tshdn _ _ n => [n]
  | .tval _ n => [n]
  | .valt _ n => [n]
  | .vcount _ _ n => [n]
  | .vany _ _ n => [n]
  | .vfirstx _ _ n => [n]
  | .vextr _ _ _ n => [n]
  | .vredsum _ _ _ n => [n]
  | .vredmax _ _ _ n => [n]
  | .vredmin _ _ _ n => [n]
  | .vtopk d _ _ n => [d, n]
  | .vbotk d _ _ n => [d, n]
  | .vmaxloc _ _ _ n => [n]
  | .vscanadd _ _ n _ => [n]
  | .vscanmax _ _ n _ => [n]
  | .vrowsh _ _ n _ => [n]
  | .vrowshup _ _ n _ => [n]
  | .vidx _ n _ => [n]
  | .vbcastf _ _ n _ => [n]
  | .vftag _ n _ => [n]
  | .vtagf _ n _ => [n]
  | .vtli _ _ _ n _ => [n]
  | .vtlu _ _ _ n _ => [n]
  | .vsimh _ _ _ n _ => [n]
  | .vlda _ a n _ => [a, n]
  | .vldaSp _ a n _ => [a, n]
  | .vsta _ a n _ => [a, n]
  | .vldx _ _ a n _ => [a, n]
  | .vstx _ _ a n _ => [a, n]
  | .vstadd _ _ a n _ => [a, n]
  | .vspill _ a n => [a, n]
  | .vfill _ a n => [a, n]
  | .tload _ a => [a]
  | .sbind _ _ b => [b]
  | .sbar a => [a]
  | .amoadd _ a b _ _ => [a, b]
  | .amoand _ a b _ _ => [a, b]
  | .amoor _ a b _ _ => [a, b]
  | .amoxor _ a b _ _ => [a, b]
  | .amomin _ a b _ _ _ => [a, b]
  | .amomax _ a b _ _ _ => [a, b]
  | .amoswap _ a b _ _ => [a, b]
  | .amocas d a b _ _ => [a, b, d]
  | .amaxf a b => [a, b]
  | .amaxfRel a b => [a, b]
  | .cbgetn _ _ b => [b]
  | .cbpopn _ _ b => [b]
  | .cbdef _ b => [b]
  | .strip a => [a]
  | .farm _ a b => [a, b]
  | .xredadd _ a => [a]
  | .xredmax _ a _ => [a]
  | .xredmin _ a _ => [a]
  | .xscanadd _ a => [a]
  | .xbcast _ a b => [a, b]
  | .xredfadd _ a _ => [a]
  | .cqapp _ _ b => [b]
  | .cqwait _ b => [b]
  | .cqdone _ _ b => [b]
  | .mma _ a c n _ _ _ => [a, c, n]
  | .mldb _ a b => [a, b]
  | .dpload _ a b => [a, b]
  | .dpinfo _ a => [a]
  | .kvfind _ a b => [a, b]
  | .kvins _ a b => [a, b]
  | .kvpin _ a => [a]
  | .kvunpin _ a => [a]
  | .kvref _ a b => [a, b]
  | .kvwin _ a => [a]
  | .nwr _ b => [b]
  | .nswap _ _ b => [b]
  | .fpush a => [a]
  | .fpop a => [a]
  | .pgreq _ a => [a]
  | .svsave _ a b => [a, b]
  | .svrest _ a b => [a, b]
  | .slreplay _ a => [a]
  | .tlbinv _ a => [a]
  | .hfreeze _ a b => [a, b]
  | .hthaw _ a => [a]
  | .esload _ a b => [a, b]
  | _ => []

/-- The scalar register that a word writes. -/
def scalarDest : Instr → Option Reg
  | .add d _ _ => some d
  | .sub d _ _ => some d
  | .and d _ _ => some d
  | .or d _ _ => some d
  | .xor d _ _ => some d
  | .andn d _ _ => some d
  | .sll d _ _ => some d
  | .srl d _ _ => some d
  | .sra d _ _ => some d
  | .slt d _ _ => some d
  | .sltu d _ _ => some d
  | .min d _ _ => some d
  | .max d _ _ => some d
  | .minu d _ _ => some d
  | .maxu d _ _ => some d
  | .csel d _ _ => some d
  | .mul d _ _ => some d
  | .mulh d _ _ => some d
  | .mulhu d _ _ => some d
  | .div d _ _ => some d
  | .divu d _ _ => some d
  | .rem d _ _ => some d
  | .remu d _ _ => some d
  | .clz d _ => some d
  | .ctz d _ => some d
  | .popc d _ => some d
  | .brev d _ => some d
  | .addi d _ _ => some d
  | .andi d _ _ => some d
  | .ori d _ _ => some d
  | .xori d _ _ => some d
  | .slti d _ _ => some d
  | .sltiu d _ _ => some d
  | .slli d _ _ => some d
  | .srli d _ _ => some d
  | .srai d _ _ => some d
  | .lih d _ => some d
  | .lish d _ => some d
  | .jal d _ => some d
  | .jalr d _ _ => some d
  | .lidx d _ => some d
  | .lcnt d _ => some d
  | .lb d _ _ => some d
  | .lbu d _ _ => some d
  | .lh d _ _ => some d
  | .lhu d _ _ => some d
  | .lw d _ _ => some d
  | .lwu d _ _ => some d
  | .ld d _ _ => some d
  | .csrr d _ => some d
  | .csrw d _ _ => some d
  | .csrs d _ _ => some d
  | .csrc d _ _ => some d
  | .vcount d _ _ => some d
  | .vany d _ _ => some d
  | .vfirstx d _ _ => some d
  | .vextr d _ _ _ => some d
  | .vredsum d _ _ _ => some d
  | .vredmax d _ _ _ => some d
  | .vredmin d _ _ _ => some d
  | .vtopk d _ _ _ => some d
  | .vbotk d _ _ _ => some d
  | .vmaxloc d _ _ _ => some d
  | .sstat d _ => some d
  | .amoadd d _ _ _ _ => some d
  | .amoand d _ _ _ _ => some d
  | .amoor d _ _ _ _ => some d
  | .amoxor d _ _ _ _ => some d
  | .amomin d _ _ _ _ _ => some d
  | .amomax d _ _ _ _ _ => some d
  | .amoswap d _ _ _ _ => some d
  | .amocas d _ _ _ _ => some d
  | .cbget d _ => some d
  | .cbpop d _ => some d
  | .cbstat d _ => some d
  | .cbgetn d _ _ => some d
  | .cbpopn d _ _ => some d
  | .fnext d _ => some d
  | .xredadd d _ => some d
  | .xredmax d _ _ => some d
  | .xredmin d _ _ => some d
  | .xscanadd d _ => some d
  | .xbcast d _ _ => some d
  | .xredfadd d _ _ => some d
  | .cqapp d _ _ => some d
  | .cqstat d _ => some d
  | .cqdone d _ _ => some d
  | .mlicAcq d => some d
  | .mlicSt d => some d
  | .dpload d _ _ => some d
  | .dpinfo d _ => some d
  | .kvfind d _ _ => some d
  | .kvins d _ _ => some d
  | .kvpin d _ => some d
  | .kvunpin d _ => some d
  | .kvref d _ _ => some d
  | .nrd d _ => some d
  | .nswap d _ _ => some d
  | .fcnt d => some d
  | .pgreq d _ => some d
  | .svsave d _ _ => some d
  | .svrest d _ _ => some d
  | .slreplay d _ => some d
  | .tlbinv d _ => some d
  | .hfreeze d _ _ => some d
  | .hthaw d _ => some d
  | .esload d _ _ => some d
  | .estep d => some d
  | _ => none

/-- What a prefix may do on a word (03 R85, R86). -/
inductive PfxUse where
  /-- No prefix: ILL. -/
  | refused
  /-- Predicate only. -/
  | predicate
  /-- Predicate and a scalar destination copy. -/
  | scalarCopy
  /-- Predicate and a field destination copy. -/
  | fieldCopy
deriving DecidableEq, Repr

/-- The prefix that each word admits (03 R85, R86, 04 R121). -/
def pfxUse : Instr → PfxUse
  | .pfx _ _ _ _ => .refused
  | .add _ _ _ => .scalarCopy
  | .sub _ _ _ => .scalarCopy
  | .and _ _ _ => .scalarCopy
  | .or _ _ _ => .scalarCopy
  | .xor _ _ _ => .scalarCopy
  | .andn _ _ _ => .scalarCopy
  | .sll _ _ _ => .scalarCopy
  | .srl _ _ _ => .scalarCopy
  | .sra _ _ _ => .scalarCopy
  | .slt _ _ _ => .scalarCopy
  | .sltu _ _ _ => .scalarCopy
  | .min _ _ _ => .scalarCopy
  | .max _ _ _ => .scalarCopy
  | .minu _ _ _ => .scalarCopy
  | .maxu _ _ _ => .scalarCopy
  | .csel _ _ _ => .scalarCopy
  | .mul _ _ _ => .scalarCopy
  | .mulh _ _ _ => .scalarCopy
  | .mulhu _ _ _ => .scalarCopy
  | .div _ _ _ => .scalarCopy
  | .divu _ _ _ => .scalarCopy
  | .rem _ _ _ => .scalarCopy
  | .remu _ _ _ => .scalarCopy
  | .clz _ _ => .scalarCopy
  | .ctz _ _ => .scalarCopy
  | .popc _ _ => .scalarCopy
  | .brev _ _ => .scalarCopy
  | .addi _ _ _ => .scalarCopy
  | .andi _ _ _ => .scalarCopy
  | .ori _ _ _ => .scalarCopy
  | .xori _ _ _ => .scalarCopy
  | .slti _ _ _ => .scalarCopy
  | .sltiu _ _ _ => .scalarCopy
  | .slli _ _ _ => .scalarCopy
  | .srli _ _ _ => .scalarCopy
  | .srai _ _ _ => .scalarCopy
  | .lih _ _ => .scalarCopy
  | .lish _ _ => .scalarCopy
  | .beq _ _ _ => .refused
  | .bne _ _ _ => .refused
  | .blt _ _ _ => .refused
  | .bge _ _ _ => .refused
  | .bltu _ _ _ => .refused
  | .bgeu _ _ _ => .refused
  | .jal _ _ => .refused
  | .jalr _ _ _ => .refused
  | .loop _ _ => .refused
  | .loopi _ _ => .refused
  | .lb _ _ _ => .scalarCopy
  | .lbu _ _ _ => .scalarCopy
  | .lh _ _ _ => .scalarCopy
  | .lhu _ _ _ => .scalarCopy
  | .lw _ _ _ => .scalarCopy
  | .lwu _ _ _ => .scalarCopy
  | .ld _ _ _ => .scalarCopy
  | .vadd _ _ _ _ _ => .fieldCopy
  | .vsub _ _ _ _ _ => .fieldCopy
  | .vmul _ _ _ _ _ => .fieldCopy
  | .vmac _ _ _ _ _ => .fieldCopy
  | .vdiv _ _ _ _ _ => .fieldCopy
  | .vrem _ _ _ _ _ => .fieldCopy
  | .vmin _ _ _ _ _ => .fieldCopy
  | .vmax _ _ _ _ _ => .fieldCopy
  | .vabs _ _ _ _ => .fieldCopy
  | .vneg _ _ _ _ => .fieldCopy
  | .vand _ _ _ _ _ => .fieldCopy
  | .vor _ _ _ _ _ => .fieldCopy
  | .vxor _ _ _ _ _ => .fieldCopy
  | .vnot _ _ _ _ => .fieldCopy
  | .vandn _ _ _ _ _ => .fieldCopy
  | .vmov _ _ _ _ => .fieldCopy
  | .vsel _ _ _ _ _ => .fieldCopy
  | .vshlv _ _ _ _ _ => .fieldCopy
  | .vshrv _ _ _ _ _ => .fieldCopy
  | .vadds _ _ _ _ _ => .fieldCopy
  | .vsubs _ _ _ _ _ => .fieldCopy
  | .vmulh _ _ _ _ _ => .fieldCopy
  | .vclz _ _ _ _ => .fieldCopy
  | .vpopc _ _ _ _ => .fieldCopy
  | .vfma _ _ _ _ _ => .fieldCopy
  | .vcvt _ _ _ _ _ => .fieldCopy
  | .vrnd _ _ _ _ => .fieldCopy
  | .vrcp _ _ _ _ => .fieldCopy
  | .vrsq _ _ _ _ => .fieldCopy
  | .vaddx _ _ _ _ _ => .fieldCopy
  | .vsubx _ _ _ _ _ => .fieldCopy
  | .vmulx _ _ _ _ _ => .fieldCopy
  | .vmacx _ _ _ _ _ => .fieldCopy
  | .vminx _ _ _ _ _ => .fieldCopy
  | .vmaxx _ _ _ _ _ => .fieldCopy
  | .vandx _ _ _ _ _ => .fieldCopy
  | .vorx _ _ _ _ _ => .fieldCopy
  | .vxorx _ _ _ _ _ => .fieldCopy
  | .vshlx _ _ _ _ _ => .fieldCopy
  | .vshrx _ _ _ _ _ => .fieldCopy
  | .vsetx _ _ _ _ => .fieldCopy
  | .vrsubx _ _ _ _ _ => .fieldCopy
  | .vscalx _ _ _ _ _ => .fieldCopy
  | .vscanadd _ _ _ _ => .fieldCopy
  | .vscanmax _ _ _ _ => .fieldCopy
  | .vrowsh _ _ _ _ => .fieldCopy
  | .vrowshup _ _ _ _ => .fieldCopy
  | .vidx _ _ _ => .fieldCopy
  | .vbcastf _ _ _ _ => .fieldCopy
  | .vftag _ _ _ => .fieldCopy
  | .vtli _ _ _ _ _ => .fieldCopy
  | .vtlu _ _ _ _ _ => .fieldCopy
  | .vsimh _ _ _ _ _ => .fieldCopy
  | _ => .predicate

/-- Check 5 of R79: whether a loaded latch is illegal on a word. -/
def pfxIllegal (i : Instr) (p : PfxLatch) : Bool :=
  match pfxUse i with
  | .refused => true
  | .predicate => p.dce
  | .scalarCopy => false
  | .fieldCopy => p.dce && p.dcr.getLsbD 4

/-- A word that only the steward may run: check 3 of R79. -/
def privileged : Instr → Bool
  | .sret => true
  | .svsave _ _ _ => true
  | .svrest _ _ _ => true
  | .hfreeze _ _ _ => true
  | .esload _ _ _ => true
  | .slreplay _ _ => true
  | .tlbinv _ _ => true
  | .hthaw _ _ => true
  | .estep _ => true
  | _ => false

/-- The rows, tags and validity that a word uses (10 R234). `any` stands for columns reached by address. -/
structure RowUse where
  reads : List VReg := []
  writes : List VReg := []
  any : Bool := false
  /-- Sets flags that depend on tgv, or reads tgv; writes tgv. -/
  readsTgv : Bool := false
  writesTgv : Bool := false
  /-- Reads tgv for its flags where a field of it is no integer, and, for VCVT, writes it where one is f4b (05 R129). -/
  flagsTgv : Bool := false
  blockTgv : Bool := false
  writesTg0 : Bool := false
  /-- Whether it has array occupancy when n is not 0 (01 R42). -/
  array : Bool := false
deriving DecidableEq, Repr

/-- What a word uses of its hart's rows, apart from a destination copy. -/
def rowUse : Instr → RowUse
  | .vadd d a b _ _ => { reads := [a, b], writes := [d], array := true, flagsTgv := true }
  | .vsub d a b _ _ => { reads := [a, b], writes := [d], array := true, flagsTgv := true }
  | .vmul d a b _ _ => { reads := [a, b], writes := [d], array := true, flagsTgv := true }
  | .vmac d a b _ _ => { reads := [a, b, d], writes := [d], array := true }
  | .vdiv d a b _ _ => { reads := [a, b], writes := [d], array := true, flagsTgv := true }
  | .vrem d a b _ _ => { reads := [a, b], writes := [d], array := true }
  | .vmin d a b _ _ => { reads := [a, b], writes := [d], array := true }
  | .vmax d a b _ _ => { reads := [a, b], writes := [d], array := true }
  | .vabs d a _ _ => { reads := [a], writes := [d], array := true }
  | .vneg d a _ _ => { reads := [a], writes := [d], array := true }
  | .vand d a b _ _ => { reads := [a, b], writes := [d], array := true }
  | .vor d a b _ _ => { reads := [a, b], writes := [d], array := true }
  | .vxor d a b _ _ => { reads := [a, b], writes := [d], array := true }
  | .vnot d a _ _ => { reads := [a], writes := [d], array := true }
  | .vandn d a b _ _ => { reads := [a, b], writes := [d], array := true }
  | .vmov d a _ _ => { reads := [a], writes := [d], array := true }
  | .vsel d a b _ _ => { reads := [a, b], writes := [d], array := true }
  | .vshlv d a b _ _ => { reads := [a, b], writes := [d], array := true }
  | .vshrv d a b _ _ => { reads := [a, b], writes := [d], array := true }
  | .vadds d a b _ _ => { reads := [a, b], writes := [d], array := true, readsTgv := true }
  | .vsubs d a b _ _ => { reads := [a, b], writes := [d], array := true, readsTgv := true }
  | .vmulh d a b _ _ => { reads := [a, b], writes := [d], array := true }
  | .vclz d a _ _ => { reads := [a], writes := [d], array := true }
  | .vpopc d a _ _ => { reads := [a], writes := [d], array := true }
  | .vfma d a b _ _ => { reads := [a, b, d], writes := [d], array := true, readsTgv := true }
  | .vcvt d a b _ _ => { reads := [a, b], writes := [d], array := true, flagsTgv := true, blockTgv := true }
  | .vrnd d a _ _ => { reads := [a], writes := [d], array := true, readsTgv := true }
  | .vrcp d a _ _ => { reads := [a], writes := [d], array := true, readsTgv := true }
  | .vrsq d a _ _ => { reads := [a], writes := [d], array := true, readsTgv := true }
  | .vaddx d a _ _ _ => { reads := [a], writes := [d], array := true, flagsTgv := true }
  | .vsubx d a _ _ _ => { reads := [a], writes := [d], array := true, flagsTgv := true }
  | .vmulx d a _ _ _ => { reads := [a], writes := [d], array := true, flagsTgv := true }
  | .vmacx d a _ _ _ => { reads := [a, d], writes := [d], array := true }
  | .vminx d a _ _ _ => { reads := [a], writes := [d], array := true }
  | .vmaxx d a _ _ _ => { reads := [a], writes := [d], array := true }
  | .vandx d a _ _ _ => { reads := [a], writes := [d], array := true }
  | .vorx d a _ _ _ => { reads := [a], writes := [d], array := true }
  | .vxorx d a _ _ _ => { reads := [a], writes := [d], array := true }
  | .vshlx d a _ _ _ => { reads := [a], writes := [d], array := true }
  | .vshrx d a _ _ _ => { reads := [a], writes := [d], array := true }
  | .vsetx d _ _ _ => { writes := [d], array := true }
  | .vrsubx d a _ _ _ => { reads := [a], writes := [d], array := true, flagsTgv := true }
  | .vscalx d a _ _ _ => { reads := [a], writes := [d], array := true, readsTgv := true }
  | .eq t _ a b _ _ => { reads := [a, b], writesTg0 := decide (t = 0), array := true }
  | .ne t _ a b _ _ => { reads := [a, b], writesTg0 := decide (t = 0), array := true }
  | .lt t _ a b _ _ => { reads := [a, b], writesTg0 := decide (t = 0), flagsTgv := true, array := true }
  | .le t _ a b _ _ => { reads := [a, b], writesTg0 := decide (t = 0), flagsTgv := true, array := true }
  | .gt t _ a b _ _ => { reads := [a, b], writesTg0 := decide (t = 0), flagsTgv := true, array := true }
  | .ge t _ a b _ _ => { reads := [a, b], writesTg0 := decide (t = 0), flagsTgv := true, array := true }
  | .isnz t _ a _ _ => { reads := [a], writesTg0 := decide (t = 0), array := true }
  | .eqx t _ a _ _ _ => { reads := [a], writesTg0 := decide (t = 0), array := true }
  | .nex t _ a _ _ _ => { reads := [a], writesTg0 := decide (t = 0), array := true }
  | .ltx t _ a _ _ _ => { reads := [a], writesTg0 := decide (t = 0), flagsTgv := true, array := true }
  | .lex t _ a _ _ _ => { reads := [a], writesTg0 := decide (t = 0), flagsTgv := true, array := true }
  | .gtx t _ a _ _ _ => { reads := [a], writesTg0 := decide (t = 0), flagsTgv := true, array := true }
  | .gex t _ a _ _ _ => { reads := [a], writesTg0 := decide (t = 0), flagsTgv := true, array := true }
  | .matchKey t _ a _ _ _ => { reads := [a], writesTg0 := decide (t = 0), array := true }
  | .rangeKey t _ a _ _ _ => { reads := [a], writesTg0 := decide (t = 0), flagsTgv := true, array := true }
  | .tset d _ => { array := true, writesTg0 := decide (d = 0) }
  | .tclr d _ => { array := true, writesTg0 := decide (d = 0) }
  | .tnot d _ _ => { array := true, writesTg0 := decide (d = 0) }
  | .tand d _ _ _ => { array := true, writesTg0 := decide (d = 0) }
  | .tor d _ _ _ => { array := true, writesTg0 := decide (d = 0) }
  | .txor d _ _ _ => { array := true, writesTg0 := decide (d = 0) }
  | .tandn d _ _ _ => { array := true, writesTg0 := decide (d = 0) }
  | .tmov d _ _ => { array := true, writesTg0 := decide (d = 0) }
  | .tfirst d _ _ => { array := true, writesTg0 := decide (d = 0) }
  | .tlast d _ _ => { array := true, writesTg0 := decide (d = 0) }
  | .tshup d _ _ => { array := true, writesTg0 := decide (d = 0) }
  | .tshdn d _ _ => { array := true, writesTg0 := decide (d = 0) }
  | .tval d _ => { array := true, writesTg0 := decide (d = 0), readsTgv := true }
  | .valt _ _ => { array := true, writesTgv := true }
  | .vcount _ _ _ => { array := true, readsTgv := true }
  | .vany _ _ _ => { array := true, readsTgv := true }
  | .vfirstx _ _ _ => { array := true, readsTgv := true }
  | .vextr _ _ v _ => { reads := [v], array := true, readsTgv := true }
  | .vredsum _ _ v _ => { reads := [v], array := true, readsTgv := true }
  | .vredmax _ _ v _ => { reads := [v], array := true, readsTgv := true }
  | .vredmin _ _ v _ => { reads := [v], array := true, readsTgv := true }
  | .vtopk _ t v _ => { reads := [v], array := true, readsTgv := true, writesTg0 := decide (t = 0) }
  | .vbotk _ t v _ => { reads := [v], array := true, readsTgv := true, writesTg0 := decide (t = 0) }
  | .vmaxloc _ t v _ => { reads := [v], array := true, readsTgv := true, writesTg0 := decide (t = 0) }
  | .vscanadd d a _ _ => { reads := [a], writes := [d], array := true, readsTgv := true }
  | .vscanmax d a _ _ => { reads := [a], writes := [d], array := true, readsTgv := true }
  | .vrowsh d a _ _ => { reads := [a], writes := [d], array := true, readsTgv := true, writesTgv := true }
  | .vrowshup d a _ _ => { reads := [a], writes := [d], array := true, readsTgv := true, writesTgv := true }
  | .vidx d _ _ => { writes := [d], array := true }
  | .vbcastf d a _ _ => { reads := [a], writes := [d], array := true, readsTgv := true, writesTgv := true }
  | .vftag d _ _ => { writes := [d], array := true }
  | .vtagf a _ _ => { reads := [a], array := true, writesTg0 := true }
  | .vtli d a _ _ _ => { reads := [a], writes := [d], array := true, readsTgv := true, writesTgv := true }
  | .vtlu d a _ _ _ => { reads := [a], writes := [d], array := true, readsTgv := true, writesTgv := true }
  | .vsimh d a b _ _ => { reads := [a, b], writes := [d], array := true }
  | .vlda d _ _ _ => { writes := [d], writesTgv := true }
  | .vldaSp d _ _ _ => { writes := [d], writesTgv := true }
  | .vsta v _ _ _ => { reads := [v], readsTgv := true }
  | .vldx d i _ _ _ => { reads := [i], writes := [d], writesTgv := true }
  | .vstx v i _ _ _ => { reads := [v, i], readsTgv := true }
  | .vstadd v i _ _ _ => { reads := [v, i], readsTgv := true }
  | .vspill v _ _ => { reads := [v] }
  | .vfill d _ _ => { writes := [d] }
  | .sbind _ v _ => { reads := [v], writes := [v], readsTgv := true, writesTgv := true }
  | .mma _ _ _ _ _ _ _ => { any := true }
  | .mldb _ _ _ => { any := true }
  | .fpush _ => { any := true }
  | .fpop _ => { any := true }
  | _ => {}

/-! ## Rows, tags and validity (01 R26 to R34) -/

/-- The bits of a row from column lo up, w of them. -/
def rowBits (r : Row) (lo w : Nat) : Nat := r.toNat / 2 ^ lo % 2 ^ w

/-- A row with the w columns from lo up replaced by the low bits of v. -/
def setRowBits (r : Row) (lo w v : Nat) : Row :=
  BitVec.ofNat 512 (r.toNat - rowBits r lo w * 2 ^ lo + v % 2 ^ w * 2 ^ lo)

/-- A row of a cluster's A-space. -/
def State.row (s : State) (k : ClusterKey) (e : Nat) : Row := sparseGet (fun _ => 0) s.rows (16384 * k + e)

/-- Writes a row of a cluster's A-space. -/
def State.setRow (s : State) (k : ClusterKey) (e : Nat) (v : Row) : State :=
  { s with rows := sparsePut (fun _ => 0) s.rows (16384 * k + e) v }

/-- A bit of a column. -/
def colGet (c : Column) (e : Nat) : Bool := c.getLsbD e

/-- A column with n bits from row lo up replaced by those of v. -/
def colSplice (c : Column) (lo n : Nat) (v : Nat) : Column :=
  BitVec.ofNat 16384 (c.toNat - c.toNat / 2 ^ lo % 2 ^ n * 2 ^ lo + v % 2 ^ n * 2 ^ lo)

/-- The number whose bit i is f i, for i below n. -/
def bitsOf (f : Nat → Bool) : Nat → Nat
  | 0 => 0
  | n + 1 => bitsOf f n + (if f n then 2 ^ n else 0)

/-- Tag t of a hart in row e (R28). -/
def State.tag (s : State) (h : HartKey) (t e : Nat) : Bool :=
  colGet ((s.cluster (clusterOfHart h)).tags.getD (4 * slotOfHart h + t) 0) e

/-- The validity of a hart's row e. -/
def State.tgv (s : State) (h : HartKey) (e : Nat) : Bool :=
  colGet ((s.cluster (clusterOfHart h)).valid.getD (slotOfHart h) 0) e

/-- Writes tag t of a hart in rows lo to lo + n − 1. -/
def State.setTags (s : State) (h : HartKey) (t lo n : Nat) (f : Nat → Bool) : State :=
  s.modCluster (clusterOfHart h) fun c =>
    { c with tags := c.tags.setIfInBounds (4 * slotOfHart h + t)
               (colSplice (c.tags.getD (4 * slotOfHart h + t) 0) lo n (bitsOf (fun i => f (lo + i)) n)) }

/-- Writes the validity of a hart's rows lo to lo + n − 1. -/
def State.setTgvs (s : State) (h : HartKey) (lo n : Nat) (f : Nat → Bool) : State :=
  s.modCluster (clusterOfHart h) fun c =>
    { c with valid := c.valid.setIfInBounds (slotOfHart h)
               (colSplice (c.valid.getD (slotOfHart h) 0) lo n (bitsOf (fun i => f (lo + i)) n)) }

/-- The raw bits of a field's element in a row of a hart. -/
def State.elem (s : State) (h : HartKey) (d : FieldDesc) (e : Nat) : Nat :=
  rowBits (s.row (clusterOfHart h) e) ((s.hart h).colbase + d.base.toNat) d.width.toNat

/-- Writes a field's element in a row of a hart. -/
def State.setElem (s : State) (h : HartKey) (d : FieldDesc) (e v : Nat) : State :=
  s.setRow (clusterOfHart h) e
    (setRowBits (s.row (clusterOfHart h) e) ((s.hart h).colbase + d.base.toNat) d.width.toNat v)

/-! ## Field operands (01 R31, R32, 05 R128) -/

/-- Integer class. -/
def FieldDesc.isInt (d : FieldDesc) : Bool := decide (d.type.toNat ≤ 1)
/-- Float class. -/
def FieldDesc.isFloat (d : FieldDesc) : Bool := decide (2 ≤ d.type.toNat) && decide (d.type.toNat ≤ 6)
/-- Signed integer. -/
def FieldDesc.signed (d : FieldDesc) : Bool := d.type == 0
/-- f4b. -/
def FieldDesc.isF4b (d : FieldDesc) : Bool := d.type == 7
/-- The float format of a field; FP32 where it has none. -/
def FieldDesc.fmt (d : FieldDesc) : Fmt := (fmtOf d.type.toNat).getD fmtF32

/-- The natural widths of a type (R31). -/
def FieldDesc.natural (d : FieldDesc) : Bool :=
  match d.type.toNat with
  | 0 | 1 => decide (d.width.toNat ≤ 64)
  | 2 | 3 => d.width == 16
  | 4 => d.width == 32
  | 5 | 6 => d.width == 8
  | _ => d.width == 4

/-- Whether two fields share a column. -/
def FieldDesc.overlaps (a b : FieldDesc) : Bool :=
  decide (a.base.toNat < b.base.toNat + b.width.toNat) && decide (b.base.toNat < a.base.toNat + a.width.toNat)

/-- The checks of R32 on one field, against the fields checked before it. -/
def FieldDesc.accepted (cols : Nat) (before : List FieldDesc) (d : FieldDesc) : Bool :=
  d.width != 0 && d.natural && decide (d.base.toNat + d.width.toNat ≤ cols)
    && before.all fun b => !b.overlaps d || (b.base == d.base && b.width == d.width)

/-- A hart's field register. -/
def Hart.field (t : Hart) (v : VReg) : FieldDesc := t.fields[v.toNat]'(by have := v.isLt; omega)

/-- What a word of a hart uses of its rows, by the types of its fields: an integer word that sets no flag reads no tgv (05 R129). -/
def Hart.rowUse (t : Hart) (i : Instr) : RowUse :=
  let u := Sys2Proof.Machine.rowUse i
  let fields := (u.writes ++ u.reads).map t.field
  { u with readsTgv := u.readsTgv || (u.flagsTgv && fields.any fun d => !d.isInt) || (u.blockTgv && fields.any FieldDesc.isF4b),
           writesTgv := u.writesTgv || (u.blockTgv && fields.any FieldDesc.isF4b) }

/-- The first failing operand of a list, each with its own class check (R32, R128). -/
def Hart.checkFields (t : Hart) (before : List FieldDesc) : List (VReg × (FieldDesc → Bool)) → Option VReg
  | [] => none
  | (v, ok) :: rest =>
    let d := t.field v
    if d.accepted t.cols before && ok d then t.checkFields (d :: before) rest else some v

/-- The copy field of a prefix destination copy (03 R86). -/
def State.copyField (s : State) : Option VReg := s.copyReg.map fun r => r.setWidth 4

/-- The operand list of a word with destination d: destination, copy, sources (R32, R86). -/
def State.withCopy (s : State) (d : VReg) (ok : FieldDesc → Bool) (srcs : List (VReg × (FieldDesc → Bool))) :
    List (VReg × (FieldDesc → Bool)) :=
  let dd := s.self.field d
  match s.copyField with
  | some c => (d, ok) :: (c, fun x => x.type == dd.type && x.width == dd.width) :: srcs
  | none => (d, ok) :: srcs

/-- A raw element as an integer of its type (02 R50). -/
def FieldDesc.int (d : FieldDesc) (v : Nat) : Int :=
  if d.signed && v.testBit (d.width.toNat - 1) then (v : Int) - 2 ^ d.width.toNat else v

/-- The low w bits of an integer, in two's complement (R51). -/
def fitInt (w : Nat) (i : Int) : Nat := (i % (2 ^ w : Int)).toNat

/-- The least and the greatest value of an integer type (R50). -/
def FieldDesc.range (d : FieldDesc) : Int × Int :=
  if d.signed then (-(2 ^ (d.width.toNat - 1) : Int), 2 ^ (d.width.toNat - 1) - 1) else (0, 2 ^ d.width.toNat - 1)

/-- A scalar operand read as an integer by a type (05 R137). -/
def FieldDesc.key (d : FieldDesc) (k : Dword) : Int := if d.signed then k.toInt else (k.toNat : Int)

end Sys2Proof.Machine
end

