-- ==== Sys2Proof/Machine/Flags.lean ====
section
/-! DEFINITION. The frame of an instruction word: the checks of R79 in their order, waiting, the prefix; the frame of an
array instruction; and how flags reach fflags. -/

namespace Sys2Proof.Machine

/-- ORs flags into fflags of a hart (01 R24). -/
def State.raiseOn (s : State) (h : HartKey) (f : Flags) : State :=
  s.modHart h fun t => { t with csr := { t.csr with fflags := t.csr.fflags ||| f } }

/-- ORs flags into fflags of the hart whose word runs. -/
def State.raise (s : State) (f : Flags) : State := s.raiseOn s.me f

/-! ## What a word waits for -/

/-- The columns of a field and a row use overlap. -/
def touches (t : Hart) (d : FieldDesc) (vs : List VReg) : Bool := vs.any fun v => (t.field v).overlaps d

/-- The byte count of an element in memory (10 R229). -/
def FieldDesc.size (d : FieldDesc) : Nat := (d.width.toNat + 7) / 8

/-- ADDR of a binding record (R236). -/
def Binding.addr (b : Binding) : Dword := b.record.extractLsb' 0 64
/-- ROWS. -/
def Binding.rows (b : Binding) : Nat := (b.record.extractLsb' 64 32).toNat
/-- BLOCKS. -/
def Binding.blocks (b : Binding) : Nat := (b.record.extractLsb' 96 32).toNat
/-- BSTRIDE. -/
def Binding.stride (b : Binding) : Dword := b.record.extractLsb' 128 64
/-- DIR: a store stream. -/
def Binding.stores (b : Binding) : Bool := b.record.extractLsb' 192 8 == 1
/-- FORM: scale pairs. -/
def Binding.scale (b : Binding) : Bool := b.record.extractLsb' 200 8 == 1

/-- The bytes of a scalar access on qd. -/
def scalarBytes : Instr → Nat
  | .lb _ _ _ => 1
  | .lbu _ _ _ => 1
  | .sb _ _ _ => 1
  | .lh _ _ _ => 2
  | .lhu _ _ _ => 2
  | .sh _ _ _ => 2
  | .ld _ _ _ => 8
  | .sd _ _ _ => 8
  | .amoadd _ _ _ _ w => if w = 1 then 8 else 4
  | .amoand _ _ _ _ w => if w = 1 then 8 else 4
  | .amoor _ _ _ _ w => if w = 1 then 8 else 4
  | .amoxor _ _ _ _ w => if w = 1 then 8 else 4
  | .amomin _ _ _ _ w _ => if w = 1 then 8 else 4
  | .amomax _ _ _ _ w _ => if w = 1 then 8 else 4
  | .amoswap _ _ _ _ w => if w = 1 then 8 else 4
  | .amocas _ _ _ _ w => if w = 1 then 8 else 4
  | _ => 4

/-- The bytes that an access covers from its address on; 0 for an indexed form, which may reach any. -/
def Transfer.length (x : Transfer) : Nat :=
  match x.kind with
  | .scale => 2 * ((x.rows + 31) / 32)
  | .load | .store => if x.desc.isF4b then (x.rows + 1) / 2 else x.rows * x.desc.size
  | .spill | .fill => 1 + (x.rows * x.desc.width.toNat + 7) / 8
  | .table => 512
  | .ld | .st | .amo | .fold => (x.word.map scalarBytes).getD 0
  | .loadX | .storeX | .addX => 0

/-- A transfer that reads memory into rows. -/
def Transfer.loads (x : Transfer) : Bool :=
  match x.kind with
  | .load | .scale | .loadX | .fill => true
  | _ => false

/-- A transfer that stores rows to memory. -/
def Transfer.storesRows (x : Transfer) : Bool :=
  match x.kind with
  | .store | .storeX | .addX | .spill => true
  | _ => false

/-- An indexed form. -/
def Transfer.indexed (x : Transfer) : Bool :=
  match x.kind with
  | .loadX | .storeX | .addX => true
  | _ => false

/-- An access that only loads: a release lets younger ones pass (10 R245). -/
def Transfer.plainLoad (x : Transfer) : Bool := x.loads || x.kind == .table || x.kind == .ld

/-- A VMEM instruction or a stream block. -/
def Transfer.vector (x : Transfer) : Bool := x.loads || x.storesRows || x.kind == .table

/-- The columns of the cluster that an A-space range of n bytes may meet, first and count; n = 0 for any. -/
def bandOf (va : Dword) (n : Nat) : Option (Nat × Nat) :=
  if va.toNat / 2 ^ 60 ≠ 10 then none
  else if n ≠ 0 ∧ va.toNat % 64 + n ≤ 64 then some (va.toNat % 64 * 8, n * 8) else some (0, 512)

/-- Whether a band of columns meets a field of a hart. -/
def bandMeets (t : Hart) (band : Option (Nat × Nat)) (d : FieldDesc) : Bool :=
  match band with
  | none => false
  | some b => decide (b.1 < t.colbase + d.base.toNat + d.width.toNat) && decide (t.colbase + d.base.toNat < b.1 + b.2)

/-- Whether a transfer in flight still needs a field that a younger use reads or writes: its own columns, or those that it
reaches by address (10 R234, 11 R268). Index columns are read in the check phase. -/
def Transfer.conflictsField (t : Hart) (x : Transfer) (writes : Bool) (d : FieldDesc) : Bool :=
  let band := bandMeets t (bandOf x.addr x.length) d
  if x.loads then x.desc.overlaps d || (writes && band)
  else if x.storesRows then (writes && !x.taken && x.desc.overlaps d) || band
  else x.kind == .table && writes && band

/-- Whether a transfer in flight still needs the tgv that a younger use reads or writes; a load counts as writing it. -/
def Transfer.conflictsTgv (x : Transfer) (reads writes : Bool) : Bool :=
  if x.loads then x.kind != .fill && (reads || writes) else x.storesRows && x.kind != .spill && !x.taken && writes

/-- Whether a transfer in flight still needs state that a word with a row use shares with it (10 R234). -/
def Transfer.conflicts (t : Hart) (copy : Option VReg) (x : Transfer) (u : RowUse) : Bool :=
  let writes := match copy with
    | some c => c :: u.writes
    | none => u.writes
  (u.any && x.vector) || (x.masked && u.writesTg0 && !x.taken) || x.conflictsTgv u.readsTgv u.writesTgv ||
    writes.any (fun v => x.conflictsField t true (t.field v)) || u.reads.any (fun v => x.conflictsField t false (t.field v))

/-- The stream blocks of a hart in flight whose check has not failed. -/
def Hart.blocks (t : Hart) : List Transfer :=
  t.streams.toList.filterMap fun b => b.bind fun b => if b.fault.isSome then none else b.block

/-- Its stream blocks whose check has failed: they have still to be performed, from their first row (10 R239). A word that holds the hart
itself does not wait for them, since only a later word could raise their fault. DEDUCED (log 21). -/
def Hart.failedBlocks (t : Hart) : List Transfer :=
  t.streams.toList.filterMap fun b => b.bind fun b => if b.fault.isSome && !b.waived then b.block else none

/-- Passes over the failed blocks of a hart, which keep nothing back until they start again. DEDUCED (log 21). -/
def Hart.waive (t : Hart) : Hart :=
  if t.failedBlocks.isEmpty then t
  else { t with streams := t.streams.map fun b => b.map fun b => { b with waived := b.fault.isSome } }

/-- The transfers of a hart in flight: its accesses on qd and its stream blocks. -/
def Hart.inFlight (t : Hart) : List Transfer := t.vmem ++ t.blocks

/-- The number of the hart's next instruction among its instructions. -/
def Hart.serial (t : Hart) : Nat := t.sc.instret.toNat

/-- Whether an ordering point older than an access keeps it back (10 R240, R245); `plain` for a load. -/
def Hart.keptBack (t : Hart) (owner stream : Nat) (plain : Bool) : Bool :=
  t.orders.any fun p => decide (p.owner < owner) && p.streams.getLsbD stream && (p.loads || !plain)

/-- The table slot that a VTLI or VTLU names (06 R160). -/
def tableSlotOf : Instr → Option Nat
  | .vtli _ _ l _ _ => some l.toNat
  | .vtlu _ _ l _ _ => some l.toNat
  | _ => none

/-- The words that read a record or an image on qd and wait for it. -/
def readsRecord : Instr → Bool
  | .sbind _ _ _ => true
  | .cbdef _ _ => true
  | .cqapp _ _ _ => true
  | .kvfind _ _ _ => true
  | .kvins _ _ _ => true
  | .dpload _ _ _ => true
  | _ => false

/-- The VMEM words, whose transfers queue behind each other (10 R233). -/
def queues : Instr → Bool
  | .vlda _ _ _ _ => true
  | .vldaSp _ _ _ _ => true
  | .vsta _ _ _ _ => true
  | .vldx _ _ _ _ _ => true
  | .vstx _ _ _ _ _ => true
  | .vstadd _ _ _ _ _ => true
  | .vspill _ _ _ => true
  | .vfill _ _ _ => true
  | .tload _ _ => true
  | _ => false

/-- Words that release or acquire as a part of themselves: they wait behind every ordering point whose older accesses are not performed.
-/
def ordersItself : Instr → Bool
  | .bar => true
  | .arrive => true
  | .await => true
  | .xredadd _ _ => true
  | .xredmax _ _ _ => true
  | .xredmin _ _ _ => true
  | .xscanadd _ _ => true
  | .xbcast _ _ _ => true
  | .xredfadd _ _ _ => true
  | .cbget _ _ => true
  | .cbgetn _ _ _ => true
  | .cbput _ => true
  | .cbpop _ _ => true
  | .cbpopn _ _ _ => true
  | .cbrel _ => true
  | .cqgo _ => true
  | .cqwait _ _ => true
  | .exit => true
  | .nswap _ _ _ => true
  | .tbar _ => true
  | .fpush _ => true
  | .fpop _ => true
  | .scommit => true
  | .mwait => true
  | _ => false

/-- Of them those that access memory themselves, and whether they load: an ordering point keeps that access back as any other. -/
def accessing : Instr → Option Bool
  | .fpush _ => some true
  | .fpop _ => some false
  | .scommit => some false
  | _ => none

/-- The words that release before they take effect, beside ordered AMOs and folds (11 R259). -/
def releases : Instr → Bool
  | .cbput _ => true
  | .cbrel _ => true
  | .cqgo _ => true
  | .exit => true
  | _ => false

/-- Whether every access of a hart that is older than an instruction, beside the stores in flight to their homes, is performed:
its accesses on qd, stream blocks, draining granules, the side log, and loads and AMOs whose value has not returned (11 R253,
R263, R264). -/
def Hart.quiet (t : Hart) (now before : Nat) : Bool :=
  t.vmem.all (fun x => decide (before ≤ x.owner)) && t.blocks.all (fun x => decide (before ≤ x.owner))
    && t.draining.isEmpty && t.sideLog.all (fun e => decide (before ≤ e.owner))
    && t.sc.board.all fun w => w.kind != .memory || w.due now ||
        match w.owner with
        | some o => decide (before ≤ o)
        | none => false

/-- Whether a retired instruction of a hart may still need an entry of its side log. -/
def Hart.storesLeft (t : Hart) : Bool :=
  t.inFlight.any (fun x => x.storesRows || x.kind == .st || x.kind == .fold) || !t.draining.isEmpty

/-- Whether a transfer in flight still needs what the block that a SWAIT would start uses, as the VLDA or VSTA of the block would (10
R234, R238). -/
def Hart.blockConflict (t : Hart) (x : Transfer) : Instr → Bool
  | .swait q =>
    match t.streams[q.toNat]? with
    | some (some b) =>
      decide (b.started ≤ b.waits) && decide (b.waits < b.blocks) && b.block.isNone &&
        (x.conflictsField t (!b.stores) b.desc || x.conflictsTgv b.stores (!b.stores))
    | _ => false
  | _ => false

/-- Whether R234 holds a word, with its copy field, for a transfer. -/
def Hart.heldFor (t : Hart) (i : Instr) (copy : Option VReg) (x : Transfer) : Bool :=
  x.conflicts t copy (t.rowUse i) || t.blockConflict x i

/-- The memory waits of a word: R234, a table slot being loaded, ordering points, the VMEM queue of 8, the order of qd before the
read of a record, a full side log (17 R358), and a release. -/
def Hart.memoryWait (t : Hart) (i : Instr) (copy : Option VReg) (now : Nat) : Bool :=
  t.inFlight.any (t.heldFor i copy) ||
  (match tableSlotOf i with
   | some l => t.vmem.any fun x => decide (x.kind = .table) && decide (x.slot = l)
   | none => false) ||
  (ordersItself i && t.orders.any fun p => (p.release.isSome || p.acquire.isSome || p.arrives) && match accessing i with
    | some plain => p.loads || (!plain && p.release.isSome)
    | none => !p.settled || p.arrives) ||
  (readsRecord i && (!t.vmem.isEmpty || t.keptBack t.serial 8 true)) ||
  (queues i && decide (8 ≤ (t.vmem.filter Transfer.vector).length)) ||
  (decide (64 ≤ t.sideLog.length) && t.storesLeft) ||
  (releases i && !t.quiet now t.serial)

/-- A CSR word that names fflags waits for the flags of every older instruction (04 R113, 17 R358). -/
def flagWait (i : Instr) (t : Hart) (now : Nat) : Bool :=
  let names : Option (BitVec 11) := match i with
    | .csrr _ c => some c
    | .csrw _ _ c => some c
    | .csrs _ _ c => some c
    | .csrc _ _ c => some c
    | _ => none
  names == some 0x009 &&
    (decide (now < t.arrayDone) || t.inFlight.any (fun x => x.kind == .addX || (x.storesRows && x.kind != .spill && !x.taken))
      || t.sideLog.any fun e => match e.kind with
        | .add type .. => decide (2 ≤ type.toNat)
        | _ => false)

/-- Whether an entry of the matrix queue was placed by a hart. -/
def MatEntry.of (e : MatEntry) (h : HartKey) (t : Hart) : Bool :=
  decide (e.source = .hart h) && decide (e.team = some (t.launch, t.team))

/-- The rows of a cluster that a matrix entry has still to read: cluster within the core, first row, and rows (13 R296,
R299). -/
def MatEntry.spans (e : MatEntry) : List (Nat × Nat × Nat) :=
  let off := e.addr.toNat % 2 ^ 23
  let array := off / 65536
  let row := off % 65536 / 64
  if e.load then
    if e.addr.toNat / 2 ^ 60 ≠ 10 then []
    else (List.range 16).map fun i => (array / 16, 1024 * i + row + e.rowsDone, (if e.bType = 7 then 36 else 32) - e.rowsDone)
  else
    let left := e.m - e.rowsDone
    let at_ := fun (a r : Nat) => (a / 16, 1024 * (a % 16) + r + e.rowsDone, left)
    ([0, 1, 2, 3].map fun i => at_ (array + i) row) ++ (if e.aType = 7 then [at_ array (row + 512)] else [])

/-- Whether the matrix engine has still to read a row of a range for a hart: a younger word that writes it waits (13 R304). -/
def State.matrixHolds (s : State) (h : HartKey) (lo n : Nat) : Bool :=
  (s.core (coreOfHart h)).queue.any fun e => e.of h (s.hart h) &&
    e.spans.any fun p => decide (p.1 = clusterOfHart h % 8) && decide (p.2.1 < lo + n) && decide (lo < p.2.1 + p.2.2)

/-- The rows of its own cluster that a word of a hart may write: first row and rows. -/
def State.rowsWritten (s : State) (h : HartKey) (i : Instr) (copy : Option VReg) : Option (Nat × Nat) :=
  let t := s.hart h
  let count := fun (n : Reg) => min 16384 (s.rx n).toNat
  let toArrays := fun (a : Reg) => if (s.rx a).toNat / 2 ^ 60 = 10 then some (0, 16384) else none
  match i with
  | .vsta _ a _ _ => toArrays a
  | .vstx _ _ a _ _ => toArrays a
  | .vstadd _ _ a _ _ => toArrays a
  | .vspill _ a _ => toArrays a
  | .fpop a => toArrays a
  | .sbind _ _ _ => some (t.csr.rowbase.toNat, 16384)
  | .swait q =>
    match t.streams[q.toNat]? with
    | some (some b) => some (b.rowbase, (b.record.extractLsb' 64 32).toNat)
    | _ => none
  | i =>
    if (rowUse i).writes.isEmpty && copy.isNone then none
    else (scalarSources i).getLast?.map fun n => (t.csr.rowbase.toNat, count n)

/-- The row count register of an array word. -/
def countReg : Instr → Option Reg
  | i => if (rowUse i).array then (scalarSources i).getLast? else none

/-- Whether a word has array occupancy now (01 R42, 07 R166). -/
def State.arrayWord (s : State) (i : Instr) : Bool :=
  match countReg i with
  | some n => s.rx n != 0
  | none => false

/-- The scalar copy register that a word writes, if it carries one (03 R86). -/
def State.copyScalar (s : State) (i : Instr) : Option Reg := if pfxUse i = .scalarCopy then s.copyReg else none
/-- The copy field that a word writes, if it carries one. -/
def State.copyVec (s : State) (i : Instr) : Option VReg := if pfxUse i = .fieldCopy then s.copyField else none

/-- Whether a DPLOAD of a hart to a slot has not written its result (14 R318). -/
def Hart.loadsSlot (t : Hart) (now slot : Nat) : Bool :=
  t.slotLoads.any fun l => decide (l.slot = slot) && (l.program.isSome || decide (now < l.ready))

/-- The drain program slot that an MMA names. -/
def drainSlotOf : Instr → Option Nat
  | .mma _ _ _ _ p _ _ => some p.toNat
  | _ => none

/-- Whether the running agent's word must wait before it can do anything: a scoreboarded operand (03 R81) or a query
that still writes its destination (06 R146), the arrays (01 R42), memory (10 R233, R234, R240, R245, 11 R263), or the DPLOAD of the slot that
an MMA names (14 R318). -/
def State.waits (s : State) (i : Instr) : Bool :=
  s.sc.board.any (fun w => (scalarSources i).any (fun r => decide (r = w.rd)) ||
    (w.kind == .query && (decide (scalarDest i = some w.rd) || decide (s.copyScalar i = some w.rd)))) ||
  match s.cur with
  | .hart h =>
    let t := s.hart h
    (s.arrayWord i && decide (s.now < (s.cluster (clusterOfHart h)).arraysFree))
      || t.memoryWait i (s.copyVec i) s.now || flagWait i t s.now || (drainSlotOf i).any (t.loadsSlot s.now)
      || match s.rowsWritten h i (s.copyVec i) with
        | some p => s.matrixHolds h p.1 p.2
        | none => false
  | .steward _ => false

/-! ## The frame of a word (03 R79, R84) -/

/-- The word that runs, zero-extended: tval of ILL and PRIV (R79). -/
def State.wordValue (s : State) : Dword := s.ir.setWidth 64

/-- Predicate n of the running agent; p0 is true (01 R17). -/
def Scalar.pred (sc : Scalar) (n : BitVec 3) : Bool := n == 0 || sc.preds.getLsbD n.toNat

/-- Whether the running agent checks the scoreboard (03 R82); a steward has no schk. -/
def State.schk (s : State) : Bool :=
  match s.cur with
  | .hart h => (s.hart h).csr.schk
  | .steward _ => false

/-- The first source with a fixed-latency result pending (R82). -/
def State.stalled (s : State) (i : Instr) : Option Reg :=
  (scalarSources i).find? fun r => s.sc.fixed.any fun w => decide (w.rd = r)

/-- The stream whose block failed its check and whose fault a word of a hart meets: a SWAIT of the stream, or a word that
R234 holds for the block (10 R239). -/
def Hart.lateFault (t : Hart) (i : Instr) (copy : Option VReg) : Option (Fin 8) :=
  (List.finRange 8).find? fun q =>
    match t.streams[q] with
    | some b =>
      b.fault.isSome && (decide (i = .swait (BitVec.ofNat 3 q)) ||
        match b.block with
        | some x => t.heldFor i copy x
        | none => false)
    | none => false

/-- A transfer that starts again from its first row, with the edge that it started with. -/
def Transfer.again (x : Transfer) : Transfer :=
  { x with pos := 0, took := 0, taken := false, values := [], marked := [], got := [], last := 0 }

/-- Raises the fault of a stream's block on the running word; when a word meets it again, the block starts again from its
first row, and a SWAIT of the stream has issued with it (10 R239). -/
def State.meetFault (s : State) (i : Instr) (q : Fin 8) : State :=
  match s.self.streams[q] with
  | none => s
  | some b =>
    let put := fun (b : Binding) => s.modSelf fun t => { t with streams := t.streams.set q (some b) }
    if b.raised then
      let s := put { b with fault := none, raised := false, waived := false, block := b.block.map Transfer.again }
      if i = .swait (BitVec.ofNat 3 q) then s.modSelf fun t => { t with wait := .swait, waitWord := s.ir, waitFrom := s.now } else s
    else
      match b.fault with
      | some f => State.finish (.trap (put { b with raised := true }) f.1 f.2)
      | none => s

/-- A word that is not eligible yet: one that orders accesses itself, or reads a record, no longer waits for failed blocks. -/
def State.idle (s : State) (i : Instr) : State :=
  if s.cur.isHart && (ordersItself i || readsRecord i) && !s.self.failedBlocks.isEmpty then s.modSelf Hart.waive else s

/-- A word that may issue: checks 6 and 7, and its body; a word that is not eligible yet, or
that has issued and waits, is not checked (03 R82, 07 R166). -/
def State.body (s : State) (i : Instr) (f : State → Flow) : State :=
  if s.cur.isHart && decide (s.self.wait ≠ .none) then State.finish (f s)
  else if s.waits i then s.idle i
  else
    match (if s.schk then s.stalled i else none) with
    | some r => State.finish (.trap s causeStall (r.setWidth 64))
    | none =>
      match (if s.cur.isHart then s.self.lateFault i (s.copyVec i) else none) with
      | some q => s.meetFault i q
      | none => State.finish (f s)

/-- The words that the steward runs (17 R355): those of chapter 04, the SUPV words, SRET, and the CQ words. DEDUCED (log 24). -/
def stewardWord : Instr → Bool
  | .pfx _ _ _ _ => true
  | .scall => true
  | .brk => true
  | .tret => true
  | .wfe => true
  | .yield => true
  | .exit => true
  | .snapt => true
  | .lbrk => true
  | .lskip => true
  | .lidx _ _ => true
  | .lcnt _ _ => true
  | .loop _ _ => true
  | .loopi _ _ => true
  | .jal _ _ => true
  | .jalr _ _ _ => true
  | .lih _ _ => true
  | .lish _ _ => true
  | .beq _ _ _ => true
  | .bne _ _ _ => true
  | .blt _ _ _ => true
  | .bge _ _ _ => true
  | .bltu _ _ _ => true
  | .bgeu _ _ _ => true
  | .sb _ _ _ => true
  | .sh _ _ _ => true
  | .sw _ _ _ => true
  | .sd _ _ _ => true
  | .csrr _ _ => true
  | .csrw _ _ _ => true
  | .csrs _ _ _ => true
  | .csrc _ _ _ => true
  | .cqapp _ _ _ => true
  | .cqgo _ => true
  | .cqwait _ _ => true
  | .cqstat _ _ => true
  | .cqdone _ _ _ => true
  | i => privileged i || decide (pfxUse i = .scalarCopy)

/-- A CQ word that names the system chain: bit 4 of its field is reserved in a hart (12 R274, R278). -/
def namesSystemChain : Instr → Bool
  | .cqapp _ c _ => c.getLsbD 4
  | .cqgo c => c.getLsbD 4
  | .cqwait c _ => c.getLsbD 4
  | .cqstat _ c => c.getLsbD 4
  | .cqdone _ c _ => c.getLsbD 4
  | _ => false

/-- A word of the running agent, by R79 and R84: fixed-latency results whose cycle has come are written, then the checks, the
predicate, and the body f. -/
def runWord (i : Instr) (f : State → Flow) (s : State) : State :=
  let s := s.modSc fun sc => sc.commit s.now
  if privileged i && s.cur.isHart then State.finish (.trap s causePriv s.wordValue)
  else if (if s.cur.isHart then namesSystemChain i else !stewardWord i) then State.finish (.trap s causeIll s.wordValue)
  else
    match s.sc.latch with
    | none => s.body i f
    | some p =>
      if pfxIllegal i p then State.finish (.trap s causeIll s.wordValue)
      else if s.sc.pred p.psel == p.pinv then State.finish (.retire s)
      else s.body i f

/-! ## The frame of an array instruction (01 R35 to R42, 05 R127) -/

/-- Cycles that P passes take: at 16, 8 or 4 arrays (01 R39). -/
def passCycles (p lane : Nat) : Nat := p * 2 ^ lane

/-- The arrays of the running hart's cluster are occupied for P passes from now (01 R42), with the table slot that the word reads (06
R160); one engine window may follow them (09 R203). -/
def State.occupy (s : State) (p : Nat) : State :=
  let e := s.now + passCycles p (s.cluster s.myCluster).laneCode
  (s.modCluster s.myCluster fun c => { c with arraysFree := e, reading := (decode s.ir).bind tableSlotOf, window := none }).modSelf fun t => { t with arrayDone := e }

/-- rowbase of the running hart. -/
def State.rowbase (s : State) : Nat := s.self.csr.rowbase.toNat

/-- The frame of an array instruction over n rows: nothing for n = 0 beyond `empty`, then FIELD, then BOUNDS, then `late`, a
BOUNDS of the word's own, then the effect and its passes. -/
def State.array (s : State) (n : Nat) (operands : List (VReg × (FieldDesc → Bool))) (passes : Nat)
    (effect : State → State) (empty : State → State := id) (late : Option Dword := none) : Flow :=
  if n = 0 then .retire (empty s)
  else
    match s.self.checkFields [] operands with
    | some v => .trap s causeField (v.setWidth 64)
    | none =>
      if s.rowbase + n > 16384 then .trap s causeBounds (BitVec.ofNat 64 n)
      else
        match late with
        | some v => .trap s causeBounds v
        | none => .retire ((effect s).occupy passes)

/-- Whether row e is selected by a word with mask bit m (01 R38). -/
def State.tagged (s : State) (m : BitVec 1) (e : Nat) : Bool := m == 0 || s.tag s.me 0 e

/-- Writes a result into the destination field and the copy field of a row of the running hart (03 R86). -/
def State.writeField (s : State) (d : VReg) (e v : Nat) : State :=
  let s' := s.setElem s.me (s.self.field d) e v
  match s.copyField with
  | some c => s'.setElem s.me (s.self.field c) e v
  | none => s'

/-- The rows that a word over n rows visits, ascending. -/
def State.range (s : State) (n : Nat) : List Nat := (List.range n).map fun i => s.rowbase + i

/-- Each selected row receives f of it, read from the state before the word; its flags count where its tgv, after the word,
is 1 (05 R127, R129). f answers the result, its flags, and whether the row's tgv is kept. -/
def State.forRows (s : State) (d : VReg) (m : BitVec 1) (n : Nat) (f : Nat → Nat × Flags × Bool) : State :=
  let rows := (s.range n).filter fun e => s.tagged m e
  let out := rows.map fun e => (e, f e)
  let s' := out.foldl (fun t r => t.writeField d r.1 r.2.1) s
  let lost := out.filter fun r => !r.2.2.2
  let s' := if lost.isEmpty then s' else
    s'.setTgvs s.me s.rowbase n fun e => s.tgv s.me e && !lost.any fun r => decide (r.1 = e)
  s'.raise (out.foldl (fun g r => if s.tgv s.me r.1 && r.2.2.2 then g ||| r.2.2.1 else g) 0)

/-- A row effect without flags. -/
def plainRow (v : Nat) : Nat × Flags × Bool := (v, 0, true)

end Sys2Proof.Machine
end

