-- ==== Sys2Proof/Machine/Crypto.lean ====
section
/-! DEFINITION. The ciphers and digests that the manual names by their standards: AES-256-XTS over the lines of HBM (09 R220), and
SHA-512 with ECDSA P-521 over the boot images (21 R430). PRESUMED (log 9). PRESUMED (log 63). -/

namespace Sys2Proof.Machine

/-! ## AES-256 (FIPS 197), bytes as numbers below 256 -/

/-- The product of two bytes in the field of AES; the first argument counts the bits left. -/
def aesMul : Nat → Nat → Nat → Nat
  | 0, _, _ => 0
  | n + 1, a, b =>
    (if b % 2 = 1 then a else 0) ^^^ aesMul n ((2 * a % 256) ^^^ (if 128 ≤ a then 0x1B else 0)) (b / 2)

/-- A power of a byte. -/
def aesPow (a : Nat) : Nat → Nat
  | 0 => 1
  | n + 1 => aesMul 8 a (aesPow a n)

/-- A byte rotated left. -/
def aesRot (k b : Nat) : Nat := b * 2 ^ k % 256 ||| b / 2 ^ (8 - k)

/-- The substitution of AES: the inverse, then the affine map. -/
def aesSub (a : Nat) : Nat :=
  let b := aesPow a 254
  b ^^^ aesRot 1 b ^^^ aesRot 2 b ^^^ aesRot 3 b ^^^ aesRot 4 b ^^^ 0x63

/-- The inverse of the substitution. -/
def aesUnsub (a : Nat) : Nat := aesPow (aesRot 1 a ^^^ aesRot 3 a ^^^ aesRot 6 a ^^^ 0x05) 254

/-- Two byte lists added bit by bit. -/
def aesXor (a b : List Nat) : List Nat := List.zipWith (· ^^^ ·) a b

/-- The 60 words of the key schedule of a 32-byte key; the first argument counts the words still to be made. -/
def aesExpand : Nat → List (List Nat) → List (List Nat)
  | 0, ws => ws
  | n + 1, ws =>
    let i := ws.length
    let t := ws.getD (i - 1) []
    let t := if i % 8 = 0 then aesXor ((t.drop 1 ++ t.take 1).map aesSub) [aesPow 2 (i / 8 - 1), 0, 0, 0]
      else if i % 8 = 4 then t.map aesSub else t
    aesExpand n (ws ++ [aesXor (ws.getD (i - 8) []) t])

/-- The 15 round keys of a key, 16 bytes each. -/
def aesKeys (key : List Nat) : List (List Nat) :=
  let ws := aesExpand 52 ((List.range 8).map fun i => (key.drop (4 * i)).take 4)
  (List.range 15).map fun r => ((ws.drop (4 * r)).take 4).flatten

/-- A column operation of AES with a row of factors. -/
def aesMix (m : List Nat) (b : List Nat) : List Nat :=
  (List.range 16).map fun i =>
    (List.range 4).foldl (fun a j => a ^^^ aesMul 8 (b.getD (4 * (i / 4) + (i % 4 + j) % 4) 0) (m.getD j 0)) 0

/-- One block enciphered. -/
def aesEncipher (keys : List (List Nat)) (block : List Nat) : List Nat :=
  (List.range 15).foldl (fun b r =>
    if r = 0 then aesXor b (keys.getD 0 [])
    else
      let b := (List.range 16).map fun i => aesSub (b.getD (4 * ((i / 4 + i % 4) % 4) + i % 4) 0)
      aesXor (if r = 14 then b else aesMix [2, 3, 1, 1] b) (keys.getD r [])) block

/-- One block deciphered. -/
def aesDecipher (keys : List (List Nat)) (block : List Nat) : List Nat :=
  (List.range 15).foldl (fun b i =>
    let r := 14 - i
    let b := if r = 14 then b else (List.range 16).map fun i => aesUnsub (b.getD (4 * ((i / 4 + 4 - i % 4) % 4) + i % 4) 0)
    let b := aesXor b (keys.getD r [])
    if r = 14 ∨ r = 0 then b else aesMix [14, 11, 13, 9] b) block

/-! ## XTS (IEEE 1619) over a 128-byte line -/

/-- Number to bytes, least significant first. -/
def lowBytes (n v : Nat) : List Nat := (List.range n).map fun i => v / 256 ^ i % 256

/-- Bytes to number, least significant first. -/
def ofLowBytes : List Nat → Nat
  | [] => 0
  | b :: bs => b + 256 * ofLowBytes bs

/-- The tweak of the next block. -/
def xtsNext (t : Nat) : Nat := (2 * t % 2 ^ 128) ^^^ (if 2 ^ 127 ≤ t then 0x87 else 0)

/-- Every block of a line under a tweak that goes on from block to block. -/
def xtsBlocks (f : List Nat → List Nat) : Nat → Nat → List Nat → List Nat
  | 0, _, _ => []
  | n + 1, t, bs =>
    let k := lowBytes 16 t
    aesXor (f (aesXor (bs.take 16) k)) k ++ xtsBlocks f n (xtsNext t) (bs.drop 16)

/-- A line enciphered, or deciphered, under a 512-bit key: its low half ciphers the data and its high half the tweak, which is the
physical address of the line. PRESUMED (log 9). -/
def xtsLine (encipher : Bool) (key : BitVec 512) (address : Nat) (line : List Byte) : List Byte :=
  let data := aesKeys (lowBytes 32 (key.toNat % 2 ^ 256))
  let tweak := ofLowBytes (aesEncipher (aesKeys (lowBytes 32 (key.toNat / 2 ^ 256))) (lowBytes 16 address))
  (xtsBlocks (if encipher then aesEncipher data else aesDecipher data) 8 tweak (line.map BitVec.toNat)).map (BitVec.ofNat 8)

/-! ## SHA-512 (FIPS 180-4) -/

/-- The largest number of b bits more than r whose k-th power does not exceed n. -/
def rootBits (k n : Nat) : Nat → Nat → Nat
  | 0, r => r
  | b + 1, r => rootBits k n b (if (r + 2 ^ b) ^ k ≤ n then r + 2 ^ b else r)

/-- Whether a number above 1 has no divisor between 2 and itself. -/
def isPrime (n : Nat) : Bool := decide (2 ≤ n) && (List.range n).all fun d => decide (d < 2) || decide (n % d ≠ 0)

/-- The first 80 primes. -/
def shaPrimes : List Nat := ((List.range 410).filter isPrime)

/-- The first 64 bits of the fraction of the k-th root of a prime. -/
def shaFraction (k p : Nat) : BitVec 64 := BitVec.ofNat 64 (rootBits k (p * 2 ^ (64 * k)) 70 0)

/-- The constants of the 80 rounds. -/
def shaConstants : List (BitVec 64) := shaPrimes.map (shaFraction 3)

/-- Big-endian bytes of a number. -/
def highBytes (n v : Nat) : List Byte := ((lowBytes n v).map (BitVec.ofNat 8)).reverse

/-- The number of big-endian bytes. -/
def ofHighBytes (bs : List Byte) : Nat := ofLowBytes (bs.reverse.map BitVec.toNat)

/-- The 80 words of the message schedule; the first argument counts the words still to be made. -/
def shaSchedule : Nat → List (BitVec 64) → List (BitVec 64)
  | 0, w => w
  | n + 1, w =>
    let i := w.length
    let a := w.getD (i - 15) 0
    let b := w.getD (i - 2) 0
    let s0 := a.rotateRight 1 ^^^ a.rotateRight 8 ^^^ a >>> 7
    let s1 := b.rotateRight 19 ^^^ b.rotateRight 61 ^^^ b >>> 6
    shaSchedule n (w ++ [w.getD (i - 16) 0 + s0 + w.getD (i - 7) 0 + s1])

/-- One round on the eight working variables. -/
def shaRound (v : List (BitVec 64)) (kw : BitVec 64 × BitVec 64) : List (BitVec 64) :=
  let g := fun i => v.getD i 0
  let s1 := (g 4).rotateRight 14 ^^^ (g 4).rotateRight 18 ^^^ (g 4).rotateRight 41
  let ch := (g 4 &&& g 5) ^^^ (~~~(g 4) &&& g 6)
  let t1 := g 7 + s1 + ch + kw.1 + kw.2
  let s0 := (g 0).rotateRight 28 ^^^ (g 0).rotateRight 34 ^^^ (g 0).rotateRight 39
  let maj := (g 0 &&& g 1) ^^^ (g 0 &&& g 2) ^^^ (g 1 &&& g 2)
  [t1 + s0 + maj, g 0, g 1, g 2, g 3 + t1, g 4, g 5, g 6]

/-- One 128-byte block. -/
def shaBlock (h : List (BitVec 64)) (block : List Byte) : List (BitVec 64) :=
  let w := shaSchedule 64 ((List.range 16).map fun i => BitVec.ofNat 64 (ofHighBytes ((block.drop (8 * i)).take 8)))
  List.zipWith (· + ·) h ((shaConstants.zip w).foldl shaRound h)

/-- A message with its padding. -/
def shaPad (m : List Byte) : List Byte :=
  m ++ [0x80] ++ List.replicate ((239 - m.length % 128) % 128) 0 ++ highBytes 16 (8 * m.length)

/-- The SHA-512 of a byte string: byte 0 of the digest lowest. -/
def sha512 (m : List Byte) : BitVec 512 :=
  let p := shaPad m
  let h := (List.range (p.length / 128)).foldl (fun h i => shaBlock h ((p.drop (128 * i)).take 128)) ((shaPrimes.take 8).map (shaFraction 2))
  BitVec.ofNat 512 (ofLowBytes ((h.flatMap fun v => highBytes 8 v.toNat).map BitVec.toNat))

/-! ## ECDSA on P-521 (FIPS 186) -/

/-- The prime of the field. -/
def p521 : Nat := 2 ^ 521 - 1
/-- The constant of the curve. -/
def p521b : Nat :=
  0x51953EB9618E1C9A1F929A21A0B68540EEA2DA725B99B315F3B8B489918EF109E156193951EC7E937B1652C0BD3BB1BF073573DF883D2C34F1EF451FD46B503F00
/-- The order of the base point. -/
def p521n : Nat :=
  0x1FFFFFFFFFFFFFFFFFFFFFFFFFFFFFFFFFFFFFFFFFFFFFFFFFFFFFFFFFFFFFFFFFA51868783BF2F966B7FCC0148F709A5D03BB5C9B8899C47AEBB6FB71E91386409
/-- The base point. -/
def p521g : Nat × Nat :=
  (0xC6858E06B70404E9CD9E3ECB662395B4429C648139053FB521F828AF606B4D3DBAA14B5E77EFE75928FE1DC127A2FFA8DE3348B3C1856A429BF97E7E31C2E5BD66,
   0x11839296A789A3BC0045C8A5FB42C7D1BD998F54449579B446817AFBD17273E662C97EE72995EF42640C550B9013FAD0761353C7086A272C24088BE94769FD16650)

/-- A power modulo m; the first argument counts the bits of the exponent. -/
def powMod (m : Nat) : Nat → Nat → Nat → Nat
  | 0, _, _ => 1 % m
  | n + 1, a, e => (if e % 2 = 1 then a else 1) * powMod m n (a * a % m) (e / 2) % m

/-- The inverse modulo a prime. -/
def invMod (m a : Nat) : Nat := powMod m 521 (a % m) (m - 2)

/-- The sum of two points; none is the point at infinity. -/
def pointAdd : Option (Nat × Nat) → Option (Nat × Nat) → Option (Nat × Nat)
  | none, q => q
  | p, none => p
  | some (x1, y1), some (x2, y2) =>
    if x1 = x2 ∧ (y1 + y2) % p521 = 0 then none
    else
      let l := if x1 = x2 then (3 * x1 * x1 + (p521 - 3)) * invMod p521 (2 * y1) % p521
        else (y2 + (p521 - y1)) * invMod p521 (x2 + (p521 - x1)) % p521
      let x := (l * l + 2 * p521 - x1 - x2) % p521
      some (x, (l * (x1 + (p521 - x)) + (p521 - y1)) % p521)

/-- A multiple of a point; the first argument counts the bits of the factor. -/
def pointMul : Nat → Nat → Option (Nat × Nat) → Option (Nat × Nat)
  | 0, _, _ => none
  | n + 1, k, p => pointAdd (if k % 2 = 1 then p else none) (pointMul n (k / 2) (pointAdd p p))

/-- Whether a pair of coordinates is a point of the curve. -/
def onCurve (q : Nat × Nat) : Bool :=
  decide (q.1 < p521) && decide (q.2 < p521) && decide (q.2 * q.2 % p521 = (q.1 * q.1 * q.1 + (p521 - 3) * q.1 + p521b) % p521)

/-- The ECDSA verification of the number z of a digest under a public key. -/
def ecdsaVerify (q : Nat × Nat) (z r t : Nat) : Bool :=
  if r = 0 ∨ p521n ≤ r ∨ t = 0 ∨ p521n ≤ t ∨ !onCurve q then false
  else
    let w := invMod p521n t
    match pointAdd (pointMul 521 (z * w % p521n) (some p521g)) (pointMul 521 (r * w % p521n) (some q)) with
    | none => false
    | some c => decide (c.1 % p521n = r)

/-- The signature of an image: 66 bytes each, most significant first, of the public key's X and Y and of the signature's two
numbers. The key must have the hash that the fuses hold. PRESUMED (log 63). -/
def verifyP521 (digest : BitVec 512) (signature : List Byte) : Bool :=
  let part := fun i => ofHighBytes ((signature.drop (66 * i)).take 66)
  decide (signature.length = 264) && decide (sha512 (signature.take 132) = Config.rootKeyHash) &&
    ecdsaVerify (part 0, part 1) (ofHighBytes ((lowBytes 64 digest.toNat).map (BitVec.ofNat 8))) (part 2) (part 3)

end Sys2Proof.Machine
end

