-- ==== Sys2Proof/Machine/Memory.lean ====
section
/-! DEFINITION. Memory: the homes of bytes, the L1s and the writes on their way home, key slots and poison; translation;
the typed spaces with their windows; and the accesses of an agent, byte order included. -/

namespace Sys2Proof.Machine

/-! ## Locations (09 R198, R205, R212)

A location numbers a byte: HBM of this device by its physical offset, then W-space and C-space by core, then the HBM of the
peers, then the host by PASID and I/O address. -/

/-- The location of a W-space byte of a core. -/
def wLoc (core off : Nat) : Nat := 2 ^ 44 + 2 ^ 22 * core + off
/-- The location of a C-space byte of a core. -/
def cLoc (core off : Nat) : Nat := 2 ^ 45 + 2 ^ 20 * core + off
/-- The location of a byte of a peer's HBM. DEDUCED (log 27). -/
def peerLoc (dev off : Nat) : Nat := 2 ^ 50 + 2 ^ 43 * dev + off
/-- The location of a byte of the host. DESIGN CHOICE (log 19). -/
def hostLoc (pasid iova : Nat) : Nat := 2 ^ 60 + 2 ^ 51 * pasid + iova
/-- HBM of this device. -/
def isHome (loc : Nat) : Bool := decide (loc < 2 ^ 44)
/-- Host memory or a peer's: no cache of this device keeps it (09 R206). -/
def isOutside (loc : Nat) : Bool := decide (2 ^ 50 ≤ loc)
/-- The destination function of an outside location: a peer's device number, or 8 for the host. DEDUCED (log 27). -/
def functionOf (loc : Nat) : Nat := if 2 ^ 60 ≤ loc then 8 else (loc - 2 ^ 50) / 2 ^ 43

/-- What a byte reads as that nothing has written: zero on the device (01 R48, 07 R165), a free byte outside it. DESIGN CHOICE
(log 8). DEDUCED (log 15). -/
def resetByte (loc : Nat) : Byte := if loc < 2 ^ 50 then 0 else Config.hostByte loc

/-- The canonical form of the byte memory. -/
def Memory.wf (m : List Host.Cell) : Bool := sparseWf resetByte m

/-- The byte stored at a location. -/
def State.byte (s : State) (loc : Nat) : Byte := sparseGet resetByte s.mem loc
/-- Stores a byte at a location. -/
def State.setByte (s : State) (loc : Nat) (b : Byte) : State := { s with mem := sparsePut resetByte s.mem loc b }

/-- Stores the bytes of a list that are given, from a location on. -/
def State.setBytes (s : State) (loc : Nat) : List (Option Byte) → State
  | [] => s
  | none :: bs => s.setBytes (loc + 1) bs
  | some b :: bs => (s.setByte loc b).setBytes (loc + 1) bs

/-- The bytes stored from a location on. -/
def State.bytes (s : State) (loc n : Nat) : List Byte := (List.range n).map fun i => s.byte (loc + i)

/-- The unit lines of a byte range. -/
def linesOf (unit loc n : Nat) : List Nat :=
  if n = 0 then [] else (List.range ((loc + n - 1) / unit - loc / unit + 1)).map fun i => loc / unit + i

/-! ## Key slots (09 R220) -/

/-- The key that a key index names; none for plaintext, index 0. -/
def State.keyOf (s : State) (k : Nat) : Option (BitVec 512) := if k = 0 then none else s.keys.get? k

/-- Whether a key index names plaintext or a loaded slot. -/
def State.keyLoaded (s : State) (k : Nat) : Bool := k == 0 || (s.keys.get? k).isSome

/-- The bytes of a line at a physical address, written under one key and read under another; none is plaintext. -/
def crossLine (written read : Option (BitVec 512)) (address : Nat) (line : List Byte) : List Byte :=
  let stored := match written with
    | none => line
    | some k => xtsLine true k address line
  match read with
  | none => stored
  | some k => xtsLine false k address stored

/-- The physical address of a line of this device (09 R212). -/
def State.lineAddress (s : State) (line : Nat) : Nat := s.page.devnum.toNat * 2 ^ 43 + 128 * line

/-- A byte of the home, read under a key. PRESUMED (log 9). -/
def State.plain (s : State) (key loc : Nat) : Byte :=
  if isHome loc then
    match s.lineKeys.get? (loc / 128) with
    | none => s.byte loc
    | some w =>
      if w = s.keyOf key then s.byte loc
      else (crossLine w (s.keyOf key) (s.lineAddress (loc / 128)) (s.bytes (loc / 128 * 128) 128)).getD (loc % 128) 0
  else s.byte loc

/-- A line of HBM is about to be written under a key: its other bytes become what they read as under that key. PRESUMED (log 9).
-/
def State.rekey (s : State) (key line : Nat) : State :=
  let w := s.keyOf key
  let s' := { s with lineKeys := s.lineKeys.put line w }
  match s.lineKeys.get? line with
  | none => s'
  | some v => if v = w then s else s'.setBytes (128 * line) ((List.range 128).map fun i => some (s.plain key (128 * line + i)))

/-- Bytes written at their home under a key. -/
def State.homeSet (s : State) (key loc : Nat) (bs : List (Option Byte)) : State :=
  let s := if isHome loc then (linesOf 128 loc bs.length).foldl (fun s l => s.rekey key l) s else s
  s.setBytes loc bs

/-! ## The L1s and the writes on their way home (11 R253 to R256) -/

/-- The key of an L1 word. -/
def l1Key (core word : Nat) : Nat := 2 ^ 64 * core + word

/-- The bytes of a masked double word. -/
def maskedBytes (data : Dword) (mask : Byte) : List (Option Byte) :=
  (List.range 8).map fun i => if mask.getLsbD i then some (data.extractLsb' (8 * i) 8) else none

/-- The bits of the bytes that a mask names. -/
def spread (m : Byte) : Dword := bitsOfBytes 64 ((List.range 8).map fun i => if m.getLsbD i then (255 : Byte) else 0)

/-- The home revokes a word from every other L1 that owns it (R254); `core` is the writer, none for no hart. -/
def State.revoke (s : State) (core : Option CoreId) (word : Nat) : State :=
  { s with l1 := s.l1.filter fun e => !(decide (e.1 % 2 ^ 64 = word) && e.2.owned && decide (some (e.1 / 2 ^ 64) ≠ core)) }

/-- A core's L1 drops a word. -/
def State.dropWord (s : State) (core word : Nat) : State := { s with l1 := s.l1.erase (l1Key core word) }

/-- A write arrives at its home, or at the host or peer, which acknowledges it. -/
def State.arrive (s : State) (f : FlightWrite) : State :=
  (s.homeSet f.key (8 * f.word) (maskedBytes f.data f.mask)).revoke (some f.core) f.word

/-- Splits writes in flight, oldest first, into those that arrive and those that stay: p names writes that arrive, and an older
write of the same core to the same word arrives before them (11 R254, R256). DEDUCED (log 59). -/
def arriving (p : FlightWrite → Bool) : List FlightWrite → List FlightWrite × List FlightWrite
  | [] => ([], [])
  | f :: fs =>
    let r := arriving p fs
    if p f || r.1.any fun g => decide (g.core = f.core) && decide (g.word = f.word) then (f :: r.1, r.2)
    else (r.1, f :: r.2)

/-- Whether another agent's running command owns a line of a range (11 R265). -/
def State.lineBusy (s : State) (loc n : Nat) (own : Option (CoreId × Nat × BitVec 32)) : Bool :=
  s.lineOwners.any fun o =>
    decide (128 * o.1 < loc + n) && decide (loc < 128 * o.1 + 128) && decide (some o.2 ≠ own)

/-- The writes that p names arrive, but for those to owned lines, which wait for the engine (R265). DEDUCED (log 59). -/
def State.settleWhen (s : State) (p : FlightWrite → Bool) : State :=
  let r := arriving (fun f => p f && !s.lineBusy (8 * f.word) 8 none) s.flight
  r.1.foldl State.arrive { s with flight := r.2 }

/-- Whether a write in flight goes to a word of a byte range. -/
def FlightWrite.meets (loc n : Nat) (f : FlightWrite) : Bool := decide (8 * f.word < loc + n) && decide (loc < 8 * f.word + 8)

/-- A read or write at the home waits for the writes on their way to its words (R254). -/
def State.settle (s : State) (loc n : Nat) : State := s.settleWhen (FlightWrite.meets loc n)

/-! ### The shared caches (09 R205, R207, R208) -/

/-- The half of a shared cache in which a line lives: 2 · die pair, and 1 more for the upper die (R205). -/
def cacheHalf (line : Nat) : Nat := 2 * (line / (96 * 2 ^ 23)) + (line % 2 + line / 512 % 2) % 2

/-- The set of its half that a line lives in: one of the 16,384 that 32 MiB of 16-way sets make (R205). DESIGN CHOICE (log 6). -/
def cacheSetOf (line : Nat) : Nat := Config.cacheSet line % 16384

/-- Whether an entry of an eviction schedule covers the line of a physical address (R207). -/
def entryCovers (line : Nat) (e : BitVec 128) : Bool :=
  let base := (e.extractLsb' 7 39).toNat
  decide (base ≤ line) && decide (line < base + (e.extractLsb' 64 32).toNat)

/-- The rank of the line of a physical address that may be evicted, none for a line that may not (R208). -/
def DiePair.rank (p : DiePair) (line : Nat) : Option Nat :=
  match p.schedule.find? (entryCovers line) with
  | none => some 0
  | some e => if (e.extractLsb' 96 16).toNat < p.stepCount.toNat then some (e.extractLsb' 112 8).toNat else none

/-- The line of a set that leaves it: of those that may be evicted that of lowest rank, of equal ranks that of lowest address; the lines of
the device begin at line `first` (R212). -/
def DiePair.victim (p : DiePair) (first : Nat) (set : List Nat) : Option Nat :=
  (set.foldl (fun (best : Option (Nat × Nat)) l =>
    match p.rank (first + l), best with
    | none, b => b
    | some r, none => some (r, l)
    | some r, some b => if r < b.1 ∨ (r = b.1 ∧ l < b.2) then some (r, l) else some b) none).map Prod.snd

/-- The lines of the shared caches once an access has brought a line into that of its home: into a free way of its set, else in place
of the victim; with no victim the line is not allocated (R208). DESIGN CHOICE (log 6). -/
def State.allocated (s : State) (cache : List Nat) (line : Nat) : List Nat :=
  if cache.contains line then cache
  else
    let half := cache.filter fun l => decide (cacheHalf l = cacheHalf line)
    let set := half.filter fun l => decide (cacheSetOf l = cacheSetOf line)
    if half.length < 16 ∨ set.length < 16 then line :: cache
    else
      match (s.pair (cacheHalf line / 2)).victim (s.page.devnum.toNat * 2 ^ 36) set with
      | none => cache
      | some v => line :: cache.erase v

/-- An access brings a line into the shared cache of its home. -/
def State.allocate (s : State) (line : Nat) : State := { s with cache := s.allocated s.cache line }

/-- The lines of a range that lie in HBM are brought into the shared caches. -/
def State.touch (s : State) (loc n : Nat) : State :=
  { s with cache := if isHome loc then (linesOf 128 loc n).foldl s.allocated s.cache else s.cache }

/-- Bytes read at their home under a key. -/
def State.homeRead (s : State) (key loc n : Nat) : List Byte × State :=
  let s := (s.settle loc n).touch loc n
  ((List.range n).map fun i => s.plain key (loc + i), s)

/-- The index of the first poisoned byte of a range (17 R365). -/
def State.poisonAt (s : State) (loc n : Nat) : Option Nat :=
  if s.poison.isEmpty then none
  else (List.range n).find? fun i => s.poison.contains ((loc + i) / 128)

/-- Whether a list of bytes writes all of a line. -/
def wholeLine (loc : Nat) (bs : List (Option Byte)) (line : Nat) : Bool :=
  decide (loc ≤ 128 * line) && ((bs.drop (128 * line - loc)).take 128).all Option.isSome
    && decide (128 * line + 128 ≤ loc + bs.length)

/-- A write of an engine, a drain, the host or a peer, or the write of a step at the home: it is ordered after the writes on
their way, revokes the owned words, and clears the poison of lines it writes whole (11 R254, 17 R365). -/
def State.homeStore (s : State) (key loc : Nat) (bs : List (Option Byte)) : State :=
  let s := ((s.settle loc bs.length).touch loc bs.length).homeSet key loc bs
  let s := (linesOf 8 loc bs.length).foldl (fun s w => s.revoke none w) s
  { s with poison := s.poison.filter fun l => !wholeLine loc bs l }

/-- The set of an L1 that a line lives in: one of the 256 that 256 KiB of 8-way sets make (09 R204). DESIGN CHOICE (log 6). -/
def l1SetOf (line : Nat) : Nat := Config.l1Set line % 256

/-- A set of an L1 holds 8 lines: where the word just brought in makes it hold more, one of the others that nothing fixes leaves it
(09 R204). DESIGN CHOICE (log 6). DESIGN CHOICE (log 4). -/
def State.l1Room (s : State) (core word : Nat) : State :=
  if s.l1.length ≤ 8 then s
  else
    let new := word / 16
    let lines := ((s.l1.filter fun e => decide (e.1 / 2 ^ 64 = core)).map fun e => e.1 % 2 ^ 64 / 16).dedup
    let set := lines.filter fun l => decide (l ≠ new) && decide (l1SetOf l = l1SetOf new)
    if lines.length ≤ 8 ∨ set.length < 8 then s
    else
      let c := s.choose set.length
      { c.2 with l1 := c.2.l1.filter fun e => !(decide (e.1 / 2 ^ 64 = core) && decide (e.1 % 2 ^ 64 / 16 = set.getD c.1 0)) }

/-- A word read at its home into the L1 of a core: its bytes, whether they come from a poisoned line, which is not kept, and the
state with the L1 filled. -/
def State.fillWord (s : State) (core word key : Nat) : Dword × Bool × State :=
  let r := s.homeRead key (8 * word) 8
  let d : Dword := bitsOfBytes 64 r.1
  let owned := match r.2.l1.get? (l1Key core word) with
    | some w => w.owned
    | none => false
  if (r.2.poisonAt (8 * word) 8).isSome then (d, true, r.2)
  else (d, false, ({ r.2 with l1 := r.2.l1.put (l1Key core word) { data := d, mask := 255, owned := owned } } : State).l1Room core word)

/-- One word as the harts of a core read it. A word that is held but not owned may be stale: either value may be returned (R255,
log 6). -/
def State.readWord (s : State) (core word key : Nat) (m : Byte) : Dword × Bool × State :=
  match s.l1.get? (l1Key core word) with
  | none => s.fillWord core word key
  | some w =>
    if w.mask &&& m ≠ m then s.fillWord core word key
    else if w.owned then (w.data, false, s)
    else
      let r := s.fillWord core word key
      if (r.1 ^^^ w.data) &&& spread m = 0 ∧ ¬ r.2.1 then (w.data, false, s)
      else
        let c := s.choose 2
        if c.1 = 0 then (w.data, false, c.2) else c.2.fillWord core word key

/-- The mask of the bytes of a word that a range covers. -/
def wordMask (word loc n : Nat) : Byte :=
  BitVec.ofNat 8 (bitsOf (fun j => decide (loc ≤ 8 * word + j) && decide (8 * word + j < loc + n)) 8)

/-- Bytes as the harts of a core read them, and the index of the first poisoned one. -/
def State.hartRead (s : State) (core key loc n : Nat) : List Byte × Option Nat × State :=
  let r := (linesOf 8 loc n).foldl
    (fun (a : List Byte × Option Nat × State) w =>
      let q := a.2.2.readWord core w key (wordMask w loc n)
      (a.1 ++ bytesOfBits q.1 8, if q.2.1 then a.2.1.or (some (8 * w - loc)) else a.2.1, q.2.2))
    ([], none, s)
  ((r.1.drop (loc % 8)).take n, r.2.1, r.2.2)

/-- The bytes of a word that a byte list from a location gives. -/
def wordPart (loc : Nat) (bs : List (Option Byte)) (word : Nat) : Dword × Byte :=
  let at_ := fun j => if 8 * word + j < loc then none else (bs[8 * word + j - loc]?).join
  (bitsOfBytes 64 ((List.range 8).map fun j => (at_ j).getD 0), BitVec.ofNat 8 (bitsOf (fun j => (at_ j).isSome) 8))

/-- Cycles from a core to the home of a location and back (09 R204, 11 R272, 21 R422). DESIGN CHOICE (log 5). -/
def homeTime (core loc : Nat) : Nat :=
  if isOutside loc then 275
  else if loc / (96 * 2 ^ 30) = pairOfCore core then 90 else 200

/-- A hart stores bytes: into its core's L1, owned, and on their way to the home; the host and the peers are not cached
(09 R204, R206, 11 R254). -/
def State.hartWrite (s : State) (h : HartKey) (key loc : Nat) (va : Dword) (bs : List (Option Byte)) : State :=
  let core := coreOfHart h
  (linesOf 8 loc bs.length).foldl
    (fun s w =>
      let p := wordPart loc bs w
      if p.2 = 0 then s
      else
        let f := s.flight ++
          [{ hart := h, core := core, word := w, data := p.1, mask := p.2, key := key, va := va + BitVec.ofNat 64 (8 * w - loc) }]
        if isHome loc then
          let old := match s.l1.get? (l1Key core w) with
            | some o => if o.owned then o else {}
            | none => {}
          let k := spread p.2
          (({ s with flight := f,
                     l1 := s.l1.put (l1Key core w)
                       { data := (old.data &&& ~~~k) ||| (p.1 &&& k), mask := old.mask ||| p.2, owned := true } } : State).l1Room core w).modHart h
            fun t => { t with ackAt := max t.ackAt (s.now + homeTime core loc) }
        else
          ({ s with flight := f, l1 := s.l1.erase (l1Key core w) } : State).modHart h fun t =>
            { t with posted := if t.posted.contains (functionOf loc) then t.posted else t.posted ++ [functionOf loc],
                     flushAt := max t.flushAt (s.now + homeTime core loc) })
    s

/-- Flush reads to the functions that `fns` names complete: the stores of harts that `mine` names have arrived there and are acknowledged,
but for those that wait for an engine (11 R265, R270). -/
def State.flushed (s : State) (mine : HartKey → Bool) (fns : Nat → Bool) : State :=
  let meets := fun (f : FlightWrite) => mine f.hart && isOutside (8 * f.word) && fns (functionOf (8 * f.word))
  let s := s.settleWhen meets
  let late := fun (h : HartKey) (p : Nat) => s.flight.any fun (f : FlightWrite) => meets f && f.hart == h && functionOf (8 * f.word) == p
  { s with harts := s.harts.map fun (e : HartKey × Hart) =>
      if mine e.1 then (e.1, { e.2 with posted := e.2.posted.filter fun p => !fns p || late e.1 p }) else e }

/-- Whether an access at the home waits for the owner of a line (R265). -/
def State.blocked (s : State) (loc n : Nat) (own : Option (CoreId × Nat × BitVec 32) := none) : Bool := s.lineBusy loc n own

/-! ## The Causeway and the ports (21 R415, R416, R421, R422) -/

/-- The numbers from a to b. -/
def between (a b : Nat) : List Nat :=
  if a ≤ b then (List.range (b - a + 1)).map fun i => a + i else (List.range (a - b + 1)).map fun i => a - i

/-- The die pairs of the XY route. -/
def routeXY (p q : Nat) : List Nat :=
  (between (p % 4) (q % 4)).map (fun x => 4 * (p / 4) + x) ++ ((between (p / 4) (q / 4)).drop 1).map fun y => 4 * y + q % 4
/-- The die pairs of the YX route. -/
def routeYX (p q : Nat) : List Nat :=
  (between (p / 4) (q / 4)).map (fun y => 4 * y + p % 4) ++ ((between (p % 4) (q % 4)).drop 1).map fun x => 4 * (q / 4) + x

/-- Whether a route crosses the link between p and q. -/
def crosses (p q : Nat) : List Nat → Bool
  | a :: b :: r => (decide (a = p) && decide (b = q)) || (decide (a = q) && decide (b = p)) || crosses p q (b :: r)
  | _ => false

/-- Whether a route crosses no link that is down. -/
def State.routeUp (s : State) (route : List Nat) : Bool := !s.downLinks.any fun l => crosses l.1 l.2 route
/-- Whether two die pairs can reach each other. -/
def State.pairsReach (s : State) (p q : Nat) : Bool := s.routeUp (routeXY p q) || s.routeUp (routeYX p q)

/-- The die pair of a port (R421). -/
def pairOfPort (i : Nat) : Nat := [0, 3, 4, 7, 8, 11, 12, 15].getD i 0

/-- Whether a core can reach the home of a location. -/
def State.reaches (s : State) (core loc : Nat) : Bool :=
  let p := pairOfCore core
  if isHome loc then s.pairsReach p (loc / (96 * 2 ^ 30))
  else if 2 ^ 60 ≤ loc then s.pairsReach p 0
  else if isOutside loc then
    let port := (functionOf loc + 8 - s.page.devnum.toNat) % 8
    s.ports.contains port && s.linkIde.contains port && s.pairsReach p (pairOfPort port)
  else true

/-! ## Translation (09 R212 to R219) -/

/-- The cause of no trap: an access whose walk waits for a line that a running command owns (11 R265). -/
def causeWait : Nat := 0

/-- Why an access is refused: the trap cause and its value; LDPF stands for an invalid translation. -/
structure Miss where
  cause : Nat
  value : Dword
deriving DecidableEq, Repr

/-- The context table entry of a context (18 R371). -/
def State.ctxEntry (s : State) (ctx : Nat) : BitVec 512 := (s.contexts.get? ctx).getD 0
/-- EN of a context (09 R213). -/
def State.ctxEnabled (s : State) (ctx : Nat) : Bool := (s.ctxEntry ctx).getLsbD 0
/-- ROOT of a context. -/
def State.ctxRoot (s : State) (ctx : Nat) : Nat := ((s.ctxEntry ctx).extractLsb' 13 33).toNat * 8192
/-- PASID of a context. -/
def State.ctxPasid (s : State) (ctx : Nat) : Nat := ((s.ctxEntry ctx).extractLsb' 76 20).toNat
/-- VALID of a context. -/
def State.ctxValid (s : State) (ctx : Nat) : Bool := (s.ctxEntry ctx).getLsbD 193
/-- PART of a context. -/
def State.ctxPart (s : State) (ctx : Nat) : Nat := ((s.ctxEntry ctx).extractLsb' 320 4).toNat

/-- The location of a device physical address (R212); none names no memory. DEDUCED (log 27). -/
def State.locOfPa (s : State) (pa : Nat) : Option Nat :=
  let off := pa % 2 ^ 43
  if Config.hbmBytes ≤ off ∨ 2 ^ 46 ≤ pa then none
  else if pa / 2 ^ 43 = s.page.devnum.toNat then some off
  else some (peerLoc (pa / 2 ^ 43) off)

/-- Reads n bytes of a table on this device at their home, as plaintext. The error is a trap cause. DEDUCED (log 23). DEDUCED
(log 27). DESIGN CHOICE (log 60). -/
def State.tableRead (s : State) (core pa n : Nat) : Except Nat Nat × State :=
  match s.locOfPa pa with
  | none => (.error causeLdpf, s)
  | some loc =>
    if !isHome loc then (.error causeLdpf, s)
    else if !s.reaches core loc then (.error causeUce, s)
    else if s.lineBusy loc n none then (.error causeWait, s)
    else
      let r := s.homeRead 0 loc n
      if (r.2.poisonAt loc n).isSome then (.error causeUce, r.2) else (.ok (bitsOfBytes (8 * n) r.1).toNat, r.2)

/-- Bits [hi:lo] of a number. -/
def bitRange (v hi lo : Nat) : Nat := v / 2 ^ lo % 2 ^ (hi + 1 - lo)

/-- A table entry of the upper levels (R215): the address of the next table; one that is not aligned is invalid. DESIGN CHOICE
(log 60). -/
def nextTable (e align : Nat) : Option Nat :=
  let next := bitRange e 45 8 * 256
  if bitRange e 0 0 = 1 ∧ bitRange e 1 1 = 0 ∧ bitRange e 7 2 = 0 ∧ bitRange e 63 46 = 0 ∧ next % align = 0 then some next else none

/-- A 2 MiB block entry of level 2 (R215). -/
def blockEntry (ctx va e : Nat) : Option TlbEntry :=
  if bitRange e 0 0 = 1 ∧ bitRange e 7 6 ≤ 1 ∧ bitRange e 24 20 = 0 ∧ bitRange e 63 50 = 0 then
    some { ctx := ctx, global := bitRange e 5 5 = 1, base := va / 2 ^ 21 * 2 ^ 21, size := 2 ^ 21, frame := bitRange e 49 20,
           spacing := 1, r := bitRange e 2 2 = 1, w := bitRange e 3 3 = 1, x := bitRange e 4 4 = 1, pp := bitRange e 7 6,
           key := bitRange e 19 8 }
  else none

/-- Entry i of a leaf line (R216). -/
def leafField (line i : Nat) : Nat := bitRange line (56 * i + 55) (56 * i)

/-- Whether the summary of a leaf line claims a run, and whether the claim holds (R217). DESIGN CHOICE (log 60). -/
def runClaim (line : Nat) : Bool × Bool :=
  let summary := bitRange line 511 448
  let spacing : Int := (BitVec.ofNat 30 (bitRange summary 30 1)).toInt
  let frame := fun j => bitRange (leafField line j) 48 19
  (summary % 2 == 1,
   bitRange summary 63 31 == 0 && (List.range 8).all fun j =>
      bitRange (leafField line j) 0 0 == 1 && bitRange (leafField line j) 55 49 == 0 &&
      bitRange (leafField line j) 18 0 == bitRange (leafField line 0) 18 0 &&
      decide ((frame j : Int) = frame 0 + j * spacing))

/-- The entry of a leaf line for an address: the page, or the whole run where the claim of its summary holds (R216, R217). -/
def leafEntry (ctx va line : Nat) : Option TlbEntry :=
  let f := leafField line (bitRange va 18 16)
  if bitRange f 0 0 = 0 ∨ bitRange f 6 5 > 1 ∨ bitRange f 55 49 ≠ 0 then none
  else
    let e : TlbEntry :=
      { ctx := ctx, global := bitRange f 4 4 = 1, base := va / 65536 * 65536, size := 65536, frame := bitRange f 48 19,
        spacing := 1, r := bitRange f 1 1 = 1, w := bitRange f 2 2 = 1, x := bitRange f 3 3 = 1, pp := bitRange f 6 5,
        key := bitRange f 18 7 }
    if (runClaim line).1 && (runClaim line).2 then
      some { e with base := va / 524288 * 524288, size := 524288, frame := bitRange (leafField line 0) 48 19,
                    spacing := (BitVec.ofNat 30 (bitRange line 478 449)).toInt }
    else some e

/-- The physical address of an address that a translation covers. -/
def TlbEntry.pa (e : TlbEntry) (va : Nat) : Nat :=
  let f : Int := e.frame + ((va - e.base) / 65536 : Nat) * e.spacing
  (f % 2 ^ 30).toNat * 65536 + va % 65536

/-- Whether a translation permits an access (R216). -/
def TlbEntry.permits (e : TlbEntry) : Access → Bool
  | .load => e.r
  | .store => e.w
  | .update => e.r && e.w
  | .fetch => e.x

/-- The walk of R218 up to its entry, which it does not fill. A summary whose claim fails is counted in the core's translation
status (R217). The error is a trap cause. DESIGN CHOICE (log 60). -/
def State.walk (s : State) (core ctx va : Nat) : Except Nat TlbEntry × State :=
  if !s.ctxEnabled ctx then (.error causeLdpf, s)
  else
    match s.tableRead core (s.ctxRoot ctx + 8 * bitRange va 50 41) 8 with
    | (.error c, s) => (.error c, s)
    | (.ok e0, s) =>
      match nextTable e0 8192 with
      | none => (.error causeLdpf, s)
      | some t1 =>
        match s.tableRead core (t1 + 8 * bitRange va 40 31) 8 with
        | (.error c, s) => (.error c, s)
        | (.ok e1, s) =>
          match nextTable e1 8192 with
          | none => (.error causeLdpf, s)
          | some t2 =>
            match s.tableRead core (t2 + 8 * bitRange va 30 21) 8 with
            | (.error c, s) => (.error c, s)
            | (.ok e2, s) =>
              if bitRange e2 1 1 = 1 then ((blockEntry ctx va e2).elim (.error causeLdpf) .ok, s)
              else
                match nextTable e2 256 with
                | none => (.error causeLdpf, s)
                | some t3 =>
                  match s.tableRead core (t3 + 64 * bitRange va 20 19) 64 with
                  | (.error c, s) => (.error c, s)
                  | (.ok line, s) =>
                    let s := if (runClaim line).1 && !(runClaim line).2 then
                        s.modSteward core fun w => { w with stxs := w.stxs + 1 }
                      else s
                    ((leafEntry ctx va line).elim (.error causeLdpf) .ok, s)

/-- Where a byte lies, and how it is reached. -/
structure Target where
  loc : Nat
  key : Nat := 0
  pp : Nat := 0
  /-- No route leads there (21 R416). -/
  lost : Bool := false
deriving DecidableEq, Repr

/-- Whether two targets are the same, field by field. -/
def Target.same (t u : Target) : Bool := t.loc == u.loc && t.key == u.key && t.pp == u.pp && t.lost == u.lost

/-- What a translation gives for an access: the checks of R218 after the walk. The key slots of a peer are the peer's. DESIGN
CHOICE (log 60). -/
def State.target (s : State) (core : CoreId) (va : Nat) (use : Access) (e : TlbEntry) : Except Nat Target :=
  match s.locOfPa (e.pa va) with
  | none => .error causeLdpf
  | some loc =>
    if isHome loc && !s.keyLoaded e.key then .error causeProt
    else if !e.permits use then .error causeProt
    else .ok { loc := loc, key := e.key, pp := e.pp, lost := !s.reaches core loc }

/-- Whether a cached translation serves an access of a context. -/
def TlbEntry.covers (e : TlbEntry) (ctx va : Nat) : Bool :=
  (e.global || decide (e.ctx = ctx)) && decide (e.base ≤ va) && decide (va < e.base + e.size)

/-- Whether an entry stands in the core TLB of a core, unit 0, or in the micro-TLB of one of its units. -/
def TlbEntry.isAt (e : TlbEntry) (core unit : Nat) : Bool := decide (e.core = core) && decide (e.unit = unit)

/-- The ways of a TLB: 8 in each set of the core TLB, unit 0, and 32 of a micro-TLB, which is one set (R219). -/
def tlbWays (unit : Nat) : Nat := if unit = 0 then 8 else 32

/-- The set of a TLB that an entry lives in: one of the 256 that 2,048 entries in 8-way sets make, for the core TLB (R219). DESIGN
CHOICE (log 6). -/
def TlbEntry.setIn (unit : Nat) (e : TlbEntry) : Nat := if unit = 0 then Config.tlbSet e.base e.size e.ctx % 256 else 0

/-- A translation enters a TLB in place of those that cover the address; one that nothing fixes leaves a set that is full (R219). DESIGN
CHOICE (log 4). -/
def State.enterTlb (s : State) (core unit ctx va : Nat) (e : TlbEntry) : State :=
  let rest := s.tlb.filter fun o => !(o.isAt core unit && o.covers ctx va)
  let new := { e with core := core, unit := unit }
  let held := rest.filter fun o => o.isAt core unit
  if held.length < tlbWays unit then { s with tlb := new :: rest }
  else
    let set := held.filter fun o => decide (o.setIn unit = new.setIn unit)
    if set.length < tlbWays unit then { s with tlb := new :: rest }
    else
      let c := s.choose set.length
      { c.2 with tlb := new :: rest.erase (set.getD c.1 new) }

/-- A translation enters the TLBs of an access: the core TLB and the micro-TLB of the unit that makes it. -/
def State.fillTlbs (s : State) (core unit ctx va : Nat) (e : TlbEntry) : State :=
  let s := s.enterTlb core 0 ctx va e
  if unit = 0 then s else s.enterTlb core unit ctx va e

/-- A fresh translation: the walk, its checks, and the fill of what is valid (R218, R219). -/
def State.translateAfresh (s : State) (core unit ctx va : Nat) (use : Access) : Except Nat Target × State :=
  match s.walk core ctx va with
  | (.error c, s) => (.error c, s)
  | (.ok e, s) =>
    match s.target core va use e with
    | .error c => (.error c, s)
    | .ok t => (.ok t, s.fillTlbs core unit ctx va e)

/-- Whether two translations end alike. -/
def sameTarget : Except Nat Target → Except Nat Target → Bool
  | .ok t, .ok u => t.same u
  | .error b, .error c => b == c
  | _, _ => false

/-- The translation of a TLB that serves an access: that of the unit's micro-TLB, then that of the core TLB. -/
def State.cachedEntries (s : State) (core unit ctx va : Nat) : List TlbEntry :=
  let at_ := fun u => (s.tlb.find? fun e => e.isAt core u && e.covers ctx va).toList
  if unit = 0 then at_ 0 else at_ unit ++ at_ 0

/-- The translation of an H-space address by a unit of a core (R212, R218, R219). A cached translation that the tables no longer
give may have left the TLBs or not (log 4). DESIGN CHOICE (log 19). -/
def State.translate (s : State) (core unit ctx : Nat) (va : Dword) (use : Access) : Except Miss Target × State :=
  let a := va.toNat % 2 ^ 52
  let wrap := fun (r : Except Nat Target) => r.mapError fun c => { cause := c, value := va : Miss }
  if 2 ^ 51 ≤ a then
    let loc := hostLoc (s.ctxPasid ctx) (a % 2 ^ 51)
    (.ok { loc := loc, lost := !s.reaches core loc }, s)
  else
    let walk := fun (s : State) => let r := s.translateAfresh core unit ctx a use; (wrap r.1, r.2)
    match s.cachedEntries core unit ctx a with
    | [] => walk s
    | e :: es =>
      let keep := fun (s : State) (e : TlbEntry) =>
        (wrap (s.target core a use e), if e.unit = unit then s else s.enterTlb core unit ctx a e)
      let fresh := (s.translateAfresh core unit ctx a use).1
      if (e :: es).all fun e => sameTarget (s.target core a use e) fresh then keep s e
      else
        let c := s.choose (es.length + 2)
        match (e :: es)[c.1]? with
        | some e => keep c.2 e
        | none => walk c.2

/-- The cycles that the translation of an access adds: 4 where the core TLB alone holds it, 190 for a walk (R219). DESIGN CHOICE
(log 5). -/
def State.tlbTime (s : State) (core unit ctx : Nat) (va : Dword) : Nat :=
  let a := va.toNat % 2 ^ 52
  if 2 ^ 51 ≤ a then 0
  else
    match s.cachedEntries core unit ctx a with
    | [] => 190
    | e :: _ => if e.unit = unit then 0 else 4

/-! ## The spaces and who reaches them (09 R198 to R202) -/

/-- The kinds of agent of R200. -/
inductive Agency where
  | scalar | vector | copy | matrix | drain | context | steward
deriving DecidableEq, Repr

/-- The micro-TLBs of the engines of a core. -/
def Agency.unit : Agency → Nat
  | .copy => 9
  | .matrix => 10
  | .drain => 11
  | .context => 12
  | .steward => 13
  | _ => 0

/-- How an agent sees memory: its core and context, its window of W-space and C-space (base and length of each, none for all
of both), and the columns it may touch (cluster, first column, columns; none for all). -/
structure Reach where
  kind : Agency
  core : CoreId
  ctx : Nat
  window : Option ((Nat × Nat) × (Nat × Nat)) := none
  bands : Option (List (Nat × Nat × Nat)) := none
  /-- Its micro-TLB (09 R219): 1 to 8 the memory units of the clusters, then the engines; 0 none of its own. -/
  unit : Nat := 0
deriving DecidableEq, Repr

/-- The selector of an address (R198). -/
def selector (va : Dword) : Nat := va.toNat / 2 ^ 60
/-- The offset of an address in its space. -/
def offset (va : Dword) : Nat := va.toNat % 2 ^ 60
/-- H-space. -/
def inH (va : Dword) : Bool := selector va == 0
/-- The size of the space that a selector names. -/
def spaceSize : Nat → Option Nat
  | 0 => some (2 ^ 52)
  | 10 => some (2 ^ 23)
  | 11 => some (2 ^ 22)
  | 12 => some (2 ^ 20)
  | _ => none

/-- The table of R200. -/
def Agency.may (k : Agency) (sel : Nat) (use : Access) : Bool :=
  match k, sel, use with
  | .scalar, 0, _ => true
  | .vector, 0, _ => true
  | .vector, 10, _ => true
  | .vector, 11, .load => true
  | .copy, 0, _ => true
  | .copy, 10, _ => true
  | .copy, 11, .store => true
  | .matrix, 10, .load => true
  | .matrix, 11, .load => true
  | .matrix, 12, .update => true
  | .drain, 0, .store => true
  | .drain, 0, .update => true
  | .drain, 10, .store => true
  | .drain, 12, .load => true
  | .drain, 12, .store => true
  | .context, _, _ => true
  | .steward, _, _ => true
  | _, _, _ => false

/-- Whether a byte of A-space lies in a band of columns (R202). -/
def inBand (off : Nat) (b : Nat × Nat × Nat) : Bool :=
  decide (off / 2 ^ 20 = b.1) && decide (b.2.1 ≤ off % 64 * 8) && decide (off % 64 * 8 < b.2.1 + b.2.2)

/-- The checks of an access of n bytes before its translation (R199 to R202, 10 R232). -/
def Reach.check (r : Reach) (use : Access) (va : Dword) (n : Nat) : Option Miss :=
  match spaceSize (selector va) with
  | none => some { cause := causeBounds, value := va }
  | some size =>
    if !r.kind.may (selector va) use then some { cause := causeProt, value := va }
    else if size < offset va + n then some { cause := causeBounds, value := va }
    else
      let outside := match r.window with
        | none => false
        | some w =>
          (selector va == 11 && decide (w.1.2 < offset va + n)) || (selector va == 12 && decide (w.2.2 < offset va + n))
      if outside then some { cause := causeBounds, value := va }
      else if selector va == 10 then
        match r.bands with
        | none => none
        | some bs =>
          ((List.range n).find? fun i => !bs.any (inBand (offset va + i))).map fun i =>
            { cause := causeProt, value := va + BitVec.ofNat 64 i }
      else none

/-- The checks of an access that is taken element by element, each of n bytes (10 R232): those of the first element that fails. -/
def Reach.checkRun (r : Reach) (use : Access) (va : Dword) (n count : Nat) : Option Miss :=
  match r.check use va (n * count) with
  | none => none
  | some m =>
    if (r.check use va n).isSome then r.check use va n
    else ((List.range count).findSome? fun i => r.check use (va + BitVec.ofNat 64 (n * i)) n).or (some m)

/-- The location of a byte of W-space or C-space as an agent sees it. -/
def Reach.typedLoc (r : Reach) (va : Dword) : Nat :=
  let base := r.window.getD ((0, 0), (0, 0))
  if selector va == 11 then wLoc r.core (base.1.1 + offset va) else cLoc r.core (base.2.1 + offset va)

/-- The cluster and row of an A-space offset of a core. -/
def rowOfOffset (core off : Nat) : ClusterKey × Nat := (8 * core + off / 2 ^ 20, off / 64 % 16384)

/-- Reads bytes of A-space. -/
def State.arrayRead (s : State) (core off n : Nat) : List Byte :=
  (List.range n).map fun i =>
    let p := rowOfOffset core (off + i)
    (s.row p.1 p.2).extractLsb' (8 * ((off + i) % 64)) 8

/-- Writes bytes of A-space. -/
def State.arrayWrite (s : State) (core off : Nat) : List (Option Byte) → State
  | [] => s
  | none :: bs => s.arrayWrite core (off + 1) bs
  | some b :: bs =>
    let p := rowOfOffset core off
    (s.setRow p.1 p.2 (setRowBits (s.row p.1 p.2) (8 * (off % 64)) 8 b.toNat)).arrayWrite core (off + 1) bs

/-- A column mask of a band. -/
def bandMask (colbase cols : Nat) : Row := (BitVec.allOnes 512 >>> (512 - cols)) <<< colbase

/-- Rows of A-space without what a cluster's rows hold outside the columns of a mask; a row that is all zeros is not listed. -/
def keepColumns (k : ClusterKey) (keep : Row) (rows : FMap Row) : FMap Row :=
  rows.filterMap fun (e : Nat × Row) =>
    if e.1 / 16384 ≠ k then some e else if e.2 &&& keep = 0 then none else some (e.1, e.2 &&& keep)

/-- The index of the first byte of an A-space range that is poisoned. -/
def State.rowPoisonAt (s : State) (core off n : Nat) : Option Nat :=
  if s.rowPoison.isEmpty then none
  else (List.range n).find? fun i =>
    let p := rowOfOffset core (off + i)
    (s.rowPoison.get? (16384 * p.1 + p.2)).any fun (v : Row) => v.extractLsb' (8 * ((off + i) % 64)) 8 != 0

/-- A write to A-space; a row that it writes whole is poisoned no longer. -/
def State.arrayStore (s : State) (core off : Nat) (bs : List (Option Byte)) : State :=
  let t := s.arrayWrite core off bs
  if s.rowPoison.isEmpty then t
  else { t with rowPoison := s.rowPoison.filter fun (e : Nat × Row) =>
           !((List.range 64).all fun j =>
              let a := (e.1 / 16384 % 8) * 2 ^ 20 + 64 * (e.1 % 16384) + j
              decide (e.1 / 16384 / 8 = core) && decide (off ≤ a) && ((bs[a - off]?).join).isSome) }

/-- A write to W-space or C-space; a 128-byte line that it writes whole is poisoned no longer. -/
def State.typedStore (s : State) (loc : Nat) (bs : List (Option Byte)) : State :=
  let t := s.setBytes loc bs
  if s.poison.isEmpty then t else { t with poison := s.poison.filter fun l => !wholeLine loc bs l }

/-- The parts of a byte range that lie in one 64 KiB page each; the first argument bounds their number. -/
def pageParts : Nat → Dword → Nat → List (Dword × Nat)
  | 0, _, _ => []
  | f + 1, va, n =>
    if n = 0 then []
    else
      let k := min n (65536 - va.toNat % 65536)
      (va, k) :: pageParts f (va + BitVec.ofNat 64 k) (n - k)

/-- The pages of a byte range. -/
def pagesOf (va : Dword) (n : Nat) : List (Dword × Nat) := pageParts (n / 65536 + 2) va n

/-- Translates the parts of a range, in order; with `lax`, a part with an invalid translation gives none. -/
def State.translateParts (s : State) (r : Reach) (use : Access) (lax : Bool) :
    List (Dword × Nat) → Except Miss (List (Option Target × Nat)) × State
  | [] => (.ok [], s)
  | p :: ps =>
    match s.translate r.core r.unit r.ctx p.1 use with
    | (.error m, s) =>
      if lax && m.cause == causeLdpf then
        match s.translateParts r use lax ps with
        | (.ok l, s) => (.ok ((none, p.2) :: l), s)
        | e => e
      else (.error m, s)
    | (.ok t, s) =>
      match s.translateParts r use lax ps with
      | (.ok l, s) => (.ok ((some t, p.2) :: l), s)
      | e => e

/-- What a read returns: the bytes, and the first poisoned one with the poison policy of its page. -/
structure Got where
  bytes : List Byte
  poisoned : Option (Nat × Nat) := none
deriving DecidableEq, Repr

/-- Reads translated parts of H-space, through an L1 or at the homes. -/
def State.readParts (s : State) (l1 : Bool) (core : CoreId) : List (Option Target × Nat) → Got × State
  | [] => ({ bytes := [] }, s)
  | (none, _) :: ps => s.readParts l1 core ps
  | (some t, n) :: ps =>
    let q := if t.lost then (List.replicate n (0 : Byte), some 0, s)
      else if l1 then s.hartRead core t.key t.loc n
      else
        let q := s.homeRead t.key t.loc n
        (q.1, q.2.poisonAt t.loc n, q.2)
    let rest := q.2.2.readParts l1 core ps
    ({ bytes := q.1 ++ rest.1.bytes,
       poisoned := match q.2.1 with
         | some i => some (i, if t.lost then 0 else t.pp)
         | none => rest.1.poisoned.map fun x => (x.1 + n, x.2) },
     rest.2)

/-- A read of n bytes by an agent, after `Reach.check`. A byte that no route leads to counts as poisoned (21 R416). -/
def State.fetchBytes (s : State) (r : Reach) (l1 : Bool) (use : Access) (va : Dword) (n : Nat) : Except Miss Got × State :=
  if inH va then
    match s.translateParts r use false (pagesOf va n) with
    | (.error m, s) => (.error m, s)
    | (.ok l, s) =>
      let q := s.readParts l1 r.core l
      (.ok q.1, q.2)
  else if selector va == 10 then
    (.ok { bytes := s.arrayRead r.core (offset va) n, poisoned := (s.rowPoisonAt r.core (offset va) n).map fun i => (i, 0) }, s)
  else
    let loc := r.typedLoc va
    (.ok { bytes := s.bytes loc n, poisoned := (s.poisonAt loc n).map fun i => (i, 0) }, s)

/-- Writes translated parts of H-space: by a hart through its L1, else at the homes. A store that no route leads to is
dropped, and answered (21 R416). -/
def State.writeParts (s : State) (h : Option HartKey) (va : Dword) : List (Option Target × Nat) → List (Option Byte) → Bool × State
  | [], _ => (false, s)
  | (none, n) :: ps, bs => s.writeParts h (va + BitVec.ofNat 64 n) ps (bs.drop n)
  | (some t, n) :: ps, bs =>
    if t.lost then (true, (s.writeParts h (va + BitVec.ofNat 64 n) ps (bs.drop n)).2)
    else
      let s := match h with
        | some h => s.hartWrite h t.key t.loc va (bs.take n)
        | none => s.homeStore t.key t.loc (bs.take n)
      s.writeParts h (va + BitVec.ofNat 64 n) ps (bs.drop n)

/-- A write by an agent, after `Reach.check`, and whether a byte of it was dropped. -/
def State.storeBytes (s : State) (r : Reach) (h : Option HartKey) (use : Access) (va : Dword) (bs : List (Option Byte)) :
    Except Miss Bool × State :=
  if inH va then
    match s.translateParts r use false (pagesOf va bs.length) with
    | (.error m, s) => (.error m, s)
    | (.ok l, s) =>
      let q := s.writeParts h va l bs
      (.ok q.1, q.2)
  else if selector va == 10 then (.ok false, s.arrayStore r.core (offset va) bs)
  else (.ok false, s.typedStore (r.typedLoc va) bs)

/-! ## Whether an access must wait -/

/-- Whether an access, or its walk, waits for a line or row that a running command owns (11 R265, R268). -/
def State.accessBlocked (s : State) (r : Reach) (use : Access) (va : Dword) (n : Nat)
    (own : Option (CoreId × Nat × BitVec 32) := none) : Bool :=
  if s.lineOwners.isEmpty && s.rowOwners.isEmpty then false
  else if inH va then
    match (s.translateParts r use true (pagesOf va n)).1 with
    | .error m => m.cause == causeWait
    | .ok l => l.any fun t =>
      match t.1 with
      | some q => s.blocked q.loc t.2 own
      | none => false
  else if selector va == 10 then
    s.rowOwners.any fun o =>
      (List.range n).any (fun i =>
        let p := rowOfOffset r.core (offset va + i)
        decide (16384 * p.1 + p.2 = o.1)) && decide (some o.2 ≠ own)
  else s.blocked (r.typedLoc va) n own

end Sys2Proof.Machine
end

