-- ==== Sys2Proof/Machine/Access.lean ====
section
/-! DEFINITION. The accesses of a hart and of the steward: what they wait for, strips and the side log, loads and stores. -/

namespace Sys2Proof.Machine

/-! ## Reach -/

/-- The windows of a team: base and length of W-space and of C-space (09 R201). -/
def State.teamWindow (s : State) (launch team : Nat) : (Nat × Nat) × (Nat × Nat) :=
  match s.launches.get? launch, s.team? launch team with
  | some l, some t => ((t.wBase, 1024 * l.record.wuse), (t.cBase, 1024 * l.record.cuse))
  | _, _ => ((0, 0), (0, 0))

/-- A hart as an agent of R200. -/
def State.hartReach (s : State) (h : HartKey) (k : Agency) : Reach :=
  let t := s.hart h
  { kind := k, core := coreOfHart h, ctx := t.ctx, window := some (s.teamWindow t.launch t.team),
    bands := some [(clusterOfHart h % 8, t.colbase, t.cols)], unit := 1 + clusterOfHart h % 8 }

/-- The steward of a core as an agent of R200; it works for context 0 (18 R371). -/
def stewardReach (core : CoreId) : Reach := { kind := .steward, core := core, ctx := 0, unit := Agency.unit .steward }

/-! ## Windows of array cycles (09 R203) -/

/-- A hart of a cluster claims the arrays (07 R167). -/
def State.claimStands (s : State) (k : ClusterKey) : Bool :=
  s.harts.any fun (e : HartKey × Hart) => decide (clusterOfHart e.1 = k) && e.2.claim.isSome

/-- An engine, drain, VMEM or steward access takes array cycles of a cluster, at most 32: it goes on with the window of the same
user that has just ended, while that is not longer than 32 cycles, or begins a window, which a claim precedes where one has been
granted since the last array instruction of a hart. None where it is not granted now. -/
def State.window (s : State) (k : ClusterKey) (user cycles : Nat) : Option State :=
  let c := s.cluster k
  let grant := fun (n : Nat) => s.modCluster k fun c => { c with arraysFree := s.now + cycles, window := some (user, n) }
  if s.now < c.arraysFree then none
  else
    match c.window with
    | none => some (grant cycles)
    | some w =>
      if w.1 = user ∧ s.now = c.arraysFree ∧ w.2 + cycles ≤ 32 then some (grant (w.2 + cycles))
      else if s.claimStands k then none else some (grant cycles)

/-- Windows of one cycle for each of a list of rows of A-space of a core, numbered from its cluster 0 on, cluster by cluster. -/
def State.windowsFor (s : State) (core user : Nat) (rows : List Nat) : Option State :=
  (rows.map fun r => 8 * core + r / 16384).dedup.foldl
    (fun s k => s.bind fun s => s.window k user (min 32 (rows.filter fun r => decide (8 * core + r / 16384 = k)).length)) (some s)

/-- Windows for the rows of A-space that a range of n bytes reaches; 128 bytes are two rows at most. -/
def State.rowWindows (s : State) (core user off n : Nat) : Option State := s.windowsFor core user (linesOf 64 off n)

/-- The user number of a hart's memory work in windows; the engines have those of their micro-TLBs. -/
def windowUser (h : HartKey) : Nat := 16 + h

/-! ## Strips (10 R249) -/

/-- The address of the granule of a byte. -/
def granuleOf (va : Dword) : Dword := va &&& ~~~63

/-- The bits of a byte that a pair of nibble bits names. -/
def nibbles (m : BitVec 2) : Byte := (if m.getLsbD 0 then 0x0F else 0) ||| (if m.getLsbD 1 then 0xF0 else 0)

/-- The value of a granule at an address, and which bits of the byte it holds. -/
def Granule.byteAt (g : Granule) (va : Dword) : Byte × Byte :=
  let i := va.toNat % 64
  if g.addr = granuleOf va then (g.data.extractLsb' (8 * i) 8, nibbles (g.mask.extractLsb' (2 * i) 2)) else (0, 0)

/-- A byte of memory as the hart's open strip, and the committed strips that drain, overlay it. -/
def Hart.stripByte (t : Hart) (va : Dword) (b : Byte) : Byte :=
  (t.draining ++ t.granules).foldl (fun b g => let p := g.byteAt va; (b &&& ~~~p.2) ||| (p.1 &&& p.2)) b

/-- Puts the nibbles of one byte that a pair of bits names into granules, stored by instruction number `owner`. -/
def putGranule (gs : List Granule) (va : Dword) (b : Byte) (m : BitVec 2) (owner : Nat) : List Granule :=
  let i := va.toNat % 64
  let put := fun (g : Granule) =>
    let k : BitVec 512 := (nibbles m).setWidth 512 <<< (8 * i)
    { g with mask := g.mask ||| (m.setWidth 128 <<< (2 * i)), data := (g.data &&& ~~~k) ||| (b.setWidth 512 <<< (8 * i) &&& k),
             ages := g.ages.setIfInBounds i owner }
  if gs.any fun g => decide (g.addr = granuleOf va) then gs.map fun g => if g.addr = granuleOf va then put g else g
  else gs ++ [put { addr := granuleOf va, mask := 0, data := 0 }]

/-- Puts bytes into granules. -/
def putGranules (gs : List Granule) (va : Dword) (owner : Nat) : List (Option Byte) → List Granule
  | [] => gs
  | none :: bs => putGranules gs (va + 1) owner bs
  | some b :: bs => putGranules (putGranule gs va b 3 owner) (va + 1) owner bs

/-- Takes the bytes that instruction number `owner` has stored to memory out of granules, where they are older than it (10 R227).
DEDUCED (log 22). -/
def clearGranules (gs : List Granule) (va : Dword) (n owner : Nat) : List Granule :=
  gs.map fun g =>
    { g with mask := BitVec.ofNat 128 (bitsOf (fun j =>
        g.mask.getLsbD j && !(decide ((g.addr + BitVec.ofNat 64 (j / 2) - va).toNat < n)
          && decide (g.ages.toList.getD (j / 2) 0 < owner))) 128) }

/-- The number of the SCOMMIT that a draining granule belongs to. -/
def Granule.owner (g : Granule) : Nat := g.ages[0]

/-! ## The side log (17 R357, R358) -/

/-- The line of an address in a side log. -/
def lineOf (va : Dword) : Dword := va &&& ~~~127

/-- Whether an entry holds a byte of a range. -/
def SideEntry.meets (e : SideEntry) (va : Dword) (n : Nat) : Bool :=
  (List.range n).any fun i =>
    let a := va + BitVec.ofNat 64 i
    decide (lineOf a = e.line) && e.mask.extractLsb' (2 * (a.toNat % 128)) 2 != 0

/-- Adds the bytes of one line to a side log: to the newest entry of the same instruction for that line, if its bytes leave room. -/
def sideAdd (log : List SideEntry) (new : SideEntry) : List SideEntry :=
  let same := fun (e : SideEntry) => decide (e.owner = new.owner) && decide (e.line = new.line) && decide (e.kind = new.kind)
  match (log.reverse).findIdx? same with
  | some i =>
    match log.reverse[i]? with
    | some e =>
      if e.mask &&& new.mask = 0 then
        log.set (log.length - 1 - i) { e with mask := e.mask ||| new.mask, data := e.data ||| new.data }
      else log ++ [new]
    | none => log ++ [new]
  | none => log ++ [new]

/-- The bytes of a byte list that lie in the line at offset 128 · k from the line of its address: mask and data. -/
def sidePart (va : Dword) (bs : List (Option Byte)) (k : Nat) : BitVec 256 × BitVec 1024 :=
  let lead := va.toNat % 128
  let at_ := fun j => if 128 * k + j < lead then none else (bs[128 * k + j - lead]?).join
  (BitVec.ofNat 256 (bitsOf (fun j => (at_ (j / 2)).isSome) 256), bitsOfBytes 1024 ((List.range 128).map fun j => (at_ j).getD 0))

/-- Adds bytes to a side log, line by line; `e` gives what the entries have in common. -/
def sideLogBytes (log : List SideEntry) (e : SideEntry) (va : Dword) (bs : List (Option Byte)) : List SideEntry :=
  (List.range ((va.toNat % 128 + bs.length + 127) / 128)).foldl
    (fun log k =>
      let p := sidePart va bs k
      if p.1 = 0 then log else sideAdd log { e with line := lineOf va + BitVec.ofNat 64 (128 * k), mask := p.1, data := p.2 }) log

/-- The pages of a side log. -/
def sidePages (log : List SideEntry) : List Nat := log.map fun e => e.line.toNat / 65536

/-- Replaces a hart's side log; the steward hears of each page that is new to it. -/
def State.setSideLog (s : State) (h : HartKey) (log : List SideEntry) : State :=
  let t := s.hart h
  let fresh := log.filter fun e => !(sidePages t.sideLog).contains (e.line.toNat / 65536)
  let heads := fresh.foldl (fun (a : List SideEntry) e => if (sidePages a).contains (e.line.toNat / 65536) then a else a ++ [e]) []
  heads.foldl (fun s e => s.postEvent (coreOfHart h)
      { kind := 2, master := hartMaster h, ctx := t.ctx, value := e.line, pc := 0, x := BitVec.ofNat 8 causeLdpf })
    (s.setHart h { t with sideLog := log })

/-- Who makes an access of a hart: its instruction number and its stream, 8 for qd. -/
structure Maker where
  owner : Nat
  stream : Nat := 8
deriving DecidableEq, Repr

/-- The maker of a transfer. -/
def Transfer.maker (x : Transfer) : Maker := { owner := x.owner, stream := x.stream }

/-- An entry of a hart's side log, without its line. -/
def State.sideEntry (s : State) (h : HartKey) (kind : SideKind) (o : Maker) : SideEntry :=
  { line := 0, kind := kind, mask := 0, data := 0, ctx := (s.hart h).ctx, owner := o.owner, stream := o.stream }

/-- A faulting store or reduction retires into the hart's side log. -/
def State.logSide (s : State) (h : HartKey) (kind : SideKind) (va : Dword) (bs : List (Option Byte)) (o : Maker) : State :=
  s.setSideLog h (sideLogBytes (s.hart h).sideLog (s.sideEntry h kind o) va bs)

/-- A faulting store of one nibble retires into the hart's side log. DEDUCED (log 55). -/
def State.logNibble (s : State) (h : HartKey) (va : Dword) (b : Byte) (m : BitVec 2) (o : Maker) : State :=
  let i := va.toNat % 128
  s.setSideLog h (sideAdd (s.hart h).sideLog { s.sideEntry h .store o with
    line := lineOf va, mask := m.setWidth 256 <<< (2 * i), data := (b &&& nibbles m).setWidth 1024 <<< (8 * i) })

/-! ## What an access of a hart waits for (10 R227, R234, 11 R263, R265) -/

/-- Whether two byte ranges meet. -/
def rangesMeet (a : Dword) (n : Nat) (b : Dword) (m : Nat) : Bool :=
  decide (a.toNat < b.toNat + m) && decide (b.toNat < a.toNat + n)

/-- Whether an older stream block of the hart that is in flight or has failed, or an older access on qd where the access is on another stream, meets
a byte range (10 R227); an indexed form counts as meeting all. -/
def Hart.blockMeets (t : Hart) (va : Dword) (n : Nat) (o : Maker) : Bool :=
  (((t.blocks ++ t.failedBlocks).filter fun x => x.stream != o.stream) ++ (if o.stream = 8 then [] else t.vmem)).any fun x =>
    decide (x.owner < o.owner) && (x.indexed || rangesMeet x.addr x.length va n)

/-- Whether an access of a hart meets an older entry of its side log. -/
def Hart.logMeets (t : Hart) (va : Dword) (n owner : Nat) : Bool :=
  inH va && t.sideLog.any fun e => e.meets va n && decide (e.owner ≠ owner)

/-- Whether an access of a hart waits: behind an older entry of its side log (11 R263), an older access of another stream, a
draining granule, or an engine's ownership. A store to a page that is still unmapped waits in the side log behind the older entry
(17 R357, R360). DEDUCED (log 55). -/
def State.hartWaits (s : State) (h : HartKey) (r : Reach) (use : Access) (va : Dword) (n : Nat) (o : Maker) : Bool :=
  let t := s.hart h
  (t.logMeets va n (if use = .load then o.owner else 2 ^ 64) &&
    (decide (use = .load) || match (s.translate r.core r.unit r.ctx va use).1 with
      | .ok _ => true
      | .error _ => false)) || t.blockMeets va n o ||
  (decide (use ≠ .load) && t.draining.any fun g => decide (g.owner ≠ o.owner) && rangesMeet g.addr 64 va n) ||
  s.accessBlocked r use va n

/-- The checks of a record or image of n bytes that a word reads on qd: BOUNDS by R199 before PROT by R200 (10 R237). -/
def State.recordMiss (s : State) (va : Dword) (n : Nat) : Option Miss :=
  let w := s.teamWindow s.self.launch s.self.team
  let outside := match spaceSize (selector va) with
    | none => true
    | some size => decide (size < offset va + n) || (selector va == 11 && decide (w.1.2 < offset va + n))
        || (selector va == 12 && decide (w.2.2 < offset va + n))
  if outside then some { cause := causeBounds, value := va }
  else if !inH va then some { cause := causeProt, value := va } else none

/-- How an access ends. -/
inductive Acc (α : Type) where
  | ok (v : α) (s : State)
  | miss (m : Miss) (s : State)
  | wait

/-- A word that makes an access: it goes on with the value, traps, or waits. -/
def Acc.flow {α : Type} (a : Acc α) (s : State) (f : α → State → Flow) : Flow :=
  match a with
  | .ok v s' => f v s'
  | .miss m s' => if m.cause = causeWait then .hold s else .trap s' m.cause m.value
  | .wait => .hold s

/-! ## Loads -/

/-- The hart's strip bytes laid over bytes that it read. -/
def Hart.overlay (t : Hart) (va : Dword) (bs : List Byte) : List Byte :=
  if t.granules.isEmpty && t.draining.isEmpty then bs
  else bs.mapIdx fun i b => t.stripByte (va + BitVec.ofNat 64 i) b

/-- A load of n bytes by a hart; poison is left to the caller. -/
def State.hartLoad (s : State) (h : HartKey) (k : Agency) (va : Dword) (n : Nat) (o : Maker) : Acc Got :=
  let r := s.hartReach h k
  match r.check .load va n with
  | some m => .miss m s
  | none =>
    if s.hartWaits h r .load va n o then .wait
    else
      match s.fetchBytes r true .load va n with
      | (.error m, s) => .miss m s
      | (.ok g, s) => .ok { g with bytes := (s.hart h).overlay va g.bytes } s

/-- A load that consumes what it reads: poison raises UCE (17 R365). -/
def Acc.clean (a : Acc Got) (va : Dword) : Acc (List Byte) :=
  match a with
  | .ok g s =>
    match g.poisoned with
    | some p => .miss { cause := causeUce, value := va + BitVec.ofNat 64 p.1 } s
    | none => .ok g.bytes s
  | .miss m s => .miss m s
  | .wait => .wait

/-- Cycles that a load takes, unloaded (09 R204, R219, R436). DESIGN CHOICE (log 5). -/
def State.loadTime (s : State) (core unit ctx : Nat) (va : Dword) : Nat :=
  if inH va then
    s.tlbTime core unit ctx va +
    match (s.translate core unit ctx va .load).1 with
    | .ok t => if (s.l1.get? (l1Key core (t.loc / 8))).isSome then 14 else homeTime core t.loc
    | .error _ => 0
  else 4

/-- Cycles that a load of the running agent takes. -/
def State.myLoadTime (s : State) (va : Dword) : Nat :=
  s.loadTime s.cur.core (if s.cur.isHart then 1 + s.myCluster % 8 else Agency.unit .steward) s.myCtx va

/-! ## Stores -/

/-- The newest bytes written at a location, on their way or at the home. -/
def State.viewByte (s : State) (key loc : Nat) : Byte :=
  match s.flight.reverse.find? fun f => decide (f.word = loc / 8) && f.mask.getLsbD (loc % 8) with
  | some f => f.data.extractLsb' (8 * (loc % 8)) 8
  | none => s.plain key loc

/-- Notes the instruction words that a hart stores over, which its fetch may still return (01 R49). DESIGN CHOICE (log 7). -/
def State.noteStale (s : State) (h : HartKey) (va : Dword) (n owner : Nat) : State :=
  let t := s.hart h
  if owner < t.fresh then s
  else
    let words := (linesOf 4 (va.toNat % 2 ^ 52) n).map fun w => BitVec.ofNat 64 (4 * w)
    let add := words.filterMap fun a =>
      match (s.translate (coreOfHart h) 0 t.ctx a .fetch).1 with
      | .ok q => some { addr := a, old := bitsOfBytes 32 ((List.range 4).map fun i => s.viewByte q.key (q.loc + i)), owner := owner : StaleWord }
      | .error _ => none
    if add.isEmpty then s
    else
      s.setHart h { t with stale := (t.stale.filter fun e => !add.any fun a => decide (a.addr = e.addr) && decide (a.old = e.old)) ++ add }

/-- A store by a hart to memory, past its strip. A part with an invalid translation retires into the side log as the kind
given (17 R357). -/
def State.hartStoreThrough (s : State) (h : HartKey) (r : Reach) (use : Access) (kind : SideKind) (va : Dword)
    (bs : List (Option Byte)) (o : Maker) : Acc Unit :=
  if inH va then
    match s.translateParts r use true (pagesOf va bs.length) with
    | (.error m, s) => .miss m s
    | (.ok l, s) =>
      let s := s.noteStale h va bs.length o.owner
      let q := s.writeParts (some h) va l bs
      let s := q.2.modHart h fun t =>
        { t with granules := clearGranules t.granules va bs.length o.owner, lost := if q.1 then t.lost.or (some va) else t.lost }
      let held := (l.foldl (fun (a : Nat × List (Option Byte)) p =>
        (a.1 + p.2, a.2 ++ (if p.1.isSome then List.replicate p.2 none else (bs.drop a.1).take p.2))) (0, [])).2
      .ok () (if held.any Option.isSome then s.logSide h kind va held o else s)
  else
    match s.storeBytes r (some h) use va bs with
    | (.error m, s) => .miss m s
    | (.ok _, s) => .ok () s

/-- A store by a hart: its checks, what it waits for, its strip where it has one open and the store is one of those that a strip
holds (10 R249), else memory. DEDUCED (log 22). -/
def State.hartStore (s : State) (h : HartKey) (k : Agency) (strips : Bool) (va : Dword) (bs : List (Option Byte))
    (o : Maker) : Acc Unit :=
  let r := s.hartReach h k
  match r.check .store va bs.length with
  | some m => .miss m s
  | none =>
    if strips && inH va && (s.hart h).strip.isSome then
      if (s.hart h).blockMeets va bs.length o then .wait
      else .ok () (s.modHart h fun t => { t with granules := putGranules t.granules va o.owner bs })
    else if s.hartWaits h r .store va bs.length o then .wait
    else s.hartStoreThrough h r .store .store va bs o

/-- A store by a hart of one nibble of a byte to memory, past its strip, as one change of the byte at its home (10 R229). -/
def State.nibbleThrough (s : State) (h : HartKey) (r : Reach) (va : Dword) (b : Byte) (m : BitVec 2) (o : Maker) : Acc Unit :=
  let k := nibbles m
  if inH va then
    match s.translate r.core r.unit r.ctx va .store with
    | (.error e, s) => if e.cause = causeLdpf then .ok () (s.logNibble h va b m o) else .miss e s
    | (.ok q, s) =>
      if q.lost then .ok () (s.modHart h fun t => { t with lost := t.lost.or (some va) })
      else
        let s := s.noteStale h va 1 o.owner
        let old := s.homeRead q.key q.loc 1
        let s := (old.2.homeStore q.key q.loc [some (((old.1.headD 0) &&& ~~~k) ||| (b &&& k))]).dropWord r.core (q.loc / 8)
        .ok () (s.modHart h fun t => { t with granules := clearGranules t.granules va 1 o.owner })
  else
    let old := (s.arrayRead r.core (offset va) 1).headD 0
    .ok () (s.arrayStore r.core (offset va) [some ((old &&& ~~~k) ||| (b &&& k))])

/-- A store by a hart of one nibble of a byte. -/
def State.hartStoreNibble (s : State) (h : HartKey) (strips : Bool) (va : Dword) (b : Byte) (m : BitVec 2) (o : Maker) :
    Acc Unit :=
  let r := s.hartReach h .vector
  match r.check .store va 1 with
  | some e => .miss e s
  | none =>
    if strips && inH va && (s.hart h).strip.isSome then
      if (s.hart h).blockMeets va 1 o then .wait
      else .ok () (s.modHart h fun t => { t with granules := putGranule t.granules va b m o.owner })
    else if s.hartWaits h r .store va 1 o then .wait
    else s.nibbleThrough h r va b m o

/-! ## Release and acquire (10 R245, 11 R255, R259, R270) -/

/-- A hart's release at a scope (0 h, 1 c, 2 p, 3 d, 4 s) by an instruction number, once the accesses older than it are performed:
from scope p on its stores arrive at their homes and are acknowledged (11 R253, R272); stores to the host and to peers arrive and are
acknowledged by flush reads at every scope (R253, R270). A store that was dropped makes it raise UCE (21 R416). DEDUCED (log 25). -/
def State.release (s : State) (h : HartKey) (scope before : Nat) : Acc Unit :=
  let t := s.hart h
  let mine := fun (f : FlightWrite) => decide (f.hart = h) && (decide (2 ≤ scope) || isOutside (8 * f.word))
  if !t.quiet s.now before || (decide (2 ≤ scope) && decide (s.now < t.ackAt)) then .wait
  else
    let s := s.settleWhen mine
    if s.flight.any mine then .wait
    else
      match t.lost with
      | some va => .miss { cause := causeUce, value := va } (s.modHart h fun t => { t with lost := none })
      | none => if t.posted.isEmpty then .ok () s else .wait

/-- An acquire at a scope: the L1 of the core drops what it does not own, and at scope s what it holds of the host and the
peers. DESIGN CHOICE (log 6). -/
def State.acquire (s : State) (core : CoreId) (scope : Nat) : State :=
  if scope = 0 then s
  else
    { s with l1 := s.l1.filter fun e =>
        !(decide (e.1 / 2 ^ 64 = core) && (!e.2.owned || (scope == 4 && isOutside (8 * (e.1 % 2 ^ 64))))) }

/-- An acquire by a word of an agent (11 R259): for a hart an ordering point that its younger accesses wait for, and which completes
once its older loads, AMOs and folds have returned; a steward's takes effect at once. -/
def State.acquireBy (s : State) (a : Agent) (scope : Nat) : State :=
  match a with
  | .hart h => s.modHart h fun t =>
    { t with orders := t.orders ++
        [{ streams := 511, loads := true, stores := false, release := none, acquire := some scope, ready := s.now, owner := t.serial }] }
  | .steward c => s.acquire c scope

/-! ## The steward's accesses (09 R200, 17 R355, R361) -/

/-- Whether an A-space byte of a core belongs to a hart that an event holds and that is not saved (R361). -/
def State.heldColumns (s : State) (core off : Nat) : Bool :=
  let k := 8 * core + off / 2 ^ 20
  s.harts.any fun e =>
    decide (clusterOfHart e.1 = k) && (e.2.held.isSome || e.2.frozen) && !e.2.saved &&
      inBand off (off / 2 ^ 20, e.2.colbase, e.2.cols)

/-- The window that an A-space access of a steward takes (09 R203). -/
def State.stewardWindow (s : State) (core : CoreId) (va : Dword) (n : Nat) : Option State :=
  if selector va == 10 then s.rowWindows core (Agency.unit .steward) (offset va) n else some s

/-- A load by the steward of a core. -/
def State.stewardLoad (s : State) (core : CoreId) (va : Dword) (n : Nat) : Acc (List Byte) :=
  let r := stewardReach core
  match r.check .load va n with
  | some m => .miss m s
  | none =>
    if selector va == 10 && (List.range n).any (fun i => s.heldColumns core (offset va + i)) then
      .miss { cause := causeProt, value := va } s
    else if s.accessBlocked r .load va n then .wait
    else
      match s.stewardWindow core va n with
      | none => .wait
      | some s =>
        match s.fetchBytes r false .load va n with
        | (.error m, s) => .miss m s
        | (.ok g, s) => (Acc.ok g s).clean va

/-- A store by the steward of a core. -/
def State.stewardStore (s : State) (core : CoreId) (va : Dword) (bs : List (Option Byte)) : Acc Unit :=
  let r := stewardReach core
  match r.check .store va bs.length with
  | some m => .miss m s
  | none =>
    if selector va == 10 && (List.range bs.length).any (fun i => s.heldColumns core (offset va + i)) then
      .miss { cause := causeProt, value := va } s
    else if s.accessBlocked r .store va bs.length then .wait
    else
      match s.stewardWindow core va bs.length with
      | none => .wait
      | some s =>
        match s.storeBytes r none .store va bs with
        | (.error m, s) => .miss m s
        | (.ok _, s) => .ok () s

/-- A load of the running agent on its direct stream. -/
def State.load (s : State) (k : Agency) (va : Dword) (n : Nat) : Acc (List Byte) :=
  match s.cur with
  | .hart h => (s.hartLoad h k va n { owner := (s.hart h).serial }).clean va
  | .steward c => s.stewardLoad c va n

/-- A store of the running agent on its direct stream. -/
def State.store (s : State) (va : Dword) (bs : List Byte) : Acc Unit :=
  match s.cur with
  | .hart h => s.hartStore h .scalar false va (bs.map some) { owner := (s.hart h).serial }
  | .steward c => s.stewardStore c va (bs.map some)

/-- Holds the running hart in a blocking word that has begun. -/
def State.await (s : State) (w : Wait) : Flow :=
  .hold (s.modSelf fun t => { t with wait := w, waitWord := s.ir, waitFrom := if t.wait = .none then s.now else t.waitFrom })

/-! ## Records and images that a word reads (11 R257)

Such an access behaves as its bytes taken one at a time. Where another agent may write them, the word reads some bytes in one cycle and
others in a later one, up to the cycle in which a load of it would have returned. -/

/-- Whether an agent beside the running hart may write memory. DESIGN CHOICE (log 65). -/
def State.raced (s : State) : Bool :=
  s.cur.isHart && (decide (2 ≤ s.harts.length) || !s.incoming.isEmpty || !s.inputs.isEmpty ||
    s.cores.any fun (e : CoreId × CoreState) => e.2.steward.running || !e.2.queue.isEmpty || e.2.chains.toList.any fun c => !c.cmds.isEmpty)

/-- What the running agent's word waits for; a steward's word keeps no wait. -/
def State.myWait (s : State) : Wait :=
  match s.cur with
  | .hart h => (s.hart h).wait
  | .steward _ => .none

/-- The cycle by which the running word has read its record. -/
def State.recordDue (s : State) (va : Dword) : Nat :=
  match s.myWait with
  | .record due _ _ _ => due
  | _ => s.now + s.myLoadTime va

/-- Whether the running word reads all that it has not read of its record in this cycle. DESIGN CHOICE (log 65). -/
def State.readsWhole (s : State) (va : Dword) : Bool := !s.raced || decide (s.recordDue va ≤ s.now)

/-- The first and the second register of a word that reads a record, as read at its issue. -/
def State.firstX (s : State) (a : Reg) : Dword :=
  match s.myWait with
  | .record _ _ x _ => x
  | _ => s.rx a
/-- See `State.firstX`. -/
def State.secondX (s : State) (b : Reg) : Dword :=
  match s.myWait with
  | .record _ _ _ y => y
  | _ => s.rx b

/-- The bytes of its record that the running word has read. -/
def State.recordGot (s : State) : List (Dword × Byte) :=
  match s.myWait with
  | .record _ got _ _ => got
  | _ => []

/-- A load of the running agent's word from its record: a byte that it has read before stands. -/
def State.loadRecord (s : State) (va : Dword) (n : Nat) : Acc (List Byte) :=
  match s.load .scalar va n with
  | .ok bs s =>
    let got := s.recordGot
    .ok (if got.isEmpty then bs else bs.mapIdx fun i b =>
      ((got.find? fun e => e.1 == va + BitVec.ofNat 64 i).map Prod.snd).getD b) s
  | .miss m s => .miss m s
  | .wait => .wait

/-- The same load, whose bytes the word then has read. DESIGN CHOICE (log 65). -/
def State.noteRecord (s : State) (va : Dword) (n : Nat) : Acc (List Byte) :=
  match s.loadRecord va n with
  | .ok bs s =>
    let old := s.recordGot
    let new := (bs.mapIdx fun i b => (va + BitVec.ofNat 64 i, b)).filter fun e => !old.any fun o => o.1 == e.1
    .ok bs (s.modSelf fun t => { t with wait := match t.wait with
      | .record due _ x y => .record due (old ++ new) x y
      | w => w })
  | .miss m s => .miss m s
  | .wait => .wait

/-- A word that reads a record at an address, and may read more, with the registers x and y as it read them: it goes on with
what it has read, or reads only some bytes of it in this cycle. DESIGN CHOICE (log 4). DESIGN CHOICE (log 65). -/
def State.recordFlow {α : Type} (s : State) (va x y : Dword) (read : (State → Dword → Nat → Acc (List Byte)) → State → Acc α)
    (f : α → State → Flow) : Flow :=
  if s.readsWhole va then (read State.loadRecord s).flow s f
  else
    let old := s.recordGot
    let due := s.recordDue va
    (read State.noteRecord (s.modSelf fun t => { t with wait := .record due old x y })).flow s fun v s' =>
      let all := s'.recordGot
      let s' := s'.modSelf fun t => { t with wait := s.self.wait }
      let c := s'.choose (all.length - old.length + 1)
      if c.1 = 0 then f v c.2 else c.2.await (.record due (all.take (old.length + c.1 - 1)) x y)

end Sys2Proof.Machine
end

