-- ==== Sys2Proof/Machine/Direct.lean ====
section
/-! DEFINITION. The scalar accesses of a hart on its direct stream: loads, stores, AMOs and folds (04 R111, 10 R226, R227, R242 to
R244). One is performed when it issues, or waits on qd while the hart goes on (04 R96, 11 R272). -/

namespace Sys2Proof.Machine

/-! ## What a word does (10 R242 to R244) -/

/-- The agency of a scalar access. -/
def directUse (x : Transfer) : Access :=
  match x.kind with
  | .ld => .load
  | .st => .store
  | _ => .update

/-- A load of signed bytes. -/
def signedLoad : Instr → Bool
  | .lb _ _ _ => true
  | .lh _ _ _ => true
  | .lw _ _ _ => true
  | _ => false

/-- Whether the host window takes an atomic (10 R242). -/
def hostAtomic : Instr → Bool
  | .amoadd _ _ _ _ _ => true
  | .amoswap _ _ _ _ _ => true
  | .amocas _ _ _ _ _ => true
  | _ => false

/-- The ordering of an AMO or fold (10 R243, R244): its release and its acquire. -/
def orderingOf : Instr → Bool × Bool
  | .amoadd _ _ _ o _ => (o.getLsbD 1, o.getLsbD 0)
  | .amoand _ _ _ o _ => (o.getLsbD 1, o.getLsbD 0)
  | .amoor _ _ _ o _ => (o.getLsbD 1, o.getLsbD 0)
  | .amoxor _ _ _ o _ => (o.getLsbD 1, o.getLsbD 0)
  | .amoswap _ _ _ o _ => (o.getLsbD 1, o.getLsbD 0)
  | .amocas _ _ _ o _ => (o.getLsbD 1, o.getLsbD 0)
  | .amomin _ _ _ o _ _ => (o.getLsbD 1, o.getLsbD 0)
  | .amomax _ _ _ o _ _ => (o.getLsbD 1, o.getLsbD 0)
  | .amaxfRel _ _ => (true, false)
  | _ => (false, false)

/-- What an AMO makes of the old bytes of its word, given x[xb] and the old x[xd] of that width (10 R242); none writes nothing. -/
def amoNew (i : Instr) (n : Nat) (x y e : BitVec n) : Option (BitVec n) :=
  match i with
  | .amoadd _ _ _ _ _ => some (x + y)
  | .amoand _ _ _ _ _ => some (x &&& y)
  | .amoor _ _ _ _ _ => some (x ||| y)
  | .amoxor _ _ _ _ _ => some (x ^^^ y)
  | .amoswap _ _ _ _ _ => some y
  | .amocas _ _ _ _ _ => if x = e then some y else none
  | .amomin _ _ _ _ _ u => some (if (if u = 1 then x.ult y else x.slt y) then x else y)
  | .amomax _ _ _ _ _ u => some (if (if u = 1 then x.ult y else x.slt y) then y else x)
  | _ => none

/-- An AMO that zero-extends what it returns. -/
def amoUnsigned : Instr → Bool
  | .amomin _ _ _ _ _ u => u == 1
  | .amomax _ _ _ _ _ u => u == 1
  | _ => false

/-- max(word, m) of FP32 values by the MAX of 02 R66; a NaN m leaves the word as it is. DESIGN CHOICE (log 61). -/
def foldMax (word m : Nat) : Nat :=
  let x := fmtF32.decode word
  let y := fmtF32.decode m
  if y.isNan then word else if x.isNan then m else if x.below y then m else word

/-- |x| of an FP32 value. -/
def magnitude (v : Dword) : Nat := v.toNat % 2 ^ 31

/-- A POISON event for a step at the home that finds its word poisoned (17 R365). DEDUCED (log 23). -/
def State.poisonEvent (s : State) (core : CoreId) (master : BitVec 16) (ctx : Nat) (va : Dword) : State :=
  s.postEvent core { kind := 7, master := master, ctx := ctx, value := va, pc := 0, x := BitVec.ofNat 8 causeUce }

/-! ## The checks (09 R199 to R202, R218, 10 R232, R242) -/

/-- The check of a scalar access when it issues: space and range, the host window, and the translation, but for one that waits behind
an entry of the side log (11 R263). A store or fold passes an invalid translation. -/
def State.directMiss (s : State) (h : HartKey) (i : Instr) (x : Transfer) : Option Miss × State :=
  let r := s.hartReach h .scalar
  let n := scalarBytes i
  let use := directUse x
  match r.check use x.addr n with
  | some m => (some m, s)
  | none =>
    if (x.kind = .amo ∨ x.kind = .fold) ∧ 2 ^ 51 ≤ x.addr.toNat ∧ ¬ hostAtomic i then (some { cause := causeProt, value := x.addr }, s)
    else if (s.hart h).logMeets x.addr n (2 ^ 64) then (none, s)
    else
      match s.translate r.core r.unit r.ctx x.addr use with
      | (.error m, s) =>
        if m.cause = causeWait ∨ (m.cause = causeLdpf ∧ (x.kind = .st ∨ x.kind = .fold)) then (none, s) else (some m, s)
      | (.ok _, s) => (none, s)

/-! ## Performing (10 R227, R242 to R244) -/

/-- What an access brings to its destination register: the value and the cycle from which it can be read. -/
abbrev Brought := Dword × Nat

/-- The step of an AMO at the home of its word; the host may answer an AtomicOp with a completion error, which raises UCE (10 R242).
DEDUCED (log 23). DESIGN CHOICE (log 19). -/
def State.performAmo (s : State) (h : HartKey) (i : Instr) (x : Transfer) : Acc Brought :=
  let r := s.hartReach h .scalar
  let n := scalarBytes i
  if (s.hart h).logMeets x.addr n (2 ^ 64) || s.hartWaits h r .update x.addr n x.maker then .wait
  else
    match s.translate r.core r.unit r.ctx x.addr .update with
    | (.error m, s) => if m.cause = causeWait then .wait else .miss m s
    | (.ok t, s) =>
      if t.lost then .miss { cause := causeUce, value := x.addr } s
      else
        match s.poisonAt t.loc n with
        | some k =>
          .miss { cause := causeUce, value := x.addr + BitVec.ofNat 64 k } (s.poisonEvent r.core (hartMaster h) r.ctx x.addr)
        | none =>
          let answer := s.choose (if 2 ^ 51 ≤ x.addr.toNat then 2 else 0)
          let s := answer.2
          if answer.1 = 1 then .miss { cause := causeUce, value := x.addr } s else
          let time := s.now + homeTime r.core t.loc
          let old := s.homeRead t.key t.loc n
          let v : BitVec (8 * n) := bitsOfBytes (8 * n) old.1
          let s := match amoNew i (8 * n) v (x.data.setWidth (8 * n)) (x.old.setWidth (8 * n)) with
            | some new => (old.2.noteStale h x.addr n x.owner).homeStore t.key t.loc ((bytesOfBits new n).map some)
            | none => old.2
          let s := s.dropWord r.core (t.loc / 8)
          let s := s.modHart h fun t => { t with granules := clearGranules t.granules x.addr n x.owner }
          .ok (if amoUnsigned i then v.setWidth 64 else v.signExtend 64, time) s

/-- The step of a fold at the home of its word; with an invalid translation it retires into the side log (17 R357). -/
def State.performFold (s : State) (h : HartKey) (x : Transfer) : Acc Brought :=
  let r := s.hartReach h .scalar
  let m := magnitude x.data
  if s.hartWaits h r .update x.addr 4 x.maker then .wait
  else
    match s.translate r.core r.unit r.ctx x.addr .update with
    | (.error e, s) =>
      if e.cause = causeWait then .wait
      else if e.cause = causeLdpf then
        .ok (0, s.now) (s.logSide h .fold x.addr ((bytesOfBits (BitVec.ofNat 32 m) 4).map some) x.maker)
      else .miss e s
    | (.ok t, s) =>
      if t.lost then .miss { cause := causeUce, value := x.addr } s
      else if (s.poisonAt t.loc 4).isSome then .ok (0, s.now) (s.poisonEvent r.core (hartMaster h) r.ctx x.addr)
      else
        let old := s.homeRead t.key t.loc 4
        let new := foldMax (bitsOfBytes 32 old.1).toNat m
        let s := (old.2.noteStale h x.addr 4 x.owner).homeStore t.key t.loc ((bytesOfBits (BitVec.ofNat 32 new) 4).map some)
        let s := s.dropWord r.core (t.loc / 8)
        .ok (0, s.now) (s.modHart h fun t => { t with granules := clearGranules t.granules x.addr 4 x.owner })

/-- A scalar access is performed. -/
def State.performDirect (s : State) (h : HartKey) (i : Instr) (x : Transfer) : Acc Brought :=
  let n := scalarBytes i
  match x.kind with
  | .ld =>
    let time := s.now + s.loadTime (coreOfHart h) (1 + clusterOfHart h % 8) (s.hart h).ctx x.addr
    match (s.hartLoad h .scalar x.addr n x.maker).clean x.addr with
    | .ok bs s =>
      let v : Dword := bitsOfBytes 64 bs
      .ok (if signedLoad i then BitVec.ofInt 64 (BitVec.ofNat (8 * n) v.toNat).toInt else v, time) s
    | .miss m s => .miss m s
    | .wait => .wait
  | .st =>
    match s.hartStore h .scalar false x.addr ((bytesOfBits x.data n).map some) x.maker with
    | .ok _ s => .ok (0, s.now) s
    | .miss m s => .miss m s
    | .wait => .wait
  | .amo => s.performAmo h i x
  | .fold => s.performFold h x
  | _ => .ok (0, s.now) s

/-- A waiting scalar access of a hart is performed, with its release before it (10 R243, R244). -/
def State.directStep (s : State) (h : HartKey) (i : Instr) (x : Transfer) : Acc Unit :=
  match (if !(orderingOf i).1 then .ok () s
      else if (s.hart h).failedBlocks.any fun b => decide (b.owner < x.owner) then .wait
      else s.release h 3 x.owner) with
  | .miss m s => .miss m s
  | .wait => .wait
  | .ok _ s =>
    match s.performDirect h i x with
    | .ok v s => .ok () (s.modHart h fun t => { t with sc := t.sc.bring x.owner v.1 v.2 })
    | .miss m s => .miss m s
    | .wait => .wait

/-! ## Issue -/

/-- A scalar access waits on qd: its destination register, if it has one, waits for it. -/
def State.waitOnQd (s : State) (x : Transfer) (d : Option Reg) : State :=
  let s := s.modSelf fun t => { t with vmem := t.vmem ++ [x] }
  match d with
  | some d => s.resultAt d 0 0 .memory (some x.owner)
  | none => s

/-- The ordering point of an AMO that acquires (10 R243). -/
def State.amoAcquire (s : State) (i : Instr) : State := if (orderingOf i).2 then s.acquireBy s.cur 3 else s

/-- The issue of a scalar access of the running hart, after its alignment check: it traps at its checks; it is performed at once where
nothing on qd, no ordering point and no release keeps it back and the side log has room (17 R358); else it waits on qd and the hart goes on (R227, 04 R96). -/
def State.issueDirect (s : State) (i : Instr) (x : Transfer) (d : Option Reg) : Flow :=
  match s.directMiss s.me i x with
  | (some m, s) => .trap s m.cause m.value
  | (none, s) =>
    let later := Flow.retire ((s.waitOnQd x d).amoAcquire i)
    if !s.self.vmem.isEmpty || s.self.keptBack x.owner 8 (x.kind == .ld) || (orderingOf i).1 then later
    else
      match s.performDirect s.me i x with
      | .ok v s =>
        if 64 < s.self.sideLog.length then later
        else
          .retire (State.amoAcquire (match d with
            | some d => s.resultAt d v.1 v.2 .memory
            | none => s) i)
      | .miss m s => .trap s m.cause m.value
      | .wait => later

/-- A scalar access of the running hart: its kind, its word, its address and data. -/
def State.direct (s : State) (kind : TransferKind) (i : Instr) (va data old : Dword) (ready : Nat) : Transfer :=
  { kind := kind, addr := va, word := some i, data := data, old := old, owner := s.self.serial, ready := ready }

end Sys2Proof.Machine
end

