-- ==== Sys2Proof/Machine/Field.lean ====
section
/-! DEFINITION. Field definition, tags and arithmetic (chapter 05). -/

namespace Sys2Proof.Machine

/-- The outcome of a step. -/
abbrev Result := Host.Outcome State Fault Refusal

/-! ## VDEF and VUNDEF (R122, R123) -/

/-- Writes a field register of the running hart. -/
def State.setField (s : State) (v : VReg) (d : FieldDesc) : State :=
  s.modSelf fun t => { t with fields := t.fields.set v.toNat d (by have := v.isLt; omega) }

/-- VDEF (R122). -/
def execVdef (v : VReg) (b : BitVec 9) (w : BitVec 7) (t : BitVec 3) (s : State) : Result :=
  .next (runWord (.vdef v b w t) (fun s => .retire (s.setField v { base := b, width := w, type := t })) s)

/-- VUNDEF (R122). -/
def execVundef (v : VReg) (s : State) : Result :=
  .next (runWord (.vundef v) (fun s => .retire (s.setField v {})) s)

/-! ## Tag instructions (R124 to R126): one pass each -/

/-- A tag word: td receives f of every row of the range, which reads the state before the word. -/
def tagWord (d : Tag) (n : Reg) (f : State → Nat → Nat → Bool) (s : State) : Flow :=
  let k := (s.rx n).toNat
  s.array k [] 1 fun s => s.setTags s.me d.toNat s.rowbase k (f s k)

/-- A tag of the running hart. -/
def State.myTag (s : State) (t : Tag) (e : Nat) : Bool := s.tag s.me t.toNat e

/-- The lowest row of a range with a property. -/
def State.firstRow (s : State) (n : Nat) (p : Nat → Bool) : Option Nat := (s.range n).find? p
/-- The highest row of a range with a property. -/
def State.lastRow (s : State) (n : Nat) (p : Nat → Bool) : Option Nat := (s.range n).reverse.find? p

/-- TSET. -/
def execTset (d : Tag) (n : Reg) (s : State) : Result :=
  .next (runWord (.tset d n) (tagWord d n fun _ _ _ => true) s)
/-- TCLR. -/
def execTclr (d : Tag) (n : Reg) (s : State) : Result :=
  .next (runWord (.tclr d n) (tagWord d n fun _ _ _ => false) s)
/-- TNOT. -/
def execTnot (d a : Tag) (n : Reg) (s : State) : Result :=
  .next (runWord (.tnot d a n) (tagWord d n fun s _ e => !s.myTag a e) s)
/-- TAND. -/
def execTand (d a b : Tag) (n : Reg) (s : State) : Result :=
  .next (runWord (.tand d a b n) (tagWord d n fun s _ e => s.myTag a e && s.myTag b e) s)
/-- TOR. -/
def execTor (d a b : Tag) (n : Reg) (s : State) : Result :=
  .next (runWord (.tor d a b n) (tagWord d n fun s _ e => s.myTag a e || s.myTag b e) s)
/-- TXOR. -/
def execTxor (d a b : Tag) (n : Reg) (s : State) : Result :=
  .next (runWord (.txor d a b n) (tagWord d n fun s _ e => s.myTag a e != s.myTag b e) s)
/-- TANDN. -/
def execTandn (d a b : Tag) (n : Reg) (s : State) : Result :=
  .next (runWord (.tandn d a b n) (tagWord d n fun s _ e => s.myTag a e && !s.myTag b e) s)
/-- TMOV. -/
def execTmov (d a : Tag) (n : Reg) (s : State) : Result :=
  .next (runWord (.tmov d a n) (tagWord d n fun s _ e => s.myTag a e) s)
/-- TFIRST. -/
def execTfirst (d a : Tag) (n : Reg) (s : State) : Result :=
  .next (runWord (.tfirst d a n) (tagWord d n fun s k e => s.firstRow k (s.myTag a) == some e) s)
/-- TLAST. -/
def execTlast (d a : Tag) (n : Reg) (s : State) : Result :=
  .next (runWord (.tlast d a n) (tagWord d n fun s k e => s.lastRow k (s.myTag a) == some e) s)
/-- TSHUP. -/
def execTshup (d a : Tag) (n : Reg) (s : State) : Result :=
  .next (runWord (.tshup d a n) (tagWord d n fun s k e => decide (e + 1 < s.rowbase + k) && s.myTag a (e + 1)) s)
/-- TSHDN. -/
def execTshdn (d a : Tag) (n : Reg) (s : State) : Result :=
  .next (runWord (.tshdn d a n) (tagWord d n fun s _ e => decide (s.rowbase < e) && s.myTag a (e - 1)) s)
/-- TVAL. -/
def execTval (d : Tag) (n : Reg) (s : State) : Result :=
  .next (runWord (.tval d n) (tagWord d n fun s _ e => s.tgv s.me e) s)
/-- VALT. -/
def execValt (a : Tag) (n : Reg) (s : State) : Result :=
  .next (runWord (.valt a n) (fun s =>
    let k := (s.rx n).toNat
    s.array k [] 1 fun s => s.setTgvs s.me s.rowbase k (s.myTag a)) s)

/-! ## Operand rules (R128) and costs (R130, R133, R134) -/

/-- Rule I. -/
def ruleI (x : FieldDesc) : Bool := x.isInt
/-- Rule I with a width of at most 32. -/
def ruleI32 (x : FieldDesc) : Bool := x.isInt && decide (x.width.toNat ≤ 32)
/-- Rule IS against the destination. DESIGN CHOICE (log 64). -/
def ruleIS (d x : FieldDesc) : Bool := x.isInt && x.type == d.type
/-- Rule IS with a width of at most 32. -/
def ruleIS32 (d x : FieldDesc) : Bool := ruleIS d x && decide (x.width.toNat ≤ 32)
/-- Rule F against the destination. DESIGN CHOICE (log 64). -/
def ruleF (d x : FieldDesc) : Bool := x.isFloat && x.type == d.type
/-- Rule B against the destination. DESIGN CHOICE (log 64). -/
def ruleB (d x : FieldDesc) : Bool := x.width == d.width
/-- Rule IF: I or F as the class of va selects; an f4b va itself fails. DESIGN CHOICE (log 64). -/
def ruleIF (a d x : FieldDesc) : Bool := if a.isInt then x.isInt else if a.isFloat then ruleF d x else !x.isF4b

/-- The least c with n ≤ 2^c. -/
def ceilLog2 (n : Nat) : Nat := if n ≤ 1 then 0 else Nat.log2 (n - 1) + 1

/-- A column of the float cost table of R134: bf16, f16, f32, e4m3, e5m2. -/
def floatCost (t : FieldDesc) (bf16 f16 f32 e4m3 e5m2 : Nat) : Nat :=
  match t.type.toNat with
  | 2 => bf16
  | 3 => f16
  | 4 => f32
  | 5 => e4m3
  | _ => e5m2

/-- VADD and VSUB. -/
def costAdd (t : FieldDesc) : Nat := floatCost t 420 480 780 200 180
/-- VMUL. -/
def costMul (t : FieldDesc) : Nat := floatCost t 300 640 2400 120 90
/-- VFMA. -/
def costFma (t : FieldDesc) : Nat := floatCost t 760 1180 3300 340 300
/-- VDIV. -/
def costDiv (t : FieldDesc) : Nat := floatCost t 700 1500 5600 260 220
/-- VRCP. -/
def costRcp (t : FieldDesc) : Nat := floatCost t 620 1300 5200 230 200
/-- VRSQ. -/
def costRsq (t : FieldDesc) : Nat := floatCost t 900 1900 7400 300 260
/-- VRND. -/
def costRnd (t : FieldDesc) : Nat := floatCost t 140 160 300 70 70

/-- Width of a field. -/
def FieldDesc.w (d : FieldDesc) : Nat := d.width.toNat
/-- The rounding mode of the running hart. -/
def State.rmode (s : State) : Nat := s.self.csr.rmode.toNat
/-- A field register of the running hart. -/
def State.fieldOf (s : State) (v : VReg) : FieldDesc := s.self.field v
/-- The integer of a field in a row of the running hart. -/
def State.ival (s : State) (d : FieldDesc) (e : Nat) : Int := d.int (s.elem s.me d e)
/-- The number of a float field in a row of the running hart. -/
def State.fval (s : State) (d : FieldDesc) (e : Nat) : Num := d.fmt.decode (s.elem s.me d e)
/-- The raw bits of a field in a row of the running hart. -/
def State.raw (s : State) (d : FieldDesc) (e : Nat) : Nat := s.elem s.me d e

/-- An exact result rounded once into a field's format (02 R63, R65). -/
def rounded (d : FieldDesc) (mode : Nat) (x : Num × Flags) : Nat × Flags × Bool :=
  let r := d.fmt.round mode x.1
  (r.1, x.2 ||| r.2, true)

/-- R52: quotient and remainder of a division of width w. -/
def divide (signed : Bool) (w : Nat) (a b : Int) : Int × Int :=
  if b = 0 then
    (if signed then (if 0 ≤ a then 2 ^ (w - 1) - 1 else -(2 ^ (w - 1) : Int)) else 2 ^ w - 1, a)
  else (a.tdiv b, a.tmod b)

/-- Clamps to a type's range, SAT where the clamp changes the value (R51). -/
def saturate (d : FieldDesc) (i : Int) : Nat × Flags × Bool :=
  let lo := d.range.1
  let hi := d.range.2
  let c := max lo (min hi i)
  (fitInt d.w c, if c = i then 0 else flagSAT, true)

/-! ## The shapes of VARITH and VARX words -/

/-- A two-source word: the class rules of d, a and b, the passes, and the effect on a row. -/
def word2 (d a b : VReg) (n : Reg) (m : BitVec 1) (rd ra rb : FieldDesc → Bool) (passes : Nat)
    (f : State → Nat → Nat × Flags × Bool) (s : State) : Flow :=
  let k := (s.rx n).toNat
  s.array k (s.withCopy d rd [(a, ra), (b, rb)]) passes fun s => s.forRows d m k (f s)

/-- A one-source word. -/
def word1 (d a : VReg) (n : Reg) (m : BitVec 1) (rd ra : FieldDesc → Bool) (passes : Nat)
    (f : State → Nat → Nat × Flags × Bool) (s : State) : Flow :=
  let k := (s.rx n).toNat
  s.array k (s.withCopy d rd [(a, ra)]) passes fun s => s.forRows d m k (f s)

/-- Integer or float by va's class, two field sources. -/
def ifWord2 (d a b : VReg) (n : Reg) (m : BitVec 1) (lim : FieldDesc → Bool) (passI passF : Nat)
    (fi : Int → Int → Int) (ff : Nat → Num → Num → Num × Flags) (s : State) : Flow :=
  let dd := s.fieldOf d
  let da := s.fieldOf a
  let db := s.fieldOf b
  let r := ruleIF da dd
  word2 d a b n m r (fun x => r x && (!da.isInt || lim x)) (fun x => r x && (!da.isInt || lim x))
    (if da.isInt then passI else passF) (fun s e =>
      if da.isInt then plainRow (fitInt dd.w (fi (s.ival da e) (s.ival db e)))
      else rounded dd s.rmode (ff s.rmode (s.fval da e) (s.fval db e))) s

/-- Integer or float by va's class, a field and a scalar source. -/
def ifWordX (d a : VReg) (b n : Reg) (m : BitVec 1) (lim : FieldDesc → Bool) (passI passF : Nat)
    (fi : Int → Int → Int) (ff : Nat → Num → Num → Num × Flags) (s : State) : Flow :=
  let dd := s.fieldOf d
  let da := s.fieldOf a
  let r := ruleIF da dd
  let k := s.rx b
  word1 d a n m r (fun x => r x && (!da.isInt || lim x))
    (if da.isInt then passI else passF) (fun s e =>
      if da.isInt then plainRow (fitInt dd.w (fi (s.ival da e) (da.key k)))
      else rounded dd s.rmode (ff s.rmode (s.fval da e) (da.fmt.decode (k.toNat % 2 ^ da.w)))) s

/-- A bitwise word over two fields of one width. -/
def bitWord2 (d a b : VReg) (n : Reg) (m : BitVec 1) (passes : Nat) (f : State → Nat → Nat → Nat → Nat) (s : State) : Flow :=
  let dd := s.fieldOf d
  let da := s.fieldOf a
  let db := s.fieldOf b
  word2 d a b n m (fun _ => true) (ruleB dd) (ruleB dd) passes
    (fun s e => plainRow (f s e (s.raw da e) (s.raw db e) % 2 ^ dd.w)) s

/-- A bitwise word over a field and a scalar. -/
def bitWordX (d a : VReg) (b n : Reg) (m : BitVec 1) (f : Nat → Nat → Nat) (s : State) : Flow :=
  let dd := s.fieldOf d
  let da := s.fieldOf a
  let k := (s.rx b).toNat % 2 ^ dd.w
  word1 d a n m (fun _ => true) (ruleB dd) (2 * dd.w) (fun s e => plainRow (f (s.raw da e) k % 2 ^ dd.w)) s

/-- The largest of three widths (R130). -/
def widest (a b c : FieldDesc) : Nat := max a.w (max b.w c.w)
/-- No further limit on an integer operand. -/
def anyWidth (_ : FieldDesc) : Bool := true
/-- An integer source of at most 32 bits. -/
def upTo32 (x : FieldDesc) : Bool := decide (x.w ≤ 32)

/-! ## VARITH (R131 to R135) -/

/-- VADD. -/
def execVadd (d a b : VReg) (n : Reg) (m : BitVec 1) (s : State) : Result :=
  .next (runWord (.vadd d a b n m) (fun s =>
    ifWord2 d a b n m anyWidth (4 * widest (s.fieldOf d) (s.fieldOf a) (s.fieldOf b) + 1) (costAdd (s.fieldOf a))
      (fun x y => x + y) (fun r x y => x.add r y) s) s)
/-- VSUB. -/
def execVsub (d a b : VReg) (n : Reg) (m : BitVec 1) (s : State) : Result :=
  .next (runWord (.vsub d a b n m) (fun s =>
    ifWord2 d a b n m anyWidth (4 * widest (s.fieldOf d) (s.fieldOf a) (s.fieldOf b) + 1) (costAdd (s.fieldOf a))
      (fun x y => x - y) (fun r x y => x.sub r y) s) s)
/-- VMUL. -/
def execVmul (d a b : VReg) (n : Reg) (m : BitVec 1) (s : State) : Result :=
  .next (runWord (.vmul d a b n m) (fun s =>
    let wa := (s.fieldOf a).w
    let wb := (s.fieldOf b).w
    ifWord2 d a b n m upTo32 (4 * wa * wb + 2 * (wa + wb)) (costMul (s.fieldOf a))
      (fun x y => x * y) (fun _ x y => x.mul y) s) s)
/-- VMAC. -/
def execVmac (d a b : VReg) (n : Reg) (m : BitVec 1) (s : State) : Result :=
  .next (runWord (.vmac d a b n m) (fun s =>
    let dd := s.fieldOf d
    let da := s.fieldOf a
    let db := s.fieldOf b
    word2 d a b n m ruleI ruleI32 ruleI32 (4 * da.w * db.w + 2 * (da.w + db.w) + 4 * dd.w)
      (fun s e => plainRow (fitInt dd.w (s.ival dd e + s.ival da e * s.ival db e))) s) s)
/-- VDIV. DESIGN CHOICE (log 64). -/
def execVdiv (d a b : VReg) (n : Reg) (m : BitVec 1) (s : State) : Result :=
  .next (runWord (.vdiv d a b n m) (fun s =>
    let dd := s.fieldOf d
    let da := s.fieldOf a
    let db := s.fieldOf b
    if da.isInt then
      word2 d a b n m ruleI (ruleIS32 dd) (ruleIS32 dd) (8 * da.w * db.w + 4 * da.w)
        (fun s e => plainRow (fitInt dd.w (divide dd.signed dd.w (s.ival da e) (s.ival db e)).1)) s
    else
      let r := ruleIF da dd
      word2 d a b n m r r r (costDiv da) (fun s e => rounded dd s.rmode ((s.fval da e).div (s.fval db e))) s) s)
/-- VREM. -/
def execVrem (d a b : VReg) (n : Reg) (m : BitVec 1) (s : State) : Result :=
  .next (runWord (.vrem d a b n m) (fun s =>
    let dd := s.fieldOf d
    let da := s.fieldOf a
    let db := s.fieldOf b
    word2 d a b n m ruleI (ruleIS32 dd) (ruleIS32 dd) (8 * da.w * db.w + 4 * da.w)
      (fun s e => plainRow (fitInt dd.w (divide dd.signed dd.w (s.ival da e) (s.ival db e)).2)) s) s)
/-- VMIN. -/
def execVmin (d a b : VReg) (n : Reg) (m : BitVec 1) (s : State) : Result :=
  .next (runWord (.vmin d a b n m) (fun s =>
    ifWord2 d a b n m anyWidth (6 * widest (s.fieldOf d) (s.fieldOf a) (s.fieldOf b) + 1) (4 * (s.fieldOf a).w + 6)
      (fun x y => min x y) (fun _ x y => (Num.minMax false x y, 0)) s) s)
/-- VMAX. -/
def execVmax (d a b : VReg) (n : Reg) (m : BitVec 1) (s : State) : Result :=
  .next (runWord (.vmax d a b n m) (fun s =>
    ifWord2 d a b n m anyWidth (6 * widest (s.fieldOf d) (s.fieldOf a) (s.fieldOf b) + 1) (4 * (s.fieldOf a).w + 6)
      (fun x y => max x y) (fun _ x y => (Num.minMax true x y, 0)) s) s)

/-- Integer or float by va's class, one field source. -/
def ifWord1 (d a : VReg) (n : Reg) (m : BitVec 1) (passI passF : Nat) (fi : Int → Int) (ff : Num → Num) (s : State) : Flow :=
  let dd := s.fieldOf d
  let da := s.fieldOf a
  let r := ruleIF da dd
  word1 d a n m r r (if da.isInt then passI else passF) (fun s e =>
    if da.isInt then plainRow (fitInt dd.w (fi (s.ival da e)))
    else plainRow (dd.fmt.round 0 (ff (s.fval da e))).1) s

/-- A number with sign 0. -/
def Num.abs : Num → Num
  | .nan => .nan
  | .inf _ => .inf false
  | .fin _ m e => .fin false m e

/-- VABS. -/
def execVabs (d a : VReg) (n : Reg) (m : BitVec 1) (s : State) : Result :=
  .next (runWord (.vabs d a n m) (fun s =>
    ifWord1 d a n m (4 * max (s.fieldOf d).w (s.fieldOf a).w + 2) (2 * (s.fieldOf a).w + 2) (fun x => x.natAbs) Num.abs s) s)
/-- VNEG. -/
def execVneg (d a : VReg) (n : Reg) (m : BitVec 1) (s : State) : Result :=
  .next (runWord (.vneg d a n m) (fun s =>
    ifWord1 d a n m (2 * max (s.fieldOf d).w (s.fieldOf a).w + 1) (2 * (s.fieldOf a).w + 2) (fun x => -x) Num.neg s) s)
/-- VAND. -/
def execVand (d a b : VReg) (n : Reg) (m : BitVec 1) (s : State) : Result :=
  .next (runWord (.vand d a b n m) (fun s => bitWord2 d a b n m (2 * (s.fieldOf d).w) (fun _ _ x y => x &&& y) s) s)
/-- VOR. -/
def execVor (d a b : VReg) (n : Reg) (m : BitVec 1) (s : State) : Result :=
  .next (runWord (.vor d a b n m) (fun s => bitWord2 d a b n m (2 * (s.fieldOf d).w) (fun _ _ x y => x ||| y) s) s)
/-- VXOR. -/
def execVxor (d a b : VReg) (n : Reg) (m : BitVec 1) (s : State) : Result :=
  .next (runWord (.vxor d a b n m) (fun s => bitWord2 d a b n m (2 * (s.fieldOf d).w) (fun _ _ x y => x ^^^ y) s) s)

/-- A bitwise word over one field. -/
def bitWord1 (d a : VReg) (n : Reg) (m : BitVec 1) (f : Nat → Nat) (s : State) : Flow :=
  let dd := s.fieldOf d
  let da := s.fieldOf a
  word1 d a n m (fun _ => true) (ruleB dd) (2 * dd.w) (fun s e => plainRow (f (s.raw da e) % 2 ^ dd.w)) s

/-- The complement of a number below 2^64. -/
def complement64 (x : Nat) : Nat := 2 ^ 64 - 1 - x % 2 ^ 64

/-- VNOT. -/
def execVnot (d a : VReg) (n : Reg) (m : BitVec 1) (s : State) : Result :=
  .next (runWord (.vnot d a n m) (bitWord1 d a n m complement64) s)
/-- VANDN. -/
def execVandn (d a b : VReg) (n : Reg) (m : BitVec 1) (s : State) : Result :=
  .next (runWord (.vandn d a b n m) (fun s =>
    bitWord2 d a b n m (2 * (s.fieldOf d).w) (fun _ _ x y => x &&& complement64 y) s) s)
/-- VMOV. -/
def execVmov (d a : VReg) (n : Reg) (m : BitVec 1) (s : State) : Result :=
  .next (runWord (.vmov d a n m) (bitWord1 d a n m id) s)
/-- VSEL: a where the row's tg1 is 1, else b. -/
def execVsel (d a b : VReg) (n : Reg) (m : BitVec 1) (s : State) : Result :=
  .next (runWord (.vsel d a b n m) (fun s =>
    bitWord2 d a b n m (4 * (s.fieldOf d).w) (fun s e x y => if s.tag s.me 1 e then x else y) s) s)

/-- a shifted left, kept to w bits; 0 from w on. -/
def shiftLeft (w : Nat) (a : Int) (k : Nat) : Nat := if w ≤ k then 0 else fitInt w (a * 2 ^ k)
/-- floor(a / 2^k), kept to w bits; k beyond 64 acts as 64. -/
def shiftRight (w : Nat) (a : Int) (k : Nat) : Nat := fitInt w (Int.fdiv a (2 ^ min k 64))

/-- The shifts by a field: I, with vb of type n. -/
def shiftWord (d a b : VReg) (n : Reg) (m : BitVec 1) (f : Nat → Int → Nat → Nat) (s : State) : Flow :=
  let dd := s.fieldOf d
  let da := s.fieldOf a
  let db := s.fieldOf b
  let w := max da.w dd.w
  word2 d a b n m ruleI ruleI (fun x => x.type == 1) (2 * w * (max 1 (ceilLog2 w) + 1) + db.w)
    (fun s e => plainRow (f dd.w (s.ival da e) (s.raw db e))) s

/-- VSHLV. -/
def execVshlv (d a b : VReg) (n : Reg) (m : BitVec 1) (s : State) : Result :=
  .next (runWord (.vshlv d a b n m) (shiftWord d a b n m shiftLeft) s)
/-- VSHRV. -/
def execVshrv (d a b : VReg) (n : Reg) (m : BitVec 1) (s : State) : Result :=
  .next (runWord (.vshrv d a b n m) (shiftWord d a b n m shiftRight) s)

/-- The saturating words. -/
def satWord (d a b : VReg) (n : Reg) (m : BitVec 1) (f : Int → Int → Int) (s : State) : Flow :=
  let dd := s.fieldOf d
  let da := s.fieldOf a
  let db := s.fieldOf b
  word2 d a b n m ruleI ruleI ruleI (4 * widest dd da db + 3) (fun s e => saturate dd (f (s.ival da e) (s.ival db e))) s

/-- VADDS. -/
def execVadds (d a b : VReg) (n : Reg) (m : BitVec 1) (s : State) : Result :=
  .next (runWord (.vadds d a b n m) (satWord d a b n m fun x y => x + y) s)
/-- VSUBS. -/
def execVsubs (d a b : VReg) (n : Reg) (m : BitVec 1) (s : State) : Result :=
  .next (runWord (.vsubs d a b n m) (satWord d a b n m fun x y => x - y) s)
/-- VMULH. Where vd, va and vb each pass alone and their widths differ, FIELD names the later of the three that differs from vd.
DESIGN CHOICE (log 64). -/
def execVmulh (d a b : VReg) (n : Reg) (m : BitVec 1) (s : State) : Result :=
  .next (runWord (.vmulh d a b n m) (fun s =>
    let dd := s.fieldOf d
    let da := s.fieldOf a
    let db := s.fieldOf b
    let r := fun x => ruleIS32 dd x && x.width == dd.width
    word2 d a b n m (fun x => ruleI32 x) r r (4 * da.w * db.w + 2 * (da.w + db.w))
      (fun s e => plainRow (fitInt dd.w (Int.fdiv (s.ival da e * s.ival db e) (2 ^ dd.w)))) s) s)

/-- Number of leading zero bits of a w-bit pattern. -/
def leadingZeros (w v : Nat) : Nat := if v = 0 then w else w - 1 - Nat.log2 v
/-- Number of one bits among the low w bits. -/
def onesCount (v : Nat) : Nat → Nat
  | 0 => 0
  | w + 1 => onesCount v w + (if v.testBit w then 1 else 0)

/-- VCLZ. -/
def execVclz (d a : VReg) (n : Reg) (m : BitVec 1) (s : State) : Result :=
  .next (runWord (.vclz d a n m) (fun s =>
    let dd := s.fieldOf d
    let da := s.fieldOf a
    word1 d a n m ruleI (fun _ => true) (da.w + 2 * dd.w + 1)
      (fun s e => plainRow (leadingZeros da.w (s.raw da e) % 2 ^ dd.w)) s) s)
/-- VPOPC. -/
def execVpopc (d a : VReg) (n : Reg) (m : BitVec 1) (s : State) : Result :=
  .next (runWord (.vpopc d a n m) (fun s =>
    let dd := s.fieldOf d
    let da := s.fieldOf a
    word1 d a n m ruleI (fun _ => true) (da.w * (2 * dd.w + 1) + 2 * dd.w)
      (fun s e => plainRow (onesCount (s.raw da e) da.w % 2 ^ dd.w)) s) s)
/-- VFMA. -/
def execVfma (d a b : VReg) (n : Reg) (m : BitVec 1) (s : State) : Result :=
  .next (runWord (.vfma d a b n m) (fun s =>
    let dd := s.fieldOf d
    let da := s.fieldOf a
    let db := s.fieldOf b
    word2 d a b n m FieldDesc.isFloat (ruleF dd) (ruleF dd) (costFma dd)
      (fun s e => rounded dd s.rmode (Num.fma s.rmode (s.fval da e) (s.fval db e) (s.fval dd e))) s) s)

/-- A one-source float word. -/
def floatWord1 (d a : VReg) (n : Reg) (m : BitVec 1) (passes : FieldDesc → Nat) (f : Nat → Num → Num × Flags) (s : State) : Flow :=
  let dd := s.fieldOf d
  let da := s.fieldOf a
  word1 d a n m FieldDesc.isFloat (ruleF dd) (passes dd) (fun s e => rounded dd s.rmode (f s.rmode (s.fval da e))) s

/-- A number rounded to an integral value (VRND). -/
def Num.integral (mode : Nat) : Num → Num × Flags
  | .fin neg m e =>
    if m = 0 then (.fin neg 0 0, 0)
    else
      let r := roundInt mode neg m e
      (.fin neg r.1.natAbs 0, if r.2 then flagNX else 0)
  | x => (x, 0)

/-- VRND. -/
def execVrnd (d a : VReg) (n : Reg) (m : BitVec 1) (s : State) : Result :=
  .next (runWord (.vrnd d a n m) (floatWord1 d a n m costRnd Num.integral) s)
/-- VRCP. -/
def execVrcp (d a : VReg) (n : Reg) (m : BitVec 1) (s : State) : Result :=
  .next (runWord (.vrcp d a n m) (floatWord1 d a n m costRcp fun _ x => x.rcp) s)
/-- VRSQ. -/
def execVrsq (d a : VReg) (n : Reg) (m : BitVec 1) (s : State) : Result :=
  .next (runWord (.vrsq d a n m) (floatWord1 d a n m costRsq fun _ x => x.rsq) s)

/-! ### VCVT (R135, 02 R67) -/

/-- A number to an integer type: rounded, clamped with NV, NaN to 0 with NV (02 R67). -/
def numToInt (d : FieldDesc) (mode : Nat) : Num → Nat × Flags
  | .nan => (0, flagNV)
  | .inf neg => (fitInt d.w (if neg then d.range.1 else d.range.2), flagNV)
  | .fin neg m e =>
    -- beyond 2^200 the value is outside every range, and its exact integer is not needed
    let r := if 200 < (Nat.log2 m : Int) + e ∧ m ≠ 0 then ((if neg then -(2 ^ 200 : Int) else 2 ^ 200), false)
      else roundInt mode neg m e
    if r.1 < d.range.1 then (fitInt d.w d.range.1, flagNV)
    else if d.range.2 < r.1 then (fitInt d.w d.range.2, flagNV)
    else (fitInt d.w r.1, if r.2 then flagNX else 0)

/-- A number into a field that is not f4b. -/
def numTo (d : FieldDesc) (mode : Nat) (x : Num) : Nat × Flags × Bool :=
  if d.isInt then let r := numToInt d mode x; (r.1, r.2, true) else rounded d mode (x, 0)

/-- The cost of VCVT by the classes of its operands. -/
def costCvt (a d : FieldDesc) : Nat :=
  let af := !a.isInt
  let df := !d.isInt
  let base := if af then (if df then 6 * (a.w + d.w) else 8 * d.w + 4 * a.w)
    else (if df then 8 * a.w + 4 * d.w else 2 * d.w)
  if a.isF4b || d.isF4b then base + 40 else base

/-- VCVT: conversion by R67; with an f4b operand, vb names the row's scale pair. DESIGN CHOICE (log 64). -/
def execVcvt (d a b : VReg) (n : Reg) (m : BitVec 1) (s : State) : Result :=
  .next (runWord (.vcvt d a b n m) (fun s =>
    let dd := s.fieldOf d
    let da := s.fieldOf a
    let db := s.fieldOf b
    let k := (s.rx n).toNat
    let dOk := fun _ => true
    let aOk := fun (x : FieldDesc) => !(x.isF4b && dd.isF4b)
    if da.isF4b || dd.isF4b then
      word2 d a b n m dOk aOk (fun x => x.type == 1 && x.width == 16) (costCvt da dd) (fun s e =>
        let pair := s.raw db e
        let scale := pair % 256
        let special := pair / 256 % 256
        if da.isF4b then
          let r := numTo dd s.rmode (f4bDecode (s.raw da e) scale special)
          (r.1, r.2.1, decide (scale ≠ 255))
        else
          f4bEncode s.rmode scale special (if da.isInt then Num.ofInt (s.ival da e) else s.fval da e)) s
    else
      -- the one-source form: a vb other than 0 fails as the second source
      let ops := s.withCopy d dOk [(a, aOk)]
      if k ≠ 0 ∧ (s.self.checkFields [] ops).isNone ∧ b ≠ 0 then .trap s causeField (b.setWidth 64)
      else
        s.array k ops (costCvt da dd) fun s => s.forRows d m k fun e =>
          if da.isInt && dd.isInt then plainRow (fitInt dd.w (s.ival da e))
          else if da.isInt then rounded dd s.rmode (Num.ofInt (s.ival da e), 0)
          else if da.type == dd.type then
            (if (s.fval da e).isNan then plainRow dd.fmt.nan else plainRow (s.raw da e))
          else numTo dd s.rmode (s.fval da e)) s)

/-! ## VARX (R136 to R138) -/

/-- Significant bits of a magnitude, at least 1. -/
def sigBits (i : Int) : Nat := if i = 0 then 1 else Nat.log2 i.natAbs + 1

/-- The larger width of destination and source. -/
def State.wX (s : State) (d a : VReg) : Nat := max (s.fieldOf a).w (s.fieldOf d).w

/-- VADDX. -/
def execVaddx (d a : VReg) (b n : Reg) (m : BitVec 1) (s : State) : Result :=
  .next (runWord (.vaddx d a b n m) (fun s =>
    ifWordX d a b n m anyWidth (2 * s.wX d a + 1) (costAdd (s.fieldOf a)) (fun x k => x + k) (fun r x k => x.add r k) s) s)
/-- VSUBX. -/
def execVsubx (d a : VReg) (b n : Reg) (m : BitVec 1) (s : State) : Result :=
  .next (runWord (.vsubx d a b n m) (fun s =>
    ifWordX d a b n m anyWidth (2 * s.wX d a + 1) (costAdd (s.fieldOf a)) (fun x k => x - k) (fun r x k => x.sub r k) s) s)
/-- VMULX. -/
def execVmulx (d a : VReg) (b n : Reg) (m : BitVec 1) (s : State) : Result :=
  .next (runWord (.vmulx d a b n m) (fun s =>
    let da := s.fieldOf a
    ifWordX d a b n m upTo32 (4 * da.w * sigBits (da.key (s.rx b))) (costMul da)
      (fun x k => x * k) (fun _ x k => x.mul k) s) s)
/-- VMACX. -/
def execVmacx (d a : VReg) (b n : Reg) (m : BitVec 1) (s : State) : Result :=
  .next (runWord (.vmacx d a b n m) (fun s =>
    let dd := s.fieldOf d
    let da := s.fieldOf a
    let k := da.key (s.rx b)
    word1 d a n m ruleI ruleI32 (4 * da.w * sigBits k + 4 * dd.w)
      (fun s e => plainRow (fitInt dd.w (s.ival dd e + s.ival da e * k))) s) s)
/-- VMINX. -/
def execVminx (d a : VReg) (b n : Reg) (m : BitVec 1) (s : State) : Result :=
  .next (runWord (.vminx d a b n m) (fun s =>
    ifWordX d a b n m anyWidth (3 * s.wX d a + 2) (4 * (s.fieldOf a).w + 6) (fun x k => min x k)
      (fun _ x k => (Num.minMax false x k, 0)) s) s)
/-- VMAXX. -/
def execVmaxx (d a : VReg) (b n : Reg) (m : BitVec 1) (s : State) : Result :=
  .next (runWord (.vmaxx d a b n m) (fun s =>
    ifWordX d a b n m anyWidth (3 * s.wX d a + 2) (4 * (s.fieldOf a).w + 6) (fun x k => max x k)
      (fun _ x k => (Num.minMax true x k, 0)) s) s)
/-- VANDX. -/
def execVandx (d a : VReg) (b n : Reg) (m : BitVec 1) (s : State) : Result :=
  .next (runWord (.vandx d a b n m) (bitWordX d a b n m fun x k => x &&& k) s)
/-- VORX. -/
def execVorx (d a : VReg) (b n : Reg) (m : BitVec 1) (s : State) : Result :=
  .next (runWord (.vorx d a b n m) (bitWordX d a b n m fun x k => x ||| k) s)
/-- VXORX. -/
def execVxorx (d a : VReg) (b n : Reg) (m : BitVec 1) (s : State) : Result :=
  .next (runWord (.vxorx d a b n m) (bitWordX d a b n m fun x k => x ^^^ k) s)

/-- The shifts by a scalar. -/
def shiftWordX (d a : VReg) (b n : Reg) (m : BitVec 1) (f : Nat → Int → Nat → Nat) (s : State) : Flow :=
  let dd := s.fieldOf d
  let da := s.fieldOf a
  let k := (s.rx b).toNat
  word1 d a n m ruleI ruleI (2 * max da.w dd.w) (fun s e => plainRow (f dd.w (s.ival da e) k)) s

/-- VSHLX. -/
def execVshlx (d a : VReg) (b n : Reg) (m : BitVec 1) (s : State) : Result :=
  .next (runWord (.vshlx d a b n m) (shiftWordX d a b n m shiftLeft) s)
/-- VSHRX. -/
def execVshrx (d a : VReg) (b n : Reg) (m : BitVec 1) (s : State) : Result :=
  .next (runWord (.vshrx d a b n m) (shiftWordX d a b n m shiftRight) s)
/-- VSETX: a raw write of the scalar's low bits. -/
def execVsetx (d : VReg) (b n : Reg) (m : BitVec 1) (s : State) : Result :=
  .next (runWord (.vsetx d b n m) (fun s =>
    let dd := s.fieldOf d
    let k := (s.rx n).toNat
    let v := (s.rx b).toNat % 2 ^ dd.w
    s.array k (s.withCopy d (fun _ => true) []) 1 fun s => s.forRows d m k fun _ => plainRow v) s)
/-- VRSUBX. -/
def execVrsubx (d a : VReg) (b n : Reg) (m : BitVec 1) (s : State) : Result :=
  .next (runWord (.vrsubx d a b n m) (fun s =>
    ifWordX d a b n m anyWidth (2 * s.wX d a + 1) (costAdd (s.fieldOf a)) (fun x k => k - x) (fun r x k => k.sub r x) s) s)

/-- A number times 2^k, exact. -/
def Num.scale (k : Int) : Num → Num
  | .fin neg m e => .fin neg m (e + k)
  | x => x

/-- VSCALX. Beyond ±4096 every exponent gives what ±4096 gives: the largest or the smallest magnitudes of every format lie far
within it. -/
def execVscalx (d a : VReg) (b n : Reg) (m : BitVec 1) (s : State) : Result :=
  .next (runWord (.vscalx d a b n m) (fun s =>
    let k := max (-4096) (min 4096 (s.rx b).toInt)
    floatWord1 d a n m (fun t => 3 * t.w + 8) (fun _ x => (x.scale k, 0)) s) s)

end Sys2Proof.Machine
end

