-- ==== Sys2Proof/Machine/Scalar.lean ====
section
/-! DEFINITION. The scalar instructions of chapter 04: PFX, arithmetic, constants, branches, jumps, loops, loads and stores. -/

namespace Sys2Proof.Machine

/-- The words of an agent that only retire with a register result. -/
def valueWord (i : Instr) (d : Reg) (lat : Nat) (v : State → Dword) (s : State) : Result :=
  .next (runWord i (fun s => .retire (s.result d (v s) lat)) s)

/-- 1 for true, 0 for false. -/
def ofBool (b : Bool) : Dword := if b then 1 else 0

/-! ## PFX (03 R84) -/

/-- PFX. -/
def execPfx (p : BitVec 3) (i c : BitVec 1) (r : Reg) (s : State) : Result :=
  .next (runWord (.pfx p i c r) (fun s =>
    if (s.sc.loops.head?).any fun e => decide (e.last = s.sc.pc) then .trap s causeIll s.wordValue
    else .latched s { psel := p, pinv := i == 1, dce := c == 1, dcr := r }) s)

/-! ## Register arithmetic (R98, R99) -/

/-- Number of leading zero bits (CLZ). -/
def clzOf (a : Dword) : Nat := if a = 0 then 64 else 63 - a.toNat.log2
/-- Number of trailing zero bits (CTZ). -/
def ctzOf (a : Dword) : Nat := ((List.range 64).find? fun i => a.getLsbD i).getD 64
/-- Number of one bits (POPC). -/
def popcOf (a : Dword) : Nat := ((List.range 64).filter fun i => a.getLsbD i).length

/-- ADD. -/
def execAdd (d a b : Reg) (s : State) : Result := valueWord (.add d a b) d 1 (fun s => s.rx a + s.rx b) s
/-- SUB. -/
def execSub (d a b : Reg) (s : State) : Result := valueWord (.sub d a b) d 1 (fun s => s.rx a - s.rx b) s
/-- AND. -/
def execAnd (d a b : Reg) (s : State) : Result := valueWord (.and d a b) d 1 (fun s => s.rx a &&& s.rx b) s
/-- OR. -/
def execOr (d a b : Reg) (s : State) : Result := valueWord (.or d a b) d 1 (fun s => s.rx a ||| s.rx b) s
/-- XOR. -/
def execXor (d a b : Reg) (s : State) : Result := valueWord (.xor d a b) d 1 (fun s => s.rx a ^^^ s.rx b) s
/-- ANDN. -/
def execAndn (d a b : Reg) (s : State) : Result := valueWord (.andn d a b) d 1 (fun s => s.rx a &&& ~~~s.rx b) s
/-- SLL. -/
def execSll (d a b : Reg) (s : State) : Result := valueWord (.sll d a b) d 1 (fun s => (s.rx a) <<< ((s.rx b).toNat % 64)) s
/-- SRL. -/
def execSrl (d a b : Reg) (s : State) : Result := valueWord (.srl d a b) d 1 (fun s => (s.rx a) >>> ((s.rx b).toNat % 64)) s
/-- SRA. -/
def execSra (d a b : Reg) (s : State) : Result := valueWord (.sra d a b) d 1 (fun s => (s.rx a).sshiftRight ((s.rx b).toNat % 64)) s
/-- SLT. -/
def execSlt (d a b : Reg) (s : State) : Result := valueWord (.slt d a b) d 1 (fun s => ofBool ((s.rx a).slt (s.rx b))) s
/-- SLTU. -/
def execSltu (d a b : Reg) (s : State) : Result := valueWord (.sltu d a b) d 1 (fun s => ofBool ((s.rx a).ult (s.rx b))) s
/-- MIN. -/
def execMin (d a b : Reg) (s : State) : Result := valueWord (.min d a b) d 1 (fun s => if (s.rx a).slt (s.rx b) then (s.rx a) else (s.rx b)) s
/-- MAX. -/
def execMax (d a b : Reg) (s : State) : Result := valueWord (.max d a b) d 1 (fun s => if (s.rx a).slt (s.rx b) then (s.rx b) else (s.rx a)) s
/-- MINU. -/
def execMinu (d a b : Reg) (s : State) : Result := valueWord (.minu d a b) d 1 (fun s => if (s.rx a).ult (s.rx b) then (s.rx a) else (s.rx b)) s
/-- MAXU. -/
def execMaxu (d a b : Reg) (s : State) : Result := valueWord (.maxu d a b) d 1 (fun s => if (s.rx a).ult (s.rx b) then (s.rx b) else (s.rx a)) s
/-- CSEL: a if the old xd is not 0, else b. -/
def execCsel (d a b : Reg) (s : State) : Result :=
  valueWord (.csel d a b) d 1 (fun s => if s.rx d ≠ 0 then s.rx a else s.rx b) s
/-- MUL. -/
def execMul (d a b : Reg) (s : State) : Result := valueWord (.mul d a b) d 3 (fun s => s.rx a * s.rx b) s
/-- MULH. -/
def execMulh (d a b : Reg) (s : State) : Result := valueWord (.mulh d a b) d 3 (fun s => BitVec.ofInt 64 ((s.rx a).toInt * (s.rx b).toInt / 2 ^ 64)) s
/-- MULHU. -/
def execMulhu (d a b : Reg) (s : State) : Result := valueWord (.mulhu d a b) d 3 (fun s => BitVec.ofNat 64 ((s.rx a).toNat * (s.rx b).toNat / 2 ^ 64)) s

/-- Cycles of the cluster divider (R99): q significant bits of the dividend's magnitude, 4 for division by zero and for the
signed overflow. -/
def divideTime (signed : Bool) (a b : Dword) : Nat :=
  if b = 0 ∨ (signed ∧ a = BitVec.intMin 64 ∧ b = BitVec.allOnes 64) then 4
  else
    let m := if signed then a.toInt.natAbs else a.toNat
    4 + ((if m = 0 then 1 else m.log2 + 1) + 1) / 2

/-- A division: the result comes from the divider, scoreboarded; `rem` takes the remainder (R52). -/
def divideWord (i : Instr) (signed rem : Bool) (d a b : Reg) (s : State) : Result :=
  .next (runWord i (fun s =>
    let x := s.rx a
    let y := s.rx b
    let q := if signed then divide true 64 x.toInt y.toInt else divide false 64 x.toNat y.toNat
    .retire (s.resultAt d (BitVec.ofInt 64 (if rem then q.2 else q.1)) (s.now + divideTime signed x y) .div)) s)

/-- DIV. -/
def execDiv (d a b : Reg) (s : State) : Result := divideWord (.div d a b) true false d a b s
/-- DIVU. -/
def execDivu (d a b : Reg) (s : State) : Result := divideWord (.divu d a b) false false d a b s
/-- REM. -/
def execRem (d a b : Reg) (s : State) : Result := divideWord (.rem d a b) true true d a b s
/-- REMU. -/
def execRemu (d a b : Reg) (s : State) : Result := divideWord (.remu d a b) false true d a b s

/-- CLZ. -/
def execClz (d a : Reg) (s : State) : Result := valueWord (.clz d a) d 1 (fun s => BitVec.ofNat 64 (clzOf (s.rx a))) s
/-- CTZ. -/
def execCtz (d a : Reg) (s : State) : Result := valueWord (.ctz d a) d 1 (fun s => BitVec.ofNat 64 (ctzOf (s.rx a))) s
/-- POPC. -/
def execPopc (d a : Reg) (s : State) : Result := valueWord (.popc d a) d 1 (fun s => BitVec.ofNat 64 (popcOf (s.rx a))) s
/-- BREV. -/
def execBrev (d a : Reg) (s : State) : Result := valueWord (.brev d a) d 1 (fun s => (s.rx a).reverse) s

/-! ## Immediate forms and constants (R100 to R102) -/

/-- ADDI. -/
def execAddi (d a : Reg) (i : BitVec 13) (s : State) : Result := valueWord (.addi d a i) d 1 (fun s => s.rx a + i.signExtend 64) s
/-- ANDI. -/
def execAndi (d a : Reg) (i : BitVec 13) (s : State) : Result := valueWord (.andi d a i) d 1 (fun s => s.rx a &&& i.signExtend 64) s
/-- ORI. -/
def execOri (d a : Reg) (i : BitVec 13) (s : State) : Result := valueWord (.ori d a i) d 1 (fun s => s.rx a ||| i.signExtend 64) s
/-- XORI. -/
def execXori (d a : Reg) (i : BitVec 13) (s : State) : Result := valueWord (.xori d a i) d 1 (fun s => s.rx a ^^^ i.signExtend 64) s
/-- SLTI. -/
def execSlti (d a : Reg) (i : BitVec 13) (s : State) : Result := valueWord (.slti d a i) d 1 (fun s => ofBool ((s.rx a).slt (i.signExtend 64))) s
/-- SLTIU. -/
def execSltiu (d a : Reg) (i : BitVec 13) (s : State) : Result := valueWord (.sltiu d a i) d 1 (fun s => ofBool ((s.rx a).ult (i.signExtend 64))) s
/-- SLLI. -/
def execSlli (d a : Reg) (h : BitVec 6) (s : State) : Result := valueWord (.slli d a h) d 1 (fun s => s.rx a <<< h.toNat) s
/-- SRLI. -/
def execSrli (d a : Reg) (h : BitVec 6) (s : State) : Result := valueWord (.srli d a h) d 1 (fun s => s.rx a >>> h.toNat) s
/-- SRAI. -/
def execSrai (d a : Reg) (h : BitVec 6) (s : State) : Result := valueWord (.srai d a h) d 1 (fun s => (s.rx a).sshiftRight h.toNat) s
/-- LIH. -/
def execLih (d : Reg) (i : BitVec 18) (s : State) : Result := valueWord (.lih d i) d 1 (fun _ => i.signExtend 64 <<< 13) s
/-- LISH. -/
def execLish (d : Reg) (i : BitVec 18) (s : State) : Result :=
  valueWord (.lish d i) d 1 (fun s => s.rx d <<< 18 ||| i.setWidth 64) s

/-! ## Branches and jumps (R103 to R105) -/

/-- The trap of a control transfer to a target (R104). -/
def targetMiss (target : Dword) : Option Nat :=
  if target.toNat % 4 ≠ 0 then some causeAlign else if 2 ^ 52 ≤ target.toNat then some causeBounds else none

/-- A taken branch or jump: from now on fetch sees every store older than the newest FENCE (01 R49). -/
def Hart.refetch (t : Hart) : Hart :=
  { t with fresh := max t.fresh t.fenced, stale := t.stale.filter fun e => decide (max t.fresh t.fenced ≤ e.owner) }

/-- A taken branch or jump of the running agent. DESIGN CHOICE (log 7). -/
def State.refetch (s : State) : State :=
  match s.cur with
  | .hart h => s.modHart h Hart.refetch
  | .steward _ => s

/-- A taken branch or a jump to a target, with its effect f. -/
def goTo (s : State) (target : Dword) (f : State → State := id) : Flow :=
  match targetMiss target with
  | some c => .trap s c target
  | none => .jump (f s).refetch target

/-- A branch on a condition of two registers. -/
def branchWord (i : Instr) (o : BitVec 13) (cond : State → Bool) (s : State) : Result :=
  .next (runWord i (fun s => if cond s then goTo s (s.sc.pc + o.signExtend 64 <<< 2) else .retire s) s)

/-- BEQ. -/
def execBeq (a b : Reg) (o : BitVec 13) (s : State) : Result := branchWord (.beq a b o) o (fun s => s.rx a == s.rx b) s
/-- BNE. -/
def execBne (a b : Reg) (o : BitVec 13) (s : State) : Result := branchWord (.bne a b o) o (fun s => s.rx a != s.rx b) s
/-- BLT. -/
def execBlt (a b : Reg) (o : BitVec 13) (s : State) : Result := branchWord (.blt a b o) o (fun s => (s.rx a).slt (s.rx b)) s
/-- BGE. -/
def execBge (a b : Reg) (o : BitVec 13) (s : State) : Result := branchWord (.bge a b o) o (fun s => !(s.rx a).slt (s.rx b)) s
/-- BLTU. -/
def execBltu (a b : Reg) (o : BitVec 13) (s : State) : Result := branchWord (.bltu a b o) o (fun s => (s.rx a).ult (s.rx b)) s
/-- BGEU. -/
def execBgeu (a b : Reg) (o : BitVec 13) (s : State) : Result := branchWord (.bgeu a b o) o (fun s => !(s.rx a).ult (s.rx b)) s

/-- JAL. -/
def execJal (d : Reg) (i : BitVec 18) (s : State) : Result :=
  .next (runWord (.jal d i) (fun s => goTo s (s.sc.pc + i.signExtend 64 <<< 2) fun s => s.result d (s.sc.pc + 4) 1) s)
/-- JALR. -/
def execJalr (d a : Reg) (i : BitVec 13) (s : State) : Result :=
  .next (runWord (.jalr d a i) (fun s => goTo s (s.rx a + i.signExtend 64) fun s => s.result d (s.sc.pc + 4) 1) s)

/-! ## Loops (R106 to R110) -/

/-- A LOOPOVF trap with its reason. -/
def loopTrap (s : State) (reason : Nat) : Flow := .trap s causeLoopovf (BitVec.ofNat 64 reason)

/-- LOOP and LOOPI with count n and end offset o. The entry pushed ends after the word itself, so the loop-end step of its
retirement meets none. -/
def loopFlow (s : State) (n : Dword) (o : BitVec 13) : Flow :=
  let pc := s.sc.pc
  let last := pc + o.setWidth 64 <<< 2
  if (s.sc.loops.head?.map fun e => e.last) = some pc then loopTrap s 3
  else if 0xFFFFFFFF < n.toNat then loopTrap s 4
  else if n = 0 then .jump s (last + 4)
  else if 6 ≤ s.sc.loops.length then loopTrap s 1
  else .retire (s.modSc fun sc => { sc with loops := { index := 0, count := n.setWidth 32, start := pc + 4, last := last } :: sc.loops })

/-- LOOP. -/
def execLoop (a : Reg) (o : BitVec 13) (s : State) : Result := .next (runWord (.loop a o) (fun s => loopFlow s (s.rx a) o) s)
/-- LOOPI. -/
def execLoopi (c : BitVec 10) (o : BitVec 13) (s : State) : Result :=
  .next (runWord (.loopi c o) (fun s => loopFlow s (c.setWidth 64) o) s)
/-- LIDX. -/
def execLidx (d l : Reg) (s : State) : Result :=
  valueWord (.lidx d l) d 1 (fun s => ((s.sc.loops[l.toNat]?).map fun e => e.index.setWidth 64).getD 0) s
/-- LCNT. -/
def execLcnt (d l : Reg) (s : State) : Result :=
  valueWord (.lcnt d l) d 1 (fun s => ((s.sc.loops[l.toNat]?).map fun e => e.count.setWidth 64).getD 0) s
/-- LBRK. -/
def execLbrk (s : State) : Result :=
  .next (runWord .lbrk (fun s =>
    match s.sc.loops with
    | [] => loopTrap s 2
    | e :: es =>
      let p := loopEnd es e.last
      .jump (s.modSc fun sc => { sc with loops := p.1 }) p.2) s)
/-- LSKIP. -/
def execLskip (s : State) : Result :=
  .next (runWord .lskip (fun s =>
    match s.sc.loops with
    | [] => loopTrap s 2
    | e :: es =>
      let p := loopEnd (e :: es) e.last
      .jump (s.modSc fun sc => { sc with loops := p.1 }) p.2) s)

/-! ## Loads and stores (R111) -/

/-- The address of a LD or ST. -/
def State.dataAddr (s : State) (a : Reg) (o : BitVec 10) : Dword := s.rx a + o.signExtend 64

/-- A load: a hart's goes to qd; a steward's is performed as it issues. -/
def loadWord (i : Instr) (d a : Reg) (o : BitVec 10) (s : State) : Result :=
  .next (runWord i (fun s =>
    let va := s.dataAddr a o
    let n := scalarBytes i
    if va.toNat % n ≠ 0 then .trap s causeAlign va
    else if s.cur.isHart then s.issueDirect i (s.direct .ld i va 0 0 s.now) (some d)
    else
      (s.load .scalar va n).flow s fun bs t =>
        let v : Dword := bitsOfBytes 64 bs
        let v := if signedLoad i then BitVec.ofInt 64 (BitVec.ofNat (8 * n) v.toNat).toInt else v
        .retire (t.resultAt d v (s.now + s.myLoadTime va) .memory)) s)

/-- A store of the low bytes of a register: a hart's goes to qd; a steward's is performed as it issues. -/
def storeWord (i : Instr) (x a : Reg) (o : BitVec 10) (s : State) : Result :=
  .next (runWord i (fun s =>
    let va := s.dataAddr a o
    let n := scalarBytes i
    if va.toNat % n ≠ 0 then .trap s causeAlign va
    else if s.cur.isHart then s.issueDirect i (s.direct .st i va (s.rx x) 0 s.now) none
    else (s.store va (bytesOfBits (s.rx x) n)).flow s fun _ t => .retire t) s)

/-- LB. -/
def execLb (d a : Reg) (o : BitVec 10) (s : State) : Result := loadWord (.lb d a o) d a o s
/-- LBU. -/
def execLbu (d a : Reg) (o : BitVec 10) (s : State) : Result := loadWord (.lbu d a o) d a o s
/-- LH. -/
def execLh (d a : Reg) (o : BitVec 10) (s : State) : Result := loadWord (.lh d a o) d a o s
/-- LHU. -/
def execLhu (d a : Reg) (o : BitVec 10) (s : State) : Result := loadWord (.lhu d a o) d a o s
/-- LW. -/
def execLw (d a : Reg) (o : BitVec 10) (s : State) : Result := loadWord (.lw d a o) d a o s
/-- LWU. -/
def execLwu (d a : Reg) (o : BitVec 10) (s : State) : Result := loadWord (.lwu d a o) d a o s
/-- LD. -/
def execLd (d a : Reg) (o : BitVec 10) (s : State) : Result := loadWord (.ld d a o) d a o s
/-- SB. -/
def execSb (x a : Reg) (o : BitVec 10) (s : State) : Result := storeWord (.sb x a o) x a o s
/-- SH. -/
def execSh (x a : Reg) (o : BitVec 10) (s : State) : Result := storeWord (.sh x a o) x a o s
/-- SW. -/
def execSw (x a : Reg) (o : BitVec 10) (s : State) : Result := storeWord (.sw x a o) x a o s
/-- SD. -/
def execSd (x a : Reg) (o : BitVec 10) (s : State) : Result := storeWord (.sd x a o) x a o s

/-! ## Results that come back (03 R81, R99, R111) -/

/-- Writes the scoreboarded results of an agent that a test picks and whose cycle has come. -/
def Scalar.arriveBoard (sc : Scalar) (now : Nat) (p : PendingWrite → Bool) : Scalar :=
  let due := sc.board.filter fun w => w.due now && p w
  { due.foldl (fun a w => a.put w.rd w.value) sc with board := sc.board.filter fun w => !(w.due now && p w) }

/-- DIVIDER_RESULT: the divisions of a hart whose cycle has come write their registers. -/
def execDividerResult (h : HartKey) (s : State) : Result :=
  .next (s.modHart h fun t => { t with sc := t.sc.arriveBoard s.now fun w => w.kind == .div })

/-- LOAD_RETURN: the other scoreboarded results of a hart whose cycle has come write their registers. -/
def execLoadReturn (h : HartKey) (s : State) : Result :=
  .next (s.modHart h fun t => { t with sc := t.sc.arriveBoard s.now fun w => w.kind != .div })

end Sys2Proof.Machine
end

