-- ==== Sys2Proof/Machine/System.lean ====
section
/-! DEFINITION. CSR access (04 R112, R113, 01 R21 to R26), the system instructions but EXIT, SNAPT and SRET (04 R114 to R118),
words that are no instruction, and fetch (01 R18, R49, 04 R104). -/

namespace Sys2Proof.Machine

/-! ## The CSRs of a hart (01 R21) -/

/-- Code of an array count: 16, 8 or 4 (01 R25). -/
def laneCount (code : Nat) : Nat := 16 / 2 ^ code

/-- A CSR of a hart; none for a number that R21 does not list. -/
def State.csrRead (s : State) (h : HartKey) (n : Nat) : Option Dword :=
  let t := s.hart h
  let c := t.csr
  let k := s.cluster (clusterOfHart h)
  match n with
  | 0x000 => some (BitVec.ofNat 64 c.hid)
  | 0x001 => some c.teamid
  | 0x002 => some (BitVec.ofNat 64 (coreOfHart h))
  | 0x003 => some (BitVec.ofNat 64 c.nharts)
  | 0x004 => some (BitVec.ofNat 64 (t.colbase % 512 + 512 * (t.cols % 1024) + 2 ^ 19 * slotOfHart h))
  | 0x005 => some (c.rowbase.setWidth 64)
  | 0x006 => some (BitVec.ofNat 64 (16384 - c.rowbase.toNat))
  | 0x008 => some (c.rmode.setWidth 64)
  | 0x009 => some (c.fflags.setWidth 64)
  | 0x00A => some ((t.sc.preds ||| 1).setWidth 64)
  | 0x00C => some c.kmask
  | 0x00D => some c.mk0
  | 0x00E => some c.mk1
  | 0x010 => some c.mbx[0]
  | 0x011 => some c.mbx[1]
  | 0x012 => some c.mbx[2]
  | 0x013 => some c.mbx[3]
  | 0x014 => some c.mbx[4]
  | 0x015 => some c.mbx[5]
  | 0x016 => some c.mbx[6]
  | 0x017 => some c.mbx[7]
  | 0x018 => some c.tvec
  | 0x019 => some c.tepc
  | 0x01A => some c.tcause
  | 0x01B => some c.tval
  | 0x01C => some c.sbase
  | 0x01D => some (c.pfxl.setWidth 64)
  | 0x01E => some c.tscr
  | 0x01F => some (ofBool c.inh)
  | 0x020 => some c.ntimeo
  | 0x021 => some (BitVec.ofNat 64 (laneCount k.laneCode))
  | 0x022 => some (k.skip.setWidth 64)
  | 0x028 => some (BitVec.ofNat 64 (s.now - t.startCycle))
  | 0x029 => some t.sc.instret
  | 0x02A => some (BitVec.ofNat 64 ((s.ctxState t.ctx).energy / 1000))
  | 0x030 => some (ofBool c.schk)
  | 0x031 => some c.migwait
  | _ => none

/-- Writes a CSR of a hart under its map: RO registers and bits keep their values. -/
def Hart.csrWrite (t : Hart) (n : Nat) (v : Dword) : Hart :=
  let c := t.csr
  match n with
  | 0x005 => { t with csr := { c with rowbase := v.setWidth 14 } }
  | 0x008 => { t with csr := { c with rmode := v.setWidth 3 } }
  | 0x009 => { t with csr := { c with fflags := v.setWidth 7 } }
  | 0x00A => { t with sc := { t.sc with preds := v.setWidth 8 ||| 1 } }
  | 0x00C => { t with csr := { c with kmask := v } }
  | 0x00D => { t with csr := { c with mk0 := v } }
  | 0x00E => { t with csr := { c with mk1 := v } }
  | 0x018 => { t with csr := { c with tvec := v &&& ~~~3 } }
  | 0x019 => { t with csr := { c with tepc := v } }
  | 0x01A => { t with csr := { c with tcause := v } }
  | 0x01B => { t with csr := { c with tval := v } }
  | 0x01D => { t with csr := { c with pfxl := v.setWidth 11 } }
  | 0x01E => { t with csr := { c with tscr := v } }
  | 0x01F => { t with csr := { c with inh := v.getLsbD 0 } }
  | 0x020 => { t with csr := { c with ntimeo := v } }
  | 0x030 => { t with csr := { c with schk := v.getLsbD 0 } }
  | 0x031 => { t with csr := { c with migwait := v } }
  | _ => t

/-! ## The CSRs of a steward (17 R355, 07 R168, 13 R309, 21 R433) -/

/-- The slot table entry as its register reads (13 R309). -/
def MSlot.word (m : MSlot) : Dword := (m.ctx ++ BitVec.ofBool m.upper ++ BitVec.ofBool m.v).setWidth 64

/-- The clusters of a core. -/
def clustersOf (core : CoreId) : List ClusterKey := (List.range 8).map fun k => 8 * core + k

/-- A register with a field of eight bits for each cluster of a core. -/
def perCluster (core : CoreId) (f : ClusterKey → Nat) : Dword :=
  bitsOfBytes 64 ((clustersOf core).map fun k => BitVec.ofNat 8 (f k))

/-- A CSR of a steward; none for a number that names none. DEDUCED (log 24). -/
def State.stewardCsrRead (s : State) (core : CoreId) (n : Nat) : Option Dword :=
  let w := (s.core core).steward
  if 0x140 ≤ n ∧ n ≤ 0x17F then ((s.twin (twinOfCore core)).mslots[n - 0x140]?).map MSlot.word
  else
    match n with
    | 0x002 => some (BitVec.ofNat 64 core)
    | 0x00A => some ((w.sc.preds ||| 1).setWidth 64)
    | 0x028 => some (BitVec.ofNat 64 s.now)
    | 0x029 => some w.sc.instret
    | 0x100 => some (w.ipol.setWidth 64)
    | 0x101 => some w.svec
    | 0x102 => some w.sevk
    | 0x103 => some w.sevv
    | 0x104 => some w.sevpc
    | 0x105 => some (w.sevx.setWidth 64)
    | 0x106 => some (w.sdisp.setWidth 64)
    | 0x107 => some (w.serr.setWidth 64)
    | 0x108 => some w.serrv
    | 0x109 => some (w.stxs.setWidth 64)
    | 0x10A =>
      some (BitVec.ofNat 64 (bitsOf (fun i => (s.cluster (8 * core + i)).fenced) 8 + if (s.core core).fenced then 256 else 0))
    | 0x10B => some w.clctl
    | 0x10C =>
      some (perCluster core fun k => (s.cluster k).laneCode + if (s.cluster k).railLow then 4 else 0)
    | _ => none

/-- The context that holds the turn of a core's partition; the system context where none does. -/
def State.coreTurn (s : State) (core : CoreId) : Nat :=
  ((((s.pair (pairOfCore core)).part.bind fun p => (s.partition p).turn).bind fun q => s.queues.get? q).map Queue.ctx).getD 0

/-- Whether a stop is pending in a cluster: of its partition's context, or of its core, which is being gated (18 R378, 19 R407).
DEDUCED (log 43). -/
def State.stopPending (s : State) (k : ClusterKey) : Bool :=
  let core := coreOfCluster k
  (upperCore core && decide ((s.twin (twinOfCore core)).gate = .gating)) || match (s.pair (pairOfCore core)).part with
    | some p => decide ((s.partition p).switch = some .stopping ∨ (s.partition p).switch = some .leaving)
    | none => false

/-- The array count code and rail that the steward's request and the thermal limit give a cluster (21 R433, R435); a cluster
with a stop pending runs on the high rail with no clock edge suppressed, and the thermal limit does not lower its count (18
R378, 21 R434); a promotion to that rail is charged to the outgoing context (18 R391). DESIGN CHOICE (log 18). DEDUCED (log 43).
-/
def State.applyLane (s : State) (k : ClusterKey) : State :=
  let c := s.cluster k
  let core := coreOfCluster k
  let field := ((s.core core).steward.clctl.extractLsb' (8 * (k % 8)) 8)
  let stopping := s.stopPending k
  let limit := if stopping then min c.laneCode c.thermalLane else c.thermalLane
  let code := max (field.extractLsb' 0 2).toNat limit
  let low := field.getLsbD 2 && !stopping
  let skip := if stopping then 0 else c.thermalSkip
  if s.now < c.arraysFree ∨ (c.laneCode = code ∧ c.railLow = low ∧ c.skip = skip) then s
  else
    let s := s.setCluster k { c with laneCode := code, railLow := low, skip := skip }
    if stopping && c.railLow && !low then s.charge (s.account (s.coreTurn core)) else s

/-- Writes a CSR of a steward. -/
def State.stewardCsrWrite (s : State) (core : CoreId) (n : Nat) (v : Dword) : State :=
  let mod := s.modSteward core
  if 0x140 ≤ n ∧ n ≤ 0x17F then
    let m : MSlot := { v := v.getLsbD 0, upper := v.getLsbD 1, ctx := v.extractLsb' 2 12 }
    s.modTwin (twinOfCore core) fun t => { t with mslots := t.mslots.setIfInBounds (n - 0x140) m }
  else
    match n with
    | 0x00A => mod fun w => { w with sc := { w.sc with preds := v.setWidth 8 ||| 1 } }
    | 0x100 =>
      let old := (s.core core).steward.ipol
      let s := mod fun w => { w with ipol := v.setWidth 8 }
      (clustersOf core).foldl (fun s k =>
        if old.getLsbD (k % 8) = v.getLsbD (k % 8) then s
        else s.modCluster k fun c => { c with current := none, runCount := 0, rotation := 0 }) s
    | 0x101 => mod fun w => { w with svec := v &&& ~~~3 }
    | 0x106 => mod fun w => { w with sdisp := v.setWidth 2 }
    | 0x107 => mod fun w => { w with serr := v.setWidth 8 }
    | 0x108 => mod fun w => { w with serrv := v }
    | 0x109 => mod fun w => { w with stxs := v.setWidth 32 }
    | 0x10B =>
      let v' : Dword := v &&& 0x0707070707070707
      (clustersOf core).foldl State.applyLane (mod fun w => { w with clctl := v' })
    | _ => s

/-! ## The CSR words (R112) -/

/-- Whether a value may be written: rmode is 0 to 4 (01 R22), no array count code of clctl is 3 (21 R433). -/
def csrAccepts (hart : Bool) (n : Nat) (v : Dword) : Bool :=
  if hart then n != 0x008 || decide (v.toNat ≤ 4)
  else n != 0x10B || (List.range 8).all fun k => v.extractLsb' (8 * k) 2 != 3

/-- A CSR word: the old value goes to xd with latency 2, and `new` gives the value written, if any. -/
def csrFlow (d : Reg) (n : BitVec 11) (new : State → Dword → Option Dword) (s : State) : Flow :=
  match s.cur with
  | .hart h =>
    if 0x100 ≤ n.toNat then .trap s causePriv s.wordValue
    else
      match s.csrRead h n.toNat with
      | none => .trap s causeIll s.wordValue
      | some old =>
        match new s old with
        | none => .retire (s.result d old 2)
        | some v =>
          if csrAccepts true n.toNat v then
            .retire ((s.modHart h fun t => t.csrWrite n.toNat v).result d old 2)
          else .trap s causeIll s.wordValue
  | .steward c =>
    match s.stewardCsrRead c n.toNat with
    | none => .trap s causeIll s.wordValue
    | some old =>
      match new s old with
      | none => .retire (s.result d old 2)
      | some v =>
        if csrAccepts false n.toNat v then .retire ((s.stewardCsrWrite c n.toNat v).result d old 2)
        else .trap s causeIll s.wordValue

/-- CSRR. -/
def execCsrr (d : Reg) (c : BitVec 11) (s : State) : Result :=
  .next (runWord (.csrr d c) (csrFlow d c fun _ _ => none) s)
/-- CSRW. -/
def execCsrw (d a : Reg) (c : BitVec 11) (s : State) : Result :=
  .next (runWord (.csrw d a c) (csrFlow d c fun s _ => some (s.rx a)) s)
/-- CSRS. -/
def execCsrs (d a : Reg) (c : BitVec 11) (s : State) : Result :=
  .next (runWord (.csrs d a c) (csrFlow d c fun s old => if a = 0 then none else some (old ||| s.rx a)) s)
/-- CSRC. -/
def execCsrc (d a : Reg) (c : BitVec 11) (s : State) : Result :=
  .next (runWord (.csrc d a c) (csrFlow d c fun s old => if a = 0 then none else some (old &&& ~~~s.rx a)) s)

/-! ## System words (R115 to R118) -/

/-- SCALL. -/
def execScall (s : State) : Result := .next (runWord .scall (fun s => .retireTrap s causeScall) s)
/-- BRK. -/
def execBrk (s : State) : Result := .next (runWord .brk (fun s => .retireTrap s causeBrk) s)

/-- TRET: R116; a steward has no trap state to return to. -/
def execTret (s : State) : Result :=
  .next (runWord .tret (fun s =>
    match s.cur with
    | .hart h => .returned (s.modHart h Hart.trapReturn)
    | .steward _ => .trap s causeIll s.wordValue) s)

/-- Runs f for a hart whose word waits, as the running agent with that word. -/
def State.asHart (s : State) (h : HartKey) (f : State → State) : State :=
  let s' := f { s with cur := .hart h, ir := (s.hart h).waitWord }
  { s' with cur := s.cur, ir := s.ir }

/-- The same where f may do nothing. -/
def State.asHartOpt (s : State) (h : HartKey) (f : State → Option State) : Option State :=
  (f { s with cur := .hart h, ir := (s.hart h).waitWord }).map fun s' => { s' with cur := s.cur, ir := s.ir }

/-- The WFE of a hart completes: its latch is cleared (R117). -/
def State.completeWfe (s : State) (h : HartKey) : State :=
  s.asHart h fun s => State.finish (.retire (s.modSelf fun t => { t with eventLatch := false }))

/-- Whether a hart waits in WFE. -/
def Hart.inWfe (t : Hart) : Bool :=
  match t.wait with
  | .wfe _ => true
  | _ => false

/-- Whether a hart runs, but for what its word waits for: it is not stopped, held or frozen. -/
def Hart.runs (t : Hart) : Bool := !t.stopped && t.held.isNone && !t.frozen

/-- Posts an event to a hart (R117): a WFE that waits completes, unless its hart is stopped or held. -/
def State.postHartEvent (s : State) (h : HartKey) : State :=
  let t := s.hart h
  if !s.resident h then s
  else if t.inWfe && t.runs then s.completeWfe h
  else s.modHart h fun t => { t with eventLatch := true }

/-- A WFE that waits completes 65,536 cycles after its issue, or once its hart runs again and its latch has an event (R117). -/
def State.wfeStep (s : State) (h : HartKey) : Option State :=
  let t := s.hart h
  match t.wait with
  | .wfe since => if t.runs && (t.eventLatch || decide (since + 65536 ≤ s.now)) then some (s.completeWfe h) else none
  | _ => none

/-- WFE; a steward, to which no events are posted, waits for the limit. DEDUCED (log 24). -/
def execWfe (s : State) : Result :=
  .next (runWord .wfe (fun s =>
    match s.cur with
    | .hart h =>
      if (s.hart h).eventLatch then .retire (s.modHart h fun t => { t with eventLatch := false }) else s.await (.wfe s.now)
    | .steward _ => .retire (s.delay (s.now + 65536))) s)

/-- WFE_TIMEOUT: a WFE completes 65,536 cycles after its issue. -/
def execWfeTimeout (h : HartKey) (s : State) : Result :=
  .next ((s.wfeStep h).getD s)

/-- YIELD: the hart is barred for one selection and is no longer the current hart (07 R171). -/
def execYield (s : State) : Result :=
  .next (runWord .yield (fun s =>
    match s.cur with
    | .hart h =>
      .retire ((s.modHart h fun t => { t with barred := true }).modCluster (clusterOfHart h) fun c =>
        if c.current = some (slotOfHart h) then { c with current := none } else c)
    | .steward _ => .retire s) s)

/-! ## Fetch and words that are no instruction (01 R18, 03 R76, R78, 04 R104) -/

/-- The words that fetch of the running agent may still return beside that of the home: those that its hart has stored over (01
R49). -/
def State.staleWords (s : State) (pc : Dword) (new : Word) : List Word :=
  if s.cur.isHart then ((s.self.stale.filter fun e => decide (e.addr = pc)).map fun e => e.old).dedup.filter fun w => decide (w ≠ new)
  else []

/-- The word of a steward's PC in a typed space of its core (09 R200). -/
def State.fetchTyped (s : State) (core : CoreId) (pc : Dword) : Except Miss Word × State :=
  match (stewardReach core).check .fetch pc 4 with
  | some m => (.error m, s)
  | none =>
    match ((s.stewardWindow core pc 4).getD s).fetchBytes (stewardReach core) false .fetch pc 4 with
    | (.error m, s) => (.error m, s)
    | (.ok g, s) =>
      match g.poisoned with
      | some p => (.error { cause := causeUce, value := pc + BitVec.ofNat 64 p.1 }, s)
      | none => (.ok (bitsOfBytes 32 g.bytes), s)

/-- The word at the running agent's PC, read at its home; where the hart has stored over it, that word or one of those before (01
R49, 09 R200). DESIGN CHOICE (log 7). -/
def State.fetch (s : State) : Except Miss Word × State :=
  let pc := s.sc.pc
  let core := s.cur.core
  if pc.toNat % 4 ≠ 0 then (.error { cause := causeAlign, value := pc }, s)
  else if ¬ inH pc ∧ (spaceSize (selector pc)).isSome then
    if s.cur.isHart then (.error { cause := causeProt, value := pc }, s) else s.fetchTyped core pc
  else if 2 ^ 52 ≤ pc.toNat then (.error { cause := causeBounds, value := pc }, s)
  else
    match s.translate core 0 s.myCtx pc .fetch with
    | (.error m, s) => (.error m, s)
    | (.ok t, s) =>
      if t.lost then (.error { cause := causeUce, value := pc }, s)
      else
        let r := s.homeRead t.key t.loc 4
        match r.2.poisonAt t.loc 4 with
        | some i => (.error { cause := causeUce, value := pc + BitVec.ofNat 64 i }, r.2)
        | none =>
          let new : Word := bitsOfBytes 32 r.1
          match r.2.staleWords pc new with
          | [] => (.ok new, r.2)
          | old =>
            let c := r.2.choose (old.length + 1)
            (.ok (old.getD c.1 new), c.2)

/-- Whether fetch waits: for a line that a running command owns (11 R265), or for the stores before a FENCE that a taken branch has
followed (01 R49). -/
def State.fetchWaits (s : State) : Bool :=
  (s.cur.isHart && s.self.orders.any fun p => p.release.isSome && p.acquire.isSome && decide (p.owner < s.self.fresh)) ||
  (!s.cur.isHart && selector s.sc.pc == 10 && (s.stewardWindow s.cur.core s.sc.pc 4).isNone) ||
  !s.lineOwners.isEmpty &&
    match (s.translate s.cur.core 0 s.myCtx s.sc.pc .fetch).1 with
    | .ok t => s.blocked t.loc 4
    | .error m => m.cause == causeWait

/-- NON_INSTRUCTION_WORD: the word that runs raises ILL, or PRIV in a hart for the privileged words (R76, R78, R79). -/
def execNonInstructionWord (s : State) : Result :=
  let s := s.modSc fun sc => sc.commit s.now
  .next (State.finish (.trap s (if privilegedWord s.ir && s.cur.isHart then causePriv else causeIll) s.wordValue))

/-- INSTRUCTION_FETCH_FAULT: the fetch at the PC fails; its trap is taken with the PC as the held address (17 R353). -/
def execInstructionFetchFault (s : State) : Result :=
  .next (match s.fetch with
    | (.ok _, _) => s
    | (.error m, t) =>
      let t := t.modSc fun sc => sc.commit t.now
      State.finish (.trap t m.cause m.value))

end Sys2Proof.Machine
end

