-- ==== Sys2Proof/Machine/Vmem.lean ====
section
/-! DEFINITION. The VMEM instructions, their check phases and their transfers (10 R228 to R234), spill images (09 R211) and
TLOAD (06 R155, R156). -/

namespace Sys2Proof.Machine

/-! ## Elements in memory (R229, R230) -/

/-- The bytes that a store writes for an element. -/
def FieldDesc.storeBytes (d : FieldDesc) (v : Nat) : List Byte :=
  bytesOfBits (BitVec.ofInt (8 * d.size) (if d.signed then d.int v else (v : Int))) d.size

/-- add() of R230: the element after the update, and its flags. -/
def elementSum (type : BitVec 3) (size : Nat) (rmode : BitVec 3) (old v : Nat) : Nat × Flags :=
  match fmtOf type.toNat with
  | some f =>
    let x := Num.add rmode.toNat (f.decode old) (f.decode v)
    let r := f.round rmode.toNat x.1
    (r.1, x.2 ||| r.2)
  | none => ((old + v) % 2 ^ (8 * size), 0)

/-- The address of the element of row offset i of a transfer. -/
def State.elementAddr (s : State) (h : HartKey) (x : Transfer) (i : Nat) : Dword :=
  match x.kind with
  | .scale => x.addr + BitVec.ofNat 64 (2 * (i / 32))
  | .load | .store => if x.desc.isF4b then x.addr + BitVec.ofNat 64 (i / 2) else x.addr + BitVec.ofNat 64 (i * x.desc.size)
  | _ => x.addr + BitVec.ofInt 64 (x.index.int (s.elem h x.index (x.row0 + i)) * x.desc.size)

/-- The bytes of an element of a transfer. -/
def Transfer.elementSize (x : Transfer) : Nat := if x.desc.isF4b then 1 else x.desc.size

/-- Whether a transfer moves the row of offset i: its mask, for a store its tgv. -/
def State.moves (s : State) (h : HartKey) (x : Transfer) (i : Nat) : Bool := !x.masked || s.tag h 0 (x.row0 + i)

/-- The addresses of row offsets of an indexed form, as its check phase reads them. -/
def State.readIndex (s : State) (h : HartKey) (x : Transfer) (rows : List Nat) : List (Nat × Dword) :=
  rows.map fun i => (i, s.elementAddr h x i)

/-- An element that is moved byte by byte: one of 3, 5, 6 or 7 bytes (11 R257). -/
def Transfer.bytewise (x : Transfer) : Bool :=
  let b := x.elementSize
  !(b == 1 || b == 2 || b == 4 || b == 8)

/-! ## Check phase (R232) -/

/-- Checks a run of elements of n bytes, then translates its pages; `lax` lets an invalid translation pass, `strip` leaves out the
translation. DEDUCED (log 20). -/
def State.checkAccess (s : State) (r : Reach) (use : Access) (lax strip : Bool) (va : Dword) (n count : Nat) : Option Miss × State :=
  match r.checkRun use va n count with
  | some m => (some m, s)
  | none =>
    if inH va && !strip then
      match s.translateParts r use lax (pagesOf va (n * count)) with
      | (.error m, s) => (some m, s)
      | (.ok l, s) =>
        (if !lax && l.any fun p => match p.1 with
            | some t => t.lost
            | none => false
         then some { cause := causeUce, value := va } else none, s)
    else (none, s)

/-- UCE of a load that consumes poison from a page whose policy does not clear tgv (17 R365). -/
def State.poisonMiss (s : State) (r : Reach) (va : Dword) (n : Nat) (policy : Bool) : Option Miss :=
  if s.poison.isEmpty && s.rowPoison.isEmpty then none
  else
    match (s.fetchBytes r true .load va n).1 with
    | .ok g => match g.poisoned with
      | some p => if policy && p.2 = 1 then none else some { cause := causeUce, value := va + BitVec.ofNat 64 p.1 }
      | none => none
    | .error _ => none

/-- The checks of the elements of an indexed form, row by row. DEDUCED (log 20). -/
def State.checkRows (s : State) (r : Reach) (x : Transfer) (use : Access) (lax strip : Bool) : List (Nat × Dword) → Option Miss × State
  | [] => (none, s)
  | e :: es =>
    match s.checkAccess r use lax strip e.2 x.elementSize 1 with
    | (some m, s) => (some m, s)
    | (none, s) =>
      match (if x.loads then s.poisonMiss r e.2 x.elementSize true else none) with
      | some m => (some m, s)
      | none => s.checkRows r x use lax strip es

/-- Cycles that the pages of a check phase take: one each, and what R219 adds. -/
def State.checkTime (s : State) (r : Reach) (pages : List (Dword × Nat)) : Nat :=
  pages.foldl (fun c p => c + 1 + if inH p.1 then s.tlbTime r.core r.unit r.ctx p.1 else 0) 0

/-! ## Spill images (09 R211) -/

/-- The bits of values of width w, packed. -/
def packBits (w : Nat) : List Nat → Nat
  | [] => 0
  | v :: vs => v % 2 ^ w + 2 ^ w * packBits w vs

/-- The image that VSPILL writes: the shortest form that holds every difference, the lower format at a tie. -/
def spillImage (w : Nat) (vs : List Nat) : List Byte :=
  let n := vs.length
  let b := (w + 7) / 8
  let base := vs.headD 0
  let ds : List Int := vs.tail.map fun v => (v : Int) - base
  let raw := (n * w + 7) / 8
  let head := bytesOfBits (BitVec.ofNat (8 * b) base) b
  let fits := fun (k : Nat) => ds.all fun d => decide (-(2 ^ (8 * k - 1) : Int) ≤ d) && decide (d < 2 ^ (8 * k - 1))
  let delta := fun (k : Nat) => head ++ ds.flatMap fun d => bytesOfBits (BitVec.ofInt (8 * k) d) k
  let one := b + (n - 1)
  let two := b + 2 * (n - 1)
  if fits 1 ∧ one < raw ∧ one ≤ two then 1 :: delta 1
  else if fits 2 ∧ two < raw ∧ ¬ fits 1 then 2 :: delta 2
  else 0 :: bytesOfBits (BitVec.ofNat (8 * raw) (packBits w vs)) raw

/-- The bytes of an image of n values of width w after its format byte. -/
def imageLength (w n format : Nat) : Nat :=
  let b := (w + 7) / 8
  match format with
  | 0 => (n * w + 7) / 8
  | 1 => b + (n - 1)
  | _ => b + 2 * (n - 1)

/-- The values that VFILL reads from an image. -/
def fillValues (w n : Nat) (image : List Byte) : List Nat :=
  let format := (image.headD 0).toNat
  let body := image.drop 1
  let b := (w + 7) / 8
  if format = 0 then
    let v : Nat := (bitsOfBytes (8 * body.length) body).toNat
    (List.range n).map fun i => v / 2 ^ (i * w) % 2 ^ w
  else
    let base := (bitsOfBytes (8 * b) (body.take b)).toNat
    base :: (List.range (n - 1)).map fun i =>
      let d : BitVec (8 * format) := bitsOfBytes (8 * format) ((body.drop (b + format * i)).take format)
      fitInt w ((base : Int) + d.toInt)

/-! ## Moving rows (R230, R233, R234)

A load reads its elements, byte by byte where they are no unit of 11 R257, and lands the rows it has read in windows of the arrays;
a store takes rows in windows and then writes them. Nothing fixes how much of a transfer one step moves (log 4). -/

/-- Rows that one window of 32 array cycles passes over. -/
def State.windowRows (s : State) (h : HartKey) : Nat := 512 / 2 ^ (s.cluster (clusterOfHart h)).laneCode

/-- Array cycles of a pass over rows. -/
def State.rowCycles (s : State) (h : HartKey) (rows : Nat) : Nat :=
  ((rows + 15) / 16) * 2 ^ (s.cluster (clusterOfHart h)).laneCode

/-- The window of an access of a transfer to A-space by address: a cycle for each row. -/
def State.addressWindow (s : State) (h : HartKey) (x : Transfer) (va : Dword) (n : Nat) : Option State :=
  if selector va ≠ 10 then some s
  else s.window (clusterOfHart h) (windowUser h) (if x.indexed then min 32 n else min 32 (1 + n * x.elementSize / 64))

/-- Whether a transfer reads all of its source before it writes anything: A-space by address, or an indexed form (01 R41). -/
def Transfer.whole (x : Transfer) : Bool := x.indexed || !inH x.addr

/-! ### Loads -/

/-- The bytes of a VFILL's image after its format byte. -/
def Transfer.imageBytes (x : Transfer) : Nat := imageLength x.desc.width.toNat x.rows x.format

/-- The row offset and the address of the element that a load reads next, or of the byte of an image or table. -/
def State.nextGet (s : State) (h : HartKey) (x : Transfer) : Option (Nat × Dword) :=
  match x.kind with
  | .loadX => x.addrs.head?
  | .load | .scale => if x.pos < x.rows then some (x.pos, s.elementAddr h x x.pos) else none
  | .fill => if x.pos < x.rows then some (0, x.addr + 1) else none
  | .table => if x.got.length < 512 then some (0, x.addr) else none
  | _ => none

/-- The value of row offset i that the bytes of an element hold. -/
def Transfer.valueOf (x : Transfer) (i : Nat) (bs : List Byte) : Nat :=
  let raw := (bitsOfBytes (8 * bs.length) bs).toNat
  if x.desc.isF4b then raw / 2 ^ (4 * (i % 2)) % 16 else raw % 2 ^ x.desc.width.toNat

/-- Passes over the row that a load reads next. -/
def Transfer.nextRow (x : Transfer) : Transfer :=
  match x.kind with
  | .loadX => { x with addrs := x.addrs.tail, got := [] }
  | _ => { x with pos := x.pos + 1, got := [] }

/-- A load has read bytes: of an image or a table, or of the element of row offset i; `bad` says that poison clears its tgv. A whole
element stands before those read earlier. -/
def Transfer.gotBytes (x : Transfer) (i : Nat) (va : Dword) (bs : List Byte) (bad : Bool) : Transfer :=
  let got := x.got ++ bs
  match x.kind with
  | .table => { x with got := got }
  | .fill =>
    if got.length < x.imageBytes then { x with got := got }
    else
      { x with pos := x.rows, got := []
               values := ((fillValues x.desc.width.toNat x.rows (BitVec.ofNat 8 x.format :: got)).mapIdx fun i v => (i, va, v)).reverse }
  | _ =>
    let x := if bad then { x with marked := i :: x.marked } else x
    if got.length < x.elementSize then { x with got := got }
    else { x.nextRow with values := (i, va, x.valueOf i got) :: x.values }

/-- A load reads its next unit. -/
def State.readUnit (s : State) (h : HartKey) (x : Transfer) : Acc Transfer :=
  match s.nextGet h x with
  | none => .ok x s
  | some (i, va) =>
    let dense := x.kind == .load || x.kind == .scale
    if dense && x.got.isEmpty && !s.moves h x i then .ok x.nextRow s
    else
      let single := x.bytewise || !(dense || x.kind == .loadX)
      let at_ := va + BitVec.ofNat 64 x.got.length
      match s.hartLoad h .vector at_ (if single then 1 else x.elementSize) x.maker with
      | .wait => .wait
      | .miss m s => .miss m s
      | .ok g s =>
        let bad := (dense || x.kind == .loadX) && match g.poisoned with
          | some p => decide (p.2 = 1)
          | none => false
        match g.poisoned, bad with
        | some p, false => .miss { cause := causeUce, value := at_ + BitVec.ofNat 64 p.1 } s
        | _, _ => .ok (x.gotBytes i va g.bytes bad) s

/-- Whether a load has read all of its source. -/
def Transfer.allRead (x : Transfer) : Bool :=
  match x.kind with
  | .loadX => x.addrs.isEmpty
  | .table => decide (512 ≤ x.got.length)
  | _ => decide (x.rows ≤ x.pos)

/-- Writes loaded rows: the elements, tgv where poison clears it, and tgv by the edge of a stream's window (15 R346). -/
def State.landRows (s : State) (h : HartKey) (x : Transfer) (l : List (Nat × Dword × Nat)) : State :=
  let s := l.foldl (fun s r => s.setElem h x.desc (x.row0 + r.1) r.2.2) s
  if x.marked.isEmpty && x.edge == 0 then s
  else
    l.foldl (fun s r =>
      if x.marked.contains r.1 then s.setTgvs h (x.row0 + r.1) 1 fun _ => false
      else if x.edge = 0 then s
      else s.setTgvs h (x.row0 + r.1) 1 fun _ => decide (x.edge ≤ x.index0 + r.1)) s

/-- A load lands the rows that it has read and that one window passes over, the lowest first. -/
def State.landStep (s : State) (h : HartKey) (x : Transfer) : Acc Transfer :=
  let l := x.values.reverse
  let first := (l.head?.map fun r => r.1).getD 0
  let group := l.takeWhile fun r => decide (r.1 < first + s.windowRows h)
  let rest := l.drop group.length
  let span := (group.getLast?.map fun r => r.1).getD first + 1 - first
  if x.allRead && rest.isEmpty && decide (s.now < x.last) then .wait
  else
    match s.window (clusterOfHart h) (windowUser h) (s.rowCycles h span) with
    | none => .wait
    | some s => .ok { x with values := rest.reverse } (s.landRows h x group)

/-- A table load writes its slot, all 512 bytes at once, but not while a word that reads the slot occupies the arrays (06 R156,
R160). -/
def State.tableWrite (s : State) (h : HartKey) (x : Transfer) : Acc Transfer :=
  let k := clusterOfHart h
  if s.now < (s.cluster k).arraysFree ∧ (s.cluster k).reading = some x.slot then .wait
  else
    .ok { x with pos := x.rows }
      (s.modCluster k fun c => { c with tables := c.tables.setIfInBounds x.slot (some { ctx := (s.hart h).ctx, data := x.got }) })

/-! ### Stores -/

/-- Whether the row of offset i is stored: selected, and valid. -/
def State.stores (s : State) (h : HartKey) (x : Transfer) (i : Nat) : Bool := s.moves h x i && s.tgv h (x.row0 + i)

/-- What a store takes of rows: their offsets, addresses and values, but for a spill of those that are stored. -/
def State.takeRows (s : State) (h : HartKey) (x : Transfer) (rows : List Nat) : List (Nat × Dword × Nat) :=
  let value := fun i => s.elem h x.desc (x.row0 + i)
  match x.kind with
  | .spill => rows.map fun i => (i, x.addr, value i)
  | .storeX | .addX => (x.addrs.filter fun e => rows.contains e.1).map fun e => (e.1, e.2, value e.1)
  | _ => (rows.filter (s.stores h x)).map fun i => (i, s.elementAddr h x i, value i)

/-- INVST where a store leaves out a row whose tgv is 0 (02 R61). -/
def State.storeFlags (s : State) (h : HartKey) (x : Transfer) (rows : List Nat) : Flags :=
  if x.kind != .spill && rows.any fun i => s.moves h x i && !s.tgv h (x.row0 + i) then flagINVST else 0

/-- A store has taken rows up to an offset; a spill that has taken all makes its image. -/
def Transfer.taking (x : Transfer) (l : List (Nat × Dword × Nat)) (upTo : Nat) : Transfer :=
  let x := { x with values := x.values ++ l, took := upTo, taken := decide (x.rows ≤ upTo) }
  if x.kind = .spill ∧ x.taken then { x with got := spillImage x.desc.width.toNat (x.values.map fun r => r.2.2), values := [] } else x

/-- A store takes the rows that one window passes over; a spill passes twice (R233). -/
def State.takeStep (s : State) (h : HartKey) (x : Transfer) : Acc Transfer :=
  let twice := if x.kind = .spill then 2 else 1
  let n := min (s.windowRows h / twice) (x.rows - x.took)
  let rows := (List.range n).map fun i => x.took + i
  match s.window (clusterOfHart h) (windowUser h) (twice * s.rowCycles h n) with
  | none => .wait
  | some t => .ok (x.taking (s.takeRows h x rows) (x.took + n)) (t.raiseOn h (s.storeFlags h x rows))

/-- What a store does next: bytes, a nibble of a byte, or an addition. -/
inductive Put where
  | bytes (va : Dword) (bs : List (Option Byte))
  | nibble (va : Dword) (b : Byte) (m : BitVec 2)
  | add (va : Dword) (v : Nat)
deriving DecidableEq, Repr

/-- The next unit of a store, and the store after it: a byte of an image or of an element of 3, 5, 6 or 7 bytes, an element, the byte of
two f4b rows, or one nibble of it (R229). -/
def Transfer.nextPut (x : Transfer) : Option (Put × Transfer) :=
  if x.kind = .spill then
    match x.got with
    | [] => none
    | b :: bs => some (.bytes (x.addr + BitVec.ofNat 64 x.pos) [some b], { x with got := bs, pos := x.pos + 1 })
  else
    match x.values with
    | [] => none
    | (i, va, v) :: rest =>
      let after := { x with values := rest }
      if x.kind = .addX then some (.add va v, after)
      else if x.desc.isF4b then
        match rest with
        | (j, _, w) :: more =>
          if i % 2 = 0 ∧ j = i + 1 then some (.bytes va [some (BitVec.ofNat 8 (v + 16 * w))], { x with values := more })
          else if i % 2 = 0 then some (.nibble va (BitVec.ofNat 8 v) 1, after)
          else some (.nibble va (BitVec.ofNat 8 (16 * v)) 2, after)
        | [] => if i % 2 = 0 then some (.nibble va (BitVec.ofNat 8 v) 1, after) else some (.nibble va (BitVec.ofNat 8 (16 * v)) 2, after)
      else
        let bs := x.desc.storeBytes v
        if !x.bytewise then some (.bytes va (bs.map some), after)
        else
          some (.bytes (va + BitVec.ofNat 64 x.pos) [some (bs.getD x.pos 0)],
            if bs.length ≤ x.pos + 1 then { after with pos := 0 } else { x with pos := x.pos + 1 })

/-- One element update of VSTADD: a read-modify-write at the element's home (R230). -/
def State.updateElement (s : State) (h : HartKey) (x : Transfer) (va : Dword) (v : Nat) : Acc Unit :=
  let r := s.hartReach h .vector
  let n := x.elementSize
  match r.check .update va n with
  | some m => .miss m s
  | none =>
    if s.hartWaits h r .update va n x.maker then .wait
    else if inH va then
      match s.translateParts r .update true (pagesOf va n) with
      | (.error m, s) => .miss m s
      | (.ok l, s) =>
        match l with
        | [(some t, _)] =>
          if t.lost then .miss { cause := causeUce, value := va } s
          else if (s.poisonAt t.loc n).isSome then .ok () (s.poisonEvent r.core (hartMaster h) r.ctx va)
          else
            let old := s.homeRead t.key t.loc n
            let q := elementSum x.desc.type n x.rmode (bitsOfBytes (8 * n) old.1).toNat v
            let s := (old.2.noteStale h va n x.owner).homeStore t.key t.loc ((bytesOfBits (BitVec.ofNat (8 * n) q.1) n).map some)
            .ok () ((s.dropWord r.core (t.loc / 8)).raiseOn h q.2)
        | _ =>
          .ok () (s.logSide h (.add x.desc.type n x.rmode) va ((bytesOfBits (BitVec.ofNat (8 * n) v) n).map some) x.maker)
    else
      let old := s.arrayRead r.core (offset va) n
      let q := elementSum x.desc.type n x.rmode (bitsOfBytes (8 * n) old).toNat v
      .ok () ((s.arrayStore r.core (offset va) ((bytesOfBits (BitVec.ofNat (8 * n) q.1) n).map some)).raiseOn h q.2)

/-- Performs one unit of a store; `strips` where an open strip holds it (R249). -/
def State.put (s : State) (h : HartKey) (x : Transfer) (strips : Bool) : Put → Acc Unit
  | .bytes va bs => s.hartStore h .vector strips va bs x.maker
  | .nibble va b m => s.hartStoreNibble h strips va b m x.maker
  | .add va v => s.updateElement h x va v

/-- A store performs its next unit. -/
def State.putUnit (s : State) (h : HartKey) (x : Transfer) : Acc Transfer :=
  match x.nextPut with
  | none => .ok x s
  | some (p, x') =>
    match s.put h x false p with
    | .ok _ s => .ok x' s
    | .miss m s => .miss m s
    | .wait => .wait

/-! ### Steps -/

/-- Up to n + 1 units of a transfer; one that must wait or fails after others have been moved is left for the next step. -/
def State.moveUnits (f : State → Transfer → Acc Transfer) : Nat → State → Transfer → Acc Transfer
  | 0, s, x => f s x
  | n + 1, s, x =>
    match f s x with
    | .ok x s =>
      match State.moveUnits f n s x with
      | .ok x s => .ok x s
      | .miss _ _ => .ok x s
      | .wait => .ok x s
    | .miss m s => .miss m s
    | .wait => .wait

/-- Moves some units of a transfer, from the address given on: as many as nothing fixes, up to 128 bytes (R233). -/
def State.someUnits (s : State) (h : HartKey) (x : Transfer) (va : Dword) (f : State → Transfer → Acc Transfer) : Acc Transfer :=
  let single := x.bytewise || x.kind == .spill || x.kind == .fill || x.kind == .table
  let c := s.choose (if x.indexed then 32 else if single then 128 else 128 / x.elementSize)
  match c.2.addressWindow h x va (c.1 + 1) with
  | none => .wait
  | some s => State.moveUnits f c.1 s x

/-- A load moves on: it reads, or lands what it has read. -/
def State.loadStep (s : State) (h : HartKey) (x : Transfer) : Acc Transfer :=
  let read := fun (s : State) => match s.nextGet h x with
    | some e => s.someUnits h x e.2 fun s x => s.readUnit h x
    | none => .wait
  if x.kind = .table then (if x.allRead then s.tableWrite h x else read s)
  else if x.values.isEmpty || (x.whole && !x.allRead) then read s
  else if x.allRead then s.landStep h x
  else
    let c := s.choose 2
    if c.1 = 0 then read c.2 else c.2.landStep h x

/-- A store moves on: it takes rows, or writes what it has taken. -/
def State.storeStep (s : State) (h : HartKey) (x : Transfer) : Acc Transfer :=
  let write := fun (s : State) => match x.nextPut with
    | some (.bytes va _, _) => s.someUnits h x va fun s x => s.putUnit h x
    | some (.nibble va _ _, _) => s.someUnits h x va fun s x => s.putUnit h x
    | some (.add va _, _) => s.someUnits h x va fun s x => s.putUnit h x
    | none => .wait
  if x.taken then write s
  else if x.values.isEmpty || x.whole || x.kind = .spill then s.takeStep h x
  else
    let c := s.choose 2
    if c.1 = 0 then write c.2 else c.2.takeStep h x

/-- A VMEM transfer or stream block of a hart moves on. DESIGN CHOICE (log 4). -/
def State.moveTransfer (s : State) (h : HartKey) (x : Transfer) : Acc Transfer :=
  if x.storesRows then s.storeStep h x else s.loadStep h x

/-- Whether a transfer is done. -/
def Transfer.done (x : Transfer) : Bool :=
  if x.storesRows then x.taken && x.values.isEmpty && x.got.isEmpty
  else if x.kind = .table then decide (x.rows ≤ x.pos)
  else x.allRead && x.values.isEmpty

/-- A late fault of an access that has retired: the hart takes it at its next word. DEDUCED (log 25). -/
def State.lateMiss (s : State) (h : HartKey) (m : Miss) : Option State :=
  let t := s.hart h
  if m.cause = causeWait || t.overdue.isSome then none
  else some (s.modHart h fun t => { t with overdue := some (m.cause, m.value) })

/-- The access at the head of a hart's queue on qd moves on, if it can: not behind an ordering point, and with room in the side log.
DEDUCED (log 20). DEDUCED (log 25). -/
def State.vmemStep (s : State) (h : HartKey) : Option State :=
  let t := s.hart h
  match t.vmem with
  | [] => none
  | x :: rest =>
    if s.now < x.ready || t.keptBack x.owner 8 x.plainLoad then none
    else
      let room := fun (s : State) => if 64 < (s.hart h).sideLog.length then none else some s
      match x.word with
      | some i =>
        match s.directStep h i x with
        | .wait => none
        | .miss m s => s.lateMiss h m
        | .ok _ s => room (s.modHart h fun t => { t with vmem := rest })
      | none =>
        if x.done then some (s.modHart h fun t => { t with vmem := rest })
        else
          match s.moveTransfer h x with
          | .wait => none
          | .miss m s => s.lateMiss h m
          | .ok x s => room (s.modHart h fun t => { t with vmem := if x.done then rest else x :: rest })

/-- VMEM_TRANSFER: the head of the queue of a hart on qd moves on. -/
def execVmemTransfer (h : HartKey) (s : State) : Result := .next ((s.vmemStep h).getD s)

/-- TABLE_SLOT_WRITE: the table load at the head of the queue moves on, at last to write its slot (06 R156). -/
def execTableSlotWrite (h : HartKey) (s : State) : Result := .next ((s.vmemStep h).getD s)

/-! ## The words -/

/-- The share of the strip buffer of a hart, in granules (07 R163). -/
def Hart.share (t : Hart) : Nat := 4 * t.cols

/-- Appends a transfer to the queue of the running hart, and holds its next word for the check phase. Its last row lands no earlier
than the memory unit can move its bytes (R233, 09 R436). -/
def State.enqueue (s : State) (x : Transfer) (cost : Nat) : Flow :=
  let ready := s.now + max 1 cost
  let first := if inH x.addr then 14 else 4
  let x := { x with ready := ready, last := ready + first + (x.rows * x.elementSize + 127) / 128 }
  .retire ((s.modSelf fun t => { t with vmem := t.vmem ++ [x] }).delay ready)

/-- The next store units of a transfer that go to H-space, into the strip of the running hart; the argument bounds their number. -/
def State.stripUnits (s : State) (h : HartKey) : Nat → Transfer → Acc Unit
  | 0, _ => .ok () s
  | n + 1, x =>
    match x.nextPut with
    | none => .ok () s
    | some (p, x') =>
      match s.put h x true p with
      | .ok _ s => s.stripUnits h n x'
      | e => e

/-- A store under an open strip goes into the strip in its check phase, because the share is checked then (R249): all its H-space
rows, or STRIPOVF and none. Its rows for A-space are stored as usual. DEDUCED (log 22). -/
def State.stripStore (s : State) (x : Transfer) (cost : Nat) : Flow :=
  let h := s.me
  if !s.self.vmem.isEmpty then .hold s
  else
    let held := s.self.granules.length + s.self.draining.length
    let rows := List.range x.rows
    let all := s.takeRows h x rows
    let flags := s.storeFlags h x rows
    let mine := x.taking (all.filter fun e => inH e.2.1) x.rows
    let rest := x.taking (all.filter fun e => !inH e.2.1) x.rows
    (s.stripUnits h (x.rows * 8 + x.length) mine).flow s fun _ s' =>
      if s.self.share < s'.self.granules.length + s'.self.draining.length then
        .trap s causeStripovf (BitVec.ofNat 64 held)
      else
        let s' := s'.raiseOn h flags
        if x.kind = .spill || rest.values.isEmpty then .retire s' else s'.enqueue rest cost

/-- The check phase of a transfer and its start. -/
def State.startTransfer (s : State) (x : Transfer) : Flow :=
  let h := s.me
  let t := s.self
  let r := s.hartReach h .vector
  let strip := t.strip.isSome && x.storesRows
  let b := x.elementSize
  let go := fun (m : Option Miss × State) (x : Transfer) (cost : Nat) =>
    match m with
    | (some m, s') => if m.cause = causeWait then Flow.hold s else Flow.trap s' m.cause m.value
    | (none, s') => if strip && (x.indexed || inH x.addr) then s'.stripStore x cost else s'.enqueue x cost
  let indexed := fun (use : Access) (lax : Bool) (rows : List Nat) =>
    match s.window (clusterOfHart h) (windowUser h) (min 32 (s.rowCycles h x.rows)) with
    | none => Flow.hold s
    | some s' =>
      let addrs := s.readIndex h x rows
      let pages := (addrs.map fun e => (e.2 &&& ~~~0xFFFF, 1)).dedup
      go (s'.checkRows r x use lax strip addrs) { x with addrs := addrs }
        (s.rowCycles h x.rows + (rows.length + 7) / 8 + s.checkTime r pages)
  if !x.desc.isF4b && !x.bytewise && decide (x.addr.toNat % b ≠ 0) then .trap s causeAlign x.addr
  else
    let units := if x.kind = .spill then (x.length, 1) else if x.kind = .scale then ((x.rows + 31) / 32, 2)
      else if x.desc.isF4b then (x.length, 1) else (x.rows, b)
    let time := s.checkTime r (pagesOf x.addr x.length)
    match x.kind with
    | .load | .scale =>
      match s.checkAccess r .load false false x.addr units.2 units.1 with
      | (some m, s') => go (some m, s') x time
      | (none, s') =>
        let bad := if s'.poison.isEmpty && s'.rowPoison.isEmpty then none
          else ((List.range x.rows).filter (s.moves h x)).findSome? fun i => s'.poisonMiss r (s'.elementAddr h x i) b true
        go (bad, s') x time
    | .store | .spill => go (s.checkAccess r .store true strip x.addr units.2 units.1) x time
    | .fill =>
      match r.check .store x.addr 1 with
      | some m => .trap s m.cause m.value
      | none =>
        if !t.vmem.isEmpty || t.keptBack x.owner 8 true then .hold s
        else
          ((s.hartLoad h .vector x.addr 1 x.maker).clean x.addr).flow s fun f s' =>
            let format := (f.headD 0).toNat
            if 2 < format then .trap s' causeBounds x.addr
            else
              let n := 1 + imageLength x.desc.width.toNat x.rows format
              match s'.checkAccess r .load false false x.addr 1 n with
              | (some m, s') => go (some m, s') x time
              | (none, s') => go (s'.poisonMiss r x.addr n false, s') { x with format := format } (s.checkTime r (pagesOf x.addr n))
    | .loadX => indexed .load false ((List.range x.rows).filter (s.moves h x))
    | .storeX => indexed .store true ((List.range x.rows).filter (s.stores h x))
    | .addX => indexed .update true ((List.range x.rows).filter (s.stores h x))
    | .table | .ld | .st | .amo | .fold => .retire s

/-- The frame of a VMEM word over n rows: nothing for n = 0, FIELD, BOUNDS of the rows, STRIPF for VSTADD under a strip
(R251), then its check phase. -/
def vmemFlow (kind : TransferKind) (v : VReg) (ops : List (VReg × (FieldDesc → Bool))) (ix : Option VReg) (a n : Reg)
    (m : BitVec 1) (s : State) : Flow :=
  let k := s.rx n
  if k = 0 then .retire s
  else
    match s.self.checkFields [] ops with
    | some f => .trap s causeField (f.setWidth 64)
    | none =>
      if s.rowbase + k.toNat > 16384 then .trap s causeBounds k
      else if kind = .addX ∧ s.self.strip.isSome then .trap s causeStripf 4
      else
        s.startTransfer
          { kind := kind, desc := s.self.field v, index := (ix.map s.self.field).getD {}, row0 := s.rowbase, rows := k.toNat,
            addr := s.rx a, masked := m == 1, rmode := s.self.csr.rmode, owner := s.self.serial }

/-- Any type. -/
def anyField (_ : FieldDesc) : Bool := true
/-- The class of a field that indexed forms move. -/
def notF4b (d : FieldDesc) : Bool := !d.isF4b
/-- The class of VSTADD's field. -/
def addable (d : FieldDesc) : Bool :=
  (d.isInt && (d.width == 8 || d.width == 16 || d.width == 32 || d.width == 64)) || d.type == 2 || d.type == 3 || d.type == 4
/-- The class of a field of scale pairs. -/
def scalePairs (d : FieldDesc) : Bool := d.type == 1 && d.width == 16

/-- VLDA. -/
def execVlda (d : VReg) (a n : Reg) (m : BitVec 1) (s : State) : Result :=
  .next (runWord (.vlda d a n m) (vmemFlow .load d [(d, anyField)] none a n m) s)
/-- VLDA.sp. -/
def execVldaSp (d : VReg) (a n : Reg) (m : BitVec 1) (s : State) : Result :=
  .next (runWord (.vldaSp d a n m) (vmemFlow .scale d [(d, scalePairs)] none a n m) s)
/-- VSTA. -/
def execVsta (v : VReg) (a n : Reg) (m : BitVec 1) (s : State) : Result :=
  .next (runWord (.vsta v a n m) (vmemFlow .store v [(v, anyField)] none a n m) s)
/-- VLDX. -/
def execVldx (d i : VReg) (a n : Reg) (m : BitVec 1) (s : State) : Result :=
  .next (runWord (.vldx d i a n m) (vmemFlow .loadX d [(d, notF4b), (i, FieldDesc.isInt)] (some i) a n m) s)
/-- VSTX. -/
def execVstx (v i : VReg) (a n : Reg) (m : BitVec 1) (s : State) : Result :=
  .next (runWord (.vstx v i a n m) (vmemFlow .storeX v [(v, notF4b), (i, FieldDesc.isInt)] (some i) a n m) s)
/-- VSTADD. -/
def execVstadd (v i : VReg) (a n : Reg) (m : BitVec 1) (s : State) : Result :=
  .next (runWord (.vstadd v i a n m) (vmemFlow .addX v [(v, addable), (i, FieldDesc.isInt)] (some i) a n m) s)
/-- VSPILL. DEDUCED (log 20). -/
def execVspill (v : VReg) (a n : Reg) (s : State) : Result :=
  .next (runWord (.vspill v a n) (vmemFlow .spill v [(v, anyField)] none a n 0) s)
/-- VFILL. DEDUCED (log 20). -/
def execVfill (d : VReg) (a n : Reg) (s : State) : Result :=
  .next (runWord (.vfill d a n) (vmemFlow .fill d [(d, anyField)] none a n 0) s)

/-- TLOAD (06 R156). -/
def execTload (l : BitVec 2) (a : Reg) (s : State) : Result :=
  .next (runWord (.tload l a) (fun s =>
    let va := s.rx a
    let r := s.hartReach s.me .vector
    if va.toNat % 64 ≠ 0 then .trap s causeAlign va
    else
      match s.checkAccess r .load false false va 1 512 with
      | (some m, s') => if m.cause = causeWait then .hold s else .trap s' m.cause m.value
      | (none, s') =>
        match s'.poisonMiss r va 512 false with
        | some m => .trap s' m.cause m.value
        | none =>
          s'.enqueue { kind := .table, addr := va, slot := l.toNat, owner := s.self.serial }
            (s.checkTime r (pagesOf va 512))) s)

end Sys2Proof.Machine
end

