-- ==== Sys2Proof/Machine/Stream.lean ====
section
/-! DEFINITION. Bound streams: SBIND, SUNB, SBAR, SWAIT, SSTAT and their blocks (10 R235 to R240, 15 R346). -/

namespace Sys2Proof.Machine

/-- A stream of a hart. -/
def Hart.stream (t : Hart) (q : BitVec 3) : Option Binding := t.streams[q.toNat]'(by have := q.isLt; omega)

/-- Replaces a stream of a hart. -/
def State.setStream (s : State) (h : HartKey) (q : BitVec 3) (b : Option Binding) : State :=
  s.modHart h fun t => { t with streams := t.streams.set q.toNat b (by have := q.isLt; omega) }

/-- Whether a record breaks R236 for a field. -/
def Binding.broken (b : Binding) : Bool :=
  let n := b.desc.size
  let sel := selector b.addr
  decide (b.rows = 0 ∨ 16384 < b.rows ∨ b.blocks = 0) || decide (1 < (b.record.extractLsb' 192 8).toNat)
    || decide (1 < (b.record.extractLsb' 200 8).toNat) || (b.scale && b.stores) || b.record.extractLsb' 208 48 != 0
    || !(sel == 0 || sel == 10 || sel == 11)
    || (!b.desc.isF4b && (n == 1 || n == 2 || n == 4 || n == 8) && decide (b.addr.toNat % n ≠ 0))

/-- The transfer of block k of the binding of a stream, started by instruction number `owner` (R237). DEDUCED (log 21). -/
def Binding.transfer (b : Binding) (q : BitVec 3) (k owner : Nat) : Transfer :=
  { kind := if b.stores then .store else if b.scale then .scale else .load
    desc := b.desc, row0 := b.rowbase, rows := b.rows
    addr := b.addr + BitVec.ofNat 64 k * b.stride
    stream := q.toNat, owner := owner, edge := if b.stores then 0 else b.edge, index0 := k * b.rows }

/-- Starts the next block of a binding. -/
def Binding.start (b : Binding) (q : BitVec 3) (owner : Nat) : Binding :=
  { b with block := some (b.transfer q b.started owner), started := b.started + 1 }

/-- The check of a block in the background (R232): cause and value. -/
def State.blockCheck (s : State) (h : HartKey) (x : Transfer) : Option Miss × State :=
  let r := s.hartReach h .vector
  let units := if x.kind = .scale then ((x.rows + 31) / 32, 2) else if x.desc.isF4b then (x.length, 1) else (x.rows, x.desc.size)
  if !x.desc.isF4b && !x.bytewise && decide (x.addr.toNat % x.elementSize ≠ 0) then
    (some { cause := causeAlign, value := x.addr }, s)
  else if x.loads then s.checkAccess r .load false false x.addr units.2 units.1
  else s.checkAccess r .store true false x.addr units.2 units.1

/-- A block starts with its check phase: the first block of a load stream takes the window edge as it stands then, once and for all (15
R346). DEDUCED (log 21). -/
def Transfer.beginBlock (x : Transfer) (edge : Nat) : Transfer :=
  { x with edge := if x.loads && x.index0 == 0 && !x.edged then edge else x.edge, edged := true }

/-- The times of a block whose check has passed. -/
def State.openBlock (s : State) (h : HartKey) (x : Transfer) : Transfer :=
  let ready := s.now + s.checkTime (s.hartReach h .vector) (pagesOf x.addr x.length)
  { x with ready := ready, last := ready + (if inH x.addr then 14 else 4) + (x.rows * x.elementSize + 127) / 128 }

/-- The first block of a load stream that has not begun its check phase. -/
def Transfer.unbegun (x : Transfer) : Bool := x.loads && x.index0 == 0 && !x.edged

/-- Whether the first block of a load stream has still to start because the word after its SBIND, a KVWIN of the stream, has not issued
(15 R346). DEDUCED (log 21). -/
def State.windowNext (s : State) (h : HartKey) (q : BitVec 3) (x : Transfer) : Bool :=
  let t := s.hart h
  x.unbegun && decide (t.serial = x.owner + 1) &&
    match (State.fetch { s with cur := .hart h }).1 with
    | .ok w => (decode w).any fun i => match i with
      | .kvwin r _ => r == q
      | _ => false
    | .error _ => false

/-- A block in flight moves on: its check, then its rows; a store block takes its rows and stores them (R238), and only its accesses to
memory wait for ordering points. A failed check is kept for the hart's next SWAIT (R239). -/
def State.streamStep (s : State) (h : HartKey) (q : BitVec 3) : Option State :=
  let t := s.hart h
  match t.stream q with
  | none => none
  | some b =>
    match b.block with
    | none => none
    | some x =>
      let put := fun (s : State) (x : Transfer) =>
        if 64 < (s.hart h).sideLog.length then none
        else if x.done then some (s.setStream h q (some { b with block := none, moved := b.moved + 1 }))
        else some (s.setStream h q (some { b with block := some x }))
      let fail := fun (s : State) (m : Miss) =>
        if m.cause = causeWait then none
        else if x.taken then s.lateMiss h m
        else some (s.setStream h q (some { b with fault := some (m.cause, m.value) }))
      let kept := t.keptBack x.owner x.stream x.plainLoad
      if b.fault.isSome || decide (s.now < x.ready) || (kept && (x.loads || x.taken)) then none
      else if x.last = 0 then
        if s.windowNext h q x then none
        else
          let x := x.beginBlock b.edge
          match s.blockCheck h x with
          | (some m, s) =>
            if m.cause = causeWait then none
            else some (s.setStream h q (some { b with block := some x, fault := some (m.cause, m.value) }))
          | (none, s) => some (s.setStream h q (some { b with block := some (s.openBlock h x) }))
      else if x.done then put s x
      else
        match (if kept then s.takeStep h x else s.moveTransfer h x) with
        | .wait => none
        | .miss m s => fail s m
        | .ok x s => put s x

/-- STREAM_BLOCK: the block in flight of a stream moves on. -/
def execStreamBlock (h : HartKey) (q : BitVec 3) (s : State) : Result := .next ((s.streamStep h q).getD s)

/-- SBIND (R237). DEDUCED (log 21). -/
def execSbind (q : BitVec 3) (v : VReg) (b : Reg) (s : State) : Result :=
  .next (runWord (.sbind q v b) (fun s =>
    let at_ := s.firstX b
    let t := s.self
    let busy := match t.stream q with
      | some o => o.block.isSome && o.fault.isNone
      | none => false
    if busy then .hold s
    else if at_.toNat % 8 ≠ 0 then .trap s causeAlign at_
    else
      match s.recordMiss at_ 32 with
      | some m => .trap s m.cause m.value
      | none =>
        s.recordFlow at_ at_ 0 (fun load s => load s at_ 32) fun bytes s' =>
          let d := t.field v
          let new : Binding := { record := bitsOfBytes 256 bytes, desc := d, rowbase := s.rowbase }
          let ok := fun (d : FieldDesc) => !new.scale || scalePairs d
          match t.checkFields [] [(v, ok)] with
          | some f => .trap s' causeField (f.setWidth 64)
          | none =>
            if new.broken || decide (16384 < s.rowbase + new.rows) then .trap s' causeBounds at_
            else if !(Agency.may .vector (selector new.addr) (if new.stores then .store else .load)) then
              .trap s' causeProt new.addr
            else
              let next := s.recordDue at_
              let start := fun (b : Binding) =>
                let b := b.start q t.serial
                { b with block := b.block.map fun x => { x with ready := next + s.stall + 2 } }
              .retire ((s'.setStream s.me q (some (if new.stores then new else start new))).delay next)) s)

/-- SUNB (R240); a block whose check has failed is dropped with its fault. DEDUCED (log 21). -/
def execSunb (q : BitVec 3) (s : State) : Result :=
  .next (runWord (.sunb q) (fun s =>
    match s.self.stream q with
    | none => .retire s
    | some b => if b.block.isSome && b.fault.isNone then .hold s else .retire (s.setStream s.me q none)) s)

/-- SBAR (R240): an ordering point between the named streams. -/
def execSbar (a : Reg) (s : State) : Result :=
  .next (runWord (.sbar a) (fun s =>
    let m : BitVec 9 := (s.rx a).setWidth 9
    if m = 0 then .retire s
    else
      .retire (s.modSelf fun t =>
        { t with orders := t.orders ++
            [{ streams := m, loads := true, release := none, acquire := none, ready := s.now, owner := t.serial }] })) s)

/-- SWAIT (R238): waits for block number `waits`, which it starts where it has not been started. The fault of a block that it has started
is raised on it (R239). -/
def execSwait (q : BitVec 3) (s : State) : Result :=
  .next (runWord (.swait q) (fun s =>
    match s.self.stream q with
    | none => .retire s
    | some b =>
      if b.blocks ≤ b.waits then .retire s
      else if let some f := b.fault then .trap (s.setStream s.me q (some { b with raised := true })) f.1 f.2
      else
        let ready := decide (b.waits < b.started) &&
          (decide (b.waits < b.moved) || (b.stores && match b.block with
            | some x => x.taken
            | none => true))
        if ready then .retire (s.setStream s.me q (some { b with waits := b.waits + 1 }))
        else if b.started ≤ b.waits && b.block.isNone then (s.setStream s.me q (some (b.start q s.self.serial))).await .swait
        else .hold s) s)

/-- The status of a binding in the layout of SSTAT. -/
def Binding.status (b : Binding) (busy : Bool) : Nat :=
  1 + (if b.stores then 2 else 0) + (if busy then 4 else 0) + (if b.blocks ≤ b.moved then 8 else 0) + 2 ^ 32 * b.moved

/-- SSTAT (R240); a block whose check has failed is still in flight, since it starts again from its first row (R239). DEDUCED (log 21). -/
def execSstat (d : Reg) (q : BitVec 3) (s : State) : Result :=
  .next (runWord (.sstat d q) (fun s =>
    let v := match s.self.stream q with
      | none => 0
      | some b => BitVec.ofNat 64 (b.status b.block.isSome)
    .retire (s.resultAt d v (s.now + 4))) s)

end Sys2Proof.Machine
end

