-- ==== Sys2Proof/Machine/Kv.lean ====
section
/-! DEFINITION. Key-value blocks: pools and the block directory, and the KV words (15 R334 to R346). -/

namespace Sys2Proof.Machine

/-! ## Pools (R334) -/

/-- The pool that a descriptor gives, if it is enabled. -/
def poolOf (d : BitVec 128) : Option Pool :=
  let frames := (d.extractLsb' 64 17).toNat
  if d.getLsbD 0 && !d.getLsbD 51 && decide (1 ≤ frames ∧ frames ≤ 65536) then
    some { base := (d.extractLsb' 13 39).toNat, frames := frames, ctx := (d.extractLsb' 96 12).toNat }
  else none

/-- The enabled pool that is given for a context on a die pair, loaded or not. -/
def State.givenPool (s : State) (pair ctx : Nat) : Option Pool :=
  match (s.poolTable.get? (16 * ctx + pair)).bind poolOf with
  | some p => if p.ctx = ctx then some p else none
  | none => none

/-- The pool of a context that a directory holds. -/
def DiePair.pool (d : DiePair) (ctx : Nat) : Option Pool := d.pools.find? fun p => decide (p.ctx = ctx)

/-- Loads the descriptor of a context into the directory of a die pair, where it has a pool there and the directory has
room. -/
def State.loadPool (s : State) (pair ctx : Nat) : State :=
  match s.givenPool pair ctx with
  | none => s
  | some p =>
    s.modPair pair fun d => if (d.pool ctx).isSome || decide (64 ≤ d.pools.length) then d else { d with pools := d.pools ++ [p] }

/-- Removes a context from every directory (18 R372). -/
def State.dropPools (s : State) (ctx : Nat) : State :=
  { s with pairs := s.pairs.map fun (p : Nat × DiePair) =>
      (p.1, { p.2 with pools := p.2.pools.filter fun q => decide (q.ctx ≠ ctx),
                       entries := p.2.entries.filter fun e => decide (e.1 / 65536 ≠ ctx),
                       orphans := p.2.orphans.filter fun e => decide (e.1 / 65536 ≠ ctx) }) }

/-! ## The directory (R335 to R338) -/

/-- One bit of CRC-64/ECMA-182. -/
def crcBit (c : Dword) (b : Bool) : Dword := if (c.msb != b) then (c <<< 1) ^^^ 0x42F0E1EBA9EA3693 else c <<< 1
/-- The CRC of bytes, each most significant bit first, from a register value on. -/
def crcBytes (c : Dword) (l : List Byte) : Dword :=
  l.foldl (fun c b => [7, 6, 5, 4, 3, 2, 1, 0].foldl (fun c i => crcBit c (b.getLsbD i)) c) c

/-- The key of a context's frame. -/
def frameKey (ctx f : Nat) : Nat := 65536 * ctx + f

/-- The set of a hash. -/
def setOf (h : Dword) : Nat := h.toNat % 4096

/-- The lowest FREE frame of a pool. -/
def DiePair.freeFrame (d : DiePair) (p : Pool) : Option Nat :=
  (List.range p.frames).find? fun f => (d.entries.get? (frameKey p.ctx f)).isNone && (d.orphans.get? (frameKey p.ctx f)).isNone

/-- Removes an entry, and the parents whose last reference it held; the first argument bounds the cascade (R343). -/
def DiePair.remove (ctx : Nat) : Nat → DiePair → Nat → DiePair
  | 0, d, _ => d
  | n + 1, d, f =>
    match d.entries.get? (frameKey ctx f) with
    | none => d
    | some e =>
      let d := { d with entries := d.entries.erase (frameKey ctx f),
                        orphans := if e.pins = 0 then d.orphans else d.orphans.put (frameKey ctx f) e.pins.toNat }
      match e.parent with
      | none => d
      | some p =>
        match d.entries.get? (frameKey ctx p) with
        | none => d
        | some q =>
          let d := { d with entries := d.entries.put (frameKey ctx p) { q with refs := q.refs - 1 } }
          if q.refs = 1 then DiePair.remove ctx n d p else d

/-- The parent that an id names: none for the root, else its frame. -/
def parentOf (p : Dword) : Option Nat := if p = BitVec.allOnes 64 then none else some p.toNat

/-- How a step at the directory ends. -/
inductive KvEnd where
  | done (result : Dword) (d : DiePair)
  | bounds (value : Dword)

/-- The lookup of KVFIND and KVINS (R341). -/
def DiePair.lookup (d : DiePair) (p : Pool) (insert : Bool) (record : List Byte) (parent : Dword) : KvEnd :=
  let tokens : List (BitVec 32) := (List.range 16).map fun i => bitsOfBytes 32 ((record.drop (4 * i)).take 4)
  let from_ : Option Dword := match parentOf parent with
    | none => some (BitVec.ofNat 64 p.ctx)
    | some q => (d.entries.get? (frameKey p.ctx q)).map DirEntry.hash
  match from_ with
  | none => .done (BitVec.allOnes 64) d
  | some hp =>
    let h := crcBytes hp record
    let found := d.entries.find? fun (e : Nat × DirEntry) =>
      decide (e.2.ctx = p.ctx) && decide (setOf e.2.hash = setOf h) && decide (e.2.parent = parentOf parent) && decide (e.2.tokens = tokens)
    match found with
    | some e =>
      if e.2.refs = BitVec.allOnes 32 then .bounds (BitVec.ofNat 64 e.2.frame)
      else
        .done (BitVec.ofNat 64 (e.2.frame + if e.2.filled then 2 ^ 32 else 0))
          { d with entries := d.entries.put e.1 { e.2 with refs := e.2.refs + 1 } }
    | none =>
      if !insert then .done (BitVec.allOnes 64) d
      else
        match d.freeFrame p with
        | none => .done (BitVec.allOnes 64 - 1) d
        | some f =>
          if 16 ≤ (d.entries.filter fun (e : Nat × DirEntry) => decide (setOf e.2.hash = setOf h)).length then
            .done (BitVec.allOnes 64 - 2) d
          else
            let e : DirEntry := { ctx := p.ctx, frame := f, parent := parentOf parent, parentHash := hp, tokens := tokens, hash := h,
                                  refs := 1, pins := 0, filled := true }
            let entries := match parentOf parent with
              | none => d.entries
              | some q => d.entries.modify (frameKey p.ctx q) fun e => { e with refs := e.refs + 1 }
            .done (BitVec.ofNat 64 (f + 2 ^ 32 + 2 ^ 33)) { d with entries := entries.put (frameKey p.ctx f) e }

/-- KVPIN's step (R342). -/
def DiePair.pin (d : DiePair) (p : Pool) (f : Nat) : KvEnd :=
  match d.entries.get? (frameKey p.ctx f) with
  | none => .done (BitVec.allOnes 64) d
  | some e =>
    if e.pins = BitVec.allOnes 16 then .bounds (BitVec.ofNat 64 f)
    else
      .done (BitVec.ofNat 64 (8192 * (p.base + f)))
        { d with entries := d.entries.put (frameKey p.ctx f) { e with pins := e.pins + 1 } }

/-- KVUNPIN's step. -/
def DiePair.unpin (d : DiePair) (p : Pool) (f : Nat) : KvEnd :=
  let k := frameKey p.ctx f
  match d.entries.get? k, d.orphans.get? k with
  | some e, _ =>
    if e.pins = 0 then .bounds (BitVec.ofNat 64 f)
    else .done ((e.pins - 1).setWidth 64) { d with entries := d.entries.put k { e with pins := e.pins - 1 } }
  | none, some n =>
    .done (BitVec.ofNat 64 (n - 1)) { d with orphans := if n ≤ 1 then d.orphans.erase k else d.orphans.put k (n - 1) }
  | none, none => .bounds (BitVec.ofNat 64 f)

/-- KVREF's step (R343). -/
def DiePair.adjust (d : DiePair) (p : Pool) (f : Nat) (delta : Int) (ready : Bool) : KvEnd :=
  match d.entries.get? (frameKey p.ctx f) with
  | none => .done (BitVec.allOnes 64) d
  | some e =>
    let n := (e.refs.toNat : Int) + delta
    if n < 0 ∨ 2 ^ 32 - 1 < n then .bounds (BitVec.ofNat 64 f)
    else
      let e := { e with refs := BitVec.ofNat 32 n.toNat, filled := e.filled && !ready }
      let d := { d with entries := d.entries.put (frameKey p.ctx f) e }
      .done (BitVec.ofNat 64 (n.toNat + if e.filled then 2 ^ 32 else 0))
        (if n = 0 then d.remove p.ctx (d.entries.length + 1) f else d)

/-! ## The words (R340 to R344) -/

/-- The first check of R340: the pool of the running hart, or the value of its PROT. -/
def State.myPool (s : State) : Except Dword Pool :=
  let pair := pairOfCore s.cur.core
  match (s.pair pair).pool s.myCtx with
  | some p => .ok p
  | none => .error (if (s.givenPool pair s.myCtx).isSome then 1 else 0)

/-- Whether a result is a block with FILL = 0. -/
def settled (v : Dword) : Bool := !v.msb && !v.getLsbD 32

/-- The step at the directory of the running hart's die pair; `acq` says whether a block with FILL = 0 makes it an acquire at
scope d. DEDUCED (log 38). -/
def State.kvStep (s : State) (rd : Reg) (acq : Bool) (step : DiePair → KvEnd) : Flow :=
  let pair := pairOfCore s.cur.core
  match step (s.pair pair) with
  | .bounds v => .trap s causeBounds v
  | .done v d =>
    let s := s.modPair pair fun _ => d
    .retire ((if acq && settled v then s.acquireBy s.cur 3 else s).resultAt rd v s.now)

/-- A KV word that has passed its checks and its release: the hart is held until the cycle of its step, which comes `due` cycles
after now, with x[xa] and x[xb] as read at its issue (R340, R344). Steps of one directory are made in the order of their cycles; those of one cycle in the order in which the
harts are asked. DEDUCED (log 38). -/
def State.kvSend (s : State) (due : Nat) (record : List Byte) (a b : Dword) : Flow := s.await (.directory (s.now + due) record a b)

/-- The words of R340, with x[xa] and x[xb] as read at their issue: `start` checks and sends; once the cycle of the step has come, `step`
makes it with the token record. -/
def kvFlow (a b : Reg) (start : Dword → Dword → State → Flow) (step : List Byte → Dword → Dword → State → Flow) (s : State) : Flow :=
  match s.self.wait with
  | .directory due record a b => if s.now < due then .hold s else step record a b s
  | .releasing a b => start a b s
  | _ => start (s.firstX a) (s.secondX b) s

/-- KVFIND and KVINS. -/
def kvLookup (i : Instr) (insert : Bool) (d a b : Reg) (s : State) : Result :=
  .next (runWord i (kvFlow a b
    (fun at_ parent s =>
      match s.myPool with
      | .error v => .trap s causeProt v
      | .ok p =>
        if at_.toNat % 64 ≠ 0 then .trap s causeAlign at_
        else if !inH at_ then .trap s causeProt at_
        else
          s.recordFlow at_ at_ parent (fun load s => load s at_ 64) fun record s' =>
            if parent ≠ BitVec.allOnes 64 ∧ p.frames ≤ parent.toNat then .trap s' causeBounds parent
            else s'.kvSend (s.recordDue at_ + 60 - s.now) record at_ parent)
    (fun record _ parent s =>
      match s.myPool with
      | .error v => .trap s causeProt v
      | .ok p => s.kvStep d true fun q => q.lookup p insert record parent)) s)

/-- KVFIND. -/
def execKvfind (d a b : Reg) (s : State) : Result := kvLookup (.kvfind d a b) false d a b s
/-- KVINS. -/
def execKvins (d a b : Reg) (s : State) : Result := kvLookup (.kvins d a b) true d a b s

/-- The frame of a word that names a block: its pool and its id. -/
def State.kvBlock (s : State) (id : Dword) (f : Pool → Nat → Flow) : Flow :=
  match s.myPool with
  | .error v => .trap s causeProt v
  | .ok p => if p.frames ≤ id.toNat then .trap s causeBounds id else f p id.toNat

/-- A word that names a block, with x[xa] and x[xb]: its checks, its release where it is one, and its step. -/
def kvBlockFlow (d a b : Reg) (acq : Bool) (check : Dword → Option Miss) (releases : Dword → Bool)
    (step : Pool → Nat → Dword → DiePair → KvEnd) : State → Flow :=
  kvFlow a b
    (fun id v s => s.kvBlock id fun _ _ =>
      match check v with
      | some m => .trap s m.cause m.value
      | none =>
        if !releases v then s.kvSend 40 [] id v
        else
          match s.release s.me 3 s.self.serial with
          | .wait => s.await (.releasing id v)
          | .miss m s => .trap s m.cause m.value
          | .ok _ s => s.kvSend 40 [] id v)
    (fun _ id v s => s.kvBlock id fun p f => s.kvStep d acq (step p f v))

/-- KVPIN. -/
def execKvpin (d a : Reg) (s : State) : Result :=
  .next (runWord (.kvpin d a) (kvBlockFlow d a 0 false (fun _ => none) (fun _ => false) fun p f _ q => q.pin p f) s)

/-- KVUNPIN: a release at scope d before its step. -/
def execKvunpin (d a : Reg) (s : State) : Result :=
  .next (runWord (.kvunpin d a) (kvBlockFlow d a 0 false (fun _ => none) (fun _ => true) fun p f _ q => q.unpin p f) s)

/-- The delta of KVREF. -/
def refDelta (v : Dword) : Int := (v.extractLsb' 0 32).toInt

/-- KVREF: a release with a negative delta or with READY. -/
def execKvref (d a b : Reg) (s : State) : Result :=
  .next (runWord (.kvref d a b) (kvBlockFlow d a b true
    (fun v => if v.extractLsb' 33 31 ≠ 0 then some { cause := causeBounds, value := v } else none)
    (fun v => decide (refDelta v < 0) || v.getLsbD 32)
    fun p f v q => q.adjust p f (refDelta v) (v.getLsbD 32)) s)

/-- KVWIN: the edge of a load stream, for the blocks that start after it (R346). -/
def execKvwin (q : BitVec 3) (a : Reg) (s : State) : Result :=
  .next (runWord (.kvwin q a) (fun s =>
    match s.self.stream q with
    | none => .retire s
    | some b => if b.stores then .retire s else .retire (s.setStream s.me q (some { b with edge := (s.rx a).toNat }))) s)

end Sys2Proof.Machine
end

