-- ==== Sys2Proof/Machine/Atomic.lean ====
section
/-! DEFINITION. Atomic operations, folds and fences (10 R241 to R245, 11 R259, R271), and the arrival of stores at their
homes (11 R254). -/

namespace Sys2Proof.Machine

/-- An AMO (R242, R243): its operands are read at issue, and it is carried on qd. -/
def amoWord (i : Instr) (d a b : Reg) (s : State) : Result :=
  .next (runWord i (fun s =>
    let va := s.rx a
    if va.toNat % scalarBytes i ≠ 0 then .trap s causeAlign va
    else s.issueDirect i (s.direct .amo i va (s.rx b) (s.rx d) (s.now + if (orderingOf i).1 then 2 else 0)) (some d)) s)

/-- AMOADD. -/
def execAmoadd (d a b : Reg) (o : BitVec 2) (w : BitVec 1) (s : State) : Result :=
  amoWord (.amoadd d a b o w) d a b s
/-- AMOAND. -/
def execAmoand (d a b : Reg) (o : BitVec 2) (w : BitVec 1) (s : State) : Result :=
  amoWord (.amoand d a b o w) d a b s
/-- AMOOR. -/
def execAmoor (d a b : Reg) (o : BitVec 2) (w : BitVec 1) (s : State) : Result :=
  amoWord (.amoor d a b o w) d a b s
/-- AMOXOR. -/
def execAmoxor (d a b : Reg) (o : BitVec 2) (w : BitVec 1) (s : State) : Result :=
  amoWord (.amoxor d a b o w) d a b s
/-- AMOSWAP. -/
def execAmoswap (d a b : Reg) (o : BitVec 2) (w : BitVec 1) (s : State) : Result :=
  amoWord (.amoswap d a b o w) d a b s
/-- AMOCAS. -/
def execAmocas (d a b : Reg) (o : BitVec 2) (w : BitVec 1) (s : State) : Result :=
  amoWord (.amocas d a b o w) d a b s
/-- AMOMIN. -/
def execAmomin (d a b : Reg) (o : BitVec 2) (w u : BitVec 1) (s : State) : Result :=
  amoWord (.amomin d a b o w u) d a b s
/-- AMOMAX. -/
def execAmomax (d a b : Reg) (o : BitVec 2) (w u : BitVec 1) (s : State) : Result :=
  amoWord (.amomax d a b o w u) d a b s

/-! ## Folds (R244) -/

/-- A fold by the running hart, carried on qd. -/
def foldWord (i : Instr) (a b : Reg) (s : State) : Result :=
  .next (runWord i (fun s =>
    let va := s.rx a
    if va.toNat % 4 ≠ 0 then .trap s causeAlign va
    else s.issueDirect i (s.direct .fold i va (s.rx b) 0 (s.now + if (orderingOf i).1 then 2 else 0)) none) s)

/-- AMAXF. -/
def execAmaxf (a b : Reg) (s : State) : Result := foldWord (.amaxf a b) a b s
/-- AMAXF.REL. -/
def execAmaxfRel (a b : Reg) (s : State) : Result := foldWord (.amaxfRel a b) a b s

/-! ## Fences (R245, 11 R272) -/

/-- A fence: an ordering point over every stream of the hart, whose release takes 2 cycles. After a FENCE a taken branch or jump lets
fetch see the stores before it (01 R49). -/
def fenceWord (i : Instr) (rel acq : Bool) (c : BitVec 3) (s : State) : Result :=
  .next (runWord i (fun s =>
    .retire (s.modSelf fun t =>
      { t with
        orders := t.orders ++ [{ streams := 511, loads := acq, stores := rel, release := if rel then some c.toNat else none,
                                 acquire := if acq then some c.toNat else none,
                                 ready := s.now + (if rel then 2 else 0), owner := t.serial }]
        fenced := if rel && acq then t.serial + 1 else t.fenced })) s)

/-- ACQ. -/
def execAcq (c : BitVec 3) (s : State) : Result := fenceWord (.acq c) false true c s
/-- REL. -/
def execRel (c : BitVec 3) (s : State) : Result := fenceWord (.rel c) true false c s
/-- FENCE. -/
def execFence (c : BitVec 3) (s : State) : Result := fenceWord (.fence c) true true c s

/-- Whether the loads, AMOs and folds of a hart up to an instruction have returned. -/
def Hart.returned (t : Hart) (now owner : Nat) : Bool :=
  t.sc.board.all fun w => w.kind != .memory || w.due now || match w.owner with
    | some o => decide (owner < o)
    | none => false

/-- Whether the accesses of the named streams that are not younger than an ordering point are performed: loads, AMOs and folds, and
where the point says so stores, those that drain or wait in the side log among them (R240, R245, 11 R263, R264). -/
def Hart.pointDue (t : Hart) (now : Nat) (p : OrderPoint) : Bool :=
  let passed := fun (x : Transfer) => decide (p.owner < x.owner) || (!p.stores && (x.storesRows || x.kind == .st))
  (!p.streams.getLsbD 8 ||
    (t.vmem.all passed && (!p.stores || t.draining.isEmpty) && t.returned now p.owner)) &&
  (t.blocks ++ t.failedBlocks).all (fun x => !p.streams.getLsbD x.stream || passed x) &&
  t.sideLog.all fun e => !p.streams.getLsbD e.stream || decide (p.owner < e.owner) || (!p.stores && decide (e.kind ≠ .fold))

/-- A push fills the entry that it has taken (19 R403). DEDUCED (log 33). -/
def State.fillEntry (s : State) (h : HartKey) (n : Nat) (v : Row) : State :=
  let fill := fun (f : Ferry) => { f with entries := f.entries.map fun e => if e.1 = n then (n, some v) else e }
  s.modTwin (twinOfCore (coreOfHart h)) fun t =>
    if upperCore (coreOfHart h) then { t with down := fill t.down } else { t with up := fill t.up }

/-- Replaces or drops an ordering point of a hart, by the number of its instruction. -/
def State.setOrder (s : State) (h : HartKey) (owner : Nat) (p : Option OrderPoint) : State :=
  s.modHart h fun t => { t with orders := t.orders.flatMap fun o => if o.owner = owner then p.toList else [o] }

/-- An ordering point of a hart moves on, if it can: once its older accesses are performed its release is made and a push is filled;
an arrival then counts; an acquire invalidates, 16 cycles later from scope c on (R245, 11 R272). A late fault is taken at the hart's next word. -/
def State.orderMove (s : State) (h : HartKey) (p : OrderPoint) : Option State :=
  let t := s.hart h
  if s.now < p.ready then none
  else if p.settled then
    if p.arrives then none
    else some ((match p.acquire with
      | some c => s.acquire (coreOfHart h) c
      | none => s).setOrder h p.owner none)
  else if !t.pointDue s.now p then none
  else
    match (match p.release with
      | some c => s.release h c p.owner
      | none => .ok () s) with
    | .wait => none
    | .miss m s => s.lateMiss h m
    | .ok _ s =>
      let s := match p.fill with
        | some f => s.fillEntry h f.1 f.2
        | none => s
      match p.acquire with
      | none => some (s.setOrder h p.owner (if p.arrives then some { p with release := none, settled := true } else none))
      | some c =>
        some (s.setOrder h p.owner
          (some { p with release := none, fill := none, settled := true, ready := if c = 0 then s.now else s.now + 16 }))

/-- The oldest ordering point of a hart that can move on does so. -/
def State.orderStep (s : State) (h : HartKey) : Option State := (s.hart h).orders.findSome? (s.orderMove h)

/-! ## HOME_WRITE (11 R254) -/

/-- A store of a hart in flight arrives at its home, which revokes other owners, unless a running command owns its line (R265).
Nothing orders the stores of a hart at different words (R227, R260), so any of them may be the next. DEDUCED (log 59). DESIGN
CHOICE (log 4). -/
def State.homeStep (s : State) (h : HartKey) : Option State :=
  let mine := s.flight.filter fun f => decide (f.hart = h)
  if mine.isEmpty then none
  else
    let c := s.choose mine.length
    match mine[c.1]? with
    | none => none
    | some f => if s.lineBusy (8 * f.word) 8 none then none else some (c.2.settleWhen fun g => decide (g = f))

/-- HOME_WRITE: a store of a hart on its way is written at its home. -/
def execHomeWrite (h : HartKey) (s : State) : Result := .next ((s.homeStep h).getD s)

end Sys2Proof.Machine
end

