-- ==== Sys2Proof/Machine/Buffers.lean ====
section
/-! DEFINITION. Circular buffers (09 R209, R210, 10 R246, R247). -/

namespace Sys2Proof.Machine

/-- A circular buffer of a core. -/
def State.buffer (s : State) (core : CoreId) (c : BitVec 4) : Option CircBuf :=
  (s.core core).cbs[c.toNat]'(by have := c.isLt; omega)

/-- Replaces a circular buffer of a core. -/
def State.setBuffer (s : State) (core : CoreId) (c : BitVec 4) (b : CircBuf) : State :=
  s.modCore core fun v => { v with cbs := v.cbs.set c.toNat (some b) (by have := c.isLt; omega) }

/-- The address of slot i. -/
def CircBuf.slot (b : CircBuf) (i : Nat) : Dword := b.base + BitVec.ofNat 64 (i * b.slotSize)

/-- A producer takes n free slots. -/
def CircBuf.take (b : CircBuf) (n : Nat) : CircBuf :=
  { b with free := b.free - n, hp := b.hp + n, pidx := (b.pidx + n) % b.slots }
/-- A producer publishes the oldest slot it has taken. -/
def CircBuf.publish (b : CircBuf) : CircBuf := { b with hp := b.hp - 1, filled := b.filled + 1 }
/-- A consumer takes n filled slots. -/
def CircBuf.pop (b : CircBuf) (n : Nat) : CircBuf :=
  { b with filled := b.filled - n, hc := b.hc + n, cidx := (b.cidx + n) % b.slots }
/-- A consumer returns the oldest slot it has taken. -/
def CircBuf.giveBack (b : CircBuf) : CircBuf := { b with hc := b.hc - 1, free := b.free + 1 }

/-- tval of a buffer word: its buffer number. -/
def bufferValue (c : BitVec 4) : Dword := c.setWidth 64

/-- The frame of a CB word other than CBDEF: the buffer must be defined, by the context of the hart. -/
def bufferWord (i : Instr) (c : BitVec 4) (f : CircBuf → State → Flow) (s : State) : Result :=
  .next (runWord i (fun s =>
    match s.buffer s.cur.core c with
    | none => .trap s causeBounds (bufferValue c)
    | some b => if b.ctx ≠ s.myCtx then .trap s causeProt (bufferValue c) else f b s) s)

/-- Takes n slots: waits for them, gives the first one's address, and acquires at core scope. -/
def takeSlots (d : Reg) (c : BitVec 4) (n : Dword) (have_ : CircBuf → Nat) (index : CircBuf → Nat)
    (take : CircBuf → Nat → CircBuf) (b : CircBuf) (s : State) : Flow :=
  if n = 0 ∨ b.slots < n.toNat then .trap s causeBounds n
  else if have_ b < n.toNat then .hold s
  else
    let s := s.setBuffer s.cur.core c (take b n.toNat)
    .retire ((s.resultAt d (b.slot (index b)) (s.now + 4)).acquireBy s.cur 1)

/-- Returns a slot: releases at core scope first. -/
def returnSlot (c : BitVec 4) (held : CircBuf → Nat) (give : CircBuf → CircBuf) (b : CircBuf) (s : State) : Flow :=
  if held b = 0 then .trap s causeBounds (bufferValue c)
  else (s.release s.me 1 s.self.serial).flow s fun _ s => .retire (s.setBuffer s.cur.core c (give b))

/-- CBGET. -/
def execCbget (d : Reg) (c : BitVec 4) (s : State) : Result :=
  bufferWord (.cbget d c) c (takeSlots d c 1 CircBuf.free CircBuf.pidx CircBuf.take) s
/-- CBGETN. -/
def execCbgetn (d : Reg) (c : BitVec 4) (n : Reg) (s : State) : Result :=
  bufferWord (.cbgetn d c n) c (fun b s => takeSlots d c (s.rx n) CircBuf.free CircBuf.pidx CircBuf.take b s) s
/-- CBPUT. -/
def execCbput (c : BitVec 4) (s : State) : Result :=
  bufferWord (.cbput c) c (returnSlot c CircBuf.hp CircBuf.publish) s
/-- CBPOP. -/
def execCbpop (d : Reg) (c : BitVec 4) (s : State) : Result :=
  bufferWord (.cbpop d c) c (takeSlots d c 1 CircBuf.filled CircBuf.cidx CircBuf.pop) s
/-- CBPOPN. -/
def execCbpopn (d : Reg) (c : BitVec 4) (n : Reg) (s : State) : Result :=
  bufferWord (.cbpopn d c n) c (fun b s => takeSlots d c (s.rx n) CircBuf.filled CircBuf.cidx CircBuf.pop b s) s
/-- CBREL. -/
def execCbrel (c : BitVec 4) (s : State) : Result :=
  bufferWord (.cbrel c) c (returnSlot c CircBuf.hc CircBuf.giveBack) s
/-- CBSTAT. -/
def execCbstat (d : Reg) (c : BitVec 4) (s : State) : Result :=
  bufferWord (.cbstat d c) c (fun b s =>
    .retire (s.resultAt d
      (BitVec.ofNat 64 (b.free % 2048 + 2 ^ 16 * (b.filled % 2048) + 2 ^ 32 * b.pidx + 2 ^ 48 * b.cidx + 2 ^ 63)) (s.now + 4))) s

/-- The buffer that a definition record describes, where the record keeps R209. DEDUCED (log 26). -/
def State.bufferOf (s : State) (h : HartKey) (record : BitVec 128) : Option CircBuf :=
  let base := record.extractLsb' 0 64
  let size := (record.extractLsb' 64 32).toNat
  let slots := (record.extractLsb' 96 16).toNat
  if base.extractLsb' 0 6 ≠ 0 ∨ size % 64 ≠ 0 ∨ size < 64 ∨ 1048576 < size ∨ slots = 0 ∨ 1024 < slots
      ∨ record.extractLsb' 112 16 ≠ 0 then none
  else if ((s.hartReach h .vector).check .load base (size * slots)).isSome then none
  else
    some { base := base, slotSize := size, slots := slots, ctx := (s.hart h).ctx, free := slots, filled := 0 }

/-- Whether an engine command with a buffer as its destination is in flight on a core: it has started and has not completed. -/
def CoreState.producing (v : CoreState) (c : BitVec 4) : Bool :=
  v.chains.toList.any fun q => q.cmds.any fun k =>
    decide (k.stage ≠ .done) && match k.cbSlot with
      | some x => decide (x.1 = c.toNat)
      | none => false

/-- CBDEF. -/
def execCbdef (c : BitVec 4) (b : Reg) (s : State) : Result :=
  .next (runWord (.cbdef c b) (fun s =>
    let at_ := s.firstX b
    match s.recordMiss at_ 16 with
    | some m => .trap s m.cause m.value
    | none =>
      s.recordFlow at_ at_ 0 (fun load s => load s at_ 16) fun bytes s' =>
        match s'.bufferOf s.me (bitsOfBytes 128 bytes) with
        | none => .trap s' causeBounds at_
        | some q =>
          if (s.core s.cur.core).producing c then .hold s
          else .retire ((s'.setBuffer s.cur.core c q).delay (s.recordDue at_))) s)

end Sys2Proof.Machine
end

