-- ==== Sys2Proof/Machine/Chain.lean ====
section
/-! DEFINITION. Command chains: command records, the CQ words, the start of commands, parking and freezing, and completion
(12 R273 to R286, R290, R292, 17 R363). -/

namespace Sys2Proof.Machine

/-! ## Chains -/

/-- The number of a chain in its core: 0 to 15, 16 for the system chain. -/
def chainNumber (c : Reg) : Fin 17 := if h : c.toNat < 17 then ⟨c.toNat, h⟩ else 16

/-- A chain of a core. -/
def State.chain (s : State) (core : CoreId) (i : Fin 17) : Chain := (s.core core).chains[i]
/-- Changes a chain of a core. -/
def State.modChain (s : State) (core : CoreId) (i : Fin 17) (f : Chain → Chain) : State :=
  s.modCore core fun v => { v with chains := v.chains.set i (f v.chains[i]) }

/-- Sequence number a is at or after b in serial order (R273). -/
def serialLe (b a : BitVec 32) : Bool := decide ((a - b).toNat < 2 ^ 31)

/-- PEND: commands appended and not completed. -/
def Chain.pend (c : Chain) : Nat := (c.cmds.filter fun k => decide (k.stage ≠ .done)).length

/-- Whether a stage holds a park slot. -/
def CmdStage.isParked : CmdStage → Bool
  | .parked _ _ => true
  | _ => false
/-- Whether a stage holds one of the engine's execution slots; a command that has been handed on to the matrix, collective or stream engine
holds none. DESIGN CHOICE (log 28). -/
def CmdStage.executing : CmdStage → Bool
  | .running => true
  | .parking _ => true
  | .frozen => true
  | _ => false

/-- Changes a command of a chain. -/
def State.modCmd (s : State) (core : CoreId) (i : Fin 17) (seq : BitVec 32) (f : Cmd → Cmd) : State :=
  s.modChain core i fun c => { c with cmds := c.cmds.map fun k => if k.seq = seq then f k else k }

/-- The context of a core's partition that holds the turn and is not being stopped (18 R374, R376). -/
def State.activeCtx (s : State) (core : CoreId) : Option Nat := do
  let p ← (s.pair (pairOfCore core)).part
  let v := s.partition p
  if v.held ∨ v.switch = some .stopping ∨ v.switch = some .leaving then none
  else
    let q ← v.turn
    let d ← s.queues.get? q
    pure d.ctx

/-! ## Command records (R275) -/

/-- The header of a record, bytes 0 to 15, and its CREC. -/
structure Header where
  at_ : Dword
  bits : BitVec 128
  crec : Dword
  /-- Appended by the host, which counts as EXPL = 1 (R277). -/
  byHost : Bool := false
deriving DecidableEq, Repr

/-- NEXT. -/
def Header.next (r : Header) : Dword := r.bits.extractLsb' 0 64
/-- OP. -/
def Header.op (r : Header) : Nat := (r.bits.extractLsb' 64 8).toNat
/-- A flag of byte 9: 0 FENCE, 1 SIGNAL, 2 FOLLOW, 3 CBDST. -/
def Header.flag (r : Header) (i : Nat) : Bool := r.bits.getLsbD (72 + i)
/-- RM of the record. -/
def Header.rm (r : Header) : BitVec 3 := r.bits.extractLsb' 80 3
/-- EXPL. -/
def Header.expl (r : Header) : Bool := r.byHost || r.bits.getLsbD 87

/-- COPY, GATHER or FILL: the opcodes that FOLLOW and CBDST accept. -/
def movesRows (op : Nat) : Bool := op == 1 || op == 2 || op == 4

/-- Whether a header breaks R279 by itself. DEDUCED (log 28). -/
def Header.broken (r : Header) : Bool :=
  decide (r.op = 0 ∨ 9 < r.op) || r.bits.extractLsb' 76 4 != 0 || r.bits.extractLsb' 83 4 != 0 || r.bits.extractLsb' 88 8 != 0
    || (r.expl && decide (4 < r.rm.toNat)) || (r.flag 1 && r.crec.extractLsb' 0 4 != 0)
    || (r.flag 2 && (!movesRows r.op || r.next == 0)) || (r.flag 3 && !movesRows r.op)

/-- Reads a list of records from an address on, with a reader of bytes, newest first in `done`; the first argument bounds
its length. -/
def readList (read : State → Dword → Nat → Acc (List Byte)) : Nat → State → Dword → List Header → Acc (List Header)
  | 0, s, _, done =>
    match done with
    | r :: _ => .miss { cause := causeBounds, value := r.at_ } s
    | [] => .ok [] s
  | f + 1, s, a, done =>
    if a.toNat % 64 ≠ 0 then .miss { cause := causeAlign, value := a } s
    else if !inH a then .miss { cause := causeProt, value := a } s
    else
      match read s a 16 with
      | .wait => .wait
      | .miss m s => .miss m s
      | .ok head s =>
        match read s (a + 56) 8 with
        | .wait => .wait
        | .miss m s => .miss m s
        | .ok crec s =>
          let r : Header := { at_ := a, bits := bitsOfBytes 128 head, crec := bitsOfBytes 64 crec }
          let unfollowed := match done with
            | p :: _ => p.flag 2 && decide (r.op ≠ 7)
            | [] => false
          if unfollowed then .miss { cause := causeBounds, value := (done.head?.map Header.at_).getD a } s
          else if r.broken then .miss { cause := causeBounds, value := a } s
          else if 256 ≤ done.length then .miss { cause := causeBounds, value := a } s
          else if r.next = 0 then .ok (r :: done).reverse s
          else readList read f s r.next (r :: done)

/-- The command of a record at append (R277, R279); `rm` is the mode captured where the record gives none. -/
def Header.cmd (r : Header) (seq : BitVec 32) (rm : BitVec 3) (team : Option (Nat × Nat)) (hart : Option HartKey)
    (follows : Bool) : Cmd :=
  { seq := seq, at_ := r.at_, rm := if r.expl then r.rm else rm, op := r.op, fence := r.flag 0, signal := r.flag 1,
    follow := r.flag 2, cbdst := r.flag 3, crec := r.crec, following := follows, team := team, hart := hart }

/-- The commands of a list, numbered from `seq` on. -/
def cmdsOf (rm : BitVec 3) (team : Option (Nat × Nat)) (hart : Option HartKey) : BitVec 32 → Bool → List Header → List Cmd
  | _, _, [] => []
  | seq, follows, r :: rs => r.cmd seq rm team hart follows :: cmdsOf rm team hart (seq + 1) (r.flag 2) rs

/-- Appends commands to a chain. -/
def Chain.append (c : Chain) (ks : List Cmd) : Chain :=
  { c with cmds := c.cmds ++ ks, appSeq := c.appSeq + BitVec.ofNat 32 ks.length }

/-- Hands a chain's batch to the engine (R280); its first command starts at a cycle. -/
def Chain.handOver (c : Chain) (ready : Nat) : Chain :=
  { c with cmds := c.cmds.map fun k => if k.stage = .batch then { k with stage := .queued, ready := ready } else k }

/-- The bytes that an append stores into a record: SEQ at bytes 12 to 15, RM in byte 10. -/
def Header.stores (r : Header) (k : Cmd) : List (Dword × List Byte) :=
  [(r.at_ + 12, bytesOfBits k.seq 4), (r.at_ + 10, [(r.bits.extractLsb' 80 8 &&& ~~~7) ||| k.rm.setWidth 8])]

/-! ## The CQ words (R278 to R283) -/

/-- The frame of a CQ word: the chain must be bound to the hart's context; the steward names its system chain alone. DEDUCED
(log 24). -/
def chainWord (i : Instr) (c : Reg) (f : Fin 17 → State → Flow) (s : State) : Result :=
  .next (runWord i (fun s =>
    if 17 ≤ c.toNat then .trap s causeIll s.wordValue
    else
      let n := chainNumber c
      if (s.chain s.cur.core n).ctx = some s.myCtx then f n s else .trap s causeProt (c.setWidth 64)) s)

/-- Performs a list of stores of the running agent. -/
def State.storeAll (s : State) : List (Dword × List Byte) → Acc Unit
  | [] => .ok () s
  | p :: ps =>
    match s.store p.1 p.2 with
    | .ok _ s => s.storeAll ps
    | e => e

/-- The first fault of stores, before any of them. -/
def State.storesMiss (s : State) (r : Reach) : List (Dword × List Byte) → Option Miss × State
  | [] => (none, s)
  | p :: ps =>
    match s.checkAccess r .store false false p.1 p.2.length 1 with
    | (some m, s) => (some m, s)
    | (none, s) => s.storesMiss r ps

/-- The reach of the running agent's direct accesses. -/
def State.myReach (s : State) : Reach :=
  match s.cur with
  | .hart h => s.hartReach h .scalar
  | .steward c => stewardReach c

/-- CQAPP (R279). DEDUCED (log 24). DEDUCED (log 28). -/
def execCqapp (d c b : Reg) (s : State) : Result :=
  chainWord (.cqapp d c b) c (fun n s =>
    let core := s.cur.core
    let at_ := s.firstX b
    s.recordFlow at_ at_ 0 (fun load s => readList load 257 s at_ []) fun list s' =>
      let q := s'.chain core n
      if 4096 < q.pend + list.length then .hold s
      else
        let who : Option (Nat × Nat) × Option HartKey × BitVec 3 := match s.cur with
          | .hart h => (some ((s.hart h).launch, (s.hart h).team), some h, (s.hart h).csr.rmode)
          | .steward _ => (none, none, 0)
        let ks := cmdsOf who.2.2 who.1 who.2.1 (q.appSeq + 1) false list
        let puts := (list.zip ks).flatMap fun p => p.1.stores p.2
        match s'.storesMiss s.myReach puts with
        | (some m, s') => (Acc.miss (α := Unit) m s').flow s fun _ s => .retire s
        | (none, s') =>
          (s'.storeAll puts).flow s fun _ s' =>
            let s' := s'.modChain core n fun q => q.append ks
            .retire (s'.resultAt d ((q.appSeq + BitVec.ofNat 32 ks.length).setWidth 64) (s.issueCycle + 20 + 4 * ks.length))) s

/-- CQGO (R280). -/
def execCqgo (c : Reg) (s : State) : Result :=
  chainWord (.cqgo c) c (fun n s =>
    let go := fun (s : State) => Flow.retire (s.modChain s.cur.core n fun q => q.handOver (s.now + 30))
    match s.cur with
    | .hart h => (s.release h 3 (s.hart h).serial).flow s fun _ s => go s
    | .steward _ => go s) s

/-- CQWAIT (R281). -/
def execCqwait (c b : Reg) (s : State) : Result :=
  chainWord (.cqwait c b) c (fun n s =>
    let q := s.chain s.cur.core n
    let t : BitVec 32 := (s.rx b).setWidth 32
    if t ≠ q.appSeq ∧ serialLe q.appSeq t then .trap s causeBounds (s.rx b)
    else if serialLe t q.doneSeq then .retire (s.acquireBy s.cur 3)
    else .hold s) s

/-- CQDONE (R282). -/
def execCqdone (d c b : Reg) (s : State) : Result :=
  chainWord (.cqdone d c b) c (fun n s =>
    let q := s.chain s.cur.core n
    let t : BitVec 32 := (s.rx b).setWidth 32
    let v : Dword :=
      if serialLe t q.doneSeq then 1
      else if t ≠ q.appSeq ∧ serialLe q.appSeq t then BitVec.allOnes 64
      else ofBool (q.cmds.any fun k => decide (k.seq = t) && decide (k.stage = .done))
    let s := if v = 1 then s.acquireBy s.cur 3 else s
    .retire (s.resultAt d v (s.now + 6))) s

/-- CQSTAT (R283). -/
def execCqstat (d c : Reg) (s : State) : Result :=
  chainWord (.cqstat d c) c (fun n s =>
    let q := s.chain s.cur.core n
    let v := q.doneSeq.toNat + 2 ^ 32 * q.pend + (if q.cmds.any fun k => k.stage.isParked then 2 ^ 45 else 0)
      + (if q.err then 2 ^ 46 else 0) + (if q.cmds.any fun k => decide (k.stage = .batch) then 2 ^ 47 else 0)
    .retire (s.resultAt d (BitVec.ofNat 64 v) (s.now + 6))) s

/-! ## The accesses of a command -/

/-- How a command names itself as the owner of lines and rows (11 R265). -/
def ownerOf (core : CoreId) (i : Fin 17) (k : Cmd) : CoreId × Nat × BitVec 32 := (core, i.val, k.seq)

/-- The context of a chain. -/
def Chain.owner (c : Chain) : Nat := c.ctx.getD 0

/-- The reach of a command (09 R201, R202, 12 R274): of its team, for a command of the host of its context, for the system
chain of everything. -/
def State.cmdReach (s : State) (core : CoreId) (i : Fin 17) (k : Cmd) : Reach :=
  let ctx := (s.chain core i).owner
  let r : Reach := { kind := .copy, core := core, ctx := ctx, unit := Agency.unit .copy }
  if i = 16 then r
  else
    let mine := fun (t : Hart) =>
      if k.hart.isSome then decide (some (t.launch, t.team) = k.team) else decide (t.ctx = ctx)
    { r with
      window := some k.window
      bands := some ((s.harts.filter fun e => decide (coreOfHart e.1 = core) && mine e.2).map fun e =>
        (clusterOfHart e.1 % 8, e.2.colbase, e.2.cols)) }

/-- The oldest placed team of a context on a core that is still resident (R201). -/
def State.oldestTeam (s : State) (core : CoreId) (ctx : Nat) : Option (Nat × Nat) :=
  let all := s.launches.flatMap fun l =>
    if l.2.ctx = ctx then (l.2.teams.filter fun t => decide (t.core = core)).map fun t => (t.placed, l.1, t.num) else []
  (all.foldl (fun (best : Option (Nat × Nat × Nat)) t => match best with
    | some b => if t.1 < b.1 then some t else best
    | none => some t) none).map Prod.snd

/-- The status of a range of addresses (R284): 3 where R200 refuses the space, 2 where R199, R201 or R202 refuse it, else 0. -/
def Reach.status (r : Reach) (use : Access) (va : Dword) (n : Nat) : Nat :=
  if n = 0 then 0
  else if (spaceSize (selector va)).isNone then 2
  else if !r.kind.may (selector va) use then 3
  else if (r.check use va n).isSome then 2
  else 0

/-- How an access of a command ends. -/
inductive Step (α : Type) where
  | ok (v : α) (s : State)
  /-- An invalid translation. -/
  | park (va : Dword) (s : State)
  /-- A protection failure. -/
  | freeze (va : Dword) (s : State)
  /-- The command ends with a status. -/
  | fail (status : Nat) (s : State)
  | wait

/-- An access error of a command. -/
def Step.ofMiss {α : Type} (m : Miss) (s : State) : Step α :=
  if m.cause = causeWait then .wait else if m.cause = causeLdpf then .park m.value s else if m.cause = causeUce then .fail 4 s else .freeze m.value s

/-- The clusters of a core whose arrays an access uses. -/
def arraysOf (core : CoreId) (va : Dword) (n : Nat) : List ClusterKey :=
  if selector va == 10 && decide (0 < n) then
    ((List.range ((offset va + n - 1) / 2 ^ 20 - offset va / 2 ^ 20 + 1)).map fun j => 8 * core + (offset va / 2 ^ 20 + j))
  else []

/-- The rows of A-space that a range reaches, numbered from cluster 0 of its core on. -/
def rowsOf (va : Dword) (n : Nat) : List Nat := if selector va == 10 then linesOf 64 (offset va) n else []

/-- What the array accesses of an engine meet: a fenced cluster refuses them, and they take a window of its array cycles (09 R203, 17
R366). -/
def State.arrayGate {α : Type} (s : State) (core : CoreId) (user : Nat) (ranges : List (Dword × Nat)) (go : State → Step α) : Step α :=
  if (ranges.flatMap fun p => arraysOf core p.1 p.2).any fun k => (s.cluster k).fenced then .fail 4 s
  else
    match s.windowsFor core user (ranges.flatMap fun p => rowsOf p.1 p.2) with
    | none => .wait
    | some s => go s

/-- A read by a command that has its array cycles. -/
def State.readOpen (s : State) (r : Reach) (own : CoreId × Nat × BitVec 32) (va : Dword) (n : Nat) : Step Got :=
  if s.accessBlocked r .load va n (some own) then .wait
  else
    match s.fetchBytes r false .load va n with
    | (.error m, s) => Step.ofMiss m s
    | (.ok g, s) => .ok g s

/-- A read by a command: the bytes, and whether they hold poison. -/
def State.engineRead (s : State) (r : Reach) (own : CoreId × Nat × BitVec 32) (va : Dword) (n : Nat) : Step Got :=
  s.arrayGate r.core r.unit [(va, n)] fun s => s.readOpen r own va n

/-- Adds to a list what it does not hold. -/
def addAll (l add : List Nat) : List Nat := l ++ (add.filter fun x => !l.contains x).dedup

/-- The places that a range of an agent reaches become poisoned: lines of memory, or rows of A-space. DEDUCED (log 23). -/
def State.spoil (s : State) (r : Reach) (va : Dword) (n : Nat) : State :=
  if inH va then
    match (s.translateParts r .store true (pagesOf va n)).1 with
    | .error _ => s
    | .ok l =>
      { s with poison := addAll s.poison (l.flatMap fun p => match p.1 with
          | some t => if t.lost then [] else linesOf 128 t.loc p.2
          | none => []) }
  else if selector va == 10 then
    { s with rowPoison := (linesOf 64 (offset va) n).foldl (fun (m : FMap Row) x =>
        let p := rowOfOffset r.core (64 * x)
        m.put (16384 * p.1 + p.2) (BitVec.allOnes 512)) s.rowPoison }
  else { s with poison := addAll s.poison (linesOf 128 (r.typedLoc va) n) }

/-- A write by a command that has its array cycles. Poisoned data are written as poisoned: bytes that nothing fixes, in places that
read as poison (R289). A write that no route leads to fails (21 R416). -/
def State.writeOpen (s : State) (r : Reach) (own : CoreId × Nat × BitVec 32) (va : Dword) (bs : List (Option Byte)) (bad : Bool) :
    Step Unit :=
  if s.accessBlocked r .store va bs.length (some own) then .wait
  else
    let bytes := if bad then bs.mapIdx fun j b => b.map fun _ => Config.poisonByte (s.choice + j) else bs
    match s.storeBytes r none .store va bytes with
    | (.error m, s) => Step.ofMiss m s
    | (.ok true, s) => .fail 4 s
    | (.ok false, s) => .ok () (if bad then { (s.spoil r va bs.length) with choice := s.choice + bs.length } else s)

/-- A write by a command. -/
def State.engineWrite (s : State) (r : Reach) (own : CoreId × Nat × BitVec 32) (va : Dword) (bs : List (Option Byte))
    (bad : Bool) : Step Unit :=
  s.arrayGate r.core r.unit [(va, bs.length)] fun s => s.writeOpen r own va bs bad

/-! ## Ownership (11 R265) -/

/-- The lines and rows of a range: (true, line of H-space or of a typed space) or (false, row of A-space). -/
def State.placesOf (s : State) (r : Reach) (va : Dword) (n : Nat) : List (Bool × Nat) :=
  if n = 0 then []
  else if inH va then
    match (s.translateParts r .store true (pagesOf va n)).1 with
    | .error _ => []
    | .ok l => l.flatMap fun p => match p.1 with
      | some t => if t.lost then [] else (linesOf 128 t.loc p.2).map fun x => (true, x)
      | none => []
  else if selector va == 10 then
    (linesOf 64 (offset va) n).map fun x =>
      let p := rowOfOffset r.core (64 * x)
      (false, 16384 * p.1 + p.2)
  else (linesOf 128 (r.typedLoc va) n).map fun x => (true, x)

/-- Makes the places a command owns exactly those given; none where another command owns one of them. -/
def State.own (s : State) (o : CoreId × Nat × BitVec 32) (places : List (Bool × Nat)) : Option State :=
  let others := fun (l : List (Nat × CoreId × Nat × BitVec 32)) => l.filter fun e => decide (e.2 ≠ o)
  let taken := places.any fun p =>
    (if p.1 then others s.lineOwners else others s.rowOwners).any fun e => decide (e.1 = p.2)
  if taken then none
  else
    let mine := fun (b : Bool) => (places.filterMap fun p => if p.1 = b then some (p.2, o) else none).dedup
    some { s with lineOwners := others s.lineOwners ++ mine true, rowOwners := others s.rowOwners ++ mine false }

/-- A command owns nothing any more. -/
def State.disown (s : State) (o : CoreId × Nat × BitVec 32) : State :=
  { s with lineOwners := s.lineOwners.filter fun e => decide (e.2 ≠ o),
           rowOwners := s.rowOwners.filter fun e => decide (e.2 ≠ o) }

/-! ## Parking, freezing and ending (R285, R292, 17 R363) -/

/-- The park slot that a command takes: the lowest free one of its core, where R292 names none. DESIGN CHOICE (log 29). -/
def CoreState.parkSlot (v : CoreState) : Option Nat :=
  (List.range 16).find? fun n => v.chains.toList.all fun c => c.cmds.all fun k =>
    match k.stage with
    | .parked m _ => decide (m ≠ n)
    | _ => true

/-- Parks a command, where a park slot is free, and tells the steward. -/
def State.park (s : State) (core : CoreId) (i : Fin 17) (k : Cmd) (va : Dword) : State :=
  match (s.core core).parkSlot with
  | none => s.modCmd core i k.seq fun k => { k with stage := .parking va }
  | some n =>
    (s.modCmd core i k.seq fun k => { k with stage := .parked n va }).postEvent core
      { kind := 4, master := BitVec.ofNat 16 (16384 + n), ctx := (s.chain core i).owner, value := va,
        pc := k.seq.setWidth 64, x := 6 }

/-- Freezes the copy work of a context at a command that failed a protection check. -/
def State.freezeCopy (s : State) (core : CoreId) (i : Fin 17) (k : Cmd) (va : Dword) : State :=
  let ctx := (s.chain core i).owner
  let m : BitVec 16 := BitVec.ofNat 16 (4096 + ctx)
  let s := s.modCmd core i k.seq fun k => { k with stage := .frozen }
  let s := s.modCore core fun v => { v with copyFrozen := if v.copyFrozen.contains ctx then v.copyFrozen else v.copyFrozen ++ [ctx] }
  (s.noteFrozen core ctx m).postEvent core
    { kind := 5, master := m, ctx := ctx, value := va, pc := k.seq.setWidth 64, x := 7 }

/-- The status of CREC (R284, R286): in H-space, inside it. DEDUCED (log 28). -/
def Reach.crecStatus (r : Reach) (crec : Dword) : Nat :=
  if crec = 0 then 0 else if !inH crec then 3 else r.status .store crec 16

/-- The work of a command is finished, with a status where it has none yet; its completion follows in 6 cycles (R293),
without a record where CREC fails its check (R286). -/
def State.finishCmd (s : State) (core : CoreId) (i : Fin 17) (k : Cmd) (status : Nat) : State :=
  let r := s.cmdReach core i k
  let s := (s.disown (ownerOf core i k)).modCmd core i k.seq fun k =>
    { k with finished := true, status := if k.status = 0 then status else k.status, ready := s.now + 6, batches := [], held := none,
             noRecord := decide (r.crecStatus k.crec ≠ 0) }
  let final := (((s.chain core i).cmds.find? fun e => decide (e.seq = k.seq)).map Cmd.status).getD 0
  if k.follow then s.modCmd core i (k.seq + 1) fun e => { e with inherited := final } else s

/-- Continues after an access of a command. -/
def Step.then {α : Type} (a : Step α) (core : CoreId) (i : Fin 17) (k : Cmd) (f : α → State → Option State) : Option State :=
  match a with
  | .ok v s => f v s
  | .park va s => some (s.park core i k va)
  | .freeze va s => some (s.freezeCopy core i k va)
  | .fail st s => some (s.finishCmd core i k st)
  | .wait => none

/-! ## Start (R284) -/

/-- The oldest command of a chain that has not started, if it has been handed over. -/
def Chain.oldest (c : Chain) : Option (List Cmd × Cmd) :=
  let before := c.cmds.takeWhile fun k => decide (k.stage ≠ .batch ∧ k.stage ≠ .queued)
  match c.cmds.drop before.length with
  | k :: _ => if k.stage = .queued then some (before, k) else none
  | [] => none

/-- Whether the commands of a context's chain may run on a core: it holds the turn, and the core has power and its
engines are not fenced; the system chain
runs at any time (R274). -/
def State.chainRuns (s : State) (core : CoreId) (i : Fin 17) : Bool :=
  let v := s.core core
  !v.fenced && !s.coreGated core && (decide (i = 16) || decide (s.activeCtx core = some v.chains[i].owner))

/-- Whether an execution slot of a core's copy engine is free. -/
def CoreState.slotFree (v : CoreState) : Bool :=
  decide ((v.chains.toList.map fun c => (c.cmds.filter fun k => k.stage.executing).length).sum < 8)

/-- The destination field of a record: of FILL at byte 16, else at byte 24. -/
def Cmd.dstField (k : Cmd) (record : BitVec 512) : Dword :=
  if k.op = 4 then record.extractLsb' 128 64 else record.extractLsb' 192 64

/-- The record of a command at its home, as a start would read it. -/
def State.peekRecord (s : State) (core : CoreId) (i : Fin 17) (k : Cmd) : Option (BitVec 512) :=
  match (s.fetchBytes (s.cmdReach core i k) false .load k.at_ 64).1 with
  | .ok g => some (bitsOfBytes 512 g.bytes)
  | .error _ => none

/-- Whether CBDST lets a command start: its buffer, if it names one, has a free slot (R290). DEDUCED (log 26). -/
def State.bufferReady (s : State) (core : CoreId) (i : Fin 17) (k : Cmd) : Bool :=
  !k.cbdst || match s.peekRecord core i k with
    | none => true
    | some r =>
      let d := k.dstField r
      decide (16 ≤ d.toNat) || match s.buffer core (d.setWidth 4) with
        | some b => decide (b.ctx ≠ (s.chain core i).owner) || decide (0 < b.free)
        | none => true

/-- Whether the oldest command of a chain may start now; frozen copy work starts none (17 R363). -/
def State.mayStart (s : State) (core : CoreId) (i : Fin 17) : Option Cmd :=
  match (s.chain core i).oldest with
  | none => none
  | some (before, k) =>
    let fenced := k.fence && before.any fun e => decide (e.stage ≠ .done)
    let follow := k.following && match before.getLast? with
      | some e => !(decide (e.stage = .done) || e.finished)
      | none => false
    let v := s.core core
    if s.chainRuns core i && !v.copyFrozen.contains (s.chain core i).owner && v.slotFree && decide (k.ready ≤ s.now)
        && decide (v.nextStart ≤ s.now) && !fenced && !follow && s.bufferReady core i k then some k else none

/-- The chain whose command the engine starts next: the first that may start, in round-robin order. -/
def State.startChain (s : State) (core : CoreId) : Option (Fin 17) :=
  let turn := (s.core core).chainTurn
  ((List.range 17).map fun j => (turn + j) % 17).findSome? fun j =>
    if h : j < 17 then (s.mayStart core ⟨j, h⟩).map fun _ => ⟨j, h⟩ else none

/-- A command takes an execution slot; at its first start the round robin moves on, and it takes the windows of its team, a command
of the host those of the oldest team (09 R201). -/
def State.enterSlot (s : State) (core : CoreId) (i : Fin 17) (k : Cmd) : State :=
  if k.stage = .queued then
    let s := s.modCore core fun v => { v with chainTurn := (i.val + 1) % 17, nextStart := s.now + 1 }
    let team := if k.hart.isSome || i == 16 then k.team else s.oldestTeam core (s.chain core i).owner
    let window := match team with
      | some t => s.teamWindow t.1 t.2
      | none => ((0, 0), (0, 0))
    s.modCmd core i k.seq fun k => { k with stage := .running, ready := s.now, begun := s.now, team := team, window := window }
  else s.modCmd core i k.seq fun k => { k with stage := .running, ready := s.now + 1 }

/-- The command of a chain and opcode that can move, each with what it does next: start, resume, park late, or run. -/
def State.movable (s : State) (core : CoreId) (i : Fin 17) (op : Nat) : List Cmd :=
  let v := s.core core
  let c := v.chains[i]
  let start := match s.mayStart core i with
    | some k => if k.op = op ∧ s.startChain core = some i then [k] else []
    | none => []
  let others := c.cmds.filter fun k =>
    decide (k.op = op) && match k.stage with
      | .running => !k.finished && decide (k.ready ≤ s.now) && (s.chainRuns core i || (k.halting && !v.fenced))
      | .resumed => v.slotFree && s.chainRuns core i
      | .parking _ => v.parkSlot.isSome
      | _ => false
  start ++ others

/-- A command starts: it takes an execution slot and reads its record, in one step (R284). -/
def State.startWith (s : State) (core : CoreId) (i : Fin 17) (k : Cmd) (run : State → Cmd → Option State) : Option State :=
  let t := s.enterSlot core i k
  ((t.chain core i).cmds.find? fun e => decide (e.seq = k.seq)).bind (run t)

/-- One step of a chain's commands of an opcode: a free choice among those that can move. `run` moves a running one on; it also
reads the record of a command as it starts. -/
def State.chainStep (s : State) (core : CoreId) (i : Fin 17) (op : Nat) (run : State → Cmd → Option State) : Option State :=
  let goes := fun (k : Cmd) => match k.stage with
    | .running => (run s k).isSome
    | .queued => (s.startWith core i k run).isSome
    | _ => true
  let ks := (s.movable core i op).filter goes
  if ks.isEmpty then none
  else
    let p := s.choose ks.length
    match ks[p.1]? with
    | none => none
    | some k =>
      match k.stage with
      | .parking va => some (p.2.park core i k va)
      | .running => run p.2 k
      | .queued => p.2.startWith core i k run
      | _ => some (p.2.enterSlot core i k)

/-- Reads the record of a started command, once, as one read of 64 bytes at the home, keeping RM and SEQ of the chain
(R277, R284). -/
def State.readRecord (s : State) (core : CoreId) (i : Fin 17) (k : Cmd) (f : BitVec 512 → State → Option State) : Option State :=
  (s.engineRead (s.cmdReach core i k) (ownerOf core i k) k.at_ 64).then core i k fun g s =>
    if g.poisoned.isSome then some (s.finishCmd core i k 4) else f (bitsOfBytes 512 g.bytes) s

/-! ## Completion (R284, R286, R290) -/

/-- Completed commands at the head of a chain leave it, and DONESEQ advances over them. -/
def Chain.advance (c : Chain) : Chain :=
  let gone := c.cmds.takeWhile fun k => decide (k.stage = .done)
  { c with cmds := c.cmds.drop gone.length, doneSeq := c.doneSeq + BitVec.ofNat 32 gone.length }

/-- A command is done: its bit is set, its event is posted to the hart that appended it, if that is still resident. -/
def State.retireCmd (s : State) (core : CoreId) (i : Fin 17) (k : Cmd) : State :=
  let s := s.disown (ownerOf core i k)
  let s := s.modChain core i fun c =>
    Chain.advance { c with err := c.err || decide (k.status ≠ 0),
                           cmds := c.cmds.map fun e => if e.seq = k.seq then { e with stage := .done } else e }
  match k.hart with
  | some h =>
    if k.signal && s.resident h && decide (some ((s.hart h).launch, (s.hart h).team) = k.team) then s.postHartEvent h else s
  | none => s

/-- The completion record (R286). -/
def Cmd.completion (k : Cmd) : List Byte :=
  bytesOfBits (BitVec.ofNat 32 k.status) 4 ++ bytesOfBits (BitVec.ofNat 32 k.errors) 4 ++ bytesOfBits k.seq 4
    ++ List.replicate 4 0

/-- The slots of a buffer that commands hold: their places in the order of taking. -/
def CoreState.slotsHeld (v : CoreState) (b : Nat) : List Nat :=
  v.chains.toList.flatMap fun c => c.cmds.filterMap fun e =>
    match e.cbSlot with
    | some o => if o.1 = b ∧ e.stage ≠ .done then some o.2.2 else none
    | none => none

/-- Whether the slot that a command took waits for one taken before it (R290). -/
def CoreState.slotWaits (v : CoreState) (k : Cmd) : Bool :=
  match k.cbSlot with
  | none => false
  | some b => (v.slotsHeld b.1).any fun o => decide (o < b.2.2)

/-- Whether the matrix entry and the logged stores of an MMAF are gone (13 R305, 14 R331). -/
def CoreState.mmafDone (v : CoreState) (i : Fin 17) (k : Cmd) : Bool :=
  decide (k.op = 7) && decide (k.stage = .handed) && !k.finished
    && !(v.queue ++ v.frozenMmas).any (fun e => decide (e.source = .command i.val k.seq))
    && !v.drainLog.any fun e => decide (e.source = .command i.val k.seq)

/-- The slot that a command took is published (R290). -/
def State.publishSlot (s : State) (core : CoreId) (k : Cmd) : State :=
  match k.cbSlot with
  | some b => match s.buffer core (BitVec.ofNat 4 b.1) with
    | some q => s.setBuffer core (BitVec.ofNat 4 b.1) q.publish
    | none => s
  | none => s

/-- A command whose work is finished completes: its slot is published, its record written, then its bit is set. -/
def State.completeStep (s : State) (core : CoreId) (i : Fin 17) : Option State :=
  (s.chain core i).cmds.findSome? fun k =>
    if (s.core core).mmafDone i k then some (s.finishCmd core i k 0)
    else if !k.finished || decide (k.stage = .done) || decide (s.now < k.ready) || !(k.stage == .running || k.stage == .handed)
        || !(s.chainRuns core i) || (s.core core).slotWaits k then none
    else
      if k.signal && k.crec != 0 && !k.noRecord then
        match s.engineWrite (s.cmdReach core i k) (ownerOf core i k) k.crec (k.completion.map some) false with
        | .fail st s => some (s.modCmd core i k.seq fun k => { k with noRecord := true, status := if k.status = 0 then st else k.status })
        | a => a.then core i k fun _ s => some ((s.publishSlot core k).retireCmd core i k)
      else some ((s.publishSlot core k).retireCmd core i k)

/-- COMMAND_COMPLETION. -/
def execCommandCompletion (core : CoreId) (chain : Nat) (s : State) : Result :=
  .next (if h : chain < 17 then (s.completeStep core ⟨chain, h⟩).getD s else s)

end Sys2Proof.Machine
end

