-- ==== Sys2Proof/Machine/Copy.lean ====
section
/-! DEFINITION. The copy engine's own commands: COPY, GATHER, SCATTER, FILL, MIGRATE and MARKER (12 R287 to R290,
09 R222 to R225). -/

namespace Sys2Proof.Machine

/-! ## Records -/

/-- Bytes lo to lo + n − 1 of a record, as a number. -/
def recordField (r : BitVec 512) (lo n : Nat) : Nat := (r.extractLsb' (8 * lo) (8 * n)).toNat
/-- Eight bytes of a record. -/
def recordAddr (r : BitVec 512) (lo : Nat) : Dword := r.extractLsb' (8 * lo) 64

/-- The bytes of a source line: 128, and in A-space the 64 of one row (09 R198). -/
def sourceLine (src : Dword) : Nat := if selector src == 10 then 64 else 128
/-- The address of the source line of a byte. -/
def lineOfSource (src : Dword) : Dword := src &&& ~~~BitVec.ofNat 64 (sourceLine src - 1)

/-- A piece of work: source, destination and bytes, within one line of each. -/
structure Piece where
  src : Dword
  dst : Dword
  len : Nat
deriving DecidableEq, Repr

/-- The pieces of n bytes from `src` to `dst`; the first argument bounds their number. -/
def piecesOf : Nat → Dword → Dword → Nat → List Piece
  | 0, _, _, _ => []
  | f + 1, src, dst, n =>
    if n = 0 then []
    else
      let k := min n (min (sourceLine src - src.toNat % sourceLine src) (128 - dst.toNat % 128))
      { src := src, dst := dst, len := k } :: piecesOf f (src + BitVec.ofNat 64 k) (dst + BitVec.ofNat 64 k) (n - k)

/-- The pieces of a contiguous move. -/
def pieces (src dst : Dword) (n : Nat) : List Piece := piecesOf (n / 32 + 4) src dst n

/-- Bytes per row of COPY. -/
def copyLen (r : BitVec 512) : Nat := recordField r 32 4
/-- Rows of COPY; none where a row is empty. -/
def copyRows (r : BitVec 512) : Nat := if copyLen r = 0 then 0 else recordField r 36 4
/-- The source of row j of COPY. -/
def copySrc (r : BitVec 512) (j : Nat) : Dword := recordAddr r 16 + BitVec.ofNat 64 j * recordAddr r 40
/-- The destination of row j of COPY, from a base. -/
def copyDst (r : BitVec 512) (base : Dword) (j : Nat) : Dword := base + BitVec.ofNat 64 j * recordAddr r 48

/-- The pieces of COPY, rows rising. -/
def copyPieces (r : BitVec 512) (base : Dword) : List Piece :=
  (List.range (copyRows r)).flatMap fun j => pieces (copySrc r j) (copyDst r base j) (copyLen r)

/-- The pieces of FILL: the source is the offset in the range. -/
def fillPieces (r : BitVec 512) (base : Dword) : List Piece :=
  (piecesOf (recordField r 24 8 / 64 + 2) base base (recordField r 24 8)).map fun p => { p with src := p.src - base }

/-- COUNT of GATHER and SCATTER. -/
def rowCount (r : BitVec 512) : Nat := recordField r 40 4
/-- ROWBYTES. -/
def rowBytes (r : BitVec 512) : Nat := recordField r 44 4
/-- NROWS. -/
def tableRows (r : BitVec 512) : Nat := recordField r 48 4
/-- IDXW. -/
def indexWidth (r : BitVec 512) : Nat := recordField r 52 1
/-- DLAY. -/
def rowLayout (r : BitVec 512) : Nat := recordField r 53 1

/-- The chunks of packed row i: address and bytes, and the offset within the row. -/
def packedChunks (r : BitVec 512) (base : Dword) (i : Nat) : List (Dword × Nat × Nat) :=
  if rowLayout r = 0 then [(base + BitVec.ofNat 64 (i * rowBytes r), rowBytes r, 0)]
  else (List.range (rowBytes r / 64)).map fun c => (base + BitVec.ofNat 64 (c * 65536 + i * 64), 64, 64 * c)

/-- The address of table row x. -/
def tableRow (r : BitVec 512) (x : Nat) : Dword := recordAddr r 16 + BitVec.ofNat 64 (x * rowBytes r)

/-- The pieces of GATHER's row i from table row x, or of SCATTER's. -/
def rowPieces (r : BitVec 512) (base : Dword) (gather : Bool) (i x : Nat) : List Piece :=
  (packedChunks r base i).flatMap fun c =>
    let t := tableRow r x + BitVec.ofNat 64 c.2.2
    if gather then pieces t c.1 c.2.1 else pieces c.1 t c.2.1

/-! ## Checks at the start (R284, R287, R288) -/

/-- Whether the opcode-specific bytes of a record whose destination starts at `base` break a rule (status 1). -/
def recordBroken (op : Nat) (cbdst : Bool) (r : BitVec 512) (base : Dword) : Bool :=
  match op with
  | 1 =>
    (List.range (copyRows r)).any fun i => (List.range (copyRows r)).any fun j =>
      rangesMeet (copySrc r i) (copyLen r) (copyDst r base j) (copyLen r)
  | 4 => recordField r 40 16 != 0
  | 6 => recordField r 16 40 != 0
  | _ =>
    let packed := recordAddr r 24
    recordField r 54 2 != 0 || decide (rowBytes r = 0 ∨ 65536 < rowBytes r)
      || !(indexWidth r == 2 || indexWidth r == 4 || indexWidth r == 8) || decide (1 < rowLayout r)
      || (rowLayout r == 1 && (cbdst || selector packed != 10 || decide (packed.toNat % 64 ≠ 0)
        || decide (rowBytes r % 64 ≠ 0 ∨ 1024 < rowBytes r ∨ 1024 < packed.toNat % 65536 / 64 + rowCount r)))

/-- The span that a command writes of a slot, and whether it starts below it (R290). -/
def slotSpan (op : Nat) (r : BitVec 512) : Int :=
  match op with
  | 1 => if copyRows r = 0 then 0 else ((copyRows r : Int) - 1) * (recordAddr r 48).toInt + copyLen r
  | 4 => recordField r 24 8
  | _ => rowCount r * rowBytes r

/-- The first failing status of a list. DEDUCED (log 28). -/
def firstStatus (l : List Nat) : Nat := (l.find? fun x => x ≠ 0).getD 0

/-- The status of the address ranges of a record, in the order of their fields; `tooBig` is the status of a slot that is too
small. -/
def Reach.rangeStatus (reach : Reach) (op : Nat) (r : BitVec 512) (base : Dword) (tooBig : Nat) : Nat :=
  match op with
  | 1 =>
    let rows := List.range (copyRows r)
    firstStatus (rows.map (fun j => reach.status .load (copySrc r j) (copyLen r)) ++ [tooBig]
      ++ rows.map fun j => reach.status .store (copyDst r base j) (copyLen r))
  | 4 => firstStatus [tooBig, reach.status .store base (recordField r 24 8)]
  | 6 => 0
  | _ =>
    let gather := op == 2
    let packedUse : Access := if gather then .store else .load
    let packed := if rowLayout r = 0 then [reach.status packedUse base (rowCount r * rowBytes r)]
      else (List.range (rowBytes r / 64)).map fun c =>
        reach.status packedUse (base + BitVec.ofNat 64 (65536 * c)) (64 * rowCount r)
    firstStatus ([reach.status (if gather then .load else .store) (recordAddr r 16) (tableRows r * rowBytes r), tooBig] ++ packed
      ++ [reach.status .load (recordAddr r 32) (rowCount r * indexWidth r)])

/-- The base that the rows of a command go to or come from: the slot of its buffer, or its address field. -/
def Cmd.base (k : Cmd) : Dword :=
  match k.cbSlot with
  | some b => b.2.1
  | none => k.dstField k.record

/-- The buffer that a record with CBDST names, if the context may use it. -/
def State.namedBuffer (s : State) (core : CoreId) (ctx : Nat) (d : Dword) : Option CircBuf :=
  if 16 ≤ d.toNat then none
  else match s.buffer core (d.setWidth 4) with
    | some b => if b.ctx = ctx then some b else none
    | none => none

/-! ## Moving pieces -/

/-- Reads the source line of a piece, unless it is the line read last (11 R265); an address that fails is the piece's. -/
def State.readLine (s : State) (r : Reach) (own : CoreId × Nat × BitVec 32) (held : Option LineBuf) (src : Dword) : Step LineBuf :=
  let line := lineOfSource src
  match held.filter fun b => decide (b.addr = line) with
  | some b => .ok b s
  | none =>
    match s.readOpen r own line (sourceLine src) with
    | .ok g s => .ok { addr := line, bytes := g.bytes, poisoned := g.poisoned.isSome } s
    | .park _ s => .park src s
    | .freeze _ s => .freeze src s
    | .fail st s => .fail st s
    | .wait => .wait

/-- Moves a piece: reads its source line and writes the piece. A piece of FILL takes the pattern. Answers the line read. -/
def State.movePiece (s : State) (r : Reach) (own : CoreId × Nat × BitVec 32) (pattern : Option Dword) (held : Option LineBuf)
    (p : Piece) : Step (Option LineBuf) :=
  let line := lineOfSource p.src
  let reads := pattern.isNone && !held.any fun b => decide (b.addr = line)
  s.arrayGate r.core r.unit ((if reads then [(line, sourceLine p.src)] else []) ++ [(p.dst, p.len)]) fun s =>
    let got : Step (Option LineBuf × List Byte × Bool) := match pattern with
      | some v => .ok (none, (List.range p.len).map fun j => v.extractLsb' (8 * ((p.src.toNat + j) % 8)) 8, false) s
      | none =>
        match s.readLine r own held p.src with
        | .ok b s => .ok (some b, (b.bytes.drop (p.src.toNat % sourceLine p.src)).take p.len, b.poisoned) s
        | .park va s => .park va s
        | .freeze va s => .freeze va s
        | .fail st s => .fail st s
        | .wait => .wait
    match got with
    | .ok g s =>
      match s.writeOpen r own p.dst (g.2.1.map some) g.2.2 with
      | .ok _ s => .ok g.1 s
      | .park va s => .park va s
      | .freeze va s => .freeze va s
      | .fail st s => .fail st s
      | .wait => .wait
    | .park va s => .park va s
    | .freeze va s => .freeze va s
    | .fail st s => .fail st s
    | .wait => .wait

/-- Whether a line just read holds poison that has not been counted: it is not the line read before it. -/
def newPoison (before after : Option LineBuf) : Bool :=
  match after with
  | some b => b.poisoned && decide (before.map LineBuf.addr ≠ some b.addr)
  | none => false

/-- The places of destinations. -/
def State.destinations (s : State) (r : Reach) (l : List (Dword × Nat)) : List (Bool × Nat) :=
  (l.flatMap fun p => s.placesOf r p.1 p.2).dedup

/-- The batches of a command. -/
def batchCount (r : BitVec 512) : Nat := (rowCount r + 7) / 8

/-- The index that a batch holds for row i, if it names a row of the table. -/
def IndexBatch.row (b : IndexBatch) (r : BitVec 512) (i : Nat) : Option Nat :=
  match (b.index[i - b.first]?).join with
  | some x => if x < tableRows r then some x else none
  | none => none

/-- The pieces of row i of a batch: of GATHER zeros where its index names no row, of SCATTER then none. -/
def Cmd.piecesOfRow (k : Cmd) (b : IndexBatch) (i : Nat) : List Piece :=
  match b.row k.record i with
  | some x => rowPieces k.record k.base (k.op == 2) i x
  | none => if k.op = 2 then (packedChunks k.record k.base i).flatMap fun c => pieces c.1 c.1 c.2.1 else []

/-- The pieces of COPY or FILL. -/
def Cmd.allPieces (k : Cmd) : List Piece :=
  if k.op = 4 then fillPieces k.record k.base else copyPieces k.record k.base

/-- The destinations that a command still has to write: those of COPY and FILL left, all rows of GATHER left, the rows of SCATTER in
flight. -/
def Cmd.destinationsLeft (k : Cmd) : List (Dword × Nat) :=
  let inFlight := k.batches.flatMap fun b => b.left.flatMap fun w =>
    ((k.piecesOfRow b w.row).drop w.moved).map fun p => (p.dst, p.len)
  match k.op with
  | 2 => inFlight ++ (List.range (rowCount k.record - 8 * k.pos)).flatMap fun j =>
      (packedChunks k.record k.base (8 * k.pos + j)).map fun c => (c.1, c.2.1)
  | 3 => inFlight
  | 6 => []
  | _ => (k.allPieces.drop k.pos).map fun p => (p.dst, p.len)

/-- A command owns what it still has to write (11 R265); none where another command owns some of it. -/
def State.ownLeft (s : State) (core : CoreId) (i : Fin 17) (k : Cmd) : Option State :=
  s.own (ownerOf core i k) (s.destinations (s.cmdReach core i k) k.destinationsLeft)

/-- A command as its chain holds it now, and what to do with it. -/
def State.withCmd (s : State) (core : CoreId) (i : Fin 17) (seq : BitVec 32) (f : Cmd → Option State) : Option State :=
  (s.chain core i).cmds.findSome? fun e => if e.seq = seq then f e else none

/-- Reads and checks the record of a command that moves rows, takes its slot and the ownership of its destinations, as one step.
DEDUCED (log 26). DEDUCED (log 28). -/
def State.beginMove (s : State) (core : CoreId) (i : Fin 17) (k : Cmd) : Option State :=
  s.readRecord core i k fun r s =>
    let crec := recordAddr r 56
    let d := k.dstField r
    let buffer := if k.cbdst then s.namedBuffer core (s.chain core i).owner d else none
    if buffer.any fun b => decide (b.free = 0) then none
    else
      let slot := buffer.map fun b => (d.toNat, b.slot b.pidx, ((s.core core).slotsHeld d.toNat).foldl max 0 + 1)
      let s := match buffer with
        | some b => s.setBuffer core (d.setWidth 4) (b.take 1)
        | none => s
      let reach := s.cmdReach core i k
      let base := match slot with
        | some b => b.2.1
        | none => d
      let tooBig := match buffer with
        | some b => if slotSpan k.op r < 0 ∨ (b.slotSize : Int) < slotSpan k.op r ∨
            (k.op = 1 ∧ 0 < copyRows r ∧ (recordAddr r 48).toInt < 0 ∧ 1 < copyRows r) then 2 else 0
        | none => 0
      let status : Nat :=
        if recordBroken k.op k.cbdst r base ∨ (k.cbdst ∧ buffer.isNone) then 1 else reach.rangeStatus k.op r base tooBig
      let k' := { k with record := r, crec := crec, read := true, cbSlot := slot }
      let s := s.modCmd core i k.seq fun k => { k with record := r, crec := crec, read := true, cbSlot := slot }
      if status ≠ 0 then some (s.finishCmd core i k' status)
      else if reach.crecStatus crec ≠ 0 then some (s.finishCmd core i k' (reach.crecStatus crec))
      else if k.op = 6 then some (s.finishCmd core i k' 0)
      else some ((s.ownLeft core i k').getD s)

/-- Moves the next piece of COPY or FILL. DEDUCED (log 29). -/
def State.pieceStep (s : State) (core : CoreId) (i : Fin 17) (k : Cmd) : Option State :=
  match k.allPieces.drop k.pos with
  | [] => some (s.finishCmd core i k 0)
  | p :: _ =>
    match s.ownLeft core i k with
    | none => none
    | some s =>
      let pattern := if k.op = 4 then some (recordAddr k.record 32) else none
      (s.movePiece (s.cmdReach core i k) (ownerOf core i k) pattern k.held p).then core i k fun line s =>
        let bad := newPoison k.held line
        let s := s.modCmd core i k.seq fun k =>
          { k with pos := k.pos + 1, ready := s.now + 1, held := line, errors := if bad then k.errors + 1 else k.errors,
                   status := if bad && k.status == 0 then 4 else k.status }
        s.withCmd core i k.seq fun e =>
          if e.allPieces.length ≤ e.pos then some (s.finishCmd core i e 0) else some ((s.ownLeft core i e).getD s)

/-! ## Stopping at a line boundary (18 R379) -/

/-- The 128-byte line that a piece is written into. -/
def Piece.line (p : Piece) : Dword := p.dst &&& ~~~127

/-- The lines that a command has written into last: of the piece before the next, or of the rows that its batches in flight have moved. -/
def Cmd.openLines (k : Cmd) : List Dword :=
  if k.op = 2 ∨ k.op = 3 then
    k.batches.flatMap fun b => (List.range b.index.length).flatMap fun j =>
      let all := k.piecesOfRow b (b.first + j)
      (match b.left.find? fun (w : RowLeft) => decide (w.row = b.first + j) with
        | some w => all.take w.moved
        | none => all).map Piece.line
  else ((k.allPieces.take k.pos).getLast?.map Piece.line).toList

/-- Whether a row in flight still has to write into such a line. -/
def Cmd.rowOpen (k : Cmd) (b : IndexBatch) (w : RowLeft) : Bool :=
  ((k.piecesOfRow b w.row).drop w.moved).any fun p => k.openLines.contains p.line

/-- Whether a command is within a destination line: it has written a part of it and has another part to write next. -/
def Cmd.midLine (k : Cmd) : Bool :=
  k.read && !k.finished &&
    if k.op = 2 ∨ k.op = 3 then k.batches.any fun b => b.left.any (k.rowOpen b)
    else match k.allPieces.drop k.pos with
      | p :: _ => k.openLines.contains p.line
      | [] => false

/-- A command that halts stops: it gives up its execution slot, to go on when its context comes back. -/
def Cmd.halt (k : Cmd) : Cmd :=
  { k with
    halting := false
    stage := match k.stage with
      | .running => .resumed
      | .parking _ => .resumed
      | .frozen => .iced
      | g => g }

/-- A command of an outgoing context stops where it is at a line boundary, or cannot go on; its lines that it has not written
keep their old data (R379). DEDUCED (log 29). -/
def State.haltStep (s : State) (core : CoreId) : Option State :=
  (List.finRange 17).findSome? fun i => (s.chain core i).cmds.findSome? fun k =>
    if k.halting && !(decide (k.stage = .running) && k.midLine && !(s.core core).fenced) then
      some ((s.disown (ownerOf core i k)).modCmd core i k.seq Cmd.halt)
    else none

/-! ## GATHER and SCATTER (R288) -/

/-- Reads the indices of the next batch; SCATTER then owns the table rows that they name. The rows of GATHER land from 180 cycles
later on (R293). -/
def State.readBatch (s : State) (core : CoreId) (i : Fin 17) (k : Cmd) : Option State :=
  let first := 8 * k.pos
  let n := min 8 (rowCount k.record - first)
  let w := indexWidth k.record
  let at_ := recordAddr k.record 32 + BitVec.ofNat 64 (first * w)
  (s.engineRead (s.cmdReach core i k) (ownerOf core i k) at_ (n * w)).then core i k fun g s =>
    let idx := (List.range n).map fun j =>
      if g.poisoned.isSome then none else some (bitsOfBytes 64 ((g.bytes.drop (j * w)).take w)).toNat
    let b : IndexBatch :=
      { first := first, index := idx, left := (List.range n).map fun j => { row := first + j },
        ready := s.now + if k.op = 2 then 180 else 1 }
    let s := s.modCmd core i k.seq fun k =>
      { k with pos := k.pos + 1, batches := k.batches ++ [b], ready := s.now + 1,
               status := if g.poisoned.isSome ∧ k.status = 0 then 4 else k.status }
    s.withCmd core i k.seq fun e => some ((s.ownLeft core i e).getD s)

/-- A command after a step of a row of a batch: the row's progress, or its end. -/
def Cmd.stepRow (k : Cmd) (first : Nat) (w : RowLeft) (done : Bool) : Cmd :=
  { k with batches := (k.batches.map fun e =>
      if e.first = first then
        { e with left := if done then e.left.filter fun v => v.row ≠ w.row else e.left.map fun v => if v.row = w.row then w else v }
      else e).filter fun e => !e.left.isEmpty }

/-- Moves the next piece of a row of a batch. -/
def State.moveRow (s : State) (core : CoreId) (i : Fin 17) (k : Cmd) (b : IndexBatch) (w : RowLeft) : Option State :=
  match s.ownLeft core i k with
  | none => none
  | some s =>
    let inTable := (b.row k.record w.row).isSome
    let pattern : Option Dword := if inTable then none else some 0
    let all := k.piecesOfRow b w.row
    let moved : Step (Option LineBuf) := match all.drop w.moved with
      | p :: _ => s.movePiece (s.cmdReach core i k) (ownerOf core i k) pattern w.held p
      | [] => .ok w.held s
    moved.then core i k fun line s =>
      let bad := line.any LineBuf.poisoned
      let done := decide (all.length ≤ w.moved + 1)
      let count := (if bad && !w.spoilt then 1 else 0) + (if done && !inTable then 1 else 0)
      let s := s.modCmd core i k.seq fun k =>
        { k.stepRow b.first { w with moved := w.moved + 1, held := line, spoilt := w.spoilt || bad } done with
          errors := k.errors + count, status := if bad && k.status == 0 then 4 else k.status, ready := s.now + 1 }
      s.withCmd core i k.seq fun e =>
        if e.batches.isEmpty ∧ batchCount e.record ≤ e.pos then some (s.finishCmd core i e 0)
        else some ((s.ownLeft core i e).getD s)

/-- The rows that may land next: any row in flight, but of SCATTER's rows that name one table row the lowest first. -/
def Cmd.landing (k : Cmd) (now : Nat) : List (IndexBatch × RowLeft) :=
  let all := k.batches.flatMap fun b => b.left.map fun w => (b, w)
  all.filter fun p => decide (p.1.ready ≤ now) && (k.op == 2 || match p.1.row k.record p.2.row with
    | none => true
    | some x => !all.any fun q => decide (q.2.row < p.2.row) && decide (q.1.row k.record q.2.row = some x))

/-- A step of GATHER or SCATTER: the next index read where fewer than 4 batches are in flight, else a row in flight, in no fixed
order; one that halts only ends the lines that it is writing (18 R379). DEDUCED (log 29). -/
def State.indexedStep (s : State) (core : CoreId) (i : Fin 17) (k : Cmd) : Option State :=
  if rowCount k.record = 0 then some (s.finishCmd core i k 0)
  else if !k.halting ∧ k.pos < batchCount k.record ∧ k.batches.length < 4 then s.readBatch core i k
  else
    let rows := (k.landing s.now).filter fun p => !k.halting || k.rowOpen p.1 p.2
    let c := s.choose rows.length
    match rows[c.1]? with
    | none => none
    | some p => c.2.moveRow core i k p.1 p.2

/-- A running command that moves rows goes on. -/
def State.moveStep (core : CoreId) (i : Fin 17) (s : State) (k : Cmd) : Option State :=
  if !k.read then s.beginMove core i k
  else if k.op = 2 ∨ k.op = 3 then s.indexedStep core i k
  else s.pieceStep core i k

/-- A step of an event of a chain: none where the chain does not exist or nothing can move. -/
def State.chainEvent (s : State) (core : CoreId) (chain op : Nat) (run : CoreId → Fin 17 → State → Cmd → Option State) :
    Option State :=
  if h : chain < 17 then s.chainStep core ⟨chain, h⟩ op (run core ⟨chain, h⟩) else none

/-- COPY. -/
def execCopy (core : CoreId) (chain : Nat) (s : State) : Result := .next ((s.chainEvent core chain 1 State.moveStep).getD s)
/-- GATHER. -/
def execGather (core : CoreId) (chain : Nat) (s : State) : Result := .next ((s.chainEvent core chain 2 State.moveStep).getD s)
/-- SCATTER. -/
def execScatter (core : CoreId) (chain : Nat) (s : State) : Result := .next ((s.chainEvent core chain 3 State.moveStep).getD s)
/-- FILL. -/
def execFill (core : CoreId) (chain : Nat) (s : State) : Result := .next ((s.chainEvent core chain 4 State.moveStep).getD s)
/-- MARKER. -/
def execMarker (core : CoreId) (chain : Nat) (s : State) : Result := .next ((s.chainEvent core chain 6 State.moveStep).getD s)

/-! ## Shoot-downs (09 R222) -/

/-- A shoot-down of n bytes from a device-half address on, for one context or all: every access that has begun is performed,
and the translations leave the TLBs. -/
def State.shootDown (s : State) (ctx : Option Nat) (base n : Nat) : State :=
  let s := s.settleWhen fun f => !s.lineBusy (8 * f.word) 8 none
  { s with tlb := s.tlb.filter fun e =>
      !(decide (e.base < base + n) && decide (base < e.base + e.size) && match ctx with
        | none => true
        | some c => !e.global && decide (e.ctx = c)) }

/-! ## MIGRATE (09 R224, R225) -/

/-- The address of the leaf line of a device-half address, where the upper levels lead to one; the error is a trap cause. -/
def State.leafLine (s : State) (core ctx va : Nat) : Except Nat Nat :=
  let table := fun (pa align : Nat) => (s.tableRead core pa 8).1.bind fun e => (nextTable e align).elim (.error causeLdpf) .ok
  if !s.ctxEnabled ctx then .error causeLdpf
  else
    (table (s.ctxRoot ctx + 8 * bitRange va 50 41) 8192).bind fun t1 =>
    (table (t1 + 8 * bitRange va 40 31) 8192).bind fun t2 =>
    (table (t2 + 8 * bitRange va 30 21) 256).map fun t3 => t3 + 64 * bitRange va 20 19

/-- The summary word of a leaf line's entries (R217). -/
def summaryOf (line : Nat) : Nat :=
  let frame := fun j => bitRange (leafField line j) 48 19
  let spacing : Int := (BitVec.ofInt 30 ((frame 1 : Int) - frame 0)).toInt
  let claim := (List.range 8).all fun j =>
    bitRange (leafField line j) 0 0 == 1 && bitRange (leafField line j) 55 49 == 0 &&
    bitRange (leafField line j) 18 0 == bitRange (leafField line 0) 18 0 &&
    decide ((frame j : Int) = frame 0 + j * spacing)
  if claim then 1 + 2 * (BitVec.ofInt 30 spacing).toNat else 0

/-- A leaf line with another frame in entry j, and its summary. -/
def withFrame (line j frame : Nat) : Nat :=
  let old := leafField line j
  let new := bitRange old 18 0 + 2 ^ 19 * frame + 2 ^ 49 * bitRange old 55 49
  let entries := (List.range 8).foldl (fun a i => a + 2 ^ (56 * i) * (if i = j then new else leafField line i)) 0
  entries + 2 ^ 448 * summaryOf entries

/-- The bytes of a frame become undefined. DESIGN CHOICE (log 13). -/
def State.scrambleFrame (s : State) (pa : Nat) : State :=
  match s.locOfPa pa with
  | none => s
  | some loc =>
    if !isHome loc then s
    else
      { (s.homeStore 0 loc ((List.range 65536).map fun j => some (Config.migrationByte (s.choice + j)))) with
        choice := s.choice + 65536 }

/-- Moves a page of a context to a destination frame, as one step: none where it must wait for owned lines; else whether it
moved. -/
def State.migratePage (s : State) (core ctx : Nat) (va : Nat) (dst : Nat) : Option (Bool × State) :=
  let fail := fun (s : State) => some (false, s.scrambleFrame dst)
  match s.locOfPa dst with
  | none => fail s
  | some dest =>
    if !isHome dest ∨ 2 ^ 51 ≤ va then fail s
    else
      match s.leafLine core ctx va with
      | .error c => if c = causeWait then none else fail s
      | .ok at_ =>
        match (s.tableRead core at_ 64).1 with
        | .error c => if c = causeWait then none else fail s
        | .ok line =>
          match leafEntry ctx va line with
          | none => fail s
          | some e =>
            match s.locOfPa (e.pa va), s.locOfPa at_ with
            | some src, some leaf =>
              if !isHome src ∨ !s.reaches core src ∨ !s.reaches core dest then fail s
              else if s.blocked src 65536 ∨ s.blocked dest 65536 ∨ s.blocked leaf 64 then none
              else
                let r := s.homeRead e.key src 65536
                if (r.2.poisonAt src 65536).isSome then fail r.2
                else
                  let s := r.2.homeStore e.key dest (r.1.map some)
                  let s := s.homeStore 0 leaf
                    ((bytesOfBits (BitVec.ofNat 512 (withFrame line (bitRange va 18 16) (dst / 65536))) 64).map some)
                  some (true, s.shootDown (if e.global then none else some ctx) va 65536)
            | _, _ => fail s

/-- The move of a MIGRATE that has passed its checks. -/
def State.migrateMove (s : State) (core : CoreId) (i : Fin 17) (k : Cmd) (r : BitVec 512) : Option State :=
  match s.migratePage core (recordField r 32 2) (recordAddr r 16).toNat (recordField r 24 8) with
  | none => none
  | some (ok, s) => some (s.finishCmd core i k (if ok then 0 else 6))

/-- MIGRATE: its checks at its start, and its move, which may wait for owned lines. DEDUCED (log 29). -/
def State.migrateStep (core : CoreId) (i : Fin 17) (s : State) (k : Cmd) : Option State :=
  if k.read then s.migrateMove core i k k.record
  else s.readRecord core i k fun r s =>
    let va := recordAddr r 16
    let dst := recordField r 24 8
    let ctx := recordField r 32 2
    let crec := recordAddr r 56
    let crecStatus := (s.cmdReach core i k).crecStatus crec
    let s := s.modCmd core i k.seq fun k => { k with record := r, crec := crec, read := true }
    let k := { k with crec := crec }
    if i ≠ 16 then some (s.finishCmd core i k 8)
    else if recordField r 34 22 ≠ 0 ∨ va.toNat % 65536 ≠ 0 ∨ dst % 65536 ≠ 0 ∨ ctx = 0 ∨ 4095 < ctx ∨ ¬ s.ctxValid ctx then
      some (s.finishCmd core i k 1)
    else
      let range := (s.cmdReach core i k).status .store va 65536
      if range ≠ 0 then some (s.finishCmd core i k range)
      else if crecStatus ≠ 0 then some (s.finishCmd core i k crecStatus)
      else some ((s.migrateMove core i k r).getD s)

/-- MIGRATE. -/
def execMigrate (core : CoreId) (chain : Nat) (s : State) : Result :=
  .next ((s.chainEvent core chain 5 State.migrateStep).getD s)

end Sys2Proof.Machine
end

