-- ==== Sys2Proof/Machine/Team.lean ====
section
/-! DEFINITION. Teams: farm words, the rendezvous and the cross-hart collectives (08 R187 to R197), and the end of a hart
(04 R119, 07 R164, R180, 17 R367). -/

namespace Sys2Proof.Machine

/-! ## Farms (R183, R184, R188, R189) -/

/-- FARM. DEDUCED (log 34). -/
def execFarm (f : BitVec 3) (a b : Reg) (s : State) : Result :=
  .next (runWord (.farm f a b) (fun s =>
    if s.rx b = 0 then .trap s causeBounds 0
    else
      .retire (s.modLaunch s.self.launch fun l =>
        match l.farm.get? f.toNat with
        | some _ => l
        | none => { l with farm := l.farm.put f.toNat { total := s.rx a, size := s.rx b, next := 0 } })) s)

/-- A draw from a slot (R184): the strip base, and the slot after it. -/
def FarmSlot.draw (f : FarmSlot) : Dword × FarmSlot :=
  if f.total ≤ f.next then (BitVec.allOnes 64, f)
  else (f.next, { f with next := BitVec.ofNat 64 (min (f.next.toNat + f.size.toNat) f.total.toNat) })

/-- FNEXT. DEDUCED (log 34). -/
def execFnext (d : Reg) (f : BitVec 3) (s : State) : Result :=
  .next (runWord (.fnext d f) (fun s =>
    let n := s.self.launch
    let l := s.launches.get? n
    let home := (l.bind fun l => l.home).getD (pairOfCore s.cur.core)
    let ready := s.now + 60 + 22 * ((routeXY (pairOfCore s.cur.core) home).length - 1)
    match l.bind fun l => l.farm.get? f.toNat with
    | none => .retire (s.resultAt d (BitVec.allOnes 64 - 1) ready)
    | some slot =>
      let s := s.modLaunch n fun l => { l with farm := l.farm.put f.toNat slot.draw.2 }
      .retire (s.resultAt d slot.draw.1 ready)) s)

/-! ## The rendezvous (R190 to R194) -/

/-- The kinds of a phase: 0 barrier, else from the fn of the XTREE word and its xb field. -/
def kindBarrier : Nat := 0
/-- The kind of an XTREE word. -/
def kindTree (fn field : Nat) : Nat := 1 + 32 * fn + field

/-- The harts of a team that are resident. -/
def State.teamHarts (s : State) (launch team : Nat) : List HartKey :=
  (s.harts.filter fun e => decide (e.2.launch = launch) && decide (e.2.team = team)).map Prod.fst

/-- Changes the harts of a team wherever the device holds them: resident, in a shadow bank, or of a stopped context. -/
def State.modTeamHarts (s : State) (launch team : Nat) (f : Hart → Hart) : State :=
  let g := fun (t : Hart) => if t.launch = launch ∧ t.team = team then f t else t
  { s with
    harts := s.harts.map fun e => (e.1, g e.2)
    clusters := s.clusters.map fun (e : Nat × Cluster) =>
      (e.1, if e.2.bank.isEmpty then e.2 else { e.2 with bank := e.2.bank.map fun b => (b.1, g b.2) })
    ctxStates := s.ctxStates.map fun (e : Nat × CtxState) =>
      (e.1, if e.2.harts.isEmpty then e.2 else { e.2 with harts := e.2.harts.map fun b => (b.1, g b.2) }) }

/-- Whether a hart waits in a rendezvous word at which it has arrived, and runs. -/
def Hart.atRendezvous (t : Hart) : Bool := t.wait == .arrived && t.runs

/-- Breaks the phase of a team (R194): every hart that has arrived in it takes BARBRK, at the word it waits in or at its next
rendezvous word. -/
def State.breakPhase (s : State) (launch team code : Nat) : State :=
  match s.team? launch team with
  | none => s
  | some t =>
    let s := s.modTeam launch team fun t => { t with ph := t.ph + 1, arrived := 0, supplied := [] }
    let s := s.modTeamHarts launch team fun v => if v.pend ∧ v.pt = t.ph then { v with broken := some code } else v
    (s.teamHarts launch team).foldl (fun s h =>
      let v := s.hart h
      if v.broken.isSome && v.atRendezvous then
        (s.setHart h { v with pend := false, broken := none }).takeTrap h causeBarbrk (BitVec.ofNat 64 code) v.sc.pc
      else s) s

/-- The results of a collective (R196): each participant's value, and flags. -/
def treeResults (kind : Nat) (l : List (Nat × Dword × Dword)) : List (Nat × Dword) × Flags :=
  let l := sortBy (fun (a b : Nat × Dword × Dword) => decide (a.1 ≤ b.1)) l
  let vs := l.map fun (p : Nat × Dword × Dword) => p.2.1
  let every := fun (v : Dword) => l.map fun (p : Nat × Dword × Dword) => (p.1, v)
  let fold := fun (f : Dword → Dword → Dword) => vs.tail.foldl f (vs.headD 0)
  let fn := (kind - 1) / 32
  let unsigned := (kind - 1) % 32 == 1
  let less := fun (a b : Dword) => if unsigned then a.ult b else a.slt b
  match fn with
  | 0 => (every (fold (· + ·)), 0)
  | 1 => (every (fold fun a b => if less a b then b else a), 0)
  | 2 => (every (fold fun a b => if less b a then b else a), 0)
  | 3 => (l.map fun p => (p.1, (l.filter fun q => decide (q.1 ≤ p.1)).foldl (fun a q => a + q.2.1) 0), 0)
  | 4 =>
    let root := (l.head?.map fun (p : Nat × Dword × Dword) => p.2.2).getD 0
    (every (((l.find? fun p => BitVec.ofNat 64 p.1 = root).map fun p => p.2.1).getD 0), 0)
  | _ =>
    let f := match (kind - 1) % 32 with
      | 0 => fmtF32
      | 1 => fmtBf16
      | _ => fmtF16
    let mode := ((l.head?.map fun (p : Nat × Dword × Dword) => p.2.2).getD 0).toNat
    let leaf := fun (v : Dword) => (f.round mode (f.decode (v.toNat % 2 ^ f.bits))).1
    let r := treeSum f mode (vs.length + 1) (vs.map leaf)
    (every (BitVec.ofNat 64 r.1), r.2)

/-- Whether an XBCAST breaks at its completion (R194, code 3). -/
def broadcastBreaks (kind : Nat) (l : List (Nat × Dword × Dword)) : Bool :=
  (kind - 1) / 32 == 4 && kind != 0 &&
    match l with
    | [] => false
    | p :: ps => ps.any (fun q => q.2.2 != p.2.2) || !l.any fun q => BitVec.ofNat 64 q.1 == p.2.2

/-- The register that the XTREE word of a hart writes. -/
def treeDest (w : Word) : Reg := w.extractLsb' 21 5

/-- The word of the running hart completes with its phase: its result, and the acquire at core scope (R191 to R193, R197). DEDUCED
(log 34). -/
def arrivalDone (kind : Nat) (o : Dword × BitVec 7 × Nat) (s : State) : Flow :=
  let s := (s.modSelf fun t => { t with pend := false, outcome := none }).acquireBy s.cur 1
  if kind = 0 then .retire (s.delay (s.now + 6))
  else
    let ready := s.now + 8 + (if (kind - 1) / 32 = 5 then 6 else 2) * ceilLog2 o.2.2
    .retire (((s.resultAt (treeDest s.ir) o.1 ready).raiseOn s.me o.2.1).delay ready)

/-- The phase of a team completes: every hart that waits in it goes on, one that is stopped once it runs again. DEDUCED (log 34). -/
def State.completePhase (s : State) (launch team : Nat) : State :=
  match s.team? launch team with
  | none => s
  | some t =>
    if broadcastBreaks t.kind t.supplied then s.breakPhase launch team 3
    else
      let r := if t.kind = 0 then ([], 0) else treeResults t.kind t.supplied
      let s := s.modTeam launch team fun t => { t with ph := t.ph + 1, arrived := 0, supplied := [] }
      let value := fun (v : Hart) => ((r.1.find? fun p => p.1 = v.csr.hid).map Prod.snd).getD 0
      let s := s.modTeamHarts launch team fun v =>
        if v.pend ∧ v.pt = t.ph ∧ v.wait = .arrived then { v with outcome := some (value v, r.2, t.supplied.length) } else v
      (s.teamHarts launch team).foldl (fun s h =>
        match (s.hart h).outcome with
        | some o => if (s.hart h).atRendezvous then s.asHart h fun s => State.finish (arrivalDone t.kind o s) else s
        | none => s) s

/-- A BARBRK that a broken phase has left for the running hart's rendezvous word. -/
def State.brokenTrap (s : State) : Option Flow :=
  s.self.broken.map fun code =>
    .trap (s.modSelf fun t => { t with broken := none, pend := false }) causeBarbrk (BitVec.ofNat 64 code)

/-- Whether the phase of the running hart's pending arrival is over. -/
def State.phaseOver (s : State) : Bool :=
  match s.team? s.self.launch s.self.team with
  | some t => decide (s.self.pt < t.ph)
  | none => true

/-- A hart is counted in the phase of its team. -/
def State.joinPhase (s : State) (h : HartKey) (v : Team) (kind : Nat) (value extra : Dword) : State :=
  let t := s.hart h
  (s.modTeam t.launch t.team fun v =>
    { v with kind := kind, arrived := v.arrived + 1, supplied := v.supplied ++ [(t.csr.hid, value, extra)] }).modHart h fun t =>
      { t with pend := true, pt := v.ph }

/-- An ARRIVE whose release has not been performed at its issue counts once it has (R191, R192); with the kind of another word it breaks
the phase (R194). -/
def State.arrivalStep (s : State) (h : HartKey) : Option State :=
  let t := s.hart h
  (t.orders.find? fun p => p.arrives && p.settled).map fun p =>
    let s := s.setOrder h p.owner none
    match s.team? t.launch t.team with
    | none => s
    | some v =>
      if 0 < v.arrived ∧ v.kind ≠ kindBarrier then
        (s.breakPhase t.launch t.team 2).modHart h fun t => { t with pend := true, broken := some 2 }
      else
        let s := s.joinPhase h v kindBarrier 0 0
        if v.live ≤ v.arrived + 1 then s.completePhase t.launch t.team else s

/-- The arrival of the running hart, once its release is performed; until then a word that waits for its phase waits with what it has
read, and an ARRIVE retires (R191). -/
def arriveNow (kind : Nat) (value extra : Dword) (waits : Bool) (s : State) : Flow :=
  match (s.modSelf fun t => { t with pend := false }).release s.me 1 s.self.serial with
  | .wait =>
    if waits then s.await (.releasing value extra)
    else
      .retire (s.modSelf fun t =>
        { t with pend := false
                 orders := t.orders ++ [{ streams := 511, loads := false, release := some 1, acquire := none, ready := s.now,
                                          owner := t.serial, arrives := true }] })
  | .miss m s => .trap s m.cause m.value
  | .ok _ s =>
    let t := s.self
    match s.team? t.launch t.team with
    | none => .retire s
    | some v =>
      if 0 < v.arrived ∧ v.kind ≠ kind then
        .trap (s.breakPhase t.launch t.team 2) causeBarbrk 2
      else
        let s := s.joinPhase s.me v kind value extra
        let last := decide (v.live ≤ v.arrived + 1)
        if waits then
          let s := s.modSelf fun t =>
            { t with wait := .arrived, waitWord := s.ir, waitFrom := if t.wait = .none then s.now else t.waitFrom }
          .gone (if last then s.completePhase t.launch t.team else s)
        else .retire (if last then s.completePhase t.launch t.team else s)

/-- A word that has arrived and runs again: its phase is broken, over, or still open. -/
def waitArrived (kind : Nat) (s : State) : Flow :=
  match s.brokenTrap with
  | some f => f
  | none =>
    match s.self.outcome with
    | some o => arrivalDone kind o s
    | none => .hold s

/-- arrive(kind) of R191; `waits` says whether the word then waits for the phase. The values are read at issue (R196). -/
def arriveFlow (kind : Nat) (value extra : Dword) (waits : Bool) (s : State) : Flow :=
  match s.self.wait with
  | .arrived => waitArrived kind s
  | .releasing v e => arriveNow kind v e waits s
  | _ =>
    match s.brokenTrap with
    | some f => f
    | none => if s.self.pend && !s.phaseOver then .hold s else arriveNow kind value extra waits s

/-- ARRIVE. -/
def execArrive (s : State) : Result := .next (runWord .arrive (arriveFlow kindBarrier 0 0 false) s)
/-- BAR. -/
def execBar (s : State) : Result := .next (runWord .bar (arriveFlow kindBarrier 0 0 true) s)
/-- AWAIT. -/
def execAwait (s : State) : Result :=
  .next (runWord .await (fun s =>
    if s.self.wait = .arrived then waitArrived kindBarrier s
    else
      match s.brokenTrap with
      | some f => f
      | none =>
        if !s.self.pend then .retire s
        else if s.phaseOver then .retire ((s.modSelf fun t => { t with pend := false }).acquireBy s.cur 1)
        else s.await .arrived) s)

/-- XREDADD. -/
def execXredadd (d a : Reg) (s : State) : Result :=
  .next (runWord (.xredadd d a) (fun s => arriveFlow (kindTree 0 0) (s.rx a) 0 true s) s)
/-- XREDMAX. -/
def execXredmax (d a : Reg) (u : BitVec 1) (s : State) : Result :=
  .next (runWord (.xredmax d a u) (fun s => arriveFlow (kindTree 1 u.toNat) (s.rx a) 0 true s) s)
/-- XREDMIN. -/
def execXredmin (d a : Reg) (u : BitVec 1) (s : State) : Result :=
  .next (runWord (.xredmin d a u) (fun s => arriveFlow (kindTree 2 u.toNat) (s.rx a) 0 true s) s)
/-- XSCANADD. -/
def execXscanadd (d a : Reg) (s : State) : Result :=
  .next (runWord (.xscanadd d a) (fun s => arriveFlow (kindTree 3 0) (s.rx a) 0 true s) s)
/-- XBCAST. -/
def execXbcast (d a b : Reg) (s : State) : Result :=
  .next (runWord (.xbcast d a b) (fun s => arriveFlow (kindTree 4 0) (s.rx a) (s.rx b) true s) s)
/-- XREDFADD. -/
def execXredfadd (d a : Reg) (f : BitVec 2) (s : State) : Result :=
  .next (runWord (.xredfadd d a f) (fun s =>
    arriveFlow (kindTree 5 f.toNat) (s.rx a) (s.self.csr.rmode.setWidth 64) true s) s)

/-! ## The end of a hart (R119, R164, R180, R194, R367, 19 R396, R401, R408) -/

/-- Whether a context has a hart on either core of a twin pair. -/
def State.twinInUse (s : State) (t : PairKey) (ctx : Nat) : Bool :=
  let here := fun (e : Nat × Hart) => decide (twinOfCore (coreOfHart e.1) = t) && decide (e.2.ctx = ctx)
  s.harts.any here || (s.ctxState ctx).harts.any here
    || s.clusters.any fun (e : Nat × Cluster) => e.2.bank.any fun b => here (4 * e.1 + b.1, b.2)

/-- The Narrows, Ferry and gate return to their start state when a context has no hart left on the pair. -/
def State.restTwin (s : State) (t : PairKey) (ctx : Nat) : State :=
  if s.twinInUse t ctx then s
  else
    s.modTwin t fun v =>
      { v with narrows := Vector.replicate 32 0, halves := [], points := [], up := {}, down := {}, gate := .on,
               gateWant := false, gateReady := none, gateSaved := false }

/-- The events of a steward without the trap events of a hart whose routine has not started (R370). DEDUCED (log 49). -/
def Steward.withdrawn (w : Steward) (h : HartKey) : List SupEvent :=
  let keep := fun (e : SupEvent) => !(decide (e.kind = 1) && decide (e.master = hartMaster h))
  match w.events with
  | e :: es => if w.running then e :: es.filter keep else (e :: es).filter keep
  | [] => []

/-- A hart ends: it gives up its slot and columns, leaves its team, and empties its places between the twins; its team retires
with its last hart. -/
def State.endHart (s : State) (h : HartKey) (failed : Bool) : State :=
  let t := s.hart h
  let core := coreOfHart h
  let slot := slotOfHart h
  let s := { s with harts := s.harts.erase h }
  let s := s.modCluster (clusterOfHart h) fun c =>
    { c with clears := c.clears ++ [{ slot := slot, colbase := t.colbase, cols := t.cols, since := s.now }],
             current := if c.current = some slot then none else c.current }
  let s := s.modSteward core fun w =>
    { w with events := w.withdrawn h }
  let s := s.modTwin (twinOfCore core) fun v =>
    { v with halves := v.halves.filter fun p => decide (p.2.hart ≠ h), points := v.points.filter fun p => decide (p.2.hart ≠ h) }
  let s := s.restTwin (twinOfCore core) t.ctx
  let s := s.modTeam t.launch t.team fun v => { v with live := v.live - 1, failed := v.failed || failed }
  match s.team? t.launch t.team with
  | none => s
  | some v =>
    let s := if 0 < v.arrived then s.breakPhase t.launch t.team 1 else s
    if v.live = 0 then
      s.modLaunch t.launch fun l =>
        { l with teams := l.teams.filter fun e => decide (e.num ≠ t.team), retired := if v.failed then l.retired else l.retired + 1 }
    else s

/-- A hart is marked failed with a completion status of its launch, and ends at once (R367). -/
def State.failHart (s : State) (h : HartKey) (status : Nat) : State :=
  if !s.resident h then s
  else
    let t := s.hart h
    let s := s.modLaunch t.launch fun l => { l with status := if l.status = 0 then status else l.status }
    let s := s.modCtx t.ctx fun c => { c with failures := c.failures + 1 }
    s.endHart h true

/-- EXIT. -/
def execExit (s : State) : Result :=
  .next (runWord .exit (fun s =>
    match s.cur with
    | .steward _ => .trap s causeIll s.wordValue
    | .hart h =>
      if s.self.strip.isSome then .trap s causeStripf 3
      else (s.release h 3 s.self.serial).flow s fun _ s => .gone (s.endHart h false)) s)

end Sys2Proof.Machine
end

