-- ==== Sys2Proof/Machine/Drain.lean ====
section
/-! DEFINITION. Drain programs: the micro set and its lane arithmetic (14 R320 to R328), drain slots, DPLOAD and DPINFO
(R313 to R319), the stores of a row, drain errors and the drain side log (R329 to R333). -/

namespace Sys2Proof.Machine

/-! ## Micro-words (03 R87, 14 R323) -/

/-- A drain micro-word. -/
abbrev MicroWord := BitVec 16
/-- op. -/
def microOp (w : MicroWord) : Nat := (w.extractLsb' 11 5).toNat
/-- dd. -/
def microDd (w : MicroWord) : Nat := (w.extractLsb' 8 3).toNat
/-- da. -/
def microDa (w : MicroWord) : Nat := (w.extractLsb' 5 3).toNat
/-- db or the immediate. -/
def microImm (w : MicroWord) : Nat := (w.extractLsb' 0 5).toNat

/-- Whether a micro-word keeps the fields and ranges of R323. -/
def microValid (w : MicroWord) : Bool :=
  let da := microDa w
  let k := microImm w
  match microOp w with
  | 0x00 => da == 0 && k == 0
  | 0x01 => da == 0
  | 0x02 => da == 0 && decide (k ≤ 30)
  | 0x03 => da == 0 && decide (k ≤ 30)
  | 0x0A => k == 0
  | 0x0B => k == 0
  | 0x0C => k == 0
  | 0x0D => decide (k ≤ 29)
  | 0x0E => k == 2 || k == 3 || k == 5 || k == 6 || k == 8
  | 0x0F => decide (k ≤ 1)
  | 0x10 => k == 0
  | 0x11 => decide (da ≤ 5) && decide (k ≤ if da = 5 then 28 else 30)
  | 0x12 => decide (da ≤ 6) && decide (k ≤ if da = 5 then 28 else 30)
  | 0x13 => da == 0 && k == 0
  | 0x17 => w == 0xB800
  | op => decide (op ≤ 0x16) && decide (k < 8)

/-- Whether an image of micro-words with a parameter count is refused with code 1 (R317). -/
def imageBroken (ws : List MicroWord) (q : Nat) : Bool :=
  let ran := ws.takeWhile fun w => decide (microOp w ≠ 0x17)
  ws.any (fun w => !microValid w) || (!ws.isEmpty && !ws.any fun w => decide (microOp w = 0x17))
    || decide (ws.length % 2 ≠ 0) || decide (1 < (ran.filter fun w => decide (microOp w = 0x13)).length) || decide (32 < q)

/-! ## Slots (R313, R316 to R319) -/

/-- A drain slot of a core, as a context sees it. -/
def CoreState.drainSlot (v : CoreState) (ctx slot : Nat) : Option DrainSlot :=
  match (v.slots[slot]?).join with
  | some d => if d.ctx = ctx then some d else none
  | none => none

/-- The micro-words of a slot of a core, whoever's. -/
def CoreState.slotLen (v : CoreState) (slot : Nat) : Nat :=
  match (v.slots[slot]?).join with
  | some d => d.words.length
  | none => 0

/-- The free micro-words of a core's drain memory. -/
def CoreState.freeWords (v : CoreState) : Nat := 1024 - ((List.range 32).map v.slotLen).sum

/-- Whether a queue entry or a running drain of a core names a slot. -/
def CoreState.namesSlot (v : CoreState) (slot : Nat) : Bool :=
  (v.queue ++ v.frozenMmas).any fun e => !e.load && decide (e.slot = slot)

/-- A parameter table from the parameters read. -/
def paramTable (ps : List Dword) : Vector Dword 32 := Vector.ofFn fun i => ps.getD i.val 0

/-- The code of a load of `len` micro-words into a slot of a core, after code 1. -/
def CoreState.loadCode (v : CoreState) (ctx slot len : Nat) : Nat :=
  if v.freeWords + v.slotLen slot < len then 2
  else if len = 0 ∧ (v.drainSlot ctx slot).isNone then 3
  else 0

/-- A load takes effect: the program and its parameters, or the parameters alone. -/
def CoreState.loadSlot (v : CoreState) (slot : Nat) (p : DrainSlot) : CoreState :=
  let old := (v.slots[slot]?).join
  let new := if p.words.isEmpty then old.map fun d => { d with params := p.params, q := p.q } else some p
  { v with slots := v.slots.setIfInBounds slot new }

/-- Reads an image, its count and its parameters from an address: the micro-words, the count and the parameters, which are
not read where the count is above 32. -/
def readImage (read : State → Dword → Nat → Acc (List Byte)) (a : Dword) (len : Nat) (s : State) :
    Acc (List MicroWord × Nat × List Dword) :=
  match (if len = 0 then .ok [] s else read s a (2 * len)) with
  | .wait => .wait
  | .miss m s => .miss m s
  | .ok image s =>
    let at_ := a + BitVec.ofNat 64 (2 * len)
    match read s at_ 4 with
    | .wait => .wait
    | .miss m s => .miss m s
    | .ok count s =>
      let q := (bitsOfBytes 32 count).toNat
      let ws := (List.range len).map fun i => bitsOfBytes 16 ((image.drop (2 * i)).take 2)
      if 32 < q ∨ q = 0 then .ok (ws, q, []) s
      else
        match read s (at_ + 4) (8 * q) with
        | .wait => .wait
        | .miss m s => .miss m s
        | .ok ps s => .ok (ws, q, (List.range q).map fun i => bitsOfBytes 64 ((ps.drop (8 * i)).take 8)) s

/-- DPLOAD (R316); it waits for the result of an older one of its hart to the same slot. DEDUCED (log 36). -/
def execDpload (d a b : Reg) (s : State) : Result :=
  .next (runWord (.dpload d a b) (fun s =>
    let c := s.secondX b
    let at_ := s.firstX a
    let slot := (c.extractLsb' 0 5).toNat
    let len := (c.extractLsb' 16 11).toNat
    if c.extractLsb' 5 11 ≠ 0 ∨ c.extractLsb' 27 37 ≠ 0 ∨ 1024 < len then .trap s causeBounds c
    else if at_.toNat % 4 ≠ 0 then .trap s causeAlign at_
    else if !inH at_ then .trap s causeProt at_
    else if s.self.loadsSlot s.now slot then .hold s
    else
      let issued := s.issueCycle
      s.recordFlow at_ at_ c (fun load s => readImage load at_ len s) fun r s =>
        let core := s.cur.core
        let ready := issued + 20 + (2 * len + 4 + (if 32 < r.2.1 then 0 else 8 * r.2.1) + 127) / 128
        let code := if imageBroken r.1 r.2.1 then 1 else (s.core core).loadCode s.myCtx slot len
        let program : DrainSlot := { ctx := s.myCtx, words := r.1, params := paramTable r.2.2, q := r.2.1 }
        let later := decide (code = 0 ∧ 0 < len) && (s.core core).namesSlot slot
        let note := fun (s : State) => s.modSelf fun t =>
          { t with slotLoads := t.slotLoads.filter (fun l => l.program.isSome || decide (s.now < l.ready)) ++
              [{ slot := slot, program := if later then some program else none, owner := t.serial, ready := ready }] }
        let s := if code = 0 && !later then s.modCore core fun v => v.loadSlot slot program else s
        .retire ((note s).resultAt d (BitVec.ofNat 64 code) ready .plain (if later then some s.self.serial else none))) s)

/-- A load of a hart whose slot nothing names any more takes effect; its result follows. -/
def State.slotStep (s : State) (h : HartKey) : Option State :=
  let core := coreOfHart h
  (s.hart h).slotLoads.findSome? fun l =>
    match l.program with
    | none => none
    | some p =>
      if (s.core core).namesSlot l.slot then none
      else
        let ready := max (s.now + 1) l.ready
        some ((s.modCore core fun v => v.loadSlot l.slot p).modHart h fun t =>
          { t with
            slotLoads := t.slotLoads.map fun o => if o.owner = l.owner then { o with program := none, ready := ready } else o
            sc := t.sc.bring l.owner 0 ready })

/-- DRAIN_SLOT_LOAD. -/
def execDrainSlotLoad (h : HartKey) (s : State) : Result := .next ((s.slotStep h).getD s)

/-- DPINFO (R319). DEDUCED (log 36). -/
def execDpinfo (d a : Reg) (s : State) : Result :=
  .next (runWord (.dpinfo d a) (fun s =>
    let v := s.core s.cur.core
    let slot := (s.rx a).toNat % 32
    let err := ((v.drainErr.find? fun e => e.1 = s.myCtx).map Prod.snd).getD 0
    let w := match v.drainSlot s.myCtx slot with
      | some p => 1 + 2 * p.words.length + 2 ^ 26 * p.q
      | none => 0
    .retire (s.resultAt d
      (BitVec.ofNat 64 (w + 2 ^ 12 * v.freeWords + (if v.namesSlot slot then 2 ^ 23 else 0) + 2 ^ 24 * err)) (s.now + 6))) s)

/-! ## Lane arithmetic (R323 to R326) -/

/-- The FP32 value of a lane. -/
def lane (v : Nat) : Num := fmtF32.decode v
/-- round(x, FP32, RM). -/
def toLane (rm : Nat) (x : Num) : Nat := (fmtF32.round rm x).1

/-- Bounds of 2 ^ (n / 2 ^ k) for n below 2 ^ k, in units of 2 ^ −p: a product of repeated square roots of 2. `low` and
`high` bound the root in hand. -/
def powBounds (p n : Nat) : Nat → Nat → Nat → Nat × Nat → Nat × Nat
  | 0, _, _, acc => acc
  | k + 1, low, high, acc =>
    let low := isqrt (low * 2 ^ p)
    let high := isqrt (high * 2 ^ p) + 1
    let acc := if n / 2 ^ k % 2 = 1 then (acc.1 * low / 2 ^ p, acc.2 * high / 2 ^ p + 1) else acc
    powBounds p n k low high acc

/-- 2 ^ (whole + n / 2 ^ k) rounded to FP32, at rising precisions until both bounds round alike. DEDUCED (log 36). -/
def roundPow (rm : Nat) (whole : Int) (n k : Nat) : Nat → Nat → Nat
  | 0, p => toLane rm (.fin false (powBounds p n k (2 * 2 ^ p) (2 * 2 ^ p) (2 ^ p, 2 ^ p)).1 (whole - p))
  | fuel + 1, p =>
    let b := powBounds p n k (2 * 2 ^ p) (2 * 2 ^ p) (2 ^ p, 2 ^ p)
    let x := toLane rm (.fin false b.1 (whole - p))
    let y := toLane rm (.fin false b.2 (whole - p))
    if x = y then x else roundPow rm whole n k fuel (4 * p)

/-- round(2 ^ a, FP32, RM) of a finite a (R324). DEDUCED (log 36). -/
def exp2Fin (rm : Nat) (neg : Bool) (m : Nat) (e : Int) : Nat :=
  if 0 ≤ e then
    let v : Int := if 16 ≤ e ∧ m ≠ 0 then 1024 else min 1024 (m * 2 ^ e.toNat : Nat)
    toLane rm (.fin false 1 (if neg then -v else v))
  else
    let k := (-e).toNat
    let i : Int := if neg then -(m : Int) else m
    let whole := i / 2 ^ k
    let n := (i % 2 ^ k).toNat
    if 1024 ≤ whole then toLane rm (.fin false 1 1024)
    else if whole < -1024 then toLane rm (.fin false 1 (-1024))
    else if n = 0 then toLane rm (.fin false 1 whole)
    else roundPow rm whole n k 3 320

/-- EXP2. -/
def laneExp2 (rm a : Nat) : Nat :=
  match lane a with
  | .nan => fmtF32.nan
  | .inf neg => if neg then 0 else fmtF32.infinity false
  | .fin neg m e => exp2Fin rm neg m e

/-- RCP. -/
def laneRcp (rm a : Nat) : Nat := toLane rm (lane a).rcp.1

/-- LSEM. -/
def laneLsem (rm a b : Nat) : Nat :=
  let x := lane a
  let y := lane b
  if x.isNan || y.isNan then fmtF32.nan
  else if !x.lt y then toLane rm (.fin false 1 0)
  else
    match x, y with
    | .fin .., .fin .. =>
      match (x.sub 0 y).1 with
      | .fin neg m e => exp2Fin rm neg m e
      | _ => 0
    | _, _ => 0

/-- TLI over a parameter table (R325). -/
def laneTli (rm : Nat) (params : Vector Dword 32) (k a : Nat) : Nat :=
  let p := fun (i : Nat) => (params[i]?).getD 0
  let n := (p k).toNat % 64
  if n = 0 ∨ 31 < k + 2 * n then fmtF32.nan
  else
    let x := lane a
    if x.isNan then fmtF32.nan
    else
      let start := fun (i : Nat) => lane ((p (k + 1 + 2 * i)).toNat % 2 ^ 32)
      let i := (((List.range n).filter fun i => !(start i).isNan && !x.lt (start i)).getLast?).getD 0
      let c := (p (k + 2 + 2 * i)).toNat
      toLane rm (Num.fma rm (lane (c % 2 ^ 32)) x (lane (c / 2 ^ 32))).1

/-- CVT: a value rounded to another format, or to an integral value, and held in FP32. -/
def laneCvt (rm f a : Nat) : Nat :=
  if f = 8 then toLane rm ((lane a).integral rm).1
  else
    match fmtOf f with
    | some g => toLane rm (g.decode (g.round rm (lane a)).1)
    | none => a

/-- A lane value that a micro-op carries: a NaN becomes canonical (R323). -/
def laneCopy (v : Nat) : Nat := if (lane v).isNan then fmtF32.nan else v

/-- |x|. -/
def laneAbs (a : Nat) : Nat := a % 2 ^ 31

/-- MAX of R66 over the magnitudes of lanes. -/
def maxMagnitude (l : List Nat) : Nat :=
  match l with
  | [] => 0
  | a :: as => toLane 0 (as.foldl (fun m x => Num.minMax true m (lane (laneAbs x))) (lane (laneAbs a)))

/-- A lane register. -/
def Lanes.reg (l : Lanes) (i : Nat) : List Nat := (l.d[i]?).getD []
/-- Writes a lane register. -/
def Lanes.put (l : Lanes) (i : Nat) (v : List Nat) : Lanes := { l with d := l.d.setIfInBounds i v }

/-- A(k, r). -/
def paramAddr (params : Vector Dword 32) (k r : Nat) : Dword :=
  (params[k]?).getD 0 + BitVec.ofNat 64 r * (params[k + 1]?).getD 0

/-- The micro-ops that touch lanes and parameters alone. -/
def Lanes.compute (l : Lanes) (rm : Nat) (params : Vector Dword 32) (w : MicroWord) : Lanes :=
  let dd := microDd w
  let k := microImm w
  let a := l.reg (microDa w)
  let b := l.reg (k % 8)
  let old := l.reg dd
  let bin := fun (f : Num → Num → Num × Flags) => l.put dd ((a.zip b).map fun p => toLane rm (f (lane p.1) (lane p.2)).1)
  let un := fun (f : Nat → Nat) => l.put dd (a.map f)
  let minmax := fun (big : Bool) => l.put dd ((a.zip b).map fun p => toLane rm (Num.minMax big (lane p.1) (lane p.2)))
  match microOp w with
  | 0x01 => l.put dd (List.replicate 128 (laneCopy (((params[k]?).getD 0).toNat % 2 ^ 32)))
  | 0x04 => bin (Num.add rm)
  | 0x05 => bin (Num.sub rm)
  | 0x06 => bin Num.mul
  | 0x07 => l.put dd (((a.zip b).zip old).map fun p => toLane rm (Num.fma rm (lane p.1.1) (lane p.1.2) (lane p.2)).1)
  | 0x08 => minmax true
  | 0x09 => minmax false
  | 0x0A => un fun x => toLane rm (Num.minMax true (lane x) (.fin false 0 0))
  | 0x0B => un (laneExp2 rm)
  | 0x0C => un (laneRcp rm)
  | 0x0D => un (laneTli rm params k)
  | 0x0E => un (laneCvt rm k)
  | 0x0F =>
    let n := if k = 0 then 32 else 128
    l.put dd ((List.range (128 / n)).flatMap fun j => List.replicate n (maxMagnitude ((a.drop (n * j)).take n)))
  | 0x10 =>
    let blocks := (List.range 4).map fun j => f4bBlock rm (((a.drop (32 * j)).take 32).map lane)
    { l.put dd (blocks.flatMap fun q => q.2.2.1.map fun c => toLane 0 (Num.ofInt c)) with
      scale := blocks.map fun q => some (q.1, q.2.1) }
  | 0x13 => { l with pending := some old }
  | 0x14 => l.put dd (((a.zip b).zip old).map fun p => laneCopy (if p.2 ≠ 0 then p.1.1 else p.1.2))
  | 0x15 => l.put dd ((a.zip b).map fun p => if (lane p.2).lt (lane p.1) then 0x3F800000 else 0)
  | 0x16 => l.put dd ((a.zip b).map fun p => laneLsem rm p.1 p.2)
  | _ => l

/-- The code of a lane that an f4b store takes: the lane, where it is an integer from 0 to 15. -/
def laneCode (v : Nat) : Nat := ((List.range 16).find? fun (c : Nat) => (lane v).eq (.fin false c 0)).getD 0

/-- The bytes that a store of lanes writes at its first address (R327). -/
def storeLanes (rm fmt : Nat) (v : List Nat) : List Byte :=
  let round := fun (f : Fmt) (n : Nat) => v.flatMap fun x => bytesOfBits (BitVec.ofNat (8 * n) (f.round rm (lane x)).1) n
  match fmt with
  | 0 => v.flatMap fun x => bytesOfBits (BitVec.ofNat 32 x) 4
  | 1 => round fmtBf16 2
  | 2 => round fmtF16 2
  | 3 => round fmtE4m3 1
  | 4 => round fmtE5m2 1
  | 5 => (List.range 64).map fun j => BitVec.ofNat 8 (laneCode (v.getD (2 * j) 0) + 16 * laneCode (v.getD (2 * j + 1) 0))
  | _ => bytesOfBits (BitVec.ofNat 32 (maxMagnitude v)) 4

/-- The bytes of the scale pairs of an f4b store. -/
def scaleBytes (l : Lanes) : List Byte :=
  l.scale.flatMap fun p => match p with
    | some q => [BitVec.ofNat 8 q.1, BitVec.ofNat 8 q.2]
    | none => [0xFF, 0x00]

/-- The alignment that a store format requires. -/
def storeAlign (fmt : Nat) : Nat :=
  match fmt with
  | 0 => 4
  | 1 => 2
  | 2 => 2
  | 6 => 4
  | _ => 1

/-! ## The accesses of a row (R327 to R332) -/

/-- How a drain row, or an access of it, ends. -/
inductive DrainEnd where
  | done (l : Lanes) (s : State)
  /-- A drain error: the kind of DPINFO.ERR and the status of an MMAF. -/
  | error (kind status : Nat) (s : State)
  /-- A protection failure of a translation, at an address. -/
  | freeze (va : Dword) (s : State)
  /-- The side log is full. -/
  | full (s : State)
  /-- An uncorrectable error on a table line, at an address. -/
  | bad (va : Dword) (s : State)
  | wait

/-- Who drains, as an agent of R200: the windows and allotments of the team, or for work of the host of the context. -/
def State.matReach (s : State) (core : CoreId) (e : MatEntry) (k : Agency) : Reach :=
  let mine := fun (t : Hart) =>
    match e.source with
    | .hart _ => decide (some (t.launch, t.team) = e.team)
    | .command i seq =>
      match (s.core core).chains[i]?.bind fun c => c.cmds.find? fun k => decide (k.seq = seq) with
      | some c => if c.hart.isSome then decide (some (t.launch, t.team) = e.team) else decide (t.ctx = e.ctx)
      | none => decide (t.ctx = e.ctx)
  { kind := k, core := core, ctx := e.ctx, window := some e.window, unit := k.unit,
    bands := some ((s.harts.filter fun h => decide (coreOfHart h.1 = core) && mine h.2).map fun h =>
      (clusterOfHart h.1 % 8, h.2.colbase, h.2.cols)) }

/-- A POISON event of a fold that finds its word poisoned (17 R365). -/
def State.foldPoison (s : State) (core : CoreId) (ctx : Nat) (va : Dword) : State :=
  s.poisonEvent core (BitVec.ofNat 16 (8192 + ctx)) ctx va

/-- Folds a magnitude into the FP32 word at a location (R244). -/
def State.foldAt (s : State) (core : CoreId) (ctx : Nat) (va : Dword) (t : Target) (m : Nat) : State :=
  if (s.poisonAt t.loc 4).isSome then s.foldPoison core ctx va
  else
    let old := s.homeRead t.key t.loc 4
    old.2.homeStore t.key t.loc
      ((bytesOfBits (BitVec.ofNat 32 (foldMax (bitsOfBytes 32 old.1).toNat m)) 4).map some)

/-- Whether the drain log of a core holds bytes of a range. -/
def CoreState.logMeets (v : CoreState) (va : Dword) (n : Nat) : Bool :=
  v.drainLog.any fun e => rangesMeet e.addr e.bytes.length va n

/-- A store or fold of a row, which has its array cycles: its checks, then memory, or the drain side log where its translation is invalid or an older entry
overlaps it. DEDUCED (log 36). Each is performed at its micro-word: R329 leaves open the order in which stores that do not overlap reach other
agents, and the model keeps that of their issue. DESIGN CHOICE (log 36). -/
def State.drainStore (s : State) (core : CoreId) (e : MatEntry) (row : Nat) (array fold : Bool) (align : Nat) (va : Dword)
    (bs : List Byte) (l : Lanes) : DrainEnd :=
  let r := s.matReach core e .drain
  let n := bs.length
  let use : Access := if fold then .update else .store
  let v := s.core core
  if (if array then selector va ≠ 10 else selector va ≠ 0) then .error 2 3 s
  else if va.toNat % align ≠ 0 then .error 1 2 s
  else
    match r.check use va n with
    | some m => .error (if m.cause = causeProt then 2 else 1) 2 s
    | none =>
      if array then
        if (arraysOf core va n).any fun k => (s.cluster k).fenced then .error 1 2 s
        else if s.accessBlocked r use va n then .wait
        else .done l (s.arrayStore core (offset va) (bs.map some))
      else
        let log := fun (s : State) =>
          if 32 ≤ v.drainLog.length then DrainEnd.full s
          else
            let entry : DrainEntry :=
              { addr := va, bytes := bs.map some, fold := fold, ctx := e.ctx, source := e.source, team := e.team, row := row }
            let fresh := !v.drainLog.any fun o => decide (o.addr.toNat / 65536 = va.toNat / 65536)
            let s := s.modCore core fun v => { v with drainLog := v.drainLog ++ [entry] }
            .done l (if fresh then s.postEvent core
              { kind := 3, master := 0x3000, ctx := e.ctx, value := lineOf va, pc := BitVec.ofNat 64 row, x := 6 } else s)
        if v.logMeets va n then log s
        else if s.accessBlocked r use va n then .wait
        else
          match s.translateParts r use false (pagesOf va n) with
          | (.error m, s) =>
            if m.cause = causeWait then .wait else if m.cause = causeLdpf then log s else if m.cause = causeUce then .bad va s else .freeze m.value s
          | (.ok parts, s) =>
            if parts.any fun p => (p.1.map Target.lost).getD false then .bad va s
            else if fold then
              match parts with
              | (some t, _) :: _ => .done l (s.foldAt core e.ctx va t (bitsOfBytes 32 bs).toNat)
              | _ => .done l s
            else .done l (s.writeParts none va parts (bs.map some)).2

/-- Reads FP32 elements of C-space for LDROW and LDCOL, and goes on with them. -/
def State.drainLoad (s : State) (core : CoreId) (e : MatEntry) (va : Dword) (n : Nat) (go : List Nat → DrainEnd) : DrainEnd :=
  let r := s.matReach core e .drain
  if (spaceSize (selector va)).isNone then .error 1 2 s
  else if selector va ≠ 12 then .error 2 3 s
  else
    match r.check .load va (4 * n) with
    | some _ => .error 1 2 s
    | none =>
      match s.poisonAt (r.typedLoc va) (4 * n) with
      | some i => .bad (va + BitVec.ofNat 64 i) s
      | none => go ((List.range n).map fun i => laneCopy (bitsOfBytes 32 (s.bytes (r.typedLoc (va + BitVec.ofNat 64 (4 * i))) 4)).toNat)

/-- The C row r of a matrix entry, as stored: `rowLoc` is its location. -/
def State.cRow (s : State) (rowLoc : Nat) : List Nat :=
  (List.range 128).map fun i => (bitsOfBytes 32 (s.bytes (rowLoc + 4 * i) 4)).toNat

/-- The number r of row j's C row, in rows of the window (R320). -/
def MatEntry.rowNumber (e : MatEntry) (j : Nat) : Nat := e.cAddr / 512 + j

/-- The location of row j's C row. -/
def MatEntry.rowLoc (e : MatEntry) (core j : Nat) : Nat := cLoc core (e.window.2.1 + e.cAddr + 512 * j)

/-- The C-space address of row j of an entry. -/
def MatEntry.rowAddr (e : MatEntry) (j : Nat) : Dword := BitVec.ofNat 64 (12 * 2 ^ 60 + e.cAddr + 512 * j)

/-- One micro-word of row j; a store into the arrays takes a window of them (09 R203). DEDUCED (log 36). -/
def State.microStep (s : State) (core : CoreId) (e : MatEntry) (j rowLoc : Nat) (l : Lanes) (w : MicroWord) : DrainEnd :=
  let rm := e.rm.toNat
  let k := microImm w
  let r := e.rowNumber j
  let at_ := paramAddr e.params k r
  let store := fun (array : Bool) =>
    let fmt := microDa w
    let bs := storeLanes rm fmt (l.reg (microDd w))
    let pairs := if fmt = 5 then some (paramAddr e.params (k + 2) r) else none
    let rows := if array then rowsOf at_ bs.length ++ (pairs.toList.flatMap fun a => rowsOf a 8) else []
    match s.windowsFor core (Agency.unit .drain) rows with
    | none => .wait
    | some s =>
      match s.drainStore core e j array (fmt == 6) (storeAlign fmt) at_ bs l, pairs with
      | .done l s, some a => s.drainStore core e j array false 1 a (scaleBytes l) l
      | o, _ => o
  match microOp w with
  | 0x00 =>
    match s.poisonAt rowLoc 512 with
    | some i => .bad (e.rowAddr j + BitVec.ofNat 64 i) s
    | none => .done (l.put (microDd w) ((s.cRow rowLoc).map laneCopy)) s
  | 0x02 => s.drainLoad core e at_ 1 fun v => .done (l.put (microDd w) (List.replicate 128 (v.headD 0))) s
  | 0x03 => s.drainLoad core e at_ 128 fun v => .done (l.put (microDd w) v) s
  | 0x11 => store true
  | 0x12 => store false
  | _ => .done (l.compute rm e.params w) s

/-- The end of a row: its pending C row is written (R328). -/
def State.rowEnd (s : State) (rowLoc : Nat) (l : Lanes) : State :=
  match l.pending with
  | some v => s.typedStore rowLoc ((v.flatMap fun x => bytesOfBits (BitVec.ofNat 32 x) 4).map some)
  | none => s

end Sys2Proof.Machine
end

