-- ==== Sys2Proof/Machine/Licence.lean ====
section
/-! DEFINITION. The matrix licence of a twin pair: requests, releases, the hand-over gap with its ballast, and the slot table
(13 R306 to R309, 18 R383, 19 R409 to R411). -/

namespace Sys2Proof.Machine

/-- The licence of a core's twin pair. -/
def State.licence (s : State) (core : CoreId) : Licence := (s.twin (twinOfCore core)).licence

/-- A (core, context) holds the licence, whether or not its release is pending. -/
def State.holdsLicence (s : State) (core ctx : Nat) : Bool := decide ((s.licence core).holder = some (core, ctx))
/-- A (core, context) holds the licence and has not released it. -/
def State.ownsLicence (s : State) (core ctx : Nat) : Bool := s.holdsLicence core ctx && !(s.licence core).releasing
/-- A (core, context) has a pending request. -/
def State.requestsLicence (s : State) (core ctx : Nat) : Bool :=
  (s.licence core).requests.any fun r => decide (r.1 = core) && decide (r.2.1 = ctx)

/-- Whether a request comes before another: by cycle, then the lower die, then the lower context (R306). -/
def requestBefore (a b : CoreId × Nat × Nat) : Bool :=
  decide (a.2.2 < b.2.2) || (decide (a.2.2 = b.2.2) &&
    (decide (dieOfCore a.1 < dieOfCore b.1) || (decide (a.1 = b.1) && decide (a.2.1 < b.2.1))))

/-- Lists a request in its place. -/
def putRequest (l : List (CoreId × Nat × Nat)) (r : CoreId × Nat × Nat) : List (CoreId × Nat × Nat) :=
  (l.filter fun e => !requestBefore r e) ++ r :: l.filter fun e => requestBefore r e

/-- Posts a request, unless one is pending. -/
def State.requestLicence (s : State) (core ctx : Nat) : State :=
  if s.requestsLicence core ctx then s
  else s.modLicence (twinOfCore core) fun l => { l with requests := putRequest l.requests (core, ctx, s.now) }

/-- Cancels the request of a (core, context). -/
def State.cancelRequest (s : State) (core ctx : Nat) : State :=
  s.modLicence (twinOfCore core) fun l =>
    { l with requests := l.requests.filter fun r => !(decide (r.1 = core) && decide (r.2.1 = ctx)) }

/-- Begins the release of the holder: the entries that may still stream are those that p names. -/
def State.beginRelease (s : State) (core ctx : Nat) (p : MatEntry → Bool) : State :=
  let s := s.modLicence (twinOfCore core) fun l => { l with releasing := true }
  s.modCore core fun v => { v with queue := v.queue.map fun e => if e.ctx = ctx then { e with owed := p e } else e }

/-- Takes the licence for a (core, context): its request goes to the head, the holder finishes its running A stream and is
given a pending request (R309, R383). -/
def State.forceLicence (s : State) (core ctx : Nat) : State :=
  let t := twinOfCore core
  let front := fun (s : State) => s.modLicence t fun l =>
    { l with requests := (core, ctx, s.now) :: l.requests.filter fun r => !(decide (r.1 = core) && decide (r.2.1 = ctx)) }
  match (s.twin t).licence.holder with
  | none => front s
  | some h =>
    if h = (core, ctx) then s
    else
      let s := s.beginRelease h.1 h.2 fun e => e.started && decide (e.rowsDone < e.m)
      front (s.requestLicence h.1 h.2)

/-! ## The words (R307, R308) -/

/-- Whether a free licence would be granted to a request made now: no gap runs and none is pending. -/
def Licence.idle (l : Licence) : Bool := l.holder.isNone && l.gap.isNone && l.requests.isEmpty

/-- Whether an entry is a migrated MMA that has not come back (R311). -/
def MatEntry.away (e : MatEntry) : Bool := e.migrated.isSome && (decide (e.rowsDone < e.m) || !e.tile.isEmpty)

/-- Whether a migrated MMA of another core keeps a core's engine (R311). -/
def State.engineLent (s : State) (core : CoreId) : Bool :=
  [core - 1, core + 1].any fun c => decide (c ≠ core) && (s.core c).queue.any fun e => decide (e.migrated = some core) && e.away

/-- MLIC.ACQ: the request is decided after 8 cycles, and the result says whether the licence is held then (R307). DEDUCED (log 35). -/
def execMlicAcq (d : Reg) (s : State) : Result :=
  .next (runWord (.mlicAcq d) (fun s =>
    let core := s.cur.core
    let ctx := s.myCtx
    if s.ownsLicence core ctx then .retire (s.resultAt d 1 (s.now + 8))
    else .retire ((s.requestLicence core ctx).resultAt d 0 (s.now + 8) .licence (some s.self.serial))) s)

/-- The results of MLIC.ACQ words whose requests have been decided. -/
def State.acqStep (s : State) (h : HartKey) : Option State :=
  let t := s.hart h
  match t.sc.board.find? fun w => w.kind == .licence && decide (w.ready ≤ s.now) && w.owner.isSome with
  | some w => some (s.modHart h fun t =>
      { t with sc := t.sc.bring (w.owner.getD 0) (ofBool (s.ownsLicence (coreOfHart h) t.ctx)) s.now })
  | none => none

/-- MLIC.ACQW: posts a request and holds the hart until the licence is held; a request that another hart's MLIC.REL cancels meanwhile is
posted again at the next attempt of the word. DESIGN CHOICE (log 35). -/
def execMlicAcqw (s : State) : Result :=
  .next (runWord .mlicAcqw (fun s =>
    let core := s.cur.core
    if s.ownsLicence core s.myCtx then .retire s else .hold (s.requestLicence core s.myCtx)) s)

/-- MLIC.REL; while a release of the context is pending the licence counts as not held, so that the context's newer request is cancelled.
DESIGN CHOICE (log 35). -/
def execMlicRel (s : State) : Result :=
  .next (runWord .mlicRel (fun s =>
    let core := s.cur.core
    let ctx := s.myCtx
    .retire (if s.ownsLicence core ctx then s.beginRelease core ctx fun _ => true else s.cancelRequest core ctx)) s)

/-- The slot-table entry that is current for a pair (R309). -/
def State.currentSlot (s : State) (t : PairKey) : MSlot :=
  ((s.twin t).mslots[s.devTime / 1000 % 64]?).getD {}

/-- The core that an entry names. -/
def MSlot.core (m : MSlot) (t : PairKey) : CoreId := if m.upper then upperCoreOf t else lowerCore t

/-- MLIC.ST. -/
def execMlicSt (d : Reg) (s : State) : Result :=
  .next (runWord (.mlicSt d) (fun s =>
    let core := s.cur.core
    let ctx := s.myCtx
    let l := s.licence core
    let slot := s.currentSlot (twinOfCore core)
    let bit := fun (b : Bool) (n : Nat) => if b then 2 ^ n else 0
    let other := l.holder.any fun h => decide (h.1 = core) && decide (h.2 ≠ ctx)
    let twin := l.holder.any fun h => decide (h.1 ≠ core)
    let named := slot.v && decide (slot.core (twinOfCore core) = core) && decide (slot.ctx.toNat = ctx)
    .retire (s.resultAt d (BitVec.ofNat 64
      (bit (s.holdsLicence core ctx) 0 + bit other 1 + bit twin 2 + bit (s.requestsLicence core ctx) 3 + bit l.gap.isSome 4
        + bit named 5)) (s.now + 4))) s)

/-! ## The events -/

/-- Whether a context has a hart on a core, or an MMA in its queue. -/
def State.matrixUse (s : State) (core ctx : Nat) : Bool :=
  s.harts.any (fun e => decide (coreOfHart e.1 = core) && decide (e.2.ctx = ctx))
    || ((s.core core).queue ++ (s.core core).frozenMmas).any fun e => !e.load && decide (e.ctx = ctx)

/-- A release that is due takes effect, and the gap begins; a context with no hart and no MMA on a core loses its licence and
its requests there (R306). -/
def State.releaseStep (s : State) (t : PairKey) : Option State :=
  let l := (s.twin t).licence
  let dead := l.requests.filter fun r => !s.matrixUse r.1 r.2.1 && decide (s.activeCtx r.1 = some r.2.1)
  if !dead.isEmpty then
    some (s.modLicence t fun l => { l with requests := l.requests.filter fun r => !dead.contains r })
  else
    match l.holder with
    | none => none
    | some (core, ctx) =>
      let streaming := decide (s.now < (s.core core).streamNext) || (s.core core).queue.any fun e =>
        !e.load && decide (e.ctx = ctx) && e.owed && decide (e.rowsDone < e.m)
      let idle := !s.matrixUse core ctx && decide (s.activeCtx core = some ctx)
      if ((l.releasing && !streaming) || idle) && !s.engineLent core then
        some (s.modLicence t fun l => { l with holder := none, releasing := false, gap := some (s.now, core, none) })
      else none

/-- LICENCE_RELEASE. -/
def execLicenceRelease (pair : PairKey) (s : State) : Result := .next ((s.releaseStep pair).getD s)

/-- The ballast level of each engine, in eighths, in a cycle of a gap (19 R410). -/
def ballastLevel (now : Nat) (gap : Nat × CoreId × Option CoreId) : Nat × Nat :=
  let t := now - gap.1
  let put := fun (c : CoreId) (v : Nat) => if upperCore c then (0, v) else (v, 0)
  if now < gap.1 ∨ 480 ≤ t then (0, 0)
  else if t < 240 then put gap.2.1 (7 - t / 30)
  else
    match gap.2.2 with
    | some c => put c ((t - 240) / 30 + 1)
    | none => (0, 0)

/-- The ballast of a gap steps on, charged to the system account (18 R391); at its middle the engine that ramps up is that of the oldest request pending by then. -/
def State.ballastStep (s : State) (t : PairKey) : Option State :=
  let l := (s.twin t).licence
  match l.gap with
  | none => if l.ballast = (0, 0) then none else some (s.modLicence t fun l => { l with ballast := (0, 0) })
  | some g =>
    let early := (l.requests.find? fun r => decide (r.2.2 ≤ g.1 + 240)).map Prod.fst
    let g' := if s.now < g.1 + 240 ∨ g.2.2.isSome then g else (g.1, g.2.1, early)
    let level := ballastLevel s.now g'
    if g' = g ∧ level = l.ballast then none
    else some ((s.modLicence t fun l => { l with gap := some g', ballast := level }).charge 0)

/-- BALLAST_STEP. -/
def execBallastStep (pair : PairKey) (s : State) : Result := .next ((s.ballastStep pair).getD s)

/-- The licence passes to the oldest request: at the end of the gap, or 8 cycles after a request for a free licence. -/
def State.grantStep (s : State) (t : PairKey) : Option State :=
  let l := (s.twin t).licence
  if l.holder.isSome then none
  else
    let give := match l.requests with
      | r :: rest =>
        (s.modLicence t fun l =>
          { l with holder := some (r.1, r.2.1), requests := rest, gap := none, releasing := false, ballast := (0, 0) }).modCtx
          r.2.1 fun c => { c with licences := c.licences.filter fun k => decide (k ≠ r.1), licencesHeld := c.licencesHeld.filter fun k => decide (k ≠ r.1) }
      | [] => s.modLicence t fun l => { l with gap := none, ballast := (0, 0) }
    match l.gap with
    | some g => if s.now < g.1 + 480 then none else some give
    | none =>
      match l.requests with
      | r :: _ => if s.now < r.2.2 + 8 then none else some give
      | [] => none

/-- LICENCE_GRANT. -/
def execLicenceGrant (pair : PairKey) (s : State) : Result := .next ((s.grantStep pair).getD s)

/-- The current slot-table entry forces the licence to its context, where it has matrix work and another holds it: once in its µs, also
where that one's release is pending (R309). DEDUCED (log 35). -/
def State.turnStep (s : State) (t : PairKey) : Option State :=
  let m := s.currentSlot t
  let core := m.core t
  let ctx := m.ctx.toNat
  let l := (s.twin t).licence
  let wants := s.requestsLicence core ctx || (s.core core).queue.any fun e =>
    !e.load && decide (e.ctx = ctx) && !e.started
  match l.holder with
  | none => none
  | some h =>
    let us := s.devTime / 1000
    if m.v && wants && decide (h ≠ (core, ctx)) && l.turned != some us then
      some ((s.forceLicence core ctx).modLicence t fun l => { l with turned := some us })
    else none

/-- SLOT_TABLE_TURN. -/
def execSlotTableTurn (pair : PairKey) (s : State) : Result := .next ((s.turnStep pair).getD s)

end Sys2Proof.Machine
end

