-- ==== Sys2Proof/Machine/Matrix.lean ====
section
/-! DEFINITION. The matrix engine: MLDB, MMA, MWAIT and MMAF, the matrix queue, streams, drains and migration (13 R294 to
R305, R310, R311, 12 R291). -/

namespace Sys2Proof.Machine

/-! ## Operands (R294 to R296) -/

/-- Whether R294 lists a pair of formats. -/
def pairListed (b a : BitVec 3) : Bool :=
  ((b == 2 || b == 3) && (a == 2 || a == 3)) || ((b == 5 || b == 6) && (a == 5 || a == 6)) || (b == 7 && a == 7)

/-- K of a B format. -/
def depthOf (b : BitVec 3) : Nat := if b = 7 then 512 else if b = 2 ∨ b = 3 then 128 else 256

/-- The values of an operand: of a B column or an A row. -/
def operandValues (f : BitVec 3) (bytes : List Byte) (scales : List Byte) : List Num :=
  let b := fun (i : Nat) => ((bytes[i]?).getD 0).toNat
  let sc := fun (i : Nat) => ((scales[i]?).getD 0).toNat
  if f = 7 then
    (List.range 512).map fun k => f4bDecode (b (k / 2) / 16 ^ (k % 2) % 16) (sc (2 * (k / 32))) (sc (2 * (k / 32) + 1))
  else
    match fmtOf f.toNat with
    | some g =>
      if f = 2 ∨ f = 3 then (List.range 128).map fun k => g.decode (b (2 * k) + 256 * b (2 * k + 1))
      else (List.range 256).map fun k => g.decode (b k)
    | none => []

/-- The values of column n of a latch. -/
def BLatch.column (l : BLatch) (n : Nat) : List Num :=
  operandValues l.bType ((l.image.drop (256 * n)).take 256) ((l.image.drop (32768 + 32 * n)).take 32)

/-- The sum of an A row and a B column, group by group (02 R70). -/
def dotGroups : Nat → Nat → List (Num × Num) → Nat
  | 0, acc, _ => acc
  | g + 1, acc, ps => if ps.isEmpty then acc else dotGroups g (kGroup acc (ps.take 32)) (ps.drop 32)

/-- The A-space address of byte j of an A row in row r of the group that begins at an address: array a + j / 64. -/
def aByte (addr : Dword) (r j : Nat) : Dword := addr + BitVec.ofNat 64 (65536 * (j / 64) + 64 * r + j % 64)

/-- A row r of an entry: its values. -/
def State.aRow (s : State) (core : CoreId) (e : MatEntry) (r : Nat) : List Num :=
  let bytes := (List.range 4).flatMap fun i => s.arrayRead core (offset (aByte e.addr r (64 * i))) 64
  let scales := if e.aType = 7 then s.arrayRead core (offset (e.addr + BitVec.ofNat 64 (64 * (r + 512)))) 32 else []
  operandValues e.aType bytes scales

/-- The latches of a core. -/
def CoreState.latch (v : CoreState) (n : Nat) : Option BLatch := if n = 0 then v.b0 else v.b1

/-- Whether mask bit n of an entry is set, or it is not masked. -/
def MatEntry.forms (e : MatEntry) (n : Nat) : Bool := !e.masked || e.outMask.getLsbD n

/-- The C row that row r of an entry leaves, from the row as it stands (R301). -/
def State.productRow (s : State) (core : CoreId) (e : MatEntry) (l : BLatch) (r : Nat) : List Nat :=
  let a := s.aRow core e r
  let old := s.cRow (e.rowLoc core r)
  (List.range 128).map fun n =>
    let acc := if e.acc then old.getD n 0 else 0
    if e.forms n then dotGroups (depthOf l.bType / 32) acc (a.zip (l.column n)) else acc

/-- The bytes of a C row. -/
def rowBytesOf (v : List Nat) : List (Option Byte) := (v.flatMap fun x => bytesOfBits (BitVec.ofNat 32 x) 4).map some

/-! ## Checks (R299, R300) -/

/-- The first A-space address of a list that lies outside the allotments of a reach. -/
def Reach.firstOutside (r : Reach) (l : List Dword) : Option Dword :=
  match r.bands with
  | none => none
  | some bs => l.find? fun va => !bs.any (inBand (offset va))

/-- The formats that the youngest MLDB of a context to a latch gives, queued or completed. -/
def CoreState.formats (v : CoreState) (ctx latch : Nat) : Option (BitVec 3 × BitVec 3) :=
  match (v.queue.filter fun e => e.load && decide (e.ctx = ctx) && decide (e.latch = latch)).getLast? with
  | some e => some (e.bType, e.aType)
  | none =>
    match v.latch latch with
    | some l => if l.ctx = ctx then some (l.bType, l.aType) else none
    | none => none

/-- The checks of an MMA after its m (R300, R291): the trap's cause and value, and the status of an MMAF. DEDUCED (log 35). -/
def State.mmaFault (s : State) (core : CoreId) (r : Reach) (latch slot : Nat) (a c : Dword) (m : Nat) :
    Option (Nat × Dword × Nat) :=
  let v := s.core core
  if !s.ownsLicence core r.ctx && !s.requestsLicence core r.ctx then some (causeLic, 0, 5)
  else
    match v.formats r.ctx latch with
    | none => some (causeEngerr, 1, 9)
    | some f =>
      if (v.drainSlot r.ctx slot).isNone then some (causeEngerr, 2, 9)
      else
        let row0 := a.toNat % 65536 / 64
        let limit := if f.2 = 7 then 512 else 1024
        if selector a ≠ 10 then some (causeProt, a, 3)
        else if 2 ^ 23 ≤ offset a then some (causeBounds, a, 2)
        else if a.toNat % 64 ≠ 0 ∨ offset a / 65536 % 4 ≠ 0 then some (causeAlign, a, 1)
        else if limit < row0 + m then some (causeBounds, a + BitVec.ofInt 64 (64 * ((limit : Int) - row0)), 2)
        else
          let rows := (List.range m).flatMap fun j => (List.range 256).map fun b => aByte a j b
          let scales := if f.2 = 7 then
              (List.range m).flatMap fun j => (List.range 32).map fun b => a + BitVec.ofNat 64 (64 * (j + 512) + b)
            else []
          match r.firstOutside (rows ++ scales) with
          | some va => some (causeProt, va, 2)
          | none =>
            if selector c ≠ 12 then some (causeProt, c, 3)
            else if c.toNat % 512 ≠ 0 then some (causeAlign, c, 1)
            else if ((r.window.map fun w => w.2.2).getD (2 ^ 20)) < offset c + 512 * m then some (causeBounds, c, 2)
            else none

/-- The checks of an MLDB (R299). -/
def mldbFault (r : Reach) (src f : Dword) : Option (Nat × Dword) :=
  let b := f.extractLsb' 0 3
  let a := f.extractLsb' 3 3
  let rows := if b = 7 then 36 else 32
  let size := 1024 * rows
  let off := offset src
  if f.extractLsb' 6 58 ≠ 0 ∨ ¬ pairListed b a then some (causeBounds, f)
  else if selector src = 11 then
    if src.toNat % 256 ≠ 0 then some (causeAlign, src)
    else if ((r.window.map fun w => w.1.2).getD (2 ^ 22)) < off + size then some (causeBounds, src) else none
  else if selector src ≠ 10 then some (causeProt, src)
  else if off % 1048576 ≥ 65536 ∨ off % 64 ≠ 0 then some (causeAlign, src)
  else if 2 ^ 23 ≤ off ∨ 1024 < off % 65536 / 64 + rows then some (causeBounds, src)
  else
    (r.firstOutside ((List.range size).map fun j =>
      src + BitVec.ofNat 64 (65536 * (j / 64 % 16) + 64 * (j / 1024) + j % 64))).map fun va => (causeProt, va)

/-! ## The words -/

/-- The reach of the running hart's matrix words. -/
def State.matrixSelf (s : State) : Reach :=
  let t := s.self
  { s.hartReach s.me .matrix with
    bands := some ((s.teamHarts t.launch t.team).map fun h => (clusterOfHart h % 8, (s.hart h).colbase, (s.hart h).cols)) }

/-- Appends an entry to a core's matrix queue. -/
def State.enqueueMatrix (s : State) (core : CoreId) (e : MatEntry) : State :=
  s.modCore core fun v => { v with queue := v.queue ++ [e] }

/-- MLDB. -/
def execMldb (n : BitVec 1) (a b : Reg) (s : State) : Result :=
  .next (runWord (.mldb n a b) (fun s =>
    let r := s.matrixSelf
    let src := s.rx a
    let f := s.rx b
    match mldbFault r src f with
    | some e => .trap s e.1 e.2
    | none =>
      if 8 ≤ (s.core r.core).queue.length then .hold s
      else
        .retire (s.enqueueMatrix r.core
          { load := true, ctx := r.ctx, source := .hart s.me, team := some (s.self.launch, s.self.team), latch := n.toNat,
            addr := src, bType := f.extractLsb' 0 3, aType := f.extractLsb' 3 3, window := r.window.getD ((0, 0), (0, 0)),
            issued := s.now, ready := s.now + 4 })) s)

/-- MMA. -/
def execMma (k : BitVec 1) (a c n : Reg) (p : BitVec 5) (m f : BitVec 1) (s : State) : Result :=
  .next (runWord (.mma k a c n p m f) (fun s =>
    let r := s.matrixSelf
    let rows := s.rx n
    if rows = 0 then .retire s
    else if 256 < rows.toNat then .trap s causeBounds rows
    else
      match s.mmaFault r.core r k.toNat p.toNat (s.rx a) (s.rx c) rows.toNat with
      | some e => .trap s e.1 e.2.1
      | none =>
        let v := s.core r.core
        if 8 ≤ v.queue.length then .hold s
        else
          let fs := (v.formats r.ctx k.toNat).getD (0, 0)
          let t := s.self
          .retire (s.enqueueMatrix r.core
            { load := false, ctx := r.ctx, source := .hart s.me, team := some (t.launch, t.team), latch := k.toNat,
              addr := s.rx a, bType := fs.1, aType := fs.2, window := r.window.getD ((0, 0), (0, 0)), cAddr := offset (s.rx c),
              m := rows.toNat, slot := p.toNat, masked := m == 1, acc := f == 1, outMask := t.csr.mk1 ++ t.csr.mk0,
              rm := t.csr.rmode, migwait := t.csr.migwait.toNat,
              params := ((v.drainSlot r.ctx p.toNat).map DrainSlot.params).getD (Vector.replicate 32 0),
              issued := s.now, ready := s.now + 4 })) s)

/-- MWAIT: waits for the hart's entries and their stores, then a pending error traps, or it retires as an acquire at scope c
(R305, 14 R330). -/
def execMwait (s : State) : Result :=
  .next (runWord .mwait (fun s =>
    let t := s.self
    let v := s.core s.cur.core
    let mine := v.queue.any (fun e => e.of s.me t) || v.frozenMmas.any (fun e => e.of s.me t)
      || v.drainLog.any fun e => decide (e.source = .hart s.me) && decide (e.team = some (t.launch, t.team))
    if mine || decide (s.now < t.mwaitFrom) then .hold s
    else
      match t.mwaitErr with
      | some e =>
        let s := s.modSelf fun t => { t with mwaitErr := none }
        let s := if e = (causeEngerr, 3) then
            s.modCore s.cur.core fun v => { v with drainErr := v.drainErr.filter fun x => x.1 ≠ t.ctx }
          else s
        .trap s e.1 e.2
      | none => .retire (s.acquireBy s.cur 1)) s)

/-! ## MMAF (12 R291) -/

/-- An MMAF that has passed its checks enters the matrix queue, once there is room. No instruction issues it, so that its migwait is 0
and it is never migrated (R310). DESIGN CHOICE (log 35). -/
def State.enterMmaf (s : State) (core : CoreId) (i : Fin 17) (k : Cmd) (r : BitVec 512) : Option State :=
  let v := s.core core
  let reach := s.cmdReach core i k
  let latch := recordField r 34 1
  let slot := recordField r 35 1
  let flags := recordField r 36 1
  if 8 ≤ v.queue.length then none
  else
    let fs := (v.formats reach.ctx latch).getD (0, 0)
    let s := s.enqueueMatrix core
      { load := false, ctx := reach.ctx, source := .command i.val k.seq, team := k.team, latch := latch, addr := recordAddr r 16,
        bType := fs.1, aType := fs.2, window := reach.window.getD ((0, 0), (0, 0)), cAddr := offset (recordAddr r 24), m := recordField r 32 2,
        slot := slot, masked := decide (flags / 2 % 2 = 1), acc := decide (flags % 2 = 1),
        outMask := recordAddr r 48 ++ recordAddr r 40, rm := k.rm,
        params := ((v.drainSlot reach.ctx slot).map DrainSlot.params).getD (Vector.replicate 32 0),
        issued := s.now, ready := s.now + 4 }
    some (s.modCmd core i k.seq fun k => { k with stage := .handed })

/-- An MMAF: at its start its record and its checks, then its entry. DEDUCED (log 35). -/
def State.mmafStep (core : CoreId) (i : Fin 17) (s : State) (k : Cmd) : Option State :=
  if k.following ∧ k.inherited ≠ 0 then some (s.finishCmd core i k k.inherited)
  else if k.read then s.enterMmaf core i k k.record
  else
    s.readRecord core i k fun r s =>
      let reach := { s.cmdReach core i k with kind := .matrix, unit := Agency.unit .matrix }
      let a := recordAddr r 16
      let c := recordAddr r 24
      let m := recordField r 32 2
      let latch := recordField r 34 1
      let slot := recordField r 35 1
      let flags := recordField r 36 1
      let crec := recordAddr r 56
      let crecStatus := (s.cmdReach core i k).crecStatus crec
      let s := s.modCmd core i k.seq fun k => { k with record := r, crec := crec, read := true }
      if m = 0 ∨ 256 < m ∨ 1 < latch ∨ 31 < slot ∨ 3 < flags ∨ recordField r 37 3 ≠ 0 then some (s.finishCmd core i k 1)
      else
        match s.mmaFault core reach latch slot a c m with
        | some e => some (s.finishCmd core i k e.2.2)
        | none =>
          if crecStatus ≠ 0 then some (s.finishCmd core i k crecStatus)
          else some ((s.enterMmaf core i { k with record := r, crec := crec, read := true } r).getD s)

/-- MMAF. -/
def execMmaf (core : CoreId) (chain : Nat) (s : State) : Result := .next ((s.chainEvent core chain 7 State.mmafStep).getD s)

/-! ## The queue (R302 to R304) -/

/-- Whether entries of a context may start on a core. -/
def State.matrixRuns (s : State) (core ctx : Nat) : Bool :=
  let v := s.core core
  !v.fenced && !v.matFrozen.contains ctx && decide (s.activeCtx core = some ctx)

/-- Changes entry n of a queue. -/
def State.modEntry (s : State) (core : CoreId) (n : Nat) (f : MatEntry → MatEntry) : State :=
  s.modCore core fun v => { v with queue := v.queue.modify n f }

/-- The queue without entry n; a row of it that is being drained is abandoned. -/
def CoreState.dropEntry (v : CoreState) (n : Nat) : CoreState :=
  { v with queue := v.queue.eraseIdx n, drainRow := if (v.queue.findIdx? fun e => !e.load) = some n then none else v.drainRow }

/-- Entry n leaves the queue; a licence that was granted for its migration is released. -/
def State.dropEntry (s : State) (core : CoreId) (n : Nat) : State :=
  let s' := s.modCore core fun v => v.dropEntry n
  match (s.core core).queue[n]? with
  | some e =>
    match e.migrated with
    | some nb => if e.lent then s'.modLicence (twinOfCore nb) fun l => { l with holder := none, releasing := false, gap := some (s.now, nb, none) } else s'
    | none => s'
  | none => s'

/-- Matrix work of a source ends with an error: its hart's next MWAIT raises it, or its MMAF takes a status. -/
def State.sourceError (s : State) (source : MatSource) (team : Option (Nat × Nat)) (core : CoreId) (cause : Nat) (value : Dword) (status : Nat) :
    State :=
  match source with
  | .hart h =>
    let t := s.hart h
    if s.resident h && decide (team = some (t.launch, t.team)) && t.mwaitErr.isNone then s.setHart h { t with mwaitErr := some (cause, value) }
    else s
  | .command i seq =>
    if hi : i < 17 then s.modCmd core ⟨i, hi⟩ seq fun k => { k with status := if k.status = 0 then status else k.status } else s

/-- An entry ends with an error. -/
def State.entryError (s : State) (core : CoreId) (e : MatEntry) (cause : Nat) (value : Dword) (status : Nat) : State :=
  s.sourceError e.source e.team core cause value status

/-- The cluster whose arrays an entry reads, of its core. -/
def MatEntry.cluster (e : MatEntry) (core : CoreId) : ClusterKey := 8 * core + offset e.addr / 2 ^ 20

/-- How the read of a row by an entry ends: it may go on, with a window of its arrays (09 R203); it ends with an error, where its
cluster is fenced (17 R366); or it waits. DEDUCED (log 35). -/
inductive RowRead where
  | ready (s : State)
  | ended (s : State)
  | wait

/-- What the read of a row of A-space by entry n of a queue meets. -/
def State.rowRead (s : State) (core : CoreId) (n : Nat) (e : MatEntry) : RowRead :=
  let k := e.cluster core
  if (s.cluster k).fenced then .ended ((s.entryError core e causeEngerr 3 4).dropEntry core n)
  else
    match s.window k (Agency.unit .matrix) 1 with
    | some s => .ready s
    | none => .wait

/-- Rows of A-space, or kilobytes of W-space, of the image of an MLDB (R299). -/
def MatEntry.imageRows (e : MatEntry) : Nat := if e.bType = 7 then 36 else 32

/-- Row r of an image in A-space: 64 bytes of each of the 16 arrays of its cluster (R299). -/
def State.tileRow (s : State) (core : CoreId) (e : MatEntry) (r : Nat) : List Byte :=
  (List.range 16).flatMap fun a => s.arrayRead core (offset e.addr + 65536 * a + 64 * r) 64

/-- The latch takes an image and its formats, as one change, and the entry leaves the queue. -/
def State.takeImage (s : State) (core : CoreId) (n : Nat) (e : MatEntry) : State :=
  let l : BLatch := { ctx := e.ctx, bType := e.bType, aType := e.aType, image := e.image }
  (s.modCore core fun v => if e.latch = 0 then { v with b0 := some l } else { v with b1 := some l }).dropEntry core n

/-- Entry n, an MLDB that has started, reads on: a row of A-space in a window; or its latch takes the image. -/
def State.loadOn (s : State) (core : CoreId) (n : Nat) (e : MatEntry) : Option State :=
  if e.imageRows ≤ e.rowsDone then some (s.takeImage core n e)
  else
    match s.rowRead core n e with
    | .wait => none
    | .ended s => some s
    | .ready s =>
      match s.rowPoisonAt core (offset e.addr + 64 * e.rowsDone) 64 with
      | some _ => some ((s.entryError core e causeUce e.addr 4).dropEntry core n)
      | none =>
        some (s.modEntry core n fun e =>
          { e with started := true, image := e.image ++ s.tileRow core e e.rowsDone, rowsDone := e.rowsDone + 1, ready := s.now + 1 })

/-- Entry n, an MLDB, starts: an image in W-space is read as it stands now (R304), and takes 8 cycles for each kilobyte. -/
def State.loadStart (s : State) (core : CoreId) (n : Nat) (e : MatEntry) : Option State :=
  if selector e.addr = 11 then
    let at_ := wLoc core (e.window.1.1 + offset e.addr)
    let size := 1024 * e.imageRows
    match s.poisonAt at_ size with
    | some i => some ((s.entryError core e causeUce (e.addr + BitVec.ofNat 64 i) 4).dropEntry core n)
    | none =>
      some (s.modEntry core n fun e =>
        { e with started := true, image := s.bytes at_ size, rowsDone := e.imageRows, ready := s.now + 8 * e.imageRows })
  else s.loadOn core n e

/-- The oldest MLDB that can move does (R299, R302). -/
def State.latchStep (s : State) (core : CoreId) : Option State :=
  let q := (s.core core).queue
  (List.range q.length).findSome? fun n =>
    match q[n]? with
    | none => none
    | some e =>
      if !e.load || decide (s.now < e.ready) then none
      else if e.started then s.loadOn core n e
      else
        let ready := (q.take n).all fun o => if o.load then o.started else decide (o.latch ≠ e.latch ∨ o.m ≤ o.rowsDone)
        if !ready || !s.matrixRuns core e.ctx then none else s.loadStart core n e

/-- LATCH_LOAD. -/
def execLatchLoad (core : CoreId) (s : State) : Result := .next ((s.latchStep core).getD s)

/-- The C bytes that an entry's drain reads through LDROW and LDCOL, until it has finished: location and bytes (14 R322). -/
def State.drainReads (s : State) (core : CoreId) (e : MatEntry) : List (Nat × Nat) :=
  let ws := ((s.core core).drainSlot e.ctx e.slot).map DrainSlot.words
  let loads := (ws.getD []).takeWhile (fun w => decide (microOp w ≠ 0x17)) |>.filter fun w => microOp w == 2 || microOp w == 3
  loads.flatMap fun w => (List.range e.m).map fun j =>
    let va := paramAddr e.params (microImm w) (e.rowNumber j)
    (cLoc core (e.window.2.1 + offset va), if microOp w = 2 then 4 else 512)

/-- Whether an older entry still holds a C row back (13 R303, 14 R322). -/
def State.rowHeld (s : State) (core : CoreId) (older : List MatEntry) (loc : Nat) : Bool :=
  older.any fun o => !o.load &&
    ((List.range (o.m - o.drained)).any (fun j => decide (o.rowLoc core (o.drained + j) = loc))
      || (s.drainReads core o).any fun p => decide (p.1 < loc + 512) && decide (loc < p.1 + p.2))

/-- The MMA of the queue whose A stream is next, with its place. -/
def CoreState.streaming (v : CoreState) : Option (Nat × MatEntry) :=
  ((List.range v.queue.length).findSome? fun n =>
    match v.queue[n]? with
    | some e => if !e.load && decide (e.rowsDone < e.m) then some (n, e) else none
    | none => none)

/-- The C-space or A-space address of poison that row j of an entry reads (17 R365). -/
def State.rowPoisoned (s : State) (core : CoreId) (e : MatEntry) (j : Nat) : Option Dword :=
  ((List.range 4).findSome? fun i =>
    let a := aByte e.addr j (64 * i)
    (s.rowPoisonAt core (offset a) 64).map fun _ => a).or
  (if e.acc then (s.poisonAt (e.rowLoc core j) 512).map fun i => e.rowAddr j + BitVec.ofNat 64 i else none)

/-- The next A row of the next MMA is streamed, multiplied and accumulated (R301 to R303). Frozen MMAs are older (17 R363). -/
def State.streamRow (s : State) (core : CoreId) : Option State :=
  let v := s.core core
  match v.streaming with
  | none => none
  | some (n, e) =>
    let older := v.queue.take n
    let j := e.rowsDone
    let loads := older.any fun o => o.load && decide (o.latch = e.latch)
    let licensed := s.holdsLicence core e.ctx && (!(s.licence core).releasing || e.owed)
    let may := e.started || (s.matrixRuns core e.ctx && !loads)
    if e.migrated.isSome || older.any MatEntry.away || !may || !licensed || decide (s.now < e.ready) || decide (s.now < v.streamNext)
        || s.engineLent core || s.rowHeld core (v.frozenMmas ++ older) (e.rowLoc core j) then none
    else
      match v.latch e.latch with
      | none => none
      | some l =>
        match s.rowRead core n e with
        | .wait => none
        | .ended s => some s
        | .ready s =>
          match s.rowPoisoned core e j with
          | some va => some ((s.entryError core e causeUce va 4).dropEntry core n)
          | none =>
            let s := s.typedStore (e.rowLoc core j) (rowBytesOf (s.productRow core e l j))
            let s := s.modCore core fun v => { v with streamNext := s.now + 1 }
            some (s.modEntry core n fun e =>
              { e with started := true, rowsDone := j + 1, ready := s.now + 1, due := e.due ++ [s.now + 24] })

/-- MMA_A_STREAM. -/
def execMmaAStream (core : CoreId) (s : State) : Result := .next ((s.streamRow core).getD s)

/-! ## Migration (R310, R311) -/

/-- Whether any valid entry of a pair's slot table names a context. -/
def State.slotNames (s : State) (core ctx : Nat) : Bool :=
  (s.twin (twinOfCore core)).mslots.toList.any fun m => m.v && decide (m.ctx.toNat = ctx)

/-- Whether a neighbour can take an MMA: of the same die, its queue empty, and the licence held by it or free. -/
def State.takes (s : State) (core n : CoreId) : Bool :=
  validCore n && decide (dieOfCore n = dieOfCore core) && (s.core n).queue.isEmpty && !(s.core n).fenced && !s.engineLent n
    && ((s.licence n).idle || (match (s.licence n).holder with
      | some h => decide (h.1 = n) && !(s.licence n).releasing
      | none => false))

/-- A migrated MMA goes on: the next A row is read for its record, through a window (R311); once all is sent, multiplied and come
back, its tile is written, and a licence granted for it is released. -/
def State.awayStep (s : State) (core : CoreId) (n : Nat) (e : MatEntry) (nb : CoreId) : Option State :=
  let v := s.core core
  if e.rowsDone < e.m then
    match v.latch e.latch with
    | none => none
    | some l =>
      match s.rowRead core n e with
      | .wait => none
      | .ended s => some s
      | .ready s =>
        match s.rowPoisoned core e e.rowsDone with
        | some va => some ((s.entryError core e causeUce va 4).dropEntry core n)
        | none =>
          some (s.modEntry core n fun o => { o with rowsDone := e.rowsDone + 1, tile := e.tile ++ [s.productRow core e l e.rowsDone] })
  else if s.now < e.ready ∨ (List.range e.m).any (fun j => s.rowHeld core (v.frozenMmas ++ v.queue.take n) (e.rowLoc core j)) then none
  else
    let t := (List.range e.m).foldl (fun (t : State) j => t.typedStore (e.rowLoc core j) (rowBytesOf (e.tile.getD j []))) s
    let t := t.modEntry core n fun e => { e with tile := [], lent := false }
    some (if e.lent then t.modLicence (twinOfCore nb) fun l => { l with holder := none, releasing := false, gap := some (s.now, nb, none) }
      else t)

/-- A migrated MMA goes on, or the oldest MMA that has not started is sent to a neighbour (R310). DEDUCED (log 35). -/
def State.migrateMma (s : State) (core : CoreId) : Option State :=
  let v := s.core core
  match v.queue.findIdx? MatEntry.away with
  | some n =>
    match v.queue[n]? with
    | some e => (e.migrated.bind fun nb => s.awayStep core n e nb)
    | none => none
  | none =>
    match v.queue.findIdx? fun e => !e.load && !e.started with
    | none => none
    | some n =>
      match v.queue[n]? with
      | none => none
      | some e =>
        let fits := if e.aType = 7 then decide (e.m ≤ 99) else decide (e.m ≤ 128)
        let waited := decide (e.migwait ≠ 0) && decide (e.issued + e.migwait < s.now)
        let loads := (v.queue.take n).any fun o => o.load && decide (o.latch = e.latch)
        if !waited || e.acc || loads || !fits || s.slotNames core e.ctx || !s.matrixRuns core e.ctx
            || !(v.latch e.latch).any (fun l => decide (l.ctx = e.ctx)) then none
        else
          match (if 0 < core then [core - 1, core + 1] else [core + 1]).find? (s.takes core) with
          | none => none
          | some nb =>
            let lent := (s.licence nb).holder.isNone
            let s := if lent then s.modLicence (twinOfCore nb) fun l => { l with holder := some (nb, e.ctx), releasing := false } else s
            let bytes := (if e.bType = 7 then 36864 else 32768) + e.m * (if e.aType = 7 then 288 else 256) + 512 * e.m
            some (s.modEntry core n fun e =>
              { e with started := true, migrated := some nb, lent := lent, ready := s.now + bytes / 256 + e.m })

/-- MMA_MIGRATION. -/
def execMmaMigration (core : CoreId) (s : State) : Result := .next ((s.migrateMma core).getD s)

/-! ## The drain (14 R320, R330 to R333, 17 R363, R365) -/

/-- A row whose drain ends before a cycle: the drain's next row, and the MWAIT of the hart that issued the MMA, wait for it
(R305, R312). -/
def State.noteDrained (s : State) (core : CoreId) (e : MatEntry) (next : Nat) : State :=
  let s := s.modCore core fun v => { v with drainNext := next }
  match e.source with
  | .hart h =>
    let t := s.hart h
    if s.resident h && e.of h t then s.setHart h { t with mwaitFrom := next + 3 } else s
  | .command _ _ => s

/-- The row that a drain runs is over, or abandoned. -/
def State.dropRow (s : State) (core : CoreId) : State := s.modCore core fun v => { v with drainRow := none }

/-- What follows a micro-word of row j of entry n. -/
def afterMicro (core : CoreId) (n : Nat) (e : MatEntry) (j pos : Nat) : DrainEnd → Option State
  | .wait => none
  | .done l s => some (s.modCore core fun v => { v with drainRow := some { lanes := l, pos := pos + 1 }, drainNext := s.now + 1 })
  | .error kind status s =>
    let s := s.modCore core fun v => { v with drainErr := v.drainErr.filter (fun x => x.1 ≠ e.ctx) ++ [(e.ctx, kind)] }
    some ((s.entryError core e causeEngerr 3 status).dropEntry core n)
  | .bad va s => some ((s.entryError core e causeUce va 4).dropEntry core n)
  | .full s =>
    some ((s.modCore core fun v => { v with restart := { valid := true, slot := e.slot, row := j, cause := 1, qpos := n } }).dropRow core)
  | .freeze va s =>
    let m : BitVec 16 := BitVec.ofNat 16 (8192 + e.ctx)
    let s := s.dropEntry core n
    let s := s.modCore core fun v =>
      { v with frozenMmas := v.frozenMmas ++ [e],
               matFrozen := if v.matFrozen.contains e.ctx then v.matFrozen else v.matFrozen ++ [e.ctx] }
    some ((s.noteFrozen core e.ctx m).postEvent core
      { kind := 5, master := m, ctx := e.ctx, value := va, pc := BitVec.ofNat 64 j, x := 7 })

/-- Whether a younger MMA that still streams waits for a row of an entry (R303): the drain then goes on through a stop, by which a
started A stream comes to its end (18 R379). -/
def State.rowOwed (s : State) (core : CoreId) (e : MatEntry) : Bool :=
  (s.core core).queue.any fun o =>
    !o.load && o.started && decide (o.rowsDone < o.m) && decide (e.issued < o.issued ∨ e ≠ o) && s.rowHeld core [e] (o.rowLoc core o.rowsDone)

/-- Whether the drain may begin row j of an entry: the row is accumulated, no full log holds it, and its context runs, or a started MMA
waits for the row (R303, R320, R332, R333). -/
def State.rowMayBegin (s : State) (core : CoreId) (e : MatEntry) (j : Nat) : Bool :=
  let v := s.core core
  let halted := v.restart.valid && decide (v.restart.cause = 1) && !v.drainLog.isEmpty
  decide (j < e.rowsDone) && !e.away && !halted && (decide (s.activeCtx core = some e.ctx) || s.rowOwed core e) &&
    match e.due with
    | c :: _ => decide (c ≤ s.now)
    | [] => true

/-- The drain runs the next micro-word of the oldest MMA, one in a cycle, END among them; a row ends with END, and the MMA leaves the
queue when its last row is drained (R312, R320). -/
def State.drainStep (s : State) (core : CoreId) : Option State :=
  let v := s.core core
  match v.queue.findIdx? fun e => !e.load with
  | none => none
  | some n =>
    match v.queue[n]? with
    | none => none
    | some e =>
      let j := e.drained
      if s.now < v.drainNext ∨ v.fenced then none
      else if e.m ≤ j then some (s.dropEntry core n)
      else if v.drainRow.isNone && !s.rowMayBegin core e j then none
      else
        let x := v.drainRow.getD {}
        let ws := ((v.drainSlot e.ctx e.slot).map DrainSlot.words).getD []
        let s := if v.restart.valid then s.modCore core fun v => { v with restart := { v.restart with valid := false } } else s
        match ws[x.pos]? with
        | none => some (s.dropEntry core n)
        | some w =>
          if microOp w = 0x17 then
            let s := ((s.rowEnd (e.rowLoc core j) x.lanes).noteDrained core e (s.now + 1)).dropRow core
            some (s.modEntry core n fun e => { e with drained := j + 1, due := e.due.tail })
          else afterMicro core n e j x.pos (s.microStep core e j (e.rowLoc core j) x.lanes w)

/-- DRAIN_ROW. -/
def execDrainRow (core : CoreId) (s : State) : Result := .next ((s.drainStep core).getD s)

end Sys2Proof.Machine
end

