-- ==== Sys2Proof/Machine/Launch.lean ====
section
/-! DEFINITION. Launches: the LAUNCH command, the placement of teams, gang launches, the clearing of columns, and the
completion record (07 R161 to R165, R173 to R186, 09 R201, 21 R417, R424). -/

namespace Sys2Proof.Machine

/-- Whether the last PTM exchange is under 10 ms old (R423). -/
def State.tsync (s : State) : Bool := s.lastPtm.any fun t => decide (s.devTime < t + 10000000)

/-! ## The launch record (R173) -/

/-- The fields of a launch record. -/
def launchFields (r : BitVec 1024) : LaunchRec :=
  let num := fun (lo n : Nat) => (r.extractLsb' lo n).toNat
  { entry := r.extractLsb' 0 64, tx := num 64 16, ty := num 80 16, tz := num 96 16, hpt := num 112 8, allot := num 120 2,
    mbx := Vector.ofFn fun i => r.extractLsb' (128 + 64 * i.val) 64, dptab := r.extractLsb' 640 64, dpcnt := num 704 8,
    pack := r.getLsbD 712, core := num 720 16, wuse := num 736 32, cuse := num 768 32, sema := r.extractLsb' 800 64,
    sval := r.extractLsb' 864 64, bar := r.getLsbD 928, gang := r.getLsbD 929, gtick := r.extractLsb' 960 64 }

/-- Teams of a launch (R176). -/
def LaunchRec.total (l : LaunchRec) : Nat := l.tx * l.ty * l.tz
/-- Columns of each of its harts. -/
def LaunchRec.cols (l : LaunchRec) : Nat := 64 * 2 ^ l.allot
/-- Harts of a packed team in one cluster (R177). -/
def LaunchRec.perCluster (l : LaunchRec) : Nat := min 4 (512 / l.cols)
/-- The cluster of its core that hart h goes to (R177). -/
def LaunchRec.clusterFor (l : LaunchRec) (h : Nat) : Nat := if l.pack then h / l.perCluster else h % 8
/-- Whether a team fits a core (R177). -/
def LaunchRec.fits (l : LaunchRec) : Bool :=
  if l.pack then decide ((l.hpt + l.perCluster - 1) / l.perCluster ≤ 8)
  else
    let n := (l.hpt + 7) / 8
    decide (n ≤ 4 ∧ n * l.cols ≤ 512)
/-- Whether a record is malformed (R175, status 1). -/
def launchBroken (r : BitVec 1024) (l : LaunchRec) : Bool :=
  r.extractLsb' 122 6 != 0 || r.extractLsb' 713 7 != 0 || r.extractLsb' 930 30 != 0 || l.entry.extractLsb' 0 2 != 0
    || decide (l.hpt = 0 ∨ 32 < l.hpt ∨ 4096 < l.wuse ∨ 1024 < l.cuse ∨ 32 < l.dpcnt)
    || !(l.core == 0xFFFF || validCore l.core)

/-- Whether a core belongs to the partition of a context; context 0 has none. -/
def State.coreOfPart (s : State) (ctx core : Nat) : Bool :=
  decide (ctx ≠ 0) && decide ((s.pair (pairOfCore core)).part = some (s.ctxPart ctx))

/-! ## The LAUNCH command (R173 to R175, R185) -/

/-- The number of the launch of a command. -/
def State.launchOf (s : State) (core : CoreId) (chain : Nat) (seq : BitVec 32) : Option Nat :=
  (s.launches.find? fun l => decide (l.2.core = core) && decide (l.2.chain = chain) && decide (l.2.seq = seq)).map Prod.fst

/-- Removes a launch. -/
def State.dropLaunch (s : State) (n : Nat) : State := { s with launches := s.launches.erase n }

/-- The launch is checked: with a status it places nothing. Its command leaves its execution slot. -/
def State.admitLaunch (s : State) (core : CoreId) (i : Fin 17) (k : Cmd) (n status : Nat) : State :=
  (s.modLaunch n fun l => { l with checked := true, status := status, stop := status != 0, ready := max s.now (k.begun + 150) }).modCmd
    core i k.seq fun k => { k with stage := .handed }

/-- The status of SEMA (R185). -/
def Reach.semaStatus (r : Reach) (sema : Dword) : Nat :=
  if sema.toNat % 32 ≠ 0 then 1
  else
    let n := r.status .store sema 32
    if n = 0 ∧ !inH sema then 2 else n

/-- Reads the launch record, and checks it up to its preload table. DEDUCED (log 39). -/
def State.readLaunch (s : State) (core : CoreId) (i : Fin 17) (k : Cmd) (at_ : Dword) : Option State :=
  let reach := s.cmdReach core i k
  (s.engineRead reach (ownerOf core i k) at_ 128).then core i k fun g s =>
    if g.poisoned.isSome then some (s.finishCmd core i k 4)
    else
      let raw : BitVec 1024 := bitsOfBytes 1024 g.bytes
      let l := launchFields raw
      let sema := reach.semaStatus l.sema
      if sema ≠ 0 then some (s.finishCmd core i k sema)
      else
        let ctx := (s.chain core i).owner
        let n := s.nextLaunch
        let rec_ : Launch := { ctx := ctx, part := s.ctxPart ctx, core := core, chain := i.val, seq := k.seq, raw := raw, record := l }
        let s := { s with launches := s.launches.put n rec_, nextLaunch := n + 1 }
        if launchBroken raw l then some (s.admitLaunch core i k n 1)
        else if !l.fits || decide (ctx = 0) || (l.core != 0xFFFF && !s.coreOfPart ctx l.core) then
          some (s.admitLaunch core i k n 2)
        else if l.dptab ≠ 0 ∧ (l.dptab.toNat % 8 ≠ 0 ∨ ¬ inH l.dptab) then some (s.admitLaunch core i k n 3)
        else if l.dptab = 0 ∨ l.dpcnt = 0 then some (s.admitLaunch core i k n 0)
        else some (s.modCmd core i k.seq fun k => { k with ready := s.now + 1 })

/-- A reader of bytes for a command, where poison and a check that fails answer `refuse`. -/
def State.preloadRead (reach : Reach) (own : CoreId × Nat × BitVec 32) (s : State) (va : Dword) (n : Nat) :
    Step (Option (List Byte)) :=
  if reach.status .load va n ≠ 0 then .ok none s
  else
    match s.engineRead reach own va n with
    | .ok g s => .ok (if g.poisoned.isSome then none else some g.bytes) s
    | .park va s => .park va s
    | .freeze va s => .freeze va s
    | .fail st s => .fail st s
    | .wait => .wait

/-- Goes on with what was read, where it was not refused. -/
def Step.orNone {α β : Type} (a : Step (Option α)) (f : α → State → Step (Option β)) : Step (Option β) :=
  match a with
  | .ok (some v) s => f v s
  | .ok none s => .ok none s
  | .park va s => .park va s
  | .freeze va s => .freeze va s
  | .fail st s => .fail st s
  | .wait => .wait

/-- The parts of a preload entry that are read after it: its image, its count and its parameters, in turn; none where one is
refused. -/
def State.preloadImage (s : State) (reach : Reach) (own : CoreId × Nat × BitVec 32) (at_ : Dword) (len : Nat) :
    Step (Option (List MicroWord × Nat × List Dword)) :=
  let read := fun (s : State) (a : Dword) (n : Nat) =>
    if n = 0 then Step.ok (some []) s else State.preloadRead reach own s a n
  (read s at_ (2 * len)).orNone fun image s =>
    let tail := at_ + BitVec.ofNat 64 (2 * len)
    (read s tail 4).orNone fun count s =>
      let q := (bitsOfBytes 32 count).toNat
      (read s (tail + 4) (if 32 < q then 0 else 8 * q)).orNone fun ps s =>
        .ok (some ((List.range len).map fun i => bitsOfBytes 16 ((image.drop (2 * i)).take 2), q,
          (List.range (ps.length / 8)).map fun i => bitsOfBytes 64 ((ps.drop (8 * i)).take 8))) s

/-- Reads and checks the next preload entry (R174). DEDUCED (log 39). -/
def State.readPreload (s : State) (core : CoreId) (i : Fin 17) (k : Cmd) (n : Nat) (l : Launch) : Option State :=
  let reach := s.cmdReach core i k
  let own := ownerOf core i k
  (State.preloadRead reach own s (l.record.dptab + BitVec.ofNat 64 (16 * l.preload.length)) 16).then core i k fun e s =>
    match e with
    | none => some (s.admitLaunch core i k n 3)
    | some e =>
      let w : BitVec 128 := bitsOfBytes 128 e
      let at_ : Dword := w.extractLsb' 0 64
      let slot := (w.extractLsb' 64 8).toNat
      let len := (w.extractLsb' 96 32).toNat
      if at_.toNat % 4 ≠ 0 ∨ 31 < slot ∨ w.extractLsb' 72 24 ≠ 0 ∨ 1024 < len ∨ ¬ inH at_ then some (s.admitLaunch core i k n 3)
      else
        (s.preloadImage reach own at_ len).then core i k fun image s =>
          match image with
          | none => some (s.admitLaunch core i k n 3)
          | some (ws, q, ps) =>
            if imageBroken ws q then some (s.admitLaunch core i k n 3)
            else
              let p : DrainSlot := { ctx := l.ctx, words := ws, params := paramTable ps, q := q }
              let s := s.modLaunch n fun l => { l with preload := l.preload ++ [(slot, p)] }
              if l.record.dpcnt ≤ l.preload.length + 1 then some (s.admitLaunch core i k n 0)
              else some (s.modCmd core i k.seq fun k => { k with ready := s.now + 1 })

/-- A running LAUNCH command goes on: its record, the launch record, its preload entries; one resumed for its completion
record hands itself on again. -/
def State.launchStep (core : CoreId) (i : Fin 17) (s : State) (k : Cmd) : Option State :=
  if !k.read then
    s.readRecord core i k fun r s =>
      let at_ := recordAddr r 16
      let crec := recordAddr r 56
      let reach := s.cmdReach core i k
      let crecStatus := reach.crecStatus crec
      let status := if recordField r 24 32 ≠ 0 ∨ at_.toNat % 8 ≠ 0 ∨ ¬ inH at_ then 1
        else firstStatus [reach.status .load at_ 128, crecStatus]
      let s := s.modCmd core i k.seq fun k =>
        { k with record := r, crec := crec, read := true, ready := s.now + 1 }
      if status ≠ 0 then some (s.finishCmd core i k status) else some s
  else
    match s.launchOf core i.val k.seq with
    | none => s.readLaunch core i k (recordAddr k.record 16)
    | some n =>
      match s.launches.get? n with
      | none => none
      | some l =>
        if l.checked then some (s.modCmd core i k.seq fun k => { k with stage := .handed })
        else
          (s.readPreload core i k n l).map fun s =>
            if (s.chain core i).cmds.any fun e => decide (e.seq = k.seq) && e.finished then s.dropLaunch n else s

/-- LAUNCH. -/
def execLaunch (core : CoreId) (chain : Nat) (s : State) : Result :=
  .next ((s.chainEvent core chain 9 State.launchStep).getD s)

/-! ## The order of launches (R186) -/

/-- Whether a launch places no further team. -/
def Launch.placedAll (l : Launch) : Bool := l.checked && (l.stop || decide (l.record.total ≤ l.nextTeam))

/-- Whether a command of a chain, with those before it, no longer holds back a later launch: it is no launch, or its launch has placed
its last team, or has started without teams, which with BAR is after every earlier command has completed. -/
def State.launchPassed (s : State) (core : CoreId) (chain : Nat) (before : List Cmd) (k : Cmd) : Bool :=
  decide (k.stage = .done) || decide (k.op ≠ 9) || k.finished ||
    match (s.launchOf core chain k.seq).bind fun n => s.launches.get? n with
    | some e => e.placedAll && (decide (0 < e.nextTeam) || !e.record.bar || before.all fun b => decide (b.stage = .done))
    | none => false

/-- Whether a launch may start: every launch before it on its chain has placed its last team or has started without teams,
and with BAR every earlier command has completed. -/
def State.launchReady (s : State) (l : Launch) : Bool :=
  match (if h : l.chain < 17 then some (⟨l.chain, h⟩ : Fin 17) else none) with
  | none => false
  | some i =>
    let before := (s.chain l.core i).cmds.takeWhile fun k => decide (k.seq ≠ l.seq)
    s.chainRuns l.core i && decide (l.ready ≤ s.now) &&
      (if l.record.bar then before.all fun k => decide (k.stage = .done)
       else before.zipIdx.all fun p => s.launchPassed l.core l.chain (before.take p.2) p.1)

/-! ## Seats: slots, columns and typed space (R161, R162, R176, R201) -/

/-- Where a hart of a team sits. -/
structure Seat where
  cluster : ClusterKey
  slot : Nat
  colbase : Nat
deriving DecidableEq, Repr

/-- Whether two column ranges meet. -/
def colsMeet (a n b m : Nat) : Bool := decide (a < b + m) && decide (b < a + n)

/-- The lowest free slot and the lowest aligned range of free columns of a cluster, beside the seats already given out. -/
def State.seat (s : State) (k : ClusterKey) (cols : Nat) (given : List Seat) : Option Seat :=
  if (s.cluster k).fenced then none
  else
    let used := (s.harts.filter fun e => decide (clusterOfHart e.1 = k)).map (fun e => (slotOfHart e.1, e.2.colbase, e.2.cols))
      ++ (given.filter fun g => decide (g.cluster = k)).map fun g => (g.slot, g.colbase, cols)
    match (List.range 4).find? fun n => !used.any fun u => decide (u.1 = n),
      ((List.range (512 / cols)).map (· * cols)).find? fun b => !used.any fun u => colsMeet b cols u.2.1 u.2.2 with
    | some n, some b => some { cluster := k, slot := n, colbase := b }
    | _, _ => none

/-- The seats of a team on a core, hart 0 first. -/
def State.seats (s : State) (l : LaunchRec) (core : CoreId) : Option (List Seat) :=
  (List.range l.hpt).foldl (fun (a : Option (List Seat)) h => do
    let given ← a
    let x ← s.seat (8 * core + l.clusterFor h) l.cols given
    pure (given ++ [x])) (some [])

/-- The lowest free aligned range of a typed space beside the reserved ranges: base and length each. -/
def lowestRange (size align len : Nat) (used : List (Nat × Nat)) : Option Nat :=
  if len = 0 then some 0
  else ((List.range (size / align)).map (· * align)).find? fun b =>
    decide (b + len ≤ size) && !used.any fun u => colsMeet b len u.1 u.2

/-- The W-space and C-space ranges that teams on a core hold: those of every context whose area is not saved. -/
def State.reserved (s : State) (core : CoreId) : List ((Nat × Nat) × (Nat × Nat)) :=
  (s.launches.filter fun e => !(s.ctxState e.2.ctx).saved).flatMap fun e =>
    (e.2.teams.filter fun t => decide (t.core = core)).map fun t =>
      ((t.wBase, 1024 * e.2.record.wuse), (t.cBase, 1024 * e.2.record.cuse))

/-- Whether a seat lies on a band. -/
def Seat.on (x : Seat) (cols : Nat) (b : Band) : Bool := decide (x.slot = b.slot) || colsMeet x.colbase cols b.colbase b.cols

/-- Clears columns of a cluster with a slot's tag and validity columns to the start state of R30. -/
def State.clearBand (s : State) (k : ClusterKey) (slot colbase cols : Nat) : State :=
  let keep := ~~~bandMask colbase cols
  ({ s with rows := keepColumns k keep s.rows, rowPoison := keepColumns k keep s.rowPoison } : State).modCluster k fun c =>
    { c with tags := (List.range 4).foldl (fun t j => t.setIfInBounds (4 * slot + j) 0) c.tags,
             valid := c.valid.setIfInBounds slot (BitVec.allOnes 16384) }

/-- RESIDENCY_CLEAR's work: the oldest band of a cluster that waits for it, between two array instructions, in the order of the
claims of R167. DEDUCED (log 56). -/
def State.clearStep (s : State) (k : ClusterKey) : Option State :=
  let c := s.cluster k
  match c.clears with
  | [] => none
  | b :: rest =>
    let older := s.harts.any fun e => decide (clusterOfHart e.1 = k) && e.2.claim.any fun n => decide (n < b.since)
    if c.fenced || decide (s.now < c.arraysFree) || older then none
    else
      some (((s.clearBand k b.slot b.colbase b.cols).modCluster k fun c =>
        { c with clears := rest, arraysFree := s.now + passCycles 2 c.laneCode }).charge 0)

/-- RESIDENCY_CLEAR. -/
def execResidencyClear (k : ClusterKey) (s : State) : Result := .next ((s.clearStep k).getD s)

/-! ## Placement (R176, R178) -/

/-- A place for a team: its core, seats and typed-space bases. -/
structure Room where
  core : CoreId
  seats : List Seat
  wBase : Nat
  cBase : Nat
deriving DecidableEq, Repr

/-- The room that a core has for the next team of a launch: seats whose bands need no clear that has not run and hold no context
that has not been spilled, typed space, and no drain slot of the preload in use. DEDUCED (log 39). -/
def State.room (s : State) (l : Launch) (core : CoreId) : Option Room := do
  let p := s.partition l.part
  let t := s.twin (twinOfCore core)
  let inUse := !l.preloaded.contains core && l.preload.any fun e => !e.2.words.isEmpty && (s.core core).namesSlot e.1
  if !validCore core || !s.coreOfPart l.ctx core || decide (s.activeCtx core ≠ some l.ctx) || p.switch.isSome
      || (l.record.core != 0xFFFF && l.record.core != core) || (upperCore core && t.gate != .on) || inUse
      || !(l.home.all fun h => s.pairsReach (pairOfCore core) h) then none
  else
    let xs ← s.seats l.record core
    let blocked := xs.any fun x =>
      let c := s.cluster x.cluster
      (c.clears.any fun b => x.on l.record.cols b) || c.marks.any fun b => x.on l.record.cols b && !(s.ctxState b.ctx).saved
    if blocked then none
    else
      let used := s.reserved core
      let w ← lowestRange (2 ^ 22) 65536 (1024 * l.record.wuse) (used.map Prod.fst)
      let c ← lowestRange (2 ^ 20) 16384 (1024 * l.record.cuse) (used.map Prod.snd)
      pure { core := core, seats := xs, wBase := w, cBase := c }

/-- Whether seats of a team lie on columns that stay marked for a stopped context. -/
def State.onMarks (s : State) (l : Launch) (m : Room) : Bool :=
  m.seats.any fun x => (s.cluster x.cluster).marks.any fun b => x.on l.record.cols b

/-- Marked columns under the seats of a team are to be cleared first, each as the columns of an ended hart (R165). -/
def State.clearMarks (s : State) (l : Launch) (m : Room) : State :=
  m.seats.foldl (fun s x => s.modCluster x.cluster fun c =>
    let met := c.marks.filter fun b => x.on l.record.cols b
    { c with marks := c.marks.filter (fun b => !met.contains b),
             clears := c.clears ++ met.map fun b => { b with since := s.now } }) s

/-- Applies preload entries in order (R174): none where code 2 or 3 refuses one. -/
def CoreState.preloadAll (ctx : Nat) : CoreState → List (Nat × DrainSlot) → Option CoreState
  | v, [] => some v
  | v, e :: es =>
    if v.loadCode ctx e.1 e.2.words.length ≠ 0 then none else CoreState.preloadAll ctx (v.loadSlot e.1 e.2) es

/-- Cycles that the loads of a preload take. DESIGN CHOICE (log 5). -/
def preloadTime (l : List (Nat × DrainSlot)) : Nat :=
  (l.map fun e => 20 + (2 * e.2.words.length + 4 + 8 * e.2.q + 127) / 128).sum

/-- Stops a launch with a status, unless it has one. -/
def Launch.halt (l : Launch) (status : Nat) : Launch :=
  { l with stop := true, status := if l.status = 0 then status else l.status }

/-- Clears the bytes of a range of whole lines of W-space or C-space, which leaves them good (R165). -/
def State.clearRange (s : State) (loc n : Nat) : State :=
  { s with mem := s.mem.filter (fun e => !(decide (loc ≤ e.1) && decide (e.1 < loc + n)))
           poison := s.poison.filter fun l => !(decide (loc ≤ 128 * l) && decide (128 * l < loc + n)) }

/-- The hart with number `hid` of team t as it starts (R30, R178). DESIGN CHOICE (log 30). -/
def Launch.newHart (l : Launch) (n hid : Nat) (team colbase now start : Nat) : Hart :=
  let r := l.record
  { sc := { pc := r.entry, nextIssue := start }
    csr := { hid := hid, nharts := r.hpt, mbx := r.mbx,
             teamid := BitVec.ofNat 64 (team % r.tx + 2 ^ 16 * (team / r.tx % r.ty) + 2 ^ 32 * (team / r.tx / r.ty)) }
    colbase := colbase, cols := r.cols, ctx := l.ctx, launch := n, team := team, startCycle := start,
    gangHold := r.gang, lastIssue := now }

/-- Places the next team of a launch: its preload, its spaces, its harts. DEDUCED (log 39). -/
def State.placeTeam (s : State) (n : Nat) (l : Launch) (m : Room) : State :=
  let core := m.core
  let fresh := !l.preloaded.contains core
  match (if fresh then CoreState.preloadAll l.ctx (s.core core) l.preload else some (s.core core)) with
  | none => s.modLaunch n fun l => l.halt 3
  | some v =>
    let s := (s.setCore core v).restTwin (twinOfCore core) l.ctx
    let s := (s.clearRange (wLoc core m.wBase) (1024 * l.record.wuse)).clearRange (cLoc core m.cBase) (1024 * l.record.cuse) |>.charge 0
    let team := l.nextTeam
    let wait := 8 * l.record.wuse + 2 * l.record.cuse + (if fresh then preloadTime l.preload else 0)
    let s := m.seats.zipIdx.foldl (fun s x =>
      (s.clearBand x.1.cluster x.1.slot x.1.colbase l.record.cols).setHart (4 * x.1.cluster + x.1.slot)
        (l.newHart n x.2 team x.1.colbase s.now (s.now + wait))) s
    s.modLaunch n fun l =>
      { l with
        nextTeam := team + 1
        ready := s.now + 40 + wait
        home := l.home.or (some (pairOfCore core))
        preloaded := if fresh then core :: l.preloaded else l.preloaded
        teams := l.teams ++ [{ num := team, core := core, placed := s.now, wBase := m.wBase, cBase := m.cBase, live := l.record.hpt }] }

/-- The cores that have room for the next team of a launch. -/
def State.rooms (s : State) (l : Launch) : List Room := allCores.filterMap fun c => s.room l c

/-- Places every team of a gang launch, each on a free choice of the cores with room, after the rooms given; none where one has no room.
Answers the rooms of all. DEDUCED (log 39). -/
def State.placeGang (n : Nat) : Nat → List Room → State → Option (List Room × State)
  | 0, ms, s => some (ms, s)
  | f + 1, ms, s =>
    match s.launches.get? n with
    | none => none
    | some l =>
      if l.placedAll then some (ms, s)
      else
        let rooms := s.rooms l
        let c := s.choose rooms.length
        match rooms[c.1]? with
        | none => none
        | some m => State.placeGang n f (ms ++ [m]) (c.2.placeTeam n l m)

/-- The device time in ns at which every hart of a launch has started, but for a gang's hold. -/
def State.allStarted (s : State) (n : Nat) : Nat :=
  s.devTime + (((s.harts.filter fun e => decide (e.2.launch = n)).map fun e => e.2.sc.nextIssue - s.now).foldl max 0) * 50 / 47

/-- Places the next team of a launch on a core, where the launch may start and the core has room, once the marked columns there are
cleared; a gang launch goes as a whole, and is refused without TSYNC or later than 1 µs after GTICK (R424). Of a gang whose preload a
core refuses no team is placed (R175 lets teams that have been placed run on): DESIGN CHOICE (log 39). -/
def State.placementStep (s : State) (n : Nat) (core : CoreId) : Option State :=
  match s.launches.get? n with
  | none => none
  | some l =>
    if l.placedAll || !l.checked || !s.launchReady l then none
    else
      let late := l.record.gtick.toNat + 1000
      if l.record.gang ∧ (!s.tsync ∨ late < s.devTime) then some (s.modLaunch n fun l => l.halt 7)
      else
        (s.room l core).bind fun m =>
          if !l.record.gang then some (if s.onMarks l m then s.clearMarks l m else s.placeTeam n l m)
          else
            (State.placeGang n l.record.total [m] (s.placeTeam n l m)).map fun (ms, t) =>
              if ms.any fun m => s.onMarks l m then ms.foldl (fun s m => s.clearMarks l m) s
              else match t.launches.get? n with
              | some e => if e.status = 3 then s.modLaunch n fun l => l.halt 3
                  else if late < t.allStarted n then s.modLaunch n fun l => l.halt 7 else t
              | none => t

/-- TEAM_PLACEMENT. -/
def execTeamPlacement (n : Nat) (core : CoreId) (s : State) : Result := .next ((s.placementStep n core).getD s)

/-- The held harts of a gang launch become eligible at GTICK. -/
def State.gangStep (s : State) (n : Nat) : Option State :=
  match s.launches.get? n with
  | none => none
  | some l =>
    let held := (s.harts.filter fun e => decide (e.2.launch = n) && e.2.gangHold).map Prod.fst
    if s.devTime < l.record.gtick.toNat ∨ held.isEmpty then none
    else some (held.foldl (fun s h => s.modHart h fun t => { t with gangHold := false, startCycle := max s.now t.sc.nextIssue }) s)

/-- GANG_START. -/
def execGangStart (n : Nat) (s : State) : Result := .next ((s.gangStep n).getD s)

/-! ## Completion (R185) -/

/-- Bytes 8 to 31 of the completion record. -/
def Launch.recordTail (l : Launch) : List Byte :=
  bytesOfBits (BitVec.ofNat 32 l.status) 4 ++ bytesOfBits l.bitmap 2 ++ List.replicate 2 0
    ++ bytesOfBits (BitVec.ofNat 64 l.retired) 8 ++ List.replicate 8 0

/-- Writes the completion record of a launch that has ended, bytes 8 to 31 and then bytes 0 to 7; then its command's work is
finished. DEDUCED (log 39). DEDUCED (log 40). -/
def State.launchDone (s : State) (n : Nat) : Option State :=
  match s.launches.get? n with
  | none => none
  | some l =>
    match (if h : l.chain < 17 then some (⟨l.chain, h⟩ : Fin 17) else none) with
    | none => none
    | some i =>
      match (s.chain l.core i).cmds.find? fun k => decide (k.seq = l.seq) with
      | none => if l.teams.isEmpty then some (s.dropLaunch n) else none
      | some k =>
        if !l.placedAll || !l.teams.isEmpty || !s.launchReady l || decide (k.stage ≠ .handed) then none
        else
          let r := s.cmdReach l.core i k
          let o := ownerOf l.core i k
          let ended := fun (s : State) =>
            if (s.chain l.core i).cmds.any fun e => decide (e.seq = k.seq) && e.finished then s.dropLaunch n else s
          if !l.recorded then
            ((s.engineWrite r o (l.record.sema + 8) (l.recordTail.map some) false).then l.core i k fun _ s =>
              some (s.modLaunch n fun l => { l with recorded := true })).map ended
          else
            ((s.engineWrite r o l.record.sema ((bytesOfBits l.record.sval 8).map some) false).then l.core i k fun _ s =>
              some (s.finishCmd l.core i k 0)).map ended

/-- LAUNCH_COMPLETION. -/
def execLaunchCompletion (n : Nat) (s : State) : Result := .next ((s.launchDone n).getD s)

end Sys2Proof.Machine
end

