-- ==== Sys2Proof/Machine/Strip.lean ====
section
/-! DEFINITION. Strips: STRIP, SCOMMIT, SABORT and the drain of committed granules (10 R248 to R251, 17 R362). -/

namespace Sys2Proof.Machine

/-- A STRIPF trap with its reason. -/
def stripTrap (s : State) (reason : Dword) : Flow := .trap s causeStripf reason

/-- STRIP. -/
def execStrip (a : Reg) (s : State) : Result :=
  .next (runWord (.strip a) (fun s =>
    if s.self.strip.isSome then stripTrap s 1 else .retire (s.modSelf fun t => { t with strip := some (s.rx a) })) s)

/-- The open strip is closed and its granules are dropped. -/
def Hart.dropStrip (t : Hart) : Hart := { t with strip := none, granules := [] }

/-- Granules in rising address order. -/
def orderGranules (gs : List Granule) : List Granule := sortBy (fun (a b : Granule) => decide (a.addr.toNat ≤ b.addr.toNat)) gs

/-- Translates the page of every granule for a store, in granule order; the first that fails. -/
def State.granuleMiss (s : State) (r : Reach) : List Granule → Option (Granule × Miss) × State
  | [] => (none, s)
  | g :: gs =>
    match s.translate r.core r.unit r.ctx g.addr .store with
    | (.error m, s) => (some (g, m), s)
    | (.ok _, s) => s.granuleMiss r gs

/-- SCOMMIT (R250): the strip closes and drains, or is discarded whole with STRIPF and a STRIPD event. DEDUCED (log 22). -/
def execScommit (s : State) : Result :=
  .next (runWord .scommit (fun s =>
    let h := s.me
    let t := s.self
    match t.strip with
    | none => stripTrap s 2
    | some base =>
      let r := s.hartReach h .vector
      let gs := orderGranules t.granules
      let pages := (gs.map fun g => g.addr.toNat / 65536).dedup
      let cost := s.checkTime r (pages.map fun p => (BitVec.ofNat 64 (65536 * p), 1))
      match s.granuleMiss r gs with
      | (some (g, m), s') =>
        let s := s'
        if m.cause = causeWait then .hold s else
        let s := (s.modHart h Hart.dropStrip).modCsr fun c => { c with sbase := base }
        stripTrap (s.postEvent r.core { kind := 6, master := hartMaster h, ctx := t.ctx, value := g.addr, pc := 0,
                                        x := BitVec.ofNat 8 m.cause }) 0
      | (none, s) =>
        .retire ((s.modHart h fun t => { t.dropStrip with
            draining := t.draining ++ t.granules.map fun g => { g with ages := Vector.replicate 64 t.serial } }).delay (s.now + cost))) s)

/-- SABORT. -/
def execSabort (s : State) : Result :=
  .next (runWord .sabort (fun s =>
    if s.self.strip.isSome then .retire (s.modSelf Hart.dropStrip) else stripTrap s 2) s)

/-- Stores a granule to memory: whole bytes through the L1, single nibbles at their home. DEDUCED (log 22). -/
def State.drainGranule (s : State) (h : HartKey) (g : Granule) : Acc Unit :=
  let r := s.hartReach h .vector
  let part := fun i => g.mask.extractLsb' (2 * i) 2
  let byte := fun i => g.data.extractLsb' (8 * i) 8
  let bs := (List.range 64).map fun i => if part i = 3 then some (byte i) else none
  let halves := (List.range 64).filter fun i => part i = 1 || part i = 2
  match (if bs.any Option.isSome then s.hartStoreThrough h r .store .store g.addr bs { owner := g.owner } else .ok () s) with
  | .ok _ s =>
    halves.foldl (fun a i =>
      match a with
      | .ok _ s => s.nibbleThrough h r (g.addr + BitVec.ofNat 64 i) (byte i) (part i) { owner := g.owner }
      | e => e) (.ok () s)
  | e => e

/-- The part of a granule that its mask and a mask of 128 nibbles name. -/
def Granule.masked (g : Granule) (m : BitVec 128) : Granule := { g with mask := g.mask &&& m }

/-- The first byte of a granule that holds something, as a mask of nibbles (11 R257). -/
def Granule.firstByte (g : Granule) : BitVec 128 :=
  match (List.range 64).find? fun i => g.mask.extractLsb' (2 * i) 2 != 0 with
  | some i => (3 : BitVec 128) <<< (2 * i)
  | none => 0

/-- The granules of a hart that drain, with only the rest of granule i after its first byte. -/
def Hart.drained (t : Hart) (i : Nat) (g : Granule) : Hart :=
  let rest := g.masked (~~~g.firstByte)
  { t with draining := if rest.mask = 0 then t.draining.eraseIdx i else t.draining.set i rest }

/-- A committed granule of a hart drains, one byte at a time (11 R257), in no fixed order; older granules of one address first. -/
def State.stripStep (s : State) (h : HartKey) : Option State :=
  let t := s.hart h
  if t.draining.isEmpty || decide (63 ≤ t.sideLog.length) then none
  else
    let c := s.choose t.draining.length
    match t.draining[c.1]? with
    | none => none
    | some g =>
      let i := t.draining.findIdx fun o => o.addr = g.addr
      match t.draining[i]? with
      | none => none
      | some g =>
        let s := c.2.modHart h fun t => t.drained i g
        if s.accessBlocked (s.hartReach h .vector) .store g.addr 64 || (t.sideLog.any fun e => e.meets g.addr 64) then none
        else
          match s.drainGranule h (g.masked g.firstByte) with
          | .ok _ s => some s
          | .miss m s => s.lateMiss h m
          | .wait => none

/-- STRIP_DRAIN: a byte of a granule of a committed strip is stored. -/
def execStripDrain (h : HartKey) (s : State) : Result := .next ((s.stripStep h).getD s)

end Sys2Proof.Machine
end

