-- ==== Sys2Proof/Machine/Record.lean ====
section
/-! DEFINITION. The hart record of a save area, written and read back (18 R385, R386, 17 R361). -/

namespace Sys2Proof.Machine

/-- n bytes of a number, least significant first. -/
def leBytes (n v : Nat) : List Byte := bytesOfBits (BitVec.ofNat (8 * n) v) n
/-- A list of bytes filled with zeros, or cut, to a length. -/
def padTo (n : Nat) (l : List Byte) : List Byte := (l ++ List.replicate (n - l.length) 0).take n
/-- n bytes of a list from an offset on, as a number. -/
def leField (l : List Byte) (at_ n : Nat) : Nat := (bitsOfBytes (8 * n) ((l.drop at_).take n)).toNat
/-- Eight bytes of a list. -/
def leDword (l : List Byte) (at_ : Nat) : Dword := bitsOfBytes 64 ((l.drop at_).take 8)

/-! ## Writing (R385, R386) -/

/-- The 16 RW CSRs of R386, in CSR number order. -/
def Hart.savedCsrs (t : Hart) : List Dword :=
  let c := t.csr
  [c.rowbase.setWidth 64, c.rmode.setWidth 64, c.fflags.setWidth 64, c.kmask, c.mk0, c.mk1, c.tvec, c.tepc, c.tcause, c.tval,
   c.pfxl.setWidth 64, c.tscr, ofBool c.inh, c.ntimeo, ofBool c.schk, c.migwait]
/-- Their numbers. -/
def savedCsrNumbers : List Nat :=
  [0x005, 0x008, 0x009, 0x00C, 0x00D, 0x00E, 0x018, 0x019, 0x01A, 0x01B, 0x01D, 0x01E, 0x01F, 0x020, 0x030, 0x031]

/-- A field descriptor in four bytes. -/
def FieldDesc.pack (d : FieldDesc) : Nat := d.base.toNat + 2 ^ 9 * d.width.toNat + 2 ^ 16 * d.type.toNat
/-- A field descriptor from four bytes. -/
def FieldDesc.unpack (v : Nat) : FieldDesc :=
  { base := BitVec.ofNat 9 v, width := BitVec.ofNat 7 (v / 2 ^ 9), type := BitVec.ofNat 3 (v / 2 ^ 16) }

/-- The status of a binding for its record: a block whose check has failed counts as in flight, since it resumes from its first row (10 R239,
R240), and one that has not begun does not. DEDUCED (log 21). -/
def Binding.savedStatus (b : Binding) : Nat := b.status (b.block.any fun x => !x.unbegun)

/-- A binding in 64 bytes: the record, then descriptor, rowbase, next block, edge and status. The next block is that of the next SWAIT.
DESIGN CHOICE (log 42). -/
def Binding.bytes (b : Binding) : List Byte :=
  bytesOfBits b.record 32 ++ leBytes 4 b.desc.pack ++ leBytes 4 b.rowbase ++ leBytes 8 b.waits ++ leBytes 8 b.edge
    ++ leBytes 8 b.savedStatus

/-- A binding of stream q from 64 bytes; a block that was in flight starts again from its first row, as one of instruction number
`owner` (10 R240). -/
def bindingOf (q owner : Nat) (l : List Byte) : Option Binding :=
  let status := leField l 56 8
  if status % 2 = 0 then none
  else
    let moved := status / 2 ^ 32
    let b : Binding :=
      { record := bitsOfBytes 256 (l.take 32), desc := FieldDesc.unpack (leField l 32 4), rowbase := leField l 36 4,
        waits := leField l 40 8, edge := leField l 48 8, started := moved, moved := moved }
    let b := if status.testBit 2 then b.start (BitVec.ofNat 3 q) owner else b
    some { b with block := b.block.map fun x => { x with edged := true } }

/-- A loop entry in 24 bytes. -/
def LoopEntry.bytes (e : LoopEntry) : List Byte :=
  bytesOfBits e.index 4 ++ bytesOfBits e.count 4 ++ bytesOfBits e.start 8 ++ bytesOfBits e.last 8
/-- A loop entry from 24 bytes. -/
def loopOf (l : List Byte) : LoopEntry :=
  { index := bitsOfBytes 32 (l.take 4), count := bitsOfBytes 32 ((l.drop 4).take 4), start := leDword l 8, last := leDword l 16 }

/-- A side-log entry in 160 bytes (R386). DESIGN CHOICE (log 42). -/
def SideEntry.bytes (e : SideEntry) : List Byte :=
  let kind : List Byte := match e.kind with
    | .store => [0, 0, 0, 0]
    | .add t n r => [1, t.setWidth 8, r.setWidth 8, BitVec.ofNat 8 n]
    | .fold => [2, 0, 0, 0]
  bytesOfBits e.line 8 ++ kind ++ leBytes 4 e.ctx
    ++ leBytes 16 (bitsOf (fun i => e.mask.extractLsb' (2 * i) 2 != 0) 128) ++ bytesOfBits e.data 128
/-- A side-log entry from 160 bytes. -/
def sideEntryOf (l : List Byte) (owner : Nat) : SideEntry :=
  let byte := fun n => leField l n 1
  let mask := leField l 16 16
  { line := leDword l 0
    kind := match byte 8 with
      | 0 => .store
      | 1 => .add (BitVec.ofNat 3 (byte 9)) (byte 11) (BitVec.ofNat 3 (byte 10))
      | _ => .fold
    mask := BitVec.ofNat 256 (bitsOf (fun i => mask.testBit (i / 2)) 256), data := bitsOfBytes 1024 ((l.drop 32).take 128)
    ctx := leField l 12 4, owner := owner }

/-- A strip granule in 72 bytes. -/
def Granule.bytes (g : Granule) : List Byte := bytesOfBits g.addr 8 ++ bytesOfBits g.data 64
/-- A strip granule from 72 bytes: every byte of it. -/
def granuleFrom (l : List Byte) : Granule :=
  { addr := leDword l 0, mask := BitVec.allOnes 128, data := bitsOfBytes 512 ((l.drop 8).take 64) }

/-- The allot CSR of a hart in slot `slot`. -/
def Hart.allot (t : Hart) (slot : Nat) : Nat := t.colbase % 512 + 512 * (t.cols % 1024) + 2 ^ 19 * slot

/-- The scalar part of a hart record (R386); `index` is that of the hart's launch in its area. DESIGN CHOICE (log 42). -/
def Hart.scalarPart (t : Hart) (now slot index : Nat) : List Byte :=
  let x := (List.range 31).flatMap fun i => bytesOfBits (t.sc.get (BitVec.ofNat 5 (i + 1))) 8
  let depth := t.sc.loops.length + (if t.eventLatch then 8 else 0) + (if t.pend then 16 else 0) + 2 ^ 32 * t.pt
  let strip := leBytes 4 (if t.strip.isSome then 1 else 0) ++ bytesOfBits (t.strip.getD 0) 8 ++ leBytes 4 t.granules.length
  padTo 2048 (x ++ bytesOfBits t.sc.pc 8 ++ bytesOfBits (t.sc.preds ||| 1) 8 ++ leBytes 8 depth
    ++ padTo 144 (t.sc.loops.flatMap LoopEntry.bytes) ++ bytesOfBits (packLatch t.sc.latch) 8
    ++ t.fields.toList.flatMap (fun d => leBytes 4 d.pack) ++ t.savedCsrs.flatMap (fun v => bytesOfBits v 8)
    ++ leBytes 8 (now - t.startCycle) ++ bytesOfBits t.sc.instret 8
    ++ leBytes 8 t.csr.hid ++ bytesOfBits t.csr.teamid 8 ++ leBytes 8 t.csr.nharts ++ leBytes 8 (t.allot slot)
    ++ bytesOfBits t.csr.sbase 8 ++ leBytes 8 index ++ t.csr.mbx.toList.flatMap (fun v => bytesOfBits v 8)
    ++ List.replicate 24 0
    ++ t.streams.toList.flatMap (fun b => match b with
        | some b => b.bytes
        | none => List.replicate 64 0)
    ++ strip ++ leBytes 8 t.sideLog.length)

/-- The bits of the columns of an allotment in a row. -/
def bandBits (r : Row) (colbase cols : Nat) : Nat := rowBits r colbase cols

/-- The tags, tgv and columns of an allotment in a cluster, as sections of a hart record. -/
def State.columnPart (s : State) (k : ClusterKey) (slot colbase cols : Nat) : List Byte :=
  let c := s.cluster k
  (List.range 4).flatMap (fun j => bytesOfBits (c.tags.getD (4 * slot + j) 0) 2048) ++ bytesOfBits (c.valid.getD slot 0) 2048
    ++ (List.range 16384).flatMap fun e => leBytes (cols / 8) (bandBits (s.row k e) colbase cols)

/-- The length of a hart record. -/
def Hart.recordLength (t : Hart) : Nat := 0x3000 + t.cols * 2048 + 160 * t.sideLog.length + 72 * t.granules.length

/-- The record of a hart in slot `slot` of a cluster (R385). -/
def State.hartRecord (s : State) (k : ClusterKey) (slot index : Nat) (t : Hart) : List Byte :=
  t.scalarPart s.now slot index ++ s.columnPart k slot t.colbase t.cols ++ t.sideLog.flatMap SideEntry.bytes
    ++ t.granules.flatMap Granule.bytes

/-! ## Reading -/

/-- Replaces columns, tags and tgv of an allotment from the sections of a record. -/
def State.loadColumns (s : State) (k : ClusterKey) (slot colbase cols : Nat) (l : List Byte) : State :=
  let s := ({ s with rowPoison := keepColumns k (~~~bandMask colbase cols) s.rowPoison } : State).modCluster k fun c =>
    { c with tags := (List.range 4).foldl (fun t j => t.setIfInBounds (4 * slot + j) (bitsOfBytes 16384 ((l.drop (2048 * j)).take 2048))) c.tags,
             valid := c.valid.setIfInBounds slot (bitsOfBytes 16384 ((l.drop 8192).take 2048)) }
  (List.range 16384).foldl (fun s e =>
    s.setRow k e (setRowBits (s.row k e) colbase cols (leField l (10240 + e * (cols / 8)) (cols / 8)))) s

/-- A hart as its record gives it; what the record does not hold, and what it still holds unchanged of the side log and the
strip, stays as in `t`. -/
def Hart.ofRecord (t : Hart) (now : Nat) (l : List Byte) : Hart :=
  let depth := leField l 264 8
  let csrs := (savedCsrNumbers.zipIdx).foldl (fun t x => t.csrWrite x.1 (leDword l (488 + 8 * x.2))) t
  let allot := leField l 656 8
  let cols := allot / 512 % 1024
  let logAt := 0x3000 + cols * 2048
  let logLen := leField l 1296 8
  let log := (l.drop logAt).take (160 * logLen)
  let gran := (l.drop (logAt + 160 * logLen)).take (72 * leField l 1292 4)
  { csrs with
    sc := { t.sc with
      x := Vector.ofFn fun i => if i.val = 0 then 0 else leDword l (8 * i.val - 8)
      pc := leDword l 248
      preds := BitVec.ofNat 8 (leField l 256 8) ||| 1
      loops := (List.range (depth % 8)).map fun i => loopOf ((l.drop (272 + 24 * i)).take 24)
      latch := unpackLatch (BitVec.ofNat 11 (leField l 416 8))
      instret := leDword l 624
      fixed := [], board := [] }
    csr := { csrs.csr with
      hid := leField l 632 8, teamid := leDword l 640, nharts := leField l 648 8, sbase := leDword l 664,
      mbx := Vector.ofFn fun i => leDword l (680 + 8 * i.val) }
    fields := Vector.ofFn fun i => FieldDesc.unpack (leField l (424 + 4 * i.val) 4)
    colbase := allot % 512, cols := cols, startCycle := now - leField l 616 8
    eventLatch := depth.testBit 3, pend := depth.testBit 4, pt := depth / 2 ^ 32
    streams := Vector.ofFn fun i => bindingOf i.val (leField l 624 8) ((l.drop (768 + 64 * i.val)).take 64)
    strip := if leField l 1280 4 % 2 = 1 then some (leDword l 1284) else none
    sideLog := if log = t.sideLog.flatMap SideEntry.bytes then t.sideLog
      else (List.range logLen).map fun i => sideEntryOf ((log.drop (160 * i)).take 160) i
    granules := if gran = t.granules.flatMap Granule.bytes then t.granules
      else (List.range (leField l 1292 4)).map fun i => granuleFrom ((gran.drop (72 * i)).take 72) }

/-! ## Stillness (17 R361, 18 R376) -/

/-- A hart's VMEM transfers and other accesses have ended, or the oldest of them has failed and waits for its fault to be raised, and
its stream blocks have landed, have not begun, or wait, at their first row, for theirs (R361). -/
def Hart.transfersDone (t : Hart) : Bool :=
  (t.vmem.isEmpty || t.overdue.isSome) && t.streams.toList.all fun b => match b with
    | some b => b.fault.isSome || b.block.all Transfer.unbegun
    | none => true

/-- What a stopped hart still moves can go no further before the steward has made room in its side log (17 R358). -/
def Hart.logStuck (t : Hart) : Bool := decide (63 ≤ t.sideLog.length) && t.storesLeft

/-- A hart has stopped: its array instruction has ended, its results are written, and its pushes are done (R376, 19 R397). -/
def Hart.still (t : Hart) (now : Nat) : Bool :=
  decide (t.arrayDone ≤ now) && ((t.transfersDone && t.draining.isEmpty) || t.logStuck) && t.sc.fixed.isEmpty &&
    (t.sc.board.isEmpty || t.overdue.isSome || t.logStuck)
    && t.orders.all (fun p => p.fill.isNone)
    && match t.wait with
      | .fpush _ _ _ => false
      | .fpop _ _ _ => false
      | .trapping _ _ _ => false
      | _ => true

end Sys2Proof.Machine
end

