-- ==== Sys2Proof/Machine/Switch.lean ====
section
/-! DEFINITION. Taking a context off its cores and giving it back: the stop, the state of a core, the shadow swap, the save
area, its spill and the restore (18 R376 to R389, R393, 19 R397, R402, R407, 17 R370). -/

namespace Sys2Proof.Machine

/-! ## Failing a context (17 R367, 18 R389) -/

/-- The twin pairs on which a context has no hart left return to their start state: the live ones, where the context has its partition, and
what is kept of the others (19 R396, R408). -/
def State.restTwins (s : State) (ctx : Nat) : State :=
  let live := (s.twins.map Prod.fst).filter fun t =>
    (s.pair (t / 16)).part.any fun p => decide (s.turnCtx p = some ctx)
  let s := live.foldl (fun s t => s.restTwin t ctx) s
  s.modCtx ctx fun c => { c with twins := c.twins.filter fun e => s.twinInUse e.1 ctx }

/-- Every running launch of a context ends with a status: its harts are marked failed, wherever they are, and no more of its
state is kept. -/
def State.failContext (s : State) (ctx status : Nat) : State :=
  let s := (s.harts.filter fun e => decide (e.2.ctx = ctx)).foldl (fun s e => s.failHart e.1 status) s
  let out := (s.clusters.map fun (e : Nat × Cluster) => (e.2.bank.filter fun b => decide (b.2.ctx = ctx)).length).sum
    + (s.ctxState ctx).harts.length
  let now := s.now
  let s := { s with
    clusters := s.clusters.map fun (e : Nat × Cluster) =>
      (e.1, { e.2 with bank := e.2.bank.filter fun b => decide (b.2.ctx ≠ ctx),
                       clears := e.2.clears ++ (e.2.marks.filter fun (b : Band) => decide (b.ctx = ctx)).map
                         (fun (b : Band) => { b with since := now }),
                       marks := e.2.marks.filter fun (b : Band) => decide (b.ctx ≠ ctx) })
    launches := s.launches.map fun (e : Nat × Launch) =>
      if e.2.ctx = ctx then (e.1, { e.2.halt status with teams := [] }) else e }
  (s.modCtx ctx fun c =>
    { c with failures := c.failures + out, failed := true, saved := false, lost := false, spill := none, harts := [], cores := [],
             tables := [], typed := [], twins := [], licences := [], licencesHeld := [], stash := [] }).restTwins ctx

/-! ## The stop of a core (R376, R379, R383) -/

/-- A hart of an outgoing context stops: its fixed-latency results are written (03 R83), a waiting word stays unretired and lets go of
its place between the twins, and an event whose routine has not started is withdrawn. -/
def State.stopHart (s : State) (h : HartKey) : State :=
  let core := coreOfHart h
  let s := s.modTwin (twinOfCore core) fun v =>
    { v with halves := v.halves.filter fun p => decide (p.2.hart ≠ h), points := v.points.filter fun p => decide (p.2.hart ≠ h) }
  let s := s.modSteward core fun w => { w with events := w.withdrawn h }
  s.modHart h fun t =>
    { t with sc := t.sc.commitAll, stopped := true, claim := none, wait := match t.wait with
        | .arrived => .arrived
        | .fpush n va c => .fpush n va c
        | .fpop va row c => .fpop va row c
        | _ => .none }

/-- The commands of a context's chains on a core that hold an execution slot are to stop (R379). -/
def State.stopChains (s : State) (core : CoreId) (ctx : Nat) : State :=
  (List.finRange 17).foldl (fun s i =>
    if i = 16 ∨ (s.chain core i).ctx ≠ some ctx then s
    else s.modChain core i fun c => { c with cmds := c.cmds.map fun k => { k with halting := k.halting || k.stage.executing } }) s

/-- The licence state of a context on a core at its stop: held or requested is noted, a held licence is released when the A
stream of its running MMA ends, and a request is withdrawn. -/
def State.stopLicence (s : State) (core : CoreId) (ctx : Nat) : State :=
  let owns := s.ownsLicence core ctx
  let asks := s.requestsLicence core ctx
  let s := if owns then s.beginRelease core ctx fun e => e.started && decide (e.rowsDone < e.m) else s
  let s := if asks then s.cancelRequest core ctx else s
  if owns || asks then
    s.modCtx ctx fun c =>
      { c with licences := if c.licences.contains core then c.licences else c.licences ++ [core],
               licencesHeld := (c.licencesHeld.filter fun k => decide (k ≠ core)) ++ (if owns then [core] else []) }
  else s

/-- Everything of a context on a core stops. DEDUCED (log 41). -/
def State.stopCore (s : State) (core : CoreId) (ctx : Nat) : State :=
  let hs := (s.harts.filter fun e => decide (coreOfHart e.1 = core) && decide (e.2.ctx = ctx)).map Prod.fst
  ((hs.foldl State.stopHart s).stopChains core ctx).stopLicence core ctx

/-- Whether a command of a context on a core still halts. -/
def CoreState.halts (v : CoreState) (ctx : Nat) : Bool :=
  (v.chains.toList.take 16).any fun c => decide (c.ctx = some ctx) && c.cmds.any Cmd.halting

/-- Everything of a context on a core has stopped: its harts, its commands, the A streams and loads that had started, and, at a row
boundary, its drain (R379). -/
def State.coreStill (s : State) (core : CoreId) (ctx : Nat) : Bool :=
  let v := s.core core
  let mine := fun (e : MatEntry) => decide (e.ctx = ctx)
  (s.harts.all fun e => decide (coreOfHart e.1 ≠ core ∨ e.2.ctx ≠ ctx) || e.2.still s.now)
    && !v.halts ctx
    && (v.queue.all fun e => !mine e || !e.started || (!e.load && !e.away && decide (e.m ≤ e.rowsDone) && decide (e.drained < e.m)))
    && (v.drainRow.isNone || !(v.queue.find? fun e => !e.load).any mine)

/-! ## The state of a core (R379, R387, 14 R333) -/

/-- The part of a core's state that belongs to a context; `rest` is what it leaves behind. -/
def CoreState.part (v : CoreState) (ctx : Nat) : CoreState × CoreState :=
  let mine := fun (e : MatEntry) => decide (e.ctx = ctx)
  let queue := v.queue.filter mine
  let keep := fun {α : Type} (f : α → Nat) (own : Bool) (o : Option α) => o.filter fun a => decide (f a = ctx) == own
  let cut : Restart := match queue.findIdx? fun e => !e.load && e.started with
    | none => {}
    | some n =>
      if v.restart.valid then { v.restart with qpos := n }
      else { valid := true, slot := ((queue[n]?).map MatEntry.slot).getD 0, row := ((queue[n]?).map MatEntry.drained).getD 0,
             cause := 0, qpos := n }
  ({ queue := queue.map fun e => { e with owed := false }, frozenMmas := v.frozenMmas.filter mine, restart := cut
     slots := v.slots.map (keep DrainSlot.ctx true), cbs := v.cbs.map (keep CircBuf.ctx true),
     b0 := keep BLatch.ctx true v.b0, b1 := keep BLatch.ctx true v.b1
     drainLog := v.drainLog.filter fun e => decide (e.ctx = ctx) },
   { v with
     queue := v.queue.filter fun e => !mine e, frozenMmas := v.frozenMmas.filter fun e => !mine e
     restart := if cut.valid then {} else v.restart
     slots := v.slots.map (keep DrainSlot.ctx false), cbs := v.cbs.map (keep CircBuf.ctx false),
     b0 := keep BLatch.ctx false v.b0, b1 := keep BLatch.ctx false v.b1
     drainLog := v.drainLog.filter fun e => decide (e.ctx ≠ ctx) })

/-- Whether a core state holds anything. -/
def CoreState.holds (v : CoreState) : Bool :=
  !v.queue.isEmpty || !v.frozenMmas.isEmpty || v.slots.any Option.isSome || v.cbs.any Option.isSome || v.b0.isSome || v.b1.isSome
    || !v.drainLog.isEmpty

/-- Puts the saved state of a context back into a core; another context's slots, buffers and latches give way. -/
def CoreState.merge (v p : CoreState) : CoreState :=
  let put := fun {α : Type} (a b : Option α) => a.or b
  { v with queue := p.queue ++ v.queue, frozenMmas := p.frozenMmas ++ v.frozenMmas,
           restart := if p.restart.valid then p.restart else v.restart,
           slots := Vector.zipWith put p.slots v.slots, cbs := Vector.zipWith put p.cbs v.cbs,
           b0 := put p.b0 v.b0, b1 := put p.b1 v.b1, drainLog := p.drainLog ++ v.drainLog }

/-- The table slots of a context in a cluster. -/
def State.tablesOf (s : State) (k : ClusterKey) (ctx : Nat) : List (ClusterKey × Nat × TableSlot) :=
  ((s.cluster k).tables.toList.zipIdx).filterMap fun p => match p.1 with
    | some t => if t.ctx = ctx then some (k, p.2, t) else none
    | none => none

/-- The typed-space ranges of a context's teams on a core: location and length. -/
def State.reservations (s : State) (core : CoreId) (ctx : Nat) : List (Nat × Nat) :=
  (s.launches.filter fun e => decide (e.2.ctx = ctx)).flatMap fun e =>
    (e.2.teams.filter fun t => decide (t.core = core)).flatMap fun t =>
      [(wLoc core t.wBase, 1024 * e.2.record.wuse), (cLoc core t.cBase, 1024 * e.2.record.cuse)]

/-- Whether a location lies in a range. -/
def inRange (loc : Nat) (r : Nat × Nat) : Bool := decide (r.1 ≤ loc) && decide (loc < r.1 + r.2)

/-- Takes a context's state off a core. DEDUCED (log 41). -/
def State.takeCore (s : State) (core : CoreId) (ctx : Nat) : State :=
  if ((s.ctxState ctx).cores.get? core).isSome then s
  else
  let p := (s.core core).part ctx
  let s := if p.1.holds then s.setCore core p.2 else s
  let tables := (clustersOf core).flatMap fun k => s.tablesOf k ctx
  let used := p.1.holds || !tables.isEmpty || (s.reservations core ctx).any fun (r : Nat × Nat) => decide (0 < r.2)
  if !used then s
  else s.modCtx ctx fun c => { c with cores := c.cores.put core p.1, tables := c.tables ++ tables }

/-- What a context leaves between twins: values, entries, gate. The licence and its slot table stay. -/
def Twin.part (v : Twin) : Twin × Twin :=
  ({ narrows := v.narrows, up := v.up, down := v.down, gate := v.gate, gateWant := v.gateWant },
   { licence := v.licence, mslots := v.mslots })

/-- Takes a context's state off a twin pair that it uses (19 R397). -/
def State.takeTwin (s : State) (t : PairKey) (ctx : Nat) : State :=
  if !s.twinInUse t ctx then s
  else
    let p := (s.twin t).part
    (s.modTwin t fun _ => p.2).modCtx ctx fun c => { c with twins := c.twins.put t p.1 }

/-- Gives a context's state back to a core (R382, R383): typed spaces, slots, latches, buffers, tables, and the licence
request ahead of every other. -/
def State.giveCore (s : State) (core : CoreId) (ctx : Nat) : State :=
  let c := s.ctxState ctx
  let ranges := s.reservations core ctx
  let bytes := c.typed.filter fun e => ranges.any (inRange e.1)
  let s := if (c.cores.get? core).isSome && (c.saved || s.coreGated core) then
      bytes.foldl (fun s e => s.setByte e.1 e.2) (ranges.foldl (fun s r => s.clearRange r.1 r.2) s)
    else s
  let s := match c.cores.get? core with
    | some p => s.modCore core fun v => v.merge p
    | none => s
  let s := (c.tables.filter fun t => decide (coreOfCluster t.1 = core)).foldl (fun s t =>
    s.modCluster t.1 fun k => { k with tables := k.tables.setIfInBounds t.2.1 (some t.2.2) }) s
  let s := s.modCtx ctx fun c =>
    { c with cores := c.cores.erase core, tables := c.tables.filter fun t => decide (coreOfCluster t.1 ≠ core),
             typed := c.typed.filter fun e => !ranges.any (inRange e.1) }
  if c.licences.contains core then s.forceLicence core ctx else s

/-! ## The save area (R384 to R389) -/

/-- Whether the typed-space ranges of a context on a core hold nothing of another context that is not in that one's save area (R382). -/
def State.rangesFree (s : State) (core : CoreId) (ctx : Nat) : Bool :=
  (s.reservations core ctx).all fun (r : Nat × Nat) => s.ctxStates.all fun (e : Nat × CtxState) =>
    decide (e.1 = ctx) || e.2.saved || (s.reservations core e.1).all fun (q : Nat × Nat) => decide (q.1 + q.2 ≤ r.1 ∨ r.1 + r.2 ≤ q.1)

/-- The harts of a context that are not resident: key and sequencer state, from the shadow banks or held for it. -/
def State.awayHarts (s : State) (ctx : Nat) : List (HartKey × Hart) :=
  let banked := s.clusters.flatMap fun (e : Nat × Cluster) =>
    (e.2.bank.filter fun b => decide (b.2.ctx = ctx)).map fun b => (4 * e.1 + b.1, b.2)
  sortBy (fun (a b : HartKey × Hart) => decide (a.1 ≤ b.1)) (banked ++ (s.ctxState ctx).harts)

/-- The launches of a context, rising. -/
def State.launchesOf (s : State) (ctx : Nat) : List (Nat × Launch) := s.launches.filter fun e => decide (e.2.ctx = ctx)

/-- What a context's area holds, but for the lengths; with a core, of what its gated cores hold, that one included (19 R407). DEDUCED
(log 43). -/
def State.areaParts (s : State) (ctx : Nat) (only : Option CoreId) : AreaPlan :=
  let harts := s.awayHarts ctx
  let saved : List CoreId := (s.ctxState ctx).cores.map Prod.fst ++ harts.map fun (e : HartKey × Hart) => coreOfHart e.1
  let bound := (s.cores.filter fun (e : CoreId × CoreState) => (e.2.chains.toList.take 16).any fun c => decide (c.ctx = some ctx)).map Prod.fst
  let cores := match only with
    | some c => c :: saved
    | none => saved ++ bound ++ (s.ctxState ctx).twins.map (fun (e : PairKey × Twin) => lowerCore e.1) ++ (s.launchesOf ctx).flatMap fun (e : Nat × Launch) => e.2.teams.map Team.core
  { harts := harts, cores := (sortBy (fun a b => decide (a ≤ b)) cores).dedup, launches := s.launchesOf ctx }

/-- A number rounded up to 128. -/
def up128 (n : Nat) : Nat := (n + 127) / 128 * 128

/-- A sparse byte list of a matrix queue entry, a buffer, a command: the item encodings of R387 that the manual leaves to the
device. -/
def MatEntry.bytes (e : MatEntry) : List Byte :=
  let src := match e.source with
    | .hart h => h + 1
    | .command c q => 2 ^ 32 * (c + 1) + q.toNat
  padTo 128 (leBytes 4 ((if e.load then 1 else 0) + (if e.masked then 2 else 0) + (if e.acc then 4 else 0)
      + (if e.started then 8 else 0) + 16 * e.latch + 32 * e.slot + 1024 * e.bType.toNat + 8192 * e.aType.toNat + 65536 * e.rm.toNat)
    ++ leBytes 4 e.m ++ bytesOfBits e.addr 8 ++ leBytes 8 e.cAddr ++ bytesOfBits e.outMask 16 ++ leBytes 8 src
    ++ leBytes 4 e.rowsDone ++ leBytes 4 e.drained ++ leBytes 4 e.window.1.1 ++ leBytes 4 e.window.1.2 ++ leBytes 4 e.window.2.1
    ++ leBytes 4 e.window.2.2 ++ leBytes 8 e.migwait) ++ e.params.toList.flatMap fun v => bytesOfBits v 8

/-- A drain slot. -/
def DrainSlot.bytes (d : DrainSlot) : List Byte :=
  leBytes 4 d.words.length ++ leBytes 4 d.q ++ d.words.flatMap (fun w => bytesOfBits w 2) ++ d.params.toList.flatMap fun v => bytesOfBits v 8

/-- An entry of the drain side log. -/
def DrainEntry.areaBytes (e : DrainEntry) : List Byte :=
  bytesOfBits e.addr 8 ++ leBytes 4 (if e.fold then 1 else 0) ++ leBytes 4 e.row
    ++ leBytes 64 (bitsOf (fun i => ((e.bytes[i]?).join).isSome) 512) ++ padTo 512 (e.bytes.map fun b => b.getD 0)

/-- A circular buffer. -/
def CircBuf.bytes (b : CircBuf) : List Byte :=
  bytesOfBits b.base 8 ++ leBytes 4 b.slotSize ++ leBytes 4 b.slots
    ++ [b.free, b.filled, b.pidx, b.cidx, b.hp, b.hc].flatMap fun n => leBytes 4 n

/-- A command of a chain with its position. -/
def Cmd.bytes (k : Cmd) : List Byte :=
  let stage := match k.stage with
    | .batch => 0
    | .queued => 1
    | .running => 2
    | .parked _ _ => 3
    | .parking _ => 4
    | .resumed => 5
    | .frozen => 6
    | .handed => 7
    | .done => 8
    | .iced => 9
  bytesOfBits k.seq 4 ++ leBytes 1 stage ++ leBytes 1 k.op ++ leBytes 1 k.rm.toNat ++ leBytes 1 k.status ++ bytesOfBits k.at_ 8
    ++ leBytes 8 k.pos ++ leBytes 8 k.errors ++ bytesOfBits k.record 64

/-- A chain: APPSEQ, DONESEQ, PEND and its commands. -/
def Chain.bytes (c : Chain) : List Byte :=
  bytesOfBits c.appSeq 4 ++ bytesOfBits c.doneSeq 4 ++ leBytes 4 c.pend ++ leBytes 4 c.cmds.length ++ c.cmds.flatMap Cmd.bytes

/-- A Ferry FIFO in a twin item (19 R397). -/
def Ferry.bytes (f : Ferry) : List Byte :=
  let filled := f.entries.filterMap Prod.snd
  leBytes 4 filled.length ++ leBytes 4 (16 - f.entries.length) ++ filled.flatMap fun r => bytesOfBits r 64

/-- The number of a gate state. -/
def Gate.code : Gate → Nat
  | .on => 0
  | .gating => 1
  | .gated => 2
  | .ungating => 3

/-- The gate state with a number. -/
def Gate.ofCode (n : Nat) : Gate :=
  match n % 4 with
  | 0 => .on
  | 1 => .gating
  | 2 => .gated
  | _ => .ungating

/-- The twin item: slot values, the FIFOs, and last the gate state with its last request. DESIGN CHOICE (log 42). -/
def Twin.bytes (v : Twin) : List Byte :=
  v.narrows.toList.flatMap (fun x => bytesOfBits x 8) ++ v.up.bytes ++ v.down.bytes ++ leBytes 8 (v.gate.code + if v.gateWant then 4 else 0)

/-- A Ferry FIFO from a twin item, and the bytes after it. -/
def ferryFrom (l : List Byte) : Ferry × List Byte :=
  let n := leField l 0 4
  ({ entries := (List.range n).map fun i => (i, some (bitsOfBytes 512 ((l.drop (8 + 64 * i)).take 64))), next := n }, l.drop (8 + 64 * n))

/-- What a twin item gives. -/
def twinFrom (l : List Byte) : Twin :=
  let up := ferryFrom (l.drop 256)
  let down := ferryFrom up.2
  let g := leField down.2 0 8
  { narrows := Vector.ofFn fun i => leDword l (8 * i.val), up := up.1, down := down.1, gate := Gate.ofCode g, gateWant := g.testBit 2 }

/-- The bytes of a typed-space range of a context on a core: those that were kept, where the core is gated. -/
def State.spaceBytes (s : State) (ctx : Nat) (core : CoreId) (r : Nat × Nat) : List Byte :=
  if s.coreGated core then
    (List.range r.2).map fun i => (((s.ctxState ctx).typed.find? fun e => decide (e.1 = r.1 + i)).map Prod.snd).getD 0
  else s.bytes r.1 r.2

/-- The table buffer slots of a context in a cluster: the cluster, a valid mask, and the four slots. -/
def tableItem (k : ClusterKey) (l : List (ClusterKey × Nat × TableSlot)) : List Byte :=
  let slot := fun (i : Nat) => ((l.find? fun t => decide (t.1 = k ∧ t.2.1 = i)).map fun t => t.2.2.data).getD []
  if l.all fun t => decide (t.1 ≠ k) then []
  else
    leBytes 4 (k % 8) ++ leBytes 4 (bitsOf (fun i => !(slot i).isEmpty) 4) ++ (List.range 4).flatMap fun i => padTo 512 (slot i)

/-- The chain item of a core record. -/
def State.chainItem (s : State) (ctx : Nat) (core : CoreId) : List Byte :=
  (List.finRange 17).flatMap fun i =>
    if decide (i = 16) || decide ((s.chain core i).ctx ≠ some ctx) then [] else leBytes 4 i.val ++ (s.chain core i).bytes

/-- The core record of a context (R387) with its chain item: the header with the lengths of its items and the licence state, then the
items. DESIGN CHOICE (log 42). -/
def State.coreRecord (s : State) (ctx : Nat) (core : CoreId) (chains : List Byte) : List Byte :=
  let c := s.ctxState ctx
  let p := (c.cores.get? core).getD {}
  let ranges := s.reservations core ctx
  let space := fun (w : Bool) => (ranges.filter fun r => decide (r.1 < 2 ^ 45) == w && decide (0 < r.2)).flatMap fun r =>
    leBytes 8 (r.1 % if w then 2 ^ 22 else 2 ^ 20) ++ leBytes 8 r.2 ++ s.spaceBytes ctx core r
  let latch := fun (l : Option BLatch) => match l with
    | some l => padTo 36864 l.image ++ leBytes 8 (l.bType.toNat + 8 * l.aType.toNat + 64)
    | none => []
  let slots := p.slots.toList.zipIdx.flatMap fun x => match x.1 with
    | some d => leBytes 4 x.2 ++ d.bytes
    | none => []
  let r := p.restart
  let restart := leBytes 8 ((if r.valid then 1 else 0) + 2 * r.slot + 64 * r.row + 2 ^ 14 * r.cause + 2 ^ 15 * r.qpos)
  let tables := (clustersOf core).flatMap fun k => tableItem k c.tables
  let cbs := p.cbs.toList.zipIdx.flatMap fun x => match x.1 with
    | some b => leBytes 4 x.2 ++ b.bytes
    | none => []
  let twin := if upperCore core then [] else match c.twins.get? (twinOfCore core) with
    | some v => v.bytes
    | none => []
  let licence := if !c.licences.contains core then 0 else if c.licencesHeld.contains core then 2 else 1
  let items := [space true, space false, latch p.b0 ++ latch p.b1, (p.queue ++ p.frozenMmas).flatMap MatEntry.bytes,
    restart ++ slots ++ p.drainLog.flatMap DrainEntry.areaBytes, tables, cbs, chains, twin]
  padTo 64 (items.flatMap (fun l => leBytes 4 l.length) ++ leBytes 4 licence) ++ items.flatten

/-- The launch record of a running launch (R388). DESIGN CHOICE (log 42). -/
def Launch.areaBytes (l : Launch) : List Byte :=
  let slot := fun (i : Nat) => match l.farm.get? i with
    | some f => bytesOfBits f.total 8 ++ bytesOfBits f.size 8 ++ bytesOfBits f.next 8 ++ leBytes 8 1
    | none => List.replicate 32 0
  bytesOfBits l.raw 128 ++ (List.range 8).flatMap slot ++ leBytes 8 l.retired ++ leBytes 8 l.teams.length
    ++ l.teams.flatMap fun t => ([t.num, t.core, t.ph, t.arrived, t.kind, t.live].flatMap fun n => leBytes 8 n)
      ++ t.supplied.flatMap fun (p : Nat × Dword × Dword) => leBytes 8 p.1 ++ bytesOfBits p.2.1 8 ++ bytesOfBits p.2.2 8

/-- The chain item that a plan holds for a core. -/
def AreaPlan.chainItem (p : AreaPlan) (core : CoreId) : List Byte := ((p.chains.find? fun e => decide (e.1 = core)).map Prod.snd).getD []

/-- Identifier, COLS and length of each record, in the order of the tables. -/
def State.areaRecords (s : State) (ctx : Nat) (p : AreaPlan) : List (Nat × Nat × Nat) :=
  (p.harts.map fun e => (coreOfHart e.1 + 512 * (clusterOfHart e.1 % 8) + 4096 * slotOfHart e.1, e.2.cols, e.2.recordLength))
    ++ p.cores.map (fun c => (c, 0, (s.coreRecord ctx c (p.chainItem c)).length))
    ++ p.launches.zipIdx.map fun x => (x.2, 0, x.1.2.areaBytes.length)

/-- The offsets of records from a first offset on, and the end. -/
def offsetsFrom : Nat → List (Nat × Nat × Nat) → List Nat × Nat
  | a, [] => ([], a)
  | a, r :: rs =>
    let q := offsetsFrom (up128 (a + r.2.2)) rs
    (a :: q.1, q.2)

/-- The plan of a context's area as it stands now. DESIGN CHOICE (log 42). DEDUCED (log 43). -/
def State.areaPlan (s : State) (ctx : Nat) (only : Option CoreId) : AreaPlan :=
  let p := s.areaParts ctx only
  let p := { p with chains := p.cores.map fun c => (c, s.chainItem ctx c) }
  { p with records := s.areaRecords ctx p }

/-- The plan of an area that is being written: that with which it began. -/
def State.spillPlan (s : State) (ctx : Nat) (sp : Spill) : AreaPlan := sp.plan.getD (s.areaPlan ctx sp.core)

/-- Where the records of a plan stand. -/
def AreaPlan.offsets (p : AreaPlan) : List Nat × Nat := offsetsFrom (up128 (256 + 16 * p.records.length)) p.records

/-- The header of an area with nothing complete. -/
def AreaPlan.header (ctx reason : Nat) (p : AreaPlan) (sp : Spill) : List Byte :=
  let n := (p.harts.length, p.cores.length, p.launches.length)
  let o := p.offsets
  let tables := p.records.zip o.1 |>.flatMap fun x =>
    leBytes 2 x.1.1 ++ leBytes 2 x.1.2.1 ++ leBytes 4 x.1.2.2 ++ leBytes 8 x.2
  padTo 256 ([0x4B, 0x46, 0x43, 0x53, 0x41, 0x32, 0, 0] ++ leBytes 2 0x0100 ++ leBytes 2 256 ++ leBytes 2 ctx ++ leBytes 2 reason
    ++ leBytes 8 o.2 ++ leBytes 4 n.1 ++ leBytes 4 n.2.1 ++ leBytes 4 n.2.2 ++ leBytes 4 0
    ++ leBytes 8 256 ++ leBytes 8 (256 + 16 * n.1) ++ leBytes 8 (256 + 16 * (n.1 + n.2.1))
    ++ leBytes 8 sp.began ++ leBytes 8 (sp.energy / 1000)) ++ tables

/-- The index of a hart's launch in its area's launch table. -/
def AreaPlan.launchIndex (p : AreaPlan) (n : Nat) : Nat := p.launches.findIdx fun e => decide (e.1 = n)

/-- The writes of piece `pos` of an area, in the order of R389: offset and bytes; none past its end. The mask grows with the
last piece of each step. -/
def State.areaPiece (s : State) (ctx reason : Nat) (sp : Spill) : Option (List (Nat × List Byte)) :=
  let p := s.spillPlan ctx sp
  let nh := p.harts.length
  let nc := p.cores.length
  let nl := p.launches.length
  let o := p.offsets.1
  let at_ := fun i => (o[i]?).getD 0
  let ident := fun i => (p.records[i]?).getD (0, 0, 0)
  let done := fun i => (256 + 16 * i, leBytes 2 ((ident i).1 + 2 ^ 14))
  let mask := fun (n : Nat) => (36, leBytes 4 ((if nh < n then 1 else 0) + (if 2 * nh < n then 2 else 0)
    + (if 2 * nh + nc < n then 4 else 0) + (if 2 * nh + nc + nl < n then 8 else 0)))
  let n := sp.pos
  if n = 0 then some [(0, AreaPlan.header ctx reason p sp), mask 1]
  else if n ≤ nh then
    match p.harts[n - 1]? with
    | some e =>
      some [(at_ (n - 1), e.2.scalarPart s.now (slotOfHart e.1) (p.launchIndex e.2.launch)),
        (at_ (n - 1) + 0x3000 + e.2.cols * 2048, e.2.sideLog.flatMap SideEntry.bytes), mask (n + 1)]
    | none => none
  else if n ≤ 2 * nh then
    match p.harts[n - nh - 1]? with
    | some e =>
      some [(at_ (n - nh - 1) + 2048, ((s.ctxState ctx).stash.get? e.1).getD
          (s.columnPart (clusterOfHart e.1) (slotOfHart e.1) e.2.colbase e.2.cols)),
        (at_ (n - nh - 1) + 0x3000 + e.2.cols * 2048 + 160 * e.2.sideLog.length, e.2.granules.flatMap Granule.bytes),
        done (n - nh - 1), mask (n + 1)]
    | none => none
  else if n ≤ 2 * nh + nc then
    match p.cores[n - 2 * nh - 1]? with
    | some c => some [(at_ (n - nh - 1), s.coreRecord ctx c (p.chainItem c)), done (n - nh - 1), mask (n + 1)]
    | none => none
  else if n ≤ 2 * nh + nc + nl then
    match p.launches[n - 2 * nh - nc - 1]? with
    | some l => some [(at_ (n - nh - 1), l.2.areaBytes), done (n - nh - 1), mask (n + 1)]
    | none => none
  else if n = 2 * nh + nc + nl + 1 then some [(36, leBytes 4 (15 + 2 ^ 31))]
  else none

/-- HOST of a context (R371). -/
def State.ctxHost (s : State) (ctx : Nat) : Bool := (s.ctxEntry ctx).getLsbD 192

/-- The location of byte `off` of a context's save area, and its key. -/
def State.areaLoc (s : State) (ctx off : Nat) : Option (Nat × Nat) :=
  let base := ((s.ctxEntry ctx).extractLsb' 128 64).toNat
  if s.ctxHost ctx then some (hostLoc (s.ctxPasid ctx) ((base + off) % 2 ^ 51), 0)
  else (s.locOfPa (base + off)).map fun l => (l, ((s.ctxEntry ctx).extractLsb' 200 12).toNat)

/-- CSALEN in bytes. -/
def State.areaRoom (s : State) (ctx : Nat) : Nat := 1024 * ((s.ctxEntry ctx).extractLsb' 224 32).toNat

/-- Writes bytes into a save area: none while they must wait. -/
def State.areaWrite (s : State) (ctx : Nat) (l : List (Nat × List Byte)) : Option State :=
  l.foldl (fun (a : Option State) w => do
    let s ← a
    if w.2.isEmpty then pure s
    else
      match s.areaLoc ctx w.1 with
      | none => pure s
      | some (loc, key) => if s.blocked loc w.2.length then none else pure (s.homeStore key loc (w.2.map some))) (some s)

/-- Bytes of a save area. -/
def State.areaRead (s : State) (ctx off n : Nat) : List Byte :=
  match s.areaLoc ctx off with
  | none => List.replicate n 0
  | some (loc, key) => (s.homeRead key loc n).1

/-- An area that is complete leaves its context saved, with the typed-space bytes that it holds. -/
def State.areaDone (s : State) (ctx : Nat) : State :=
  let ranges := ((s.areaPlan ctx none).cores.filter fun c => !s.coreGated c).flatMap fun c => s.reservations c ctx
  s.modCtx ctx fun c =>
    { c with saved := true, lost := false, spill := none,
             typed := (c.typed.filter fun e => !ranges.any (inRange e.1)) ++ s.mem.filter fun e => ranges.any (inRange e.1) }

/-- Whether a spill is in its first sweep: the header, then the scalar parts and side logs of the harts (R393). -/
def State.firstSweep (s : State) (ctx : Nat) (sp : Spill) : Bool := decide (sp.pos ≤ (s.spillPlan ctx sp).harts.length)

/-- Whether an emergency save lets a context write its next piece: in two sweeps over the contexts that it affects, those whose
spill has not begun too, the lower contexts first (R393). DEDUCED (log 44). -/
def State.sweepAllows (s : State) (ctx : Nat) (sp : Spill) : Bool :=
  decide (sp.reason ≠ 3) || s.ctxStates.all fun (e : Nat × CtxState) =>
    let first := match e.2.spill with
      | none => true
      | some q => decide (q.reason ≠ 3) || s.firstSweep e.1 q
    !e.2.lost || decide (e.1 = ctx) || (if s.firstSweep ctx sp then !(first && decide (e.1 < ctx)) else !first && decide (ctx < e.1))

/-- Whether the core record that a piece writes holds poison of W-space or C-space (17 R365). -/
def State.spoiltPiece (s : State) (ctx : Nat) (p : AreaPlan) (pos : Nat) : Bool :=
  decide (2 * p.harts.length < pos) && (p.cores[pos - 2 * p.harts.length - 1]?).any fun c =>
    !s.coreGated c && (s.reservations c ctx).any fun (r : Nat × Nat) => (s.poisonAt r.1 r.2).isSome

/-- The next piece of a context's area is written, charged to the context, in an emergency to the system account (R391); an area that
does not fit gets its header alone, and the context fails, as it does where poison is read for it (17 R365). -/
def State.spillStep (s : State) (ctx : Nat) (finished : State → State) : Option State :=
  match (s.ctxState ctx).spill with
  | none => none
  | some sp =>
    let out := s.harts.all fun e => decide (e.2.ctx ≠ ctx) || !e.2.stopped || sp.core.any fun c => decide (coreOfHart e.1 ≠ c)
    if !out || !s.sweepAllows ctx sp then none
    else
      let p := s.spillPlan ctx sp
      if s.areaRoom ctx < p.offsets.2 then
        (s.areaWrite ctx [(0, (AreaPlan.header ctx 0xFFFF p sp).take 256)]).map fun s => s.failContext ctx 5
      else if s.spoiltPiece ctx p sp.pos then some (s.failContext ctx 4)
      else
        match s.areaPiece ctx sp.reason { sp with plan := some p } with
        | none => some (finished s)
        | some ws => (s.areaWrite ctx ws).map fun s =>
          (s.modCtx ctx fun c => { c with spill := some { sp with pos := sp.pos + 1, plan := some p } }).charge (s.account ctx)

/-! ## The shadow swap (R380) -/

/-- The harts of a context that a cluster waits for outside its bank. -/
def State.missing (s : State) (k : ClusterKey) (ctx : Nat) : List (HartKey × Hart) :=
  if s.coreGated (coreOfCluster k) then [] else (s.ctxState ctx).harts.filter fun e => decide (clusterOfHart e.1 = k)

/-- The bank's occupants that are not of a context go back to what is held for their contexts. -/
def State.emptyBank (s : State) (k : ClusterKey) (ctx : Option Nat) : State :=
  let gone := (s.cluster k).bank.filter fun b => decide (some b.2.ctx ≠ ctx)
  gone.foldl (fun s b => s.modCtx b.2.ctx fun c => { c with harts := c.harts.put (4 * k + b.1) b.2 })
    (s.modCluster k fun c => { c with bank := c.bank.filter fun b => decide (some b.2.ctx = ctx) })

/-- The live harts of a cluster that have stopped and are not of the context that comes in. -/
def State.leavers (s : State) (k : ClusterKey) (incoming : Option Nat) : List (HartKey × Hart) :=
  s.harts.filter fun e => decide (clusterOfHart e.1 = k) && e.2.stopped && decide (some e.2.ctx ≠ incoming)

/-- Swaps a cluster's live harts that have stopped with those that the bank holds of the context that comes in, if there is one; their
columns stay marked. The swap is charged to their context (R391). -/
def State.swapCluster (s : State) (k : ClusterKey) (incoming : Option Nat) : State :=
  let s := s.emptyBank k incoming
  let out := s.leavers k incoming
  let in_ := (s.cluster k).bank
  let s := { s with harts := s.harts.filter fun e => !out.any fun o => decide (o.1 = e.1) }
  let s := s.modCluster k fun c =>
    { c with bank := out.map fun (e : Nat × Hart) => (slotOfHart e.1, e.2), current := none, runCount := 0,
             marks := c.marks ++ out.map fun (e : Nat × Hart) =>
               { slot := slotOfHart e.1, colbase := e.2.colbase, cols := e.2.cols, ctx := e.2.ctx } }
  let s := in_.foldl (fun s b => s.setHart (4 * k + b.1)
    { b.2 with stopped := true, sc := { b.2.sc with nextIssue := max b.2.sc.nextIssue (s.now + 64) }, lastIssue := s.now }) s
  match out with
  | e :: _ => s.charge (s.account e.2.ctx)
  | [] => s

/-- Whether the occupants of a bank may give way: they are of the context that comes in, or their area is complete. -/
def State.bankFree (s : State) (k : ClusterKey) (incoming : Option Nat) : Bool :=
  (s.cluster k).bank.all fun b => decide (some b.2.ctx = incoming) || (s.ctxState b.2.ctx).saved

/-- The context that comes onto a partition in a switch. -/
def State.comingCtx (s : State) (part : Nat) : Option Nat := if (s.partition part).held then none else s.turnCtx part

/-- Whether the restore of a switch goes on. -/
def Partition.restores (v : Partition) : Bool := decide (v.switch = some .restoring ∨ v.switch = some .leaving)

/-- The swap of a cluster in a switch of its partition, or for a core that is gated or comes back. -/
def State.swapStep (s : State) (k : ClusterKey) : Option State :=
  let core := coreOfCluster k
  match (s.pair (pairOfCore core)).part with
  | none => none
  | some p =>
    let v := s.partition p
    let gate := (s.twin (twinOfCore core)).gate
    let gating := upperCore core && decide (gate = .gating)
    let back := upperCore core && decide (gate = .ungating)
    let incoming := if gating then none else if back then s.turnCtx p else s.comingCtx p
    let due := !(s.leavers k incoming).isEmpty || (s.cluster k).bank.any fun b => decide (some b.2.ctx = incoming)
    let ready := if gating then !v.restores && (s.turnCtx p).any fun c => s.coreStill core c
      else if back then !v.restores else v.restores
    if !due || !ready || decide (s.now < (s.cluster k).arraysFree) || !s.bankFree k incoming
        || incoming.any (fun c => !(s.missing k c).isEmpty) then none
    else some (s.swapCluster k incoming)

/-- SHADOW_SWAP. -/
def execShadowSwap (k : ClusterKey) (s : State) : Result := .next ((s.swapStep k).getD s)

/-! ## The restore (R382) -/

/-- The offset of a complete record in the area of a context, by its name in a table of n entries at an offset. -/
def State.tableEntry (s : State) (ctx at_ n name : Nat) : Option Nat :=
  let table := s.areaRead ctx at_ (16 * n)
  ((List.range n).find? fun i => decide (leField table (16 * i) 2 % 2 ^ 15 = name + 2 ^ 14)).map fun i => leField table (16 * i + 8) 8

/-- The offset of a hart's record in the area of a context, from its table; none where the area does not hold it: the context has not
been saved since it ran, and the hart's core is not gated. -/
def State.recordAt (s : State) (ctx : Nat) (h : HartKey) : Option Nat :=
  if !(s.ctxState ctx).saved && !s.coreGated (coreOfHart h) then none
  else
    let head := s.areaRead ctx 0 256
    s.tableEntry ctx (leField head 40 8) (leField head 24 4) (coreOfHart h + 512 * (clusterOfHart h % 8) + 4096 * slotOfHart h)

/-- The twin item of a pair in the area of a saved context: the last item of the lower core's record (19 R397). -/
def State.twinItem (s : State) (ctx : Nat) (t : PairKey) : Option (List Byte) :=
  if !(s.ctxState ctx).saved then none
  else
    let head := s.areaRead ctx 0 256
    (s.tableEntry ctx (leField head 48 8) (leField head 28 4) (lowerCore t)).bind fun o =>
      let lens := s.areaRead ctx o 64
      let n := leField lens 32 4
      if n = 0 then none
      else some (s.areaRead ctx (o + 64 + ((List.range 8).map fun i => leField lens (4 * i) 4).sum) n)

/-- Gives a context's state back to a twin pair: from its area, where that holds it. A gate that is not where the last request wants it
moves on. -/
def State.giveTwin (s : State) (t : PairKey) (ctx : Nat) : State :=
  match (s.ctxState ctx).twins.get? t with
  | none => s
  | some v =>
    let v := match s.twinItem ctx t with
      | some l => twinFrom l
      | none => v
    (s.modTwin t fun w =>
      { v with licence := w.licence, mslots := w.mslots,
               gateReady := if v.gateWant = decide (v.gate = .gated) then none else some s.now }).modCtx ctx fun c =>
        { c with twins := c.twins.erase t }

/-- A hart as the area gives it. -/
def State.loadedHart (s : State) (ctx : Nat) (h : HartKey) (t : Hart) : Hart :=
  match s.recordAt ctx h with
  | none => t
  | some o =>
    let head := s.areaRead ctx o 2048
    let tail := t.cols * 2048 + 160 * leField head 1296 8 + 72 * leField head 1292 4
    t.ofRecord s.now (head ++ List.replicate 10240 0 ++ s.areaRead ctx (o + 0x3000) tail)

/-- A restored hart becomes eligible: a trap that held it is raised afresh by its word. -/
def Hart.resume (t : Hart) (now : Nat) : Hart := { t with stopped := false, held := none, disposed := none, lastIssue := now }

/-- A hart comes back: a disposition that a routine gave it while it was away takes effect (17 R356). DEDUCED (log 37). -/
def State.wakeHart (s : State) (h : HartKey) : State :=
  let t := s.hart h
  match t.disposed with
  | none => s.setHart h (t.resume s.now)
  | some (1, e) => s.setHart h ((t.resume s.now).enterHandler s.now e.cause e.value e.addr)
  | some (0, _) => s.setHart h (t.resume s.now)
  | some _ => s.failHart h 5

/-- Whether a core still waits for state of a context. -/
def State.coreOwed (s : State) (core : CoreId) (ctx : Nat) : Bool :=
  let c := s.ctxState ctx
  (c.cores.get? core).isSome || c.tables.any fun t => decide (coreOfCluster t.1 = core)

/-- A hart of a context whose core has its state back takes its columns back, where they are still marked, or fills them from
the area. -/
def State.reviveHart (s : State) (ctx : Nat) (h : HartKey) : Option State :=
  let t := s.hart h
  let k := clusterOfHart h
  let c := s.cluster k
  let seat : Seat := { cluster := k, slot := slotOfHart h, colbase := t.colbase }
  let wake := fun (s : State) => s.wakeHart h
  let mine := fun (b : Band) => decide (b.ctx = ctx) && decide (b.slot = slotOfHart h)
  if s.coreOwed (coreOfHart h) ctx then none
  else if c.marks.any mine then some (wake (s.modCluster k fun c => { c with marks := c.marks.filter fun b => !mine b }))
  else if (c.clears.any fun b => seat.on t.cols b) || c.marks.any (fun b => seat.on t.cols b && !(s.ctxState b.ctx).saved)
      || decide (s.now < c.arraysFree) then none
  else
    let s := s.modCluster k fun c => { c with marks := c.marks.filter fun b => !seat.on t.cols b }
    let kept := (s.ctxState ctx).stash.get? h
    let at_ := s.recordAt ctx h
    let s := s.modCtx ctx fun c => { c with stash := c.stash.erase h }
    match at_ with
    | none => some (wake (match kept with
      | some l => s.loadColumns k (slotOfHart h) t.colbase t.cols l
      | none => s.clearBand k (slotOfHart h) t.colbase t.cols))
    | some o => some (wake (s.loadColumns k (slotOfHart h) t.colbase t.cols (s.areaRead ctx (o + 2048) (10240 + t.cols * 2048))))

/-- The next piece of work of the context engine for a context that comes back: a bank is loaded, a core gets its state back,
or a hart its columns. `mine` names the cores that are restored. -/
def State.restorePiece (s : State) (ctx : Nat) (mine : CoreId → Bool) : Option State :=
  let c := s.ctxState ctx
  let waiting := c.harts.filter fun e => mine (coreOfHart e.1)
  match (c.twins.map Prod.fst).find? fun t => mine (lowerCore t) || mine (upperCoreOf t) with
  | some t => some (s.giveTwin t ctx)
  | none =>
    let bank := (waiting.map fun e => clusterOfHart e.1).dedup.findSome? fun k =>
      if s.bankFree k (some ctx) && !(s.harts.any fun e => decide (clusterOfHart e.1 = k) && decide (e.2.ctx = ctx)) then
        let hs := waiting.filter fun e => decide (clusterOfHart e.1 = k)
        let s' := s.emptyBank k (some ctx)
        some ((s'.modCluster k fun c => { c with bank := c.bank ++ hs.map fun (e : Nat × Hart) => (slotOfHart e.1, s.loadedHart ctx e.1 e.2) }).modCtx
          ctx fun c => { c with harts := c.harts.filter fun e => !hs.any fun o => decide (o.1 = e.1) })
      else none
    match bank with
    | some s => some s
    | none =>
      let cores := (c.cores.map Prod.fst ++ c.tables.map (fun t => coreOfCluster t.1) ++ c.licences).filter mine
      let owed := cores.find? fun k => (s.coreOwed k ctx && s.rangesFree k ctx) || (c.licences.contains k && !s.requestsLicence k ctx && !s.holdsLicence k ctx)
      match owed with
      | some k => some (s.giveCore k ctx)
      | none =>
        (s.harts.filter fun e => decide (e.2.ctx = ctx) && e.2.stopped && mine (coreOfHart e.1)).findSome? fun e =>
          s.reviveHart ctx e.1

/-- Whether nothing of a context is still to be restored on the cores named. -/
def State.restored (s : State) (ctx : Nat) (mine : CoreId → Bool) : Bool :=
  let c := s.ctxState ctx
  c.harts.all (fun e => !mine (coreOfHart e.1)) && c.cores.all (fun e => !mine e.1)
    && c.twins.all (fun e => !mine (lowerCore e.1)) && s.harts.all (fun e => decide (e.2.ctx ≠ ctx) || !e.2.stopped || !mine (coreOfHart e.1))
    && s.clusters.all fun (e : Nat × Cluster) => !mine (coreOfCluster e.1) || e.2.bank.all fun b => decide (b.2.ctx ≠ ctx)

end Sys2Proof.Machine
end

