-- ==== Sys2Proof/Machine/Twin.lean ====
section
/-! DEFINITION. Twins: the Narrows, the rendezvous NSWAP and TBAR, the Ferry, and the gate of the upper core (19 R396 to
R411). -/

namespace Sys2Proof.Machine

/-- The twin pair of the running hart. -/
def State.myTwin (s : State) : PairKey := twinOfCore s.cur.core
/-- The side of a hart: 0 lower, 1 upper. -/
def sideOf (h : HartKey) : Nat := if upperCore (coreOfHart h) then 1 else 0

/-! ## Narrows slots (R399) -/

/-- NRD: the slot's value at the end of the cycles before this one, and of no NWR of this cycle. -/
def execNrd (d t : Reg) (s : State) : Result :=
  .next (runWord (.nrd d t) (fun s => .retire (s.resultAt d ((s.twin s.myTwin).narrows.getD t.toNat 0) (s.now + 1))) s)

/-- NWR: takes effect at the end of its cycle, and empties this side's latch where this hart holds it kept. -/
def execNwr (t b : Reg) (s : State) : Result :=
  .next (runWord (.nwr t b) (fun s =>
    let h := s.me
    let key := 2 * t.toNat + sideOf h
    .retire (s.modTwin s.myTwin fun v =>
      { v with
        writes := v.writes ++ [(t.toNat, h, s.rx b)]
        halves := match v.halves.get? key with
          | some p => if p.hart = h ∧ ¬ p.waiting then v.halves.erase key else v.halves
          | none => v.halves })) s)

/-- The NWRs of a cycle take effect at its end: lower side first, then by cluster and slot, each hart's in its order. -/
def Twin.commitWrites (v : Twin) : Twin :=
  let l := sortBy (fun (a b : Nat × HartKey × Dword) => decide (a.2.1 ≤ b.2.1)) v.writes
  { v with narrows := l.foldl (fun n w => n.setIfInBounds w.1 w.2.2) v.narrows, writes := [] }

/-! ## NSWAP and TBAR (R400 to R402) -/

/-- The places of a kind: half latches, or barrier points. -/
def Twin.places (v : Twin) (point : Bool) : FMap Place := if point then v.points else v.halves
/-- Replaces the places of a kind. -/
def Twin.setPlaces (v : Twin) (point : Bool) (m : FMap Place) : Twin := if point then { v with points := m } else { v with halves := m }

/-- tval of TWINTO. -/
def twinValue (point : Bool) (n : Nat) : Dword := BitVec.ofNat 64 (if point then 32 + n else n)

/-- The word of a hart that waits for its partner, or that has just met it, completes (R400). -/
def State.completeMeeting (s : State) (h : HartKey) (point : Bool) (value : Dword) : State :=
  s.asHart h fun s =>
    let s := s.acquireBy s.cur 2
    let s := if point then s else s.resultAt (treeDest s.ir) value (s.now + 1)
    State.finish (.retire (s.delay (s.now + 2)))

/-- The arrival of a hart, with the cycles left of its limit: it meets a waiting partner, or waits, with none left to the end of the
cycle. -/
def State.arriveTwin (s : State) (point : Bool) (n : Nat) (v : Dword) (left : Nat) : Flow :=
  let h := s.me
  let t := s.myTwin
  let key := 2 * n + sideOf h
  let other := 2 * n + (1 - sideOf h)
  let put := fun (s : State) (p : Place) => s.modTwin t fun w => w.setPlaces point ((w.places point).put key p)
  let place : Place := { hart := h, value := v, waiting := true, arrival := s.now, limit := left }
  match ((s.twin t).places point).get? other with
  | some q =>
    if q.waiting then
      let s := s.modTwin t fun w => w.setPlaces point (((w.places point).erase other).erase key)
      let s := s.completeMeeting q.hart point v
      let s := s.modSelf fun t => { t with waitWord := s.ir }
      .gone (s.completeMeeting h point q.value)
    else (put s place).await .twin
  | none => (put s place).await .twin

/-- NSWAP and TBAR up to the arrival, with the value read at issue: the wait for a place that another hart of the side holds, and the
release. DEDUCED (log 33). -/
def meetFlow (point : Bool) (n : Nat) (v : Dword) (s : State) : Flow :=
  let h := s.me
  let t := s.self
  let limit := t.csr.ntimeo.toNat
  let taken := match ((s.twin s.myTwin).places point).get? (2 * n + sideOf h) with
    | some p => decide (p.hart ≠ h)
    | none => false
  let deadline := match t.wait with
    | .meeting c _ => c
    | .publishing left _ => s.now + left
    | _ => s.now + limit
  let left := match t.wait with
    | .publishing left _ => left
    | _ => deadline - s.now
  let v := match t.wait with
    | .meeting _ v => v
    | .publishing _ v => v
    | _ => v
  if taken then
    if deadline ≤ s.now then .trap s causeTwinto (twinValue point n) else s.await (.meeting deadline v)
  else
    match s.release h 2 t.serial with
    | .wait => s.await (.publishing left v)
    | .miss m s => .trap s m.cause m.value
    | .ok _ s => s.arriveTwin point n v left

/-- NSWAP. -/
def execNswap (d t b : Reg) (s : State) : Result :=
  .next (runWord (.nswap d t b) (fun s => meetFlow false t.toNat (s.rx b) s) s)
/-- TBAR. -/
def execTbar (k : Reg) (s : State) : Result := .next (runWord (.tbar k) (meetFlow true k.toNat 0) s)

/-- Whether the word of a hart is TBAR, and the place that it names. -/
def twinPlace (w : Word) : Bool × Nat := (w.extractLsb' 3 8 == 7, (w.extractLsb' 16 5).toNat)

/-- The limit of a hart's NSWAP or TBAR runs out: TWINTO; the place of a hart that has arrived stays, kept. DEDUCED (log 33). -/
def State.timeoutStep (s : State) (h : HartKey) : Option State :=
  let t := s.hart h
  let p := twinPlace t.waitWord
  let trap := fun (s : State) => s.takeTrap h causeTwinto (twinValue p.1 p.2) t.sc.pc
  match t.wait with
  | .meeting deadline _ => if deadline ≤ s.now then some (trap s) else none
  | .twin =>
    let k := twinOfCore (coreOfHart h)
    let key := 2 * p.2 + sideOf h
    match ((s.twin k).places p.1).get? key with
    | some q =>
      if q.hart = h ∧ q.arrival + q.limit ≤ s.now then
        some (trap (s.modTwin k fun v => v.setPlaces p.1 ((v.places p.1).put key { q with waiting := false })))
      else none
    | none => none
  | _ => none

/-- TWINTO. -/
def execTwinto (h : HartKey) (s : State) : Result := .next ((s.timeoutStep h).getD s)

/-! ## The Ferry (R403 to R405) -/

/-- Entries that are filled. -/
def Ferry.fill (f : Ferry) : Nat := (f.entries.filter fun e => e.2.isSome).length
/-- Room for entries. -/
def Ferry.free (f : Ferry) : Nat := 16 - f.entries.length - f.popped

/-- The FIFO that a side pushes to. -/
def Twin.outgoing (v : Twin) (side : Nat) : Ferry := if side = 0 then v.up else v.down
/-- The FIFO that a side pops from. -/
def Twin.incoming (v : Twin) (side : Nat) : Ferry := if side = 0 then v.down else v.up

/-- The checks of FPUSH and FPOP. -/
def State.ferryMiss (s : State) (use : Access) (va : Dword) : Option Miss :=
  if va.toNat % 64 ≠ 0 then some { cause := causeAlign, value := va }
  else if selector va ≠ 10 then some { cause := causeProt, value := va }
  else
    match (s.hartReach s.me .vector).check use va 64 with
    | some _ => some { cause := causeProt, value := va }
    | none => none

/-- The row of an FPUSH that has taken entry n is read, and the hart goes on; its release is an ordering point that fills the
entry. DEDUCED (log 33). -/
def State.pushRow (s : State) (h : HartKey) (va : Dword) (n : Nat) : Flow :=
  let row : Row := bitsOfBytes 512 (s.arrayRead (coreOfHart h) (offset va) 64)
  .retire ((s.modSelf fun t =>
    { t with orders := t.orders ++ [{ streams := 511, loads := false, release := some 2, acquire := none, ready := s.now + 2,
                                      owner := t.serial, fill := some (n, row) }] }).delay (s.now + 1))

/-- The window in which a hart's row is read or written, once its older array instructions have ended (09 R203). -/
def State.ferryWindow (s : State) (h : HartKey) (va : Dword) : Option State :=
  if (s.hart h).arrayDone ≤ s.now then s.rowWindows (coreOfHart h) (windowUser h) (offset va) 64 else none

/-- Changes the FIFO that a hart pushes to, or pops from. -/
def State.modFerry (s : State) (h : HartKey) (out : Bool) (f : Ferry → Ferry) : State :=
  s.modTwin (twinOfCore (coreOfHart h)) fun v =>
    if (sideOf h = 0) = out then { v with up := f v.up } else { v with down := f v.down }

/-- A hart whose FPUSH waits for room takes an entry, and reads its row from the next cycle on; one whose FPOP waits takes the
oldest entry once it is filled, and writes its row from two cycles on (R403, R404). DEDUCED (log 33). -/
def State.takeEntry (s : State) (h : HartKey) : State :=
  let v := s.twin (twinOfCore (coreOfHart h))
  match (s.hart h).wait with
  | .pushing va =>
    let f := v.outgoing (sideOf h)
    if f.free = 0 then s
    else
      (s.modFerry h true fun f => { f with entries := f.entries ++ [(f.next, none)], next := f.next + 1 }).modHart h fun t =>
        { t with wait := .fpush f.next va (s.now + 1) }
  | .popping va =>
    match (v.incoming (sideOf h)).entries with
    | (_, some row) :: _ =>
      (s.modFerry h false fun f => { f with entries := f.entries.tail, popped := f.popped + 1 }).modHart h fun t =>
        { t with wait := .fpop va row (s.now + 2) }
    | _ => s
  | _ => s

/-- The FPUSHes and FPOPs of a cycle take their entries at its end: by cluster and slot (R403). DEDUCED (log 33). -/
def State.ferryRound (s : State) : State :=
  ((s.harts.filter fun e => e.2.runs).map Prod.fst).foldl State.takeEntry s

/-- FPUSH and FPOP issue: their checks, and the wait for an entry. -/
def State.ferryIssue (s : State) (use : Access) (va : Dword) (wait : Dword → Wait) : Flow :=
  match s.ferryMiss use va with
  | some m => .trap s m.cause m.value
  | none => s.await (wait va)

/-- An FPUSH that has taken entry n reads its row once its cycle has come and the arrays allow. -/
def State.pushFlow (s : State) (n : Nat) (va : Dword) (ready : Nat) : Option Flow :=
  if s.now < ready then none else (s.ferryWindow s.me va).map fun s => s.pushRow s.me va n

/-- An FPOP that has taken a row writes it once its cycle has come and the arrays allow; then the entry is free, and it
acquires. DEDUCED (log 33). -/
def State.popFlow (s : State) (va : Dword) (row : Row) (ready : Nat) : Option Flow :=
  if s.now < ready || s.accessBlocked (s.hartReach s.me .vector) .store va 64 then none
  else
    (s.ferryWindow s.me va).map fun s =>
      let s := s.modFerry s.me false fun f => { f with popped := f.popped - 1 }
      let s := s.arrayStore s.cur.core (offset va) ((bytesOfBits row 64).map some)
      .retire ((s.acquireBy s.cur 2).delay (s.now + 1))

/-- What an FPUSH or FPOP that has taken its entry does next, where it may. -/
def State.ferryFlow (s : State) : Option Flow :=
  match s.self.wait with
  | .fpush n va ready => s.pushFlow n va ready
  | .fpop va row ready => s.popFlow va row ready
  | _ => none

/-- FPUSH: waits for room, takes an entry, reads its row, and goes on. -/
def execFpush (a : Reg) (s : State) : Result :=
  .next (runWord (.fpush a) (fun s =>
    if s.self.wait = .none then s.ferryIssue .load (s.rx a) .pushing else s.ferryFlow.getD (.hold s)) s)

/-- FPOP: waits until the oldest entry is filled, takes it, writes its row, frees it and acquires. DEDUCED (log 33). -/
def execFpop (a : Reg) (s : State) : Result :=
  .next (runWord (.fpop a) (fun s =>
    if s.self.wait = .none then s.ferryIssue .store (s.rx a) .popping else s.ferryFlow.getD (.hold s)) s)

/-- An FPUSH or FPOP that has its entry goes on where it may; the entry of a push is filled once its release is done. -/
def State.fillStep (s : State) (h : HartKey) : Option State :=
  let t := s.hart h
  match t.wait with
  | .fpush _ _ _ | .fpop _ _ _ => s.asHartOpt h fun s => s.ferryFlow.map State.finish
  | _ =>
    match t.orders with
    | p :: _ =>
      if p.fill.isNone then none else s.orderStep h
    | [] => none

/-- FERRY_ENTRY_FILLED. -/
def execFerryEntryFilled (h : HartKey) (s : State) : Result := .next ((s.fillStep h).getD s)

/-- FCNT. -/
def execFcnt (d : Reg) (s : State) : Result :=
  .next (runWord (.fcnt d) (fun s =>
    let v := s.twin s.myTwin
    let o := v.outgoing (sideOf s.me)
    let i := v.incoming (sideOf s.me)
    .retire (s.resultAt d (BitVec.ofNat 64
      (o.fill + 32 * o.free + 2 ^ 10 * i.fill + 2 ^ 15 * i.free + 2 ^ 20 * v.gate.code)) (s.now + 2))) s)

/-! ## The gate (R406 to R408) -/

/-- A transition that the last request asks for begins, where the gate is at rest; the stop is charged to the context (R407). -/
def State.moveGate (s : State) (t : PairKey) (ctx : Nat) : State :=
  let v := s.twin t
  match v.gate, v.gateWant with
  | .on, true =>
    ((s.modTwin t fun v => { v with gate := .gating, gateReady := none, gateSaved := false }).stopCore (upperCoreOf t) ctx).charge ctx
  | .gated, false => s.modTwin t fun v => { v with gate := .ungating, gateReady := some (s.now + 4700) }
  | _, _ => s

/-- PGREQ: records the request and answers the state of the gate before it; a hart of the upper core that gates it retires, and
stops with its core. -/
def execPgreq (d a : Reg) (s : State) : Result :=
  .next (runWord (.pgreq d a) (fun s =>
    let want := s.rx a
    if 1 < want.toNat then .trap s causeBounds want
    else
      let code := (s.twin s.myTwin).gate.code
      let s := (s.modTwin s.myTwin fun v => { v with gateWant := want = 1 }).moveGate s.myTwin s.myCtx
      .retire (s.resultAt d (BitVec.ofNat 64 code) (s.now + 4))) s)

/-- Cycles of 2 µs. -/
def powerOffTime : Nat := 1880

/-- A request that was made in a transition takes effect when that has ended (R406). -/
def State.gateRequest (s : State) (t : PairKey) (ctx : Nat) : Option State :=
  if (s.twin t).gateReady.any fun c => decide (c ≤ s.now) then some ((s.modTwin t fun v => { v with gateReady := none }).moveGate t ctx)
  else none

/-- A gating core goes on: its state is taken, its area written, its ballast ended, and then its power removed, with what its
harts' columns held kept for their records. DEDUCED (log 43). -/
def State.gateOffStep (s : State) (t : PairKey) : Option State :=
  let core := upperCoreOf t
  let v := s.twin t
  match (s.pair (pairOfCore core)).part.bind s.turnCtx with
  | none => none
  | some ctx =>
    if v.gate = .gated then s.gateRequest t ctx
    else if v.gate ≠ .gating then none
    else if v.gateSaved then
      let ramp := match v.licence.gap with
        | some g => decide (g.2.1 = core) && decide (s.now < g.1 + 240)
        | none => false
      let holds := v.licence.holder.any fun h => decide (h.1 = core)
      match v.gateReady with
      | none => if ramp || holds then none else some (s.modTwin t fun v => { v with gateReady := some (s.now + powerOffTime) })
      | some c =>
        if s.now < c then none
        else
          let hs := (s.ctxState ctx).harts.filter fun e => decide (coreOfHart e.1 = core)
          let s := hs.foldl (fun s e =>
            let part := s.columnPart (clusterOfHart e.1) (slotOfHart e.1) e.2.colbase e.2.cols
            (s.modCtx ctx fun c => { c with stash := c.stash.put e.1 part }).clearBand (clusterOfHart e.1) (slotOfHart e.1) e.2.colbase
              e.2.cols) s
          let s := (clustersOf core).foldl (fun s k =>
            s.modCluster k fun c => { c with marks := c.marks.filter fun b => decide (b.ctx ≠ ctx) }) s
          some (s.modTwin t fun v =>
            { v with gate := .gated, gateReady := if v.gateWant then none else some (s.now + 1), gateSaved := false })
    else if !s.coreStill core ctx || s.harts.any (fun e => decide (coreOfHart e.1 = core) && decide (e.2.ctx = ctx)) then none
    else if (s.ctxState ctx).spill.isSome then none
    else
      let s := s.takeCore core ctx
      some (s.modCtx ctx fun c =>
        { c with spill := some { began := s.devTime, energy := c.energy, core := some core } })

/-- GATE_POWER_REMOVED. -/
def execGatePowerRemoved (t : PairKey) (s : State) : Result := .next ((s.gateOffStep t).getD s)

/-- The area of a gated core is written: its harts leave the shadow banks, and power may go. -/
def State.gateSpilled (s : State) (ctx : Nat) (core : CoreId) : State :=
  let s := (clustersOf core).foldl (fun s k => s.emptyBank k none) s
  let ranges := s.reservations core ctx
  let s := s.modCtx ctx fun c =>
    { c with spill := none, typed := c.typed.filter (fun e => !ranges.any (inRange e.1)) ++ s.mem.filter fun e => ranges.any (inRange e.1) }
  s.modTwin (twinOfCore core) fun v => { v with gateSaved := true }

/-- A core that comes back: once power has returned its harts and state are restored, and then it runs. Where the gate has come to rest
with the last hart of its context (R408), what that context still has of the core comes back. DEDUCED (log 43). -/
def State.gateOnStep (s : State) (t : PairKey) : Option State :=
  let core := upperCoreOf t
  let v := s.twin t
  match (s.pair (pairOfCore core)).part.bind s.turnCtx with
  | none => none
  | some ctx =>
    if v.gate = .on then
      if v.gateReady.isSome then s.gateRequest t ctx
      else if ((s.ctxState ctx).cores.get? core).isSome ∧ (s.partition (s.ctxPart ctx)).switch = none ∧ s.rangesFree core ctx then
        some (s.giveCore core ctx)
      else none
    else if v.gate ≠ .ungating ∨ v.gateReady.any (fun c => decide (s.now < c)) then none
    else
      let mine := fun (c : CoreId) => decide (c = core)
      match s.restorePiece ctx mine with
      | some s => some (s.charge ctx)
      | none =>
        if (s.ctxState ctx).harts.all (fun e => !mine (coreOfHart e.1)) && s.harts.all (fun e => !mine (coreOfHart e.1) || !e.2.stopped)
            && s.clusters.all fun (e : Nat × Cluster) => !mine (coreOfCluster e.1) || e.2.bank.all fun b => decide (b.2.ctx ≠ ctx) then
          some (s.modTwin t fun v => { v with gate := .on, gateReady := if v.gateWant then some (s.now + 1) else none })
        else none

/-- UNGATE_POWER_RETURNED. -/
def execUngatePowerReturned (t : PairKey) (s : State) : Result := .next ((s.gateOnStep t).getD s)

end Sys2Proof.Machine
end

