-- ==== Sys2Proof/Machine/Sched.lean ====
section
/-! DEFINITION. The scheduler of the partitions: queues and turns, decisions, the switch instant, spill and restore, command
5, and the summary records (18 R373 to R377, R381, R382, R391 to R395). -/

namespace Sys2Proof.Machine

/-! ## The command block (21 R427) -/

/-- STATUS of a command: done. -/
def statusDone : Byte := 0
/-- STATUS of a command: malformed. -/
def statusMalformed : Byte := 1
/-- STATUS of a command: refused. -/
def statusRefused : Byte := 2

/-- A command of the host control page is done. -/
def State.pageDone (s : State) (op status : Byte) : State := { s with page := { s.page with op := op, go := false, status := status } }

/-- Bytes of the device written to host memory for a command of the page, which names no PASID. DEDUCED (log 44). -/
def State.hostPut (s : State) (a : Dword) (l : List Byte) : State := s.homeStore 0 (hostLoc 0 (a.toNat % 2 ^ 51)) (l.map some)

/-! ## Queues (R373) -/

/-- Whether a queue has work: its chain has PEND above 0. -/
def State.hasWork (s : State) (q : Queue) : Bool := decide (0 < (s.chain q.core (Fin.ofNat 17 q.chain)).pend)

/-- The valid queues of a partition, rising. -/
def State.queuesOf (s : State) (p : Nat) : List (Nat × Queue) := s.queues.filter fun e => decide (s.ctxPart e.2.ctx = p)

/-- Changes a queue. -/
def State.modQueue (s : State) (q : Nat) (f : Queue → Queue) : State := { s with queues := s.queues.modify q f }

/-- A deficit within ±(2³¹ − 1). -/
def clampDeficit (n : Int) : Int := max (-(2 ^ 31 - 1)) (min (2 ^ 31 - 1) n)

/-- Adds to a queue's deficit. -/
def State.credit (s : State) (q : Nat) (n : Int) : State := s.modQueue q fun v => { v with deficit := clampDeficit (v.deficit + n) }
/-- Sets a queue's deficit. -/
def State.setDeficit (s : State) (q : Nat) (n : Int) : State := s.modQueue q fun v => { v with deficit := clampDeficit n }
/-- A queue's quantum in µs. -/
def State.quantum (s : State) (q : Nat) : Int := 100 * (((s.queues.get? q).map Queue.weight).getD 0)

/-- The next queue of a partition after a queue, in ascending order and wrapping, that has work. -/
def State.nextQueue (s : State) (p : Nat) (q : Option Nat) : Option Nat :=
  let ks := ((s.queuesOf p).filter fun e => s.hasWork e.2).map Prod.fst
  match q with
  | none => ks.head?
  | some n => (ks.find? fun k => decide (n < k)).or ks.head?

/-! ## Decisions (R374 to R376) -/

/-- The cores of a partition on which anything is. -/
def State.coresOf (s : State) (p : Nat) : List CoreId :=
  ((s.cores.map Prod.fst ++ s.harts.map fun (e : HartKey × Hart) => coreOfHart e.1).dedup).filter fun c =>
    decide ((s.pair (pairOfCore c)).part = some p)

/-- Whether the context of a partition stops, or is to stop. -/
def Partition.stops (v : Partition) : Bool := decide (v.switch = some .stopping ∨ v.switch = some .leaving)

/-- Whether a partition is held, or comes to be when its context has stopped. -/
def Partition.holds (v : Partition) : Bool := v.held || (v.stops && v.incoming.isNone)

/-- The decision to take a context off its partition, in favour of a queue or of none; the stop is charged to it (R391). -/
def State.stopContext (s : State) (p ctx : Nat) (incoming : Option Nat) (reason : Nat) : State :=
  let s := s.modPartition p fun v => { v with switch := some .stopping, incoming := incoming, outgoing := some ctx, reason := reason }
  (s.coresOf p).foldl (fun s c => s.stopCore c ctx) (s.charge (s.account ctx))

/-- The decision of R374 or R377: where the restore of the context that leaves still goes on, nothing of it issues or starts any more, and
it stops once the context engine has ended that restore; where it stops already, what comes in is decided anew, unless the stop is that of
an emergency save. DEDUCED (log 41). -/
def State.decideStop (s : State) (p ctx : Nat) (incoming : Option Nat) (reason : Nat) : State :=
  let v := s.partition p
  match v.switch with
  | none => s.stopContext p ctx incoming reason
  | some g =>
    if v.reason = 3 then s
    else s.modPartition p fun v =>
      { v with switch := some (if g = .stopping then .stopping else .leaving), incoming := incoming, reason := reason }

/-- Loads the pool descriptors of a context into the directories of its partition's die pairs (R372). DEDUCED (log 38). -/
def State.loadPools (s : State) (p ctx : Nat) : State :=
  (List.range Config.diePairs).foldl (fun s k => if (s.pair k).part = some p then s.loadPool k ctx else s) s

/-- A queue takes the turn of a partition that no context has to leave; a spill of its context that has not ended is given up, since
what it saves is still in place. -/
def State.takeTurn (s : State) (p r : Nat) : State :=
  match s.queues.get? r with
  | none => s
  | some q =>
    ((s.modPartition p fun v =>
      { v with turn := some r, incoming := none, held := false, idle := false, switch := some .restoring, reason := 1 }).modCtx q.ctx fun c =>
        { c with spill := none, lost := false }).loadPools p q.ctx

/-- A queue is chosen for the turn: at once where its context has it and does not stop, else by a decision. -/
def State.giveTurn (s : State) (p r : Nat) : State :=
  let stops := (s.partition p).stops
  match s.turnCtx p, (s.queues.get? r).map Queue.ctx with
  | some a, some b =>
    if a = b ∧ ¬ stops then (s.modPartition p fun v => { v with turn := some r, idle := false }).loadPools p a
    else (s.decideStop p a (some r) 1).modPartition p fun v => { v with idle := false }
  | _, _ => s.takeTurn p r

/-- The turn passes. -/
def State.passTurn (s : State) (p : Nat) : State :=
  match s.nextQueue p (s.partition p).turn with
  | none => s.modPartition p fun v => { v with idle := true }
  | some r => (s.credit r (s.quantum r)).giveTurn p r

/-! ## Command 5 (R377) -/

/-- What command 5 asks of a partition takes effect; a hold that its stop has not reached yet counts as one. DEDUCED (log 41). -/
def State.obey (s : State) (p : Nat) (queue : Option Nat) (hold : Bool) : State :=
  let v := s.partition p
  let zero := fun (s : State) => match v.turn with
    | some q => s.setDeficit q 0
    | none => s
  let back := fun (s : State) (r : Nat) => match v.held, s.turnCtx p with
    | false, some c => s.decideStop p c (some r) 1
    | _, _ => s.takeTurn p r
  match hold, v.holds with
  | true, true => s
  | true, false =>
    match s.turnCtx p with
    | some c => s.decideStop p c none 2
    | none => s.modPartition p fun v => { v with held := true }
  | false, true =>
    match queue with
    | none =>
      match v.turn with
      | some q => back s q
      | none => s.modPartition p fun v => { v with held := false }
    | some r =>
      if v.turn = some r then back (s.setDeficit r (s.quantum r)) r
      else back ((zero s).credit r (s.quantum r)) r
  | false, false =>
    match queue with
    | none =>
      match v.turn with
      | none => s.passTurn p
      | some q =>
        if (s.queuesOf p).any fun e => decide (e.1 ≠ q) && s.hasWork e.2 then (zero s).passTurn p else s.setDeficit q (s.quantum q)
    | some r =>
      if v.turn = some r then s.setDeficit r (s.quantum r) else ((zero s).credit r (s.quantum r)).giveTurn p r

/-! ## The tick (R374, R375) -/

/-- The rule of R374 on a tick. DEDUCED (log 41). -/
def State.turnTick (s : State) (p : Nat) : State :=
  let v := s.partition p
  match v.turn with
  | none => s.passTurn p
  | some q =>
    match s.queues.get? q with
    | none => s.passTurn p
    | some d =>
      if v.idle then s.passTurn p
      else if !s.hasWork d then (s.setDeficit q 0).passTurn p
      else
        let s := s.credit q (-1)
        if decide (0 < clampDeficit (d.deficit - 1)) then s
        else if (s.queuesOf p).any fun e => decide (e.1 ≠ q) && s.hasWork e.2 then s.passTurn p
        else s.credit q (s.quantum q)

/-- The tick of a partition (R374, R375): up to the switch instant the outgoing queue is charged and nothing is decided; from it on
the rule of R374 runs for the queue that has come in, also while its context is restored. A command 5 acts after the charge of its tick,
and is done then (R377). DEDUCED (log 41). DEDUCED (log 57). -/
def State.tickRule (s : State) (p : Nat) : State :=
  let v := s.partition p
  let charged := match v.turn with
    | some q => if v.held || v.idle then s else s.credit q (-1)
    | none => s
  match v.request with
  | some (q, hold) => ((charged.modPartition p fun v => { v with request := none }).obey p q hold).pageDone 5 statusDone
  | none => if v.stops then charged else if v.held then s else s.turnTick p

/-- A tick of device time for a partition; a switch to no context is over once the harts of the outgoing one are in the shadow
banks. DEDUCED (log 57). -/
def State.tickStep (s : State) (p : Nat) : Option State :=
  let v := s.partition p
  if s.devTime / 1000 = v.lastTick then none
  else
    let s := s.modPartition p fun v => { v with lastTick := s.devTime / 1000, tickCycle := s.now }
    if v.held && v.switch == some .restoring && s.harts.all fun e => !e.2.stopped || decide (some e.2.ctx ≠ v.outgoing) then
      some ((s.modPartition p fun v => { v with switch := none, outgoing := none }).tickRule p)
    else some (s.tickRule p)

/-- SCHEDULER_TICK. -/
def execSchedulerTick (part : Nat) (s : State) : Result := .next ((s.tickStep part).getD s)

/-- The twin pairs of a partition that have anything. -/
def State.twinsOf (s : State) (p : Nat) : List PairKey :=
  (s.twins.map Prod.fst).filter fun t => decide ((s.pair (t / 16)).part = some p)

/-- The switch instant: everything of the outgoing context has stopped, no gate is between its states, and the tick is this
cycle's. Its core state is taken for the save, and the turn passes. DEDUCED (log 41). DEDUCED (log 43). -/
def State.instantStep (s : State) (p : Nat) : Option State :=
  let v := s.partition p
  match v.switch, v.outgoing with
  | some .stopping, some ctx =>
    let still := (s.coresOf p).all fun c => s.coreStill c ctx
    let gates := (s.twinsOf p).all fun t => decide ((s.twin t).gate = .on ∨ (s.twin t).gate = .gated)
    if v.tickCycle ≠ s.now ∨ !still ∨ !gates then none
    else
      let s := (s.coresOf p).foldl (fun s c => s.takeCore c ctx) s
      let s := (s.twinsOf p).foldl (fun s t => s.takeTwin t ctx) s
      let s := s.modCtx ctx fun c => { c with spill := some { began := s.devTime, energy := c.energy, reason := v.reason }, saved := false }
      match v.incoming with
      | none => some (s.modPartition p fun v => { v with switch := some .restoring, held := true })
      | some r => some (s.takeTurn p r)
  | _, _ => none

/-- SWITCH_INSTANT. -/
def execSwitchInstant (part : Nat) (s : State) : Result := .next ((s.instantStep part).getD s)

/-! ## Summaries (R395) -/

/-- Whether anything of a context is frozen. -/
def State.ctxFrozen (s : State) (ctx : Nat) : Bool :=
  s.harts.any (fun e => decide (e.2.ctx = ctx) && e.2.isFrozen) || (s.awayHarts ctx).any (fun e => e.2.isFrozen)
    || s.cores.any fun (e : Nat × CoreState) => e.2.copyFrozen.contains ctx || e.2.matFrozen.contains ctx

/-- The state of a context in a summary. DEDUCED (log 45). -/
def State.summaryState (s : State) (ctx : Nat) : Nat :=
  let c := s.ctxState ctx
  let p := s.ctxPart ctx
  let v := s.partition p
  if c.lost then 4
  else if s.ctxFrozen ctx then 6
  else if c.failed then 5
  else if s.turnCtx p = some ctx ∧ v.switch ≠ some .stopping ∧ v.switch ≠ some .leaving ∧ ¬ v.held then 1
  else if c.saved then 3
  else if c.spill.isSome || s.turnCtx p == some ctx || !(s.awayHarts ctx).isEmpty then 2
  else 0

/-- A context's entry in a summary. DEDUCED (log 45). -/
def State.summaryEntry (s : State) (ctx : Nat) : List Byte :=
  let c := s.ctxState ctx
  leBytes 4 (ctx + 2 ^ 12 * s.summaryState ctx + 2 ^ 16 * min 65535 c.failures) ++ leBytes 8 (c.energy / 1000)
    ++ match c.frozenMaster with
      | some m => bytesOfBits (m.setWidth 32) 4
      | none => List.replicate 4 255

/-- A die's entry in a summary. -/
def State.dieEntry (s : State) (d : Nat) : Nat :=
  let part := (s.pair (d / 2)).part
  let cs := s.clusters.filter fun e => decide (dieOfCore (coreOfCluster e.1) = d)
  let fenced := bitsOf (fun k => cs.any fun e => decide (e.1 % 8 = k) && e.2.fenced) 8
  part.getD 0 + (if part.isSome then 16 else 0) + 32 * fenced
    + (if s.cores.any fun e => decide (dieOfCore e.1 = d) && e.2.fenced then 2 ^ 13 else 0)
    + (if s.thermal.get? d = some .critical then 2 ^ 14 else 0) + (if cs.any fun e => e.2.railLow then 2 ^ 15 else 0)

/-- The contexts that a summary lists: those that exist. DEDUCED (log 45). -/
def State.listedContexts (s : State) : List Nat := (s.contexts.map Prod.fst).filter fun c => s.ctxValid c

/-- A summary record. -/
def State.summary (s : State) (kind : Nat) : List Byte :=
  let cs := s.listedContexts
  let queue := fun (e : Nat × Queue) =>
    leBytes 4 (e.1 + (if s.hasWork e.2 then 2 ^ 10 else 0)
      + (if (s.partition (s.ctxPart e.2.ctx)).turn = some e.1 then 2 ^ 11 else 0)) ++ bytesOfBits (BitVec.ofInt 32 e.2.deficit) 4
  [0x4B, 0x46, 0x52, 0x53, 0x59, 0x4E, 0, 0] ++ leBytes 2 0x0100 ++ leBytes 2 kind
    ++ leBytes 4 (168 + 16 * cs.length + 8 * s.queues.length) ++ leBytes 8 s.devTime
    ++ (List.range 32).flatMap (fun d => leBytes 4 (s.dieEntry d)) ++ leBytes 8 cs.length ++ leBytes 8 s.queues.length
    ++ cs.flatMap s.summaryEntry ++ s.queues.flatMap queue

/-- A context's entry of the emergency summary is rewritten, where an address is set. -/
def State.rewriteEntry (s : State) (ctx : Nat) : State :=
  if s.page.emergency = 0 then s
  else s.hostPut (s.page.emergency + BitVec.ofNat 64 (168 + 16 * s.listedContexts.idxOf ctx)) (s.summaryEntry ctx)

/-- Whether a context has state on the device that a save area would hold. -/
def State.hasState (s : State) (ctx : Nat) : Bool :=
  let c := s.ctxState ctx
  s.harts.any (fun e => decide (e.2.ctx = ctx)) || !(s.awayHarts ctx).isEmpty || !(s.launchesOf ctx).isEmpty || !c.cores.isEmpty
    || !c.tables.isEmpty || !c.twins.isEmpty
    || s.cores.any (fun (e : Nat × CoreState) => (e.2.part ctx).1.holds || e.2.chains.any fun c => decide (c.ctx = some ctx) && decide (0 < c.pend))

/-- The spill of a context in an emergency save, where its partition does not stop it first: it begins, or begins again with
reason 3 (R392, R393). DEDUCED (log 44). -/
def State.emergencySpill (s : State) (ctx : Nat) : State :=
  let p := s.ctxPart ctx
  if s.turnCtx p = some ctx ∧ ¬ (s.partition p).held then s
  else s.modCtx ctx fun c => { c with spill := some { began := s.devTime, energy := c.energy, reason := 3 } }

/-- The emergency save begins (R392, R393): the summary with every affected context lost, then every context stops. A context
whose area is complete keeps it. DEDUCED (log 44). -/
def State.beginEmergency (s : State) : State :=
  if s.emergencySave then s
  else
    let lost := s.listedContexts.filter fun c => s.hasState c && !(s.ctxState c).saved
    let s : State := { s with emergencySave := true }
    let s := lost.foldl (fun (s : State) c => s.modCtx c fun v => { v with lost := true }) s
    let s : State := if s.page.emergency = 0 then s else s.hostPut s.page.emergency (s.summary 1)
    lost.foldl State.emergencySpill <| (List.range 16).foldl (fun s p =>
      match s.turnCtx p, (s.partition p).switch with
      | some c, none => if (s.partition p).held then s else s.stopContext p c none 3
      | some _, some .restoring | some _, some .leaving =>
        if (s.partition p).held then s else s.modPartition p fun v => { v with switch := some .leaving, incoming := none, reason := 3 }
      | _, some .stopping => s.modPartition p fun v => { v with incoming := none, reason := 3 }
      | none, _ => s) s

/-! ## Spill and restore (R381, R382, R389) -/

/-- The next piece of the save area of a context is written. -/
def State.spillPiece (s : State) (ctx : Nat) : Option State :=
  match (s.ctxState ctx).spill with
  | none => none
  | some sp =>
    s.spillStep ctx fun s =>
      match sp.core with
      | some c => s.gateSpilled ctx c
      | none => if sp.reason = 3 then (s.areaDone ctx).rewriteEntry ctx else s.areaDone ctx

/-- CONTEXT_SPILL. -/
def execContextSpill (ctx : Nat) (s : State) : Result := .next ((s.spillPiece ctx).getD s)

/-- The restore of the context that comes onto its partition goes on, charged to it (R391); once nothing is left to do, the switch is
over, and a decision that has been taken meanwhile stops the context. -/
def State.restoreStep (s : State) (ctx : Nat) : Option State :=
  let p := s.ctxPart ctx
  let v := s.partition p
  if !v.restores ∨ s.comingCtx p ≠ some ctx then none
  else
    let mine := fun (c : CoreId) => decide ((s.pair (pairOfCore c)).part = some p) && !s.coreGated c
    match s.restorePiece ctx mine with
    | some s => some (s.charge ctx)
    | none =>
      if s.restored ctx mine && s.harts.all (fun e => decide (some e.2.ctx ≠ v.outgoing) || !e.2.stopped || decide (e.2.ctx = ctx)) then
        let s := (s.modPartition p fun v => { v with switch := none, outgoing := none }).modCtx ctx fun c => { c with saved := false }
        some (if v.switch = some .leaving then s.stopContext p ctx v.incoming v.reason else s)
      else none

/-- CONTEXT_RESTORE. -/
def execContextRestore (ctx : Nat) (s : State) : Result := .next ((s.restoreStep ctx).getD s)

end Sys2Proof.Machine
end

