-- ==== Sys2Proof/Machine/Steward.lean ====
section
/-! DEFINITION. The steward's words and events: routines and SRET, hart records, the replay of side logs, shoot-downs, freezing,
the eviction schedule, SNAPT and walks (17 R353 to R370, 04 R118, 09 R207, R218, R222). -/

namespace Sys2Proof.Machine

/-! ## Routines (R354, R356) -/

/-- The hart that a KIND 0 master of a core names. -/
def hartOfMaster (core : CoreId) (m : BitVec 16) : HartKey := 32 * core + 4 * (m.toNat / 8 % 8) + m.toNat % 4

/-- CSR sevk of an event (R355). -/
def SupEvent.word (e : SupEvent) : Dword := BitVec.ofNat 64 (e.kind % 256 + 2 ^ 16 * e.master.toNat + 2 ^ 32 * (e.ctx % 4096))

/-- Whether an event of a master that p names waits at its source, beyond the 64 that the queue of a core's steward holds; a FENCE event
keeps no source waiting (R354). -/
def State.eventWaits (s : State) (core : CoreId) (p : BitVec 16 → Bool) : Bool :=
  ((s.core core).steward.events.drop 64).any fun e => e.kind != 8 && p e.master

/-- Whether a hart waits with an event. DEDUCED (log 37). -/
def State.hartEventWaits (s : State) (h : HartKey) : Bool := s.eventWaits (coreOfHart h) fun m => decide (m = hartMaster h)
/-- Whether the copy engine of a core is stopped with an event: of its work of a context, or of a park slot. DEDUCED (log 37).
-/
def State.copyEventWaits (s : State) (core : CoreId) : Bool :=
  s.eventWaits core fun m => decide (m.toNat / 4096 = 1 ∨ m.toNat / 4096 = 4)
/-- Whether the matrix engine and drain of a core are stopped with an event. DEDUCED (log 37). -/
def State.matrixEventWaits (s : State) (core : CoreId) : Bool :=
  s.eventWaits core fun m => decide (m.toNat / 4096 = 2 ∨ m.toNat / 4096 = 3)

/-- The head event of a steward that runs no routine starts one. -/
def State.routineStep (s : State) (core : CoreId) : Option State :=
  let w := (s.core core).steward
  match w.running, w.events with
  | false, e :: _ =>
    some (s.modSteward core fun w =>
      { w with
        running := true, sevk := e.word, sevv := e.value, sevpc := e.pc, sevx := e.x.setWidth 64, sdisp := 0
        sc := { w.sc with pc := w.svec, nextIssue := max w.sc.nextIssue (s.now + 1) } })
  | _, _ => none

/-- SUPERVISOR_ROUTINE_START. -/
def execSupervisorRoutineStart (core : CoreId) (s : State) : Result := .next ((s.routineStep core).getD s)

/-- A hart that was held runs again 8 cycles later, unless HFREEZE has frozen it; an access that failed meanwhile is tried afresh. -/
def Hart.freed (t : Hart) (now : Nat) : Hart :=
  { t with held := none, saved := false, kept := t.frozen && t.kept, overdue := none,
           sc := { t.sc with nextIssue := max t.sc.nextIssue (now + 8) } }

/-- The disposition that SRET gives a held hart: 0 RETRY, 1 DELIVER, 2 FAIL (R356). -/
def Hart.disposition (t : Hart) (disp : Nat) : Nat :=
  if t.saved ∨ disp = 2 then 2 else if disp = 0 then 0 else if t.csr.inh ∨ t.csr.tvec = 0 then 2 else 1

/-- Changes a hart that is neither resident nor ended: in the shadow bank of its cluster, or held for its context. -/
def State.modAway (s : State) (h : HartKey) (ctx : Nat) (f : Hart → Hart) : State :=
  (s.modCluster (clusterOfHart h) fun c =>
    { c with bank := c.bank.map fun b => if b.1 = slotOfHart h ∧ b.2.ctx = ctx then (b.1, f b.2) else b }).modCtx ctx fun c =>
      { c with harts := c.harts.modify h f }

/-- The hart of an HTRAP event takes its disposition: at once where it is still in its slot, to be eligible again 8 cycles later; else
when it comes back to it. DEDUCED (log 37). -/
def State.dispose (s : State) (core : CoreId) (e : SupEvent) (disp cause : Nat) (value addr : Dword) : State :=
  let h := hartOfMaster core e.master
  let its := fun (t : Hart) => decide (t.ctx = e.ctx) && decide (some (t.launch, t.team) = e.who) && t.held.isSome
  let t := s.hart h
  if s.resident h && its t then
    match t.disposition disp with
    | 0 => s.setHart h (t.freed s.now)
    | 1 => s.setHart h ((t.freed s.now).enterHandler s.now cause value addr)
    | _ => s.failHart h 5
  else
    s.modAway h e.ctx fun t =>
      if its t then { t with disposed := some (t.disposition disp, { cause := cause, value := value, addr := addr }) } else t

/-- SRET. DEDUCED (log 54). -/
def execSret (s : State) : Result :=
  .next (runWord .sret (fun s =>
    let core := s.cur.core
    let w := (s.core core).steward
    match w.events with
    | [] => .retire s
    | e :: rest =>
      if e.kind = 1 ∧ w.sdisp = 3 then .trap s causeIll s.wordValue
      else
        let s := s.modSteward core fun w => { w with running := false, events := rest }
        .retire (if e.kind = 1 then s.dispose core e w.sdisp.toNat w.sevx.toNat w.sevv w.sevpc else s)) s)

/-! ## Master identifiers (R359) -/

/-- The kind and identifier of a master identifier: none where it breaks R359. -/
def masterOf (s : State) (core : CoreId) (v : Dword) : Option (Nat × Nat) :=
  let kind := (v.extractLsb' 12 4).toNat
  let id := (v.extractLsb' 0 12).toNat
  if 2 ^ 16 ≤ v.toNat then none
  else
    match kind with
    | 0 => if v.getLsbD 2 ∨ 64 ≤ id ∨ ¬ s.resident (hartOfMaster core (v.setWidth 16)) then none else some (0, id)
    | 1 => some (1, id)
    | 2 => some (2, id)
    | 3 => if id = 0 then some (3, 0) else none
    | 4 => if id < 16 then some (4, id) else none
    | _ => none

/-- A word over a master of some kinds. -/
def masterWord (i : Instr) (a : Reg) (kinds : List Nat) (f : CoreId → Nat → Nat → State → Flow) (s : State) : Result :=
  .next (runWord i (fun s =>
    let core := s.cur.core
    match masterOf s core (s.rx a) with
    | none => .trap s causeBounds (s.rx a)
    | some (k, id) => if kinds.contains k then f core k id s else .trap s causeBounds (s.rx a)) s)

/-! ## SVSAVE and SVREST (R361) -/

/-- Where a hart record may lie. -/
def recordMiss (b : Dword) : Option Miss :=
  if b.toNat % 64 ≠ 0 then some { cause := causeAlign, value := b } else if !inH b then some { cause := causeProt, value := b } else none

/-- SVSAVE. DEDUCED (log 48). -/
def execSvsave (d a b : Reg) (s : State) : Result :=
  masterWord (.svsave d a b) a [0] (fun core _ _ s =>
    let h := hartOfMaster core ((s.rx a).setWidth 16)
    let t := s.hart h
    match recordMiss (s.rx b) with
    | some m => .trap s m.cause m.value
    | none =>
      if t.held.isNone ∧ ¬ t.frozen then .trap s causeBounds (s.rx a)
      else if !t.transfersDone then .hold s
      else
        let index := (s.launchesOf t.ctx).findIdx fun e => decide (e.1 = t.launch)
        let bytes := s.hartRecord (clusterOfHart h) (slotOfHart h) index t
        (s.stewardStore core (s.rx b) (bytes.map some)).flow s fun _ s =>
          let done := s.now + 64 + (bytes.length + 127) / 128
          .retire ((s.modHart h fun t => { t with saved := true, kept := true }).resultAt d (BitVec.ofNat 64 bytes.length) done)) s

/-- SVREST. DEDUCED (log 48). -/
def execSvrest (d a b : Reg) (s : State) : Result :=
  masterWord (.svrest d a b) a [0] (fun core _ _ s =>
    let h := hartOfMaster core ((s.rx a).setWidth 16)
    match recordMiss (s.rx b) with
    | some m => .trap s m.cause m.value
    | none =>
      if !(s.hart h).kept then .trap s causeBounds (s.rx a)
      else
        (s.stewardLoad core (s.rx b) 2048).flow s fun head s =>
          let cols := leField head 656 8 / 512 % 1024
          let n := 0x3000 + cols * 2048 + 160 * leField head 1296 8 + 72 * leField head 1292 4
          (s.stewardLoad core (s.rx b) n).flow s fun bytes s =>
            let s := s.modHart h fun t => { t.ofRecord s.now bytes with saved := false }
            let s := s.loadColumns (clusterOfHart h) (slotOfHart h) (s.hart h).colbase cols ((bytes.drop 2048).take (10240 + cols * 2048))
            .retire (s.resultAt d 0 (s.now + 64 + (n + 127) / 128))) s

/-! ## SLREPLAY (R360) -/

/-- How one entry of a log fares in a replay. -/
inductive Replay where
  | kept (s : State)
  | gone (s : State)
  /-- It waits for a line that a running command owns. -/
  | wait

/-- One pass over a log, oldest first: an entry that shares a word with an older one that stays is kept. -/
def replay {α : Type} (words : α → List Nat) (step : State → α → Replay) : State → List Nat → List α → List α → Option (List α × State)
  | s, _, kept, [] => some (kept.reverse, s)
  | s, stay, kept, e :: es =>
    if (words e).any fun w => stay.contains w then replay words step s (stay ++ words e) (e :: kept) es
    else
      match step s e with
      | .wait => none
      | .kept s => replay words step s (stay ++ words e) (e :: kept) es
      | .gone s => replay words step s stay kept es

/-- A fresh translation of an H-space address. -/
def State.afresh (s : State) (core unit ctx : Nat) (va : Dword) (use : Access) : Except Nat Target × State :=
  let a := va.toNat % 2 ^ 52
  if 2 ^ 51 ≤ a then
    let r := s.translate core unit ctx va use
    (r.1.mapError Miss.cause, r.2)
  else s.translateAfresh core unit ctx a use

/-- An entry whose translation fails stays; a protection failure and poison on a table line are reported. -/
def State.replayMiss (s : State) (core : CoreId) (master : BitVec 16) (ctx : Nat) (va : Dword) (cause : Nat) : Replay :=
  if cause = causeLdpf then .kept s
  else if cause = causeUce then .kept (s.poisonEvent core master ctx va)
  else .kept (s.postEvent core { kind := 5, master := master, ctx := ctx, value := va, pc := 0, x := 7 })

/-- The 8-byte words that a side-log entry touches. -/
def SideEntry.words (e : SideEntry) : List Nat :=
  ((List.range 16).filter fun j => e.mask.extractLsb' (16 * j) 16 != 0).map fun j => e.line.toNat / 8 + j

/-- The bytes of a line after a store entry, beside those it leaves. -/
def SideEntry.over (e : SideEntry) (old : List Byte) : List (Option Byte) :=
  old.mapIdx fun i b =>
    let k := nibbles (e.mask.extractLsb' (2 * i) 2)
    if k = 0 then none else some ((b &&& ~~~k) ||| (e.data.extractLsb' (8 * i) 8 &&& k))

/-- One element of an ADD entry, or the word of a FOLD entry, at its home. -/
def State.replayUpdate (s : State) (h : HartKey) (e : SideEntry) (t : Target) (n i : Nat) (f : Nat → Nat → Nat × Flags) : State :=
  if (s.poisonAt (t.loc + i) n).isSome then s.poisonEvent (coreOfHart h) (hartMaster h) e.ctx (e.line + BitVec.ofNat 64 i)
  else
    let old := s.homeRead t.key (t.loc + i) n
    let q := f (bitsOfBytes (8 * n) old.1).toNat (e.data.extractLsb' (8 * i) (8 * n)).toNat
    (old.2.homeStore t.key (t.loc + i) ((bytesOfBits (BitVec.ofNat (8 * n) q.1) n).map some)).raiseOn h q.2

/-- The starts of the elements of n bytes that an entry holds. -/
def SideEntry.starts (e : SideEntry) (n : Nat) : List Nat :=
  ((List.range (128 / n)).map (· * n)).filter fun i => e.mask.extractLsb' (2 * i) 2 != 0

/-- The replay of a side-log entry of a hart. -/
def State.replaySide (h : HartKey) (s : State) (e : SideEntry) : Replay :=
  let core := coreOfHart h
  match s.afresh core (1 + clusterOfHart h % 8) e.ctx e.line (if e.kind = .store then .store else .update) with
  | (.error c, s) => s.replayMiss core (hartMaster h) e.ctx e.line c
  | (.ok t, s) =>
    if t.lost then .gone (s.modHart h fun v => { v with lost := v.lost.or (some e.line) })
    else if s.blocked t.loc 128 then .wait
    else
      let s := match e.kind with
        | .store =>
          let old := s.homeRead t.key t.loc 128
          old.2.homeStore t.key t.loc (e.over old.1)
        | .add type n rm => (e.starts n).foldl (fun s i => s.replayUpdate h e t n i fun old v => elementSum type n rm old v) s
        | .fold => (e.starts 4).foldl (fun s i => s.replayUpdate h e t 4 i fun old v => (foldMax old v, 0)) s
      .gone ((List.range 16).foldl (fun s j => s.dropWord core (t.loc / 8 + j)) s)

/-- The 8-byte words that an entry of the drain side log touches. -/
def DrainEntry.words (e : DrainEntry) : List Nat := linesOf 8 e.addr.toNat e.bytes.length

/-- Logged drain stores have been performed: the MWAIT of the hart that issued the MMA ends 4 cycles later (13 R305). -/
def State.noteStored (s : State) (core : CoreId) (l : List DrainEntry) : State :=
  l.foldl (fun s e => match e.source with
    | .hart h =>
      let t := s.hart h
      if s.resident h && decide (coreOfHart h = core) && decide (e.team = some (t.launch, t.team)) then
        s.setHart h { t with mwaitFrom := max t.mwaitFrom (s.now + 4) } else s
    | .command _ _ => s) s

/-- The replay of an entry of a drain side log. -/
def State.replayDrain (core : CoreId) (s : State) (e : DrainEntry) : Replay :=
  let n := e.bytes.length
  let r : Reach := { kind := .drain, core := core, ctx := e.ctx, unit := Agency.unit .drain }
  let parts := ({ s with tlb := s.tlb.filter fun o => !(pagesOf e.addr n).any fun p => (o.isAt core 0 || o.isAt core r.unit) && o.covers e.ctx (p.1.toNat % 2 ^ 52) } : State).translateParts r
    (if e.fold then .update else .store) false (pagesOf e.addr n)
  match parts with
  | (.error m, _) => s.replayMiss core 0x3000 e.ctx m.value m.cause
  | (.ok l, s) =>
    if l.any fun p => match p.1 with
        | some t => s.blocked t.loc p.2
        | none => false then .wait
    else if e.fold then
      match l with
      | (some t, _) :: _ =>
        .gone (if t.lost then s else s.foldAt core e.ctx e.addr t (bitsOfBytes 32 (e.bytes.map fun b => b.getD 0)).toNat)
      | _ => .gone s
    else .gone (s.writeParts none e.addr l e.bytes).2

/-- SLREPLAY. DEDUCED (log 48). -/
def execSlreplay (d a : Reg) (s : State) : Result :=
  masterWord (.slreplay d a) a [0, 3, 4] (fun core kind id s =>
    let finish := fun (s : State) (kept all : Nat) => Flow.retire (s.resultAt d (BitVec.ofNat 64 kept) (s.now + 1 + 4 * all))
    match kind with
    | 0 =>
      let h := hartOfMaster core ((s.rx a).setWidth 16)
      let log := (s.hart h).sideLog
      match replay SideEntry.words (State.replaySide h) s [] [] log with
      | none => .hold s
      | some (kept, s) => finish (s.modHart h fun t => { t with sideLog := kept }) kept.length log.length
    | 3 =>
      let log := (s.core core).drainLog
      match replay DrainEntry.words (State.replayDrain core) s [] [] log with
      | none => .hold s
      | some (kept, s) =>
        finish ((s.noteStored core (log.filter fun e => !kept.contains e)).modCore core fun v => { v with drainLog := kept }) kept.length log.length
    | _ =>
      finish (s.modCore core fun v =>
        { v with chains := v.chains.map fun c => { c with cmds := c.cmds.map fun k => match k.stage with
          | .parked n _ => if n = id then { k with stage := .resumed } else k
          | _ => k } }) 0 0) s

/-! ## TLBINV (R368, 09 R222, R223) -/

/-- TLBINV. R222 names a shoot-down request of the host through its control page, where R427 lists no such command: the model
offers this word alone. DEDUCED (log 48). -/
def execTlbinv (d a : Reg) (s : State) : Result :=
  .next (runWord (.tlbinv d a) (fun s =>
    let at_ := s.rx a
    if at_.toNat % 32 ≠ 0 ∨ ¬ inH at_ then .trap s causeBounds at_
    else
      (s.stewardLoad s.cur.core at_ 32).flow s fun l s =>
        let v : BitVec 256 := bitsOfBytes 256 l
        let base := (v.extractLsb' 64 64).toNat
        let len := (v.extractLsb' 128 64).toNat
        if v.extractLsb' 14 50 ≠ 0 ∨ v.extractLsb' 192 64 ≠ 0 ∨ base % 65536 ≠ 0 ∨ len % 65536 ≠ 0 then .trap s causeBounds at_
        else if !s.lineOwners.isEmpty && s.flight.any fun f => s.lineBusy (8 * f.word) 8 none then .hold s
        else
          let ctx := if v.getLsbD 12 then none else some (v.extractLsb' 0 12).toNat
          let s := if v.getLsbD 13 then s.shootDown ctx 0 (2 ^ 51) else s.shootDown ctx base len
          .retire ((s.resultAt d 0 (s.now + 400)).delay (s.now + 400))) s)

/-- WALK: a walk that ends fills its entry, or leaves nothing (09 R218, R219). -/
def execWalk (core : CoreId) (ctx : Nat) (va : Dword) (use : Access) (s : State) : Result :=
  .next (if 2 ^ 51 ≤ va.toNat % 2 ^ 52 then s else (s.translateAfresh core 0 ctx (va.toNat % 2 ^ 52) use).2)

/-! ## Freezing (R363, R364) -/

/-- The entries of a core's matrix queue and frozen slots that p names leave without further write. -/
def State.dropEntries (s : State) (core : CoreId) (p : MatEntry → Bool) : State :=
  let s := ((List.range (s.core core).queue.length).reverse).foldl
    (fun s n => if ((s.core core).queue[n]?).any p then s.dropEntry core n else s) s
  s.modCore core fun v => { v with frozenMmas := v.frozenMmas.filter fun e => !p e }

/-- A command of a chain that has not completed fails with status 10, without further access: a matrix entry, a place in a collective
and a launch that it has handed work to go with it. -/
def State.failCmd (s : State) (core : CoreId) (i : Fin 17) (record : Bool) (k : Cmd) : State :=
  let bad := (s.cmdReach core i k).crecStatus k.crec != 0
  let s := (s.disown (ownerOf core i k)).modCmd core i k.seq fun k =>
    { k with stage := .handed, finished := true, read := true, status := 10, ready := s.now + 6, batches := [], held := none,
             noRecord := k.noRecord || bad || !record }
  let s := { s with colls := s.colls.filter fun p => decide (p.cmd ≠ some (core, i.val, k.seq)) }
  let s := s.dropEntries core fun e => decide (e.source = .command i.val k.seq)
  let s := match s.launchOf core i.val k.seq with
    | some n => s.modLaunch n fun l => l.halt 10
    | none => s
  if record then s else (s.publishSlot core k).retireCmd core i { k with status := 10 }

/-- The commands of a context's chains on a core, the system chain of context 0 among them, fail with status 10; with `record` false the
engines are fenced, and each leaves its chain at once with no completion record. The freeze is lifted. -/
def State.failCopy (s : State) (core : CoreId) (ctx : Nat) (record : Bool) : State :=
  let s := (List.finRange 17).foldl (fun s i =>
    if (s.chain core i).ctx ≠ some ctx then s
    else ((s.chain core i).cmds.filter fun k => decide (k.stage ≠ .done)).foldl (fun s k => s.failCmd core i record k) s) s
  s.modCore core fun v => { v with copyFrozen := v.copyFrozen.filter fun c => decide (c ≠ ctx) }

/-- Matrix and drain work of a context on a core fails: its entries leave the queue and its log is discarded. The freeze is lifted. -/
def State.failMatrix (s : State) (core : CoreId) (ctx : Nat) : State :=
  let v := s.core core
  let gone := (v.queue ++ v.frozenMmas).filter fun e => decide (e.ctx = ctx)
  let s := gone.foldl (fun s e => if e.load then s else s.sourceError e.source e.team core causeEngerr 4 10) s
  let s := (v.drainLog.filter fun e => decide (e.ctx = ctx)).foldl (fun s e => s.sourceError e.source e.team core causeEngerr 4 10) s
  let mine := (v.queue.find? fun e => !e.load).any fun e => decide (e.ctx = ctx)
  (s.dropEntries core fun e => decide (e.ctx = ctx)).modCore core fun v =>
    { v with drainLog := v.drainLog.filter fun e => decide (e.ctx ≠ ctx), restart := if mine then {} else v.restart,
             matFrozen := v.matFrozen.filter fun c => decide (c ≠ ctx) }

/-- Adds a context to a list of frozen ones. -/
def addFrozen (l : List Nat) (ctx : Nat) : List Nat := if l.contains ctx then l else l ++ [ctx]

/-- A hart is frozen at its next instruction boundary, as if held: its fixed-latency results are written (R353); a wait for a twin is
given up (19 R402). What SVSAVE has saved of a hart that is held already stays saved (R361). -/
def State.freezeHart (s : State) (h : HartKey) : State :=
  let s := s.modTwin (twinOfCore (coreOfHart h)) fun v =>
    { v with halves := v.halves.filter (fun p => !(decide (p.2.hart = h) && p.2.waiting)),
             points := v.points.filter fun p => !(decide (p.2.hart = h) && p.2.waiting) }
  s.modHart h fun t =>
    let was := t.frozen || t.held.isSome
    { t with sc := t.sc.commitAll, frozen := true, saved := t.saved && was, kept := t.kept && was, claim := none
             wait := match t.wait with
               | .meeting _ _ => .none
               | .publishing _ _ => .none
               | .twin => .none
               | w => w }

/-- HFREEZE. DEDUCED (log 48). DEDUCED (log 49). -/
def execHfreeze (d a b : Reg) (s : State) : Result :=
  masterWord (.hfreeze d a b) a [0, 1, 2] (fun core kind id s =>
    let fail := (s.rx b).getLsbD 0
    let m : BitVec 16 := (s.rx a).setWidth 16
    if 1 < (s.rx b).toNat then .trap s causeBounds (s.rx b)
    else
      let v := s.core core
      let h := hartOfMaster core m
      let was := match kind with
        | 0 => (s.hart h).isFrozen
        | 1 => v.copyFrozen.contains id
        | _ => v.matFrozen.contains id
      let s := if was then s else s.noteFrozen core (if kind = 0 then (s.hart h).ctx else id) m
      let s := match kind with
        | 0 => if fail then s.failHart h 5 else s.freezeHart h
        | 1 =>
          let s := s.modCore core fun v => { v with copyFrozen := addFrozen v.copyFrozen id }
          if fail then s.failCopy core id true else s
        | _ =>
          let s := s.modCore core fun v => { v with matFrozen := addFrozen v.matFrozen id }
          if fail then s.failMatrix core id else s
      .retire (s.resultAt d (ofBool was) (s.now + 1))) s

/-- Frozen MMAs return to the head of their context's queue entries. -/
def CoreState.thawMatrix (v : CoreState) (ctx : Nat) : CoreState :=
  let mine := v.frozenMmas.filter fun e => decide (e.ctx = ctx)
  let before := v.queue.takeWhile fun e => decide (e.ctx ≠ ctx)
  { v with queue := before ++ mine ++ v.queue.drop before.length, frozenMmas := v.frozenMmas.filter fun e => decide (e.ctx ≠ ctx),
           matFrozen := v.matFrozen.filter fun c => decide (c ≠ ctx) }

/-- HTHAW; frozen MMAs come back between two rows of the drain. DEDUCED (log 48). -/
def execHthaw (d a : Reg) (s : State) : Result :=
  masterWord (.hthaw d a) a [0, 1, 2] (fun core kind id s =>
    let v := s.core core
    let h := hartOfMaster core ((s.rx a).setWidth 16)
    let was : Bool := match kind with
      | 0 => (s.hart h).isFrozen
      | 1 => v.copyFrozen.contains id
      | _ => v.matFrozen.contains id
    if kind = 2 && was && v.drainRow.isSome then .hold s
    else
    let s := match kind with
      | 0 => s.modHart h fun t =>
        let t := { t with frozen := false, held := t.held.map fun (e : Held) => { e with frozen := false } }
        if was && t.held.isNone then t.freed s.now else t
      | 1 =>
        s.modCore core fun v =>
          { v with copyFrozen := v.copyFrozen.filter fun c => decide (c ≠ id),
                   chains := v.chains.map fun (c : Chain) => if c.ctx ≠ some id then c else
                     { c with cmds := c.cmds.map fun (k : Cmd) => match k.stage with
                       | .frozen => { k with stage := .running }
                       | .iced => { k with stage := .resumed }
                       | _ => k } }
      | _ => s.modCore core fun v => v.thawMatrix id
    .retire (s.resultAt d (ofBool was) (s.now + 1))) s

/-! ## The eviction schedule (R369, 09 R207) -/

/-- Whether an entry of a schedule breaks R207. -/
def scheduleBroken (e : BitVec 128) : Bool :=
  e.extractLsb' 0 7 != 0 || e.extractLsb' 46 18 != 0 || e.extractLsb' 64 32 == 0 || e.extractLsb' 120 8 != 0

/-- ESLOAD. DESIGN CHOICE (log 32). DEDUCED (log 48). -/
def execEsload (d a b : Reg) (s : State) : Result :=
  .next (runWord (.esload d a b) (fun s =>
    let at_ := s.rx a
    let n := (s.rx b).toNat
    if 1024 < n then .trap s causeBounds (s.rx b)
    else if at_.toNat % 16 ≠ 0 then .trap s causeAlign at_
    else
      (if n = 0 then .ok [] s else s.stewardLoad s.cur.core at_ (16 * n)).flow s fun l s =>
        let es : List (BitVec 128) := (List.range n).map fun i => bitsOfBytes 128 ((l.drop (16 * i)).take 16)
        match es.findIdx? scheduleBroken with
        | some i => .retire (s.resultAt d (BitVec.ofNat 64 (i + 1)) (s.now + 1))
        | none =>
          .retire ((s.modPair (pairOfCore s.cur.core) fun p => { p with schedule := es, stepCount := 0 }).resultAt d 0 (s.now + 1))) s)

/-- ESTEP. DESIGN CHOICE (log 32). -/
def execEstep (d : Reg) (s : State) : Result :=
  .next (runWord (.estep d) (fun s =>
    let p := pairOfCore s.cur.core
    let n := min 65535 ((s.pair p).stepCount.toNat + 1)
    .retire ((s.modPair p fun p => { p with stepCount := BitVec.ofNat 16 n }).resultAt d (BitVec.ofNat 64 n) (s.now + 1))) s)

/-! ## SNAPT (04 R118) -/

/-- SNAPT. -/
def execSnapt (s : State) : Result := .next (runWord .snapt (fun s => .retire (s.trigger 1 s.cur.core)) s)

end Sys2Proof.Machine
end

