-- ==== Sys2Proof/Machine/HostPage.lean ====
section
/-! DEFINITION. The host and the peers: their reads, writes and atomics of device memory, the host control page with its
tables, registers and commands, flush reads and ports (11 R269, R270, 15 R334, 18 R371 to R373, 21 R421 to R429, R437). -/

namespace Sys2Proof.Machine

/-- Whether the module answers beyond its identity region: it is not in recovery (21 R430). -/
def State.answers (s : State) : Bool := decide (s.page.boot.toNat < 0x80)

/-- A request of the host or a peer: nothing happens in recovery. -/
def hostEvent (s : State) (f : State → State) : Result := .next (if s.answers then f s else s)

/-! ## The page as the host reads it (R425 to R429) -/

/-- Where the host control page lies among the locations that the host reads. DESIGN CHOICE (log 58). -/
def pageBase : Nat := 2 ^ 46

/-- The context table entry as it reads: ENERGY is the counter's. -/
def State.contextWord (s : State) (ctx : Nat) : BitVec 512 :=
  let energy : BitVec 64 := BitVec.ofNat 64 ((s.ctxState ctx).energy / 1000)
  (s.ctxEntry ctx &&& ~~~((BitVec.allOnes 64).setWidth 512 <<< 256)) ||| (energy.setWidth 512 <<< 256)

/-- The queue descriptor as it reads: with V = 0, the fields that were written. -/
def State.queueWord (s : State) (q : Nat) : BitVec 128 :=
  match s.queues.get? q with
  | none => ((s.spareQueues.get? q).getD 0).setWidth 128
  | some d =>
    let low : BitVec 64 := BitVec.ofNat 64 (1 + 2 * d.ctx + 2 ^ 13 * d.weight + 2 ^ 21 * d.core + 2 ^ 30 * d.chain)
    (BitVec.ofInt 64 d.deficit &&& 0xFFFFFFFF) ++ low

/-- The append register of a queue as it reads. -/
def State.appendWord (s : State) (q : Nat) : Dword :=
  match s.appends.get? q with
  | none => 0
  | some a =>
    BitVec.ofNat 64 (a.seq.toNat + (if a.refused then 2 ^ 32 else 0) + (if a.asking.isSome then 2 ^ 33 else 0) + 2 ^ 34 * a.why)

/-- The index of a core among those that exist. -/
def coreIndex (n : Nat) : CoreId := 16 * (n / 14) + n % 14

/-- A byte of the snapshot region. -/
def State.snapshotByte (s : State) (off : Nat) : Byte :=
  let v := s.snapshot
  if off < 8 then
    (BitVec.ofNat 64 (v.cause + 2 ^ 8 * v.source + 2 ^ 32 * v.missed.toNat)).extractLsb' (8 * off) 8
  else if off < 16 then v.time.extractLsb' (8 * (off - 8)) 8
  else
    let n := (off - 16) / 640
    if 448 ≤ n then 0 else (((v.entries.get? (coreIndex n)).getD [])[(off - 16) % 640]?).getD 0

/-- A byte of the host control page. DEDUCED (log 47). -/
def State.pageByte (s : State) (off : Nat) : Byte :=
  let bit := fun (n v : Nat) => (BitVec.ofNat 64 v).extractLsb' (8 * n) 8
  if off / 8 = 1 then
    bit (off % 8) (s.page.devnum.toNat + (if s.tsync then 8 else 0) + 16 * s.page.boot.toNat)
  else if off / 8 = 2 then bit (off % 8) s.devTime
  else if off / 8 = 3 then bit (off % 8) s.page.plimit
  else if !s.answers then 0
  else if off / 8 = 512 then
    bit (off % 8) (s.page.op.toNat + (if s.page.go then 256 else 0) + 65536 * s.page.status.toNat)
  else if 512 < off / 8 ∧ off / 8 < 520 then (s.page.args.getD (off / 8 - 513) 0).extractLsb' (8 * (off % 8)) 8
  else if 0x10000 ≤ off ∧ off < 0x50000 then (s.contextWord ((off - 0x10000) / 64)).extractLsb' (8 * (off % 64)) 8
  else if 0x50000 ≤ off ∧ off < 0x54000 then (s.queueWord ((off - 0x50000) / 16)).extractLsb' (8 * (off % 16)) 8
  else if 0x58000 ≤ off ∧ off < 0x5A000 then (s.appendWord ((off - 0x58000) / 8)).extractLsb' (8 * (off % 8)) 8
  else if 0x60000 ≤ off then s.snapshotByte (off - 0x60000)
  else 0

/-! ## Reads, writes and atomics (R269, R421) -/

/-- Whether a range lies in this device's HBM. -/
def inHbm (loc n : Nat) : Bool := decide (loc + n ≤ Config.hbmBytes)

/-- The function that a request comes from: an input names it above the 64 bits of its address or queue. DESIGN CHOICE (log 62). -/
def requester (a : Nat) : Nat := a / 2 ^ 64

/-- The address or queue that a request names. -/
def requested (a : Nat) : Nat := a % 2 ^ 64

/-- The partition of a virtual function. The functions are numbered: 0 the management function, p + 1 that of partition p, 16 + i that of
the peer at port i (21 R421). DESIGN CHOICE (log 62). -/
def partitionOf (fn : Nat) : Option Nat := if 1 ≤ fn ∧ fn ≤ 16 then some (fn - 1) else none

/-- Whether a function reaches a queue: its partition's own, and every one for the management function (R425). -/
def State.fnQueue (s : State) (fn q : Nat) : Bool :=
  match partitionOf fn with
  | none => fn == 0
  | some p => (s.queues.get? q).any fun d => decide (s.ctxPart d.ctx = p)

/-- A range lies in the host control page. -/
def inPage (at_ n : Nat) : Bool := decide (pageBase ≤ at_ ∧ at_ + n ≤ pageBase + 2 ^ 20)

/-- A byte of the page as a function reads it: a virtual function reads the append registers of its own queues, and else zeros. -/
def State.fnByte (s : State) (fn off : Nat) : Byte :=
  match partitionOf fn with
  | none => if fn = 0 then s.pageByte off else 0
  | some _ => if 0x58000 ≤ off ∧ off < 0x5A000 ∧ s.fnQueue fn ((off - 0x58000) / 8) then s.pageByte off else 0

/-- The protection check of a request: a virtual function has its page alone. A function that fails it is frozen (17 R363). DESIGN
CHOICE (log 62). -/
def State.fnMay (fn at_ n : Nat) : Bool := (partitionOf fn).isNone || inPage at_ n

/-- A function is frozen (17 R363, 21 R428). -/
def State.freezeFn (s : State) (fn : Nat) : State :=
  if s.frozenFns.contains fn then s else { s.trigger 3 0x1FF with frozenFns := s.frozenFns ++ [fn] }

/-- A request of a function: that of a frozen one, or one that fails its check, is answered with Unsupported Request, an empty answer, or
dropped. -/
def State.request (s : State) (fn at_ n : Nat) (f : State → State) : State :=
  let refused := fun (s : State) => { s with hostAnswer := [] }
  if s.frozenFns.contains fn then refused s else if !State.fnMay fn at_ n then refused (s.freezeFn fn) else f s

/-- Whether a request of the host or a peer to a range waits for a line that a running command owns (11 R265). -/
def State.requestWaits (s : State) (at_ n : Nat) : Bool := inHbm at_ n && s.blocked at_ n

/-- HOST_PEER_WRITE as a function makes it: at this device's memory its bytes go to their homes in order, one at a time (11 R257, R269); at its own memory the
host or the peer writes. DESIGN CHOICE (log 19). -/
def State.requestWrite (s : State) (fn at_ : Nat) (bytes : List Byte) : State :=
  s.request fn at_ bytes.length fun s =>
    if inHbm at_ bytes.length then { s with incoming := s.incoming ++ bytes.mapIdx fun i b => (at_ + i, b) }
    else if isOutside at_ then s.setBytes at_ (bytes.map some)
    else s

/-- HOST_PEER_WRITE. DESIGN CHOICE (log 19). -/
def execHostPeerWrite (at_ : Nat) (bytes : List Byte) (s : State) : Result :=
  hostEvent s fun s => s.requestWrite (requester at_) (requested at_) bytes

/-- The next byte of a write on its way comes to its home; a poisoned line that is written whole is written at once, and is poisoned no
longer (11 R257, 17 R365). -/
def State.incomingStep (s : State) : Option State :=
  match s.incoming with
  | [] => none
  | (loc, b) :: rest =>
    let line := s.incoming.take 128
    if s.poison.contains (loc / 128) && decide (line.map Prod.fst = (List.range 128).map fun i => loc / 128 * 128 + i) then
      if s.blocked loc 128 then none
      else some ({ s with incoming := s.incoming.drop 128 }.homeStore 0 loc (line.map fun (p : Nat × Byte) => some p.2))
    else if s.blocked loc 1 then none
    else some ({ s with incoming := rest }.homeStore 0 loc [some b])

/-- HOST_PEER_READ as a function makes it: of the control page at once, of this device's memory one byte at a time (11 R257). -/
def State.requestRead (s : State) (fn at_ n : Nat) : State :=
  s.request fn at_ n fun s =>
    if inPage at_ n then { s with hostAnswer := (List.range n).map fun i => s.fnByte fn (at_ - pageBase + i) }
    else if !s.answers || s.requestWaits at_ n then s
    else if inHbm at_ n then { s with hostAnswer := [], reading := if n = 0 then none else some (at_, n) }
    else if isOutside at_ then { s with hostAnswer := s.bytes at_ n }
    else s

/-- The next byte of a read that is under way is read at its home. -/
def State.readingStep (s : State) : Option State :=
  match s.reading with
  | none => none
  | some (loc, n) =>
    if s.blocked loc 1 then none
    else
      let r := s.homeRead 0 loc 1
      some { r.2 with hostAnswer := s.hostAnswer ++ r.1, reading := if n ≤ 1 then none else some (loc + 1, n - 1) }

/-- HOST_PEER_READ. -/
def execHostPeerRead (at_ : Nat) (n : Nat) (s : State) : Result :=
  .next (s.requestRead (requester at_) (requested at_) n)

/-- HOST_PEER_ATOMIC as a function makes it: one read-modify-write at the home, which answers the old value; a poisoned word stays as it is. DEDUCED
(log 23). -/
def State.requestAtomic (s : State) (fn : Nat) (op : PeerAtomic) (at_ : Nat) (wide : Bool) (operand compare : Dword) : State :=
  let n := if wide then 8 else 4
  s.request fn at_ n fun s =>
    if s.requestWaits at_ n || !inHbm at_ n || decide (at_ % n ≠ 0) then s
    else
      let old := s.homeRead 0 at_ n
      let v : BitVec (8 * n) := bitsOfBytes (8 * n) old.1
      let y : BitVec (8 * n) := operand.setWidth (8 * n)
      let new : Option (BitVec (8 * n)) := match op with
        | .fetchAdd => some (v + y)
        | .swap => some y
        | .cas => if v = compare.setWidth (8 * n) then some y else none
      let s := old.2
      let s := match new with
        | some w => if (s.poisonAt at_ n).isSome then s else s.homeStore 0 at_ ((bytesOfBits w n).map some)
        | none => s
      { s with hostAnswer := old.1 }

/-- HOST_PEER_ATOMIC. -/
def execHostPeerAtomic (op : PeerAtomic) (at_ : Nat) (wide : Bool) (operand compare : Dword) (s : State) : Result :=
  hostEvent s fun s => s.requestAtomic (requester at_) op (requested at_) wide operand compare

/-- FLUSH_READ_COMPLETION: what was posted to a function has arrived and is acknowledged. DESIGN CHOICE (log 19). -/
def execFlushReadCompletion (fn : Nat) (s : State) : Result :=
  .next (s.flushed (fun _ => true) fun p => p == fn)

/-- The flush reads of a hart's stores to peers complete in the cycle that R272 gives, where no FLUSH_READ_COMPLETION came before.
DESIGN CHOICE (log 19). -/
def State.peerAckStep (s : State) (h : HartKey) : Option State :=
  let t := s.hart h
  if s.now < t.flushAt ∨ t.posted.all (fun p => decide (8 ≤ p)) then none
  else
    let u := s.flushed (fun o => o == h) fun p => decide (p < 8)
    if (u.hart h).posted = t.posted then none else some u

/-- A link is protected by IDE from now on. DESIGN CHOICE (log 31). -/
def State.protectLink (s : State) (port : Nat) : State :=
  { s with linkIde := if s.linkIde.contains port then s.linkIde else s.linkIde ++ [port] }

/-- PORT_LINK_CHANGE: a link that comes up to a peer has had its keys from the devices' own session, which runs over it before it carries
traffic (R431); a link that goes down ends its streams. DESIGN CHOICE (log 31). -/
def execPortLinkChange (port : Nat) (up : Bool) (s : State) : Result :=
  .next (
    if 8 ≤ port then s
    else
      let rest := s.ports.filter fun p => decide (p ≠ port)
      if up then
        let s : State := { s with ports := rest ++ [port] }
        if port = 0 then s else s.protectLink port
      else
        { s with ports := rest, linkIde := s.linkIde.filter fun p => decide (p ≠ port),
                 selectiveIde := if port = 0 then [] else s.selectiveIde })

/-! ## Doorbells and append registers (R425, R437) -/

/-- A function's write of the doorbell or append register of a queue: dropped where it is frozen or the queue is not its own. -/
def State.fnWrite (s : State) (fn queue : Nat) (f : Queue → State) : State :=
  if s.frozenFns.contains fn || !s.fnQueue fn queue then s
  else
    match s.queues.get? queue with
    | none => s
    | some q => f q

/-- DOORBELL: hands over the batch of a queue's chain. -/
def execDoorbell (queue : Nat) (s : State) : Result :=
  hostEvent s fun s => s.fnWrite (requester queue) (requested queue) fun q => s.modChain q.core (Fin.ofNat 17 q.chain) fun c => c.handOver (s.now + 30)

/-- How the reading of a list for the host ends. -/
inductive HostList where
  | ok (l : List Header) (s : State)
  /-- WHY of R437. -/
  | refused (why : Nat)
  | wait

/-- Reads a list of records for the host, newest first in `done`; the first argument bounds its length. -/
def hostList (read : State → Dword → Nat → Acc (List Byte)) (expl : Bool) : Nat → State → Dword → List Header → HostList
  | 0, _, _, _ => .refused 4
  | f + 1, s, a, done =>
    if a.toNat % 64 ≠ 0 ∨ ¬ inH a then .refused 1
    else
      match read s a 16 with
      | .wait => .wait
      | .miss _ _ => .refused 2
      | .ok head s =>
        match read s (a + 56) 8 with
        | .wait => .wait
        | .miss _ _ => .refused 2
        | .ok crec s =>
          let r : Header := { at_ := a, bits := bitsOfBytes 128 head, crec := bitsOfBytes 64 crec, byHost := expl }
          let unfollowed := match done with
            | p :: _ => p.flag 2 && decide (r.op ≠ 7)
            | [] => false
          if unfollowed || r.broken then .refused 3
          else if 256 ≤ done.length then .refused 4
          else if r.next = 0 then .ok (r :: done).reverse s
          else hostList read expl f s r.next (r :: done)

/-- A reader of bytes for the host in the H-space of a context. -/
def hostReader (r : Reach) (s : State) (a : Dword) (n : Nat) : Acc (List Byte) :=
  match r.check .load a n with
  | some m => .miss m s
  | none =>
    if s.accessBlocked r .load a n then .wait
    else
      match s.fetchBytes r false .load a n with
      | (.error m, s) => .miss m s
      | (.ok g, s) => if g.poisoned.isSome then .miss { cause := causeUce, value := a } s else .ok g.bytes s

/-- Performs stores of the host in the H-space of a context. -/
def State.hostStores (s : State) (r : Reach) (l : List (Dword × List Byte)) : State :=
  l.foldl (fun s p => (s.storeBytes r none .store p.1 (p.2.map some)).2) s

/-- Appends a list whole to a chain and hands its batch over: the number of the last record, or WHY. DEDUCED (log 47). -/
def State.hostAppend (s : State) (r : Reach) (expl : Bool) (core : CoreId) (i : Fin 17) (list : Dword) :
    Option (Except Nat (BitVec 32 × State)) :=
  match hostList (hostReader r) expl 257 s list [] with
  | .wait => none
  | .refused why => some (.error why)
  | .ok l s =>
    let c := s.chain core i
    if 4096 < c.pend + l.length then some (.error 5)
    else
      let ks := cmdsOf 0 none none (c.appSeq + 1) false l
      let puts := (l.zip ks).flatMap fun p => p.1.stores p.2
      match s.storesMiss r puts with
      | (some _, _) => some (.error 2)
      | (none, s) =>
        let s := (s.hostStores r puts).modChain core i fun c => (c.append ks).handOver (s.now + 30)
        some (.ok (c.appSeq + BitVec.ofNat 32 ks.length, s))

/-- The append that an append register asks for. -/
def State.queueAppend (s : State) (q : Queue) (list : Dword) : Option (Except Nat (BitVec 32 × State)) :=
  s.hostAppend { kind := .copy, core := q.core, ctx := q.ctx, unit := Agency.unit .copy } true q.core (Fin.ofNat 17 q.chain) list

/-- An append in progress of a queue is made, or refused, once no line keeps it back. -/
def State.queueAppendStep (s : State) (queue : Nat) : Option State :=
  let a := (s.appends.get? queue).getD {}
  match a.asking, s.queues.get? queue with
  | some list, some q =>
    match s.queueAppend q list with
    | none => none
    | some (.ok (seq, s)) => some { s with appends := s.appends.put queue { seq := seq } }
    | some (.error why) => some { s with appends := s.appends.put queue { a with asking := none, refused := true, why := why } }
  | some _, none => some { s with appends := s.appends.put queue { a with asking := none } }
  | none, _ => none

/-- APPEND_REGISTER as a function writes it: an append begins, unless one is in progress. -/
def State.appendWrite (s : State) (fn queue : Nat) (list : Dword) : State :=
  s.fnWrite fn queue fun _ =>
    let a := (s.appends.get? queue).getD {}
    if a.asking.isSome then s
    else
      let s := { s with appends := s.appends.put queue { a with asking := some list } }
      (s.queueAppendStep queue).getD s

/-- APPEND_REGISTER. -/
def execAppendRegister (queue : Nat) (list : Dword) (s : State) : Result :=
  hostEvent s fun s => s.appendWrite (requester queue) (requested queue) list

/-- The append that command 11 asks for: a record of the host is taken as EXPL = 1 (R277). -/
def State.chainAppend (s : State) (core : CoreId) (list : Dword) : Option (Except Nat (BitVec 32 × State)) :=
  s.hostAppend (stewardReach core) true core 16 list

/-- Whether an event from outside waits: for a line that a running command owns. DESIGN CHOICE (log 3). -/
def State.inputWaits (s : State) : Instr → Bool
  | .hostPeerRead a n => !s.frozenFns.contains (requester a) && s.requestWaits (requested a) n
  | .hostPeerAtomic _ a w _ _ => !s.frozenFns.contains (requester a) && s.requestWaits (requested a) (if w then 8 else 4)
  | _ => false

/-! ## Tables (18 R371 to R373, 15 R334) -/

/-- The writable bits of a context table entry: those of XLATE (09 R213), then CSABASE, HOST, VALID, CSAKEY, CSALEN and PART. -/
def contextMask : BitVec 512 :=
  ((0xF : BitVec 512) <<< 320) ||| ((0xFFFFFFFF : BitVec 512) <<< 224) ||| ((0xFFF : BitVec 512) <<< 200) |||
    ((BitVec.allOnes 66).setWidth 512 <<< 128) ||| ((0xFFFFFFFF : BitVec 512) <<< 64) ||| ((0x1FFFFFFFF : BitVec 512) <<< 13) ||| 1

/-- Whether an entry that exists breaks R371: its CTX is not its index, or CSABASE[6:0] is not zero. DEDUCED (log 46). -/
def contextBroken (ctx : Nat) (e : BitVec 512) : Bool :=
  e.getLsbD 193 && ((e.extractLsb' 64 12).toNat != ctx || e.extractLsb' 128 7 != 0)

/-- CONTEXT_TABLE_WRITE: refused while the context has state on the device. DEDUCED (log 46). -/
def execContextTableWrite (ctx : Nat) (entry : BitVec 512) (s : State) : Result :=
  hostEvent s fun s =>
    let e := entry &&& contextMask
    let c := s.ctxState ctx
    if 4096 ≤ ctx ∨ contextBroken ctx e ∨ s.hasState ctx ∨ c.spill.isSome then s
    else
      let s := { s with contexts := if e = 0 then s.contexts.erase ctx else s.contexts.put ctx e }
      let s := s.modCtx ctx fun c => { c with failed := false, saved := false }
      if e.getLsbD 193 then s else s.dropPools ctx

/-- The fields of a descriptor but for V. -/
def queueFields (desc : BitVec 128) : BitVec 34 := (desc.setWidth 34) &&& ~~~1

/-- QUEUE_DESCRIPTOR_WRITE: a queue made valid binds its chain; one made invalid releases it, and its fields stay. DEDUCED (log 46). -/
def execQueueDescriptorWrite (queue : Nat) (desc : BitVec 128) (s : State) : Result :=
  hostEvent s fun s =>
    let num := fun (lo n : Nat) => (desc.extractLsb' lo n).toNat
    let ctx := num 1 12
    let core := num 21 9
    let chain := num 30 4
    let spare := fun (s : State) => { s with spareQueues := s.spareQueues.put queue (queueFields desc) }
    if 1024 ≤ queue then s
    else if desc.getLsbD 0 then
      if (s.chain core (Fin.ofNat 17 chain)).ctx.isSome || decide (ctx = 0 ∨ num 13 8 = 0) || !validCore core || !s.ctxValid ctx
          || !s.coreOfPart ctx core || (s.queues.get? queue).isSome then s
      else
        ({ s with queues := s.queues.put queue { ctx := ctx, weight := num 13 8, core := core, chain := chain },
                  spareQueues := s.spareQueues.erase queue } : State).modChain core (Fin.ofNat 17 chain) fun _ => { ctx := some ctx }
    else
      match s.queues.get? queue with
      | none => spare s
      | some q =>
        let p := s.ctxPart q.ctx
        let v := s.partition p
        if s.hasWork q || decide (v.incoming = some queue) || (v.turn == some queue && (s.hasState q.ctx || v.switch.isSome)) then s
        else
          let s := { s with queues := s.queues.erase queue }
          let s := spare (s.modChain q.core (Fin.ofNat 17 q.chain) fun _ => {})
          if v.turn = some queue then s.modPartition p fun v => { v with turn := none, idle := true } else s

/-- The writable bits of a pool descriptor. -/
def poolMask : BitVec 128 :=
  ((0xFFF : BitVec 128) <<< 96) ||| ((0x1FFFF : BitVec 128) <<< 64) ||| (((BitVec.allOnes 39).setWidth 128) <<< 13) ||| 1

/-! ## Commands (R427) -/

/-- A command is in progress: GO reads 1. -/
def State.pageBusy (s : State) (op : Byte) : State := { s with page := { s.page with op := op, go := true } }

/-- The argument bytes of a command, but for those that are zero: bytes 8 to 11, bytes 12 to 15, and bytes 16 to 23. DESIGN CHOICE (log 47). -/
def commandArgs (low mid : Nat) (addr : Dword) : Vector Dword 7 :=
  #v[BitVec.ofNat 64 (low % 2 ^ 32 + 2 ^ 32 * mid), addr, 0, 0, 0, 0, 0]

/-- A command of the host control page: its argument bytes are written, and then its command word, which is ignored while GO = 1. -/
def hostCommand (s : State) (args : Vector Dword 7) (f : State → State) : Result :=
  hostEvent s fun s =>
    let s : State := { s with page := { s.page with args := args } }
    if s.page.go then s else f s

/-- Command 1: Resync. -/
def State.resync (s : State) (at_ : Dword) : State := (s.hostPut at_ (s.summary 0)).pageDone 1 statusDone

/-- Command 2: Key load. The host may fail the read of the key record. DESIGN CHOICE (log 19). -/
def State.keyLoad (s : State) (slot : Nat) (at_ : Dword) : State :=
  if slot = 0 ∨ 4096 ≤ slot then s.pageDone 2 statusMalformed
  else if !(s.linkIde.contains 0 || s.selectiveIde.contains 0) then s.pageDone 2 statusRefused
  else
    let c := s.choose 2
    if c.1 = 1 then c.2.pageDone 2 statusRefused
    else
      let key : BitVec 512 := bitsOfBytes 512 (s.bytes (hostLoc 0 (at_.toNat % 2 ^ 51)) 64)
      ({ c.2 with keys := s.keys.put slot key } : State).pageDone 2 statusDone

/-- Command 3: Unfence. A fenced cluster takes work again where its in-field test passes; the test is charged to the system account (18
R391). DESIGN CHOICE (log 11). -/
def State.unfence (s : State) (core : CoreId) (mask : Byte) : State :=
  if !validCore core then s.pageDone 3 statusMalformed
  else
    let ks := (clustersOf core).filter fun k => mask.getLsbD (k % 8) && (s.cluster k).fenced
    let r := ks.foldl (fun (a : Bool × State) k =>
      let s := ({ a.2 with choice := a.2.choice + 1 } : State).charge 0
      if Config.fieldTest a.2.choice then (a.1, s.modCluster k fun c => { c with fenced := false }) else (false, s)) (true, s)
    r.2.pageDone 3 (if r.1 then statusDone else statusRefused)

/-- Command 4: Ungate. DEDUCED (log 43). -/
def State.ungate (s : State) (core : CoreId) : State :=
  if !validCore core ∨ ¬ upperCore core then s.pageDone 4 statusMalformed
  else
    let t := twinOfCore core
    if (s.twin t).gate ≠ .gated then s.pageDone 4 statusRefused
    else
      let ctx := ((s.pair (pairOfCore core)).part.bind s.turnCtx).getD 0
      ((s.modTwin t fun v => { v with gateWant := false }).moveGate t ctx).pageDone 4 statusDone

/-- Command 5: Pre-empt, with its HOLD bit; it acts, and is done, at the next tick (18 R377). -/
def State.preEmpt (s : State) (part : Nat) (queue : Option Nat) (hold : Bool) : State :=
  if 16 ≤ part ∨ queue.any (fun q => decide (1024 ≤ q)) then s.pageDone 5 statusMalformed
  else
    let ok := match queue with
      | none => true
      | some q => (s.queuesOf part).any fun e => decide (e.1 = q) && s.hasWork e.2
    if ok then (s.modPartition part fun v => { v with request := some (queue, hold) }).pageBusy 5 else s.pageDone 5 statusRefused

/-- Whether a context has state on a die pair. DEDUCED (log 46). -/
def State.pairBusy (s : State) (p : Nat) : Bool :=
  let here := fun (c : CoreId) => decide (pairOfCore c = p)
  s.harts.any (fun e => here (coreOfHart e.1)) || s.clusters.any (fun (e : Nat × Cluster) => here (coreOfCluster e.1) && (!e.2.bank.isEmpty || !e.2.marks.isEmpty))
    || s.ctxStates.any (fun (e : Nat × CtxState) => e.2.harts.any (fun h => here (coreOfHart h.1)) || e.2.cores.any (fun c => here c.1)
      || e.2.tables.any (fun t => here (coreOfCluster t.1)) || e.2.twins.any fun t => here (lowerCore t.1))
    || s.launches.any (fun (e : Nat × Launch) => e.2.teams.any fun t => here t.core)
    || s.cores.any fun (e : Nat × CoreState) => here e.1 && (e.2.holds || (e.2.chains.toList.take 16).any fun c => c.ctx.isSome)

/-- Command 6: Assign pair. -/
def State.assignPair (s : State) (pair part : Nat) (valid : Bool) : State :=
  if 16 ≤ pair ∨ 16 ≤ part then s.pageDone 6 statusMalformed
  else if s.pairBusy pair then s.pageDone 6 statusRefused
  else (s.modPair pair fun d => { d with part := if valid then some part else none }).pageDone 6 statusDone

/-- Command 7: Emergency address. -/
def State.emergencyAddress (s : State) (at_ : Dword) : State :=
  if at_.toNat % 8 ≠ 0 then s.pageDone 7 statusRefused
  else ({ s with page := { s.page with emergency := at_ } } : State).pageDone 7 statusDone

/-- Command 8 with argument 0: a snapshot is triggered. -/
def State.snapshotNow (s : State) : State := (s.trigger 0 0x1FF).pageDone 8 statusDone
/-- Command 8 with argument 1: the snapshot is armed again. -/
def State.snapshotArm (s : State) : State :=
  ({ s with snapshot := { s.snapshot with armed := true, missed := 0 } } : State).pageDone 8 statusDone

/-- Command 9: Collective timeout. -/
def State.collTimeout (s : State) (us : Nat) : State :=
  if us = 0 ∨ 10000000 < us then s.pageDone 9 statusMalformed
  else ({ s with page := { s.page with collTimeout := us } } : State).pageDone 9 statusDone

/-- Command 10: Thaw function. DESIGN CHOICE (log 58). -/
def State.thawFunction (s : State) (fn : Nat) : State :=
  if s.frozenFns.contains fn then
    ({ s with frozenFns := s.frozenFns.filter fun f => decide (f ≠ fn) } : State).pageDone 10 statusDone
  else s.pageDone 10 statusRefused

/-- A command 11 in progress appends its list, or is refused, once no line keeps it back. -/
def State.systemAppendStep (s : State) : Option State :=
  match s.page.append with
  | none => none
  | some (core, list) =>
    let ended := fun (s : State) (status : Byte) => ({ s with page := { s.page with append := none } } : State).pageDone 11 status
    match s.chainAppend core list with
    | none => none
    | some (.ok (_, s)) => some (ended s statusDone)
    | some (.error _) => some (ended s statusRefused)

/-- Command 11: System append. DEDUCED (log 47). -/
def State.systemAppend (s : State) (core : CoreId) (list : Dword) : State :=
  if !validCore core then s.pageDone 11 statusMalformed
  else
    let s := ({ s with page := { s.page with append := some (core, list) } } : State).pageBusy 11
    s.systemAppendStep.getD s

/-- RESYNC: command 1. -/
def execResync (at_ : Dword) (s : State) : Result := hostCommand s (commandArgs 0 0 at_) fun s => s.resync at_
/-- KEY_LOAD: command 2. -/
def execKeyLoad (slot : Nat) (at_ : Dword) (s : State) : Result := hostCommand s (commandArgs slot 0 at_) fun s => s.keyLoad slot at_
/-- UNFENCE: command 3. DESIGN CHOICE (log 11). -/
def execUnfence (core : CoreId) (mask : Byte) (s : State) : Result :=
  hostCommand s (commandArgs core 0 (mask.setWidth 64)) fun s => s.unfence core mask
/-- UNGATE: command 4. DEDUCED (log 43). -/
def execUngate (core : CoreId) (s : State) : Result := hostCommand s (commandArgs core 0 0) fun s => s.ungate core
/-- PRE_EMPT: command 5 with HOLD 0. -/
def execPreEmpt (part : Nat) (queue : Option Nat) (s : State) : Result :=
  hostCommand s (commandArgs part (queue.getD 0xFFFFFFFF) 0) fun s => s.preEmpt part queue false
/-- PRE_EMPT_HOLD: command 5 with HOLD 1 and no queue named; one that names a queue comes through the command block. -/
def execPreEmptHold (part : Nat) (s : State) : Result :=
  hostCommand s (commandArgs part 0xFFFFFFFF 1) fun s => s.preEmpt part none true
/-- ASSIGN_PAIR: command 6. -/
def execAssignPair (pair part : Nat) (valid : Bool) (s : State) : Result :=
  hostCommand s (commandArgs pair part (if valid then 1 else 0)) fun s => s.assignPair pair part valid
/-- EMERGENCY_ADDRESS: command 7. -/
def execEmergencyAddress (at_ : Dword) (s : State) : Result := hostCommand s (commandArgs 0 0 at_) fun s => s.emergencyAddress at_
/-- SNAPSHOT_TRIGGER: command 8 with argument 0. -/
def execSnapshotTrigger (s : State) : Result := hostCommand s (commandArgs 0 0 0) State.snapshotNow
/-- SNAPSHOT_REARM: command 8 with argument 1. -/
def execSnapshotRearm (s : State) : Result := hostCommand s (commandArgs 1 0 0) State.snapshotArm
/-- COLLECTIVE_TIMEOUT: command 9. -/
def execCollectiveTimeout (us : Nat) (s : State) : Result := hostCommand s (commandArgs us 0 0) fun s => s.collTimeout us
/-- THAW_FUNCTION: command 10. DESIGN CHOICE (log 58). -/
def execThawFunction (fn : Nat) (s : State) : Result := hostCommand s (commandArgs fn 0 0) fun s => s.thawFunction fn
/-- SYSTEM_APPEND: command 11. DEDUCED (log 47). -/
def execSystemAppend (core : CoreId) (list : Dword) (s : State) : Result :=
  hostCommand s (commandArgs core 0 list) fun s => s.systemAppend core list

/-- The command that OP names runs with the argument bytes as they stand; an OP that the table does not list is malformed. DESIGN CHOICE
(log 47). -/
def State.runCommand (s : State) : State :=
  let low := s.page.args[0]
  let addr := s.page.args[1]
  let n := low.toNat % 2 ^ 16
  let mid := low.toNat / 2 ^ 32
  match s.page.op.toNat with
  | 1 => s.resync addr
  | 2 => s.keyLoad n addr
  | 3 => s.unfence n (addr.setWidth 8)
  | 4 => s.ungate n
  | 5 => s.preEmpt (n % 256) (if mid = 0xFFFFFFFF then none else some mid) (addr.getLsbD 0)
  | 6 => s.assignPair n mid (addr.getLsbD 0)
  | 7 => s.emergencyAddress addr
  | 8 => if n = 0 then s.snapshotNow else if n = 1 then s.snapshotArm else s.pageDone 8 statusMalformed
  | 9 => s.collTimeout (low.toNat % 2 ^ 32)
  | 10 => s.thawFunction n
  | 11 => s.systemAppend n addr
  | _ => s.pageDone s.page.op statusMalformed

/-- A write of the command word: ignored while GO = 1; with GO 1 it runs the command. -/
def State.commandWord (s : State) (v : Dword) : State :=
  if s.page.go then s
  else
    let s : State := { s with page := { s.page with op := v.setWidth 8 } }
    if v.getLsbD 8 then s.runCommand else s

/-- REGISTER_WRITE: DEVNUM, PLIMIT, the command block, and half a pool descriptor. DEDUCED (log 38). DEDUCED (log 46). -/
def execRegisterWrite (offset : Nat) (value : Dword) (s : State) : Result :=
  .next (
    if offset = 0x0008 then
      if s.ports.any fun p => decide (p ≠ 0) then s else { s with page := { s.page with devnum := value.setWidth 3 } }
    else if offset = 0x0018 then
      if 1000 ≤ value.toNat ∧ value.toNat ≤ 8500 then { s with page := { s.page with plimit := value.toNat } } else s
    else if offset = 0x1000 ∧ s.answers then s.commandWord value
    else if 0x1008 ≤ offset ∧ offset < 0x1040 ∧ offset % 8 = 0 ∧ s.answers then
      { s with page := { s.page with args := s.page.args.setIfInBounds (offset / 8 - 513) value } }
    else if 0x100000 ≤ offset ∧ offset < 0x200000 ∧ s.answers then
      let n := (offset - 0x100000) / 16
      let old := (s.poolTable.get? n).getD 0
      let new : BitVec 128 := if offset / 8 % 2 = 0 then old.extractLsb' 64 64 ++ value else value ++ old.extractLsb' 0 64
      { s with poolTable := s.poolTable.put n (new &&& poolMask) }
    else s)

end Sys2Proof.Machine
end

