-- ==== Sys2Proof/Machine/Coll.lean ====
section
/-! DEFINITION. The collective engine (21 R418 to R420). -/

namespace Sys2Proof.Machine

/-- Bytes of an element of a TYPE. -/
def collSize (ty : Nat) : Nat := if ty < 2 then 8 else if ty = 2 then 4 else 2

/-- One participant's position: a group, a tag and an index. -/
def sameColl (a b : CollInput) : Bool := decide (a.group = b.group) && decide (a.tag = b.tag)

/-- The participants that have arrived for a collective. -/
def State.members (s : State) (c : CollInput) : List CollPart := s.colls.filter fun p => sameColl p.input c

/-- The participants in index order. -/
def inOrder (l : List CollPart) : List CollPart := sortBy (fun (a b : CollPart) => decide (a.input.index ≤ b.input.index)) l

/-- Whether the participants disagree. DEDUCED (log 50). -/
def collDisagree (l : List CollPart) : Bool :=
  match l with
  | [] => false
  | p :: ps => ps.any fun q =>
    decide (q.input.op ≠ p.input.op ∨ q.input.ty ≠ p.input.ty ∨ q.input.count ≠ p.input.count ∨ q.input.root ≠ p.input.root)

/-- One element of the result, from the participants' elements in index order. -/
def collElement (op ty rm root : Nat) (vs : List Dword) : Dword :=
  let f := if ty = 2 then fmtF32 else if ty = 3 then fmtBf16 else fmtF16
  let fold := fun (g : Dword → Dword → Dword) => vs.tail.foldl g (vs.headD 0)
  let less := fun (a b : Dword) => if ty = 0 then a.slt b else a.ult b
  let pick := fun (big : Bool) =>
    BitVec.ofNat 64 (f.round 0 ((vs.tail.map fun v => f.decode v.toNat).foldl (Num.minMax big) (f.decode (vs.headD 0).toNat))).1
  match op with
  | 0 => if ty < 2 then fold (· + ·) else BitVec.ofNat 64 (treeSum f rm 64 (vs.map BitVec.toNat)).1
  | 1 => if ty < 2 then fold fun a b => if less a b then b else a else pick true
  | 2 => if ty < 2 then fold fun a b => if less b a then b else a else pick false
  | _ => vs.getD root 0

/-- The result's bytes. -/
def collResult (l : List CollPart) : List Byte :=
  match inOrder l with
  | [] => []
  | p :: ps =>
    let i := p.input
    (List.range i.count).flatMap fun j =>
      bytesOfBits (collElement i.op i.ty i.rm.toNat i.root ((p :: ps).map fun q => q.input.data.getD j 0)) (collSize i.ty)

/-- Whether an entry of a GROUP table names a core of a device in the load-store domain. -/
def State.inDomain (s : State) (e : Dword) : Bool :=
  let dev := e.toNat % 8
  let port := (dev + 8 - s.page.devnum.toNat) % 8
  decide (e.toNat < 4096) && validCore (e.toNat / 8) && (port == 0 || (s.ports.contains port && s.linkIde.contains port))

/-- The opcode-specific bytes of COLL break R418. -/
def collBroken (r : BitVec 512) : Bool :=
  let n := recordField r 39 1
  let count := recordField r 32 4
  decide (count = 0 ∨ 2 ^ 24 < count ∨ 3 < recordField r 36 1 ∨ 4 < recordField r 37 1 ∨ n < 2 ∨ 64 < n)
    || (recordField r 36 1 == 3 && decide (n ≤ recordField r 38 1)) || recordField r 52 4 != 0

/-- The status of a range that must lie in H-space. -/
def Reach.hStatus (r : Reach) (use : Access) (va : Dword) (n : Nat) : Nat := if !inH va then 3 else r.status use va n

/-- The participant that a command stands for. -/
def State.partOf (s : State) (core : CoreId) (i : Fin 17) (seq : BitVec 32) : Option CollPart :=
  s.colls.find? fun p => decide (p.cmd = some (core, i.val, seq))

/-- A participant's command has ended; once no command of this device waits for the collective it is forgotten. -/
def State.leaveColl (s : State) (core : CoreId) (i : Fin 17) (seq : BitVec 32) (c : CollInput) : State :=
  let colls := s.colls.map fun p => if p.cmd = some (core, i.val, seq) then { p with cmd := none } else p
  let done := (colls.filter fun p => sameColl p.input c).all fun p => p.cmd.isNone
  { s with colls := if done then colls.filter fun p => !sameColl p.input c else colls }

/-- The command of a participant goes on: once every participant has arrived it writes its output, or ends with status 7. -/
def State.collFinish (core : CoreId) (i : Fin 17) (s : State) (k : Cmd) : Option State :=
  match s.partOf core i k.seq with
  | none => none
  | some p =>
    let l := s.members p.input
    if l.length < p.input.group.length then none
    else
      let ended := fun (s : State) =>
        if (s.chain core i).cmds.any fun e => decide (e.seq = k.seq) && e.finished then s.leaveColl core i k.seq p.input else s
      if collDisagree l || l.any fun q => q.failed ≠ 0 then some (ended (s.finishCmd core i k 7))
      else
        ((s.engineWrite (s.cmdReach core i k) (ownerOf core i k) (recordAddr k.record 24) ((collResult l).map some) false).then core i k
          fun _ s => some (s.finishCmd core i k 0)).map ended

/-- A participant is listed; a collective that is complete and for which no command of this device waits is forgotten. -/
def State.addPart (s : State) (p : CollPart) : State :=
  let colls := s.colls ++ [p]
  let l := colls.filter fun q => sameColl q.input p.input
  { s with colls := if decide (p.input.group.length ≤ l.length) && l.all fun q => q.cmd.isNone then
      colls.filter fun q => !sameColl q.input p.input else colls }

/-- The participant of a command arrives, with its input or with the status that its own command ends with. DEDUCED (log 50). -/
def State.joinColl (s : State) (core : CoreId) (i : Fin 17) (k : Cmd) (c : CollInput) (failed : Nat) : State :=
  if failed = 0 then
    (s.addPart { cmd := some (core, i.val, k.seq), input := c, arrived := s.devTime }).modCmd core i k.seq
      fun k => { k with stage := .handed }
  else
    (s.addPart { cmd := none, input := c, arrived := s.devTime, failed := failed }).finishCmd core i k failed

/-- A running COLL goes on: its record, its GROUP table, its input. DEDUCED (log 50). -/
def State.collStep (core : CoreId) (i : Fin 17) (s : State) (k : Cmd) : Option State :=
  if !k.read then
    s.readRecord core i k fun r s =>
      let reach := s.cmdReach core i k
      let crec := recordAddr r 56
      let bad := reach.crecStatus crec
      let status := if collBroken r then 1
        else firstStatus [reach.hStatus .load (recordAddr r 40) (8 * recordField r 39 1), bad]
      let s := s.modCmd core i k.seq fun k => { k with record := r, crec := crec, read := true, ready := s.now + 1 }
      if status ≠ 0 then some (s.finishCmd core i k status) else some s
  else if (s.partOf core i k.seq).isSome then State.collFinish core i s k
  else
    let r := k.record
    let reach := s.cmdReach core i k
    let own := ownerOf core i k
    let n := recordField r 39 1
    let ty := recordField r 37 1
    let count := recordField r 32 4
    let size := count * collSize ty
    (s.engineRead reach own (recordAddr r 40) (8 * n)).then core i k fun g s =>
      if g.poisoned.isSome then some (s.finishCmd core i k 4)
      else
        let group : List Dword := (List.range n).map fun j => bitsOfBytes 64 ((g.bytes.drop (8 * j)).take 8)
        if !group.all s.inDomain then some (s.finishCmd core i k 7)
        else
          let me : Dword := BitVec.ofNat 64 (s.page.devnum.toNat + 8 * core)
          let base : CollInput :=
            { group := group, index := 0, op := recordField r 36 1, ty := ty, count := count, root := recordField r 38 1,
              tag := BitVec.ofNat 32 (recordField r 48 4), rm := k.rm, data := [] }
          let taken := (s.members base).map fun p => p.input.index
          match (List.range n).find? fun j => decide (group[j]? = some me) && !taken.contains j with
          | none => some (s.finishCmd core i k 1)
          | some j =>
            let c := { base with index := j }
            let status := firstStatus [reach.hStatus .load (recordAddr r 16) size, reach.hStatus .store (recordAddr r 24) size]
            if status ≠ 0 then some (s.joinColl core i k c status)
            else
              (s.engineRead reach own (recordAddr r 16) size).then core i k fun g s =>
                if g.poisoned.isSome then some (s.joinColl core i k c 4)
                else
                  let data := (List.range count).map fun j => bitsOfBytes 64 ((g.bytes.drop (collSize ty * j)).take (collSize ty))
                  some (s.joinColl core i k { c with data := data } 0)

/-- A step of COLL on a chain: a command that runs, or one that waits for its collective. -/
def State.collEvent (s : State) (core : CoreId) (chain : Nat) : Option State :=
  (s.chainEvent core chain 8 State.collStep).orElse fun _ =>
    if h : chain < 17 then
      let i : Fin 17 := ⟨chain, h⟩
      if s.chainRuns core i then
        ((s.chain core i).cmds.filter fun k => decide (k.op = 8) && decide (k.stage = .handed) && !k.finished).findSome? fun k =>
          State.collFinish core i s k
      else none
    else none

/-- COLL. -/
def execColl (core : CoreId) (chain : Nat) (s : State) : Result := .next ((s.collEvent core chain).getD s)

/-- Whether a collective lacks a participant when its timeout, from the first arrival, is over (R419). DEDUCED (log 50). -/
def State.collLate (s : State) (c : CollInput) : Bool :=
  let l := s.members c
  decide (l.length < c.group.length) && l.any fun p => decide (p.arrived + 1000 * s.page.collTimeout ≤ s.devTime)

/-- The collectives with a tag that are late end: each of their commands with status 7. -/
def State.collExpire (s : State) (tag : Word) : Option State :=
  let late := fun (p : CollPart) => decide (p.input.tag = tag) && s.collLate p.input
  let gone := s.colls.filter late
  if gone.isEmpty then none
  else
    let s' : State := { s with colls := s.colls.filter fun p => !late p }
    some (gone.foldl (fun s p => match p.cmd with
      | some (core, chain, seq) =>
        if h : chain < 17 then
          match (s.chain core ⟨chain, h⟩).cmds.find? fun k => decide (k.seq = seq) with
          | some k => s.finishCmd core ⟨chain, h⟩ k 7
          | none => s
        else s
      | none => s) s')

/-- COLL_TIMEOUT_EXPIRY. -/
def execCollTimeoutExpiry (tag : Word) (s : State) : Result := .next ((s.collExpire tag).getD s)

/-- COLL_PEER_CONTRIBUTION: a participant of another device arrives, once, at its own entry. -/
def execCollPeerContribution (part : CollInput) (s : State) : Result :=
  .next (
    let mine := match part.group[part.index]? with
      | some e => decide (e.toNat % 8 = s.page.devnum.toNat)
      | none => true
    if !s.answers || mine || (s.members part).any fun p => decide (p.input.index = part.index) then s
    else s.addPart { cmd := none, input := part, arrived := s.devTime })

end Sys2Proof.Machine
end

