-- ==== Sys2Proof/Machine/Module.lean ====
section
/-! DEFINITION. The module: links, time, thermal levels and power, uncorrectable errors and fences, boot, attestation, reset
(17 R365 to R367, 18 R392, R394, 21 R416, R417, R423, R428 to R435). -/

namespace Sys2Proof.Machine

/-! ## Harts that are not resident -/

/-- The columns that a cluster keeps for harts that are not resident, those that p names, are cleared once it can (07 R164, R180). -/
def Cluster.unmark (c : Cluster) (now : Nat) (p : Band → Bool) : Cluster :=
  { c with clears := c.clears ++ (c.marks.filter p).map (fun (b : Band) => { b with since := now }), marks := c.marks.filter fun b => !p b }

/-- A team of a launch is fenced: its harts are marked failed wherever they are, and it does not retire (21 R417). -/
def State.fenceTeam (s : State) (n team status : Nat) : State :=
  let s := (s.teamHarts n team).foldl (fun s h => s.failHart h status) s
  let mine := fun (t : Hart) => decide (t.launch = n) && decide (t.team = team)
  let ctx := ((s.launches.get? n).map Launch.ctx).getD 0
  let away := (s.awayHarts ctx).filter fun e => mine e.2
  let s := away.foldl (fun s e => s.modCluster (clusterOfHart e.1) fun c =>
    c.unmark s.now fun b => decide (b.ctx = ctx) && decide (b.slot = slotOfHart e.1)) s
  let s := { s with
    clusters := s.clusters.map fun (e : Nat × Cluster) => (e.1, { e.2 with bank := e.2.bank.filter fun b => !mine b.2 })
    ctxStates := s.ctxStates.map fun (e : Nat × CtxState) => (e.1, { e.2 with harts := e.2.harts.filter fun h => !mine h.2 }) }
  let s := if away.isEmpty then s else (s.modCtx ctx fun c => { c with failures := c.failures + away.length }).restTwins ctx
  s.modLaunch n fun l =>
    { l with status := if l.status = 0 then status else l.status, teams := l.teams.filter fun t => decide (t.num ≠ team) }

/-- A hart in a shadow bank is marked failed. -/
def State.failBanked (s : State) (t : Hart) (status : Nat) : State :=
  let s := s.modLaunch t.launch fun l => { l with status := if l.status = 0 then status else l.status }
  let s := s.modCtx t.ctx fun c => { c with failures := c.failures + 1 }
  let s := s.modTeam t.launch t.team fun v => { v with live := v.live - 1, failed := true }
  match s.team? t.launch t.team with
  | none => s
  | some v =>
    let s := if 0 < v.arrived then s.breakPhase t.launch t.team 1 else s
    if v.live = 0 then s.modLaunch t.launch fun l => { l with teams := l.teams.filter fun e => decide (e.num ≠ t.team) } else s

/-! ## Links (R416, R417) -/

/-- The far side of a launch: the teams whose die pair's XY route to the home crosses a link. -/
def Launch.farTeams (l : Launch) (p q : Nat) : List Team :=
  match l.home with
  | none => []
  | some h => l.teams.filter fun t => crosses p q (routeXY (pairOfCore t.core) h)

/-- The stores in flight that no route is left for: each is past the link already, a free choice, or is dropped, so that the
next release of its hart that waits for it raises UCE (R416). DEDUCED (log 51). -/
def State.dropStranded (s : State) : State :=
  s.flight.foldl (fun s f =>
    if s.reaches f.core (8 * f.word) then s
    else
      let c := s.choose 2
      if c.1 = 0 then c.2
      else
        let s : State := { c.2 with flight := c.2.flight.erase f }
        if s.resident f.hart then s.modHart f.hart fun t => { t with lost := t.lost.or (some f.va) } else s) s

/-- A Causeway link is declared down: flits that no route is left for fail, and the far side of every running launch is fenced with status 6.
DEDUCED (log 51). -/
def State.linkDown (s : State) (p q : Nat) : State :=
  let s := ({ s with downLinks := s.downLinks ++ [(p, q)] } : State).dropStranded
  s.launches.foldl (fun s e =>
    let far := e.2.farTeams p q
    let s := far.foldl (fun s t => s.fenceTeam e.1 t.num 6) s
    s.modLaunch e.1 fun l =>
      { l with bitmap := l.bitmap ||| BitVec.ofNat 16 (bitsOf (fun b => far.any fun t => decide (pairOfCore t.core = b)) 16) }) s

/-- Whether two die pairs are neighbours (R415). -/
def neighbours (p q : Nat) : Bool :=
  decide (p < 16 ∧ q < 16) && ((routeXY p q).length == 2)

/-- LINK_DOWN. -/
def execLinkDown (p q : Nat) (s : State) : Result :=
  .next (if !neighbours p q || s.downLinks.contains (p, q) || s.downLinks.contains (q, p) then s else s.linkDown p q)

/-! ## Time (R423) -/

/-- PTM_EXCHANGE: device time is within 20 ns of the host's time base, anywhere there. DEDUCED (log 51). -/
def execPtmExchange (time : Nat) (s : State) : Result :=
  .next (
    let c := s.choose 41
    let t := time + c.1 - 20
    { c.2 with devTime := t, lastPtm := some t })

/-- TSYNC_EXPIRY: the last exchange is 10 ms old. -/
def execTsyncExpiry (s : State) : Result :=
  .next (if s.lastPtm.isSome && !s.tsync then { s with lastPtm := none } else s)

/-! ## Thermal levels and power (R433 to R435) -/

/-- The clusters of a die. -/
def clustersOfDie (d : Nat) : List ClusterKey := (List.range Config.coresPerDie).flatMap fun c => clustersOf (16 * d + c)

/-- One more suppressed clock edge, up to 0x3F. -/
def nextSkip (b : Byte) : Byte := (2 * b + 1) &&& 0x3F

/-- Changes what the controller asks of every cluster of a die, where it may take effect at once. DEDUCED (log 52). -/
def State.throttle (s : State) (d : Nat) (f : Cluster → Cluster) : State :=
  (clustersOfDie d).foldl (fun s k => (s.modCluster k f).applyLane k) s

/-- A step of the hot level: 8 arrays, then 4. DEDUCED (log 52). -/
def Cluster.hotStep (c : Cluster) : Cluster := { c with thermalLane := min 2 (c.thermalLane + 1) }
/-- A step of the warm level. DEDUCED (log 52). -/
def Cluster.warmStep (c : Cluster) : Cluster := { c with thermalSkip := nextSkip c.thermalSkip }

/-- THERMAL_LEVEL_CHANGE: a die reports a level; at the same level again the controller takes a further step. -/
def execThermalLevelChange (die : Nat) (level : Thermal) (s : State) : Result :=
  .next (
    if 32 ≤ die then s
    else
      let s := { s with thermal := s.thermal.set? die (if level = Thermal.normal then none else some level) }
      let calm := s.thermal.all fun e => decide (e.2 ≠ Thermal.critical)
      let s := if calm then { s with emergencySave := false } else s
      match level with
      | .normal => s.throttle die fun c => { c with thermalLane := 0, thermalSkip := 0 }
      | .warm => s.throttle die Cluster.warmStep
      | .hot => s.throttle die Cluster.hotStep
      | .critical =>
        ((s.throttle die fun c => { c with thermalLane := 2, thermalSkip := 0x3F }).trigger 2 0x1FF).beginEmergency)

/-- A step of the power limit: the warm steps, then the hot ones, and none beyond. DEDUCED (log 52). -/
def Cluster.powerStep (c : Cluster) : Cluster := if c.thermalSkip = 0x3F then c.hotStep else c.warmStep

/-- PLIMIT_EXCEEDED: a warm or hot step on every die, the highest consumers first (R435). DEDUCED (log 52). -/
def execPlimitExceeded (s : State) : Result :=
  .next (
    let draw := fun (d : Nat) => Config.dieDraw d (s.devTime / 1000)
    (sortBy (fun a b => decide (draw b ≤ draw a)) (List.range 32)).foldl (fun s d => s.throttle d Cluster.powerStep)
      { s with powerCapped := true })

/-! ## Uncorrectable errors and fences (17 R365 to R367) -/

/-- A cluster is fenced: its harts are marked failed, those in its shadow bank too where no area holds them. DEDUCED (log 49).
-/
def State.fenceCluster (s : State) (k : ClusterKey) : State :=
  let core := coreOfCluster k
  let banked := (s.cluster k).bank.filter fun b => !(s.ctxState b.2.ctx).saved
  let s := s.modCluster k fun c =>
    { (c.unmark s.now fun _ => true) with fenced := true, bank := c.bank.filter fun b => (s.ctxState b.2.ctx).saved }
  let s := banked.foldl (fun s b => (s.failBanked b.2 4).restTwins b.2.ctx) s
  let s := ((s.harts.filter fun e => decide (clusterOfHart e.1 = k)).map Prod.fst).foldl (fun s h => s.failHart h 4) s
  (s.trigger 3 core).postEvent core { kind := 8, master := 0, ctx := 0, value := BitVec.ofNat 64 (k % 8), pc := 0, x := 9 }

/-- Contexts that have chains or matrix work on a core; context 0 has the system chain. -/
def CoreState.contexts (v : CoreState) : List Nat :=
  (v.chains.toList.filterMap Chain.ctx ++ (v.queue ++ v.frozenMmas).map MatEntry.ctx
    ++ v.drainLog.map DrainEntry.ctx).dedup

/-- The engines of a core are fenced. DEDUCED (log 49). -/
def State.fenceEngines (s : State) (core : CoreId) : State :=
  let s := (s.modCore core fun v => { v with fenced := true }).trigger 3 core
  (s.core core).contexts.foldl (fun s c =>
    let m : BitVec 16 := BitVec.ofNat 16 (4096 + c)
    ((s.modCtx c fun v => { v with frozenMaster := v.frozenMaster.or (some m) }).failCopy core c false).failMatrix core c) s

/-- The oldest started entry of a core's matrix queue ends with an error. -/
def State.matrixError (s : State) (core : CoreId) (addr : Dword) : State :=
  let v := s.core core
  match v.queue.findIdx? fun e => e.started with
  | none => s
  | some n =>
    match v.queue[n]? with
    | none => s
    | some e => (s.entryError core e causeUce addr 4).dropEntry core n

/-- UNCORRECTABLE_ERROR. -/
def execUncorrectableError (site : ErrorSite) (s : State) : Result :=
  .next (match site with
    | .l1Line core line =>
      { s with l1 := s.l1.filter fun e => !(decide (e.1 / 2 ^ 64 = core) && decide (e.1 % 2 ^ 64 / 16 = line)) }
    | .homeLine line =>
      if 128 * line + 128 ≤ Config.hbmBytes ∧ ¬ s.poison.contains line then { s with poison := s.poison ++ [line] } else s
    | .matrixRead core addr => s.matrixError core addr
    | .spillRead ctx => s.failContext ctx 4
    | .clusterState k => if validCore (coreOfCluster k) && !(s.cluster k).fenced then s.fenceCluster k else s
    | .engineState core => if validCore core && !(s.core core).fenced then s.fenceEngines core else s)

/-! ## Reset and power (07 R165, 18 R394, 21 R432) -/

/-- The module after device reset from a state: HBM keeps its bytes, the key slots are empty, a module in recovery stays there (R430), and
what lies outside the device goes on. DEDUCED (log 15). DESIGN CHOICE (log 31). DEDUCED (log 53). -/
def State.afterReset (s : State) : State :=
  { State.reset with
    choice := s.choice, inputs := s.inputs, cur := s.cur
    mem := s.mem.filter fun e => isHome e.1 || isOutside e.1
    poison := s.poison.filter fun l => isHome (128 * l)
    lineKeys := s.lineKeys, incoming := s.incoming, reading := s.reading
    page := { boot := if s.page.boot.toNat < 0x80 then 0 else s.page.boot }
    measurements := s.measurements, ports := s.ports, linkIde := s.linkIde, selectiveIde := s.selectiveIde, spdm := s.spdm }

/-- DEVICE_RESET. -/
def execDeviceReset (s : State) : Result := .next s.afterReset

/-- The module without power: only what lies outside it is left. DEDUCED (log 15). DEDUCED (log 53). -/
def State.dark (s : State) : State :=
  { State.reset with powered := false, choice := s.choice, inputs := s.inputs, cur := s.cur, mem := s.mem.filter fun e => isOutside e.1 }

/-- HARD_TRIP. -/
def execHardTrip (s : State) : Result := .next s.dark

/-! ## Boot (R430) -/

/-- Boot over images from number n on: the measurement registers and BOOT. DEDUCED (log 53). -/
def bootImages (n : Nat) (m : Vector (BitVec 512) 8) : List BootImage → Vector (BitVec 512) 8 × Byte
  | [] => (m, if n = 0 then 0x82 else 0x01)
  | i :: is =>
    let d := sha512 i.bytes
    if !i.readable then (m, 0x82)
    else if !verifyP521 d i.signature then (m, 0x80)
    else if i.version < Config.fusedVersion then (m, 0x81)
    else
      let r := min 7 n
      let old := m.getD r 0
      bootImages (n + 1) (m.setIfInBounds r (sha512 (bytesOfBits old 64 ++ bytesOfBits d 64))) is

/-- POWER_ON: power comes to a module without it, or a module that boots goes on; its images are verified and measured. DEDUCED
(log 53). PRESUMED (log 63). -/
def execPowerOn (images : List BootImage) (s : State) : Result :=
  .next (
    if s.powered && decide (s.page.boot ≠ 0) then s
    else
      let b := bootImages 0 (Vector.replicate 8 0) images
      { s with powered := true, measurements := b.1, page := { s.page with boot := b.2 } })

/-! ## Attestation (R431) -/

/-- The answer to a request: in SPDM 1.3, NEGOTIATE_ALGORITHMS with the algorithms of R431, GET_MEASUREMENTS with the measurement registers;
ERROR where the session does not allow the request. What else it holds is a free value. DESIGN CHOICE (log 12). -/
def spdmAnswerTo (code : Nat) (args : List Byte) (ok : Bool) (m : List (BitVec 512)) : SpdmAnswer :=
  { code := if ok then code - 0x80 else 0x7F
    algorithms := if ok ∧ code = 0xE3 then [.ecdsaP521, .sha512] else []
    measurements := if ok ∧ code = 0xE0 then m else []
    rest := Config.spdmAnswer code (args ++ [if ok then 1 else 0]) m }

/-- Port 0 answers an SPDM request. -/
def spdmRequest (code : Nat) (args : List Byte) (ok : Spdm → Bool) (f : Spdm → Spdm) (s : State) : Result :=
  hostEvent s fun s =>
    let v := if ok s.spdm then f s.spdm else s.spdm
    { s with spdm := { v with answer := some (spdmAnswerTo code args (ok s.spdm) s.measurements.toList) } }

/-- GET_VERSION: opens a connection afresh. DESIGN CHOICE (log 12). -/
def execGetVersion (s : State) : Result := spdmRequest 0x84 [] (fun _ => true) (fun v => { v with versioned := true, capable := false, negotiated := false }) s
/-- GET_CAPABILITIES. -/
def execGetCapabilities (s : State) : Result := spdmRequest 0xE1 [] Spdm.versioned (fun v => { v with capable := true }) s
/-- NEGOTIATE_ALGORITHMS. -/
def execNegotiateAlgorithms (s : State) : Result := spdmRequest 0xE3 [] Spdm.capable (fun v => { v with negotiated := true }) s
/-- GET_DIGESTS. -/
def execGetDigests (s : State) : Result := spdmRequest 0x81 [] Spdm.negotiated id s
/-- GET_CERTIFICATE. -/
def execGetCertificate (slot : Nat) (s : State) : Result := spdmRequest 0x82 (leBytes 1 slot) Spdm.negotiated id s
/-- CHALLENGE. -/
def execChallenge (nonce : BitVec 256) (s : State) : Result := spdmRequest 0x83 (bytesOfBits nonce 32) Spdm.negotiated id s
/-- GET_MEASUREMENTS. -/
def execGetMeasurements (nonce : BitVec 256) (s : State) : Result := spdmRequest 0xE0 (bytesOfBits nonce 32) Spdm.negotiated id s
/-- KEY_EXCHANGE. -/
def execKeyExchange (exchange : List Byte) (s : State) : Result :=
  spdmRequest 0xE4 exchange Spdm.negotiated (fun v => { v with keyed := true, secured := false }) s
/-- FINISH: the session is secured where its verify data is right. -/
def execFinish (verify : List Byte) (s : State) : Result :=
  spdmRequest 0xE5 verify (fun v => v.keyed && Config.spdmVerify verify) (fun v => { v with secured := true }) s
/-- IDE_KM: keys for port 0, inside the session. The first byte names the stream: 0 the link stream, n + 1 the selective stream of function
n. DESIGN CHOICE (log 12). -/
def execIdeKm (keys : List Byte) (s : State) : Result :=
  hostEvent s fun s =>
    let ok := s.spdm.secured && decide (keys ≠ [])
    let u := match keys with
      | [] => s
      | k :: _ =>
        if !ok then s
        else if k = 0 then s.protectLink 0
        else { s with selectiveIde := if s.selectiveIde.contains (k.toNat - 1) then s.selectiveIde else s.selectiveIde ++ [k.toNat - 1] }
    { u with spdm := { s.spdm with answer := some (spdmAnswerTo 0xFE keys ok s.measurements.toList) } }

/-- What the management controller asks the I3C target for (R431). -/
inductive I3cReading where
  | measurement (n : Nat)
  | temperature (die : Nat)
  | power
deriving DecidableEq, Repr

/-- What the I3C target answers: the measurement registers that port 0 gives, a die's temperature, and the module's power, of which the
manual gives no value. DESIGN CHOICE (log 12). -/
def State.i3cRead (s : State) : I3cReading → BitVec 512
  | .measurement n => s.measurements.getD n 0
  | .temperature d => BitVec.ofNat 512 (Config.dieTemperature d (s.devTime / 1000))
  | .power => BitVec.ofNat 512 (((List.range 32).map fun d => Config.dieDraw d (s.devTime / 1000)).sum)

end Sys2Proof.Machine
end

