-- ==== Sys2Proof/Machine/Search.lean ====
section
/-! DEFINITION. Compares, queries, row movement and tables (chapter 06). -/

namespace Sys2Proof.Machine

/-! ## Compares into tags (R139 to R144) -/

/-- How a compare combines with the old tag (R141): set, and, or, andn. -/
def combine (c : BitVec 2) (old new : Bool) : Bool :=
  match c.toNat with
  | 0 => new
  | 1 => old && new
  | 2 => old || new
  | _ => old && !new

/-- The effect of a compare: tag t of each selected row combines its old value with the condition, and the flags of the
selected rows that are valid count. -/
def State.compareRows (s : State) (t : Tag) (c : BitVec 2) (m : BitVec 1) (n : Nat) (f : Nat → Bool × Flags) : State :=
  let s' := s.setTags s.me t.toNat s.rowbase n fun e =>
    if s.tagged m e then combine c (s.myTag t e) (f e).1 else s.myTag t e
  s'.raise ((s.range n).foldl (fun g e => if s.tagged m e && s.tgv s.me e then g ||| (f e).2 else g) 0)

/-- A compare over n rows: its operands, passes and condition with flags. -/
def compareWord (t : Tag) (c : BitVec 2) (m : BitVec 1) (n : Reg) (operands : List (VReg × (FieldDesc → Bool)))
    (passes : Nat) (f : State → Nat → Bool × Flags) (s : State) : Flow :=
  let k := (s.rx n).toNat
  s.array k operands passes fun s => s.compareRows t c m k (f s)

/-- An ordered or equality test by its name: 0 EQ, 1 NE, 2 LT, 3 LE, 4 GT, 5 GE, on integers. -/
def testInt (op : Nat) (a b : Int) : Bool :=
  match op with
  | 0 => decide (a = b)
  | 1 => decide (a ≠ b)
  | 2 => decide (a < b)
  | 3 => decide (a ≤ b)
  | 4 => decide (b < a)
  | _ => decide (b ≤ a)

/-- The same on numbers: a NaN is unordered, and an ordered test with one raises NV (R142, R143). -/
def testNum (op : Nat) (a b : Num) : Bool × Flags :=
  if a.isNan || b.isNan then (op == 1, if 2 ≤ op then flagNV else 0)
  else
    (match op with
     | 0 => a.eq b
     | 1 => !a.eq b
     | 2 => a.lt b
     | 3 => a.lt b || a.eq b
     | 4 => b.lt a
     | _ => b.lt a || a.eq b, 0)

/-- Integer or float. -/
def intOrFloat (x : FieldDesc) : Bool := !x.isF4b

/-- VCMP: two fields. Where va and vb each pass alone and mix integer and float, or two float types, FIELD names vb.
DESIGN CHOICE (log 64). -/
def cmpFields (op : Nat) (t : Tag) (c : BitVec 2) (a b : VReg) (n : Reg) (m : BitVec 1) (s : State) : Flow :=
  let da := s.fieldOf a
  let db := s.fieldOf b
  let w := max da.w db.w + (if da.signed == db.signed then 0 else 1)
  let passes := if da.isInt then (if op ≤ 1 then 2 * w else 2 * w + 1) else (if op ≤ 1 then 2 * da.w + 4 else 2 * da.w + 6)
  compareWord t c m n [(a, intOrFloat), (b, fun x => if da.isInt then x.isInt else x.type == da.type)] passes
    (fun s e => if da.isInt then (testInt op (s.ival da e) (s.ival db e), 0) else testNum op (s.fval da e) (s.fval db e)) s

/-- VCMPX: a field and a scalar key. -/
def cmpScalar (op : Nat) (t : Tag) (c : BitVec 2) (a : VReg) (b n : Reg) (m : BitVec 1) (s : State) : Flow :=
  let da := s.fieldOf a
  let k := s.rx b
  let passes := if da.isInt then (if op ≤ 1 then 1 else da.w + 1) else (if op ≤ 1 then 3 else da.w + 4)
  compareWord t c m n [(a, intOrFloat)] passes
    (fun s e =>
      if da.isInt then (testInt op (s.ival da e) (da.key k), 0)
      else testNum op (s.fval da e) (da.fmt.decode (k.toNat % 2 ^ da.w))) s

/-- EQ. -/
def execEq (t : Tag) (c : BitVec 2) (a b : VReg) (n : Reg) (m : BitVec 1) (s : State) : Result :=
  .next (runWord (.eq t c a b n m) (cmpFields 0 t c a b n m) s)
/-- NE. -/
def execNe (t : Tag) (c : BitVec 2) (a b : VReg) (n : Reg) (m : BitVec 1) (s : State) : Result :=
  .next (runWord (.ne t c a b n m) (cmpFields 1 t c a b n m) s)
/-- LT. -/
def execLt (t : Tag) (c : BitVec 2) (a b : VReg) (n : Reg) (m : BitVec 1) (s : State) : Result :=
  .next (runWord (.lt t c a b n m) (cmpFields 2 t c a b n m) s)
/-- LE. -/
def execLe (t : Tag) (c : BitVec 2) (a b : VReg) (n : Reg) (m : BitVec 1) (s : State) : Result :=
  .next (runWord (.le t c a b n m) (cmpFields 3 t c a b n m) s)
/-- GT. -/
def execGt (t : Tag) (c : BitVec 2) (a b : VReg) (n : Reg) (m : BitVec 1) (s : State) : Result :=
  .next (runWord (.gt t c a b n m) (cmpFields 4 t c a b n m) s)
/-- GE. -/
def execGe (t : Tag) (c : BitVec 2) (a b : VReg) (n : Reg) (m : BitVec 1) (s : State) : Result :=
  .next (runWord (.ge t c a b n m) (cmpFields 5 t c a b n m) s)
/-- ISNZ: some bit of an integer or f4b, or a float that is not a zero. -/
def execIsnz (t : Tag) (c : BitVec 2) (a : VReg) (n : Reg) (m : BitVec 1) (s : State) : Result :=
  .next (runWord (.isnz t c a n m) (fun s =>
    let da := s.fieldOf a
    compareWord t c m n [(a, fun _ => true)] (if da.isFloat then 2 else 1)
      (fun s e => (if da.isFloat then !(s.fval da e).eq (.fin false 0 0) else decide (s.raw da e ≠ 0), 0)) s) s)
/-- EQX. -/
def execEqx (t : Tag) (c : BitVec 2) (a : VReg) (b n : Reg) (m : BitVec 1) (s : State) : Result :=
  .next (runWord (.eqx t c a b n m) (cmpScalar 0 t c a b n m) s)
/-- NEX. -/
def execNex (t : Tag) (c : BitVec 2) (a : VReg) (b n : Reg) (m : BitVec 1) (s : State) : Result :=
  .next (runWord (.nex t c a b n m) (cmpScalar 1 t c a b n m) s)
/-- LTX. -/
def execLtx (t : Tag) (c : BitVec 2) (a : VReg) (b n : Reg) (m : BitVec 1) (s : State) : Result :=
  .next (runWord (.ltx t c a b n m) (cmpScalar 2 t c a b n m) s)
/-- LEX. -/
def execLex (t : Tag) (c : BitVec 2) (a : VReg) (b n : Reg) (m : BitVec 1) (s : State) : Result :=
  .next (runWord (.lex t c a b n m) (cmpScalar 3 t c a b n m) s)
/-- GTX. -/
def execGtx (t : Tag) (c : BitVec 2) (a : VReg) (b n : Reg) (m : BitVec 1) (s : State) : Result :=
  .next (runWord (.gtx t c a b n m) (cmpScalar 4 t c a b n m) s)
/-- GEX. -/
def execGex (t : Tag) (c : BitVec 2) (a : VReg) (b n : Reg) (m : BitVec 1) (s : State) : Result :=
  .next (runWord (.gex t c a b n m) (cmpScalar 5 t c a b n m) s)
/-- MATCH: a ternary compare of the raw bits under kmask. -/
def execMatchKey (t : Tag) (c : BitVec 2) (a : VReg) (b n : Reg) (m : BitVec 1) (s : State) : Result :=
  .next (runWord (.matchKey t c a b n m) (fun s =>
    let da := s.fieldOf a
    let k := (s.rx b).toNat
    let care := complement64 s.self.csr.kmask.toNat % 2 ^ da.w
    compareWord t c m n [(a, fun _ => true)] 1
      (fun s e => (decide ((s.raw da e ^^^ k) &&& care = 0), 0)) s) s)
/-- RANGE: k0 ≤ a < k1, with k1 from the next register. -/
def execRangeKey (t : Tag) (c : BitVec 2) (a : VReg) (b n : Reg) (m : BitVec 1) (s : State) : Result :=
  .next (runWord (.rangeKey t c a b n m) (fun s =>
    let da := s.fieldOf a
    let k0 := s.rx b
    let k1 := s.rx (b + 1)
    compareWord t c m n [(a, intOrFloat)] (if da.isInt then 2 * da.w + 3 else 2 * da.w + 9)
      (fun s e =>
        if da.isInt then (decide (da.key k0 ≤ s.ival da e ∧ s.ival da e < da.key k1), 0)
        else
          let x := s.fval da e
          let lo := testNum 3 (da.fmt.decode (k0.toNat % 2 ^ da.w)) x
          let hi := testNum 2 x (da.fmt.decode (k1.toNat % 2 ^ da.w))
          (lo.1 && hi.1, lo.2 ||| hi.2)) s) s)

/-! ## Queries (R145 to R150) -/

/-- Responders of a range. -/
def State.responders (s : State) (t : Tag) (n : Nat) : List Nat := (s.range n).filter fun e => s.myTag t e
/-- Candidates of a range. -/
def State.candidates (s : State) (t : Tag) (n : Nat) : List Nat := (s.responders t n).filter fun e => s.tgv s.me e
/-- Candidates whose value is no NaN. -/
def State.ranked (s : State) (t : Tag) (d : FieldDesc) (n : Nat) : List Nat :=
  (s.candidates t n).filter fun e => d.isInt || !(s.fval d e).isNan

/-- A value result in a scalar register (R146). -/
def FieldDesc.toScalar (d : FieldDesc) (v : Nat) : Dword := if d.isInt then BitVec.ofInt 64 (d.int v) else BitVec.ofNat 64 v

/-- A query: the value, the flags, and the new tag where it narrows; passes and latency (R148). -/
def queryWord (d : Reg) (t : Tag) (n : Reg) (operands : List (VReg × (FieldDesc → Bool))) (passes lat : Nat) (none_ : Dword)
    (f : State → Nat → Dword × Flags × Option (Nat → Bool)) (s : State) (late : Option Dword := none) : Flow :=
  let k := (s.rx n).toNat
  s.array k operands passes
    (fun s =>
      let r := f s k
      let s' := (s.raise r.2.1).resultAt d r.1 (s.now + passCycles passes (s.cluster s.myCluster).laneCode + lat) .query
      match r.2.2 with
      | some g => s'.setTags s.me t.toNat s.rowbase k g
      | none => s')
    (fun s => s.resultAt d none_ (s.now + 1)) late

/-- max(1, ⌈log2 n⌉). -/
def lambda1 (n : Nat) : Nat := max 1 (ceilLog2 n)

/-- VCOUNT. -/
def execVcount (d : Reg) (t : Tag) (n : Reg) (s : State) : Result :=
  .next (runWord (.vcount d t n) (queryWord d t n [] 1 14 0 fun s k =>
    (BitVec.ofNat 64 (s.responders t k).length, 0, none)) s)
/-- VANY. -/
def execVany (d : Reg) (t : Tag) (n : Reg) (s : State) : Result :=
  .next (runWord (.vany d t n) (queryWord d t n [] 1 2 0 fun s k =>
    (if (s.responders t k).isEmpty then 0 else 1, 0, none)) s)
/-- VFIRSTX. -/
def execVfirstx (d : Reg) (t : Tag) (n : Reg) (s : State) : Result :=
  .next (runWord (.vfirstx d t n) (queryWord d t n [] 1 14 (BitVec.allOnes 64) fun s k =>
    (match (s.responders t k).head? with
     | some e => BitVec.ofNat 64 (e - s.rowbase)
     | none => BitVec.allOnes 64, 0, none)) s)
/-- VEXTR. -/
def execVextr (d : Reg) (t : Tag) (v : VReg) (n : Reg) (s : State) : Result :=
  .next (runWord (.vextr d t v n) (fun s =>
    let dv := s.fieldOf v
    queryWord d t n [(v, fun _ => true)] (dv.w + 2) 2 0 (fun s k =>
      (match (s.responders t k).head? with
       | some e => dv.toScalar (s.raw dv e)
       | none => 0, 0, none)) s) s)
/-- VREDSUM. -/
def execVredsum (d : Reg) (t : Tag) (v : VReg) (n : Reg) (s : State) : Result :=
  .next (runWord (.vredsum d t v n) (fun s =>
    let dv := s.fieldOf v
    let k := (s.rx n).toNat
    queryWord d t n [(v, intOrFloat)] (if dv.isInt then dv.w else (k + 15) / 16 + 4)
      (if dv.isInt then 16 else 8 + 4 * lambda1 k) 0 (fun s k =>
        let c := s.candidates t k
        if dv.isInt then (BitVec.ofInt 64 (c.foldl (fun a e => a + s.ival dv e) 0), 0, none)
        else
          let leaves := c.map fun e => (dv.fmt.round s.rmode (s.fval dv e)).1
          let r := treeSum dv.fmt s.rmode 15 leaves
          (BitVec.ofNat 64 r.1, r.2, none)) s) s)

/-- The largest or smallest candidate value (R147). -/
def redMinMax (wantMax : Bool) (d : Reg) (t : Tag) (v : VReg) (n : Reg) (s : State) : Flow :=
  let dv := s.fieldOf v
  let k := (s.rx n).toNat
  queryWord d t n [(v, intOrFloat)] (if dv.isInt then 2 * dv.w + 1 else (k + 15) / 16 + 4)
    (if dv.isInt then 2 else 8 + 4 * lambda1 k) 0 (fun s k =>
      match s.candidates t k with
      | [] => (0, 0, none)
      | e :: c =>
        if dv.isInt then
          (BitVec.ofInt 64 (c.foldl (fun a e => if wantMax then max a (s.ival dv e) else min a (s.ival dv e)) (s.ival dv e)), 0, none)
        else
          let r := c.foldl (fun a e => Num.minMax wantMax a (s.fval dv e)) (s.fval dv e)
          (BitVec.ofNat 64 (dv.fmt.round 0 r).1, 0, none)) s

/-- VREDMAX. -/
def execVredmax (d : Reg) (t : Tag) (v : VReg) (n : Reg) (s : State) : Result :=
  .next (runWord (.vredmax d t v n) (redMinMax true d t v n) s)
/-- VREDMIN. -/
def execVredmin (d : Reg) (t : Tag) (v : VReg) (n : Reg) (s : State) : Result :=
  .next (runWord (.vredmin d t v n) (redMinMax false d t v n) s)

/-- The order key of R149. -/
def FieldDesc.orderKey (d : FieldDesc) (v : Nat) : Nat :=
  let w := d.w
  if d.type == 1 then v
  else if d.signed then v ^^^ 2 ^ (w - 1)
  else if v.testBit (w - 1) then 2 ^ w - 1 - v else v ^^^ 2 ^ (w - 1)

/-- The narrowing of R149 over key bits j − 1 to 0: rows are pairs of row and key. -/
def narrow (k : Nat) : Nat → List (Nat × Nat) → List (Nat × Nat) → List Nat
  | 0, cand, sure => sure.map (·.1) ++ (cand.take (k - sure.length)).map (·.1)
  | j + 1, cand, sure =>
    let t := cand.filter fun r => r.2.testBit j
    if k ≤ sure.length + t.length then narrow k j t sure
    else narrow k j (cand.filter fun r => !r.2.testBit j) (sure ++ t)

/-- VTOPK and VBOTK. -/
def topWord (top : Bool) (d : Reg) (t : Tag) (v : VReg) (n : Reg) (s : State) : Flow :=
  let dv := s.fieldOf v
  let len := (s.rx n).toNat
  let k := (s.rx d).toNat
  let passes := 3 * dv.w + min k len + 4 + (if dv.isInt then 0 else 2 * dv.w + 2)
  queryWord d t n [(v, intOrFloat)] passes 2 0 (fun s len =>
    let rows := (s.ranked t dv len).map fun e =>
      let key := dv.orderKey (s.raw dv e)
      (e, if top then key else 2 ^ dv.w - 1 - key)
    let keep := narrow k dv.w rows []
    let kept := rows.filter fun r => keep.contains r.1
    -- the value of the least key kept
    let least := kept.foldl (fun (a : Option (Nat × Nat)) r => match a with
      | some b => if r.2 < b.2 then some r else a
      | none => some r) none
    (match least with
     | some r => dv.toScalar (s.raw dv r.1)
     | none => 0, 0, some fun e => keep.contains e)) s (if 8192 < k then some (s.rx d) else none)

/-- VTOPK. -/
def execVtopk (d : Reg) (t : Tag) (v : VReg) (n : Reg) (s : State) : Result :=
  .next (runWord (.vtopk d t v n) (topWord true d t v n) s)
/-- VBOTK. -/
def execVbotk (d : Reg) (t : Tag) (v : VReg) (n : Reg) (s : State) : Result :=
  .next (runWord (.vbotk d t v n) (topWord false d t v n) s)
/-- VMAXLOC. -/
def execVmaxloc (d : Reg) (t : Tag) (v : VReg) (n : Reg) (s : State) : Result :=
  .next (runWord (.vmaxloc d t v n) (fun s =>
    let dv := s.fieldOf v
    queryWord d t n [(v, intOrFloat)] (2 * dv.w + 2 + (if dv.isInt then 0 else 2 * dv.w + 2)) 14 (BitVec.allOnes 64) (fun s k =>
      let best := (s.ranked t dv k).foldl (fun (a : Option Nat) e => match a with
        | some b => if dv.orderKey (s.raw dv b) < dv.orderKey (s.raw dv e) then some e else a
        | none => some e) none
      (match best with
       | some e => BitVec.ofNat 64 (e - s.rowbase)
       | none => BitVec.allOnes 64, 0, some fun e => best == some e)) s) s)

/-! ## Row movement, scans and similarity (R151 to R154) -/

/-- The effect of a word whose result row may take its tgv from another row: f answers the value, its flags, and the new tgv
of a selected row, read from the state before the word. -/
def State.moveRows (s : State) (d : VReg) (m : BitVec 1) (n : Nat) (f : Nat → Nat × Flags × Bool) : State :=
  let rows := (s.range n).filter fun e => s.tagged m e
  let out := rows.map fun e => (e, f e)
  let s' := out.foldl (fun t r => t.writeField d r.1 r.2.1) s
  let s' := s'.setTgvs s.me s.rowbase n fun e => if s.tagged m e then (f e).2.2 else s.tgv s.me e
  s'.raise (out.foldl (fun g r => if r.2.2.2 then g ||| r.2.2.1 else g) 0)

/-- A word that moves rows. -/
def moveWord (d : VReg) (n : Reg) (m : BitVec 1) (operands : List (VReg × (FieldDesc → Bool))) (passes : Nat)
    (f : State → Nat → Nat → Nat × Flags × Bool) (s : State) : Flow :=
  let k := (s.rx n).toNat
  s.array k operands passes fun s => s.moveRows d m k (f s k)

/-- The inclusive scan values of a list of rows: contributions combine by g, and a row that contributes nothing yet has
none (R153). -/
def scanRows (g : Int → Int → Int) : Option Int → List (Nat × Option Int) → List (Nat × Option Int)
  | _, [] => []
  | acc, (e, c) :: rest =>
    let acc' := match acc, c with
      | some a, some b => some (g a b)
      | none, some b => some b
      | a, none => a
    (e, acc') :: scanRows g acc' rest

/-- VSCANADD and VSCANMAX. -/
def scanWord (d a : VReg) (n : Reg) (m : BitVec 1) (cost : Nat → Nat) (g : Int → Int → Int) (start : FieldDesc → Int)
    (s : State) : Flow :=
  let dd := s.fieldOf d
  let da := s.fieldOf a
  let k := (s.rx n).toNat
  s.array k (s.withCopy d ruleI [(a, ruleI)]) (cost (max da.w dd.w) * lambda1 k) fun s =>
    let rows := (s.range k).filter fun e => s.tagged m e
    let vals := scanRows g none (rows.map fun e => (e, if s.tgv s.me e then some (s.ival da e) else none))
    s.forRows d m k fun e => plainRow (fitInt dd.w (((vals.find? fun r => decide (r.1 = e)).bind Prod.snd).getD (start da)))

/-- VSCANADD. -/
def execVscanadd (d a : VReg) (n : Reg) (m : BitVec 1) (s : State) : Result :=
  .next (runWord (.vscanadd d a n m) (scanWord d a n m (fun w => 4 * w + 3) (fun x y => x + y) fun _ => 0) s)
/-- VSCANMAX. -/
def execVscanmax (d a : VReg) (n : Reg) (m : BitVec 1) (s : State) : Result :=
  .next (runWord (.vscanmax d a n m) (scanWord d a n m (fun w => 6 * w + 3) (fun x y => max x y) fun t => t.range.1) s)
/-- VROWSH. -/
def execVrowsh (d a : VReg) (n : Reg) (m : BitVec 1) (s : State) : Result :=
  .next (runWord (.vrowsh d a n m) (fun s =>
    let dd := s.fieldOf d
    let da := s.fieldOf a
    moveWord d n m (s.withCopy d (fun _ => true) [(a, ruleB dd)]) (2 * dd.w + 2) (fun s _ e =>
      if e = s.rowbase then (0, 0, s.tgv s.me e) else (s.raw da (e - 1), 0, s.tgv s.me (e - 1))) s) s)
/-- VROWSHUP. -/
def execVrowshup (d a : VReg) (n : Reg) (m : BitVec 1) (s : State) : Result :=
  .next (runWord (.vrowshup d a n m) (fun s =>
    let dd := s.fieldOf d
    let da := s.fieldOf a
    moveWord d n m (s.withCopy d (fun _ => true) [(a, ruleB dd)]) (2 * dd.w + 2) (fun s k e =>
      if e + 1 = s.rowbase + k then (0, 0, s.tgv s.me e) else (s.raw da (e + 1), 0, s.tgv s.me (e + 1))) s) s)
/-- VIDX. -/
def execVidx (d : VReg) (n : Reg) (m : BitVec 1) (s : State) : Result :=
  .next (runWord (.vidx d n m) (fun s =>
    let dd := s.fieldOf d
    let k := (s.rx n).toNat
    s.array k (s.withCopy d ruleI []) (2 * dd.w) fun s =>
      s.forRows d m k fun e => plainRow ((e - s.rowbase) % 2 ^ dd.w)) s)
/-- VBCASTF. -/
def execVbcastf (d a : VReg) (n : Reg) (m : BitVec 1) (s : State) : Result :=
  .next (runWord (.vbcastf d a n m) (fun s =>
    let dd := s.fieldOf d
    let da := s.fieldOf a
    moveWord d n m (s.withCopy d (fun _ => true) [(a, ruleB dd)]) (2 * dd.w + 3) (fun s k e =>
      match s.firstRow k fun q => s.tag s.me 1 q with
      | some q => (s.raw da q, 0, s.tgv s.me q)
      | none => (0, 0, s.tgv s.me e)) s) s)
/-- VFTAG: bit 0 of the field from tg0, its other bits unchanged. -/
def execVftag (d : VReg) (n : Reg) (m : BitVec 1) (s : State) : Result :=
  .next (runWord (.vftag d n m) (fun s =>
    let dd := s.fieldOf d
    let k := (s.rx n).toNat
    s.array k (s.withCopy d (fun _ => true) []) 2 fun s =>
      s.forRows d m k fun e => plainRow (s.raw dd e / 2 * 2 + (if s.tag s.me 0 e then 1 else 0))) s)
/-- VTAGF: tg0 from bit 0 of the field. -/
def execVtagf (a : VReg) (n : Reg) (m : BitVec 1) (s : State) : Result :=
  .next (runWord (.vtagf a n m) (fun s =>
    let da := s.fieldOf a
    let k := (s.rx n).toNat
    s.array k [(a, fun _ => true)] 2 fun s =>
      s.setTags s.me 0 s.rowbase k fun e => if s.tagged m e then (s.raw da e).testBit 0 else s.tag s.me 0 e) s)

/-! ## Tables (R155 to R160) -/

/-- A table slot as the running hart may read it (R155). -/
def State.tableSlot (s : State) (l : BitVec 2) : Option (List Byte) :=
  match (s.cluster s.myCluster).tables.getD l.toNat none with
  | some t => if t.ctx = s.self.ctx then some t.data else none
  | none => none

/-- Two bytes of a table, little-endian. -/
def half (t : List Byte) (i : Nat) : Nat := (t.getD i 0).toNat + 256 * (t.getD (i + 1) 0).toNat

/-- Segments of a table that VTLI may use with a format (R157): the bound, slope and intercept of each. -/
def segments (t : List Byte) (type : Nat) : Option (List (Nat × Nat × Nat)) :=
  let n := (t.getD 0 0).toNat
  let f := (t.getD 1 0).toNat
  if n = 0 ∨ 63 < n ∨ f + 2 ≠ type then none
  else some ((List.range n).map fun i => (half t (8 + 8 * i), half t (10 + 8 * i), half t (12 + 8 * i)))

/-- The segment of R158: the largest i with x_i ≤ a, or 0. -/
def segmentOf (f : Fmt) (a : Num) (g : List (Nat × Nat × Nat)) : Nat :=
  ((List.range g.length).foldl (fun (r : Nat) i =>
    let x := f.decode (g.getD i (0, 0, 0)).1
    if x.lt a || x.eq a then i else r) 0)

/-- The interpolation of R158 before rounding. -/
def interpolate (f : Fmt) (mode : Nat) (g : List (Nat × Nat × Nat)) (a : Num) : Num × Flags :=
  if a.isNan then (.nan, 0)
  else
    let t := g.getD (segmentOf f a g) (0, 0, 0)
    Num.fma mode (f.decode t.2.1) a (f.decode t.2.2)

/-- VTLI. DESIGN CHOICE (log 64). -/
def execVtli (d a : VReg) (l : BitVec 2) (n : Reg) (m : BitVec 1) (s : State) : Result :=
  .next (runWord (.vtli d a l n m) (fun s =>
    let dd := s.fieldOf d
    let da := s.fieldOf a
    let g := (s.tableSlot l).bind fun t => segments t da.type.toNat
    let passes := match g with
      | some g => 2 * g.length * (da.w + 1) + costFma da
      | none => 2
    moveWord d n m (s.withCopy d (fun x => x.type == 2 || x.type == 3) [(a, fun x => x.type == dd.type)]) passes (fun s _ e =>
      match g with
      | some g =>
        let r := rounded dd s.rmode (interpolate da.fmt s.rmode g (s.fval da e))
        (r.1, r.2.1, s.tgv s.me e)
      | none => (0, 0, false)) s) s)

/-- Entry e of a packed table of w-bit entries (R159). -/
def tableEntry (t : List Byte) (w e : Nat) : Nat :=
  (List.range w).foldl (fun v j =>
    let i := e * w + j
    if ((t.getD (i / 8) 0).getLsbD (i % 8)) then v + 2 ^ j else v) 0

/-- VTLU. -/
def execVtlu (d a : VReg) (l : BitVec 2) (n : Reg) (m : BitVec 1) (s : State) : Result :=
  .next (runWord (.vtlu d a l n m) (fun s =>
    let dd := s.fieldOf d
    let da := s.fieldOf a
    let t := s.tableSlot l
    let entries := 4096 / dd.w
    let passes := if t.isSome then 2 * min entries (2 ^ da.w) + da.w + 3 else 2
    moveWord d n m (s.withCopy d (fun _ => true) [(a, ruleI)]) passes (fun s _ e =>
      let x := s.ival da e
      match t with
      | some t => if 0 ≤ x ∧ x < entries then (tableEntry t dd.w x.toNat, 0, s.tgv s.me e) else (0, 0, false)
      | none => (0, 0, false)) s) s)

/-- VSIMH: the number of bit positions in which two fields agree. -/
def execVsimh (d a b : VReg) (n : Reg) (m : BitVec 1) (s : State) : Result :=
  .next (runWord (.vsimh d a b n m) (fun s =>
    let dd := s.fieldOf d
    let da := s.fieldOf a
    let db := s.fieldOf b
    word2 d a b n m (fun x => x.type == 1) (fun _ => true) (ruleB da) (2 * da.w + da.w * (2 * dd.w + 1) + 2 * dd.w)
      (fun s e => plainRow ((da.w - onesCount (s.raw da e ^^^ s.raw db e) da.w) % 2 ^ dd.w)) s) s)

end Sys2Proof.Machine
end

