-- ==== Sys2Proof/Machine/Dispatch.lean ====
section
/-! DEFINITION. The dispatch of an instruction to its meaning, one arm per constructor. -/

namespace Sys2Proof.Machine

/-- The meaning of an instruction: one call per constructor. -/
def exec (i : Instr) (s : State) : Host.Outcome State Fault Refusal :=
  match i with
  | .pfx p im c r => Sys2Proof.Machine.execPfx p im c r s
  | .add d a b => Sys2Proof.Machine.execAdd d a b s
  | .sub d a b => Sys2Proof.Machine.execSub d a b s
  | .and d a b => Sys2Proof.Machine.execAnd d a b s
  | .or d a b => Sys2Proof.Machine.execOr d a b s
  | .xor d a b => Sys2Proof.Machine.execXor d a b s
  | .andn d a b => Sys2Proof.Machine.execAndn d a b s
  | .sll d a b => Sys2Proof.Machine.execSll d a b s
  | .srl d a b => Sys2Proof.Machine.execSrl d a b s
  | .sra d a b => Sys2Proof.Machine.execSra d a b s
  | .slt d a b => Sys2Proof.Machine.execSlt d a b s
  | .sltu d a b => Sys2Proof.Machine.execSltu d a b s
  | .min d a b => Sys2Proof.Machine.execMin d a b s
  | .max d a b => Sys2Proof.Machine.execMax d a b s
  | .minu d a b => Sys2Proof.Machine.execMinu d a b s
  | .maxu d a b => Sys2Proof.Machine.execMaxu d a b s
  | .csel d a b => Sys2Proof.Machine.execCsel d a b s
  | .mul d a b => Sys2Proof.Machine.execMul d a b s
  | .mulh d a b => Sys2Proof.Machine.execMulh d a b s
  | .mulhu d a b => Sys2Proof.Machine.execMulhu d a b s
  | .div d a b => Sys2Proof.Machine.execDiv d a b s
  | .divu d a b => Sys2Proof.Machine.execDivu d a b s
  | .rem d a b => Sys2Proof.Machine.execRem d a b s
  | .remu d a b => Sys2Proof.Machine.execRemu d a b s
  | .clz d a => Sys2Proof.Machine.execClz d a s
  | .ctz d a => Sys2Proof.Machine.execCtz d a s
  | .popc d a => Sys2Proof.Machine.execPopc d a s
  | .brev d a => Sys2Proof.Machine.execBrev d a s
  | .addi d a im => Sys2Proof.Machine.execAddi d a im s
  | .andi d a im => Sys2Proof.Machine.execAndi d a im s
  | .ori d a im => Sys2Proof.Machine.execOri d a im s
  | .xori d a im => Sys2Proof.Machine.execXori d a im s
  | .slti d a im => Sys2Proof.Machine.execSlti d a im s
  | .sltiu d a im => Sys2Proof.Machine.execSltiu d a im s
  | .slli d a h => Sys2Proof.Machine.execSlli d a h s
  | .srli d a h => Sys2Proof.Machine.execSrli d a h s
  | .srai d a h => Sys2Proof.Machine.execSrai d a h s
  | .lih d im => Sys2Proof.Machine.execLih d im s
  | .lish d im => Sys2Proof.Machine.execLish d im s
  | .beq a b o => Sys2Proof.Machine.execBeq a b o s
  | .bne a b o => Sys2Proof.Machine.execBne a b o s
  | .blt a b o => Sys2Proof.Machine.execBlt a b o s
  | .bge a b o => Sys2Proof.Machine.execBge a b o s
  | .bltu a b o => Sys2Proof.Machine.execBltu a b o s
  | .bgeu a b o => Sys2Proof.Machine.execBgeu a b o s
  | .jal d im => Sys2Proof.Machine.execJal d im s
  | .jalr d a im => Sys2Proof.Machine.execJalr d a im s
  | .loop a o => Sys2Proof.Machine.execLoop a o s
  | .loopi c o => Sys2Proof.Machine.execLoopi c o s
  | .lidx d l => Sys2Proof.Machine.execLidx d l s
  | .lcnt d l => Sys2Proof.Machine.execLcnt d l s
  | .lb d a o => Sys2Proof.Machine.execLb d a o s
  | .lbu d a o => Sys2Proof.Machine.execLbu d a o s
  | .lh d a o => Sys2Proof.Machine.execLh d a o s
  | .lhu d a o => Sys2Proof.Machine.execLhu d a o s
  | .lw d a o => Sys2Proof.Machine.execLw d a o s
  | .lwu d a o => Sys2Proof.Machine.execLwu d a o s
  | .ld d a o => Sys2Proof.Machine.execLd d a o s
  | .sb x a o => Sys2Proof.Machine.execSb x a o s
  | .sh x a o => Sys2Proof.Machine.execSh x a o s
  | .sw x a o => Sys2Proof.Machine.execSw x a o s
  | .sd x a o => Sys2Proof.Machine.execSd x a o s
  | .csrr d c => Sys2Proof.Machine.execCsrr d c s
  | .csrw d a c => Sys2Proof.Machine.execCsrw d a c s
  | .csrs d a c => Sys2Proof.Machine.execCsrs d a c s
  | .csrc d a c => Sys2Proof.Machine.execCsrc d a c s
  | .vdef v b w t => Sys2Proof.Machine.execVdef v b w t s
  | .vundef v => Sys2Proof.Machine.execVundef v s
  | .vadd d a b n m => Sys2Proof.Machine.execVadd d a b n m s
  | .vsub d a b n m => Sys2Proof.Machine.execVsub d a b n m s
  | .vmul d a b n m => Sys2Proof.Machine.execVmul d a b n m s
  | .vmac d a b n m => Sys2Proof.Machine.execVmac d a b n m s
  | .vdiv d a b n m => Sys2Proof.Machine.execVdiv d a b n m s
  | .vrem d a b n m => Sys2Proof.Machine.execVrem d a b n m s
  | .vmin d a b n m => Sys2Proof.Machine.execVmin d a b n m s
  | .vmax d a b n m => Sys2Proof.Machine.execVmax d a b n m s
  | .vabs d a n m => Sys2Proof.Machine.execVabs d a n m s
  | .vneg d a n m => Sys2Proof.Machine.execVneg d a n m s
  | .vand d a b n m => Sys2Proof.Machine.execVand d a b n m s
  | .vor d a b n m => Sys2Proof.Machine.execVor d a b n m s
  | .vxor d a b n m => Sys2Proof.Machine.execVxor d a b n m s
  | .vnot d a n m => Sys2Proof.Machine.execVnot d a n m s
  | .vandn d a b n m => Sys2Proof.Machine.execVandn d a b n m s
  | .vmov d a n m => Sys2Proof.Machine.execVmov d a n m s
  | .vsel d a b n m => Sys2Proof.Machine.execVsel d a b n m s
  | .vshlv d a b n m => Sys2Proof.Machine.execVshlv d a b n m s
  | .vshrv d a b n m => Sys2Proof.Machine.execVshrv d a b n m s
  | .vadds d a b n m => Sys2Proof.Machine.execVadds d a b n m s
  | .vsubs d a b n m => Sys2Proof.Machine.execVsubs d a b n m s
  | .vmulh d a b n m => Sys2Proof.Machine.execVmulh d a b n m s
  | .vclz d a n m => Sys2Proof.Machine.execVclz d a n m s
  | .vpopc d a n m => Sys2Proof.Machine.execVpopc d a n m s
  | .vfma d a b n m => Sys2Proof.Machine.execVfma d a b n m s
  | .vcvt d a b n m => Sys2Proof.Machine.execVcvt d a b n m s
  | .vrnd d a n m => Sys2Proof.Machine.execVrnd d a n m s
  | .vrcp d a n m => Sys2Proof.Machine.execVrcp d a n m s
  | .vrsq d a n m => Sys2Proof.Machine.execVrsq d a n m s
  | .vaddx d a b n m => Sys2Proof.Machine.execVaddx d a b n m s
  | .vsubx d a b n m => Sys2Proof.Machine.execVsubx d a b n m s
  | .vmulx d a b n m => Sys2Proof.Machine.execVmulx d a b n m s
  | .vmacx d a b n m => Sys2Proof.Machine.execVmacx d a b n m s
  | .vminx d a b n m => Sys2Proof.Machine.execVminx d a b n m s
  | .vmaxx d a b n m => Sys2Proof.Machine.execVmaxx d a b n m s
  | .vandx d a b n m => Sys2Proof.Machine.execVandx d a b n m s
  | .vorx d a b n m => Sys2Proof.Machine.execVorx d a b n m s
  | .vxorx d a b n m => Sys2Proof.Machine.execVxorx d a b n m s
  | .vshlx d a b n m => Sys2Proof.Machine.execVshlx d a b n m s
  | .vshrx d a b n m => Sys2Proof.Machine.execVshrx d a b n m s
  | .vsetx d b n m => Sys2Proof.Machine.execVsetx d b n m s
  | .vrsubx d a b n m => Sys2Proof.Machine.execVrsubx d a b n m s
  | .vscalx d a b n m => Sys2Proof.Machine.execVscalx d a b n m s
  | .eq t c a b n m => Sys2Proof.Machine.execEq t c a b n m s
  | .ne t c a b n m => Sys2Proof.Machine.execNe t c a b n m s
  | .lt t c a b n m => Sys2Proof.Machine.execLt t c a b n m s
  | .le t c a b n m => Sys2Proof.Machine.execLe t c a b n m s
  | .gt t c a b n m => Sys2Proof.Machine.execGt t c a b n m s
  | .ge t c a b n m => Sys2Proof.Machine.execGe t c a b n m s
  | .isnz t c a n m => Sys2Proof.Machine.execIsnz t c a n m s
  | .eqx t c a b n m => Sys2Proof.Machine.execEqx t c a b n m s
  | .nex t c a b n m => Sys2Proof.Machine.execNex t c a b n m s
  | .ltx t c a b n m => Sys2Proof.Machine.execLtx t c a b n m s
  | .lex t c a b n m => Sys2Proof.Machine.execLex t c a b n m s
  | .gtx t c a b n m => Sys2Proof.Machine.execGtx t c a b n m s
  | .gex t c a b n m => Sys2Proof.Machine.execGex t c a b n m s
  | .matchKey t c a b n m => Sys2Proof.Machine.execMatchKey t c a b n m s
  | .rangeKey t c a b n m => Sys2Proof.Machine.execRangeKey t c a b n m s
  | .tset d n => Sys2Proof.Machine.execTset d n s
  | .tclr d n => Sys2Proof.Machine.execTclr d n s
  | .tnot d a n => Sys2Proof.Machine.execTnot d a n s
  | .tand d a b n => Sys2Proof.Machine.execTand d a b n s
  | .tor d a b n => Sys2Proof.Machine.execTor d a b n s
  | .txor d a b n => Sys2Proof.Machine.execTxor d a b n s
  | .tandn d a b n => Sys2Proof.Machine.execTandn d a b n s
  | .tmov d a n => Sys2Proof.Machine.execTmov d a n s
  | .tfirst d a n => Sys2Proof.Machine.execTfirst d a n s
  | .tlast d a n => Sys2Proof.Machine.execTlast d a n s
  | .tshup d a n => Sys2Proof.Machine.execTshup d a n s
  | .tshdn d a n => Sys2Proof.Machine.execTshdn d a n s
  | .tval d n => Sys2Proof.Machine.execTval d n s
  | .valt a n => Sys2Proof.Machine.execValt a n s
  | .vcount d t n => Sys2Proof.Machine.execVcount d t n s
  | .vany d t n => Sys2Proof.Machine.execVany d t n s
  | .vfirstx d t n => Sys2Proof.Machine.execVfirstx d t n s
  | .vextr d t v n => Sys2Proof.Machine.execVextr d t v n s
  | .vredsum d t v n => Sys2Proof.Machine.execVredsum d t v n s
  | .vredmax d t v n => Sys2Proof.Machine.execVredmax d t v n s
  | .vredmin d t v n => Sys2Proof.Machine.execVredmin d t v n s
  | .vtopk d t v n => Sys2Proof.Machine.execVtopk d t v n s
  | .vbotk d t v n => Sys2Proof.Machine.execVbotk d t v n s
  | .vmaxloc d t v n => Sys2Proof.Machine.execVmaxloc d t v n s
  | .vscanadd d a n m => Sys2Proof.Machine.execVscanadd d a n m s
  | .vscanmax d a n m => Sys2Proof.Machine.execVscanmax d a n m s
  | .vrowsh d a n m => Sys2Proof.Machine.execVrowsh d a n m s
  | .vrowshup d a n m => Sys2Proof.Machine.execVrowshup d a n m s
  | .vidx d n m => Sys2Proof.Machine.execVidx d n m s
  | .vbcastf d a n m => Sys2Proof.Machine.execVbcastf d a n m s
  | .vftag d n m => Sys2Proof.Machine.execVftag d n m s
  | .vtagf a n m => Sys2Proof.Machine.execVtagf a n m s
  | .vtli d a l n m => Sys2Proof.Machine.execVtli d a l n m s
  | .vtlu d a l n m => Sys2Proof.Machine.execVtlu d a l n m s
  | .vsimh d a b n m => Sys2Proof.Machine.execVsimh d a b n m s
  | .vlda d a n m => Sys2Proof.Machine.execVlda d a n m s
  | .vldaSp d a n m => Sys2Proof.Machine.execVldaSp d a n m s
  | .vsta v a n m => Sys2Proof.Machine.execVsta v a n m s
  | .vldx d im a n m => Sys2Proof.Machine.execVldx d im a n m s
  | .vstx v im a n m => Sys2Proof.Machine.execVstx v im a n m s
  | .vstadd v im a n m => Sys2Proof.Machine.execVstadd v im a n m s
  | .vspill v a n => Sys2Proof.Machine.execVspill v a n s
  | .vfill d a n => Sys2Proof.Machine.execVfill d a n s
  | .tload t a => Sys2Proof.Machine.execTload t a s
  | .sbind q v b => Sys2Proof.Machine.execSbind q v b s
  | .sunb q => Sys2Proof.Machine.execSunb q s
  | .sbar a => Sys2Proof.Machine.execSbar a s
  | .swait q => Sys2Proof.Machine.execSwait q s
  | .sstat d q => Sys2Proof.Machine.execSstat d q s
  | .amoadd d a b o w => Sys2Proof.Machine.execAmoadd d a b o w s
  | .amoand d a b o w => Sys2Proof.Machine.execAmoand d a b o w s
  | .amoor d a b o w => Sys2Proof.Machine.execAmoor d a b o w s
  | .amoxor d a b o w => Sys2Proof.Machine.execAmoxor d a b o w s
  | .amomin d a b o w u => Sys2Proof.Machine.execAmomin d a b o w u s
  | .amomax d a b o w u => Sys2Proof.Machine.execAmomax d a b o w u s
  | .amoswap d a b o w => Sys2Proof.Machine.execAmoswap d a b o w s
  | .amocas d a b o w => Sys2Proof.Machine.execAmocas d a b o w s
  | .amaxf a b => Sys2Proof.Machine.execAmaxf a b s
  | .amaxfRel a b => Sys2Proof.Machine.execAmaxfRel a b s
  | .acq c => Sys2Proof.Machine.execAcq c s
  | .rel c => Sys2Proof.Machine.execRel c s
  | .fence c => Sys2Proof.Machine.execFence c s
  | .cbget d c => Sys2Proof.Machine.execCbget d c s
  | .cbput c => Sys2Proof.Machine.execCbput c s
  | .cbpop d c => Sys2Proof.Machine.execCbpop d c s
  | .cbrel c => Sys2Proof.Machine.execCbrel c s
  | .cbstat d c => Sys2Proof.Machine.execCbstat d c s
  | .cbgetn d c b => Sys2Proof.Machine.execCbgetn d c b s
  | .cbpopn d c b => Sys2Proof.Machine.execCbpopn d c b s
  | .cbdef c b => Sys2Proof.Machine.execCbdef c b s
  | .strip a => Sys2Proof.Machine.execStrip a s
  | .farm f a b => Sys2Proof.Machine.execFarm f a b s
  | .fnext d f => Sys2Proof.Machine.execFnext d f s
  | .xredadd d a => Sys2Proof.Machine.execXredadd d a s
  | .xredmax d a u => Sys2Proof.Machine.execXredmax d a u s
  | .xredmin d a u => Sys2Proof.Machine.execXredmin d a u s
  | .xscanadd d a => Sys2Proof.Machine.execXscanadd d a s
  | .xbcast d a b => Sys2Proof.Machine.execXbcast d a b s
  | .xredfadd d a f => Sys2Proof.Machine.execXredfadd d a f s
  | .cqapp d c b => Sys2Proof.Machine.execCqapp d c b s
  | .cqgo c => Sys2Proof.Machine.execCqgo c s
  | .cqwait c b => Sys2Proof.Machine.execCqwait c b s
  | .cqstat d c => Sys2Proof.Machine.execCqstat d c s
  | .cqdone d c b => Sys2Proof.Machine.execCqdone d c b s
  | .mma k a c n p m f => Sys2Proof.Machine.execMma k a c n p m f s
  | .mldb l a b => Sys2Proof.Machine.execMldb l a b s
  | .mlicAcq d => Sys2Proof.Machine.execMlicAcq d s
  | .mlicSt d => Sys2Proof.Machine.execMlicSt d s
  | .dpload d a b => Sys2Proof.Machine.execDpload d a b s
  | .dpinfo d a => Sys2Proof.Machine.execDpinfo d a s
  | .kvfind d a b => Sys2Proof.Machine.execKvfind d a b s
  | .kvins d a b => Sys2Proof.Machine.execKvins d a b s
  | .kvpin d a => Sys2Proof.Machine.execKvpin d a s
  | .kvunpin d a => Sys2Proof.Machine.execKvunpin d a s
  | .kvref d a b => Sys2Proof.Machine.execKvref d a b s
  | .kvwin q a => Sys2Proof.Machine.execKvwin q a s
  | .nrd d t => Sys2Proof.Machine.execNrd d t s
  | .nwr t b => Sys2Proof.Machine.execNwr t b s
  | .nswap d t b => Sys2Proof.Machine.execNswap d t b s
  | .fpush a => Sys2Proof.Machine.execFpush a s
  | .fpop a => Sys2Proof.Machine.execFpop a s
  | .fcnt d => Sys2Proof.Machine.execFcnt d s
  | .pgreq d a => Sys2Proof.Machine.execPgreq d a s
  | .tbar k => Sys2Proof.Machine.execTbar k s
  | .svsave d a b => Sys2Proof.Machine.execSvsave d a b s
  | .svrest d a b => Sys2Proof.Machine.execSvrest d a b s
  | .slreplay d a => Sys2Proof.Machine.execSlreplay d a s
  | .tlbinv d a => Sys2Proof.Machine.execTlbinv d a s
  | .hfreeze d a b => Sys2Proof.Machine.execHfreeze d a b s
  | .hthaw d a => Sys2Proof.Machine.execHthaw d a s
  | .esload d a b => Sys2Proof.Machine.execEsload d a b s
  | .estep d => Sys2Proof.Machine.execEstep d s
  | .lbrk => Sys2Proof.Machine.execLbrk s
  | .lskip => Sys2Proof.Machine.execLskip s
  | .scall => Sys2Proof.Machine.execScall s
  | .brk => Sys2Proof.Machine.execBrk s
  | .tret => Sys2Proof.Machine.execTret s
  | .wfe => Sys2Proof.Machine.execWfe s
  | .yield => Sys2Proof.Machine.execYield s
  | .exit => Sys2Proof.Machine.execExit s
  | .snapt => Sys2Proof.Machine.execSnapt s
  | .sret => Sys2Proof.Machine.execSret s
  | .scommit => Sys2Proof.Machine.execScommit s
  | .sabort => Sys2Proof.Machine.execSabort s
  | .bar => Sys2Proof.Machine.execBar s
  | .arrive => Sys2Proof.Machine.execArrive s
  | .await => Sys2Proof.Machine.execAwait s
  | .mwait => Sys2Proof.Machine.execMwait s
  | .mlicAcqw => Sys2Proof.Machine.execMlicAcqw s
  | .mlicRel => Sys2Proof.Machine.execMlicRel s
  | .tsyncExpiry => Sys2Proof.Machine.execTsyncExpiry s
  | .snapshotTrigger => Sys2Proof.Machine.execSnapshotTrigger s
  | .snapshotRearm => Sys2Proof.Machine.execSnapshotRearm s
  | .plimitExceeded => Sys2Proof.Machine.execPlimitExceeded s
  | .hardTrip => Sys2Proof.Machine.execHardTrip s
  | .deviceReset => Sys2Proof.Machine.execDeviceReset s
  | .getVersion => Sys2Proof.Machine.execGetVersion s
  | .getCapabilities => Sys2Proof.Machine.execGetCapabilities s
  | .negotiateAlgorithms => Sys2Proof.Machine.execNegotiateAlgorithms s
  | .getDigests => Sys2Proof.Machine.execGetDigests s
  | .nonInstructionWord => Sys2Proof.Machine.execNonInstructionWord s
  | .instructionFetchFault => Sys2Proof.Machine.execInstructionFetchFault s
  | .dividerResult h => Sys2Proof.Machine.execDividerResult h s
  | .loadReturn h => Sys2Proof.Machine.execLoadReturn h s
  | .wfeTimeout h => Sys2Proof.Machine.execWfeTimeout h s
  | .vmemTransfer h => Sys2Proof.Machine.execVmemTransfer h s
  | .tableSlotWrite h => Sys2Proof.Machine.execTableSlotWrite h s
  | .streamBlock h q => Sys2Proof.Machine.execStreamBlock h q s
  | .homeWrite h => Sys2Proof.Machine.execHomeWrite h s
  | .stripDrain h => Sys2Proof.Machine.execStripDrain h s
  | .latchLoad core => Sys2Proof.Machine.execLatchLoad core s
  | .mmaAStream core => Sys2Proof.Machine.execMmaAStream core s
  | .mmaMigration core => Sys2Proof.Machine.execMmaMigration core s
  | .drainRow core => Sys2Proof.Machine.execDrainRow core s
  | .drainSlotLoad h => Sys2Proof.Machine.execDrainSlotLoad h s
  | .licenceRelease pair => Sys2Proof.Machine.execLicenceRelease pair s
  | .ballastStep pair => Sys2Proof.Machine.execBallastStep pair s
  | .licenceGrant pair => Sys2Proof.Machine.execLicenceGrant pair s
  | .slotTableTurn pair => Sys2Proof.Machine.execSlotTableTurn pair s
  | .ferryEntryFilled h => Sys2Proof.Machine.execFerryEntryFilled h s
  | .twinto h => Sys2Proof.Machine.execTwinto h s
  | .gatePowerRemoved pair => Sys2Proof.Machine.execGatePowerRemoved pair s
  | .ungatePowerReturned pair => Sys2Proof.Machine.execUngatePowerReturned pair s
  | .walk core ctx va use => Sys2Proof.Machine.execWalk core ctx va use s
  | .supervisorRoutineStart core => Sys2Proof.Machine.execSupervisorRoutineStart core s
  | .teamPlacement launch core => Sys2Proof.Machine.execTeamPlacement launch core s
  | .gangStart launch => Sys2Proof.Machine.execGangStart launch s
  | .residencyClear cluster => Sys2Proof.Machine.execResidencyClear cluster s
  | .launchCompletion launch => Sys2Proof.Machine.execLaunchCompletion launch s
  | .copy core chain => Sys2Proof.Machine.execCopy core chain s
  | .gather core chain => Sys2Proof.Machine.execGather core chain s
  | .scatter core chain => Sys2Proof.Machine.execScatter core chain s
  | .fill core chain => Sys2Proof.Machine.execFill core chain s
  | .migrate core chain => Sys2Proof.Machine.execMigrate core chain s
  | .marker core chain => Sys2Proof.Machine.execMarker core chain s
  | .mmaf core chain => Sys2Proof.Machine.execMmaf core chain s
  | .coll core chain => Sys2Proof.Machine.execColl core chain s
  | .launch core chain => Sys2Proof.Machine.execLaunch core chain s
  | .commandCompletion core chain => Sys2Proof.Machine.execCommandCompletion core chain s
  | .collTimeoutExpiry tag => Sys2Proof.Machine.execCollTimeoutExpiry tag s
  | .uncorrectableError site => Sys2Proof.Machine.execUncorrectableError site s
  | .schedulerTick part => Sys2Proof.Machine.execSchedulerTick part s
  | .switchInstant part => Sys2Proof.Machine.execSwitchInstant part s
  | .shadowSwap cluster => Sys2Proof.Machine.execShadowSwap cluster s
  | .contextSpill ctx => Sys2Proof.Machine.execContextSpill ctx s
  | .contextRestore ctx => Sys2Proof.Machine.execContextRestore ctx s
  | .linkDown p q => Sys2Proof.Machine.execLinkDown p q s
  | .hostPeerWrite at_ bytes => Sys2Proof.Machine.execHostPeerWrite at_ bytes s
  | .hostPeerRead at_ n => Sys2Proof.Machine.execHostPeerRead at_ n s
  | .ptmExchange time => Sys2Proof.Machine.execPtmExchange time s
  | .doorbell queue => Sys2Proof.Machine.execDoorbell queue s
  | .appendRegister queue list => Sys2Proof.Machine.execAppendRegister queue list s
  | .contextTableWrite ctx entry => Sys2Proof.Machine.execContextTableWrite ctx entry s
  | .queueDescriptorWrite queue desc => Sys2Proof.Machine.execQueueDescriptorWrite queue desc s
  | .registerWrite offset value => Sys2Proof.Machine.execRegisterWrite offset value s
  | .resync at_ => Sys2Proof.Machine.execResync at_ s
  | .keyLoad slot at_ => Sys2Proof.Machine.execKeyLoad slot at_ s
  | .unfence core mask => Sys2Proof.Machine.execUnfence core mask s
  | .ungate core => Sys2Proof.Machine.execUngate core s
  | .preEmpt part queue => Sys2Proof.Machine.execPreEmpt part queue s
  | .preEmptHold part => Sys2Proof.Machine.execPreEmptHold part s
  | .assignPair pair part valid => Sys2Proof.Machine.execAssignPair pair part valid s
  | .emergencyAddress at_ => Sys2Proof.Machine.execEmergencyAddress at_ s
  | .collectiveTimeout us => Sys2Proof.Machine.execCollectiveTimeout us s
  | .thawFunction fn => Sys2Proof.Machine.execThawFunction fn s
  | .systemAppend core list => Sys2Proof.Machine.execSystemAppend core list s
  | .thermalLevelChange die level => Sys2Proof.Machine.execThermalLevelChange die level s
  | .powerOn images => Sys2Proof.Machine.execPowerOn images s
  | .getCertificate slot => Sys2Proof.Machine.execGetCertificate slot s
  | .challenge nonce => Sys2Proof.Machine.execChallenge nonce s
  | .getMeasurements nonce => Sys2Proof.Machine.execGetMeasurements nonce s
  | .keyExchange exchange => Sys2Proof.Machine.execKeyExchange exchange s
  | .finish verify => Sys2Proof.Machine.execFinish verify s
  | .ideKm keys => Sys2Proof.Machine.execIdeKm keys s
  | .flushReadCompletion fn => Sys2Proof.Machine.execFlushReadCompletion fn s
  | .hostPeerAtomic op at_ wide operand compare => Sys2Proof.Machine.execHostPeerAtomic op at_ wide operand compare s
  | .portLinkChange port up => Sys2Proof.Machine.execPortLinkChange port up s
  | .collPeerContribution part => Sys2Proof.Machine.execCollPeerContribution part s

end Sys2Proof.Machine
end

