-- ==== Sys2Proof/Machine/Sequencer.lean ====
section
/-! DEFINITION. The order of the machine's work: events from outside, the events of the engines in a cycle, the selection of
the harts that issue (07 R166 to R171), the issue of a word, and the end of a cycle. Within a cycle the manual leaves the order
of the engines' free-running work open; the model takes it from the free choices of log 4. -/

namespace Sys2Proof.Machine

/-! ## Events from outside -/

/-- Whether a row is an event from outside the module, which `inputs` may bring. DESIGN CHOICE (log 3). -/
def fromOutside : Instr → Bool
  | .linkDown _ _ => true
  | .hostPeerWrite _ _ => true
  | .hostPeerRead _ _ => true
  | .hostPeerAtomic _ _ _ _ _ => true
  | .flushReadCompletion _ => true
  | .ptmExchange _ => true
  | .doorbell _ => true
  | .appendRegister _ _ => true
  | .systemAppend _ _ => true
  | .contextTableWrite _ _ => true
  | .queueDescriptorWrite _ _ => true
  | .registerWrite _ _ => true
  | .resync _ => true
  | .keyLoad _ _ => true
  | .unfence _ _ => true
  | .ungate _ => true
  | .preEmpt _ _ => true
  | .preEmptHold _ => true
  | .assignPair _ _ _ => true
  | .emergencyAddress _ => true
  | .collectiveTimeout _ => true
  | .thawFunction _ => true
  | .thermalLevelChange _ _ => true
  | .plimitExceeded => true
  | .uncorrectableError _ => true
  | .hardTrip => true
  | .deviceReset => true
  | .powerOn _ => true
  | .portLinkChange _ _ => true
  | .collPeerContribution _ => true
  | .snapshotTrigger => true
  | .snapshotRearm => true
  | .getVersion => true
  | .getCapabilities => true
  | .negotiateAlgorithms => true
  | .getDigests => true
  | .getCertificate _ => true
  | .challenge _ => true
  | .getMeasurements _ => true
  | .keyExchange _ => true
  | .finish _ => true
  | .ideKm _ => true
  | _ => false

/-- Whether a row is POWER_ON, the one event that reaches a module without power. -/
def isPowerOn : Instr → Bool
  | .powerOn _ => true
  | _ => false

/-- Whether an event from outside waits until the bytes of an earlier write have all come to their homes, and those of an earlier read have
been read: every one but reset and the loss of power. -/
def State.behindWrite (s : State) : Instr → Bool
  | .deviceReset => false
  | .hardTrip => false
  | _ => !s.incoming.isEmpty || s.reading.isSome

/-- The oldest event from outside is taken, unless it waits for a line that a running command owns, or for an earlier write (11 R269).
DESIGN CHOICE (log 3). -/
def State.inputStep (s : State) : Option (Host.Outcome State Fault Refusal) :=
  match s.inputs with
  | [] => none
  | i :: rest =>
    let s' : State := { s with inputs := rest }
    if !s.powered then some (if isPowerOn i then exec i s' else .next s')
    else if !fromOutside i then some (.next s')
    else if s.inputWaits i || s.behindWrite i then none
    else some (exec i s')

/-! ## Events of the engines -/

/-- An event that may be enabled: the state after it, or none where it is not. -/
abbrev Event := State → Option State

/-- Work on a scoreboard: the divisions, or the other results, of a hart whose cycle has come. -/
def boardEvent (h : HartKey) (div : Bool) (run : HartKey → State → Host.Outcome State Fault Refusal) : Event := fun s =>
  if (s.hart h).sc.board.any fun w => w.due s.now && (w.kind == .div) == div then
    match run h s with
    | .next s => some s
    | .fault _ => none
    | .refused _ => none
  else none

/-- TSYNC_EXPIRY where it is due. -/
def tsyncEvent : Event := fun s =>
  if s.lastPtm.isSome && !s.tsync then some { s with lastPtm := none } else none

/-- The events that happen in the cycle in which they fall due, in this order. DESIGN CHOICE (log 17). -/
def State.dueEvents (s : State) : List Event :=
  (s.harts.map Prod.fst).flatMap (fun h =>
    [boardEvent h true execDividerResult, boardEvent h false execLoadReturn, fun s => s.trapStep h, fun s => s.wfeStep h,
      fun s => s.timeoutStep h, fun s => s.fillStep h, fun s => s.peerAckStep h])
  ++ (s.launches.map Prod.fst).map (fun n s => s.gangStep n)
  ++ (s.cores.map Prod.fst).map (fun c s => s.haltStep c)
  ++ (List.range 16).map (fun p s => s.tickStep p) ++ (List.range 16).map (fun p s => s.instantStep p)
  ++ (s.twins.map Prod.fst).flatMap (fun t =>
    [fun s => s.turnStep t, fun s => s.releaseStep t, fun s => s.ballastStep t, fun s => s.grantStep t])
  ++ (s.harts.map Prod.fst).map (fun h s => s.acqStep h)
  ++ (fun s => s.systemAppendStep) :: (s.appends.map Prod.fst).map (fun q s => s.queueAppendStep q)
  ++ [tsyncEvent] ++ s.colls.map fun (c : CollPart) s => s.collExpire c.input.tag

/-- Events that stop while p holds. -/
def eventsUnless (p : State → Bool) (l : List Event) : List Event := l.map fun e s => if p s then none else e s

/-- The events of a hart's memory side; they stop while the hart waits with an event (17 R354). -/
def hartEvents (h : HartKey) : List Event :=
  eventsUnless (fun s => s.hartEventWaits h)
    ([fun s => s.vmemStep h, fun s => s.stripStep h, fun s => s.slotStep h]
      ++ (List.range 8).map fun q s => s.streamStep h (BitVec.ofNat 3 q))

/-- The events of a chain; they stop while the copy engine waits with an event. -/
def chainEvents (core : CoreId) (i : Nat) : List Event :=
  eventsUnless (fun s => s.copyEventWaits core)
    ([1, 2, 3, 4, 6].map (fun op s => s.chainEvent core i op State.moveStep)
      ++ [fun s => s.chainEvent core i 5 State.migrateStep, fun s => s.chainEvent core i 7 State.mmafStep,
          fun s => s.collEvent core i, fun s => s.chainEvent core i 9 State.launchStep,
          fun s => if h : i < 17 then s.completeStep core ⟨i, h⟩ else none])

/-- The events of a core's engines and of its steward. -/
def State.coreEvents (s : State) (core : CoreId) : List Event :=
  [fun s => s.latchStep core, fun s => s.streamRow core, fun s => s.migrateMma core,
    fun s => if s.matrixEventWaits core then none else s.drainStep core, fun s => s.routineStep core]
  ++ (List.range 17).flatMap fun i => if (s.chain core (Fin.ofNat 17 i)).cmds.isEmpty then [] else chainEvents core i

/-- The events of a launch. -/
def State.launchEvents (n : Nat) (l : Launch) : List Event :=
  (fun s => s.launchDone n) :: (if l.placedAll then [] else allCores.map fun c s => s.placementStep n c)

/-- The events whose cycle the manual leaves open. DESIGN CHOICE (log 5). DESIGN CHOICE (log 17). -/
def State.freeEvents (s : State) : List Event :=
  (fun s => s.incomingStep) :: (fun s => s.readingStep) :: (s.flight.map (fun (f : FlightWrite) => f.hart)).dedup.map (fun h s => s.homeStep h)
  ++ (s.harts.map Prod.fst).flatMap hartEvents ++ (s.cores.map Prod.fst).flatMap s.coreEvents
  ++ (s.clusters.map Prod.fst).flatMap (fun k => [fun s => s.clearStep k, fun s => s.swapStep k])
  ++ (s.twins.map Prod.fst).flatMap (fun t => [fun s => s.gateOffStep t, fun s => s.gateOnStep t])
  ++ s.launches.flatMap (fun (e : Nat × Launch) => State.launchEvents e.1 e.2)
  ++ (s.ctxStates.map Prod.fst).map (fun c s => s.spillPiece c)
  ++ (s.contexts.map Prod.fst).map fun c s => s.restoreStep c

/-! ## Selection (07 R166 to R171) -/

/-- Whether a hart's engine of words runs at all: resident in an active context, not held, frozen, stopped or waiting with an event, and
its cluster not fenced nor its core gated. -/
def State.runnable (s : State) (h : HartKey) : Bool :=
  let t := s.hart h
  s.resident h && !s.hartEventWaits h && t.held.isNone && !t.frozen && !t.stopped && !t.gangHold && !(s.cluster (clusterOfHart h)).fenced
    && !s.coreGated (coreOfHart h)
    && decide (s.activeCtx (coreOfHart h) = some t.ctx) && !((s.ctxState t.ctx).licences.contains (coreOfHart h))

/-- Whether a wait ends by an event, not by another attempt of the word. -/
def Wait.passive : Wait → Bool
  | .wfe _ => true
  | .arrived => true
  | .twin => true
  | .pushing _ => true
  | .fpush _ _ _ => true
  | .popping _ => true
  | .fpop _ _ _ => true
  | .trapping _ _ _ => true
  | .none => false
  | .releasing _ _ => false
  | .meeting _ _ => false
  | .publishing _ _ => false
  | .swait => false
  | .record _ _ _ _ => false
  | .directory _ _ _ _ => false

/-- Whether a hart waits for an event: one that has arrived no longer does once its phase has completed or broken (08 R190). -/
def Hart.awaits (t : Hart) : Bool := t.wait.passive && !(decide (t.wait = .arrived) && (t.outcome.isSome || t.broken.isSome))

/-- Whether an agent may try its next word in this cycle. -/
def State.mayIssue (s : State) : Agent → Bool
  | .hart h =>
    let t := s.hart h
    s.runnable h && decide (t.sc.nextIssue ≤ s.now) && !t.awaits
      && (decide (t.wait ≠ .none) || t.overdue.isSome || !State.fetchWaits { s with cur := .hart h })
  | .steward c =>
    let w := (s.core c).steward
    w.running && decide (w.sc.nextIssue ≤ s.now) && !s.coreGated c && !State.fetchWaits { s with cur := .steward c }

/-- The word that an agent tries: a waiting word is kept from its issue, any other is fetched. DEDUCED (log 16). -/
def State.nextWord (s : State) : Except Miss Word × State :=
  match s.cur with
  | .hart h => if (s.hart h).wait = .none then s.fetch else (.ok (s.hart h).waitWord, s)
  | .steward _ => s.fetch

/-- Whether a hart is eligible with an array instruction, but for the arrays (R166). -/
def State.claims (s : State) (h : HartKey) : Bool :=
  let s : State := { s with cur := .hart h }
  if !s.mayIssue (.hart h) || (s.hart h).wait != .none || (s.hart h).overdue.isSome then false
  else
    match s.nextWord.1 with
    | .error _ => false
    | .ok w =>
      match decode w with
      | none => false
      | some i =>
        let s : State := (State.modSc { s with ir := w } fun sc => sc.commit s.now).modCluster (clusterOfHart h) fun c => { c with arraysFree := s.now }
        let runs := match s.sc.latch with
          | none => true
          | some p => !pfxIllegal i p && s.sc.pred p.psel != p.pinv
        runs && s.arrayWord i && !s.waits i

/-- The resident harts of a cluster, in slot order. -/
def State.hartsOf (s : State) (k : ClusterKey) : List HartKey :=
  (s.harts.map Prod.fst).filter fun h => decide (clusterOfHart h = k)

/-- The claims of a cluster's harts in this cycle (R167). -/
def State.updateClaims (s : State) (k : ClusterKey) : State :=
  let busy := decide (s.now < (s.cluster k).arraysFree)
  (s.hartsOf k).foldl (fun u h =>
    let c := if s.claims h then (if busy then (s.hart h).claim.or (some s.now) else (s.hart h).claim) else none
    if c = (s.hart h).claim then u else u.modHart h fun t => { t with claim := c }) s

/-- The hart that holds the oldest claim of a cluster; of equally old ones that in the lower slot (R167). -/
def State.oldestClaim (s : State) (k : ClusterKey) : Option HartKey :=
  ((s.hartsOf k).foldl (fun (best : Option (Nat × HartKey)) h =>
    match (s.hart h).claim, best with
    | none, b => b
    | some c, none => some (c, h)
    | some c, some b => if c < b.1 then some (c, h) else some b) none).map Prod.snd

/-- The harts of a cluster that the arrays do not keep back, given that a hart holds the oldest claim. -/
def State.granted (s : State) (k : ClusterKey) (oldest : Option HartKey) (h : HartKey) : Bool :=
  match oldest with
  | none => true
  | some o => decide (h = o) || decide (s.now < (s.cluster k).arraysFree) || !s.claims h

/-- Whether a hart is the current hart of its cluster and may issue again (R169). -/
def State.keepsTurn (s : State) (h : HartKey) : Bool :=
  let c := s.cluster (clusterOfHart h)
  decide (c.current = some (slotOfHart h)) && decide (c.runCount < 64)

/-- Whether a cluster is under RR (R168). -/
def State.roundRobin (s : State) (k : ClusterKey) : Bool := (s.core (coreOfCluster k)).steward.ipol.getLsbD (k % 8)

/-- The harts of a cluster in the order in which the policy prefers them: GTO, R169, or RR, R170; harts barred by YIELD
last (R171). The first that is ready issues. -/
def State.preference (s : State) (k : ClusterKey) : List HartKey :=
  let hs := (s.hartsOf k).filter fun h => s.mayIssue (.hart h) && s.granted k (s.oldestClaim k) h
  let rank := fun h =>
    if s.roundRobin k then (slotOfHart h + 4 - (s.cluster k).rotation) % 4
    else if s.keepsTurn h then 0 else (s.hart h).lastIssue + 1
  let l := sortBy (fun a b => decide (rank a ≤ rank b)) hs
  l.filter (fun h => !(s.hart h).barred) ++ l.filter fun h => (s.hart h).barred

/-- The clusters with a resident hart, rising. -/
def State.liveClusters (s : State) : List ClusterKey := (s.harts.map fun (e : HartKey × Hart) => clusterOfHart e.1).dedup

/-- The issue slots of a cycle begin: the claims as they are now, then the stewards that run a routine, whose windows may go before a
claim (09 R203), then the harts of each cluster in order of preference. DESIGN CHOICE (log 2). -/
def State.startIssue (s : State) : State :=
  let s := s.liveClusters.foldl State.updateClaims s
  { s with
    phase := .issue
    todo := ((s.cores.filter fun (e : CoreId × CoreState) => e.2.steward.running).map Prod.fst).map Agent.steward
      ++ (s.liveClusters.flatMap s.preference).map Agent.hart }

/-! ## The issue of a word -/

/-- The fault of a retired access that the next word of an agent meets (10 R226, 17 R353). DEDUCED (log 25). -/
def State.overdueFault (s : State) : Option (Nat × Dword) :=
  match s.cur with
  | .hart h => if (s.hart h).wait = .none then (s.hart h).overdue else none
  | .steward _ => none

/-- Runs the next word of an agent. -/
def State.runNext (s : State) : Host.Outcome State Fault Refusal :=
  match s.overdueFault with
  | some f => .next (State.finish (.trap (s.modSelf fun t => { t with overdue := none }) f.1 f.2))
  | none =>
    match s.nextWord with
    | (.error _, _) => execInstructionFetchFault s
    | (.ok w, t) =>
      let t : State := { t with ir := w }
      match decode w with
      | none => execNonInstructionWord t
      | some i => exec i t

/-- Whether a hart's word took its issue slot: it retired, trapped, or has begun to wait in it. A word that had begun to wait before took
its slot then. DEDUCED (log 16). -/
def Hart.hasIssued (t u : Hart) : Bool :=
  decide (t.wait = .none) &&
    (decide (t.sc.pc ≠ u.sc.pc) || decide (t.sc.instret ≠ u.sc.instret) || decide (t.sc.nextIssue ≠ u.sc.nextIssue)
      || decide (t.sc.latch ≠ u.sc.latch) || decide (t.held ≠ u.held) || decide (t.wait ≠ u.wait) || decide (t.csr.inh ≠ u.csr.inh))

/-- Whether a hart would issue if it were asked now. DEDUCED (log 56). -/
def State.ready (s : State) (h : HartKey) : Bool :=
  s.mayIssue (.hart h) && decide ((s.hart h).wait = .none) && match State.runNext { s with cur := .hart h } with
    | .next u => !u.resident h || (s.hart h).hasIssued (u.hart h)
    | .fault _ => false
    | .refused _ => false

/-- The books of a cluster after its hart has issued, from the state before: the current hart and its run count, the rotation point, the
time of the last issue; the others are not asked in this cycle, but for those whose word waits, and those barred by YIELD that were ready
have missed their selection (R171, R172). DEDUCED (log 56). -/
def State.noteIssue (old : State) (h : HartKey) (s : State) : State :=
  let k := clusterOfHart h
  let here := fun (a : Agent) => match a with
    | .hart o => decide (clusterOfHart o = k) && decide ((s.hart o).wait = .none)
    | .steward _ => false
  let missed := s.todo.filterMap fun a => match a with
    | .hart o => if here a && (old.hart o).barred && old.ready o then some o else none
    | .steward _ => none
  let s := missed.foldl (fun s o => s.modHart o fun t => { t with barred := false }) s
  let yields := (s.hart h).barred
  let s := if s.resident h then s.modHart h fun t => { t with lastIssue := s.now, claim := none } else s
  let again := old.keepsTurn h && decide ((old.cluster k).current = some (slotOfHart h))
  let s := s.modCluster k fun c =>
    if s.roundRobin k then { c with rotation := (slotOfHart h + 1) % 4 }
    else if yields then { c with current := none, runCount := 0 }
    else { c with current := some (slotOfHart h), runCount := if again then c.runCount + 1 else 1 }
  { s with todo := s.todo.filter fun a => !here a }

/-- What follows the attempt of an agent's word. DEDUCED (log 16). -/
def State.settleIssue (old : State) (a : Agent) (s : State) : State :=
  match a with
  | .steward _ => s
  | .hart h =>
    if decide ((old.hart h).wait = .none) && (!s.resident h || (old.hart h).hasIssued (s.hart h)) then old.noteIssue h s
    else if (old.hart h).barred then s.modHart h fun t => { t with barred := true }
    else s

/-- A hart that is asked is barred no longer, unless its word does not issue or is YIELD again. -/
def State.unbar (s : State) : Agent → State
  | .hart h => if (s.hart h).barred && decide ((s.hart h).wait = .none) then s.modHart h fun t => { t with barred := false } else s
  | .steward _ => s

/-- The next agent of the cycle is asked for its word. DESIGN CHOICE (log 2). -/
def State.issueStep (s : State) (a : Agent) (rest : List Agent) : Host.Outcome State Fault Refusal :=
  let s : State := { s with todo := rest, cur := a }
  if !s.mayIssue a then .next s
  else
    match (s.unbar a).runNext with
    | .next u => .next (s.settleIssue a u)
    | .fault f => .fault f
    | .refused r => .refused r

/-! ## The end of a cycle -/

/-- Device time in ns gained in a cycle: 50 ns in 47 cycles. DESIGN CHOICE (log 18). -/
def nsOfCycle (now : Nat) : Nat := (now + 1) * 50 / 47 - now * 50 / 47

/-- A GTO cluster whose current hart has not issued in this cycle has no current hart (R169). -/
def State.dropCurrent (s : State) (k : ClusterKey) : State :=
  match (s.cluster k).current with
  | none => s
  | some n =>
    if s.resident (4 * k + n) && decide ((s.hart (4 * k + n)).lastIssue = s.now) then s
    else s.modCluster k fun c => { c with current := none, runCount := 0 }

/-- The scoreboarded results of a steward whose cycle has come are written. -/
def State.stewardResults (s : State) (c : CoreId) : State :=
  if (s.core c).steward.sc.board.isEmpty then s
  else s.modSteward c fun w => { w with sc := w.sc.arriveBoard s.now fun _ => true }

/-- An ordering point of a hart moves on where it can; the arrival of an ARRIVE whose release it was counts (08 R192). -/
def State.orderEnd (s : State) (h : HartKey) : State :=
  let s := (s.orderStep h).getD s
  (s.arrivalStep h).getD s

/-- The contexts whose work draws the energy of a core: those of its harts that run, of the commands that its copy engine executes, and of
its matrix queue; a routine of its steward is the system's (18 R390). -/
def State.drawers (s : State) (core : CoreId) : List Nat :=
  let v := s.core core
  ((s.harts.filter fun (e : HartKey × Hart) => decide (coreOfHart e.1 = core) && e.2.runs).map (fun (e : HartKey × Hart) => e.2.ctx)
    ++ (v.chains.toList.filter fun (c : Chain) => c.cmds.any fun (k : Cmd) => k.stage == CmdStage.running).map Chain.owner
    ++ v.queue.map MatEntry.ctx ++ if v.steward.running then [0] else []).dedup

/-- Energy is added to a context's count. -/
def State.gain (s : State) (ctx n : Nat) : State := s.modCtx ctx fun v => { v with energy := v.energy + n }

/-- The energy that a core has measured in a microsecond is charged: to each context that of its own work, and what serves no single one in
proportion to that; what the division leaves over is the system's (18 R390). DESIGN CHOICE (log 10). -/
def State.chargeCore (s : State) (core : CoreId) : State :=
  let us := s.devTime / 1000
  let own := (s.drawers core).map fun c => (c, Config.energyDrawn core c us)
  let total := (own.map Prod.snd).sum
  let shared := Config.energyShared core us
  let share := fun (e : Nat × Nat) => shared * e.2 / total
  (own.foldl (fun s e => s.gain e.1 (e.2 + share e)) s).gain 0 (shared - (own.map share).sum)

/-- The energy of one microsecond is charged, core by core; the system's own work draws as well (18 R390, R391). DESIGN CHOICE (log 10). -/
def State.chargeEnergy (s : State) : State :=
  let cores := (s.cores.map Prod.fst ++ s.harts.map fun (e : HartKey × Hart) => coreOfHart e.1).dedup
  (cores.foldl State.chargeCore s).gain 0 (Config.energySystem (s.devTime / 1000))

/-- The end of a cycle: a limit of no cycles between twins runs out, FPUSH and FPOP take their entries, NWRs take effect, time advances, and what completes by time alone completes. DESIGN CHOICE (log 2).
DESIGN CHOICE (log 18). -/
def State.tick (s : State) : State :=
  let s := ((s.harts.map Prod.fst).foldl (fun s h => (s.timeoutStep h).getD s) s).ferryRound
  let s := (s.clusters.map Prod.fst).foldl State.dropCurrent s
  let us := s.devTime / 1000
  let s : State := { s with
    twins := s.twins.map fun (e : PairKey × Twin) => (e.1, if e.2.writes.isEmpty then e.2 else e.2.commitWrites)
    now := s.now + 1
    devTime := s.devTime + nsOfCycle s.now
    phase := .background }
  let s := (s.cores.map Prod.fst).foldl State.stewardResults s
  let s := (s.harts.map Prod.fst).foldl State.orderEnd s
  let s := (s.clusters.map Prod.fst).foldl State.applyLane s
  if s.devTime / 1000 = us then s else s.chargeEnergy

/-! ## A placed word -/

/-- The context entry of a placed word: EN, VALID, partition 0, and the root of its page table. DESIGN CHOICE (log 14). -/
def placedEntry (base : Nat) : BitVec 512 := BitVec.ofNat 512 (1 + base + 0x200000 + 2 ^ 193)

/-- The hart of a placed word: hart 0 of the module, alone in its team, with all columns, about to issue at 0x1000. DESIGN
CHOICE (log 14). -/
def placedHart (now : Nat) : Hart :=
  { sc := { pc := 0x1000 }, csr := { nharts := 1 }, ctx := 1, cols := 512, startCycle := now }

/-- The launch of a placed word: one team of one hart. DESIGN CHOICE (log 14). -/
def placedLaunch : Launch :=
  { ctx := 1, part := 0, core := 0, chain := 0, seq := 0, raw := 0,
    record := { entry := 0x1000, tx := 1, ty := 1, tz := 1, hpt := 1, allot := 512 },
    nextTeam := 1, teams := [{ num := 0, core := 0 }], checked := true }

/-- A word stored at 0x1000 of context 1, under a page table that maps its first 2 MiB for every access, with hart 0 resident
and asked next: what the placement of a launch leaves (07 R173 to R178). DESIGN CHOICE (log 14). -/
def State.placeWord (s : State) (w : Word) : State :=
  let base := s.page.devnum.toNat * 2 ^ 43
  let put := fun (s : State) (loc v n : Nat) => s.homeStore 0 loc ((bytesOfBits (BitVec.ofNat 64 v) n).map some)
  let s : State := { s with
    powered := true
    inputs := []
    phase := .issue
    todo := [.hart 0]
    lineOwners := []
    rowOwners := []
    poison := []
    incoming := []
    reading := none
    downLinks := []
    flight := []
    tlb := []
    harts := s.harts.put 0 (placedHart s.now)
    clusters := s.clusters.put 0 { (s.cluster 0) with
      fenced := false, valid := (s.cluster 0).valid.set 0 (BitVec.allOnes 16384) }
    contexts := s.contexts.put 1 (placedEntry base)
    queues := s.queues.put 0 { ctx := 1, weight := 1, core := 0, chain := 0 }
    launches := s.launches.put 0 placedLaunch
    nextLaunch := max s.nextLaunch 1 }
  let s := s.modPair 0 fun p => { p with part := some 0 }
  let s := s.modPartition 0 fun p => { p with turn := some 0, held := false, switch := none, idle := false }
  let s := s.modCtx 1 fun c => { c with licences := [] }
  let s := s.modSteward 0 fun w => { w with events := [] }
  let s := put s 0x200000 (base + 0x202001) 8
  let s := put s 0x202000 (base + 0x204001) 8
  let s := put s 0x204000 (0x1F + base * 16) 8
  put s 0x1000 w.toNat 4

/-! ## One step -/

/-- Whether an event has a window granted that goes before a standing claim: the arrays of the cluster are free, and no window has been
granted there since the last array instruction of a hart ended (09 R203). -/
def State.goesFirst (s u : State) : Bool :=
  s.clusters.any fun (e : Nat × Cluster) =>
    e.2.window.isNone && decide (e.2.arraysFree ≤ s.now) && s.claimStands e.1 && (u.cluster e.1).window.isSome

/-- The engines' part of a cycle: an event that is due, then one whose window goes before a claim (09 R203), else one of the free events or
none; then the issue slots begin. DESIGN CHOICE (log 4). DESIGN CHOICE (log 17). -/
def State.backgroundStep (s : State) : State :=
  match s.dueEvents.findSome? fun e => e s with
  | some s => s
  | none =>
    let free : State := { s with choice := s.choice + 1 }
    let l := s.freeEvents.filterMap fun e => e free
    match l.find? s.goesFirst with
    | some s => s
    | none =>
      if l.isEmpty then s.startIssue
      else
        match l[Config.pick s.choice % (l.length + 1)]? with
        | some s => s
        | none => free.startIssue

/-- The next thing that happens in the module. -/
def State.advance (s : State) : Host.Outcome State Fault Refusal :=
  match s.inputStep with
  | some r => r
  | none =>
    if !s.powered then .fault .powerOff
    else
      match s.phase, s.todo with
      | .background, _ => .next s.backgroundStep
      | .issue, a :: rest => s.issueStep a rest
      | .issue, [] => .next s.tick

end Sys2Proof.Machine
end

