-- ==== Sys2Proof/Machine/Step.lean ====
section
/-! DEFINITION. One step of the machine, and a word placed where the next step fetches. -/

namespace Sys2Proof.Machine

/-- One step: an event from outside, an event of the engines, the issue of one agent's word, or the end of a cycle. -/
def step (s : State) : Host.Outcome State Fault Refusal := s.advance

/-- The state with the word of nbits bits w, zero above them, where the next step fetches and runs it (log 14). -/
def State.withFetchWord (s : State) (nbits w : Nat) : State := s.placeWord (BitVec.ofNat 32 (w % 2 ^ nbits))

end Sys2Proof.Machine
end

