-- ==== Sys2Proof/Safety.lean ====
section
/-! DEFINITION. What counts as a safe state and a safe run, and the terms in which the statements speak of a word that
runs. -/

namespace Sys2Proof.Machine

/-- A state whose memory is in canonical form, so that equal memories are equal lists. -/
def State.Canonical (s : State) : Prop := Memory.wf s.mem = true

/-- A state that a step can leave: power, or an event from outside that waits. -/
def State.Live (s : State) : Prop := s.powered = true ∨ s.inputs ≠ []

/-- A run of n steps that stops at no fault and no refusal. -/
def SafeRun : Nat → State → Prop
  | 0, s => s.Canonical
  | n + 1, s => s.Canonical ∧ ∃ t, step s = .next t ∧ SafeRun n t

/-! ## A word that runs -/

/-- The state in which a word's checks are made: the fixed-latency results whose cycle has come are written (03 R81). -/
def State.due (s : State) : State := s.modSc fun sc => sc.commit s.now

/-- A word that its agent may run, whose prefix lets it, that meets no trap of the stall check or of a stream block, and that
waits for nothing (03 R79, R81, R82, R84): it runs now. -/
structure State.Ready (s : State) (i : Instr) : Prop where
  /-- No privileged word in a hart (check 3 of R79). -/
  mode : (privileged i && s.cur.isHart) = false
  /-- In a hart no word of the system chain, in a steward only the words of 17 R355. -/
  agent : (if s.cur.isHart then namesSystemChain i else !stewardWord i) = false
  /-- No prefix latch, or one that the word admits and whose predicate is true (R84 to R86). -/
  latch : ∀ p, s.due.sc.latch = some p → pfxIllegal i p = false ∧ s.due.sc.pred p.psel ≠ p.pinv
  /-- No source register is pending under schk = 1 (R82). -/
  stall : (if s.due.schk then s.due.stalled i else none) = none
  /-- No stream block's fault meets the word (10 R239). -/
  late : (if s.due.cur.isHart then s.due.self.lateFault i (s.due.copyVec i) else none) = none
  /-- Nothing holds the word back (01 R42, 03 R81, 10 R233, R234, R245). -/
  free : s.due.waits i = false

/-- A word retires without a control transfer. -/
def State.retired (s : State) : State := State.finish (.retire s)
/-- A word retires with a control transfer. -/
def State.jumped (s : State) (target : Dword) : State := State.finish (.jump s target)
/-- A word raises a trap. -/
def State.trapped (s : State) (cause : Nat) (value : Dword) : State := State.finish (.trap s cause value)

/-- What register r of the running agent reads in cycle n if nothing more is issued and no scoreboarded result comes. -/
def State.regAt (s : State) (r : Reg) (n : Nat) : Dword := (s.sc.commit n).get r

/-- Two states that agree in everything outside the harts and the cores. -/
def State.SameOutside (s t : State) : Prop := { t with harts := s.harts, cores := s.cores } = s

/-- Two hart records that agree but for their scalar state and their place in the issue order. -/
def Hart.SameBeside (a b : Hart) : Prop :=
  { b with sc := a.sc, wait := a.wait, claim := a.claim, lastIssue := a.lastIssue } = a

end Sys2Proof.Machine
end

