-- ==== Sys2Proof/Certificates/Slice0/Obligations.lean ====
section
/-! DEFINITION. The statements for the provers, chapter by chapter, and the tables of the manual that they are stated by. -/


open Sys2Proof Sys2Proof.Machine

/-! ## Chapter 04: scalar words -/

namespace Sys2Proof.Claims

/-- The number of zero bits of a from bit 63 down to its highest one bit. -/
def leadingZeros (a : Dword) : Nat := ((List.range 64).takeWhile fun i => !a.getLsbD (63 - i)).length
/-- The number of zero bits of a from bit 0 up to its lowest one bit. -/
def trailingZeros (a : Dword) : Nat := ((List.range 64).takeWhile fun i => !a.getLsbD i).length
/-- The number of one bits of a. -/
def oneBits (a : Dword) : Nat := ((List.range 64).map fun i => if a.getLsbD i then 1 else 0).sum
/-- 1 for true. -/
def truth (p : Bool) : Int := if p then 1 else 0

/-- The register that a word of register arithmetic writes, the number it writes, modulo 2^64, and its latency: the tables of
R99 to R102 and R110. -/
def scalarValue (i : Instr) (s : State) : Option (Reg × Int × Nat) :=
  let n := fun (r : Reg) => ((s.rx r).toNat : Int)
  let z := fun (r : Reg) => (s.rx r).toInt
  let level := fun (l : Reg) (f : LoopEntry → BitVec 32) => (match s.sc.loops[l.toNat]? with
    | some e => ((f e).toNat : Int)
    | none => 0)
  match i with
  | .add d a b => some (d, n a + n b, 1)
  | .sub d a b => some (d, n a - n b, 1)
  | .and d a b => some (d, ((s.rx a).toNat &&& (s.rx b).toNat : Nat), 1)
  | .or d a b => some (d, ((s.rx a).toNat ||| (s.rx b).toNat : Nat), 1)
  | .xor d a b => some (d, ((s.rx a).toNat ^^^ (s.rx b).toNat : Nat), 1)
  | .andn d a b => some (d, ((s.rx a).toNat &&& (2 ^ 64 - 1 - (s.rx b).toNat) : Nat), 1)
  | .sll d a b => some (d, n a * 2 ^ ((s.rx b).toNat % 64), 1)
  | .srl d a b => some (d, n a / 2 ^ ((s.rx b).toNat % 64), 1)
  | .sra d a b => some (d, z a / 2 ^ ((s.rx b).toNat % 64), 1)
  | .slt d a b => some (d, truth (z a < z b), 1)
  | .sltu d a b => some (d, truth (n a < n b), 1)
  | .min d a b => some (d, min (z a) (z b), 1)
  | .max d a b => some (d, max (z a) (z b), 1)
  | .minu d a b => some (d, min (n a) (n b), 1)
  | .maxu d a b => some (d, max (n a) (n b), 1)
  | .csel d a b => some (d, if n d ≠ 0 then n a else n b, 1)
  | .mul d a b => some (d, n a * n b, 3)
  | .mulh d a b => some (d, z a * z b / 2 ^ 64, 3)
  | .mulhu d a b => some (d, n a * n b / 2 ^ 64, 3)
  | .clz d a => some (d, leadingZeros (s.rx a), 1)
  | .ctz d a => some (d, trailingZeros (s.rx a), 1)
  | .popc d a => some (d, oneBits (s.rx a), 1)
  | .brev d a => some (d, ((List.range 64).map fun j => if (s.rx a).getLsbD (63 - j) then (2 : Int) ^ j else 0).sum, 1)
  | .addi d a c => some (d, n a + c.toInt, 1)
  | .andi d a c => some (d, ((s.rx a).toNat &&& (c.signExtend 64).toNat : Nat), 1)
  | .ori d a c => some (d, ((s.rx a).toNat ||| (c.signExtend 64).toNat : Nat), 1)
  | .xori d a c => some (d, ((s.rx a).toNat ^^^ (c.signExtend 64).toNat : Nat), 1)
  | .slti d a c => some (d, truth (z a < c.toInt), 1)
  | .sltiu d a c => some (d, truth (n a < c.toInt % 2 ^ 64), 1)
  | .slli d a h => some (d, n a * 2 ^ h.toNat, 1)
  | .srli d a h => some (d, n a / 2 ^ h.toNat, 1)
  | .srai d a h => some (d, z a / 2 ^ h.toNat, 1)
  | .lih d c => some (d, c.toInt * 8192, 1)
  | .lish d c => some (d, n d * 2 ^ 18 + c.toNat, 1)
  | .lidx d l => some (d, level l LoopEntry.index, 1)
  | .lcnt d l => some (d, level l LoopEntry.count, 1)
  | _ => none

/-- The quotient and the remainder of R52 for a width of 64: division truncates towards zero, a division by zero gives the
largest or the most negative number and the dividend, and the signed overflow wraps. -/
def quotient (signed : Bool) (a b : Int) : Int :=
  if b = 0 then (if signed then (if 0 ≤ a then 2 ^ 63 - 1 else -2 ^ 63) else 2 ^ 64 - 1) else a.tdiv b
/-- The remainder. -/
def remainder (a b : Int) : Int := if b = 0 then a else a - b * a.tdiv b

/-- Number of significant bits, at least 1. -/
def significant (m : Nat) : Nat := if m = 0 then 1 else Nat.log2 m + 1

/-- What a division writes and when: register, number modulo 2^64, and cycles after its issue (R99). -/
def division (i : Instr) (s : State) : Option (Reg × Int × Nat) :=
  let n := fun (r : Reg) => ((s.rx r).toNat : Int)
  let z := fun (r : Reg) => (s.rx r).toInt
  let time := fun (m : Nat) => 4 + (significant m + 1) / 2
  let signedTime := fun (a b : Reg) => if z b = 0 ∨ (z a = -2 ^ 63 ∧ z b = -1) then 4 else time (z a).natAbs
  let unsignedTime := fun (a b : Reg) => if n b = 0 then 4 else time (s.rx a).toNat
  match i with
  | .div d a b => some (d, quotient true (z a) (z b), signedTime a b)
  | .divu d a b => some (d, quotient false (n a) (n b), unsignedTime a b)
  | .rem d a b => some (d, remainder (z a) (z b), signedTime a b)
  | .remu d a b => some (d, remainder (n a) (n b), unsignedTime a b)
  | _ => none

/-- Whether a branch or jump transfers control, to which address, and the register that keeps the return address (R103, R105). -/
def transferOf (i : Instr) (s : State) : Option (Bool × Int × Option Reg) :=
  let n := fun (r : Reg) => ((s.rx r).toNat : Int)
  let z := fun (r : Reg) => (s.rx r).toInt
  let pc : Int := s.sc.pc.toNat
  match i with
  | .beq a b o => some (decide (n a = n b), pc + 4 * o.toInt, none)
  | .bne a b o => some (decide (n a ≠ n b), pc + 4 * o.toInt, none)
  | .blt a b o => some (decide (z a < z b), pc + 4 * o.toInt, none)
  | .bge a b o => some (decide (z b ≤ z a), pc + 4 * o.toInt, none)
  | .bltu a b o => some (decide (n a < n b), pc + 4 * o.toInt, none)
  | .bgeu a b o => some (decide (n b ≤ n a), pc + 4 * o.toInt, none)
  | .jal d o => some (true, pc + 4 * o.toInt, some d)
  | .jalr d a o => some (true, n a + o.toInt, some d)
  | _ => none

/-- A hart after a taken transfer: fetch may no longer return what a store older than the newest FENCE has replaced (01 R49). -/
def fetchesAnew (s : State) : State :=
  match s.cur with
  | .hart h => s.modHart h fun t =>
      let first := max t.fresh t.fenced
      { t with fresh := first, stale := t.stale.filter fun e => decide (first ≤ e.owner) }
  | .steward _ => s

/-- The count and the end offset of LOOP and LOOPI (R106). -/
def loopOf (i : Instr) (s : State) : Option (Nat × Nat) :=
  match i with
  | .loop a o => some ((s.rx a).toNat, o.toNat)
  | .loopi c o => some (c.toNat, o.toNat)
  | _ => none

/-- The number that n bytes hold, the lowest first. -/
def littleEndian : List Byte → Nat
  | [] => 0
  | b :: bs => b.toNat + 256 * littleEndian bs

/-- A scalar load: its bytes, whether it extends the sign, its destination, base and offset (R111). -/
def loadOf : Instr → Option (Nat × Bool × Reg × Reg × BitVec 10)
  | .lb d a o => some (1, true, d, a, o)
  | .lbu d a o => some (1, false, d, a, o)
  | .lh d a o => some (2, true, d, a, o)
  | .lhu d a o => some (2, false, d, a, o)
  | .lw d a o => some (4, true, d, a, o)
  | .lwu d a o => some (4, false, d, a, o)
  | .ld d a o => some (8, false, d, a, o)
  | _ => none

/-- A scalar store: its bytes, its data register, base and offset (R111). -/
def storeOf : Instr → Option (Nat × Reg × Reg × BitVec 10)
  | .sb x a o => some (1, x, a, o)
  | .sh x a o => some (2, x, a, o)
  | .sw x a o => some (4, x, a, o)
  | .sd x a o => some (8, x, a, o)
  | _ => none

/-- The address of a scalar load or store. -/
def addressOf (s : State) (a : Reg) (o : BitVec 10) : Dword := BitVec.ofInt 64 ((s.rx a).toNat + o.toInt)

/-- The number that a load of n bytes gives its register, modulo 2^64. -/
def extended (n : Nat) (signed : Bool) (bs : List Byte) : Int :=
  let v := littleEndian bs % 2 ^ (8 * n)
  if signed ∧ 2 ^ (8 * n - 1) ≤ v then (v : Int) - 2 ^ (8 * n) else if signed then v else littleEndian bs

end Sys2Proof.Claims

/-- Every word of register arithmetic, of a constant, LIDX and LCNT completes: it retires with the value of its table as a
result of its latency (R99 to R102, R110). -/
def Sys2Proof.Parts.ScalarWordsGiveTheirValue : Prop :=
  ∀ (i : Instr) (s : State) (d : Reg) (v : Int) (lat : Nat), Claims.scalarValue i s.due = some (d, v, lat) → s.Ready i →
    exec i s = .next (s.due.result d (BitVec.ofInt 64 v) lat).retired

/-- DIV, DIVU, REM and REMU complete: they retire, and their quotient or remainder comes scoreboarded after the divider's
time (R99). -/
def Sys2Proof.Parts.DivisionsGiveTheirResult : Prop :=
  ∀ (i : Instr) (s : State) (d : Reg) (v : Int) (time : Nat), Claims.division i s.due = some (d, v, time) → s.Ready i →
    exec i s = .next (s.due.resultAt d (BitVec.ofInt 64 v) (s.now + time) .div).retired

/-- Every word of register arithmetic, of a constant, LIDX and LCNT completes: it retires with the value of its table as a
result of its latency (R99 to R102, R110). DIV, DIVU, REM and REMU complete: they retire, and their quotient or remainder comes
scoreboarded after the divider's time (R99). -/
def Obligations.ArithmeticWordsGiveTheirValue : Prop := Parts.ScalarWordsGiveTheirValue ∧ Parts.DivisionsGiveTheirResult

/-- A taken branch, JAL and JALR go to an aligned target below 2^52, JAL and JALR with the return address as a result of
latency 1; a branch that is not taken retires; a target that is not aligned raises ALIGN, one beyond the flat view BOUNDS,
and nothing else changes (R103 to R105). -/
def Obligations.BranchesAndJumpsGoToTheirTarget : Prop :=
  ∀ (i : Instr) (s : State) (taken : Bool) (goal : Int) (link : Option Reg),
    Claims.transferOf i s.due = some (taken, goal, link) → s.Ready i →
    let target : Dword := BitVec.ofInt 64 goal
    let linked := match link with
      | some d => s.due.result d (s.due.sc.pc + 4) 1
      | none => s.due
    (taken = false → exec i s = .next s.due.retired) ∧
    (taken = true → target.toNat % 4 = 0 → target.toNat < 2 ^ 52 →
      exec i s = .next ((Claims.fetchesAnew linked).jumped target)) ∧
    (taken = true → target.toNat % 4 ≠ 0 → exec i s = .next (s.due.trapped 0x05 target)) ∧
    (taken = true → target.toNat % 4 = 0 → 2 ^ 52 ≤ target.toNat → exec i s = .next (s.due.trapped 0x08 target))

/-- LOOP and LOOPI: reason 3 at the end address of the innermost entry, reason 4 for a count above 2^32 - 1, a transfer past
the body for a count of 0, reason 1 at depth 6, else an entry is pushed (R106). -/
def Sys2Proof.Parts.LoopsPushTheirEntry : Prop :=
  ∀ (i : Instr) (s : State) (n o : Nat), Claims.loopOf i s.due = some (n, o) → s.Ready i →
    let sc := s.due.sc
    let last := sc.pc + 4 * BitVec.ofNat 64 o
    let atEnd := sc.loops.head?.map LoopEntry.last = some sc.pc
    (atEnd → exec i s = .next (s.due.trapped 0x0F 3)) ∧
    (¬ atEnd → 2 ^ 32 ≤ n → exec i s = .next (s.due.trapped 0x0F 4)) ∧
    (¬ atEnd → n = 0 → exec i s = .next (s.due.jumped (last + 4))) ∧
    (¬ atEnd → 0 < n → n < 2 ^ 32 → 6 ≤ sc.loops.length → exec i s = .next (s.due.trapped 0x0F 1)) ∧
    (¬ atEnd → 0 < n → n < 2 ^ 32 → sc.loops.length < 6 →
      exec i s = .next (s.due.modSc fun sc =>
        { sc with loops := { index := 0, count := BitVec.ofNat 32 n, start := sc.pc + 4, last := last } :: sc.loops }).retired)

/-- LBRK pops the innermost entry and goes on after its end, LSKIP performs its loop-end step, both with the steps that follow
for outer entries of the same end (R108); with an empty stack both raise LOOPOVF with reason 2 (R110). -/
def Sys2Proof.Parts.LbrkAndLskipStepTheLoops : Prop :=
  ∀ (s : State),
    (s.Ready .lbrk → s.due.sc.loops = [] → exec .lbrk s = .next (s.due.trapped 0x0F 2)) ∧
    (s.Ready .lskip → s.due.sc.loops = [] → exec .lskip s = .next (s.due.trapped 0x0F 2)) ∧
    (∀ e es, s.Ready .lbrk → s.due.sc.loops = e :: es →
      exec .lbrk s = .next ((s.due.modSc fun sc => { sc with loops := (loopEnd es e.last).1 }).jumped (loopEnd es e.last).2)) ∧
    (∀ e es, s.Ready .lskip → s.due.sc.loops = e :: es →
      (e.index.toNat + 1 < e.count.toNat →
        exec .lskip s = .next ((s.due.modSc fun sc => { sc with loops := { e with index := e.index + 1 } :: es }).jumped e.start)) ∧
      (e.count.toNat ≤ e.index.toNat + 1 →
        exec .lskip s = .next ((s.due.modSc fun sc => { sc with loops := (loopEnd es e.last).1 }).jumped (loopEnd es e.last).2)))

/-- The loop-end step at an address: the innermost entry, if it ends there, counts and control returns to its start, or it is
popped and the step follows for the next entry; else control goes to the next address (01 R19, 04 R108). -/
def Sys2Proof.Parts.LoopEndStepCountsOrPops : Prop :=
  ∀ (es : List LoopEntry) (last : Dword),
    ((∀ e, es.head? = some e → e.last ≠ last) → loopEnd es last = (es, last + 4)) ∧
    (∀ e rest, es = e :: rest → e.last = last → e.index.toNat + 1 < e.count.toNat →
      loopEnd es last = ({ e with index := e.index + 1 } :: rest, e.start)) ∧
    (∀ e rest, es = e :: rest → e.last = last → e.count.toNat ≤ e.index.toNat + 1 → loopEnd es last = loopEnd rest last)

/-- LOOP and LOOPI: reason 3 at the end address of the innermost entry, reason 4 for a count above 2^32 - 1, a transfer past the
body for a count of 0, reason 1 at depth 6, else an entry is pushed (R106). LBRK pops the innermost entry and goes on after its
end, LSKIP performs its loop-end step, both with the steps that follow for outer entries of the same end (R108); with an empty
stack both raise LOOPOVF with reason 2 (R110). The loop-end step at an address: the innermost entry, if it ends there, counts
and control returns to its start, or it is popped and the step follows for the next entry; else control goes to the next address
(01 R19, 04 R108). -/
def Obligations.LoopsKeepTheirStack : Prop := Parts.LoopsPushTheirEntry ∧ Parts.LbrkAndLskipStepTheLoops ∧ Parts.LoopEndStepCountsOrPops

/-- PFX retires and leaves its latch loaded (03 R84); at the end address of the innermost loop it raises ILL with its word
(R85). -/
def Obligations.PfxLoadsTheLatch : Prop :=
  ∀ (p : BitVec 3) (n c : BitVec 1) (r : Reg) (s : State), s.Ready (.pfx p n c r) →
    let atEnd := s.due.sc.loops.head?.map LoopEntry.last = some s.due.sc.pc
    (atEnd → exec (.pfx p n c r) s = .next (s.due.trapped 0x01 (s.ir.setWidth 64))) ∧
    (¬ atEnd → ∃ t, exec (.pfx p n c r) s = .next t ∧
      t.sc.latch = some { psel := p, pinv := decide (n = 1), dce := decide (c = 1), dcr := r } ∧
      t.sc.pc = s.due.sc.pc + 4 ∧ t.sc.instret = s.due.sc.instret + 1 ∧ t.sc.loops = s.due.sc.loops ∧ s.due.SameOutside t)

/-- How a scalar access issues in a hart once its alignment holds, from the state t that its checks leave: it traps at the first check
that fails; it is performed at once where nothing on qd, no ordering point and no release keeps it back and the side log of 64 has room;
else it waits on qd, and the hart goes on. Where it acquires, the accesses after it stay behind it (04 R96, 10 R227, R243, 17 R358). -/
def Sys2Proof.Claims.AccessIssues (i : Instr) (s : State) (x : Transfer) (d : Option Reg) : Prop :=
  let h := s.me
  let brought := fun (u : State) (v : Brought) => (match d with
    | some d => u.resultAt d v.1 v.2 .memory
    | none => u)
  let free := fun (t : State) => t.self.vmem = [] ∧ t.self.keptBack x.owner 8 (x.kind == .ld) = false ∧ (orderingOf i).1 = false
  (∀ m t, s.due.directMiss h i x = (some m, t) → exec i s = .next (t.trapped m.cause m.value)) ∧
  (∀ t, s.due.directMiss h i x = (none, t) →
    (∀ v u, free t → t.performDirect t.me i x = .ok v u → u.self.sideLog.length ≤ 64 →
      exec i s = .next ((brought u v).amoAcquire i).retired) ∧
    (∀ m u, free t → t.performDirect t.me i x = .miss m u → exec i s = .next (u.trapped m.cause m.value)) ∧
    ((¬ free t ∨ t.performDirect t.me i x = .wait ∨ ∃ v u, t.performDirect t.me i x = .ok v u ∧ 64 < u.self.sideLog.length) →
      exec i s = .next ((t.waitOnQd x d).amoAcquire i).retired))

/-- A scalar load with its address aligned: a hart's issues on qd; a steward's retires, and its value, extended, comes scoreboarded; a
misaligned one raises ALIGN (R111). -/
def Sys2Proof.Parts.ScalarLoadsExtendTheirBytes : Prop :=
  ∀ (i : Instr) (s : State) (n : Nat) (signed : Bool) (d a : Reg) (o : BitVec 10),
    Claims.loadOf i = some (n, signed, d, a, o) → s.Ready i →
    let va := Claims.addressOf s.due a o
    (va.toNat % n ≠ 0 → exec i s = .next (s.due.trapped 0x05 va)) ∧
    (va.toNat % n = 0 → s.due.cur.isHart = true →
      Claims.AccessIssues i s { kind := .ld, addr := va, word := some i, owner := s.due.self.serial, ready := s.due.now } (some d)) ∧
    (∀ bs t, va.toNat % n = 0 → s.due.cur.isHart = false → s.due.load .scalar va n = .ok bs t →
      exec i s = .next (t.resultAt d (BitVec.ofInt 64 (Claims.extended n signed bs)) (s.due.now + s.due.myLoadTime va) .memory).retired) ∧
    (∀ m t, va.toNat % n = 0 → s.due.cur.isHart = false → s.due.load .scalar va n = .miss m t →
      exec i s = .next (t.trapped m.cause m.value))

/-- A scalar store with its address aligned: a hart's issues on qd with the register it stores; a steward's stores the low bytes of its
register, lowest first, and retires; a misaligned one raises ALIGN (R111). -/
def Sys2Proof.Parts.ScalarStoresStoreTheirBytes : Prop :=
  ∀ (i : Instr) (s : State) (n : Nat) (x a : Reg) (o : BitVec 10), Claims.storeOf i = some (n, x, a, o) → s.Ready i →
    let va := Claims.addressOf s.due a o
    (va.toNat % n ≠ 0 → exec i s = .next (s.due.trapped 0x05 va)) ∧
    (va.toNat % n = 0 → s.due.cur.isHart = true →
      Claims.AccessIssues i s
        { kind := .st, addr := va, word := some i, data := s.due.rx x, owner := s.due.self.serial, ready := s.due.now } none) ∧
    (∀ bs t, va.toNat % n = 0 → s.due.cur.isHart = false → bs.length = n →
      Claims.littleEndian bs = (s.due.rx x).toNat % 2 ^ (8 * n) → s.due.store va bs = .ok () t → exec i s = .next t.retired) ∧
    (∀ bs m t, va.toNat % n = 0 → s.due.cur.isHart = false → bs.length = n →
      Claims.littleEndian bs = (s.due.rx x).toNat % 2 ^ (8 * n) → s.due.store va bs = .miss m t →
      exec i s = .next (t.trapped m.cause m.value))

/-- A scalar access of a hart as it is performed: a load brings the value of its bytes, extended, after the time of its load; a store
stores the low bytes of its register, lowest first; each fails or waits as its bytes do (R111, 10 R227). -/
def Sys2Proof.Parts.ScalarAccessesArePerformed : Prop :=
  ∀ (i : Instr) (s : State) (h : HartKey) (n : Nat),
    (∀ signed d a o x, Claims.loadOf i = some (n, signed, d, a, o) → x.kind = .ld →
      let bytes := (s.hartLoad h .scalar x.addr n x.maker).clean x.addr
      (∀ bs t, bytes = .ok bs t → s.performDirect h i x = .ok (BitVec.ofInt 64 (Claims.extended n signed bs),
        s.now + s.loadTime (coreOfHart h) (1 + clusterOfHart h % 8) (s.hart h).ctx x.addr) t) ∧
      (∀ m t, bytes = .miss m t → s.performDirect h i x = .miss m t) ∧
      (bytes = .wait → s.performDirect h i x = .wait)) ∧
    (∀ r a o x bs, Claims.storeOf i = some (n, r, a, o) → x.kind = .st → bs.length = n →
      Claims.littleEndian bs = x.data.toNat % 2 ^ (8 * n) →
      let stored := s.hartStore h .scalar false x.addr (bs.map some) x.maker
      (∀ t, stored = .ok () t → s.performDirect h i x = .ok (0, t.now) t) ∧
      (∀ m t, stored = .miss m t → s.performDirect h i x = .miss m t) ∧
      (stored = .wait → s.performDirect h i x = .wait))

/-- A scalar load with its address aligned: a hart's issues on qd; a steward's retires, and its value, extended, comes
scoreboarded; a misaligned one raises ALIGN (R111). A scalar store with its address aligned: a hart's issues on qd with the
register it stores; a steward's stores the low bytes of its register, lowest first, and retires; a misaligned one raises ALIGN
(R111). A scalar access of a hart as it is performed: a load brings the value of its bytes, extended, after the time of its
load; a store stores the low bytes of its register, lowest first; each fails or waits as its bytes do (R111, 10 R227). -/
def Obligations.ScalarLoadsAndStoresMoveTheirBytes : Prop := Parts.ScalarLoadsExtendTheirBytes ∧ Parts.ScalarStoresStoreTheirBytes ∧ Parts.ScalarAccessesArePerformed

/-! ## Chapters 01, 03 and 17: registers, checks, traps -/

/-- A result of latency L on register r reads as v from L cycles after its issue on, and the register keeps its older value
before; x0 stays zero, and every other register but the copy register keeps what it would have read (R16, R81, R83, R86). -/
def Sys2Proof.Parts.ResultsAppearAfterTheirLatency : Prop :=
  ∀ (s : State) (d r : Reg) (v : Dword) (lat n : Nat),
    (s.result d v lat).regAt 0 n = 0 ∧
    (d ≠ 0 → s.now + lat ≤ n → (s.result d v lat).regAt d n = v) ∧
    (d ≠ 0 → s.copyReg ≠ some d → n < s.now + lat → (s.result d v lat).regAt d n = (s.modSc fun sc => sc.discard d).regAt d n) ∧
    (∀ c, s.copyReg = some c → c ≠ 0 → s.now + lat ≤ n → (s.result d v lat).regAt c n = v) ∧
    (r ≠ d → s.copyReg ≠ some r → (s.result d v lat).regAt r n = s.regAt r n)

/-- A scoreboarded result is written in its cycle and not before, and until then every word that reads its register waits; so does a word
that writes the register of a query of the rows. A result that still waits for its access on qd comes when that access brings its value
(R81, 06 R146). -/
def Sys2Proof.Parts.ScoreboardedResultsHoldTheirReaders : Prop :=
  ∀ (s : State) (d : Reg) (v : Dword) (ready owner : Nat) (i : Instr), d ≠ 0 → s.copyReg = none → s.sc.board = [] →
    let waiting := fun (w : State) =>
      (d ∈ scalarSources i → w.waits i = true) ∧
      (∀ n, n < ready → (w.sc.arriveBoard n fun w => w.kind != .div) = w.sc)
    let brought := fun (sc : Scalar) => ∀ n, ready ≤ n →
      (sc.arriveBoard n fun w => w.kind != .div).get d = v ∧ (sc.arriveBoard n fun w => w.kind != .div).board = []
    waiting (s.resultAt d v ready) ∧ brought (s.resultAt d v ready).sc ∧
    (scalarDest i = some d → (s.resultAt d v ready .query).waits i = true) ∧
    waiting (s.resultAt d 0 0 .memory (some owner)) ∧ brought ((s.resultAt d 0 0 .memory (some owner)).sc.bring owner v ready)

/-- A result of latency L on register r reads as v from L cycles after its issue on, and the register keeps its older value
before; x0 stays zero, and every other register but the copy register keeps what it would have read (R16, R81, R83, R86). A
scoreboarded result is written in its cycle and not before, and until then every word that reads its register waits; so does a
word that writes the register of a query of the rows. A result that still waits for its access on qd comes when that access
brings its value (R81, 06 R146). -/
def Obligations.ResultsAppearInTheirCycle : Prop := Parts.ResultsAppearAfterTheirLatency ∧ Parts.ScoreboardedResultsHoldTheirReaders

/-- Retirement counts the word, clears the prefix latch, takes the loop-end step, and holds the next word back for one cycle
and the stall count from its issue, which for a word that has waited came before; a control transfer takes at least two cycles and no loop-end step (R19, R80, R97, R107). -/
def Obligations.RetirementMovesThePc : Prop :=
  ∀ (s : State) (target : Dword),
    let t := match s.cur with
      | .hart h => if (s.hart h).wait = .none then s.now else (s.hart h).waitFrom
      | .steward _ => s.now
    s.retired.sc =
      { s.sc with
        loops := (loopEnd s.sc.loops s.sc.pc).1
        pc := (loopEnd s.sc.loops s.sc.pc).2
        latch := none
        instret := s.sc.instret + 1
        nextIssue := max s.sc.nextIssue (t + 1 + s.ir.toNat % 8) } ∧
    (s.jumped target).sc =
      { s.sc with
        pc := target
        latch := none
        instret := s.sc.instret + 1
        nextIssue := max s.sc.nextIssue (max (t + 1 + s.ir.toNat % 8) (t + 2)) }

/-- The words of the frame below, with the register that each writes: register arithmetic, divisions, branches, jumps, loop words, CSR
reads and PFX. -/
def Sys2Proof.Claims.scalarWrites (i : Instr) (s : State) : Option (Option Reg) :=
  match Claims.scalarValue i s, Claims.division i s, Claims.transferOf i s, i with
  | some p, _, _, _ => some (some p.1)
  | _, some p, _, _ => some (some p.1)
  | _, _, some p, _ => some p.2.2
  | _, _, _, .csrr d _ => some (some d)
  | _, _, _, .loop _ _ => some none
  | _, _, _, .loopi _ _ => some none
  | _, _, _, .lbrk => some none
  | _, _, _, .lskip => some none
  | _, _, _, .pfx _ _ _ _ => some none
  | _, _, _, _ => none

/-- What a word of register arithmetic, a division, a branch, a jump, a loop word, a CSR read or PFX leaves unchanged where it raises no
trap of its own: memory, every A-space row, every cluster and engine, every control register of its hart, and every other hart; and every
register but its destination and the copy register reads as before (R16, R99, R103 to R110). A taken branch or jump refreshes what
the fetch of its hart may return (R49), and nothing else of it. Its own traps are ILL, ALIGN, BOUNDS and LOOPOVF. -/
def Obligations.ScalarWordsKeepTheRest : Prop :=
  ∀ (i : Instr) (s t : State) (h : HartKey) (d : Option Reg),
    Claims.scalarWrites i s.due = some d → s.Ready i → s.cur = .hart h → exec i s = .next t →
    let beside := if (Claims.transferOf i s.due).isSome then
        { t.hart h with fresh := (s.hart h).fresh, stale := (s.hart h).stale } else t.hart h
    (∃ cause value, (cause = 0x01 ∨ cause = 0x05 ∨ cause = 0x08 ∨ cause = 0x0F) ∧ t = s.due.trapped cause value) ∨
    (s.SameOutside t ∧ t.cores = s.cores ∧ (s.hart h).SameBeside beside ∧ (∀ g, g ≠ h → t.hart g = s.hart g) ∧
      (∀ r n, s.now ≤ n → d ≠ some r → s.due.copyReg ≠ some r → t.regAt r n = s.due.regAt r n) ∧
      (t.hart h).sc.preds = (s.hart h).sc.preds)

/-- A privileged word in a hart raises PRIV with the word as its value, before every other check but fetch (R79, R355). -/
def Sys2Proof.Parts.PrivilegedWordsTrapInAHart : Prop :=
  ∀ (i : Instr) (s : State) (h : HartKey), s.cur = .hart h →
    (i = .sret ∨ (∃ d a b, i = .svsave d a b) ∨ (∃ d a b, i = .svrest d a b) ∨ (∃ d a, i = .slreplay d a) ∨
      (∃ d a, i = .tlbinv d a) ∨ (∃ d a b, i = .hfreeze d a b) ∨ (∃ d a, i = .hthaw d a) ∨ (∃ d a b, i = .esload d a b) ∨
      (∃ d, i = .estep d)) →
    exec i s = .next (s.due.takeTrap h 0x02 (s.ir.setWidth 64) (s.hart h).sc.pc)

/-- A word that the steward does not run only leaves ILL and the word in serr and serrv, if serr was 0, and the steward goes
on (R355). That such a word counts as ILL, and which words the steward runs, is the model's choice (log 24). -/
def Sys2Proof.Parts.StewardNotesRefusedWords : Prop :=
  ∀ (i : Instr) (s : State) (c : CoreId), s.cur = .steward c → stewardWord i = false → (∃ w, encode i 0 = some w) →
    ∃ t, exec i s = .next t ∧ s.SameOutside t ∧ t.harts = s.harts ∧
      (t.core c).steward.serr = (if (s.core c).steward.serr = 0 then 1 else (s.core c).steward.serr) ∧
      (t.core c).steward.serrv = (if (s.core c).steward.serr = 0 then s.ir.setWidth 64 else (s.core c).steward.serrv) ∧
      (t.core c).steward.sc.instret = (s.core c).steward.sc.instret + 1 ∧
      (t.core c).steward.running = (s.core c).steward.running ∧ (t.core c).steward.events = (s.core c).steward.events

/-- A privileged word in a hart raises PRIV with the word as its value, before every other check but fetch (R79, R355). A word
that the steward does not run only leaves ILL and the word in serr and serrv, if serr was 0, and the steward goes on (R355).
That such a word counts as ILL, and which words the steward runs, is the model's choice (log 24). -/
def Obligations.PrivilegeSeparatesHartsAndStewards : Prop := Parts.PrivilegedWordsTrapInAHart ∧ Parts.StewardNotesRefusedWords

/-- Under a loaded latch, a word that admits no prefix, or not this one, raises ILL (R79, R85, R86); one that admits it and
whose predicate is false retires with no effect (R84). This holds for every instruction word of a hart. -/
def Sys2Proof.Parts.PrefixesRefuseOrSkipTheirWord : Prop :=
  ∀ (i : Instr) (s : State) (h : HartKey) (p : PfxLatch), s.cur = .hart h → (∃ w, encode i 0 = some w) →
    privileged i = false → namesSystemChain i = false → s.due.sc.latch = some p →
    (pfxIllegal i p = true → exec i s = .next (s.due.takeTrap h 0x01 (s.ir.setWidth 64) (s.hart h).sc.pc)) ∧
    (pfxIllegal i p = false → s.due.sc.pred p.psel = p.pinv → exec i s = .next s.due.retired)

/-- Under schk = 1, a word of a hart that is eligible, with a source register whose fixed-latency result is pending, raises STALL with the
register's number, the first in the order xa, xb, xd, xn; a word that is not eligible yet is not checked, and only the results that are
due are written (R82, 07 R166); one that waits while it orders accesses itself or reads a record passes over the stream blocks whose check
has failed, which is the model's choice (log 21). -/
def Sys2Proof.Parts.EarlyReadersRaiseStall : Prop :=
  ∀ (i : Instr) (s : State) (h : HartKey) (r : Reg), s.cur = .hart h → (∃ w, encode i 0 = some w) →
    privileged i = false → namesSystemChain i = false →
    (∀ p, s.due.sc.latch = some p → pfxIllegal i p = false ∧ s.due.sc.pred p.psel ≠ p.pinv) → (s.hart h).wait = .none →
    (s.due.waits i = false → (s.hart h).csr.schk = true → s.due.stalled i = some r →
      exec i s = .next (s.due.takeTrap h 0x03 (r.setWidth 64) (s.hart h).sc.pc)) ∧
    (s.due.waits i = true → ((s.hart h).failedBlocks = [] ∨ (ordersItself i = false ∧ readsRecord i = false)) →
      exec i s = .next s.due) ∧
    (s.due.waits i = true → (s.hart h).failedBlocks ≠ [] → (ordersItself i = true ∨ readsRecord i = true) →
      exec i s = .next (s.due.modHart h fun t =>
        { t with streams := t.streams.map fun b => b.map fun b => { b with waived := b.fault.isSome } }))

/-- Under a loaded latch, a word that admits no prefix, or not this one, raises ILL (R79, R85, R86); one that admits it and
whose predicate is false retires with no effect (R84). This holds for every instruction word of a hart. Under schk = 1, a word
of a hart that is eligible, with a source register whose fixed-latency result is pending, raises STALL with the register's
number, the first in the order xa, xb, xd, xn; a word that is not eligible yet is not checked, and only the results that are due
are written (R82, 07 R166); one that waits while it orders accesses itself or reads a record passes over the stream blocks whose
check has failed, which is the model's choice (log 21). -/
def Obligations.PrefixAndStallChecksComeFirst : Prop := Parts.PrefixesRefuseOrSkipTheirWord ∧ Parts.EarlyReadersRaiseStall

/-- A program-level trap of a hart with INH = 0 and tvec ≠ 0: every pending fixed-latency result is written, tepc, tcause,
tval and pfxl are saved, INH is set, the latch is cleared, and control goes to tvec; the word is not counted, and nothing
outside the hart changes (R45, R83, R352). With no prefix pending every bit of pfxl becomes 0, where the rule states its valid bit alone:
the model's choice (log 54). -/
def Sys2Proof.Parts.TrapsEnterTheHandler : Prop :=
  ∀ (s : State) (h : HartKey) (cause : Nat) (value addr : Dword), cause < 2 ^ 64 →
    cause ≠ 0x06 → cause ≠ 0x07 → cause ≠ 0x09 → (s.hart h).csr.inh = false → (s.hart h).csr.tvec ≠ 0 →
    let old := s.hart h
    let new := (s.takeTrap h cause value addr).hart h
    new.csr.tepc = addr ∧ new.csr.tcause.toNat = cause ∧ new.csr.tval = value ∧ new.csr.pfxl = packLatch old.sc.latch ∧
    new.csr.inh = true ∧ new.csr.tvec = old.csr.tvec ∧ new.csr.fflags = old.csr.fflags ∧ new.csr.rmode = old.csr.rmode ∧
    new.sc.pc = old.csr.tvec ∧ new.sc.latch = none ∧ new.sc.loops = old.sc.loops ∧ new.sc.instret = old.sc.instret ∧
    new.sc.x = old.sc.commitAll.x ∧ new.sc.fixed = [] ∧ new.sc.preds = old.sc.preds ∧ new.fields = old.fields ∧
    s.SameOutside (s.takeTrap h cause value addr) ∧ (s.takeTrap h cause value addr).cores = s.cores ∧
    (∀ g, g ≠ h → (s.takeTrap h cause value addr).hart g = s.hart g)

/-- Hart h of state s is held with a trap in state t: its trap registers, its PC and its latch stay, pending fixed-latency results are
written, PROT freezes it, and an HTRAP event with the cause, the value and the address joins its steward's queue. -/
def Sys2Proof.Claims.HeldAt (s : State) (h : HartKey) (cause : Nat) (value addr : Dword) (t : State) : Prop :=
  (t.hart h).held = some { cause := cause, value := value, addr := addr, frozen := decide (cause = 0x07) } ∧
  (t.hart h).csr = (s.hart h).csr ∧ (t.hart h).sc = (s.hart h).sc.commitAll ∧ (t.hart h).wait = .none ∧
  (t.hart h).isFrozen = ((s.hart h).frozen || decide (cause = 0x07)) ∧
  (t.core (coreOfHart h)).steward.events = (s.core (coreOfHart h)).steward.events ++
    [{ kind := 1, master := hartMaster h, ctx := (s.hart h).ctx, value := value, pc := addr, x := BitVec.ofNat 8 cause,
       who := some ((s.hart h).launch, (s.hart h).team) }] ∧
  (cause ≠ 0x07 → s.SameOutside t) ∧
  { t with harts := s.harts, cores := s.cores, snapshot := s.snapshot, ctxStates := s.ctxStates } = s ∧
  (∀ g, g ≠ h → t.hart g = s.hart g)

/-- LDPF, PROT and UCE, and every trap of a hart with INH = 1 or tvec = 0, hold the hart at the instruction: its trap
registers, its PC and its latch stay, and an HTRAP event with the cause, the value and the address joins its steward's
queue; PROT freezes the hart too, which the resync summary and the snapshot note. While passes of the hart's older array words go on, the
trap waits for their end, and is taken then (R44, R46, R352 to R354, R363). -/
def Sys2Proof.Parts.OtherTrapsHoldTheHart : Prop :=
  ∀ (s : State) (h : HartKey) (cause : Nat) (value addr : Dword),
    (cause = 0x06 ∨ cause = 0x07 ∨ cause = 0x09 ∨ (s.hart h).csr.inh = true ∨ (s.hart h).csr.tvec = 0) →
    let t := s.takeTrap h cause value addr
    ((s.hart h).arrayDone ≤ s.now → Claims.HeldAt s h cause value addr t) ∧
    (s.now < (s.hart h).arrayDone →
      t.hart h = { s.hart h with sc := (s.hart h).sc.commitAll, claim := none, wait := .trapping cause value addr } ∧
      s.SameOutside t ∧ t.cores = s.cores ∧ (∀ g, g ≠ h → t.hart g = s.hart g)) ∧
    ((s.hart h).wait = .trapping cause value addr →
      (s.now < (s.hart h).arrayDone → s.trapStep h = none) ∧
      ((s.hart h).arrayDone ≤ s.now → ∃ u, s.trapStep h = some u ∧ Claims.HeldAt s h cause value addr u))

/-- A program-level trap of a hart with INH = 0 and tvec ≠ 0: every pending fixed-latency result is written, tepc, tcause, tval
and pfxl are saved, INH is set, the latch is cleared, and control goes to tvec; the word is not counted, and nothing outside the
hart changes (R45, R83, R352). With no prefix pending every bit of pfxl becomes 0, where the rule states its valid bit alone:
the model's choice (log 54). LDPF, PROT and UCE, and every trap of a hart with INH = 1 or tvec = 0, hold the hart at the
instruction: its trap registers, its PC and its latch stay, and an HTRAP event with the cause, the value and the address joins
its steward's queue; PROT freezes the hart too, which the resync summary and the snapshot note. While passes of the hart's older
array words go on, the trap waits for their end, and is taken then (R44, R46, R352 to R354, R363). -/
def Obligations.TrapsEnterTheHandlerOrHoldTheHart : Prop := Parts.TrapsEnterTheHandler ∧ Parts.OtherTrapsHoldTheHart

/-- TRET in a hart: control goes to tepc, the latch is loaded from pfxl if its valid bit is set and that bit is cleared, INH is
cleared, the word counts, and there is no loop-end step; nothing else of the hart changes (R47, R107, R116). -/
def Sys2Proof.Parts.TretReturnsFromTheHandler : Prop :=
  ∀ (s : State) (h : HartKey), s.cur = .hart h → s.Ready .tret →
    let old := s.due.hart h
    ∃ t, exec .tret s = .next t ∧
      (t.hart h).sc.pc = old.csr.tepc ∧ (t.hart h).sc.latch = unpackLatch old.csr.pfxl ∧
      (t.hart h).csr = { old.csr with inh := false, pfxl := old.csr.pfxl &&& 0x7FE } ∧
      (t.hart h).sc.loops = old.sc.loops ∧ (t.hart h).sc.x = old.sc.x ∧ (t.hart h).sc.instret = old.sc.instret + 1 ∧
      s.SameOutside t ∧ t.cores = s.cores ∧ (∀ g, g ≠ h → t.hart g = s.hart g)

/-- SCALL and BRK retire, with their loop-end step, and then trap on the address after them; tval is their own address, and their stall
count adds nothing to what the trap takes (03 R80, R45, R114, R115). -/
def Sys2Proof.Parts.ScallAndBrkTrapAfterThemselves : Prop :=
  ∀ (s : State) (h : HartKey), s.cur = .hart h →
    let next := (loopEnd s.due.sc.loops s.due.sc.pc).2
    let after := State.issued (s.due.modSc fun sc =>
      { sc with loops := (loopEnd sc.loops sc.pc).1, pc := next, latch := none, instret := sc.instret + 1
                nextIssue := max sc.nextIssue (s.now + 1) })
    (s.Ready .scall → exec .scall s = .next (after.takeTrap h 0x10 s.due.sc.pc next)) ∧
    (s.Ready .brk → exec .brk s = .next (after.takeTrap h 0x11 s.due.sc.pc next))

/-- TRET in a hart: control goes to tepc, the latch is loaded from pfxl if its valid bit is set and that bit is cleared, INH is
cleared, the word counts, and there is no loop-end step; nothing else of the hart changes (R47, R107, R116). SCALL and BRK
retire, with their loop-end step, and then trap on the address after them; tval is their own address, and their stall count adds
nothing to what the trap takes (03 R80, R45, R114, R115). -/
def Obligations.CallsAndReturnsPassBetweenHandlers : Prop := Parts.TretReturnsFromTheHandler ∧ Parts.ScallAndBrkTrapAfterThemselves

/-! ## Chapter 05: fields, tags, row arithmetic -/

namespace Sys2Proof.Claims

/-- A row operation of VARITH, VARX, VSIMH, VIDX and VFTAG: destination, sources, row count, mask, whether the operands' types
suit it, its passes, and the result of a row: its bits, its flags, and whether the row stays valid. -/
structure RowOp where
  dest : VReg
  sources : List VReg
  count : Reg
  mask : BitVec 1
  admits : Bool
  passes : Nat
  row : Nat → Nat × Flags × Bool

/-- The bits of field v of the running hart in row e. -/
def bits (s : State) (v : VReg) (e : Nat) : Nat := s.elem s.me (s.self.field v) e
/-- Those bits as a two's-complement or unsigned integer, as the type says (R50). -/
def num (s : State) (v : VReg) (e : Nat) : Int :=
  let d := s.self.field v
  let r := bits s v e
  if d.type = 0 ∧ r.testBit (d.width.toNat - 1) then (r : Int) - 2 ^ d.width.toNat else r
/-- Those bits as a number of the field's float format. -/
def flt (s : State) (v : VReg) (e : Nat) : Machine.Num := (s.self.field v).fmt.decode (bits s v e)
/-- The width of field v. -/
def wid (s : State) (v : VReg) : Nat := (s.self.field v).width.toNat
/-- The type of field v. -/
def typ (s : State) (v : VReg) : Nat := (s.self.field v).type.toNat
/-- The low w bits of an integer (R51). -/
def fit (w : Nat) (x : Int) : Nat := (x % 2 ^ w).toNat
/-- Integer class (R128). -/
def isI (s : State) (v : VReg) : Bool := decide (typ s v ≤ 1)
/-- Float class. -/
def isF (s : State) (v : VReg) : Bool := decide (2 ≤ typ s v ∧ typ s v ≤ 6)
/-- Rule IF over a destination and sources. -/
def admitsIF (s : State) (d : VReg) (vs : List VReg) : Bool :=
  (isI s d && vs.all (isI s)) || (isF s d && vs.all fun v => decide (typ s v = typ s d))
/-- Rule I. -/
def admitsI (s : State) (d : VReg) (vs : List VReg) : Bool := isI s d && vs.all (isI s)
/-- Rule IS. -/
def admitsIS (s : State) (d : VReg) (vs : List VReg) : Bool := isI s d && vs.all fun v => decide (typ s v = typ s d)
/-- Rule F. -/
def admitsF (s : State) (d : VReg) (vs : List VReg) : Bool := isF s d && vs.all fun v => decide (typ s v = typ s d)
/-- Rule B. -/
def admitsB (s : State) (d : VReg) (vs : List VReg) : Bool := vs.all fun v => decide (wid s v = wid s d)
/-- Widths of integer sources of at most 32. -/
def narrowI (s : State) (vs : List VReg) : Bool := vs.all fun v => !isI s v || decide (wid s v ≤ 32)
/-- An integer result. -/
def ires (s : State) (d : VReg) (x : Int) : Nat × Flags × Bool := (fit (wid s d) x, 0, true)
/-- A float result: rounded once, its flags added to those of the operation (R63, R66). -/
def fres (s : State) (d : VReg) (x : Machine.Num × Flags) : Nat × Flags × Bool :=
  let r := (s.self.field d).fmt.round s.self.csr.rmode.toNat x.1
  (r.1, x.2 ||| r.2, true)
/-- Bits taken as they are. -/
def bres (v : Nat) : Nat × Flags × Bool := (v, 0, true)
/-- A result clamped to the destination's range, with SAT where that changes it (R51). -/
def sres (s : State) (d : VReg) (x : Int) : Nat × Flags × Bool :=
  let w := wid s d
  let lo : Int := if typ s d = 0 then -(2 ^ (w - 1) : Int) else 0
  let hi : Int := if typ s d = 0 then 2 ^ (w - 1) - 1 else 2 ^ w - 1
  let c := max lo (min hi x)
  (fit w c, if c = x then 0 else flagSAT, true)
/-- The float cost table of R134, by type: bf16, f16, f32, e4m3, e5m2. -/
def fcost (s : State) (v : VReg) (bf16 f16 f32 e4m3 e5m2 : Nat) : Nat :=
  match typ s v with
  | 2 => bf16
  | 3 => f16
  | 4 => f32
  | 5 => e4m3
  | _ => e5m2
/-- The greatest width of three fields. -/
def w3 (s : State) (d a b : VReg) : Nat := max (wid s a) (max (wid s b) (wid s d))
/-- The scalar operand of VARX as an integer, as va's type reads it (R137). -/
def key (s : State) (a : VReg) (b : Reg) : Int := if typ s a = 0 then (s.rx b).toInt else (s.rx b).toNat
/-- The scalar operand of VARX as a float. -/
def fkey (s : State) (a : VReg) (b : Reg) : Machine.Num := (s.self.field a).fmt.decode ((s.rx b).toNat % 2 ^ wid s a)
/-- Ones among the low w bits. -/
def ones (w v : Nat) : Nat := ((List.range w).map fun i => if v.testBit i then 1 else 0).sum

/-- The quotient or remainder of R52 in a width. -/
def quot (signed : Bool) (w : Nat) (a b : Int) : Int :=
  if b = 0 then (if signed then (if 0 ≤ a then 2 ^ (w - 1) - 1 else -(2 ^ (w - 1) : Int)) else 2 ^ w - 1) else a.tdiv b

/-- An IF word with two field sources. -/
def ifOp (s : State) (d a b : VReg) (n : Reg) (m : BitVec 1) (lim : Bool) (pi pf : Nat) (fi : Int → Int → Int)
    (ff : Nat → Machine.Num → Machine.Num → Machine.Num × Flags) : RowOp :=
  { dest := d, sources := [a, b], count := n, mask := m, admits := admitsIF s d [a, b] && (!lim || narrowI s [a, b]),
    passes := if isI s a then pi else pf,
    row := fun e => if isI s a then ires s d (fi (num s a e) (num s b e))
      else fres s d (ff s.self.csr.rmode.toNat (flt s a e) (flt s b e)) }
/-- An IF word with a field and a scalar source. -/
def ifOpX (s : State) (d a : VReg) (b n : Reg) (m : BitVec 1) (lim : Bool) (pi pf : Nat) (fi : Int → Int → Int)
    (ff : Nat → Machine.Num → Machine.Num → Machine.Num × Flags) : RowOp :=
  { dest := d, sources := [a], count := n, mask := m, admits := admitsIF s d [a] && (!lim || narrowI s [a]),
    passes := if isI s a then pi else pf,
    row := fun e => if isI s a then ires s d (fi (num s a e) (key s a b))
      else fres s d (ff s.self.csr.rmode.toNat (flt s a e) (fkey s a b)) }
/-- An integer word with two field sources. -/
def intOp (s : State) (d a b : VReg) (n : Reg) (m : BitVec 1) (admits : Bool) (p : Nat) (f : Nat → Int) : RowOp :=
  { dest := d, sources := [a, b], count := n, mask := m, admits := admits, passes := p, row := fun e => ires s d (f e) }
/-- A word over bits with some field sources. -/
def bitOp (s : State) (d : VReg) (vs : List VReg) (n : Reg) (m : BitVec 1) (p : Nat) (f : Nat → Nat) : RowOp :=
  { dest := d, sources := vs, count := n, mask := m, admits := admitsB s d vs, passes := p, row := fun e => bres (f e) }
/-- A float word. -/
def fltOp (s : State) (d : VReg) (vs : List VReg) (n : Reg) (m : BitVec 1) (p : Nat) (f : Nat → Machine.Num × Flags) : RowOp :=
  { dest := d, sources := vs, count := n, mask := m, admits := admitsF s d vs, passes := p, row := fun e => fres s d (f e) }

/-- The row operations of R132 to R134, R138, R151 and R154, but VCVT. VSCALX scales by 2^k; beyond ±4096 every k gives what
±4096 gives. -/
def rowOp (i : Instr) (s : State) : Option RowOp :=
  let z := num s
  let r := bits s
  let w := wid s
  let rm := s.self.csr.rmode.toNat
  let minmax := fun (top : Bool) (x y : Machine.Num) => (Machine.Num.minMax top x y, (0 : Flags))
  match i with
  | .vadd d a b n m => some (ifOp s d a b n m false (4 * w3 s d a b + 1) (fcost s a 420 480 780 200 180) (· + ·) fun q x y => x.add q y)
  | .vsub d a b n m => some (ifOp s d a b n m false (4 * w3 s d a b + 1) (fcost s a 420 480 780 200 180) (· - ·) fun q x y => x.sub q y)
  | .vmul d a b n m =>
    some (ifOp s d a b n m true (4 * w a * w b + 2 * (w a + w b)) (fcost s a 300 640 2400 120 90) (· * ·) fun _ x y => x.mul y)
  | .vmin d a b n m =>
    some (ifOp s d a b n m false (6 * w3 s d a b + 1) (4 * w a + 6) (fun x y => if x < y then x else y) fun _ => minmax false)
  | .vmax d a b n m =>
    some (ifOp s d a b n m false (6 * w3 s d a b + 1) (4 * w a + 6) (fun x y => if x < y then y else x) fun _ => minmax true)
  | .vmac d a b n m =>
    some (intOp s d a b n m (admitsI s d [a, b] && narrowI s [a, b]) (4 * w a * w b + 2 * (w a + w b) + 4 * w d)
      fun e => z d e + z a e * z b e)
  | .vdiv d a b n m =>
    some (if isI s a then
        intOp s d a b n m (admitsIS s d [a, b] && narrowI s [a, b]) (8 * w a * w b + 4 * w a)
          fun e => quot (typ s d = 0) (w d) (z a e) (z b e)
      else fltOp s d [a, b] n m (fcost s a 700 1500 5600 260 220) fun e => (flt s a e).div (flt s b e))
  | .vrem d a b n m =>
    some (intOp s d a b n m (admitsIS s d [a, b] && narrowI s [a, b]) (8 * w a * w b + 4 * w a)
      fun e => if z b e = 0 then z a e else z a e - z b e * (z a e).tdiv (z b e))
  | .vabs d a n m =>
    some { dest := d, sources := [a], count := n, mask := m, admits := admitsIF s d [a],
           passes := if isI s a then 4 * max (w a) (w d) + 2 else 2 * w a + 2,
           row := fun e => if isI s a then ires s d |z a e| else bres ((s.self.field d).fmt.round 0 (flt s a e).abs).1 }
  | .vneg d a n m =>
    some { dest := d, sources := [a], count := n, mask := m, admits := admitsIF s d [a],
           passes := if isI s a then 2 * max (w a) (w d) + 1 else 2 * w a + 2,
           row := fun e => if isI s a then ires s d (-z a e) else bres ((s.self.field d).fmt.round 0 (flt s a e).neg).1 }
  | .vand d a b n m => some (bitOp s d [a, b] n m (2 * w d) fun e => r a e &&& r b e)
  | .vor d a b n m => some (bitOp s d [a, b] n m (2 * w d) fun e => r a e ||| r b e)
  | .vxor d a b n m => some (bitOp s d [a, b] n m (2 * w d) fun e => r a e ^^^ r b e)
  | .vandn d a b n m => some (bitOp s d [a, b] n m (2 * w d) fun e => r a e &&& (2 ^ w d - 1 - r b e))
  | .vnot d a n m => some (bitOp s d [a] n m (2 * w d) fun e => 2 ^ w d - 1 - r a e)
  | .vmov d a n m => some (bitOp s d [a] n m (2 * w d) fun e => r a e)
  | .vsel d a b n m => some (bitOp s d [a, b] n m (4 * w d) fun e => if s.tag s.me 1 e then r a e else r b e)
  | .vshlv d a b n m =>
    some (intOp s d a b n m (admitsI s d [a, b] && decide (typ s b = 1))
      (2 * max (w a) (w d) * (max 1 (Nat.clog 2 (max (w a) (w d))) + 1) + w b) fun e => if w d ≤ r b e then 0 else z a e * 2 ^ r b e)
  | .vshrv d a b n m =>
    some (intOp s d a b n m (admitsI s d [a, b] && decide (typ s b = 1))
      (2 * max (w a) (w d) * (max 1 (Nat.clog 2 (max (w a) (w d))) + 1) + w b) fun e => if w a ≤ r b e then (if z a e < 0 then -1 else 0) else z a e / 2 ^ r b e)
  | .vadds d a b n m =>
    some { dest := d, sources := [a, b], count := n, mask := m, admits := admitsI s d [a, b], passes := 4 * w3 s d a b + 3,
           row := fun e => sres s d (z a e + z b e) }
  | .vsubs d a b n m =>
    some { dest := d, sources := [a, b], count := n, mask := m, admits := admitsI s d [a, b], passes := 4 * w3 s d a b + 3,
           row := fun e => sres s d (z a e - z b e) }
  | .vmulh d a b n m =>
    some (intOp s d a b n m (admitsIS s d [a, b] && admitsB s d [a, b] && decide (w d ≤ 32)) (4 * w a * w b + 2 * (w a + w b))
      fun e => z a e * z b e / 2 ^ w d)
  | .vclz d a n m =>
    some { dest := d, sources := [a], count := n, mask := m, admits := isI s d, passes := w a + 2 * w d + 1,
           row := fun e => ires s d ((List.range (w a)).takeWhile fun j => !(r a e).testBit (w a - 1 - j)).length }
  | .vpopc d a n m =>
    some { dest := d, sources := [a], count := n, mask := m, admits := isI s d, passes := w a * (2 * w d + 1) + 2 * w d,
           row := fun e => ires s d (ones (w a) (r a e)) }
  | .vfma d a b n m =>
    some (fltOp s d [a, b] n m (fcost s d 760 1180 3300 340 300) fun e => Machine.Num.fma rm (flt s a e) (flt s b e) (flt s d e))
  | .vrnd d a n m => some (fltOp s d [a] n m (fcost s d 140 160 300 70 70) fun e => (flt s a e).integral rm)
  | .vrcp d a n m => some (fltOp s d [a] n m (fcost s d 620 1300 5200 230 200) fun e => (flt s a e).rcp)
  | .vrsq d a n m => some (fltOp s d [a] n m (fcost s d 900 1900 7400 300 260) fun e => (flt s a e).rsq)
  | .vaddx d a b n m =>
    some (ifOpX s d a b n m false (2 * max (w a) (w d) + 1) (fcost s a 420 480 780 200 180) (· + ·) fun q x y => x.add q y)
  | .vsubx d a b n m =>
    some (ifOpX s d a b n m false (2 * max (w a) (w d) + 1) (fcost s a 420 480 780 200 180) (· - ·) fun q x y => x.sub q y)
  | .vrsubx d a b n m =>
    some (ifOpX s d a b n m false (2 * max (w a) (w d) + 1) (fcost s a 420 480 780 200 180) (fun x y => y - x) fun q x y => y.sub q x)
  | .vmulx d a b n m =>
    some (ifOpX s d a b n m true (4 * w a * significant (key s a b).natAbs) (fcost s a 300 640 2400 120 90) (· * ·)
      fun _ x y => x.mul y)
  | .vmacx d a b n m =>
    some { dest := d, sources := [a], count := n, mask := m, admits := admitsI s d [a] && narrowI s [a],
           passes := 4 * w a * significant (key s a b).natAbs + 4 * w d,
           row := fun e => ires s d (z d e + z a e * key s a b) }
  | .vminx d a b n m =>
    some (ifOpX s d a b n m false (3 * max (w a) (w d) + 2) (4 * w a + 6) (fun x y => if x < y then x else y) fun _ => minmax false)
  | .vmaxx d a b n m =>
    some (ifOpX s d a b n m false (3 * max (w a) (w d) + 2) (4 * w a + 6) (fun x y => if x < y then y else x) fun _ => minmax true)
  | .vandx d a b n m => some (bitOp s d [a] n m (2 * w d) fun e => r a e &&& (s.rx b).toNat % 2 ^ w d)
  | .vorx d a b n m => some (bitOp s d [a] n m (2 * w d) fun e => r a e ||| (s.rx b).toNat % 2 ^ w d)
  | .vxorx d a b n m => some (bitOp s d [a] n m (2 * w d) fun e => r a e ^^^ (s.rx b).toNat % 2 ^ w d)
  | .vshlx d a b n m =>
    some { dest := d, sources := [a], count := n, mask := m, admits := admitsI s d [a], passes := 2 * max (w a) (w d),
           row := fun e => ires s d (if w d ≤ (s.rx b).toNat then 0 else z a e * 2 ^ (s.rx b).toNat) }
  | .vshrx d a b n m =>
    some { dest := d, sources := [a], count := n, mask := m, admits := admitsI s d [a], passes := 2 * max (w a) (w d),
           row := fun e => ires s d (if w a ≤ (s.rx b).toNat then (if z a e < 0 then -1 else 0) else z a e / 2 ^ (s.rx b).toNat) }
  | .vsetx d b n m =>
    some { dest := d, sources := [], count := n, mask := m, admits := true, passes := 1,
           row := fun _ => bres ((s.rx b).toNat % 2 ^ w d) }
  | .vscalx d a b n m => some (fltOp s d [a] n m (3 * w d + 8) fun e => ((flt s a e).scale (max (-4096) (min 4096 (s.rx b).toInt)), 0))
  | .vsimh d a b n m =>
    some { dest := d, sources := [a, b], count := n, mask := m, admits := decide (typ s d = 1) && decide (w a = w b),
           passes := 2 * w a + w a * (2 * w d + 1) + 2 * w d,
           row := fun e => bres (((List.range (w a)).filter fun j => (r a e).testBit j == (r b e).testBit j).length % 2 ^ w d) }
  | .vidx d n m =>
    some { dest := d, sources := [], count := n, mask := m, admits := isI s d, passes := 2 * w d,
           row := fun e => bres ((e - s.self.csr.rowbase.toNat) % 2 ^ w d) }
  | .vftag d n m =>
    some { dest := d, sources := [], count := n, mask := m, admits := true, passes := 2,
           row := fun e => bres (r d e - r d e % 2 + if s.tag s.me 0 e then 1 else 0) }
  | _ => none

/-- VCVT by the classes of its operands (R135): the sources it checks, whether they suit, its passes, and the result of a
row. -/
def convertOp (d a b : VReg) (n : Reg) (m : BitVec 1) (s : State) : RowOp :=
  let dd := s.self.field d
  let da := s.self.field a
  let rm := s.self.csr.rmode.toNat
  let w := wid s
  let base := if isI s a then (if isI s d then 2 * w d else 8 * w a + 4 * w d)
    else (if isI s d then 8 * w d + 4 * w a else 6 * (w a + w d))
  let number := fun e => if isI s a then Machine.Num.ofInt (num s a e) else flt s a e
  if typ s a = 7 ∨ typ s d = 7 then
    let scale := fun e => bits s b e % 256
    let special := fun e => bits s b e / 256 % 256
    { dest := d, sources := [a, b], count := n, mask := m,
      admits := !(decide (typ s a = 7) && decide (typ s d = 7)) && decide (typ s b = 1) && decide (w b = 16),
      passes := base + 40,
      row := fun e =>
        if typ s a = 7 then
          let x := f4bDecode (bits s a e) (scale e) (special e)
          let v := if isI s d then numToInt dd rm x else dd.fmt.round rm x
          (v.1, v.2, decide (scale e ≠ 255))
        else f4bEncode rm (scale e) (special e) (number e) }
  else
    { dest := d, sources := [a], count := n, mask := m, admits := decide (b = 0), passes := base,
      row := fun e =>
        if isI s a ∧ isI s d then ires s d (num s a e)
        else if isI s a then fres s d (number e, 0)
        else if isI s d then let v := numToInt dd rm (flt s a e); (v.1, v.2, true)
        else if da.type = dd.type then bres (if (flt s a e).isNan then dd.fmt.nan else bits s a e)
        else fres s d (flt s a e, 0) }

/-- The checks of R32 on a list of field registers, in their order: each is defined with a natural width, lies in the hart's
columns, and shares columns with no earlier one unless it is the same columns. -/
def fieldsFit (t : Hart) : List VReg → Prop
  | [] => True
  | v :: vs =>
    let d := t.field v
    (d.width ≠ 0 ∧ d.natural = true ∧ d.base.toNat + d.width.toNat ≤ t.cols) ∧
    (∀ u ∈ vs, let c := t.field u
      d.base.toNat < c.base.toNat + c.width.toNat → c.base.toNat < d.base.toNat + d.width.toNat → c.base = d.base ∧ c.width = d.width) ∧
    fieldsFit t vs

/-- The field operands of a word in the order of their checks, and a copy of the destination's type and width (R32, R86). -/
def operandsFit (s : State) (d : VReg) (srcs : List VReg) : Prop :=
  fieldsFit s.self (d :: (s.copyField.toList ++ srcs)) ∧
  ∀ c, s.copyField = some c → (s.self.field c).type = (s.self.field d).type ∧ (s.self.field c).width = (s.self.field d).width

/-- The columns of a field of the running hart in a row replaced by the low bits of v. -/
def rowWith (s : State) (r : Row) (v : VReg) (x : Nat) : Row :=
  setRowBits r (s.self.colbase + (s.self.field v).base.toNat) (s.self.field v).width.toNat x

/-- The row that a result leaves: the destination's columns, then those of the copy field. -/
def resultRow (s : State) (d : VReg) (r : Row) (x : Nat) : Row :=
  match s.copyField with
  | some c => rowWith s (rowWith s r d x) c x
  | none => rowWith s r d x

/-- Row e is one of the n rows from rowbase on that a word with mask m selects (R35, R38). -/
def selected (s : State) (m : BitVec 1) (n e : Nat) : Bool :=
  decide (s.self.csr.rowbase.toNat ≤ e) && decide (e < s.self.csr.rowbase.toNat + n) && (m == 0 || s.tag s.me 0 e)

end Sys2Proof.Claims

/-- Every VARITH and VARX word but VCVT, and VSIMH, VIDX and VFTAG, completes: with n = 0 it only retires; with its operands and
its rows in order, each selected row receives the result of its row operation, and the arrays are taken for the word's
passes (R36, R127 to R138, R151, R154). -/
def Sys2Proof.Parts.RowWordsComputeTheirRows : Prop :=
  ∀ (i : Instr) (s : State) (h : HartKey) (w : Claims.RowOp), Claims.rowOp i s.due = some w → s.Ready i → s.cur = .hart h →
    let n := (s.due.rx w.count).toNat
    (n = 0 → exec i s = .next s.due.retired) ∧
    (0 < n → Claims.operandsFit s.due w.dest w.sources → w.admits = true → (s.hart h).csr.rowbase.toNat + n ≤ 16384 →
      exec i s = .next ((s.due.forRows w.dest w.mask n w.row).occupy w.passes).retired)

/-- VCVT completes: as an integer, float or F4B conversion by the types of its operands; with an f4b operand it takes the row's
scale pair, without one the register of the pair is 0 (R135). -/
def Sys2Proof.Parts.ConversionsComputeTheirRows : Prop :=
  ∀ (d a b : VReg) (n' : Reg) (m : BitVec 1) (s : State) (h : HartKey), s.Ready (.vcvt d a b n' m) → s.cur = .hart h →
    let w := Claims.convertOp d a b n' m s.due
    let n := (s.due.rx n').toNat
    (n = 0 → exec (.vcvt d a b n' m) s = .next s.due.retired) ∧
    (0 < n → Claims.operandsFit s.due d w.sources → w.admits = true → (s.hart h).csr.rowbase.toNat + n ≤ 16384 →
      exec (.vcvt d a b n' m) s = .next ((s.due.forRows d m n w.row).occupy w.passes).retired) ∧
    (0 < n → Claims.operandsFit s.due d [a] → Claims.typ s.due a ≠ 7 → Claims.typ s.due d ≠ 7 → b ≠ 0 →
      exec (.vcvt d a b n' m) s = .next (s.due.trapped 0x04 (b.setWidth 64)))

/-- Every VARITH and VARX word but VCVT, and VSIMH, VIDX and VFTAG, completes: with n = 0 it only retires; with its operands and
its rows in order, each selected row receives the result of its row operation, and the arrays are taken for the word's passes
(R36, R127 to R138, R151, R154). VCVT completes: as an integer, float or F4B conversion by the types of its operands; with an
f4b operand it takes the row's scale pair, without one the register of the pair is 0 (R135). -/
def Obligations.RowWordsAndConversionsGiveTheirRows : Prop := Parts.RowWordsComputeTheirRows ∧ Parts.ConversionsComputeTheirRows

/-- What a row operation does to the rows: every selected row has its destination's columns, and then those of the copy field,
replaced by the row's result, computed from the rows as they were; every other row of every cluster, every tag, memory and
every register is unchanged; a row loses its validity only where its result says so; and fflags gains the flags of the
selected rows that are valid and stay so (R38, R41, R127, R129). -/
def Obligations.RowOperationsTouchOnlySelectedRows : Prop :=
  ∀ (s : State) (h : HartKey) (d : VReg) (m : BitVec 1) (n : Nat) (f : Nat → Nat × Flags × Bool),
    s.cur = .hart h → (s.hart h).csr.rowbase.toNat + n ≤ 16384 →
    let t := s.forRows d m n f
    (∀ e, e < 16384 → t.row (clusterOfHart h) e =
      if Claims.selected s m n e then Claims.resultRow s d (s.row (clusterOfHart h) e) (f e).1 else s.row (clusterOfHart h) e) ∧
    (∀ k e, k ≠ clusterOfHart h → e < 16384 → t.row k e = s.row k e) ∧
    (∀ e, e < 16384 → t.tgv h e = (s.tgv h e && (!Claims.selected s m n e || (f e).2.2))) ∧
    (∀ g q e, t.tag g q e = s.tag g q e) ∧
    (∀ b, (t.hart h).csr.fflags.getLsbD b = ((s.hart h).csr.fflags.getLsbD b ||
      (List.range 16384).any fun e => Claims.selected s m n e && s.tgv h e && (f e).2.2 && (f e).2.1.getLsbD b)) ∧
    (t.hart h).sc = (s.hart h).sc ∧ (∀ g, g ≠ h → t.hart g = s.hart g) ∧ t.mem = s.mem ∧ t.cores = s.cores ∧ t.flight = s.flight

/-- A field's columns read back what was written into them, in a row that holds them, and every other column of the row keeps its
bit (R31, R38). -/
def Sys2Proof.Parts.FieldColumnsReadBack : Prop :=
  ∀ (r : Row) (lo w v j : Nat), lo + w ≤ 512 →
    rowBits (setRowBits r lo w v) lo w = v % 2 ^ w ∧
    (j < lo ∨ lo + w ≤ j → (setRowBits r lo w v).getLsbD j = r.getLsbD j)

/-- A row word with its operands in order but rows beyond 16,384 raises BOUNDS with n, and one whose destination is undefined,
of an unnatural width, or outside the hart's columns raises FIELD with its number, before any row changes (R32, R37, R127). -/
def Obligations.RowWordsCheckFieldsAndRows : Prop :=
  ∀ (i : Instr) (s : State) (h : HartKey) (w : Claims.RowOp), Claims.rowOp i s.due = some w → s.Ready i → s.cur = .hart h →
    let n := (s.due.rx w.count).toNat
    let dd := (s.hart h).field w.dest
    (0 < n → Claims.operandsFit s.due w.dest w.sources → w.admits = true → 16384 < (s.hart h).csr.rowbase.toNat + n →
      exec i s = .next (s.due.trapped 0x08 (BitVec.ofNat 64 n))) ∧
    (0 < n → (dd.width = 0 ∨ dd.natural = false ∨ (s.hart h).cols < dd.base.toNat + dd.width.toNat) →
      exec i s = .next (s.due.trapped 0x04 (w.dest.setWidth 64)))

/-- VDEF defines a field register and VUNDEF leaves it undefined; both retire, and no row, tag or other register changes (R122,
R123). -/
def Obligations.VdefAndVundefSetTheFieldRegister : Prop :=
  ∀ (v : VReg) (b : BitVec 9) (w : BitVec 7) (ty : BitVec 3) (s : State) (h : HartKey), s.cur = .hart h →
    let done := fun (d : FieldDesc) =>
      (s.due.modHart h fun t => { t with fields := t.fields.set v.toNat d (by have := v.isLt; omega) }).retired
    (s.Ready (.vdef v b w ty) → exec (.vdef v b w ty) s = .next (done { base := b, width := w, type := ty })) ∧
    (s.Ready (.vundef v) → exec (.vundef v) s = .next (done { base := 0, width := 0, type := 0 }))

/-! ## Chapters 05 and 06: tags, compares, queries, row movement, tables -/

namespace Sys2Proof.Claims

/-- Tag t of the running hart in row e. -/
def tagOf (s : State) (t : Tag) (e : Nat) : Bool := s.tag s.me t.toNat e
/-- Row e lies in the range of n rows. -/
def within (s : State) (n e : Nat) : Bool :=
  decide (s.self.csr.rowbase.toNat ≤ e) && decide (e < s.self.csr.rowbase.toNat + n)
/-- The rows of the range, rising. -/
def rowsOf (s : State) (n : Nat) : List Nat := (List.range n).map (s.self.csr.rowbase.toNat + ·)

/-- A word that writes one tag: the tag, its row count, and its value in a row of the range (R124 to R126). -/
def tagOp (i : Instr) (s : State) : Option (Tag × Reg × (Nat → Bool)) :=
  let tg := tagOf s
  let rows := fun (n : Reg) => rowsOf s (s.rx n).toNat
  match i with
  | .tset d n => some (d, n, fun _ => true)
  | .tclr d n => some (d, n, fun _ => false)
  | .tnot d a n => some (d, n, fun e => !tg a e)
  | .tand d a b n => some (d, n, fun e => tg a e && tg b e)
  | .tor d a b n => some (d, n, fun e => tg a e || tg b e)
  | .txor d a b n => some (d, n, fun e => Bool.xor (tg a e) (tg b e))
  | .tandn d a b n => some (d, n, fun e => tg a e && !tg b e)
  | .tmov d a n => some (d, n, fun e => tg a e)
  | .tfirst d a n => some (d, n, fun e => tg a e && (rows n).all fun q => decide (e ≤ q) || !tg a q)
  | .tlast d a n => some (d, n, fun e => tg a e && (rows n).all fun q => decide (q ≤ e) || !tg a q)
  | .tshup d a n => some (d, n, fun e => (rows n).contains (e + 1) && tg a (e + 1))
  | .tshdn d a n => some (d, n, fun e => decide (e ≠ s.self.csr.rowbase.toNat) && tg a (e - 1))
  | .tval d n => some (d, n, fun e => s.tgv s.me e)
  | _ => none

/-- A compare: its tag, how it combines, its mask, its row count, its sources, whether their types suit, its passes, and its
condition and flags in a row (R139 to R144). -/
structure CompareOp where
  tag : Tag
  combine : BitVec 2
  mask : BitVec 1
  count : Reg
  sources : List VReg
  admits : Bool
  passes : Nat
  cond : Nat → Bool × Flags

/-- The six tests on exact integers. -/
def intTest (op : Nat) (a b : Int) : Bool :=
  [decide (a = b), decide (a ≠ b), decide (a < b), decide (a ≤ b), decide (a > b), decide (a ≥ b)].getD op false
/-- The six tests on floats: a NaN is unordered, and an ordered test of one raises NV. -/
def fltTest (op : Nat) (a b : Machine.Num) : Bool × Flags :=
  if a.isNan ∨ b.isNan then (decide (op = 1), if op ≤ 1 then 0 else flagNV)
  else ([a.eq b, !a.eq b, a.lt b, a.lt b || a.eq b, b.lt a, b.lt a || a.eq b].getD op false, 0)

/-- A compare of two fields. -/
def compare2 (s : State) (op : Nat) (t : Tag) (c : BitVec 2) (a b : VReg) (n : Reg) (m : BitVec 1) : CompareOp :=
  let w := max (wid s a) (wid s b) + (if decide (typ s a = 0) = decide (typ s b = 0) then 0 else 1)
  { tag := t, combine := c, mask := m, count := n, sources := [a, b],
    admits := (isI s a && isI s b) || (isF s a && decide (typ s b = typ s a)),
    passes := if isI s a then (if op ≤ 1 then 2 * w else 2 * w + 1)
      else (if op ≤ 1 then 2 * wid s a + 4 else 2 * wid s a + 6),
    cond := fun e => if isI s a then (intTest op (num s a e) (num s b e), 0) else fltTest op (flt s a e) (flt s b e) }
/-- A compare of a field with a scalar key. -/
def compareX (s : State) (op : Nat) (t : Tag) (c : BitVec 2) (a : VReg) (b n : Reg) (m : BitVec 1) : CompareOp :=
  { tag := t, combine := c, mask := m, count := n, sources := [a], admits := isI s a || isF s a,
    passes := if isI s a then (if op ≤ 1 then 1 else wid s a + 1) else (if op ≤ 1 then 3 else wid s a + 4),
    cond := fun e => if isI s a then (intTest op (num s a e) (key s a b), 0) else fltTest op (flt s a e) (fkey s a b) }

/-- The compares. -/
def compareOp (i : Instr) (s : State) : Option CompareOp :=
  match i with
  | .eq t c a b n m => some (compare2 s 0 t c a b n m)
  | .ne t c a b n m => some (compare2 s 1 t c a b n m)
  | .lt t c a b n m => some (compare2 s 2 t c a b n m)
  | .le t c a b n m => some (compare2 s 3 t c a b n m)
  | .gt t c a b n m => some (compare2 s 4 t c a b n m)
  | .ge t c a b n m => some (compare2 s 5 t c a b n m)
  | .isnz t c a n m =>
    some { tag := t, combine := c, mask := m, count := n, sources := [a], admits := true, passes := if isF s a then 2 else 1,
           cond := fun e => (if isF s a then !(flt s a e).eq (.fin false 0 0) else decide (0 < bits s a e), 0) }
  | .eqx t c a b n m => some (compareX s 0 t c a b n m)
  | .nex t c a b n m => some (compareX s 1 t c a b n m)
  | .ltx t c a b n m => some (compareX s 2 t c a b n m)
  | .lex t c a b n m => some (compareX s 3 t c a b n m)
  | .gtx t c a b n m => some (compareX s 4 t c a b n m)
  | .gex t c a b n m => some (compareX s 5 t c a b n m)
  | .matchKey t c a b n m =>
    some { tag := t, combine := c, mask := m, count := n, sources := [a], admits := true, passes := 1,
           cond := fun e => ((List.range (wid s a)).all fun j =>
             s.self.csr.kmask.getLsbD j || ((bits s a e).testBit j == (s.rx b).getLsbD j), 0) }
  | .rangeKey t c a b n m =>
    some { tag := t, combine := c, mask := m, count := n, sources := [a], admits := isI s a || isF s a,
           passes := if isI s a then 2 * wid s a + 3 else 2 * wid s a + 9,
           cond := fun e =>
             if isI s a then (decide (key s a b ≤ num s a e) && decide (num s a e < key s a (b + 1)), 0)
             else
               let lo := fltTest 3 (fkey s a b) (flt s a e)
               let hi := fltTest 2 (flt s a e) (fkey s a (b + 1))
               (lo.1 && hi.1, lo.2 ||| hi.2) }
  | _ => none

/-- A query: its destination, its tag, its row count, its source, whether its type suits, a limit of its own, its passes, its
latency, the empty value, and its result: the value, the flags, and the tag where it narrows (R145 to R150). -/
structure QueryOp where
  dest : Reg
  tag : Tag
  count : Reg
  sources : List VReg := []
  admits : Bool := true
  late : Option Dword := none
  passes : Nat
  latency : Nat
  empty : Dword := 0
  value : Dword
  flags : Flags := 0
  narrowed : Option (Nat → Bool) := none

/-- The first of a list of rows that no other row of the list beats. -/
def bestRow (better : Nat → Nat → Bool) : List Nat → Option Nat
  | [] => none
  | e :: es => match bestRow better es with
    | none => some e
    | some q => if better q e then some q else some e

/-- A row's value as a scalar result (R146). -/
def valueOf (s : State) (v : VReg) (e : Nat) : Dword :=
  if isI s v then BitVec.ofInt 64 (num s v e) else BitVec.ofNat 64 (bits s v e)
/-- The order key of R149. -/
def orderKey (s : State) (v : VReg) (e : Nat) : Nat :=
  let w := wid s v
  let r := bits s v e
  if typ s v = 1 then r
  else if typ s v = 0 then r ^^^ 2 ^ (w - 1)
  else if r.testBit (w - 1) then 2 ^ w - 1 - r else r ^^^ 2 ^ (w - 1)
/-- max(1, ⌈log2 n⌉). -/
def lam (n : Nat) : Nat := max 1 (Nat.clog 2 n)

/-- The queries. -/
def queryOp (i : Instr) (s : State) : Option QueryOp :=
  let resp := fun (t : Tag) (n : Reg) => (rowsOf s (s.rx n).toNat).filter (tagOf s t)
  let cand := fun (t : Tag) (n : Reg) => (resp t n).filter (s.tgv s.me)
  let ranked := fun (t : Tag) (v : VReg) (n : Reg) => (cand t n).filter fun e => isI s v || !(flt s v e).isNan
  let rb := s.self.csr.rowbase.toNat
  let okIF := fun (v : VReg) => isI s v || isF s v
  let fcost := fun (v : VReg) => if isI s v then 0 else 2 * wid s v + 2
  let reduce := fun (top : Bool) (d : Reg) (t : Tag) (v : VReg) (n : Reg) =>
    ({ dest := d, tag := t, count := n, sources := [v], admits := okIF v,
       passes := if isI s v then 2 * wid s v + 1 else ((s.rx n).toNat + 15) / 16 + 4,
       latency := if isI s v then 2 else 8 + 4 * lam (s.rx n).toNat,
       value := match cand t n with
         | [] => 0
         | e :: es =>
           if isI s v then
             BitVec.ofInt 64 (es.foldl (fun a q => if top then max a (num s v q) else min a (num s v q)) (num s v e))
           else
             BitVec.ofNat 64 ((s.self.field v).fmt.round 0 (es.foldl (fun a q => Machine.Num.minMax top a (flt s v q)) (flt s v e))).1 }
      : QueryOp)
  let topk := fun (top : Bool) (d : Reg) (t : Tag) (v : VReg) (n : Reg) =>
    let k := (s.rx d).toNat
    let rank := fun e => if top then orderKey s v e else 2 ^ wid s v - 1 - orderKey s v e
    let rows := ranked t v n
    -- a row is kept if fewer than k rows rank above it, equal ranks by their place
    let kept := rows.filter fun e =>
      decide ((rows.filter fun q => decide (rank e < rank q) || (decide (rank q = rank e) && decide (q < e))).length < k)
    ({ dest := d, tag := t, count := n, sources := [v], admits := okIF v, late := if 8192 < k then some (s.rx d) else none,
       passes := 3 * wid s v + min k (s.rx n).toNat + 4 + fcost v, latency := 2,
       value := match bestRow (fun q e => decide (rank q < rank e)) kept with
         | none => 0
         | some e => valueOf s v e,
       narrowed := some fun e => kept.contains e } : QueryOp)
  match i with
  | .vcount d t n => some { dest := d, tag := t, count := n, passes := 1, latency := 14, value := BitVec.ofNat 64 (resp t n).length }
  | .vany d t n => some { dest := d, tag := t, count := n, passes := 1, latency := 2, value := if resp t n = [] then 0 else 1 }
  | .vfirstx d t n =>
    some { dest := d, tag := t, count := n, passes := 1, latency := 14, empty := -1,
           value := match resp t n with
             | [] => -1
             | e :: _ => BitVec.ofNat 64 (e - rb) }
  | .vextr d t v n =>
    some { dest := d, tag := t, count := n, sources := [v], passes := wid s v + 2, latency := 2,
           value := match resp t n with
             | [] => 0
             | e :: _ => valueOf s v e }
  | .vredsum d t v n =>
    let tree := treeSum (s.self.field v).fmt s.self.csr.rmode.toNat 15
      ((cand t n).map fun e => ((s.self.field v).fmt.round s.self.csr.rmode.toNat (flt s v e)).1)
    some { dest := d, tag := t, count := n, sources := [v], admits := okIF v,
           passes := if isI s v then wid s v else ((s.rx n).toNat + 15) / 16 + 4,
           latency := if isI s v then 16 else 8 + 4 * lam (s.rx n).toNat,
           value := if isI s v then BitVec.ofInt 64 ((cand t n).map (num s v)).sum else BitVec.ofNat 64 tree.1,
           flags := if isI s v then 0 else tree.2 }
  | .vredmax d t v n => some (reduce true d t v n)
  | .vredmin d t v n => some (reduce false d t v n)
  | .vtopk d t v n => some (topk true d t v n)
  | .vbotk d t v n => some (topk false d t v n)
  | .vmaxloc d t v n =>
    let best := bestRow (fun q e => decide (orderKey s v e < orderKey s v q)) (ranked t v n)
    some { dest := d, tag := t, count := n, sources := [v], admits := okIF v,
           passes := 2 * wid s v + 2 + fcost v, latency := 14, empty := -1,
           value := match best with
             | none => -1
             | some e => BitVec.ofNat 64 (e - rb),
           narrowed := some fun e => best == some e }
  | _ => none

/-- The scan value of row e: the selected valid rows up to it, combined (R153). -/
def scanValue (s : State) (a : VReg) (m : BitVec 1) (n e : Nat) (g : Int → Int → Int) (start : Int) : Int :=
  match (rowsOf s n).filter fun q => decide (q ≤ e) && (m == 0 || s.tag s.me 0 q) && s.tgv s.me q with
  | [] => start
  | q :: qs => qs.foldl (fun x q => g x (num s a q)) (num s a q)

/-- The least value of a field's type. -/
def leastOf (s : State) (a : VReg) : Int := if typ s a = 0 then -(2 ^ (wid s a - 1) : Int) else 0

/-- The scans: row operations that keep every tgv (R152 to R154). -/
def scanOp (i : Instr) (s : State) : Option RowOp :=
  match i with
  | .vscanadd d a n m =>
    some { dest := d, sources := [a], count := n, mask := m, admits := admitsI s d [a],
           passes := (4 * max (wid s a) (wid s d) + 3) * lam (s.rx n).toNat,
           row := fun e => ires s d (scanValue s a m (s.rx n).toNat e (· + ·) 0) }
  | .vscanmax d a n m =>
    some { dest := d, sources := [a], count := n, mask := m, admits := admitsI s d [a],
           passes := (6 * max (wid s a) (wid s d) + 3) * lam (s.rx n).toNat,
           row := fun e => ires s d (scanValue s a m (s.rx n).toNat e max (leastOf s a)) }
  | _ => none

/-- Bytes i and i + 1 of a table. -/
def pairAt (t : List Byte) (i : Nat) : Nat := (t.getD i 0).toNat + 256 * (t.getD (i + 1) 0).toNat

/-- A table slot of the running hart's cluster, valid for its context (R155). -/
def tableOf (s : State) (l : BitVec 2) : Option (List Byte) :=
  ((s.cluster (clusterOfHart s.me)).tables.getD l.toNat none).bind fun t => if t.ctx = s.self.ctx then some t.data else none

/-- The segments of a slot that suits VTLI with a type (R157). -/
def segmentsOf (t : List Byte) (ty : Nat) : Option (List (Nat × Nat × Nat)) :=
  let n := (t.getD 0 0).toNat
  if 1 ≤ n ∧ n ≤ 63 ∧ (t.getD 1 0).toNat + 2 = ty then
    some ((List.range n).map fun i => (pairAt t (8 + 8 * i), pairAt t (10 + 8 * i), pairAt t (12 + 8 * i)))
  else none

/-- The number at w bits from bit e · w of a table (R159). -/
def packedEntry (t : List Byte) (w e : Nat) : Nat :=
  ((List.range w).map fun j => if (t.getD ((e * w + j) / 8) 0).getLsbD ((e * w + j) % 8) then 2 ^ j else 0).sum

/-- The words that move rows or look them up: the row's value, its flags, and its new tgv (R152, R157 to R159). -/
def moveOp (i : Instr) (s : State) : Option RowOp :=
  let rb := s.self.csr.rowbase.toNat
  let tv := s.tgv s.me
  match i with
  | .vrowsh d a n m =>
    some { dest := d, sources := [a], count := n, mask := m, admits := admitsB s d [a], passes := 2 * wid s d + 2,
           row := fun e => if e = rb then (0, 0, tv e) else (bits s a (e - 1), 0, tv (e - 1)) }
  | .vrowshup d a n m =>
    some { dest := d, sources := [a], count := n, mask := m, admits := admitsB s d [a], passes := 2 * wid s d + 2,
           row := fun e => if e + 1 = rb + (s.rx n).toNat then (0, 0, tv e) else (bits s a (e + 1), 0, tv (e + 1)) }
  | .vbcastf d a n m =>
    some { dest := d, sources := [a], count := n, mask := m, admits := admitsB s d [a], passes := 2 * wid s d + 3,
           row := fun e => match (rowsOf s (s.rx n).toNat).filter (tagOf s 1) with
             | [] => (0, 0, tv e)
             | q :: _ => (bits s a q, 0, tv q) }
  | .vtli d a l n m =>
    let g := (tableOf s l).bind fun t => segmentsOf t (typ s a)
    let f := (s.self.field a).fmt
    some { dest := d, sources := [a], count := n, mask := m,
           admits := (decide (typ s d = 2) || decide (typ s d = 3)) && decide (typ s a = typ s d),
           passes := match g with
             | some g => 2 * g.length * (wid s a + 1) + fcost s a 760 1180 3300 340 300
             | none => 2,
           row := fun e => match g with
             | none => (0, 0, false)
             | some g =>
               let x := flt s a e
               if x.isNan then ((s.self.field d).fmt.nan, 0, tv e)
               else
                 let below := (List.range g.length).filter fun j =>
                   (f.decode (g.getD j (0, 0, 0)).1).lt x || (f.decode (g.getD j (0, 0, 0)).1).eq x
                 let t := g.getD (below.getLastD 0) (0, 0, 0)
                 let v := fres s d (Machine.Num.fma s.self.csr.rmode.toNat (f.decode t.2.1) x (f.decode t.2.2))
                 (v.1, v.2.1, tv e) }
  | .vtlu d a l n m =>
    let t := tableOf s l
    some { dest := d, sources := [a], count := n, mask := m, admits := isI s a,
           passes := if t.isSome then 2 * min (4096 / wid s d) (2 ^ wid s a) + wid s a + 3 else 2,
           row := fun e => match t with
             | none => (0, 0, false)
             | some t =>
               if 0 ≤ num s a e ∧ num s a e < (4096 / wid s d : Nat) then (packedEntry t (wid s d) (num s a e).toNat, 0, tv e)
               else (0, 0, false) }
  | _ => none

end Sys2Proof.Claims

/-- Every tag word, VALT and VTAGF complete: with n = 0 they only retire; with the range inside 16,384 rows (and VTAGF's field
in order) they write their tag, or tgv, in the rows of the range, in one pass, VTAGF in two (R36, R124 to R126, R152). -/
def Obligations.TagWordsWriteTheirTag : Prop :=
  ∀ (s : State) (h : HartKey), s.cur = .hart h →
    let rb := (s.hart h).csr.rowbase.toNat
    (∀ i d n' f, Claims.tagOp i s.due = some (d, n', f) → s.Ready i →
      let n := (s.due.rx n').toNat
      (n = 0 → exec i s = .next s.due.retired) ∧
      (0 < n → 16384 < rb + n → exec i s = .next (s.due.trapped 0x08 (BitVec.ofNat 64 n))) ∧
      (0 < n → rb + n ≤ 16384 → ∃ g : Nat → Bool, (∀ e, Claims.within s n e → g e = f e) ∧
        exec i s = .next ((s.due.setTags h d.toNat rb n g).occupy 1).retired)) ∧
    (∀ a n', s.Ready (.valt a n') →
      let n := (s.due.rx n').toNat
      (n = 0 → exec (.valt a n') s = .next s.due.retired) ∧
      (0 < n → rb + n ≤ 16384 →
        exec (.valt a n') s = .next ((s.due.setTgvs h rb n (Claims.tagOf s.due a)).occupy 1).retired)) ∧
    (∀ a n' m, s.Ready (.vtagf a n' m) →
      let n := (s.due.rx n').toNat
      (n = 0 → exec (.vtagf a n' m) s = .next s.due.retired) ∧
      (0 < n → Claims.fieldsFit (s.hart h) [a] → rb + n ≤ 16384 →
        exec (.vtagf a n' m) s = .next ((s.due.setTags h 0 rb n fun e =>
          if m == 0 || s.due.tag h 0 e then decide (Claims.bits s.due a e % 2 = 1) else s.due.tag h 0 e).occupy 2).retired))

/-- Writing a tag, or tgv, of a hart in n rows from a row on writes those rows of that column and no other bit of any column; no
row, register or byte of memory changes (R28, R124). -/
def Sys2Proof.Parts.TagColumnsReadBack : Prop :=
  ∀ (s : State) (h : HartKey) (t lo n : Nat) (f : Nat → Bool), t < 4 → lo + n ≤ 16384 →
    (∀ e, e < 16384 → (s.setTags h t lo n f).tag h t e = if lo ≤ e ∧ e < lo + n then f e else s.tag h t e) ∧
    (∀ g q e, q < 4 → (clusterOfHart g ≠ clusterOfHart h ∨ slotOfHart g ≠ slotOfHart h ∨ q ≠ t) →
      (s.setTags h t lo n f).tag g q e = s.tag g q e) ∧
    (∀ g e, (s.setTags h t lo n f).tgv g e = s.tgv g e) ∧
    (∀ e, e < 16384 → (s.setTgvs h lo n f).tgv h e = if lo ≤ e ∧ e < lo + n then f e else s.tgv h e) ∧
    (∀ g e, clusterOfHart g ≠ clusterOfHart h ∨ slotOfHart g ≠ slotOfHart h → (s.setTgvs h lo n f).tgv g e = s.tgv g e) ∧
    (∀ g q e, (s.setTgvs h lo n f).tag g q e = s.tag g q e) ∧
    { s.setTags h t lo n f with clusters := s.clusters } = s ∧ { s.setTgvs h lo n f with clusters := s.clusters } = s

/-- A field's columns read back what was written into them, in a row that holds them, and every other column of the row keeps
its bit (R31, R38). Writing a tag, or tgv, of a hart in n rows from a row on writes those rows of that column and no other bit
of any column; no row, register or byte of memory changes (R28, R124). -/
def Obligations.ColumnsReadBack : Prop := Parts.FieldColumnsReadBack ∧ Parts.TagColumnsReadBack

/-- Every compare completes: with n = 0 it only retires; with its sources and rows in order, the tag of each selected row is set
to, or combined by and, or, andn with, the condition, NV counts for the selected valid rows, and the arrays are taken for its
passes (R141 to R144). -/
def Obligations.ComparesWriteTheirTag : Prop :=
  ∀ (i : Instr) (s : State) (h : HartKey) (w : Claims.CompareOp), Claims.compareOp i s.due = some w → s.Ready i → s.cur = .hart h →
    let n := (s.due.rx w.count).toNat
    let rb := (s.hart h).csr.rowbase.toNat
    let old := Claims.tagOf s.due w.tag
    (n = 0 → exec i s = .next s.due.retired) ∧
    (0 < n → Claims.fieldsFit (s.hart h) w.sources → w.admits = true → rb + n ≤ 16384 →
      ∃ g : Nat → Bool,
        (∀ e, Claims.within s n e → g e =
          if w.mask == 0 || s.due.tag h 0 e then
            (match w.combine.toNat with
             | 0 => (w.cond e).1
             | 1 => old e && (w.cond e).1
             | 2 => old e || (w.cond e).1
             | _ => old e && !(w.cond e).1)
          else old e) ∧
        exec i s = .next (((s.due.setTags h w.tag.toNat rb n g).raise
          ((Claims.rowsOf s.due n).foldl (fun q e =>
            if (w.mask == 0 || s.due.tag h 0 e) && s.due.tgv h e then q ||| (w.cond e).2 else q) 0)).occupy w.passes).retired)

/-- Every query completes: with n = 0 it retires with its empty value from the next cycle on; with its source, rows and k in
order, its value comes scoreboarded its latency after its passes, and VTOPK, VBOTK and VMAXLOC leave their tag set in the rows
they keep: those with fewer than k better rows, equal keys by the lower row (R146 to R150). -/
def Obligations.QueriesAnswerAndNarrow : Prop :=
  ∀ (i : Instr) (s : State) (h : HartKey) (w : Claims.QueryOp), Claims.queryOp i s.due = some w → s.Ready i → s.cur = .hart h →
    let n := (s.due.rx w.count).toNat
    let rb := (s.hart h).csr.rowbase.toNat
    let lane := (s.cluster (clusterOfHart h)).laneCode
    let ok := 0 < n ∧ Claims.fieldsFit (s.hart h) w.sources ∧ w.admits = true ∧ rb + n ≤ 16384
    (n = 0 → exec i s = .next (s.due.resultAt w.dest w.empty (s.now + 1)).retired) ∧
    (ok → ∀ v, w.late = some v → exec i s = .next (s.due.trapped 0x08 v)) ∧
    (ok → w.late = none →
      let t := (s.due.raise w.flags).resultAt w.dest w.value (s.now + w.passes * 2 ^ lane + w.latency) .query
      (w.narrowed = none → exec i s = .next (t.occupy w.passes).retired) ∧
      (∀ f, w.narrowed = some f → ∃ g : Nat → Bool, (∀ e, Claims.within s n e → g e = f e) ∧
        exec i s = .next ((t.setTags h w.tag.toNat rb n g).occupy w.passes).retired))

/-- The scans complete: each selected row receives the sum, or the maximum, of the selected valid rows up to it (R152, R153). -/
def Sys2Proof.Parts.ScansCombineTheRowsBefore : Prop :=
  ∀ (i : Instr) (s : State) (h : HartKey) (w : Claims.RowOp), Claims.scanOp i s.due = some w → s.Ready i → s.cur = .hart h →
    let n := (s.due.rx w.count).toNat
    (n = 0 → exec i s = .next s.due.retired) ∧
    (0 < n → Claims.operandsFit s.due w.dest w.sources → w.admits = true → (s.hart h).csr.rowbase.toNat + n ≤ 16384 →
      ∃ f : Nat → Nat × Flags × Bool, (∀ e, Claims.selected s.due w.mask n e → f e = w.row e) ∧
        exec i s = .next ((s.due.forRows w.dest w.mask n f).occupy w.passes).retired)

/-- The words that move rows and the table look-ups complete: each selected row receives its value, and its tgv becomes that of
its source row, is kept, or is cleared (R152, R157 to R159). -/
def Sys2Proof.Parts.MovesAndLookupsWriteTheirRows : Prop :=
  ∀ (i : Instr) (s : State) (h : HartKey) (w : Claims.RowOp), Claims.moveOp i s.due = some w → s.Ready i → s.cur = .hart h →
    let n := (s.due.rx w.count).toNat
    (n = 0 → exec i s = .next s.due.retired) ∧
    (0 < n → Claims.operandsFit s.due w.dest w.sources → w.admits = true → (s.hart h).csr.rowbase.toNat + n ≤ 16384 →
      ∃ f : Nat → Nat × Flags × Bool, (∀ e, Claims.selected s.due w.mask n e → f e = w.row e) ∧
        exec i s = .next ((s.due.moveRows w.dest w.mask n f).occupy w.passes).retired)

/-- The scans complete: each selected row receives the sum, or the maximum, of the selected valid rows up to it (R152, R153).
The words that move rows and the table look-ups complete: each selected row receives its value, and its tgv becomes that of its
source row, is kept, or is cleared (R152, R157 to R159). -/
def Obligations.ScansMovesAndLookupsWriteTheirRows : Prop := Parts.ScansCombineTheRowsBefore ∧ Parts.MovesAndLookupsWriteTheirRows

/-! ## Chapters 10, 06, 09 and 11: VMEM words, streams, atomics, fences, strips, circular buffers -/

namespace Sys2Proof.Claims

/-- A VMEM word over rows: its kind, its field, its index field, its address and row count registers, and whether only rows with
TAG0 move (R228 to R230, 09 R211). -/
def transferOp : Instr → Option (TransferKind × VReg × Option VReg × Reg × Reg × Bool)
  | .vlda d a n m => some (.load, d, none, a, n, m == 1)
  | .vldaSp d a n m => some (.scale, d, none, a, n, m == 1)
  | .vsta v a n m => some (.store, v, none, a, n, m == 1)
  | .vldx d i a n m => some (.loadX, d, some i, a, n, m == 1)
  | .vstx v i a n m => some (.storeX, v, some i, a, n, m == 1)
  | .vstadd v i a n m => some (.addX, v, some i, a, n, m == 1)
  | .vspill v a n => some (.spill, v, none, a, n, false)
  | .vfill d a n => some (.fill, d, none, a, n, false)
  | _ => none

/-- The types that a VMEM word admits: scale pairs in u16, no f4b in indexed forms, an integer index, and for VSTADD integers of
8, 16, 32 or 64 bits, FP16, BF16 and FP32 (R228, R230). -/
def transferAdmits (s : State) (k : TransferKind) (v : VReg) (ix : Option VReg) : Bool :=
  (match k with
   | .scale => decide (typ s v = 1 ∧ wid s v = 16)
   | .loadX | .storeX => decide (typ s v ≠ 7)
   | .addX => (isI s v && [8, 16, 32, 64].contains (wid s v)) || [2, 3, 4].contains (typ s v)
   | _ => true) && ix.all (isI s)

/-- The transfer of a VMEM word as it is queued. -/
def queuedAs (s : State) (k : TransferKind) (v : VReg) (ix : Option VReg) (a n : Reg) (m : Bool) : Transfer :=
  { kind := k, desc := s.self.field v, index := (ix.map s.self.field).getD {}, row0 := s.self.csr.rowbase.toNat,
    rows := (s.rx n).toNat, addr := s.rx a, masked := m, rmode := s.self.csr.rmode, owner := s.self.serial }

/-- The transfer of a TLOAD. -/
def tableLoad (l : BitVec 2) (va : Dword) (owner : Nat) : Transfer := { kind := .table, addr := va, slot := l.toNat, owner := owner }

/-- The bytes of an element in memory (R229). -/
def elementBytes (d : FieldDesc) : Nat := (d.width.toNat + 7) / 8

/-- A base address lies at a multiple of the element's bytes where these are 1, 2, 4 or 8; f4b elements and those of other sizes lie
anywhere (R229). -/
def elementsAligned (x : Transfer) : Bool :=
  let b := elementBytes x.desc
  x.desc.type == 7 || !([1, 2, 4, 8].contains b) || decide (x.addr.toNat % b = 0)

/-- A transfer that reads memory. -/
def readsMemory (x : Transfer) : Bool := [.load, .scale, .loadX, .fill].contains x.kind

/-- The elements of a transfer without an index, as its check phase goes over them: their bytes and their number (R229, R230, 09 R211). -/
def elementRun (x : Transfer) : Nat × Nat :=
  match x.kind with
  | .scale => (2, (x.rows + 31) / 32)
  | .spill => (1, 1 + (x.rows * x.desc.width.toNat + 7) / 8)
  | _ => if x.desc.type = 7 then (1, (x.rows + 1) / 2) else (elementBytes x.desc, x.rows)

/-- The address of element i of an indexed transfer: the base and the index, read by its type, times the bytes of an element (R230). -/
def indexedAddress (s : State) (x : Transfer) (i : Nat) : Dword :=
  let r := s.elem s.me x.index (x.row0 + i)
  let k : Int := if x.index.type = 0 ∧ r.testBit (x.index.width.toNat - 1) then (r : Int) - 2 ^ x.index.width.toNat else r
  x.addr + BitVec.ofInt 64 (k * elementBytes x.desc)

/-- The check phase of a transfer, made from s, finds nothing and leaves u and the transfer y with what it has read; no memory holds
poison (R232). -/
def checksPass (s u : State) (x y : Transfer) : Prop :=
  let r := s.hartReach s.me .vector
  let strip := s.self.strip.isSome
  let selects := fun (i : Nat) => !x.masked || s.tag s.me 0 (x.row0 + i)
  let valid := fun (i : Nat) => selects i && s.tgv s.me (x.row0 + i)
  let run := elementRun x
  let indexed := fun (use : Access) (lax : Bool) (rows : List Nat) =>
    let addrs := rows.map fun i => (i, indexedAddress s x i)
    y = { x with addrs := addrs } ∧
    ∃ w, s.window (clusterOfHart s.me) (windowUser s.me) (min 32 (s.rowCycles s.me x.rows)) = some w ∧ w.poison = [] ∧
      w.rowPoison = [] ∧ w.checkRows r x use lax (strip && !readsMemory x) addrs = (none, u)
  (s.poison = [] ∧ s.rowPoison = [] ∧ u.poison = [] ∧ u.rowPoison = []) ∧
  match x.kind with
  | .load | .scale => y = x ∧ s.checkAccess r .load false false x.addr run.1 run.2 = (none, u)
  | .store | .spill => y = x ∧ s.checkAccess r .store true strip x.addr run.1 run.2 = (none, u)
  | .loadX => indexed .load false ((List.range x.rows).filter selects)
  | .storeX => indexed .store true ((List.range x.rows).filter valid)
  | .addX => indexed .update true ((List.range x.rows).filter valid)
  | .fill =>
    r.check .store x.addr 1 = none ∧ s.self.vmem = [] ∧ s.self.keptBack x.owner 8 true = false ∧
    ∃ f w, (s.hartLoad s.me .vector x.addr 1 x.maker).clean x.addr = .ok [f] w ∧ f.toNat ≤ 2 ∧
      w.checkAccess r .load false false x.addr 1 (1 + imageLength x.desc.width.toNat x.rows f.toNat) = (none, u) ∧
      y = { x with format := f.toNat }
  | _ => False

end Sys2Proof.Claims

/-- Every VMEM word over rows completes: with n = 0 it only retires; with its fields and rows in order, its address aligned and
nothing found by its check phase, its transfer joins the end of the hart's VMEM queue, and the next word waits for the check
phase; rows beyond 16,384 raise BOUNDS with n, a misaligned address ALIGN, VSTADD in a strip STRIPF with 4; a VFILL waits for the older
accesses of the queue, and a format byte above 2 raises BOUNDS with its address (R228 to R233, R251, 09 R211). -/
def Sys2Proof.Parts.TransferWordsJoinTheVmemQueue : Prop :=
  ∀ (i : Instr) (s : State) (h : HartKey) (k : TransferKind) (v : VReg) (ix : Option VReg) (a n' : Reg) (m : Bool),
    Claims.transferOp i = some (k, v, ix, a, n', m) → s.Ready i → s.cur = .hart h →
    let n := (s.due.rx n').toNat
    let x := Claims.queuedAs s.due k v ix a n' m
    let rb := (s.hart h).csr.rowbase.toNat
    let ok := 0 < n ∧ Claims.fieldsFit (s.hart h) (v :: ix.toList) ∧ Claims.transferAdmits s.due k v ix = true
    let right := rb + n ≤ 16384 ∧ (k = .addX → (s.hart h).strip = none)
    (n = 0 → exec i s = .next s.due.retired) ∧
    (ok → 16384 < rb + n → exec i s = .next (s.due.trapped 0x08 (BitVec.ofNat 64 n))) ∧
    (ok → rb + n ≤ 16384 → k = .addX → (s.hart h).strip ≠ none → exec i s = .next (s.due.trapped 0x0D 4)) ∧
    (ok → right → Claims.elementsAligned x = false → exec i s = .next (s.due.trapped 0x05 x.addr)) ∧
    (∀ u y, ok → right → Claims.elementsAligned x = true → Claims.checksPass s.due u x y →
      (s.hart h).strip = none ∨ Claims.readsMemory x = true ∨ (ix = none ∧ 2 ^ 60 ≤ x.addr.toNat) →
      ∃ ready last, s.now < ready ∧ ready ≤ last ∧ exec i s = .next
        ((u.modSelf fun t => { t with vmem := t.vmem ++ [{ y with ready := ready, last := last }] }).delay ready).retired) ∧
    (k = .fill → ok → right → Claims.elementsAligned x = true → (s.due.hartReach h .vector).check .store x.addr 1 = none →
      ((s.hart h).vmem ≠ [] ∨ (s.hart h).keptBack x.owner 8 true = true → exec i s = .next s.due) ∧
      (∀ f w, (s.hart h).vmem = [] → (s.hart h).keptBack x.owner 8 true = false →
        (s.due.hartLoad h .vector x.addr 1 x.maker).clean x.addr = .ok [f] w → 2 < f.toNat →
        exec i s = .next (w.trapped 0x08 x.addr)))

/-- TLOAD completes: a misaligned address raises ALIGN, and one whose check phase finds nothing puts its table load into the
VMEM queue (06 R156). The access at the head of the queue moves on, once its check phase is over and no ordering point keeps it back
(10 R233, R245): a transfer makes the next step of its rows and leaves the queue when it is done, a scalar access is performed as a
whole; one that fails leaves a late fault for the hart, one at a time, and one that has to wait changes nothing. A table load that has
read its 512 bytes writes its slot for the hart's context, but not while a word that reads the slot occupies the arrays (06 R160). -/
def Sys2Proof.Parts.TransfersMoveFromTheHeadOfTheQueue : Prop :=
  (∀ (l : BitVec 2) (a : Reg) (s u : State) (h : HartKey), s.cur = .hart h → s.Ready (.tload l a) →
    let va := s.due.rx a
    (va.toNat % 64 ≠ 0 → exec (.tload l a) s = .next (s.due.trapped 0x05 va)) ∧
    (va.toNat % 64 = 0 → s.due.checkAccess (s.due.hartReach h .vector) .load false false va 1 512 = (none, u) →
      u.poison = [] → u.rowPoison = [] →
      ∃ ready last, s.now < ready ∧ ready ≤ last ∧ exec (.tload l a) s = .next
        ((u.modSelf fun t =>
          { t with vmem := t.vmem ++ [{ Claims.tableLoad l va s.due.self.serial with ready := ready, last := last }] }).delay ready).retired)) ∧
  (∀ (h : HartKey) (s : State),
    let late := fun (m : Miss) (u : State) => if (u.hart h).overdue = none ∧ m.cause ≠ causeWait
      then u.modHart h fun t => { t with overdue := some (m.cause, m.value) } else s
    ((s.hart h).vmem = [] → exec (.vmemTransfer h) s = .next s) ∧
    (∀ x rest, (s.hart h).vmem = x :: rest → s.now < x.ready ∨ (s.hart h).keptBack x.owner 8 x.plainLoad = true →
      exec (.vmemTransfer h) s = .next s) ∧
    (∀ x rest, (s.hart h).vmem = x :: rest → x.ready ≤ s.now → (s.hart h).keptBack x.owner 8 x.plainLoad = false →
      (x.word = none → x.done = false →
        (∀ y u, s.moveTransfer h x = .ok y u → (u.hart h).sideLog.length ≤ 64 →
          exec (.vmemTransfer h) s = .next (u.modHart h fun t => { t with vmem := if y.done then rest else y :: rest })) ∧
        (∀ m u, s.moveTransfer h x = .miss m u → exec (.vmemTransfer h) s = .next (late m u)) ∧
        (s.moveTransfer h x = .wait → exec (.vmemTransfer h) s = .next s)) ∧
      (∀ i, x.word = some i →
        (∀ u, s.directStep h i x = .ok () u → (u.hart h).sideLog.length ≤ 64 →
          exec (.vmemTransfer h) s = .next (u.modHart h fun t => { t with vmem := rest })) ∧
        (∀ m u, s.directStep h i x = .miss m u → exec (.vmemTransfer h) s = .next (late m u)) ∧
        (s.directStep h i x = .wait → exec (.vmemTransfer h) s = .next s)) ∧
      (x.word = none → x.kind = .table → x.rows = 1 → x.pos = 0 → x.got.length = 512 → (s.hart h).sideLog.length ≤ 64 →
        let k := clusterOfHart h
        let used := s.now < (s.cluster k).arraysFree ∧ (s.cluster k).reading = some x.slot
        (used → exec (.tableSlotWrite h) s = .next s) ∧
        (¬ used → ∃ t, exec (.tableSlotWrite h) s = .next t ∧ (t.hart h).vmem = rest ∧
          (x.slot < (s.cluster k).tables.size → (t.cluster k).tables.getD x.slot none = some { ctx := (s.hart h).ctx, data := x.got })))))

/-- Every VMEM word over rows completes: with n = 0 it only retires; with its fields and rows in order, its address aligned and
nothing found by its check phase, its transfer joins the end of the hart's VMEM queue, and the next word waits for the check
phase; rows beyond 16,384 raise BOUNDS with n, a misaligned address ALIGN, VSTADD in a strip STRIPF with 4; a VFILL waits for
the older accesses of the queue, and a format byte above 2 raises BOUNDS with its address (R228 to R233, R251, 09 R211). TLOAD
completes: a misaligned address raises ALIGN, and one whose check phase finds nothing puts its table load into the VMEM queue
(06 R156). The access at the head of the queue moves on, once its check phase is over and no ordering point keeps it back (10
R233, R245): a transfer makes the next step of its rows and leaves the queue when it is done, a scalar access is performed as a
whole; one that fails leaves a late fault for the hart, one at a time, and one that has to wait changes nothing. A table load
that has read its 512 bytes writes its slot for the hart's context, but not while a word that reads the slot occupies the arrays
(06 R160). That a transfer's fault comes late is the model's reading (log 25), as are VFILL's wait for older accesses and its
one read of the format byte (log 20). -/
def Obligations.TransfersJoinAndMoveTheirRows : Prop := Parts.TransferWordsJoinTheVmemQueue ∧ Parts.TransfersMoveFromTheHeadOfTheQueue

/-- A transfer reads the element of a selected row at its place, or reads nothing for another: the low bits of its bytes, lowest first,
all at once for 1, 2, 4 or 8 bytes and byte by byte for 3, 5, 6 or 7, the nibble of its row for f4b, a scale pair of two bytes for 32
rows; an indexed form lies at its base and index. A store takes the element of a selected row that is valid, and leaves out the
others; it gives memory the element's bytes, extended by its type (R229, R230, 11 R257). -/
def Sys2Proof.Parts.RowsMoveAsLittleEndianElements : Prop :=
  ∀ (s : State) (h : HartKey) (x : Transfer) (i : Nat), s.me = h →
    let d := x.desc
    let b := Claims.elementBytes d
    let selects := !x.masked || s.tag h 0 (x.row0 + i)
    let reads := fun (va : Dword) (n : Nat) (g : Got) (u : State) =>
      s.hartLoad h .vector va n x.maker = .ok g u ∧ g.poisoned = none ∧ g.bytes.length = n
    let whole := b = 1 ∨ b = 2 ∨ b = 4 ∨ b = 8
    let low := fun (bs : List Byte) => Claims.littleEndian bs % 2 ^ d.width.toNat
    let dense := fun (va : Dword) (v : Nat) => { x with pos := i + 1, got := [], values := (i, va, v) :: x.values }
    (x.kind = .load ∨ x.kind = .scale → x.pos = i → i < x.rows → x.got = [] → selects = false →
      s.readUnit h x = .ok { x with pos := i + 1, got := [] } s) ∧
    (∀ g u, x.kind = .load → x.pos = i → i < x.rows → x.got = [] → selects = true →
      (d.type ≠ 7 → whole → let va := x.addr + BitVec.ofNat 64 (i * b)
        reads va b g u → s.readUnit h x = .ok (dense va (low g.bytes)) u) ∧
      (∀ c, d.type = 7 → let va := x.addr + BitVec.ofNat 64 (i / 2)
        reads va 1 g u → g.bytes = [c] → s.readUnit h x = .ok (dense va (c.toNat / 2 ^ (4 * (i % 2)) % 16)) u)) ∧
    (∀ g u bs c, x.kind = .load → x.pos = i → i < x.rows → d.type ≠ 7 → ¬ whole → x.got = bs → bs.length < b →
      (bs ≠ [] ∨ selects = true) → let va := x.addr + BitVec.ofNat 64 (i * b)
      reads (va + BitVec.ofNat 64 bs.length) 1 g u → g.bytes = [c] →
      s.readUnit h x = .ok (if bs.length + 1 < b then { x with got := bs ++ [c] } else dense va (low (bs ++ [c]))) u) ∧
    (∀ g u, x.kind = .scale → d.type = 1 → d.width = 16 → x.pos = i → i < x.rows → x.got = [] → selects = true →
      let va := x.addr + BitVec.ofNat 64 (2 * (i / 32))
      reads va 2 g u → s.readUnit h x = .ok (dense va (Claims.littleEndian g.bytes)) u) ∧
    (∀ g u rest, x.kind = .loadX → d.type ≠ 7 → whole → x.got = [] → let va := Claims.indexedAddress s x i
      x.addrs = (i, va) :: rest → reads va b g u →
      s.readUnit h x = .ok { x with addrs := rest, got := [], values := (i, va, low g.bytes) :: x.values } u) ∧
    (x.kind = .loadX ∨ x.kind = .storeX ∨ x.kind = .addX → s.readIndex h x [i] = [(i, Claims.indexedAddress s x i)]) ∧
    (x.kind = .store → s.takeRows h x [i] = if selects && s.tgv h (x.row0 + i)
      then [(i, x.addr + BitVec.ofNat 64 (if d.type = 7 then i / 2 else i * b), s.elem h d (x.row0 + i))] else []) ∧
    (∀ va v rest, x.kind = .store ∨ x.kind = .storeX → d.type ≠ 7 → x.values = (i, va, v) :: rest →
      ∃ bs : List Byte, bs.length = b ∧
        (Claims.littleEndian bs : Int) =
          (if d.type = 0 ∧ v.testBit (d.width.toNat - 1) then (v : Int) - 2 ^ d.width.toNat else v) % 2 ^ (8 * b) ∧
        x.nextPut = some (if whole then (.bytes va (bs.map some), { x with values := rest })
          else (.bytes (va + BitVec.ofNat 64 x.pos) [some (bs.getD x.pos 0)],
            if b ≤ x.pos + 1 then { x with values := rest, pos := 0 } else { x with pos := x.pos + 1 })))

/-- A spill image fills back: VFILL reads from the image that VSPILL writes of any values of a width the same values, and the
image has the length of its format byte, which is never more than the packed one (09 R211). -/
def Sys2Proof.Parts.SpillImagesFillBack : Prop :=
  ∀ (w : Nat) (vs : List Nat), 1 ≤ w → w ≤ 64 → vs ≠ [] → (∀ v ∈ vs, v < 2 ^ w) →
    let image := spillImage w vs
    fillValues w vs.length image = vs ∧
    image.length = 1 + imageLength w vs.length (image.headD 0).toNat ∧ image.length ≤ 1 + (vs.length * w + 7) / 8

/-- A transfer reads the element of a selected row at its place, or reads nothing for another: the low bits of its bytes, lowest
first, all at once for 1, 2, 4 or 8 bytes and byte by byte for 3, 5, 6 or 7, the nibble of its row for f4b, a scale pair of two
bytes for 32 rows; an indexed form lies at its base and index. A store takes the element of a selected row that is valid, and
leaves out the others; it gives memory the element's bytes, extended by its type (R229, R230, 11 R257). A spill image fills
back: VFILL reads from the image that VSPILL writes of any values of a width the same values, and the image has the length of
its format byte, which is never more than the packed one (09 R211). -/
def Obligations.RowImagesMoveAndReturn : Prop := Parts.RowsMoveAsLittleEndianElements ∧ Parts.SpillImagesFillBack

/-! ## Chapters 10 and 11: streams, atomics, fences, strips, circular buffers -/

namespace Sys2Proof.Claims

/-- The number in n bytes of a list from a byte on. -/
def fieldAt (bs : List Byte) (off n : Nat) : Nat := littleEndian ((bs.drop off).take n)

/-- A binding record that SBIND admits for a field of a hart at a rowbase: ROWS from 1 to 16,384 and inside the rows, at least
one block, DIR and FORM 0 or 1, scale pairs only as loads in u16, zero reserved bytes, and ADDR in H-space, A-space or W-space,
aligned for its elements (R236, R237). -/
def bindingAdmitted (bs : List Byte) (d : FieldDesc) (rowbase : Nat) : Bool :=
  let addr := fieldAt bs 0 8
  let rows := fieldAt bs 8 4
  let dir := fieldAt bs 24 1
  let form := fieldAt bs 25 1
  let size := (d.width.toNat + 7) / 8
  decide (1 ≤ rows ∧ rows ≤ 16384 ∧ rowbase + rows ≤ 16384 ∧ 1 ≤ fieldAt bs 12 4 ∧ dir ≤ 1 ∧ form ≤ 1 ∧ ¬ (form = 1 ∧ dir = 1) ∧
    fieldAt bs 26 6 = 0) && [0, 10, 11].contains (addr / 2 ^ 60) &&
    (d.type == 7 || !([1, 2, 4, 8].contains size) || decide (addr % size = 0))

/-- The fields of a binding record: address, rows, block stride, DIR and FORM (R236). -/
def recordField (b : Binding) (lo n : Nat) : Nat := b.record.toNat / 2 ^ lo % 2 ^ n

/-- Block number k of a stream: its rows are at ADDR + k · BSTRIDE; a load block carries the window edge and the stream index of its
first row (R237, R238, 15 R346). -/
def blockOf (b : Binding) (q : BitVec 3) (k owner : Nat) : Transfer :=
  let stores := recordField b 192 8 = 1
  { kind := if stores then .store else if recordField b 200 8 = 1 then .scale else .load, desc := b.desc, row0 := b.rowbase,
    rows := recordField b 64 32, addr := BitVec.ofNat 64 (recordField b 0 64 + k * recordField b 128 64), stream := q.toNat,
    owner := owner, edge := if stores then 0 else b.edge, index0 := k * recordField b 64 32 }

/-- A stream that has started its next block. -/
def started (b : Binding) (q : BitVec 3) (owner : Nat) : Binding :=
  { b with block := some (blockOf b q b.started owner), started := b.started + 1 }

/-- An AMO: its registers, its ordering and width bits, whether it is unsigned, whether the host takes it, and the new value of n
bits for the old one, x[xb] and x[xd], none where nothing is written (R242). -/
def amoOp : Instr → Option ((Reg × Reg × Reg) × BitVec 2 × BitVec 1 × Bool × Bool × (Nat → Nat → Nat → Nat → Option Nat))
  | .amoadd d a b o w => some ((d, a, b), o, w, false, true, fun n x y _ => some ((x + y) % 2 ^ n))
  | .amoand d a b o w => some ((d, a, b), o, w, false, false, fun _ x y _ => some (x &&& y))
  | .amoor d a b o w => some ((d, a, b), o, w, false, false, fun _ x y _ => some (x ||| y))
  | .amoxor d a b o w => some ((d, a, b), o, w, false, false, fun _ x y _ => some (x ^^^ y))
  | .amoswap d a b o w => some ((d, a, b), o, w, false, true, fun _ _ y _ => some y)
  | .amocas d a b o w => some ((d, a, b), o, w, false, true, fun _ x y e => if x = e then some y else none)
  | .amomin d a b o w u =>
    some ((d, a, b), o, w, u == 1, false, fun n x y _ =>
      some (if (if u = 1 then decide (x < y) else decide ((BitVec.ofNat n x).toInt < (BitVec.ofNat n y).toInt)) then x else y))
  | .amomax d a b o w u =>
    some ((d, a, b), o, w, u == 1, false, fun n x y _ =>
      some (if (if u = 1 then decide (x < y) else decide ((BitVec.ofNat n x).toInt < (BitVec.ofNat n y).toInt)) then y else x))
  | _ => none

/-- What AMAXF leaves in an FP32 word for a magnitude m: the word where m is a NaN, m where the word is a NaN or has its sign
set, else the greater (R244). -/
def folded (word m : Nat) : Nat :=
  if 0x7F800000 < m then word else if 0x7F800000 < word % 2 ^ 31 then m else if 2 ^ 31 ≤ word then m else max word m

/-- A word that acquires: a hart's leaves an ordering point, for which its younger accesses of every stream wait and which waits for its
older loads; a steward's takes effect at once (11 R259). -/
def acquired (s : State) (scope : Nat) : State :=
  match s.cur with
  | .hart h => s.modHart h fun t => { t with orders := t.orders ++
      [{ streams := 511, loads := true, stores := false, release := none, acquire := some scope, ready := s.now, owner := t.serial }] }
  | .steward c => s.acquire c scope

/-- One step at a home as memory and the hart see it: the words that the hart stores over are noted for its fetch, the bytes are
written, its L1 drops the word, and its strip no longer holds the older bytes. -/
def homeStep (s : State) (h : HartKey) (owner : Nat) (va : Dword) (key loc n : Nat) (new : Option (List Byte))
    (core : CoreId) : State :=
  let w := match new with
    | some bs => (s.noteStale h va n owner).homeStore key loc (bs.map some)
    | none => s
  (w.dropWord core (loc / 8)).modHart h fun t => { t with granules := clearGranules t.granules va n owner }

end Sys2Proof.Claims

/-- SBIND, SUNB, SBAR, SWAIT and SSTAT complete: SBIND binds its stream to the record it reads and starts block 0 of a load
stream, SUNB unbinds, SBAR orders the named streams, SWAIT passes a block that is moved, or a store block whose rows are read, starts a
block that has not been started, and else waits, and SSTAT reads the stream's state, 0 when unbound, with a block whose check has failed
still in flight; a misaligned record raises ALIGN,
a refused one BOUNDS, a field that scale pairs do not suit FIELD, and a store stream to W-space PROT (R235 to R240). -/
def Sys2Proof.Parts.StreamWordsBindMoveAndWait : Prop :=
  ∀ (q : BitVec 3) (s : State) (h : HartKey), s.cur = .hart h →
    let u := s.due
    let t := u.hart h
    let flies := fun (b : Binding) => b.block ≠ none ∧ b.fault = none
    (∀ v b bs w, s.Ready (.sbind q v b) →
      let va := u.firstX b
      let form := Claims.fieldAt bs 25 1
      let dir := Claims.fieldAt bs 24 1
      let idle := ∀ o, t.stream q = some o → ¬ flies o
      let ok := idle ∧ va.toNat % 8 = 0 ∧ va.toNat < 2 ^ 52 - 32 ∧ u.readsWhole va = true ∧
        u.loadRecord va 32 = .ok bs w ∧ bs.length = 32 ∧ Claims.fieldsFit t [v]
      let fits := form = 1 → Claims.typ u v = 1 ∧ Claims.wid u v = 16
      let admitted := Claims.bindingAdmitted bs (t.field v) t.csr.rowbase.toNat
      let bound : Binding := { record := bitsOfBytes 256 bs, desc := t.field v, rowbase := t.csr.rowbase.toNat }
      let next := u.recordDue va
      (idle → va.toNat % 8 ≠ 0 → exec (.sbind q v b) s = .next (u.trapped 0x05 va)) ∧
      (ok → ¬ fits → exec (.sbind q v b) s = .next (w.trapped 0x04 (v.setWidth 64))) ∧
      (ok → fits → admitted = false → exec (.sbind q v b) s = .next (w.trapped 0x08 va)) ∧
      (ok → fits → admitted = true → dir = 1 → Claims.fieldAt bs 0 8 / 2 ^ 60 = 11 →
        exec (.sbind q v b) s = .next (w.trapped 0x07 bound.addr)) ∧
      (ok → fits → admitted = true → ¬ (dir = 1 ∧ Claims.fieldAt bs 0 8 / 2 ^ 60 = 11) →
        exec (.sbind q v b) s = .next ((w.setStream h q (some (if dir = 1 then bound else
          { bound with block := some { Claims.blockOf bound q 0 t.serial with ready := next + s.ir.toNat % 8 + 2 }
                       started := 1 }))).delay next).retired)) ∧
    (s.Ready (.sunb q) →
      (t.stream q = none → exec (.sunb q) s = .next u.retired) ∧
      (∀ b, t.stream q = some b → (¬ flies b → exec (.sunb q) s = .next (u.setStream h q none).retired) ∧
        (flies b → exec (.sunb q) s = .next u))) ∧
    (∀ a, s.Ready (.sbar a) →
      ((u.rx a).toNat % 512 = 0 → exec (.sbar a) s = .next u.retired) ∧
      ((u.rx a).toNat % 512 ≠ 0 → exec (.sbar a) s = .next
        (u.modHart h fun t => { t with orders := t.orders ++
          [{ streams := (u.rx a).setWidth 9, loads := true, release := none, acquire := none, ready := s.now,
             owner := t.serial }] }).retired)) ∧
    (s.Ready (.swait q) →
      (t.stream q = none → exec (.swait q) s = .next u.retired) ∧
      (∀ b, t.stream q = some b →
        let passed := b.waits < b.started ∧ (b.waits < b.moved ∨ b.stores = true ∧ ∀ x, b.block = some x → x.taken = true)
        (b.blocks ≤ b.waits → exec (.swait q) s = .next u.retired) ∧
        (b.waits < b.blocks → passed → exec (.swait q) s = .next (u.setStream h q (some { b with waits := b.waits + 1 })).retired) ∧
        (b.waits < b.blocks → b.started ≤ b.waits → b.block = none →
          exec (.swait q) s = .next ((u.setStream h q (some (Claims.started b q t.serial))).modHart h fun t =>
            { t with wait := .swait, waitWord := s.ir, waitFrom := if t.wait = .none then s.now else t.waitFrom })) ∧
        (b.waits < b.blocks → ¬ passed → ¬ (b.started ≤ b.waits ∧ b.block = none) → exec (.swait q) s = .next u))) ∧
    (∀ d, s.Ready (.sstat d q) →
      (t.stream q = none → exec (.sstat d q) s = .next (u.resultAt d 0 (s.now + 4)).retired) ∧
      (∀ b, t.stream q = some b →
        exec (.sstat d q) s = .next (u.resultAt d
          (BitVec.ofNat 64 (1 + 2 * (if b.stores then 1 else 0) + 4 * (if b.block ≠ none then 1 else 0) +
            8 * (if b.blocks ≤ b.moved then 1 else 0) + 2 ^ 32 * b.moved)) (s.now + 4)).retired))

/-- A word that reads a record goes on with the bytes that it has read, those of an earlier cycle as they were then, once no other
agent may write or the time of its load is over; before, it reads some bytes and waits for the rest (11 R257). -/
def Sys2Proof.Parts.RecordsAreReadInParts : Prop :=
  (∀ (s : State) (va : Dword) (n : Nat) (bs : List Byte) (w : State), s.load .scalar va n = .ok bs w →
    (s.recordGot = [] → s.loadRecord va n = .ok bs w) ∧
    ∃ ds : List Byte, s.loadRecord va n = .ok ds w ∧ ds.length = bs.length ∧
      ∀ (i : Nat) (hi : i < bs.length) (hd : i < ds.length),
        (∀ e ∈ s.recordGot, e.1 = va + BitVec.ofNat 64 i → (∀ f ∈ s.recordGot, f.1 = e.1 → f = e) → ds[i] = e.2) ∧
        ((∀ e ∈ s.recordGot, e.1 ≠ va + BitVec.ofNat 64 i) → ds[i] = bs[i])) ∧
  (∀ (s : State) (h : HartKey) (va x y : Dword) (n : Nat) (f : List Byte → State → Flow), s.cur = .hart h →
    let read := fun (load : State → Dword → Nat → Acc (List Byte)) (s : State) => load s va n
    let reading := s.modSelf fun t => { t with wait := .record (s.recordDue va) s.recordGot x y }
    (s.readsWhole va = true → s.recordFlow va x y read f = (s.loadRecord va n).flow s f) ∧
    (∀ v u, s.readsWhole va = false → reading.noteRecord va n = .ok v u → u.cur = s.cur →
      ∃ w, s.recordFlow va x y read f = f v w ∨
        ∃ k, s.recordGot.length ≤ k ∧ k < u.recordGot.length ∧ w.myWait = .record (s.recordDue va) (u.recordGot.take k) x y ∧
          s.recordFlow va x y read f = .hold w))

/-- STREAM_BLOCK moves the block in flight of a stream, and nothing where there is none, before its time, after a fault, or where an
ordering point keeps its accesses back: first its check phase, whose fault the stream keeps for the hart; a load block 0 takes the
window edge then, once, and waits for a KVWIN that is the word after its SBIND; then its rows, and the block that is done counts as moved
(R237 to R239, 15 R346). -/
def Sys2Proof.Parts.StreamBlocksMove : Prop :=
  ∀ (q : BitVec 3) (s : State) (h : HartKey),
    let t := s.hart h
    (t.stream q = none → exec (.streamBlock h q) s = .next s) ∧
    (∀ b, t.stream q = some b →
      let put := fun (w : State) (b : Binding) => w.setStream h q (some b)
      (b.block = none ∨ b.fault ≠ none → exec (.streamBlock h q) s = .next s) ∧
      (∀ x, b.block = some x → b.fault = none →
        let kept := t.keptBack x.owner x.stream x.plainLoad
        (s.now < x.ready ∨ kept = true ∧ (x.loads = true ∨ x.taken = true) → exec (.streamBlock h q) s = .next s) ∧
        (x.ready ≤ s.now → kept = false → x.last = 0 →
          let begun := { x with edge := if x.loads = true ∧ x.index0 = 0 ∧ x.edged = false then b.edge else x.edge, edged := true }
          (s.windowNext h q x = true → exec (.streamBlock h q) s = .next s) ∧
          (∀ m w, s.windowNext h q x = false → s.blockCheck h begun = (some m, w) → m.cause ≠ causeWait →
            exec (.streamBlock h q) s = .next (put w { b with block := some begun, fault := some (m.cause, m.value) })) ∧
          (∀ w, s.windowNext h q x = false → s.blockCheck h begun = (none, w) → ∃ ready last, s.now ≤ ready ∧ ready < last ∧
            exec (.streamBlock h q) s = .next (put w { b with block := some { begun with ready := ready, last := last } }))) ∧
        (x.ready ≤ s.now → kept = false → x.last ≠ 0 → x.done = false →
          (∀ y w, s.moveTransfer h x = .ok y w → (w.hart h).sideLog.length ≤ 64 → exec (.streamBlock h q) s = .next
            (put w (if y.done then { b with block := none, moved := b.moved + 1 } else { b with block := some y }))) ∧
          (∀ m w, s.moveTransfer h x = .miss m w → m.cause ≠ causeWait → x.taken = false →
            exec (.streamBlock h q) s = .next (put w { b with fault := some (m.cause, m.value) })) ∧
          (s.moveTransfer h x = .wait → exec (.streamBlock h q) s = .next s))))

/-- SBIND, SUNB, SBAR, SWAIT and SSTAT complete: SBIND binds its stream to the record it reads and starts block 0 of a load
stream, SUNB unbinds, SBAR orders the named streams, SWAIT passes a block that is moved, or a store block whose rows are read,
starts a block that has not been started, and else waits, and SSTAT reads the stream's state, 0 when unbound, with a block whose
check has failed still in flight; a misaligned record raises ALIGN, a refused one BOUNDS, a field that scale pairs do not suit
FIELD, and a store stream to W-space PROT (R235 to R240). A word that reads a record goes on with the bytes that it has read,
those of an earlier cycle as they were then, once no other agent may write or the time of its load is over; before, it reads
some bytes and waits for the rest (11 R257). STREAM_BLOCK moves the block in flight of a stream, and nothing where there is
none, before its time, after a fault, or where an ordering point keeps its accesses back: first its check phase, whose fault the
stream keeps for the hart; a load block 0 takes the window edge then, once, and waits for a KVWIN that is the word after its
SBIND; then its rows, and the block that is done counts as moved (R237 to R239, 15 R346). What a trapping SBIND leaves, a block
whose check has failed, the dropped fault and the window edge of a block are the model's readings (log 21), as is a fault kept
for a later word (log 25); that a record is read in parts is its choice (log 65). -/
def Obligations.StreamsBindMoveAndWait : Prop := Parts.StreamWordsBindMoveAndWait ∧ Parts.RecordsAreReadInParts ∧ Parts.StreamBlocksMove

/-- Every AMO and fold issues on qd with the registers it reads, an ordered one with its release two cycles later; a misaligned
address raises ALIGN, and an operation that the host does not take PROT there. As it is performed, the bytes at the home become
the new value in one step, and an AMO brings the old value, extended; a poisoned word stays as it is, and an AMO of it raises
UCE, as one whose answer the host ends in error does; a fold at a page with no valid translation goes into the side log; a
release comes before the step, and waits for stream blocks whose check has failed (R242 to R244, 11 R272, 17 R357, R365). Poison
under an AMO or fold is log 23, a word that is a non-canonical NaN log 61, and the host's answers log 19: the model's choices.
-/
def Obligations.AtomicsUpdateTheirHome : Prop :=
  ∀ (s : State) (h : HartKey),
    (∀ i d a b o w uns host f, Claims.amoOp i = some ((d, a, b), o, w, uns, host, f) →
      let n := if w = 1 then 8 else 4
      let low := fun (x : Dword) => x.toNat % 2 ^ (8 * n)
      (s.cur = .hart h → s.Ready i →
        let va := s.due.rx a
        (va.toNat % n ≠ 0 → exec i s = .next (s.due.trapped 0x05 va)) ∧
        (va.toNat % n = 0 → (s.due.hartReach h .scalar).check .update va n = none → 2 ^ 51 ≤ va.toNat → host = false →
          exec i s = .next (s.due.trapped 0x07 va)) ∧
        (va.toNat % n = 0 → Claims.AccessIssues i s
          { kind := .amo, addr := va, word := some i, data := s.due.rx b, old := s.due.rx d, owner := s.due.self.serial
            ready := s.now + if o.getLsbD 1 then 2 else 0 } (some d))) ∧
      (∀ x v t, x.kind = .amo → (s.hart h).logMeets x.addr n (2 ^ 64) = false →
        let r := s.hartReach h .scalar
        s.hartWaits h r .update x.addr n x.maker = false →
        s.translate r.core r.unit r.ctx x.addr .update = (.ok t, v) → t.lost = false →
        (∀ k, v.poisonAt t.loc n = some k → s.performDirect h i x =
          .miss { cause := 0x09, value := x.addr + BitVec.ofNat 64 k } (v.poisonEvent r.core (hartMaster h) r.ctx x.addr)) ∧
        (v.poisonAt t.loc n = none →
          let answer := v.choose (if 2 ^ 51 ≤ x.addr.toNat then 2 else 0)
          let old := answer.2.homeRead t.key t.loc n
          let word := Claims.littleEndian old.1
          let signed : Int := if uns = false ∧ 2 ^ (8 * n - 1) ≤ word then (word : Int) - 2 ^ (8 * n) else word
          (answer.1 = 1 → s.performDirect h i x = .miss { cause := 0x09, value := x.addr } answer.2) ∧
          ∀ new : Option (List Byte), answer.1 ≠ 1 → (∀ bs, new = some bs → bs.length = n) →
            new.map Claims.littleEndian = f (8 * n) word (low x.data) (low x.old) →
            s.performDirect h i x = .ok (BitVec.ofInt 64 signed, v.now + homeTime r.core t.loc)
              (Claims.homeStep old.2 h x.owner x.addr t.key t.loc n new r.core)))) ∧
    (∀ i a b rel, (i = .amaxf a b ∧ rel = false ∨ i = .amaxfRel a b ∧ rel = true) →
      (s.cur = .hart h → s.Ready i →
        let va := s.due.rx a
        (va.toNat % 4 ≠ 0 → exec i s = .next (s.due.trapped 0x05 va)) ∧
        (va.toNat % 4 = 0 → (s.due.hartReach h .scalar).check .update va 4 = none → 2 ^ 51 ≤ va.toNat →
          exec i s = .next (s.due.trapped 0x07 va)) ∧
        (va.toNat % 4 = 0 → Claims.AccessIssues i s
          { kind := .fold, addr := va, word := some i, data := s.due.rx b, owner := s.due.self.serial
            ready := s.now + if rel then 2 else 0 } none)) ∧
      (∀ x v, x.kind = .fold →
        let r := s.hartReach h .scalar
        let m := x.data.toNat % 2 ^ 31
        s.hartWaits h r .update x.addr 4 x.maker = false →
        (∀ t, s.translate r.core r.unit r.ctx x.addr .update = (.ok t, v) → t.lost = false →
          (v.poisonAt t.loc 4 ≠ none → ∃ c, s.performDirect h i x =
            .ok (0, c) (v.poisonEvent r.core (hartMaster h) r.ctx x.addr)) ∧
          (v.poisonAt t.loc 4 = none →
            let old := v.homeRead t.key t.loc 4
            ∀ bs : List Byte, bs.length = 4 → Claims.littleEndian bs = Claims.folded (Claims.littleEndian old.1) m →
              ∃ c, s.performDirect h i x = .ok (0, c) (Claims.homeStep old.2 h x.owner x.addr t.key t.loc 4 (some bs) r.core))) ∧
        (∀ e, s.translate r.core r.unit r.ctx x.addr .update = (.error e, v) → e.cause = 0x06 →
          ∀ bs : List Byte, bs.length = 4 → Claims.littleEndian bs = m →
            ∃ c, s.performDirect h i x = .ok (0, c) (v.logSide h .fold x.addr (bs.map some) x.maker)))) ∧
    (∀ i x, (orderingOf i).1 = true → (∃ b ∈ (s.hart h).failedBlocks, b.owner < x.owner) → s.directStep h i x = .wait) ∧
    (∀ i x u w v, ((orderingOf i).1 = true → ∀ b ∈ (s.hart h).failedBlocks, x.owner ≤ b.owner) →
      (if (orderingOf i).1 then s.release h 3 x.owner else .ok () s) = .ok () u → u.performDirect h i x = .ok v w →
      s.directStep h i x = .ok () (w.modHart h fun t => { t with sc := t.sc.bring x.owner v.1 v.2 }))

/-- ACQ, REL and FENCE complete: each retires and leaves an ordering point over every stream, with its scope as a release, an
acquire, or both, and FENCE lets the next taken transfer end old words of fetch; STRIP opens a strip, SABORT drops it, SCOMMIT
closes it and lets its granules drain, and the second STRIP, or SABORT or SCOMMIT with none open, raises STRIPF with 1 or 2; a strip
that fails its check is discarded whole with STRIPF 0, its base in sbase, and a STRIPD event (R245, R248 to R250, 11 R272). -/
def Sys2Proof.Parts.FencesAndStripsTakeEffect : Prop :=
  ∀ (s : State) (h : HartKey), s.cur = .hart h →
    let u := s.due
    let t := u.hart h
    let point := fun (rel acq : Bool) (c : BitVec 3) =>
      t.orders ++ [{ streams := 511, loads := acq, stores := rel, release := if rel then some c.toNat else none,
                     acquire := if acq then some c.toNat else none, ready := s.now + (if rel then 2 else 0), owner := t.serial }]
    (∀ c, s.Ready (.rel c) → exec (.rel c) s = .next (u.modHart h fun t => { t with orders := point true false c }).retired) ∧
    (∀ c, s.Ready (.acq c) → exec (.acq c) s = .next (u.modHart h fun t => { t with orders := point false true c }).retired) ∧
    (∀ c, s.Ready (.fence c) →
      exec (.fence c) s = .next (u.modHart h fun t => { t with orders := point true true c, fenced := t.serial + 1 }).retired) ∧
    (∀ a, s.Ready (.strip a) →
      (t.strip = none → exec (.strip a) s = .next (u.modHart h fun t => { t with strip := some (u.rx a) }).retired) ∧
      (t.strip ≠ none → exec (.strip a) s = .next (u.trapped 0x0D 1))) ∧
    (s.Ready .sabort →
      (t.strip = none → exec .sabort s = .next (u.trapped 0x0D 2)) ∧
      (t.strip ≠ none → exec .sabort s = .next (u.modHart h fun t => { t with strip := none, granules := [] }).retired)) ∧
    (s.Ready .scommit →
      (t.strip = none → exec .scommit s = .next (u.trapped 0x0D 2)) ∧
      (∀ base w, t.strip = some base → u.granuleMiss (u.hartReach h .vector) (orderGranules t.granules) = (none, w) →
        ∃ ready, s.now ≤ ready ∧ exec .scommit s = .next ((w.modHart h fun x => { x with
          strip := none, granules := []
          draining := t.draining ++ t.granules.map fun g => { g with ages := Vector.replicate 64 t.serial } }).delay ready).retired) ∧
      (∀ base g m w, t.strip = some base → u.granuleMiss (u.hartReach h .vector) (orderGranules t.granules) = (some (g, m), w) →
        m.cause ≠ causeWait →
        ∃ z : State, exec .scommit s = .next (z.trapped 0x0D 0) ∧ (z.hart h).csr.sbase = base ∧ (z.hart h).strip = none ∧
          (z.hart h).granules = [] ∧ (z.hart h).draining = (w.hart h).draining ∧
          (z.core (coreOfHart h)).steward.events = (w.core (coreOfHart h)).steward.events ++
            [{ kind := 6, master := hartMaster h, ctx := t.ctx, value := g.addr, pc := 0, x := BitVec.ofNat 8 m.cause }]))

/-- An ordering point moves on once its time has come and the accesses it waits for are performed: its release is made at its scope, and
then it is gone, or, with an acquire, settled; 16 cycles later from scope c on its acquire drops what the L1 does not own, and it is gone;
one of an ARRIVE stays, settled, for its count (R245, 08 R191, 11 R259, R272). -/
def Sys2Proof.Parts.OrderingPointsMove : Prop :=
  ∀ (s : State) (h : HartKey) (p : OrderPoint),
    let gone := fun (u : State) => u.modHart h fun t => { t with orders := t.orders.filter fun o => decide (o.owner ≠ p.owner) }
    (s.now < p.ready → s.orderMove h p = none) ∧
    (p.ready ≤ s.now → p.settled = true → p.arrives = true → s.orderMove h p = none) ∧
    (p.ready ≤ s.now → p.settled = true → p.arrives = false → ∀ c, p.acquire = some c →
      s.orderMove h p = some (gone (s.acquire (coreOfHart h) c))) ∧
    (p.ready ≤ s.now → p.settled = false → (s.hart h).pointDue s.now p = false → s.orderMove h p = none) ∧
    (∀ u, p.ready ≤ s.now → p.settled = false → (s.hart h).pointDue s.now p = true → p.fill = none →
      (match p.release with
        | some c => s.release h c p.owner
        | none => .ok () s) = .ok () u →
      (p.acquire = none → p.arrives = false → s.orderMove h p = some (gone u)) ∧
      (p.acquire = none → p.arrives = true → s.orderMove h p = some (u.modHart h fun t =>
        { t with orders := t.orders.map fun o => if o.owner = p.owner then { p with release := none, settled := true } else o })) ∧
      (∀ c, p.acquire = some c → s.orderMove h p = some (u.modHart h fun t =>
        { t with orders := t.orders.map fun o => if o.owner = p.owner
            then { p with release := none, settled := true, ready := if c = 0 then u.now else u.now + 16 } else o })))

/-- The stores of a hart reach memory: HOME_WRITE writes the bytes of one of the hart's stores on their way, and drops that store
and only stores that it had to wait for; STRIP_DRAIN stores the first byte that a granule of a committed strip still holds and
removes it; with none of them, both leave the state (R250, 11 R254, R257). -/
def Obligations.StoresArriveAtTheirHomes : Prop :=
  ∀ (s : State) (h : HartKey),
    ((∀ f ∈ s.flight, f.hart ≠ h) → exec (.homeWrite h) s = .next s) ∧
    ((∃ f ∈ s.flight, f.hart = h) → s.lineOwners = [] →
      ∃ f ∈ s.flight, f.hart = h ∧
      ∃ t, exec (.homeWrite h) s = .next t ∧ t.flight.length < s.flight.length ∧ (∀ g ∈ t.flight, g ∈ s.flight) ∧
        (∀ g ∈ s.flight, g ∉ t.flight → g = f ∨ g.core = f.core ∧ g.word = f.word) ∧
        (∀ j, j < 8 → f.mask.getLsbD j = true → t.plain f.key (8 * f.word + j) = f.data.extractLsb' (8 * j) 8) ∧
        t.harts = s.harts ∧ t.rows = s.rows ∧ t.cores = s.cores) ∧
    ((s.hart h).draining = [] → exec (.stripDrain h) s = .next s) ∧
    (∀ g w, (s.hart h).draining = [g] → (s.hart h).sideLog = [] → s.lineOwners = [] → s.rowOwners = [] →
      let rest := { g with mask := g.mask &&& ~~~g.firstByte }
      (s.modHart h fun t => { t with draining := if rest.mask = 0 then [] else [rest] }).drainGranule h
        { g with mask := g.mask &&& g.firstByte } = .ok () w → exec (.stripDrain h) s = .next w) ∧
    (∀ (g : Granule) (i : Nat), i < 64 → g.mask.extractLsb' (2 * i) 2 ≠ 0 → (∀ j, j < i → g.mask.extractLsb' (2 * j) 2 = 0) →
      g.firstByte = (3 : BitVec 128) <<< (2 * i))

/-- The circular buffer words complete: a taking word gives the address of the next slot, moves the index and the counts and
acquires at core scope, or waits for its slots, a returning word releases and returns the oldest slot taken, CBSTAT reads the counts and indices, and
CBDEF defines an empty buffer; a buffer that is not defined raises BOUNDS, another context's PROT, a count of 0 or above SLOTS
BOUNDS, and a return with no slot taken BOUNDS (R246, R247). -/
def Sys2Proof.Parts.BufferWordsTakeAndReturnSlots : Prop :=
  ∀ (s : State) (h : HartKey) (c : BitVec 4), s.cur = .hart h →
    let u := s.due
    let core := coreOfHart h
    let number : Dword := c.setWidth 64
    let takes := fun (i : Instr) (d : Reg) (n : Nat) (b : CircBuf) (count index : Nat) (b' : CircBuf) =>
      1 ≤ n → n ≤ b.slots →
      (count < n → exec i s = .next u) ∧
      (n ≤ count → exec i s = .next (Claims.acquired ((u.setBuffer core c b').resultAt d
        (b.base + BitVec.ofNat 64 (index * b.slotSize)) (s.now + 4)) 1).retired)
    (∀ i, (i = .cbput c ∨ i = .cbrel c ∨ ∃ d, i = .cbget d c ∨ i = .cbpop d c ∨ i = .cbstat d c ∨
        ∃ n, i = .cbgetn d c n ∨ i = .cbpopn d c n) → s.Ready i →
      (u.buffer core c = none → exec i s = .next (u.trapped 0x08 number)) ∧
      (∀ b, u.buffer core c = some b → b.ctx ≠ (s.hart h).ctx → exec i s = .next (u.trapped 0x07 number))) ∧
    (∀ b, u.buffer core c = some b → b.ctx = (s.hart h).ctx →
      let got := fun n => { b with free := b.free - n, hp := b.hp + n, pidx := (b.pidx + n) % b.slots }
      let popped := fun n => { b with filled := b.filled - n, hc := b.hc + n, cidx := (b.cidx + n) % b.slots }
      (∀ d, s.Ready (.cbget d c) → takes (.cbget d c) d 1 b b.free b.pidx (got 1)) ∧
      (∀ d, s.Ready (.cbpop d c) → takes (.cbpop d c) d 1 b b.filled b.cidx (popped 1)) ∧
      (∀ d x, s.Ready (.cbgetn d c x) → takes (.cbgetn d c x) d (u.rx x).toNat b b.free b.pidx (got (u.rx x).toNat) ∧
        ((u.rx x).toNat = 0 ∨ b.slots < (u.rx x).toNat → exec (.cbgetn d c x) s = .next (u.trapped 0x08 (u.rx x)))) ∧
      (∀ d x, s.Ready (.cbpopn d c x) → takes (.cbpopn d c x) d (u.rx x).toNat b b.filled b.cidx (popped (u.rx x).toNat) ∧
        ((u.rx x).toNat = 0 ∨ b.slots < (u.rx x).toNat → exec (.cbpopn d c x) s = .next (u.trapped 0x08 (u.rx x)))) ∧
      (s.Ready (.cbput c) → (b.hp = 0 → exec (.cbput c) s = .next (u.trapped 0x08 number)) ∧
        ∀ w, 0 < b.hp → u.release h 1 (u.hart h).serial = .ok () w →
          exec (.cbput c) s = .next (w.setBuffer core c { b with hp := b.hp - 1, filled := b.filled + 1 }).retired) ∧
      (s.Ready (.cbrel c) → (b.hc = 0 → exec (.cbrel c) s = .next (u.trapped 0x08 number)) ∧
        ∀ w, 0 < b.hc → u.release h 1 (u.hart h).serial = .ok () w →
          exec (.cbrel c) s = .next (w.setBuffer core c { b with hc := b.hc - 1, free := b.free + 1 }).retired) ∧
      (∀ d, s.Ready (.cbstat d c) → b.free < 2 ^ 11 → b.filled < 2 ^ 11 →
        exec (.cbstat d c) s = .next (u.resultAt d
          (BitVec.ofNat 64 (b.free + 2 ^ 16 * b.filled + 2 ^ 32 * b.pidx + 2 ^ 48 * b.cidx + 2 ^ 63)) (s.now + 4)).retired)) ∧
    (∀ x bs w, s.Ready (.cbdef c x) → let va := u.firstX x
      va.toNat + 16 ≤ 2 ^ 52 → u.readsWhole va = true → u.loadRecord va 16 = .ok bs w → bs.length = 16 →
      let base := BitVec.ofNat 64 (Claims.fieldAt bs 0 8)
      let size := Claims.fieldAt bs 8 4
      let slots := Claims.fieldAt bs 12 2
      let fine := base.toNat % 64 = 0 ∧ size % 64 = 0 ∧ 64 ≤ size ∧ size ≤ 2 ^ 20 ∧ 1 ≤ slots ∧ slots ≤ 1024 ∧
        Claims.fieldAt bs 14 2 = 0 ∧ (w.hartReach h .vector).check .load base (size * slots) = none
      (¬ fine → exec (.cbdef c x) s = .next (w.trapped 0x08 va)) ∧
      (fine → (∀ q ∈ (u.core core).chains.toList, ∀ k ∈ q.cmds, k.stage = .done ∨ ∀ x, k.cbSlot = some x → x.1 ≠ c.toNat) →
        exec (.cbdef c x) s = .next ((w.setBuffer core c
          { base := base, slotSize := size, slots := slots, ctx := (w.hart h).ctx, free := slots, filled := 0 }).delay
          (u.recordDue va)).retired))

/-- ACQ, REL and FENCE complete: each retires and leaves an ordering point over every stream, with its scope as a release, an
acquire, or both, and FENCE lets the next taken transfer end old words of fetch; STRIP opens a strip, SABORT drops it, SCOMMIT
closes it and lets its granules drain, and the second STRIP, or SABORT or SCOMMIT with none open, raises STRIPF with 1 or 2; a
strip that fails its check is discarded whole with STRIPF 0, its base in sbase, and a STRIPD event (R245, R248 to R250, 11
R272). An ordering point moves on once its time has come and the accesses it waits for are performed: its release is made at its
scope, and then it is gone, or, with an acquire, settled; 16 cycles later from scope c on its acquire drops what the L1 does not
own, and it is gone; one of an ARRIVE stays, settled, for its count (R245, 08 R191, 11 R259, R272). The circular buffer words
complete: a taking word gives the address of the next slot, moves the index and the counts and acquires at core scope, or waits
for its slots, a returning word releases and returns the oldest slot taken, CBSTAT reads the counts and indices, and CBDEF
defines an empty buffer; a buffer that is not defined raises BOUNDS, another context's PROT, a count of 0 or above SLOTS BOUNDS,
and a return with no slot taken BOUNDS (R246, R247). The order of a strip's commit is log 22, and the rows of A-space that CBDEF
takes are log 26: the model's choices. -/
def Obligations.BuffersFencesAndStripsTakeEffect : Prop := Parts.FencesAndStripsTakeEffect ∧ Parts.OrderingPointsMove ∧ Parts.BufferWordsTakeAndReturnSlots

/-! ## Chapters 01, 04, 08 and 12: control registers, system words, teams, chains -/

namespace Sys2Proof.Claims

/-- The bits of a hart's control register that a write changes; bit 0 of preds is hard-wired (R17, R21). -/
def writableBits (n : Nat) : Dword :=
  match n with
  | 0x005 => 0x3FFF
  | 0x008 => 7
  | 0x009 => 0x7F
  | 0x00A => 0xFE
  | 0x018 => ~~~3
  | 0x01D => 0x7FF
  | 0x01F => 1
  | 0x030 => 1
  | 0x00C | 0x00D | 0x00E | 0x019 | 0x01A | 0x01B | 0x01E | 0x020 | 0x031 => BitVec.allOnes 64
  | _ => 0

/-- A CSR word: its destination, its register number, and the value that it writes, if it writes (R112). -/
def csrOp (i : Instr) (s : State) (old : Dword) : Option (Reg × BitVec 11 × Option Dword) :=
  match i with
  | .csrr d c => some (d, c, none)
  | .csrw d a c => some (d, c, some (s.rx a))
  | .csrs d a c => some (d, c, if a = 0 then none else some (old ||| s.rx a))
  | .csrc d a c => some (d, c, if a = 0 then none else some (old &&& ~~~s.rx a))
  | _ => none

/-- A word that arrives at the rendezvous of its team: the kind of the phase, what it supplies, and whether it waits for the
phase (R191, R195). -/
def arrivalOf (i : Instr) (s : State) : Option (Nat × Dword × Dword × Bool) :=
  let tree := fun (fn field : Nat) => 1 + 32 * fn + field
  match i with
  | .arrive => some (0, 0, 0, false)
  | .bar => some (0, 0, 0, true)
  | .xredadd _ a => some (tree 0 0, s.rx a, 0, true)
  | .xredmax _ a u => some (tree 1 u.toNat, s.rx a, 0, true)
  | .xredmin _ a u => some (tree 2 u.toNat, s.rx a, 0, true)
  | .xscanadd _ a => some (tree 3 0, s.rx a, 0, true)
  | .xbcast _ a b => some (tree 4 0, s.rx a, s.rx b, true)
  | .xredfadd _ a f => some (tree 5 f.toNat, s.rx a, s.self.csr.rmode.setWidth 64, true)
  | _ => none

/-- A sequence number that lies at or before another in serial order (R273). -/
def reached (a b : BitVec 32) : Bool := decide ((b - a).toNat < 2 ^ 31)

end Sys2Proof.Claims

/-- The CSR words complete: xd receives the old value with latency 2, CSRW writes x[xa], CSRS and CSRC set and clear its bits,
and write nothing for x0; in a hart a number from 0x100 on raises PRIV, and a number that names no register, an rmode above 4,
or an array count code of 3 in clctl, ILL (R112, R113, R22). -/
def Sys2Proof.Parts.CsrWordsReadAndWrite : Prop :=
  ∀ (i : Instr) (s : State) (d : Reg) (c : BitVec 11) (old : Dword) (new : Option Dword),
    Claims.csrOp i s.due old = some (d, c, new) → s.Ready i →
    let n := c.toNat
    (∀ h, s.cur = .hart h →
      (0x100 ≤ n → exec i s = .next (s.due.trapped 0x02 (s.ir.setWidth 64))) ∧
      (n < 0x100 → s.due.csrRead h n = none → exec i s = .next (s.due.trapped 0x01 (s.ir.setWidth 64))) ∧
      (n < 0x100 → s.due.csrRead h n = some old → new = none → exec i s = .next (s.due.result d old 2).retired) ∧
      (∀ v, n < 0x100 → s.due.csrRead h n = some old → new = some v →
        (n = 0x008 → 4 < v.toNat → exec i s = .next (s.due.trapped 0x01 (s.ir.setWidth 64))) ∧
        (n ≠ 0x008 ∨ v.toNat ≤ 4 →
          exec i s = .next ((s.due.modHart h fun t => t.csrWrite n v).result d old 2).retired))) ∧
    (∀ k, s.cur = .steward k →
      (s.due.stewardCsrRead k n = none → exec i s = .next (s.due.trapped 0x01 (s.ir.setWidth 64))) ∧
      (s.due.stewardCsrRead k n = some old → new = none → exec i s = .next (s.due.result d old 2).retired) ∧
      (∀ v, s.due.stewardCsrRead k n = some old → new = some v →
        let three := n = 0x10B ∧ ∃ j, j < 8 ∧ v.toNat / 2 ^ (8 * j) % 4 = 3
        (three → exec i s = .next (s.due.trapped 0x01 (s.ir.setWidth 64))) ∧
        (¬ three → exec i s = .next ((s.due.stewardCsrWrite k n v).result d old 2).retired)))

/-- A write of a hart's control register changes exactly its writable bits, and every other register keeps its value, but for
vlmax, which follows rowbase; tvec's reserved bits read zero; nothing outside the hart changes (R21, R22, R24, R26). -/
def Sys2Proof.Parts.CsrWritesReadBack : Prop :=
  ∀ (s : State) (h : HartKey) (n m : Nat) (v old : Dword), s.csrRead h n = some old → (n = 0x008 → v.toNat ≤ 4) →
    (n = 0x018 → old &&& 3 = 0) →
    let t := s.modHart h fun t => t.csrWrite n v
    t.csrRead h n = some ((old &&& ~~~Claims.writableBits n) ||| (v &&& Claims.writableBits n)) ∧
    (m ≠ n → ¬ (n = 0x005 ∧ m = 0x006) → t.csrRead h m = s.csrRead h m) ∧
    (n = 0x005 → t.csrRead h 0x006 = some (16384 - v % 16384)) ∧
    { t with harts := s.harts } = s ∧ (∀ g, g ≠ h → t.hart g = s.hart g)

/-- The CSR words complete: xd receives the old value with latency 2, CSRW writes x[xa], CSRS and CSRC set and clear its bits,
and write nothing for x0; in a hart a number from 0x100 on raises PRIV, and a number that names no register, an rmode above 4,
or an array count code of 3 in clctl, ILL (R112, R113, R22). A write of a hart's control register changes exactly its writable
bits, and every other register keeps its value, but for vlmax, which follows rowbase; tvec's reserved bits read zero; nothing
outside the hart changes (R21, R22, R24, R26). ILL for a steward's CSR number is the model's reading (log 24). -/
def Obligations.CsrWordsReadWriteAndReadBack : Prop := Parts.CsrWordsReadAndWrite ∧ Parts.CsrWritesReadBack

/-- WFE completes at once where the latch holds an event, and clears it; else the hart waits, and WFE_TIMEOUT completes the word
65,536 cycles after its issue, or once the latch of a hart that runs again holds an event, and not before; YIELD bars its hart
for one selection; EXIT ends its hart after its release, and raises STRIPF with 3 inside a strip; SNAPT triggers the snapshot,
which latches while armed, with cause 1 and its core, and changes no register; a steward's WFE holds its next word back for the
limit (R117 to R119, R251, R428). That a steward's WFE lets its limit pass is the model's reading (log 24). -/
def Obligations.SystemWordsTakeEffect : Prop :=
  ∀ (s : State) (h : HartKey), s.cur = .hart h →
    let u := s.due
    (s.Ready .wfe →
      ((u.hart h).eventLatch = true → exec .wfe s = .next (u.modHart h fun t => { t with eventLatch := false }).retired) ∧
      ((u.hart h).eventLatch = false →
        exec .wfe s = .next (u.modHart h fun t =>
          { t with wait := .wfe s.now, waitWord := s.ir, waitFrom := if t.wait = .none then s.now else t.waitFrom }))) ∧
    (∀ g, (s.hart g).runs = false ∨
        (∀ since, (s.hart g).wait = .wfe since → (s.hart g).eventLatch = false ∧ s.now < since + 65536) → exec (.wfeTimeout g) s = .next s) ∧
    (∀ g since, (s.hart g).runs = true → (s.hart g).wait = .wfe since → (s.hart g).eventLatch = true ∨ since + 65536 ≤ s.now →
      ∃ t, exec (.wfeTimeout g) s = .next t ∧ (t.hart g).wait = .none ∧ (t.hart g).eventLatch = false ∧
        (t.hart g).sc.pc = (loopEnd (s.hart g).sc.loops (s.hart g).sc.pc).2 ∧ (t.hart g).sc.instret = (s.hart g).sc.instret + 1 ∧
        t.cur = s.cur ∧ t.ir = s.ir ∧ (∀ k, k ≠ g → t.hart k = s.hart k)) ∧
    (s.Ready .yield → exec .yield s = .next ((u.modHart h fun t => { t with barred := true }).modCluster (clusterOfHart h) fun c =>
      if c.current = some (slotOfHart h) then { c with current := none } else c).retired) ∧
    (s.Ready .exit →
      ((u.hart h).strip ≠ none → exec .exit s = .next (u.trapped 0x0D 3)) ∧
      (∀ w, (u.hart h).strip = none → u.release h 3 (u.hart h).serial = .ok () w →
        exec .exit s = .next (w.endHart h false) ∧ (w.endHart h false).resident h = false)) ∧
    (s.Ready .snapt → ∃ w : State, exec .snapt s = .next w.retired ∧ w.harts = u.harts ∧ w.mem = s.mem ∧ w.clusters = s.clusters ∧
      (s.snapshot.armed = true → w.snapshot.armed = false ∧ w.snapshot.cause = 1 ∧ w.snapshot.source = coreOfHart h ∧
        w.snapshot.time = BitVec.ofNat 64 s.devTime) ∧
      (s.snapshot.armed = false → w.snapshot = { s.snapshot with missed := s.snapshot.missed + 1 })) ∧
    (∀ (v : State) (c : CoreId), v.cur = .steward c → v.Ready .wfe → exec .wfe v = .next (v.due.delay (v.now + 65536)).retired)

/-- A word arrives at the rendezvous of its team from the state w that its release leaves: it is counted with what it supplies, or breaks
a phase of another kind with code 2; the last one completes the phase; BAR and the XTREE words wait, ARRIVE retires (R191, R194). -/
def Sys2Proof.Claims.Arrives (i : Instr) (h : HartKey) (kind : Nat) (value extra : Dword) (waits : Bool) (s w : State) : Prop :=
  let n := (w.hart h).launch
  let m := (w.hart h).team
  ∀ v, w.cur = .hart h → w.team? n m = some v →
    (0 < v.arrived → v.kind ≠ kind → exec i s = .next ((w.breakPhase n m 2).trapped 0x0E 2)) ∧
    (v.arrived = 0 ∨ v.kind = kind →
      let place := fun (v : Team) => ({ v with kind := kind, arrived := v.arrived + 1,
                                               supplied := v.supplied ++ [((w.hart h).csr.hid, value, extra)] } : Team)
      let y := (w.modTeam n m place).modHart h fun t => { t with pend := true, pt := v.ph }
      let z := if waits then y.modHart h fun t =>
          { t with wait := .arrived, waitWord := w.ir, waitFrom := if t.wait = .none then w.now else t.waitFrom } else y
      let done := if v.live ≤ v.arrived + 1 then z.completePhase n m else z
      exec i s = .next (if waits then done else done.retired))

/-- The team words complete: FARM declares an undeclared slot and leaves a declared one, FNEXT draws strips until the total is
reached and then reads -1, or -2 from an undeclared slot; an arrival is counted with what it supplies, the last one completes
the phase, BAR and the XTREE words wait for it, ARRIVE does not; a word that finds another kind in the phase breaks it with code 2;
until its release is made a word that waits for the phase waits with what it has read, and an ARRIVE retires and counts once its release is
made; while the hart's last phase is open a word does not arrive; a phase that
broke raises BARBRK at the next rendezvous word; a waiting word goes on with the outcome of its phase, which it acquires; AWAIT passes
where nothing is pending or the phase is over, which it acquires, and else waits (R188 to R196). -/
def Sys2Proof.Parts.TeamWordsDrawAndMeet : Prop :=
  ∀ (s : State) (h : HartKey), s.cur = .hart h →
    let u := s.due
    let t := u.hart h
    (∀ f a b l, s.Ready (.farm f a b) → u.launches.get? t.launch = some l →
      (u.rx b = 0 → exec (.farm f a b) s = .next (u.trapped 0x08 0)) ∧
      (u.rx b ≠ 0 → ∃ w : State, exec (.farm f a b) s = .next (State.retired w) ∧ w.launches.get? t.launch = some
        (if l.farm.get? f.toNat = none then { l with farm := l.farm.put f.toNat { total := u.rx a, size := u.rx b, next := 0 } } else l) ∧
        { w with launches := u.launches } = u)) ∧
    (∀ d f l, s.Ready (.fnext d f) → u.launches.get? t.launch = some l →
      ∃ ready, s.now + 60 ≤ ready ∧
      (l.farm.get? f.toNat = none → exec (.fnext d f) s = .next (u.resultAt d (-2) ready).retired) ∧
      (∀ q, l.farm.get? f.toNat = some q → q.total ≤ q.next → ∃ w : State, exec (.fnext d f) s = .next (w.resultAt d (-1) ready).retired ∧
        w.launches.get? t.launch = some { l with farm := l.farm.put f.toNat q }) ∧
      (∀ q, l.farm.get? f.toNat = some q → q.next < q.total →
        let drawn : FarmSlot := { q with next := BitVec.ofNat 64 (min (q.next.toNat + q.size.toNat) q.total.toNat) }
        ∃ w : State, exec (.fnext d f) s = .next (w.resultAt d q.next ready).retired ∧
          w.launches.get? t.launch = some { l with farm := l.farm.put f.toNat drawn })) ∧
    (∀ i kind value extra waits, Claims.arrivalOf i u = some (kind, value, extra, waits) → s.Ready i → t.wait = .none →
      let open_ := t.pend = true ∧ ∃ v, u.team? t.launch t.team = some v ∧ v.ph ≤ t.pt
      let first := (u.modHart h fun t => { t with pend := false }).release h 1 t.serial
      (∀ code, t.broken = some code → exec i s =
        .next ((u.modHart h fun t => { t with broken := none, pend := false }).trapped 0x0E (BitVec.ofNat 64 code))) ∧
      (t.broken = none → open_ → exec i s = .next u) ∧
      (t.broken = none → ¬ open_ → first = .wait → exec i s = .next (if waits
        then u.modHart h fun t => { t with wait := .releasing value extra, waitWord := s.ir, waitFrom := s.now }
        else (u.modHart h fun t => { t with
          pend := false
          orders := t.orders ++ [{ streams := 511, loads := false, release := some 1, acquire := none, ready := s.now,
                                   owner := t.serial, arrives := true }] }).retired)) ∧
      (∀ w, t.broken = none → ¬ open_ → first = .ok () w → Claims.Arrives i h kind value extra waits s w)) ∧
    (∀ i kind value extra waits v e, Claims.arrivalOf i u = some (kind, value, extra, waits) → s.Ready i → t.wait = .releasing v e →
      ∀ w, (u.modHart h fun t => { t with pend := false }).release h 1 t.serial = .ok () w → Claims.Arrives i h kind v e waits s w) ∧
    (∀ i kind, (∃ value extra waits, Claims.arrivalOf i u = some (kind, value, extra, waits)) ∨ i = .await ∧ kind = 0 → s.Ready i →
      t.wait = .arrived →
      (∀ code, t.broken = some code → exec i s =
        .next ((u.modHart h fun t => { t with broken := none, pend := false }).trapped 0x0E (BitVec.ofNat 64 code))) ∧
      (t.broken = none → t.outcome = none → exec i s = .next u) ∧
      (∀ value flags parts, t.broken = none → t.outcome = some (value, flags, parts) →
        let y := Claims.acquired (u.modHart h fun t => { t with pend := false, outcome := none }) 1
        let ready := s.now + 8 + (if (kind - 1) / 32 = 5 then 6 else 2) * Nat.clog 2 parts
        exec i s = .next (if kind = 0 then y.delay (s.now + 6)
          else ((y.resultAt (s.ir.extractLsb' 21 5) value ready).raise flags).delay ready).retired)) ∧
    (∀ p v, (s.hart h).orders.find? (fun p => p.arrives && p.settled) = some p →
      let n := (s.hart h).launch
      let m := (s.hart h).team
      let y := s.modHart h fun t => { t with orders := t.orders.filter fun o => decide (o.owner ≠ p.owner) }
      y.team? n m = some v →
      (0 < v.arrived → v.kind ≠ 0 → s.arrivalStep h =
        some ((y.breakPhase n m 2).modHart h fun t => { t with pend := true, broken := some 2 })) ∧
      (v.arrived = 0 ∨ v.kind = 0 →
        let place := fun (v : Team) => ({ v with kind := 0, arrived := v.arrived + 1,
                                                 supplied := v.supplied ++ [((s.hart h).csr.hid, 0, 0)] } : Team)
        let z := (y.modTeam n m place).modHart h fun t => { t with pend := true, pt := v.ph }
        s.arrivalStep h = some (if v.live ≤ v.arrived + 1 then z.completePhase n m else z))) ∧
    (s.Ready .await → t.wait = .none →
      (∀ code, t.broken = some code → exec .await s =
        .next ((u.modHart h fun t => { t with broken := none, pend := false }).trapped 0x0E (BitVec.ofNat 64 code))) ∧
      (t.broken = none → t.pend = false → exec .await s = .next u.retired) ∧
      (∀ v, t.broken = none → t.pend = true → u.team? t.launch t.team = some v → t.pt < v.ph →
        exec .await s = .next (Claims.acquired (u.modHart h fun t => { t with pend := false }) 1).retired) ∧
      (∀ v, t.broken = none → t.pend = true → u.team? t.launch t.team = some v → v.ph ≤ t.pt →
        exec .await s = .next (u.modHart h fun t => { t with wait := .arrived, waitWord := s.ir, waitFrom := s.now })))

/-- What the collectives give each participant, whatever the order of arrival: XREDADD the sum modulo 2^64 of the values,
XSCANADD the sum over the participants of no greater number, XREDMAX and XREDMIN the greatest and the least value, XBCAST the
value of the root that all name, and XREDFADD of one participant its value rounded, so that a NaN is canonical (R195, R196, 02 R68). -/
def Sys2Proof.Parts.CollectivesCombineTheValues : Prop :=
  ∀ (l : List (Nat × Dword × Dword)) (p : Nat × Dword × Dword), (l.map Prod.fst).Nodup → p ∈ l →
    let got := fun (kind : Nat) => ((treeResults kind l).1.find? fun q => q.1 = p.1).map Prod.snd
    got (1 + 32 * 0) = some (BitVec.ofNat 64 ((l.map fun q => q.2.1.toNat).sum)) ∧
    got (1 + 32 * 3) = some (BitVec.ofNat 64 (((l.filter fun q => decide (q.1 ≤ p.1)).map fun q => q.2.1.toNat).sum)) ∧
    (∃ v, got (1 + 32 * 1) = some v ∧ (∃ q ∈ l, q.2.1 = v) ∧ ∀ q ∈ l, q.2.1.toInt ≤ v.toInt) ∧
    (∃ v, got (1 + 32 * 1 + 1) = some v ∧ (∃ q ∈ l, q.2.1 = v) ∧ ∀ q ∈ l, q.2.1.toNat ≤ v.toNat) ∧
    (∃ v, got (1 + 32 * 2) = some v ∧ (∃ q ∈ l, q.2.1 = v) ∧ ∀ q ∈ l, v.toInt ≤ q.2.1.toInt) ∧
    (∃ v, got (1 + 32 * 2 + 1) = some v ∧ (∃ q ∈ l, q.2.1 = v) ∧ ∀ q ∈ l, v.toNat ≤ q.2.1.toNat) ∧
    (∀ r ∈ l, r.1 < 2 ^ 64 → (∀ q ∈ l, q.1 < 2 ^ 64 ∧ q.2.2 = BitVec.ofNat 64 r.1) → got (1 + 32 * 4) = some r.2.1) ∧
    (l = [p] → got (1 + 32 * 5) =
      some (BitVec.ofNat 64 (fmtF32.round p.2.2.toNat (fmtF32.decode (p.2.1.toNat % 2 ^ 32))).1))

/-- The team words complete: FARM declares an undeclared slot and leaves a declared one, FNEXT draws strips until the total is
reached and then reads -1, or -2 from an undeclared slot; an arrival is counted with what it supplies, the last one completes
the phase, BAR and the XTREE words wait for it, ARRIVE does not; a word that finds another kind in the phase breaks it with code
2; until its release is made a word that waits for the phase waits with what it has read, and an ARRIVE retires and counts once
its release is made; while the hart's last phase is open a word does not arrive; a phase that broke raises BARBRK at the next
rendezvous word; a waiting word goes on with the outcome of its phase, which it acquires; AWAIT passes where nothing is pending
or the phase is over, which it acquires, and else waits (R188 to R196). What the collectives give each participant, whatever the
order of arrival: XREDADD the sum modulo 2^64 of the values, XSCANADD the sum over the participants of no greater number,
XREDMAX and XREDMIN the greatest and the least value, XBCAST the value of the root that all name, and XREDFADD of one
participant its value rounded, so that a NaN is canonical (R195, R196, 02 R68). That FARM and FNEXT act at their issue is the
model's reading (log 34). -/
def Obligations.TeamWordsMeetAndCombine : Prop := Parts.TeamWordsDrawAndMeet ∧ Parts.CollectivesCombineTheValues

/-- The CQ words complete, in a hart on its core's chains and in a steward on its system chain: CQAPP reads its list, stores its
sequence numbers and appends its commands, or waits while the chain has no room; CQGO hands the batch to the engine, a hart's
after a release at device scope; CQWAIT passes when its number is done, with an acquire, and else waits; CQDONE and CQSTAT read
the chain; in a hart a chain of 16 or more raises ILL; a chain that is not bound to the agent's context raises PROT, a number
not yet appended BOUNDS in CQWAIT and reads -1 in CQDONE (R278 to R283). A steward's CQ words are the model's reading (log 24),
as is the order of an append's checks (log 28). -/
def Obligations.ChainWordsAppendAndAnswer : Prop :=
  ∀ (s : State) (c : Reg) (n : Fin 17), n.val = c.toNat →
    let u := s.due
    let core := u.cur.core
    let q := u.chain core n
    let who : Option (Nat × Nat) × Option HartKey × BitVec 3 := match u.cur with
      | .hart h => (some ((u.hart h).launch, (u.hart h).team), some h, (u.hart h).csr.rmode)
      | .steward _ => (none, none, 0)
    let words := fun (i : Instr) =>
      i = .cqgo c ∨ (∃ d, i = .cqstat d c) ∨ (∃ b, i = .cqwait c b) ∨ (∃ d b, i = .cqapp d c b ∨ i = .cqdone d c b)
    (∀ i, words i → s.cur.isHart = true → 16 ≤ c.toNat → exec i s = .next (u.trapped 0x01 (s.ir.setWidth 64))) ∧
    (∀ i, words i → s.Ready i → q.ctx ≠ some u.myCtx → exec i s = .next (u.trapped 0x07 (c.setWidth 64))) ∧
    (q.ctx = some u.myCtx →
      (∀ d b list w, s.Ready (.cqapp d c b) → u.readsWhole (u.firstX b) = true →
        readList State.loadRecord 257 u (u.firstX b) [] = .ok list w →
        let p := w.chain core n
        let ks := cmdsOf who.2.2 who.1 who.2.1 (p.appSeq + 1) false list
        let puts := (list.zip ks).flatMap fun p => p.1.stores p.2
        (4096 < p.pend + list.length → exec (.cqapp d c b) s = .next u) ∧
        (∀ y z, p.pend + list.length ≤ 4096 → w.storesMiss u.myReach puts = (none, y) → y.storeAll puts = .ok () z →
          exec (.cqapp d c b) s = .next ((z.modChain core n fun q => q.append ks).resultAt d
            ((p.appSeq + BitVec.ofNat 32 ks.length).setWidth 64) (u.issueCycle + 20 + 4 * ks.length)).retired)) ∧
      (∀ w, s.Ready (.cqgo c) → (match u.cur with
          | .hart h => u.release h 3 (u.hart h).serial
          | .steward _ => .ok () u) = .ok () w → w.cur = u.cur →
        exec (.cqgo c) s = .next (w.modChain core n fun q => q.handOver (w.now + 30)).retired) ∧
      (∀ b, s.Ready (.cqwait c b) →
        let t : BitVec 32 := (u.rx b).setWidth 32
        let beyond := t ≠ q.appSeq ∧ Claims.reached q.appSeq t = true
        (beyond → exec (.cqwait c b) s = .next (u.trapped 0x08 (u.rx b))) ∧
        (¬ beyond → Claims.reached t q.doneSeq = true → exec (.cqwait c b) s = .next (Claims.acquired u 3).retired) ∧
        (¬ beyond → Claims.reached t q.doneSeq = false → exec (.cqwait c b) s = .next u)) ∧
      (∀ d b, s.Ready (.cqdone d c b) →
        let t : BitVec 32 := (u.rx b).setWidth 32
        let done := Claims.reached t q.doneSeq = true ∨
          (t = q.appSeq ∨ Claims.reached q.appSeq t = false) ∧ ∃ k ∈ q.cmds, k.seq = t ∧ k.stage = .done
        let beyond := Claims.reached t q.doneSeq = false ∧ t ≠ q.appSeq ∧ Claims.reached q.appSeq t = true
        (done → exec (.cqdone d c b) s = .next ((Claims.acquired u 3).resultAt d 1 (s.now + 6)).retired) ∧
        (beyond → exec (.cqdone d c b) s = .next (u.resultAt d (-1) (s.now + 6)).retired) ∧
        (¬ done → ¬ beyond → exec (.cqdone d c b) s = .next (u.resultAt d 0 (s.now + 6)).retired)) ∧
      (∀ d, s.Ready (.cqstat d c) → ∃ v : Dword, exec (.cqstat d c) s = .next (u.resultAt d v (s.now + 6)).retired ∧
        (q.cmds.length < 2 ^ 13 → v.setWidth 32 = q.doneSeq ∧ (v.extractLsb' 32 13).toNat = q.pend ∧
          v.getLsbD 45 = (q.cmds.any fun k => k.stage.isParked) ∧ v.getLsbD 46 = q.err ∧
          v.getLsbD 47 = q.cmds.any fun k => decide (k.stage = .batch))))

/-! ## Chapters 13 and 14: the matrix engine, its licence, drain programs -/

/-- The matrix words complete: MLDB and MMA that pass their checks join the end of the matrix queue with what they capture at
issue, and wait while it holds eight entries, an MMA, before it is eligible, also while a DPLOAD of the hart to its slot has no result
(14 R318); a check that fails raises its trap, a row count above 256 BOUNDS, and a count of
0 only retires; MWAIT waits for the hart's entries, then raises the hart's pending matrix error, or retires as an acquire at
core scope (R299, R300, R302, R305). -/
def Obligations.MatrixWordsQueueTheirEntries : Prop :=
  ∀ (s : State) (h : HartKey), s.cur = .hart h →
    let u := s.due
    let t := u.hart h
    let core := coreOfHart h
    let q := (u.core core).queue
    let r := u.matrixSelf
    let window := u.teamWindow t.launch t.team
    (∀ k a b, s.Ready (.mldb k a b) →
      let f := u.rx b
      (f.toNat / 64 ≠ 0 ∨ pairListed (f.setWidth 3) (f.extractLsb' 3 3) = false → exec (.mldb k a b) s = .next (u.trapped 0x08 f)) ∧
      (∀ e, mldbFault r (u.rx a) f = some e → exec (.mldb k a b) s = .next (u.trapped e.1 e.2)) ∧
      (mldbFault r (u.rx a) f = none → 8 ≤ q.length → exec (.mldb k a b) s = .next u) ∧
      (mldbFault r (u.rx a) f = none → q.length < 8 → ∃ e : MatEntry,
        exec (.mldb k a b) s = .next (u.modCore core fun v => { v with queue := v.queue ++ [e] }).retired ∧
        e.load = true ∧ e.ctx = t.ctx ∧ e.source = .hart h ∧ e.latch = k.toNat ∧ e.addr = u.rx a ∧ e.bType = f.setWidth 3 ∧
        e.aType = f.extractLsb' 3 3 ∧ e.window = window ∧ e.started = false ∧ e.rowsDone = 0 ∧ e.image = [] ∧
        e.ready = s.now + 4)) ∧
    (∀ k a c n p m f, s.Ready (.mma k a c n p m f) →
      let i := Instr.mma k a c n p m f
      let loading := ∃ l ∈ t.slotLoads, l.slot = p.toNat ∧ (l.program ≠ none ∨ s.now < l.ready)
      let rows := (u.rx n).toNat
      let fault := u.mmaFault core r k.toNat p.toNat (u.rx a) (u.rx c) rows
      ¬ loading ∧
      (rows = 0 → exec i s = .next u.retired) ∧
      (256 < rows → exec i s = .next (u.trapped 0x08 (u.rx n))) ∧
      (∀ e, 1 ≤ rows → rows ≤ 256 → fault = some e → exec i s = .next (u.trapped e.1 e.2.1)) ∧
      (1 ≤ rows → rows ≤ 256 → fault = none → 8 ≤ q.length → exec i s = .next u) ∧
      (1 ≤ rows → rows ≤ 256 → fault = none → q.length < 8 → ∃ e : MatEntry,
        exec i s = .next (u.modCore core fun v => { v with queue := v.queue ++ [e] }).retired ∧
        e.load = false ∧ e.ctx = t.ctx ∧ e.source = .hart h ∧ e.latch = k.toNat ∧ e.addr = u.rx a ∧ e.m = rows ∧
        e.cAddr = (u.rx c).toNat % 2 ^ 60 ∧ e.slot = p.toNat ∧ e.masked = (m == 1) ∧ e.acc = (f == 1) ∧
        e.outMask = t.csr.mk1 ++ t.csr.mk0 ∧ e.rm = t.csr.rmode ∧ e.migwait = t.csr.migwait.toNat ∧ e.window = window ∧
        e.rowsDone = 0 ∧ e.drained = 0 ∧ e.started = false ∧ e.migrated = none ∧ e.due = [] ∧
        some (e.bType, e.aType) = (u.core core).formats t.ctx k.toNat ∧
        some e.params = ((u.core core).drainSlot t.ctx p.toNat).map DrainSlot.params ∧ e.ready = s.now + 4)) ∧
    (∀ k a c n p m f l, l ∈ t.slotLoads → l.slot = p.toNat → (l.program ≠ none ∨ s.now < l.ready) →
      u.waits (.mma k a c n p m f) = true) ∧
    (s.Ready .mwait →
      let mine := (∃ e ∈ q ++ (u.core core).frozenMmas, e.of h t = true) ∨
        ∃ e ∈ (u.core core).drainLog, e.source = .hart h ∧ e.team = some (t.launch, t.team)
      (mine ∨ s.now < t.mwaitFrom → exec .mwait s = .next u) ∧
      (¬ mine → t.mwaitFrom ≤ s.now → t.mwaitErr = none → exec .mwait s = .next (Claims.acquired u 1).retired) ∧
      (∀ e, ¬ mine → t.mwaitFrom ≤ s.now → t.mwaitErr = some e → ∃ w : State, exec .mwait s = .next (w.trapped e.1 e.2) ∧
        (w.hart h).mwaitErr = none ∧ w.mem = s.mem ∧ w.clusters = s.clusters))

/-- The matrix engine moves the only entry of its queue. LATCH_LOAD reads the image of an MLDB in W-space in 8 cycles for each
kilobyte, or in A-space one row of 16 arrays in a cycle, in a window of the arrays, and its latch then takes the image as one
change; MMA_A_STREAM multiplies the next A row by the latch into the row's 512 bytes of C-space and leaves every other byte; work
that reads a fenced cluster ends with an error; MMA_MIGRATION sends an MMA to a neighbour, reads its rows and writes its tile when
it comes back; an empty queue moves nothing (R295, R299, R301 to R303, R310, R311, 09 R203, 17 R366). -/
def Sys2Proof.Parts.MatrixEngineMovesItsQueue : Prop :=
  ∀ (core : CoreId) (s : State),
    let v := s.core core
    let put := fun (s : State) (e : MatEntry) => s.modCore core fun v => { v with queue := [e] }
    let fenced := fun (e : MatEntry) => (s.cluster (8 * core + e.addr.toNat % 2 ^ 60 / 2 ^ 20)).fenced
    let granted := fun (e : MatEntry) (w : State) => s.window (8 * core + e.addr.toNat % 2 ^ 60 / 2 ^ 20) (Agency.unit .matrix) 1 = some w
    (v.queue = [] → exec (.latchLoad core) s = .next s ∧ exec (.mmaAStream core) s = .next s ∧
      exec (.mmaMigration core) s = .next s ∧ exec (.drainRow core) s = .next s) ∧
    (∀ e, v.queue = [e] → e.load = true →
      let rows := if e.bType = 7 then 36 else 32
      let at_ := wLoc core (e.window.1.1 + e.addr.toNat % 2 ^ 60)
      (s.now < e.ready ∨ e.started = false ∧ s.matrixRuns core e.ctx = false → exec (.latchLoad core) s = .next s) ∧
      (e.ready ≤ s.now → e.started = false → s.matrixRuns core e.ctx = true → selector e.addr = 11 → s.poisonAt at_ (1024 * rows) = none →
        exec (.latchLoad core) s = .next (put s { e with
          started := true, image := s.bytes at_ (1024 * rows), rowsDone := rows, ready := s.now + 8 * rows })) ∧
      (e.ready ≤ s.now → (e.started = true ∨ s.matrixRuns core e.ctx = true ∧ selector e.addr = 10) → e.rowsDone < rows →
        (fenced e = true → exec (.latchLoad core) s = .next ((s.entryError core e 0x0A 3 4).dropEntry core 0)) ∧
        (∀ w, fenced e = false → granted e w → w.rowPoisonAt core (e.addr.toNat % 2 ^ 60 + 64 * e.rowsDone) 64 = none →
          exec (.latchLoad core) s = .next (put w { e with
            started := true, rowsDone := e.rowsDone + 1, ready := w.now + 1
            image := e.image ++ (List.range 16).flatMap fun a =>
              w.arrayRead core (e.addr.toNat % 2 ^ 60 + 65536 * a + 64 * e.rowsDone) 64 }))) ∧
      (e.ready ≤ s.now → e.started = true → rows ≤ e.rowsDone → e.migrated = none →
        ∃ t, exec (.latchLoad core) s = .next t ∧ (t.core core).queue = [] ∧ { t with cores := s.cores } = s ∧
          (t.core core).latch (if e.latch = 0 then 0 else 1) =
            some { ctx := e.ctx, bType := e.bType, aType := e.aType, image := e.image })) ∧
    (∀ e l, v.queue = [e] → e.load = false → e.migrated = none → e.rowsDone < e.m → e.ready ≤ s.now → v.streamNext ≤ s.now →
      v.latch e.latch = some l → s.engineLent core = false → v.frozenMmas = [] → (s.licence core).holder = some (core, e.ctx) →
      ((s.licence core).releasing = false ∨ e.owed = true) → (e.started = true ∨ s.matrixRuns core e.ctx = true) →
      (fenced e = true → exec (.mmaAStream core) s = .next ((s.entryError core e 0x0A 3 4).dropEntry core 0)) ∧
      (∀ w, fenced e = false → granted e w → w.rowPoisoned core e e.rowsDone = none →
        ∃ t, exec (.mmaAStream core) s = .next t ∧
          (t.core core).queue = [{ e with started := true, rowsDone := e.rowsDone + 1, ready := s.now + 1, due := e.due ++ [s.now + 24] }] ∧
          (t.core core).streamNext = s.now + 1 ∧
          (∀ n, n < 128 → Claims.littleEndian (t.bytes (e.rowLoc core e.rowsDone + 4 * n) 4) =
            (w.productRow core e l e.rowsDone).getD n 0 % 2 ^ 32) ∧
          (∀ a, a < e.rowLoc core e.rowsDone ∨ e.rowLoc core e.rowsDone + 512 ≤ a → t.byte a = s.byte a) ∧
          { t with cores := w.cores, mem := w.mem, poison := w.poison } = w)) ∧
    (∀ e l nb, v.queue = [e] → e.load = false → v.latch e.latch = some l →
      (let fits := if e.aType = 7 then e.m ≤ 99 else e.m ≤ 128
       let size := (if e.bType = 7 then 36864 else 32768) + e.m * (if e.aType = 7 then 288 else 256) + 512 * e.m
       let free := (s.licence nb).holder = none
       e.started = false → e.migrated = none → e.migwait ≠ 0 → e.issued + e.migwait < s.now → e.acc = false → fits → l.ctx = e.ctx →
        s.slotNames core e.ctx = false → s.matrixRuns core e.ctx = true →
        (if 0 < core then [core - 1, core + 1] else [core + 1]).find? (s.takes core) = some nb →
        ∃ t, exec (.mmaMigration core) s = .next t ∧ t.mem = s.mem ∧ t.harts = s.harts ∧
          (t.core core).queue = [{ e with started := true, migrated := some nb, lent := (s.licence nb).holder.isNone,
                                          ready := s.now + size / 256 + e.m }] ∧
          (free → (t.licence nb).holder = some (nb, e.ctx)) ∧ (¬ free → t.twins = s.twins)) ∧
      (∀ w, e.migrated = some nb → e.rowsDone < e.m → fenced e = false → granted e w → w.rowPoisoned core e e.rowsDone = none →
        exec (.mmaMigration core) s = .next (put w
          { e with rowsDone := e.rowsDone + 1, tile := e.tile ++ [w.productRow core e l e.rowsDone] })) ∧
      (e.migrated = some nb → e.m ≤ e.rowsDone → e.tile.length = e.m → e.tile ≠ [] → (∀ r ∈ e.tile, r.length = 128) →
        e.ready ≤ s.now → v.frozenMmas = [] → e.lent = false →
        ∃ t, exec (.mmaMigration core) s = .next t ∧ (t.core core).queue = [{ e with tile := [] }] ∧
          (∀ j n, j < e.m → n < 128 → Claims.littleEndian (t.bytes (e.rowLoc core j + 4 * n) 4) =
            (e.tile.getD j []).getD n 0 % 2 ^ 32) ∧
          (∀ a, a < e.rowLoc core 0 ∨ e.rowLoc core e.m ≤ a → t.byte a = s.byte a) ∧
          { t with cores := s.cores, mem := s.mem, poison := s.poison } = s))

/-- DRAIN_ROW runs the next micro-word of the only MMA of a queue: a row may begin when it is accumulated and due and its context
runs; each micro-word takes a cycle, END among them; END writes the row's pending C row, and no other byte, and the row is drained; a
micro-word that fails records its kind for DPINFO, and the entry leaves the queue with the error (R312, R320, R328, R330). -/
def Sys2Proof.Parts.DrainsRunTheirPrograms : Prop :=
  ∀ (core : CoreId) (s : State) (e : MatEntry),
    let v := s.core core
    let row := v.drainRow.getD {}
    let words := ((v.drainSlot e.ctx e.slot).map DrainSlot.words).getD []
    v.queue = [e] → e.load = false → v.restart.valid = false →
    (s.now < v.drainNext ∨ v.fenced = true → exec (.drainRow core) s = .next s) ∧
    (v.drainNext ≤ s.now → v.fenced = false →
      (e.m ≤ e.drained → exec (.drainRow core) s = .next (s.dropEntry core 0)) ∧
      (e.drained < e.m → v.drainRow = none → (e.rowsDone ≤ e.drained ∨ ∃ c, e.due.head? = some c ∧ s.now < c) →
        exec (.drainRow core) s = .next s) ∧
      (∀ w, e.drained < e.m →
        (v.drainRow ≠ none ∨ e.drained < e.rowsDone ∧ e.migrated = none ∧ s.activeCtx core = some e.ctx ∧ ∀ c, e.due.head? = some c → c ≤ s.now) →
        words[row.pos]? = some w →
        let at_ := e.rowLoc core e.drained
        (microOp w = 0x17 → ∃ t, exec (.drainRow core) s = .next t ∧
          (t.core core).queue = [{ e with drained := e.drained + 1, due := e.due.tail }] ∧ (t.core core).drainRow = none ∧
          (t.core core).drainNext = s.now + 1 ∧ (∀ a, a < at_ ∨ at_ + 512 ≤ a → t.byte a = s.byte a) ∧
          (row.lanes.pending = none → t.mem = s.mem) ∧
          (∀ p, row.lanes.pending = some p → p.length = 128 → ∀ n, n < 128 →
            Claims.littleEndian (t.bytes (at_ + 4 * n) 4) = p.getD n 0 % 2 ^ 32) ∧
          (∀ h, e.source = .hart h → s.resident h = true → e.of h (s.hart h) = true → (t.hart h).mwaitFrom = s.now + 4)) ∧
        (∀ l u, microOp w ≠ 0x17 → s.microStep core e e.drained at_ row.lanes w = .done l u →
          exec (.drainRow core) s =
            .next (u.modCore core fun v => { v with drainRow := some { lanes := l, pos := row.pos + 1 }, drainNext := u.now + 1 })) ∧
        (microOp w ≠ 0x17 → s.microStep core e e.drained at_ row.lanes w = .wait → exec (.drainRow core) s = .next s) ∧
        (∀ kind status u, microOp w ≠ 0x17 → s.microStep core e e.drained at_ row.lanes w = .error kind status u →
          exec (.drainRow core) s = .next (((u.modCore core fun v =>
            { v with drainErr := v.drainErr.filter (fun x => x.1 ≠ e.ctx) ++ [(e.ctx, kind)] }).entryError core e 0x0A 3 status).dropEntry
              core 0))))

/-- The matrix engine moves the only entry of its queue. LATCH_LOAD reads the image of an MLDB in W-space in 8 cycles for each
kilobyte, or in A-space one row of 16 arrays in a cycle, in a window of the arrays, and its latch then takes the image as one
change; MMA_A_STREAM multiplies the next A row by the latch into the row's 512 bytes of C-space and leaves every other byte;
work that reads a fenced cluster ends with an error; MMA_MIGRATION sends an MMA to a neighbour, reads its rows and writes its
tile when it comes back; an empty queue moves nothing (R295, R299, R301 to R303, R310, R311, 09 R203, 17 R366). DRAIN_ROW runs
the next micro-word of the only MMA of a queue: a row may begin when it is accumulated and due and its context runs; each micro-
word takes a cycle, END among them; END writes the row's pending C row, and no other byte, and the row is drained; a micro-word
that fails records its kind for DPINFO, and the entry leaves the queue with the error (R312, R320, R328, R330). Ends at a fence,
migrated rows and poisoned rows are the model's readings (log 35), as are the pace of a drain, its C accumulation and its error
code (log 36). -/
def Obligations.MatrixEngineAndDrainMoveTheQueue : Prop := Parts.MatrixEngineMovesItsQueue ∧ Parts.DrainsRunTheirPrograms

/-- The micro-words compute lane by lane on 128 lanes, each result rounded to FP32 and a NaN canonical: LDACC and LDK load, ADD, SUB, MUL
and FMA are correctly rounded, MAX and MIN follow R66, RELU is MAX with +0, SEL and CGT select and compare, AMAX leaves the greatest magnitude of each
group of 32 lanes or of all 128, PUTC makes the row pending and changes no lane; only lane register dd, and nothing in memory, changes
(R314, R323). -/
def Sys2Proof.Parts.MicroWordsComputeTheirLanes : Prop :=
  ∀ (core : CoreId) (s : State) (e : MatEntry) (j at_ : Nat) (l : Lanes) (w : MicroWord),
    let a := l.d[w.toNat / 2 ^ 5 % 2 ^ 3]?.getD []
    let b := l.d[w.toNat % 2 ^ 3]?.getD []
    let dd := w.toNat / 2 ^ 8 % 2 ^ 3
    let old := l.d[dd]?.getD []
    let k := w.toNat % 2 ^ 5
    let rm := e.rm.toNat
    let num := fun (x : Nat) => fmtF32.decode x
    let round := fun (x : Sys2Proof.Machine.Num) => (fmtF32.round rm x).1
    let canonical := fun (x : Nat) => if (num x).isNan then 0x7FC00000 else x
    let gives := fun (f : Nat → Nat) => ∃ l', s.microStep core e j at_ l w = .done l' s ∧
      (∀ i, i < 128 → (l'.d[dd]?.getD []).getD i 0 = f i) ∧ (∀ r : Fin 8, r.val ≠ dd → l'.d[r] = l.d[r]) ∧ l'.pending = l.pending
    (∀ r : Fin 8, l.d[r].length = 128) →
      (w.toNat / 2 ^ 11 = 0x00 → s.poisonAt at_ 512 = none →
        gives fun i => canonical (Claims.littleEndian (s.bytes (at_ + 4 * i) 4))) ∧
      (w.toNat / 2 ^ 11 = 0x01 → gives fun _ => canonical ((e.params[k]?.getD 0).toNat % 2 ^ 32)) ∧
      (w.toNat / 2 ^ 11 = 0x04 → gives fun i => round (Sys2Proof.Machine.Num.add rm (num (a.getD i 0)) (num (b.getD i 0))).1) ∧
      (w.toNat / 2 ^ 11 = 0x05 → gives fun i => round (Sys2Proof.Machine.Num.sub rm (num (a.getD i 0)) (num (b.getD i 0))).1) ∧
      (w.toNat / 2 ^ 11 = 0x06 → gives fun i => round (Sys2Proof.Machine.Num.mul (num (a.getD i 0)) (num (b.getD i 0))).1) ∧
      (w.toNat / 2 ^ 11 = 0x07 → gives fun i => round (Sys2Proof.Machine.Num.fma rm (num (a.getD i 0)) (num (b.getD i 0)) (num (old.getD i 0))).1) ∧
      (w.toNat / 2 ^ 11 = 0x08 → gives fun i => round (Sys2Proof.Machine.Num.minMax true (num (a.getD i 0)) (num (b.getD i 0)))) ∧
      (w.toNat / 2 ^ 11 = 0x09 → gives fun i => round (Sys2Proof.Machine.Num.minMax false (num (a.getD i 0)) (num (b.getD i 0)))) ∧
      (w.toNat / 2 ^ 11 = 0x0A → gives fun i => round (Sys2Proof.Machine.Num.minMax true (num (a.getD i 0)) (.fin false 0 0))) ∧
      (w.toNat / 2 ^ 11 = 0x0F → k ≤ 1 → ∃ l', s.microStep core e j at_ l w = .done l' s ∧ ∀ i, i < 128 →
        let n := if k = 0 then 32 else 128
        (l'.d[dd]?.getD []).getD i 0 = maxMagnitude ((a.drop (n * (i / n))).take n)) ∧
      (w.toNat / 2 ^ 11 = 0x13 → ∃ l', s.microStep core e j at_ l w = .done l' s ∧ l'.pending = some old ∧ l'.d = l.d) ∧
      (w.toNat / 2 ^ 11 = 0x14 → gives fun i => canonical (if old.getD i 0 ≠ 0 then a.getD i 0 else b.getD i 0)) ∧
      (w.toNat / 2 ^ 11 = 0x15 → gives fun i => if (num (b.getD i 0)).lt (num (a.getD i 0)) then 0x3F800000 else 0)

/-- The drain slot words complete: DPLOAD refuses reserved bits and a length above 1024 with BOUNDS, a misaligned address with
ALIGN and one outside H-space with PROT; it reads its image, and answers 1 for a broken image, 2 for want of room, 3 for
parameters with no program, and else loads its slot, at once where it loads parameters alone or nothing names the slot, and else by
DRAIN_SLOT_LOAD once nothing does; it waits for the result of an older DPLOAD of its hart to the slot; DPINFO reads the slot's length and count, the free words and the error (R316 to R319). -/
def Sys2Proof.Parts.DrainSlotsLoadAndAnswer : Prop :=
  (∀ (s : State) (h : HartKey) (d a b : Reg), s.cur = .hart h →
    let u := s.due
    let c := u.secondX b
    let va := u.firstX a
    let slot := c.toNat % 32
    let len := c.toNat / 2 ^ 16
    let core := coreOfHart h
    let refused := c.toNat / 32 % 2 ^ 11 ≠ 0 ∨ 1024 < len
    (s.Ready (.dpload d a b) →
      let loading := ∃ l ∈ (u.hart h).slotLoads, l.slot = slot ∧ (l.program ≠ none ∨ s.now < l.ready)
      (refused → exec (.dpload d a b) s = .next (u.trapped 0x08 c)) ∧
      (¬ refused → va.toNat % 4 ≠ 0 → exec (.dpload d a b) s = .next (u.trapped 0x05 va)) ∧
      (¬ refused → va.toNat % 4 = 0 → 2 ^ 60 ≤ va.toNat → exec (.dpload d a b) s = .next (u.trapped 0x07 va)) ∧
      (¬ refused → va.toNat % 4 = 0 → va.toNat < 2 ^ 60 → loading → exec (.dpload d a b) s = .next u) ∧
      (∀ ws n ps w, ¬ refused → va.toNat % 4 = 0 → va.toNat < 2 ^ 60 → ¬ loading →
        u.readsWhole va = true → readImage State.loadRecord va len u = .ok (ws, n, ps) w → w.cur = .hart h →
        let program : DrainSlot := { ctx := (w.hart h).ctx, words := ws, params := paramTable ps, q := n }
        let code := if imageBroken ws n then 1 else (w.core core).loadCode (w.hart h).ctx slot len
        let ready := u.issueCycle + 20 + (2 * len + 4 + (if 32 < n then 0 else 8 * n) + 127) / 128
        let noted := fun (x : State) (p : Option DrainSlot) => x.modHart h fun t =>
          { t with slotLoads := t.slotLoads.filter (fun l => l.program.isSome || decide (x.now < l.ready)) ++
              [{ slot := slot, program := p, owner := t.serial, ready := ready }] }
        let named := (w.core core).namesSlot slot = true
        (code ≠ 0 → exec (.dpload d a b) s = .next ((noted w none).resultAt d (BitVec.ofNat 64 code) ready).retired) ∧
        (code = 0 → (len = 0 ∨ ¬ named) → exec (.dpload d a b) s =
          .next ((noted (w.modCore core fun v => v.loadSlot slot program) none).resultAt d 0 ready).retired) ∧
        (code = 0 → 0 < len → named → exec (.dpload d a b) s =
          .next ((noted w (some program)).resultAt d 0 ready .plain (some (w.hart h).serial)).retired))) ∧
    (s.Ready (.dpinfo d a) → ∃ x : Nat, exec (.dpinfo d a) s = .next (u.resultAt d (BitVec.ofNat 64 x) (s.now + 6)).retired ∧
      let n := (u.rx a).toNat % 32
      let v := u.core core
      x = (match v.drainSlot (u.hart h).ctx n with
          | some p => 1 + 2 * p.words.length + 2 ^ 26 * p.q
          | none => 0) + 2 ^ 12 * v.freeWords + 2 ^ 23 * (if v.namesSlot n then 1 else 0) +
        2 ^ 24 * ((v.drainErr.find? fun e => decide (e.1 = (u.hart h).ctx)).map Prod.snd).getD 0)) ∧
  (∀ (s : State) (h : HartKey),
    let t := s.hart h
    let core := coreOfHart h
    ((∀ l ∈ t.slotLoads, l.program = none ∨ (s.core core).namesSlot l.slot = true) → exec (.drainSlotLoad h) s = .next s) ∧
    (∀ l rest p, t.slotLoads = l :: rest → l.program = some p → (s.core core).namesSlot l.slot = false → l.slot < 32 → p.words ≠ [] →
      let ready := max (s.now + 1) l.ready
      ∃ w, exec (.drainSlotLoad h) s = .next w ∧ w.mem = s.mem ∧ ((w.core core).slots[l.slot]?).join = some p ∧
        (w.hart h).slotLoads.head? = some { l with program := none, ready := ready } ∧
        (w.hart h).sc = t.sc.bring l.owner 0 ready))

/-- The micro-words compute lane by lane on 128 lanes, each result rounded to FP32 and a NaN canonical: LDACC and LDK load, ADD,
SUB, MUL and FMA are correctly rounded, MAX and MIN follow R66, RELU is MAX with +0, SEL and CGT select and compare, AMAX leaves
the greatest magnitude of each group of 32 lanes or of all 128, PUTC makes the row pending and changes no lane; only lane
register dd, and nothing in memory, changes (R314, R323). The drain slot words complete: DPLOAD refuses reserved bits and a
length above 1024 with BOUNDS, a misaligned address with ALIGN and one outside H-space with PROT; it reads its image, and
answers 1 for a broken image, 2 for want of room, 3 for parameters with no program, and else loads its slot, at once where it
loads parameters alone or nothing names the slot, and else by DRAIN_SLOT_LOAD once nothing does; it waits for the result of an
older DPLOAD of its hart to the slot; DPINFO reads the slot's length and count, the free words and the error (R316 to R319). The
wait for an older DPLOAD, the order of its answers and DPINFO.ERR are the model's readings (log 36); the entries that hold a
slot are those of log 35. -/
def Obligations.DrainProgramsLoadAndCompute : Prop := Parts.MicroWordsComputeTheirLanes ∧ Parts.DrainSlotsLoadAndAnswer

/-- The matrix licence: ACQ answers 1 for a holder after 8 cycles, and else posts a request and answers then whether it was
granted; ACQW and REL complete for a holder and for a request; ST reads who holds it; a free licence goes to the oldest request
8 cycles after it was made, and after a hand-over at the end of the 480-cycle gap, during which the ballast of the releasing
engine falls from 7 to 0 eighths in 240 cycles and that of the acquiring one rises; a pending release takes effect once nothing
streams and no migrated MMA keeps the engine, and the current slot-table entry takes the licence for its context once in its
microsecond, also from a holder whose release is pending, and the displaced holder has a request (R306 to R309, 19 R409 to
R411). The cycle in which ACQ decides, a grant from a pending release and a request that a release cancels are the model's
readings (log 35); an entry counts as having work by its drain too (log 36). -/
def Obligations.LicencePassesBetweenTwins : Prop :=
  (∀ (s : State) (h : HartKey) (d : Reg), s.cur = .hart h →
    let u := s.due
    let core := coreOfHart h
    let ctx := (s.hart h).ctx
    let l := u.licence core
    let owns := l.holder = some (core, ctx) ∧ l.releasing = false
    (s.Ready (.mlicAcq d) →
      (owns → exec (.mlicAcq d) s = .next (u.resultAt d 1 (s.now + 8)).retired) ∧
      (¬ owns → exec (.mlicAcq d) s =
        .next ((u.requestLicence core ctx).resultAt d 0 (s.now + 8) .licence (some (u.hart h).serial)).retired)) ∧
    (s.Ready .mlicAcqw →
      (owns → exec .mlicAcqw s = .next u.retired) ∧ (¬ owns → exec .mlicAcqw s = .next (u.requestLicence core ctx))) ∧
    (s.Ready .mlicRel →
      (owns → exec .mlicRel s = .next (u.beginRelease core ctx fun _ => true).retired) ∧
      (¬ owns → exec .mlicRel s = .next (u.cancelRequest core ctx).retired)) ∧
    (s.Ready (.mlicSt d) → ∃ v : Dword, exec (.mlicSt d) s = .next (u.resultAt d v (s.now + 4)).retired ∧
      v.getLsbD 0 = decide (l.holder = some (core, ctx)) ∧
      v.getLsbD 1 = l.holder.any (fun x => decide (x.1 = core ∧ x.2 ≠ ctx)) ∧
      v.getLsbD 2 = l.holder.any (fun x => decide (x.1 ≠ core)) ∧
      v.getLsbD 3 = l.requests.any (fun x => decide (x.1 = core ∧ x.2.1 = ctx)) ∧ v.getLsbD 4 = l.gap.isSome ∧
      v.getLsbD 5 = (let m := u.currentSlot (twinOfCore core)
        m.v && decide ((if m.upper then upperCoreOf (twinOfCore core) else lowerCore (twinOfCore core)) = core ∧ m.ctx.toNat = ctx)) ∧
      v.toNat < 64)) ∧
  (∀ (s : State) (h : HartKey) (w : PendingWrite) (n : Nat),
    let owns := (s.licence (coreOfHart h)).holder = some (coreOfHart h, (s.hart h).ctx) ∧ (s.licence (coreOfHart h)).releasing = false
    (s.hart h).sc.board = [w] → w.kind = .licence → w.owner = some n → w.ready ≤ s.now →
    (owns → s.acqStep h = some (s.modHart h fun t =>
      { t with sc := { t.sc with board := [{ w with value := 1, ready := s.now, owner := none }] } })) ∧
    (¬ owns → s.acqStep h = some (s.modHart h fun t =>
      { t with sc := { t.sc with board := [{ w with value := 0, ready := s.now, owner := none }] } }))) ∧
  (∀ (s : State) (t : PairKey),
    let l := (s.twin t).licence
    (l.holder = none → l.requests = [] → l.gap = none → l.ballast = (0, 0) →
      exec (.licenceGrant t) s = .next s ∧ exec (.licenceRelease t) s = .next s ∧ exec (.ballastStep t) s = .next s ∧
      exec (.slotTableTurn t) s = .next s) ∧
    (∀ core ctx made rest, l.holder = none → l.requests = (core, ctx, made) :: rest →
      (∀ g, l.gap = some g → g.1 + 480 ≤ s.now) → (l.gap = none → made + 8 ≤ s.now) →
      ∃ u, exec (.licenceGrant t) s = .next u ∧ (u.twin t).licence =
        { l with holder := some (core, ctx), requests := rest, releasing := false, gap := none, ballast := (0, 0) }) ∧
    (∀ core ctx, l.holder = some (core, ctx) → l.requests = [] → l.releasing = true → s.engineLent core = false →
      (s.core core).streamNext ≤ s.now →
      (∀ e ∈ (s.core core).queue, e.load = true ∨ e.ctx ≠ ctx ∨ e.owed = false ∨ e.m ≤ e.rowsDone) →
      ∃ u, exec (.licenceRelease t) s = .next u ∧
        (u.twin t).licence = { l with holder := none, releasing := false, gap := some (s.now, core, none) }) ∧
    (∀ from_ core n, l.gap = some (from_, core, none) → l.requests = [] → l.ballast ≠ (0, 0) → s.now = from_ + n → 240 ≤ n →
      ∃ u, exec (.ballastStep t) s = .next u ∧ (u.twin t).licence.ballast = (0, 0)) ∧
    (∀ from_ core n, l.gap = some (from_, core, none) → s.now = from_ + n → n < 240 → upperCore core = false →
      ∃ u, exec (.ballastStep t) s = .next u ∧ (u.twin t).licence.ballast = (7 - n / 30, 0) ∧
        (u.twin t).licence.holder = l.holder ∧ (u.twin t).licence.requests = l.requests) ∧
    (∀ from_ a b n, l.gap = some (from_, a, some b) → s.now = from_ + n → 240 ≤ n → n < 480 → upperCore b = false →
      ∃ u, exec (.ballastStep t) s = .next u ∧ (u.twin t).licence.ballast = ((n - 240) / 30 + 1, 0)) ∧
    (∀ core ctx, l.holder = some (core, ctx) →
      let m := s.currentSlot t
      let heir := if m.upper then upperCoreOf t else lowerCore t
      twinOfCore heir = t → twinOfCore core = t → m.v = true → (core, ctx) ≠ (heir, m.ctx.toNat) → s.requestsLicence heir m.ctx.toNat = true →
      (l.turned = some (s.devTime / 1000) → exec (.slotTableTurn t) s = .next s) ∧
      (l.turned ≠ some (s.devTime / 1000) →
        ∃ u, exec (.slotTableTurn t) s = .next u ∧ (u.twin t).licence.releasing = true ∧
          (u.twin t).licence.requests.head? = some (heir, m.ctx.toNat, s.now) ∧
          (u.twin t).licence.turned = some (s.devTime / 1000) ∧
          ∃ r ∈ (u.twin t).licence.requests, r.1 = core ∧ r.2.1 = ctx)))

/-! ## Chapters 15, 17 and 19: key-value blocks, the steward, twins -/

namespace Sys2Proof.Claims

/-- A hart's word has begun to wait in a state w. -/
def awaiting (w : State) (h : HartKey) (x : Wait) : State :=
  w.modHart h fun t => { t with wait := x, waitWord := w.ir, waitFrom := if t.wait = .none then w.now else t.waitFrom }

end Sys2Proof.Claims

/-- The KV words check, send their step to the directory of their die pair, and wait for its cycle: a hart with no pool raises PROT, a
frame beyond its pool BOUNDS, a bad record address ALIGN or PROT, reserved bits of KVREF BOUNDS; KVFIND and KVINS read their token
record first, and KVUNPIN, and KVREF with a negative delta or READY, release at device scope first; a word that waits keeps the values of
its registers at its issue; KVWIN sets the edge of a bound load
stream and else only retires (R340, R344, R346). -/
def Sys2Proof.Parts.KvWordsSendTheirStep : Prop :=
  ∀ (s : State) (h : HartKey), s.cur = .hart h → (∀ c r x y, (s.hart h).wait ≠ .directory c r x y) →
    let u := s.due
    let xa := fun (a : Reg) => match (s.hart h).wait with
      | .releasing x _ => x
      | _ => u.firstX a
    let xb := fun (b : Reg) => match (s.hart h).wait with
      | .releasing _ y => y
      | _ => u.secondX b
    let k := pairOfCore (coreOfHart h)
    let ctx := (s.hart h).ctx
    (∀ i d a, (i = .kvpin d a ∨ i = .kvunpin d a ∨ ∃ b, i = .kvfind d a b ∨ i = .kvins d a b ∨ i = .kvref d a b) → s.Ready i →
      (u.pair k).pool ctx = none →
      exec i s = .next (u.trapped 0x07 (if (u.givenPool k ctx).isSome then 1 else 0))) ∧
    (∀ p, (u.pair k).pool ctx = some p →
      (∀ i d a b, (i = .kvfind d a b ∨ i = .kvins d a b) → s.Ready i →
        let va := xa a
        let parent := xb b
        (va.toNat % 64 ≠ 0 → exec i s = .next (u.trapped 0x05 va)) ∧
        (va.toNat % 64 = 0 → 2 ^ 60 ≤ va.toNat → exec i s = .next (u.trapped 0x07 va)) ∧
        (∀ rec w, va.toNat % 64 = 0 → va.toNat < 2 ^ 60 → u.readsWhole va = true → u.loadRecord va 64 = .ok rec w → w.cur = .hart h →
          (parent ≠ -1 → p.frames ≤ parent.toNat → exec i s = .next (w.trapped 0x08 parent)) ∧
          (parent = -1 ∨ parent.toNat < p.frames →
            exec i s = .next (Claims.awaiting w h (.directory (w.now + (u.recordDue va + 60 - w.now)) rec va parent))))) ∧
      (∀ i d a b, (i = .kvpin d a ∧ b = 0 ∨ i = .kvunpin d a ∧ b = 0 ∨ i = .kvref d a b) → s.Ready i →
        let id := xa a
        let delta := xb b
        let refs := i = .kvref d a b
        (p.frames ≤ id.toNat → exec i s = .next (u.trapped 0x08 id)) ∧
        (id.toNat < p.frames →
          (refs → 2 ^ 33 ≤ delta.toNat → exec i s = .next (u.trapped 0x08 delta)) ∧
          (i = .kvpin d a ∨ refs ∧ delta.toNat < 2 ^ 31 →
            exec i s = .next (Claims.awaiting u h (.directory (u.now + 40) [] id delta))) ∧
          (i = .kvunpin d a ∨ refs ∧ 2 ^ 31 ≤ delta.toNat ∧ delta.toNat < 2 ^ 33 →
            (u.release h 3 (u.hart h).serial = .wait → exec i s = .next (Claims.awaiting u h (.releasing id delta))) ∧
            (∀ w, u.release h 3 (u.hart h).serial = .ok () w → w.cur = .hart h →
              exec i s = .next (Claims.awaiting w h (.directory (w.now + 40) [] id delta))))))) ∧
    (∀ q a, s.Ready (.kvwin q a) →
      ((∀ b, (u.hart h).stream q = some b → b.stores = true) → exec (.kvwin q a) s = .next u.retired) ∧
      (∀ b, (u.hart h).stream q = some b → b.stores = false →
        exec (.kvwin q a) s = .next (u.setStream h q (some { b with edge := (u.rx a).toNat })).retired))

/-- A KV word whose cycle has come makes its step at the directory: KVFIND and KVINS a lookup, KVPIN and KVUNPIN count pins and KVPIN
reads the frame's address, all with the values of their registers at their issue, KVREF adds its signed delta to the references, clears FILL with READY, and removes a block with none left; a
block that is not there reads -1, a count that would leave its range raises BOUNDS with the frame; the result comes with the step, and
for a block with FILL = 0 KVFIND, KVINS and KVREF acquire at device scope; a pool that is gone by then raises PROT (R340 to R344). -/
def Sys2Proof.Parts.KvWordsStepTheDirectory : Prop :=
  ∀ (s : State) (h : HartKey) (c : Nat) (rec : List Byte) (x y : Dword), s.cur = .hart h → (s.hart h).wait = .directory c rec x y →
    let u := s.due
    let k := pairOfCore (coreOfHart h)
    let ctx := (s.hart h).ctx
    let q := u.pair k
    let landed := fun (d : Reg) (v : Dword) (q : DiePair) (acq : Bool) =>
      let y := u.modPair k fun _ => q
      ((if acq && decide (v.toNat / 2 ^ 32 % 2 = 0) && decide (v.toNat < 2 ^ 63) then Claims.acquired y 3 else y).resultAt d v s.now).retired
    (∀ i d a, (i = .kvpin d a ∨ i = .kvunpin d a ∨ ∃ b, i = .kvfind d a b ∨ i = .kvins d a b ∨ i = .kvref d a b) → s.Ready i →
      (s.now < c → exec i s = .next u) ∧
      (c ≤ s.now → q.pool ctx = none → exec i s = .next (u.trapped 0x07 (if (u.givenPool k ctx).isSome then 1 else 0)))) ∧
    (∀ p, c ≤ s.now → q.pool ctx = some p →
      (∀ i d a b insert v q', (i = .kvfind d a b ∧ insert = false ∨ i = .kvins d a b ∧ insert = true) → s.Ready i →
        q.lookup p insert rec y = .done v q' → exec i s = .next (landed d v q' true)) ∧
      (∀ i d a b insert v, (i = .kvfind d a b ∧ insert = false ∨ i = .kvins d a b ∧ insert = true) → s.Ready i →
        q.lookup p insert rec y = .bounds v → exec i s = .next (u.trapped 0x08 v)) ∧
      (∀ d a, x.toNat < p.frames →
        let f := 65536 * p.ctx + x.toNat
        let put := fun (e : DirEntry) => { q with entries := q.entries.put f e }
        (s.Ready (.kvpin d a) →
          (q.entries.get? f = none → exec (.kvpin d a) s = .next (landed d (-1) q false)) ∧
          (∀ e, q.entries.get? f = some e →
            (e.pins.toNat = 2 ^ 16 - 1 → exec (.kvpin d a) s = .next (u.trapped 0x08 x)) ∧
            (e.pins.toNat < 2 ^ 16 - 1 → exec (.kvpin d a) s =
              .next (landed d (BitVec.ofNat 64 (8192 * (p.base + x.toNat))) (put { e with pins := e.pins + 1 }) false)))) ∧
        (s.Ready (.kvunpin d a) →
          (∀ e, q.entries.get? f = some e →
            (e.pins = 0 → exec (.kvunpin d a) s = .next (u.trapped 0x08 x)) ∧
            (e.pins ≠ 0 → exec (.kvunpin d a) s =
              .next (landed d ((e.pins - 1).setWidth 64) (put { e with pins := e.pins - 1 }) false))) ∧
          (∀ n, q.entries.get? f = none → q.orphans.get? f = some n → exec (.kvunpin d a) s = .next (landed d (BitVec.ofNat 64 (n - 1))
            { q with orphans := if n ≤ 1 then q.orphans.erase f else q.orphans.put f (n - 1) } false)) ∧
          (q.entries.get? f = none → q.orphans.get? f = none → exec (.kvunpin d a) s = .next (u.trapped 0x08 x))) ∧
        (∀ b, s.Ready (.kvref d a b) →
          (q.entries.get? f = none → exec (.kvref d a b) s = .next (landed d (-1) q true)) ∧
          (∀ e, q.entries.get? f = some e →
            let n := (e.refs.toNat : Int) + (y.setWidth 32).toInt
            let filled := e.filled && !y.getLsbD 32
            let q' := put { e with refs := BitVec.ofInt 32 n, filled := filled }
            (n < 0 ∨ 2 ^ 32 ≤ n → exec (.kvref d a b) s = .next (u.trapped 0x08 x)) ∧
            (0 < n → n < 2 ^ 32 → exec (.kvref d a b) s =
              .next (landed d (BitVec.ofInt 64 (n + if filled then 2 ^ 32 else 0)) q' true)) ∧
            (n = 0 → exec (.kvref d a b) s = .next (landed d (if filled then 2 ^ 32 else 0)
              (q'.remove p.ctx (q'.entries.length + 1) x.toNat) true))))))

/-- A lookup at a directory: a block of the context with the same parent and tokens gives its frame and FILL, and gains one
reference, or BOUNDS where its count is full; where none matches, KVFIND reads -1, and KVINS reads -2 with no free frame, -3 where its set
holds 16 blocks, and else puts a new block with one reference and FILL set into the lowest free frame, with one more reference of its
parent; a parent that is not there reads -1 (R341). -/
def Sys2Proof.Parts.DirectoryLookupsFindOrInsert : Prop :=
  ∀ (q : DiePair) (p : Pool) (rec : List Byte) (insert : Bool) (parent : Dword),
    let tokens : List (BitVec 32) := (List.range 16).map fun i => BitVec.ofNat 32 (Claims.fieldAt rec (4 * i) 4)
    let above : Option Nat := if parent = -1 then none else some parent.toNat
    let key := fun (f : Nat) => 65536 * p.ctx + f
    (∀ f, above = some f → q.entries.get? (key f) = none → q.lookup p insert rec parent = .done (-1) q) ∧
    (∀ start : Dword, (above = none → start = BitVec.ofNat 64 p.ctx) →
      (∀ f, above = some f → (q.entries.get? (key f)).map DirEntry.hash = some start) →
      let hash := crcBytes start rec
      let same := fun (e : Nat × DirEntry) => e.2.ctx = p.ctx ∧ e.2.parent = above ∧ e.2.tokens = tokens ∧ setOf e.2.hash = setOf hash
      (∀ e, q.entries.find? (fun e => decide (same e)) = some e →
        (e.2.refs.toNat = 2 ^ 32 - 1 → q.lookup p insert rec parent = .bounds (BitVec.ofNat 64 e.2.frame)) ∧
        (e.2.refs.toNat < 2 ^ 32 - 1 →
          q.lookup p insert rec parent = .done (BitVec.ofNat 64 (e.2.frame + 2 ^ 32 * (if e.2.filled then 1 else 0)))
            { q with entries := q.entries.put e.1 { e.2 with refs := e.2.refs + 1 } })) ∧
      ((∀ e ∈ q.entries, ¬ same e) →
        let full := 16 ≤ (q.entries.filter fun (e : Nat × DirEntry) => decide (Sys2Proof.Machine.setOf e.2.hash = Sys2Proof.Machine.setOf hash)).length
        (insert = false → q.lookup p insert rec parent = .done (-1) q) ∧
        (insert = true → q.freeFrame p = none → q.lookup p insert rec parent = .done (-2) q) ∧
        (∀ f, insert = true → q.freeFrame p = some f → full → q.lookup p insert rec parent = .done (-3) q) ∧
        (∀ f, insert = true → q.freeFrame p = some f → ¬ full →
          let block : DirEntry :=
            { ctx := p.ctx, frame := f, parent := above, parentHash := start, tokens := tokens, hash := hash,
              refs := 1, pins := 0, filled := true }
          let raised := match above with
            | none => q.entries
            | some g => q.entries.modify (key g) fun e => { e with refs := e.refs + 1 }
          q.lookup p insert rec parent = .done (BitVec.ofNat 64 (f + 2 ^ 32 + 2 ^ 33)) { q with entries := raised.put (key f) block }))) ∧
    (∀ f, q.freeFrame p = some f → f < p.frames ∧ q.entries.get? (key f) = none ∧
      q.orphans.get? (key f) = none ∧
      ∀ g, g < f → (q.entries.get? (key g)).isSome ∨ (q.orphans.get? (key g)).isSome)

/-- The KV words check, send their step to the directory of their die pair, and wait for its cycle: a hart with no pool raises
PROT, a frame beyond its pool BOUNDS, a bad record address ALIGN or PROT, reserved bits of KVREF BOUNDS; KVFIND and KVINS read
their token record first, and KVUNPIN, and KVREF with a negative delta or READY, release at device scope first; a word that
waits keeps the values of its registers at its issue; KVWIN sets the edge of a bound load stream and else only retires (R340,
R344, R346). A KV word whose cycle has come makes its step at the directory: KVFIND and KVINS a lookup, KVPIN and KVUNPIN count
pins and KVPIN reads the frame's address, all with the values of their registers at their issue, KVREF adds its signed delta to
the references, clears FILL with READY, and removes a block with none left; a block that is not there reads -1, a count that
would leave its range raises BOUNDS with the frame; the result comes with the step, and for a block with FILL = 0 KVFIND, KVINS
and KVREF acquire at device scope; a pool that is gone by then raises PROT (R340 to R344). A lookup at a directory: a block of
the context with the same parent and tokens gives its frame and FILL, and gains one reference, or BOUNDS where its count is
full; where none matches, KVFIND reads -1, and KVINS reads -2 with no free frame, -3 where its set holds 16 blocks, and else
puts a new block with one reference and FILL set into the lowest free frame, with one more reference of its parent; a parent
that is not there reads -1 (R341). The cycle of a directory's step and the order of steps are the model's readings (log 38). -/
def Obligations.KvWordsStepAndSearchTheDirectory : Prop := Parts.KvWordsSendTheirStep ∧ Parts.KvWordsStepTheDirectory ∧ Parts.DirectoryLookupsFindOrInsert

/-- A hart's results: v on its way to its destination register and to its copy register, and nothing where it has neither. -/
def Sys2Proof.Claims.Gets (old new : Scalar) (d : Reg) (copy : Option Reg) (v : Dword) : Prop :=
  (d ≠ 0 → ∃ e ∈ new.board, e.rd = d ∧ e.value = v) ∧
  (∀ r, copy = some r → r ≠ 0 → ∃ e ∈ new.board, e.rd = r ∧ e.value = v) ∧
  (d = 0 → copy = none → new.board = old.board)

/-- The Narrows: NRD reads its slot with latency 1 and NWR writes it at the end of the cycle; NSWAP and TBAR, after their
release, wait with their place taken, or meet a waiting partner, whereupon both complete with an acquire at pair scope, both places are
free, and NSWAP exchanges their values into the destination and copy registers of both; while another hart of the side holds the place, or
the release is not made, they wait, with the value read at issue; a limit that runs out raises TWINTO by the event TWINTO and leaves the place
kept, and before the arrival at once (R399 to R402). -/
def Sys2Proof.Parts.NarrowsMeetTheTwin : Prop :=
  (∀ (s : State) (h : HartKey), s.cur = .hart h →
    let u := s.due
    let k := twinOfCore (coreOfHart h)
    let side := if upperCore (coreOfHart h) then 1 else 0
    let v := u.twin k
    (∀ d t, s.Ready (.nrd d t) → exec (.nrd d t) s = .next (u.resultAt d (v.narrows.getD t.toNat 0) (s.now + 1)).retired) ∧
    (∀ t b, s.Ready (.nwr t b) → ∃ w : State, exec (.nwr t b) s = .next w.retired ∧
      (w.twin k).writes = v.writes ++ [(t.toNat, h, u.rx b)] ∧ (w.twin k).narrows = v.narrows ∧ { w with twins := u.twins } = u ∧
      (v.writes = [] → (w.twin k).commitWrites.narrows = v.narrows.setIfInBounds t.toNat (u.rx b) ∧
        (w.twin k).commitWrites.writes = [])) ∧
    (∀ i point n x w, (∃ d t b, i = .nswap d t b ∧ point = false ∧ n = t.toNat ∧ x = u.rx b ∧ treeDest s.ir = d) ∨
        (∃ t, i = .tbar t ∧ point = true ∧ n = t.toNat ∧ x = 0) → s.Ready i →
      let mine := 2 * n + side
      let other := 2 * n + (1 - side)
      let limit := (u.hart h).csr.ntimeo.toNat
      let place : Place := { hart := h, value := x, waiting := true, arrival := w.now, limit := limit }
      let put := fun (p : Place) => w.modTwin k fun y => y.setPlaces point ((y.places point).put mine p)
      let value : Dword := BitVec.ofNat 64 (if point then 32 + n else n)
      (u.hart h).wait = .none →
      (∀ q, (v.places point).get? mine = some q → q.hart ≠ h →
        (0 < limit → exec i s = .next (Claims.awaiting u h (.meeting (u.now + limit) x))) ∧
        (limit = 0 → exec i s = .next (u.trapped 0x0B value))) ∧
      ((∀ q, (v.places point).get? mine = some q → q.hart = h) →
        (u.release h 2 (u.hart h).serial = .wait → exec i s = .next (Claims.awaiting u h (.publishing limit x))) ∧
        (u.release h 2 (u.hart h).serial = .ok () w → w.cur = .hart h →
          (∀ q, ((w.twin k).places point).get? other = some q → q.waiting = false) →
          exec i s = .next (Claims.awaiting (put place) h .twin)) ∧
        (∀ q, u.release h 2 (u.hart h).serial = .ok () w → w.cur = .hart h → ((w.twin k).places point).get? other = some q →
          q.waiting = true → q.hart ≠ h →
          let partner : State := { w with cur := .hart q.hart }
          ∃ z, exec i s = .next z ∧
            Claims.Gets (w.hart h).sc (z.hart h).sc (if point then 0 else treeDest s.ir) (if point then none else w.copyReg) q.value ∧
            Claims.Gets (w.hart q.hart).sc (z.hart q.hart).sc (if point then 0 else treeDest (w.hart q.hart).waitWord)
              (if point then none else partner.copyReg) x ∧
            (∀ g, g = h ∨ g = q.hart → (z.hart g).wait = .none ∧ (z.hart g).sc.instret = (w.hart g).sc.instret + 1 ∧
              ∃ o, (z.hart g).orders = (w.hart g).orders ++ [o] ∧ o.acquire = some 2 ∧ o.release = none) ∧
            (∀ g, g ≠ h → g ≠ q.hart → z.hart g = w.hart g) ∧ z.mem = w.mem ∧
            ((z.twin k).places point).get? mine = none ∧ ((z.twin k).places point).get? other = none)))) ∧
  (∀ (s : State) (h : HartKey),
    let k := twinOfCore (coreOfHart h)
    let p := twinPlace (s.hart h).waitWord
    let mine := 2 * p.2 + (if upperCore (coreOfHart h) then 1 else 0)
    let value : Dword := BitVec.ofNat 64 (if p.1 then 32 + p.2 else p.2)
    ((s.hart h).wait = .none → exec (.twinto h) s = .next s) ∧
    (∀ c x, (s.hart h).wait = .meeting c x →
      (c ≤ s.now → exec (.twinto h) s = .next (s.takeTrap h 0x0B value (s.hart h).sc.pc)) ∧
      (s.now < c → exec (.twinto h) s = .next s)) ∧
    (∀ q, (s.hart h).wait = .twin → ((s.twin k).places p.1).get? mine = some q → q.hart = h →
      (q.arrival + q.limit ≤ s.now → exec (.twinto h) s = .next
        ((s.modTwin k fun v => v.setPlaces p.1 ((v.places p.1).put mine { q with waiting := false })).takeTrap h 0x0B value
          (s.hart h).sc.pc)) ∧
      (s.now < q.arrival + q.limit → exec (.twinto h) s = .next s)))

/-- The Ferry and the gate: FPUSH waits for room, takes an entry of the outgoing FIFO, and from the next cycle on, in a window of the
arrays, reads its row and leaves a release that fills the entry; FPOP waits until the oldest entry of the incoming FIFO is filled, takes
it, and from two cycles on writes the row into its columns, frees the entry and acquires at pair scope; a misaligned address raises ALIGN
and one outside the hart's columns PROT; FCNT reads the counts; PGREQ records a request and reads the gate; FERRY_ENTRY_FILLED does what a
push or pop that has its entry does next; a gating core loses power 1,880 cycles after its save and release, an ungating one comes
back once all is restored, and a request made in a transition takes effect after it (R403 to R408). -/
def Sys2Proof.Parts.FerryAndGateMove : Prop :=
  (∀ (s : State) (h : HartKey), s.cur = .hart h →
    let u := s.due
    let core := coreOfHart h
    let k := twinOfCore core
    let side := if upperCore core then 1 else 0
    let v := u.twin k
    let out := v.outgoing side
    let inn := v.incoming side
    (∀ i a use wait, (i = .fpush a ∧ use = Access.load ∧ wait = Wait.pushing (u.rx a) ∨
        i = .fpop a ∧ use = Access.store ∧ wait = Wait.popping (u.rx a)) → s.Ready i → (s.hart h).wait = .none →
      let va := u.rx a
      (va.toNat % 64 ≠ 0 → exec i s = .next (u.trapped 0x05 va)) ∧
      (va.toNat % 64 = 0 → va.toNat / 2 ^ 60 ≠ 10 ∨ ((u.hartReach h .vector).check use va 64).isSome →
        exec i s = .next (u.trapped 0x07 va)) ∧
      (va.toNat % 64 = 0 → va.toNat / 2 ^ 60 = 10 → (u.hartReach h .vector).check use va 64 = none →
        exec i s = .next (Claims.awaiting u h wait))) ∧
    (∀ a n va ready, s.Ready (.fpush a) → (s.hart h).wait = .fpush n va ready →
      (s.now < ready ∨ u.ferryWindow h va = none → exec (.fpush a) s = .next u) ∧
      (∀ w, ready ≤ s.now → u.ferryWindow h va = some w →
        exec (.fpush a) s = .next ((w.modHart h fun t => { t with orders := t.orders ++
          [{ streams := 511, loads := false, release := some 2, acquire := none, ready := w.now + 2, owner := t.serial
             fill := some (n, bitsOfBytes 512 (w.arrayRead core (va.toNat % 2 ^ 60) 64)) }] }).delay (w.now + 1)).retired)) ∧
    (∀ a va row ready, s.Ready (.fpop a) → (s.hart h).wait = .fpop va row ready →
      let blocked := u.accessBlocked (u.hartReach h .vector) .store va 64
      (s.now < ready ∨ blocked = true ∨ u.ferryWindow h va = none → exec (.fpop a) s = .next u) ∧
      (∀ w, ready ≤ s.now → blocked = false → u.ferryWindow h va = some w →
        let y := w.modTwin k fun v => if side = 0 then { v with down := { v.down with popped := v.down.popped - 1 } }
          else { v with up := { v.up with popped := v.up.popped - 1 } }
        exec (.fpop a) s = .next ((Claims.acquired (y.arrayStore core (va.toNat % 2 ^ 60) ((bytesOfBits row 64).map some)) 2).delay
          (w.now + 1)).retired)) ∧
    (∀ d, s.Ready (.fcnt d) →
      let filled := fun (f : Ferry) => (f.entries.filter fun e => e.2.isSome).length
      let free := fun (f : Ferry) => 16 - f.entries.length - f.popped
      exec (.fcnt d) s = .next (u.resultAt d (BitVec.ofNat 64 (filled out + 2 ^ 5 * free out + 2 ^ 10 * filled inn + 2 ^ 15 * free inn +
        2 ^ 20 * v.gate.code)) (s.now + 2)).retired) ∧
    (∀ d a, s.Ready (.pgreq d a) →
      (1 < (u.rx a).toNat → exec (.pgreq d a) s = .next (u.trapped 0x08 (u.rx a))) ∧
      ((u.rx a).toNat ≤ 1 → ∃ w : State, exec (.pgreq d a) s = .next (w.resultAt d (BitVec.ofNat 64 v.gate.code) (s.now + 4)).retired ∧
        (w.twin k).gateWant = decide (u.rx a = 1) ∧
        ((v.gate = .on ∧ u.rx a = 0 ∨ v.gate = .gated ∧ u.rx a = 1) → (w.twin k).gate = v.gate) ∧
        (v.gate = .on → u.rx a = 1 → (w.twin k).gate = .gating) ∧
        (v.gate = .gated → u.rx a = 0 → (w.twin k).gate = .ungating ∧ (w.twin k).gateReady = some (s.now + 4700))))) ∧
  (∀ (s : State) (h : HartKey) (va : Dword),
    let k := twinOfCore (coreOfHart h)
    let side := if upperCore (coreOfHart h) then 1 else 0
    let out := (s.twin k).outgoing side
    let inn := (s.twin k).incoming side
    ((s.hart h).wait = .pushing va →
      (16 ≤ out.entries.length + out.popped → s.takeEntry h = s) ∧
      (out.entries.length + out.popped < 16 →
        let g : Ferry := { out with entries := out.entries ++ [(out.next, none)], next := out.next + 1 }
        s.takeEntry h = (s.modTwin k fun v => if side = 0 then { v with up := g } else { v with down := g }).modHart h fun t =>
          { t with wait := .fpush out.next va (s.now + 1) })) ∧
    ((s.hart h).wait = .popping va →
      ((∀ e ∈ inn.entries.head?, e.2 = none) → s.takeEntry h = s) ∧
      (∀ n row rest, inn.entries = (n, some row) :: rest →
        let g : Ferry := { inn with entries := rest, popped := inn.popped + 1 }
        s.takeEntry h = (s.modTwin k fun v => if side = 0 then { v with down := g } else { v with up := g }).modHart h fun t =>
          { t with wait := .fpop va row (s.now + 2) }))) ∧
  (∀ (s : State) (h : HartKey) (va : Dword) (ready : Nat),
    let core := coreOfHart h
    let y : State := { s with cur := .hart h, ir := (s.hart h).waitWord }
    let blocked := y.accessBlocked (y.hartReach h .vector) .store va 64
    (∀ n, (s.hart h).wait = .fpush n va ready →
      (∀ w, ready ≤ s.now → y.ferryWindow h va = some w →
        ∃ t p, exec (.ferryEntryFilled h) s = .next t ∧ (t.hart h).wait = .none ∧ (t.hart h).orders = (s.hart h).orders ++ [p] ∧
          p.fill = some (n, bitsOfBytes 512 (w.arrayRead core (va.toNat % 2 ^ 60) 64)) ∧ p.release = some 2 ∧
          (t.hart h).sc.instret = (s.hart h).sc.instret + 1) ∧
      (s.now < ready ∨ y.ferryWindow h va = none → exec (.ferryEntryFilled h) s = .next s)) ∧
    (∀ row, (s.hart h).wait = .fpop va row ready →
      (∀ w, ready ≤ s.now → blocked = false → y.ferryWindow h va = some w →
        ∃ t p, exec (.ferryEntryFilled h) s = .next t ∧ (t.hart h).wait = .none ∧ (t.hart h).orders = (s.hart h).orders ++ [p] ∧
          p.acquire = some 2 ∧ (t.hart h).sc.instret = (s.hart h).sc.instret + 1) ∧
      (s.now < ready ∨ blocked = true ∨ y.ferryWindow h va = none → exec (.ferryEntryFilled h) s = .next s))) ∧
  (∀ (s : State) (k : PairKey) (ctx : Nat),
    let core := upperCoreOf k
    let v := s.twin k
    ((s.pair (pairOfCore core)).part.bind s.turnCtx) = some ctx →
    (v.gate = .on → exec (.gatePowerRemoved k) s = .next s) ∧
    (∀ c, v.gate = .gated → v.gateReady = some c →
      (s.now < c → exec (.gatePowerRemoved k) s = .next s) ∧
      (c ≤ s.now → ∃ t, exec (.gatePowerRemoved k) s = .next t ∧ { t with twins := s.twins } = s ∧
        (t.twin k).gate = (if v.gateWant then Gate.gated else .ungating) ∧
        (t.twin k).gateReady = if v.gateWant then none else some (s.now + 4700))) ∧
    (∀ c, v.gate = .on → v.gateReady = some c →
      (s.now < c → exec (.ungatePowerReturned k) s = .next s) ∧
      (c ≤ s.now → ∃ t, exec (.ungatePowerReturned k) s = .next t ∧ (t.twin k).gateReady = none ∧
        (t.twin k).gate = if v.gateWant then Gate.gating else .on)) ∧
    (v.gate = .on → v.gateReady = none → (s.ctxState ctx).cores.get? core = none → exec (.ungatePowerReturned k) s = .next s) ∧
    (v.gate = .on → v.gateReady = none → ((s.ctxState ctx).cores.get? core).isSome → (s.partition (s.ctxPart ctx)).switch = none →
      s.rangesFree core ctx → exec (.ungatePowerReturned k) s = .next (s.giveCore core ctx)) ∧
    (v.gate = .gating → v.gateSaved = true → v.gateReady = none → v.licence.gap = none → v.licence.holder = none →
      exec (.gatePowerRemoved k) s = .next (s.modTwin k fun v => { v with gateReady := some (s.now + 1880) })) ∧
    (∀ c, v.gate = .gating → v.gateSaved = true → v.gateReady = some c → c ≤ s.now →
      ∃ t, exec (.gatePowerRemoved k) s = .next t ∧ (t.twin k).gate = .gated ∧
        (t.twin k).gateReady = if v.gateWant then none else some (s.now + 1)) ∧
    (v.gate = .ungating → (∀ c, v.gateReady = some c → c ≤ s.now) → (s.ctxState ctx).harts = [] →
      s.restorePiece ctx (fun c => decide (c = core)) = none → s.harts = [] → s.clusters = [] →
      ∃ t, exec (.ungatePowerReturned k) s = .next t ∧ (t.twin k).gate = .on ∧
        (t.twin k).gateReady = if v.gateWant then some (s.now + 1) else none))

/-- The Narrows: NRD reads its slot with latency 1 and NWR writes it at the end of the cycle; NSWAP and TBAR, after their
release, wait with their place taken, or meet a waiting partner, whereupon both complete with an acquire at pair scope, both
places are free, and NSWAP exchanges their values into the destination and copy registers of both; while another hart of the
side holds the place, or the release is not made, they wait, with the value read at issue; a limit that runs out raises TWINTO
by the event TWINTO and leaves the place kept, and before the arrival at once (R399 to R402). The Ferry and the gate: FPUSH
waits for room, takes an entry of the outgoing FIFO, and from the next cycle on, in a window of the arrays, reads its row and
leaves a release that fills the entry; FPOP waits until the oldest entry of the incoming FIFO is filled, takes it, and from two
cycles on writes the row into its columns, frees the entry and acquires at pair scope; a misaligned address raises ALIGN and one
outside the hart's columns PROT; FCNT reads the counts; PGREQ records a request and reads the gate; FERRY_ENTRY_FILLED does what
a push or pop that has its entry does next; a gating core loses power 1,880 cycles after its save and release, an ungating one
comes back once all is restored, and a request made in a transition takes effect after it (R403 to R408). The limits and waits
of the meetings and of the Ferry are the model's readings (log 33), as are the steps of the gate (log 43). -/
def Obligations.TwinsMeetAndFerry : Prop := Parts.NarrowsMeetTheTwin ∧ Parts.FerryAndGateMove

/-- The words of the steward: a master that R359 does not list, or of a kind that the word does not take, is noted as BOUNDS;
SVSAVE writes the record of a held or frozen hart and marks it saved, SVREST reads it back, SLREPLAY makes its pass and counts
what stays, TLBINV drops translations, HFREEZE and HTHAW freeze and thaw a master and read whether it was frozen, ESLOAD loads a
schedule that keeps R207 and names the first entry that breaks it, ESTEP counts, and SRET ends the routine, and disposes of the
hart that its event holds by sdisp: at once where that hart is in its slot, else when it comes back to it (R355 to R369). The
causes of the SUPV words' own failures are the model's readings (log 48), as is a disposition of a hart that is away (log 37).
-/
def Obligations.StewardWordsTakeEffect : Prop :=
  ∀ (s : State) (core : CoreId), s.cur = .steward core →
    let u := s.due
    (∀ i a, ((∃ d b, i = .svsave d a b ∨ i = .svrest d a b ∨ i = .hfreeze d a b) ∨ (∃ d, i = .slreplay d a ∨ i = .hthaw d a)) →
      s.Ready i → (∀ k id, masterOf u core (u.rx a) = some (k, id) →
        match i with
        | .hfreeze .. => k = 3 ∨ k = 4
        | .hthaw .. => k = 3 ∨ k = 4
        | .slreplay .. => k = 1 ∨ k = 2
        | _ => k ≠ 0) → exec i s = .next (u.trapped 0x08 (u.rx a))) ∧
    (∀ a id, masterOf u core (u.rx a) = some (0, id) →
      let h := hartOfMaster core ((u.rx a).setWidth 16)
      let t := u.hart h
      let was := t.frozen || t.held.any Held.frozen
      let fits := fun (b : Reg) => (u.rx b).toNat % 64 = 0 ∧ (u.rx b).toNat < 2 ^ 60
      (∀ i d b, i = .svsave d a b ∨ i = .svrest d a b → s.Ready i →
        ((u.rx b).toNat % 64 ≠ 0 → exec i s = .next (u.trapped 0x05 (u.rx b))) ∧
        ((u.rx b).toNat % 64 = 0 → 2 ^ 60 ≤ (u.rx b).toNat → exec i s = .next (u.trapped 0x07 (u.rx b)))) ∧
      (∀ d b, s.Ready (.svsave d a b) → fits b →
        (t.held = none → t.frozen = false → exec (.svsave d a b) s = .next (u.trapped 0x08 (u.rx a))) ∧
        (t.held ≠ none ∨ t.frozen = true → t.transfersDone = false → exec (.svsave d a b) s = .next u)) ∧
      (∀ d b w, s.Ready (.svsave d a b) → fits b → t.held ≠ none ∨ t.frozen = true → t.transfersDone = true →
        let bytes := u.hartRecord (clusterOfHart h) (slotOfHart h) ((u.launchesOf t.ctx).findIdx fun e => decide (e.1 = t.launch)) t
        u.stewardStore core (u.rx b) (bytes.map some) = .ok () w →
        exec (.svsave d a b) s = .next ((w.modHart h fun t => { t with saved := true, kept := true }).resultAt d (BitVec.ofNat 64 bytes.length)
          (w.now + 64 + (bytes.length + 127) / 128)).retired) ∧
      (∀ d b, s.Ready (.svrest d a b) → fits b → t.kept = false → exec (.svrest d a b) s = .next (u.trapped 0x08 (u.rx a))) ∧
      (∀ d b head w bytes y, s.Ready (.svrest d a b) → fits b → t.kept = true → u.stewardLoad core (u.rx b) 2048 = .ok head w →
        let cols := Claims.fieldAt head 656 8 / 512 % 1024
        let n := 0x3000 + cols * 2048 + 160 * Claims.fieldAt head 1296 8 + 72 * Claims.fieldAt head 1292 4
        head.length = 2048 → w.stewardLoad core (u.rx b) n = .ok bytes y →
        let z := y.modHart h fun t => { t.ofRecord y.now bytes with saved := false }
        exec (.svrest d a b) s = .next (((z.loadColumns (clusterOfHart h) (slotOfHart h) (z.hart h).colbase cols
          ((bytes.drop 2048).take (10240 + cols * 2048))).resultAt d 0 (y.now + 64 + (n + 127) / 128)).retired)) ∧
      (∀ d kept w, s.Ready (.slreplay d a) → replay SideEntry.words (State.replaySide h) u [] [] t.sideLog = some (kept, w) →
        exec (.slreplay d a) s = .next ((w.modHart h fun t => { t with sideLog := kept }).resultAt d (BitVec.ofNat 64 kept.length)
          (w.now + 1 + 4 * t.sideLog.length)).retired) ∧
      (∀ d b, s.Ready (.hfreeze d a b) → (u.rx b) = 0 → ∃ w : State,
        exec (.hfreeze d a b) s = .next (w.resultAt d (if was then 1 else 0) (s.now + 1)).retired ∧ (w.hart h).frozen = true ∧
        (∀ g, g ≠ h → w.hart g = u.hart g) ∧ w.mem = s.mem) ∧
      (∀ d b, s.Ready (.hfreeze d a b) → 1 < (u.rx b).toNat → exec (.hfreeze d a b) s = .next (u.trapped 0x08 (u.rx b))) ∧
      (∀ d, s.Ready (.hthaw d a) → exec (.hthaw d a) s =
        .next ((u.modHart h fun t => if was = true ∧ t.held = none then
            { t with held := none, frozen := false, saved := false, kept := false, overdue := none,
                     sc := { t.sc with nextIssue := max t.sc.nextIssue (s.now + 8) } }
          else { t with frozen := false, held := t.held.map fun (e : Held) => { e with frozen := false } }).resultAt d (if was then 1 else 0) (s.now + 1)).retired)) ∧
    (∀ a k ctx, masterOf u core (u.rx a) = some (k, ctx) → k = 1 ∨ k = 2 →
      let list := fun (v : CoreState) => if k = 1 then v.copyFrozen else v.matFrozen
      let was := (list (u.core core)).contains ctx
      (∀ d b, s.Ready (.hfreeze d a b) → u.rx b = 0 → ∃ w : State,
        exec (.hfreeze d a b) s = .next (w.resultAt d (if was then 1 else 0) (s.now + 1)).retired ∧ ctx ∈ list (w.core core) ∧
        (∀ x, x ∈ list (u.core core) → x ∈ list (w.core core)) ∧ w.mem = s.mem ∧ w.harts = u.harts) ∧
      (∀ d, s.Ready (.hthaw d a) → (k = 2 → (u.core core).drainRow = none) → ∃ w : State,
        exec (.hthaw d a) s = .next (w.resultAt d (if was then 1 else 0) (s.now + 1)).retired ∧
        list (w.core core) = (list (u.core core)).filter (fun x => decide (x ≠ ctx)) ∧ { w with cores := u.cores } = u ∧
        (k = 2 → (w.core core).frozenMmas = (u.core core).frozenMmas.filter (fun e => decide (e.ctx ≠ ctx)) ∧
          ∀ e ∈ (u.core core).frozenMmas, e.ctx = ctx → e ∈ (w.core core).queue))) ∧
    (∀ d a n, masterOf u core (u.rx a) = some (4, n) → s.Ready (.slreplay d a) → ∃ w : State,
      exec (.slreplay d a) s = .next (w.resultAt d 0 (s.now + 1)).retired ∧ { w with cores := u.cores } = u ∧
      ∀ c ∈ (w.core core).chains, ∀ x ∈ c.cmds, ∀ va, x.stage ≠ .parked n va) ∧
    (∀ d a kept w, masterOf u core (u.rx a) = some (3, 0) → s.Ready (.slreplay d a) →
      replay DrainEntry.words (State.replayDrain core) u [] [] (u.core core).drainLog = some (kept, w) →
      exec (.slreplay d a) s = .next (((w.noteStored core ((u.core core).drainLog.filter fun e => !kept.contains e)).modCore core fun v =>
          { v with drainLog := kept }).resultAt d (BitVec.ofNat 64 kept.length)
        (w.now + 1 + 4 * (u.core core).drainLog.length)).retired) ∧
    (∀ d a w l, s.Ready (.tlbinv d a) → (u.rx a).toNat % 32 = 0 → (u.rx a).toNat < 2 ^ 60 → u.stewardLoad core (u.rx a) 32 = .ok l w →
      l.length = 32 → s.lineOwners = [] → w.lineOwners = [] →
      let flags := Claims.fieldAt l 0 8
      let base := Claims.fieldAt l 8 8
      let len := Claims.fieldAt l 16 8
      let who := if flags / 2 ^ 12 % 2 = 1 then none else some (flags % 2 ^ 12)
      flags < 2 ^ 14 → Claims.fieldAt l 24 8 = 0 → base % 65536 = 0 → len % 65536 = 0 →
      exec (.tlbinv d a) s = .next (((if flags / 2 ^ 13 = 1 then w.shootDown who 0 (2 ^ 51) else w.shootDown who base len).resultAt d 0
        (w.now + 400)).delay (w.now + 400)).retired) ∧
    (∀ d a b, s.Ready (.esload d a b) →
      (1024 < (u.rx b).toNat → exec (.esload d a b) s = .next (u.trapped 0x08 (u.rx b))) ∧
      (u.rx b = 0 → (u.rx a).toNat % 16 = 0 → exec (.esload d a b) s =
        .next ((u.modPair (pairOfCore core) fun p => { p with schedule := [], stepCount := 0 }).resultAt d 0 (s.now + 1)).retired) ∧
      ((u.rx b).toNat ≤ 1024 → (u.rx a).toNat % 16 ≠ 0 → exec (.esload d a b) s = .next (u.trapped 0x05 (u.rx a))) ∧
      (∀ l w, 1 ≤ (u.rx b).toNat → (u.rx b).toNat ≤ 1024 → (u.rx a).toNat % 16 = 0 →
        u.stewardLoad core (u.rx a) (16 * (u.rx b).toNat) = .ok l w → w.cur = .steward core →
        let es : List (BitVec 128) := (List.range (u.rx b).toNat).map fun i => BitVec.ofNat 128 (Claims.fieldAt l (16 * i) 16)
        ((∀ e ∈ es, scheduleBroken e = false) → exec (.esload d a b) s =
          .next ((w.modPair (pairOfCore core) fun p => { p with schedule := es, stepCount := 0 }).resultAt d 0 (w.now + 1)).retired) ∧
        (∀ i, es.findIdx? scheduleBroken = some i →
          exec (.esload d a b) s = .next (w.resultAt d (BitVec.ofNat 64 (i + 1)) (w.now + 1)).retired))) ∧
    (∀ d, s.Ready (.estep d) →
      let n := min 65535 ((u.pair (pairOfCore core)).stepCount.toNat + 1)
      exec (.estep d) s = .next ((u.modPair (pairOfCore core) fun p => { p with stepCount := BitVec.ofNat 16 n }).resultAt d
        (BitVec.ofNat 64 n) (s.now + 1)).retired) ∧
    (∀ e rest, s.Ready .sret → (u.core core).steward.events = e :: rest →
      let w := u.modSteward core fun w => { w with running := false, events := rest }
      let st := (u.core core).steward
      let h := hartOfMaster core e.master
      (e.kind ≠ 1 → exec .sret s = .next w.retired) ∧
      (e.kind = 1 → st.sdisp = 3 → exec .sret s = .next (u.trapped 0x01 (s.ir.setWidth 64))) ∧
      (e.kind = 1 → st.sdisp ≠ 3 →
        let its := fun (t : Hart) => decide (t.ctx = e.ctx ∧ some (t.launch, t.team) = e.who) && t.held.isSome
        let t := u.hart h
        let here := u.resident h = true ∧ its t = true
        (here → st.sdisp = 0 → t.saved = false → exec .sret s = .next (w.modHart h fun t =>
          { t with held := none, saved := false, kept := t.frozen && t.kept, overdue := none,
                   sc := { t.sc with nextIssue := max t.sc.nextIssue (s.now + 8) } }).retired) ∧
        (here → st.sdisp = 2 ∨ t.saved = true ∨ st.sdisp = 1 ∧ (t.csr.inh = true ∨ t.csr.tvec = 0) →
          exec .sret s = .next (w.failHart h 5).retired) ∧
        (here → st.sdisp = 1 → t.saved = false → t.csr.inh = false → t.csr.tvec ≠ 0 → ∃ y : State, exec .sret s = .next y.retired ∧
          (y.hart h).sc.pc = t.csr.tvec ∧ (y.hart h).held = none ∧ (y.hart h).csr.inh = true ∧
          (y.hart h).csr.tepc = st.sevpc ∧ (y.hart h).csr.tval = st.sevv ∧
          (y.hart h).csr.tcause = BitVec.ofNat 64 st.sevx.toNat) ∧
        (¬ here → exec .sret s = .next (w.modAway h e.ctx fun t => if its t then
          { t with disposed := some (t.disposition st.sdisp.toNat, { cause := st.sevx.toNat, value := st.sevv, addr := st.sevpc }) }
          else t).retired)))

/-! ## Chapter 12: the copy engine and the command chains -/

namespace Sys2Proof.Claims

/-- A command that is alone on its chain, in an execution slot, and may take its next step. -/
def alone (s : State) (core : CoreId) (i : Fin 17) (k : Cmd) : Prop :=
  (s.chain core i).cmds = [k] ∧ s.chainRuns core i = true ∧ k.stage = .running ∧ k.finished = false ∧ k.ready ≤ s.now

/-- The event that carries a chain's commands of an opcode on (R276). -/
def carries (core : CoreId) (chain op : Nat) (v : Instr) : Prop :=
  (op = 1 ∧ v = .copy core chain) ∨ (op = 2 ∧ v = .gather core chain) ∨ (op = 3 ∧ v = .scatter core chain) ∨
  (op = 4 ∧ v = .fill core chain) ∨ (op = 5 ∧ v = .migrate core chain) ∨ (op = 6 ∧ v = .marker core chain) ∨
  (op = 7 ∧ v = .mmaf core chain) ∨ (op = 8 ∧ v = .coll core chain) ∨ (op = 9 ∧ v = .launch core chain)

/-- What a running command of an opcode does in a step. -/
def stepOf (op : Nat) : CoreId → Fin 17 → State → Cmd → Option State :=
  if op = 5 then State.migrateStep else if op = 7 then State.mmafStep else if op = 8 then State.collStep
  else if op = 9 then State.launchStep else State.moveStep

/-- Bytes lo to lo + n - 1 of a record. -/
def recordBytes (r : BitVec 512) (lo n : Nat) : Nat := r.toNat / 2 ^ (8 * lo) % 2 ^ (8 * n)

/-- The addresses of a move, byte by byte. -/
def byteMoves (ps : List Piece) : List (Dword × Dword) :=
  ps.flatMap fun p => (List.range p.len).map fun b => (p.src + BitVec.ofNat 64 b, p.dst + BitVec.ofNat 64 b)

end Sys2Proof.Claims

/-- The start of a command of each opcode: the oldest command of the only chain that has one takes a free execution slot, in
the round-robin order, one a cycle, with the windows of its team or, of the host, of the oldest team of its context, and reads its
record in the same step, or does not start where that step cannot be made; a command of a chain that may not run or whose copy work is frozen, or whose cycle has not come, stays
(R276, R284, 09 R201, 17 R363). -/
def Sys2Proof.Parts.CommandsStartInTheirSlot : Prop :=
  ∀ (s : State) (core : CoreId) (i : Fin 17) (k : Cmd) (v : Instr), (s.chain core i).cmds = [k] → k.stage = .queued →
    k.cbdst = false → Claims.carries core i k.op v → (∀ j, j ≠ i → (s.chain core j).cmds = []) →
    let now := s.chainRuns core i = true ∧ (s.chain core i).owner ∉ (s.core core).copyFrozen ∧ k.ready ≤ s.now ∧
      (s.core core).nextStart ≤ s.now
    let team := if k.hart.isSome || i == 16 then k.team else s.oldestTeam core (s.chain core i).owner
    (now → ∃ t e, exec v s = .next ((Claims.stepOf k.op core i t e).getD s) ∧ (t.chain core i).cmds = [e] ∧
      e.stage = .running ∧ e.ready = s.now ∧ e.begun = s.now ∧ e.seq = k.seq ∧ e.op = k.op ∧ e.at_ = k.at_ ∧ e.read = k.read ∧
      e.team = team ∧ e.window = (match team with
        | some t => s.teamWindow t.1 t.2
        | none => ((0, 0), (0, 0))) ∧
      (t.core core).chainTurn = (i.val + 1) % 17 ∧ (t.core core).nextStart = s.now + 1 ∧ { t with cores := s.cores } = s) ∧
    (¬ now → exec v s = .next s)

/-- A move of a piece reads the source line that holds it, of 128 bytes or in A-space of one row, unless that is the line read last, and writes the piece's bytes, those of FILL
from its pattern; the accesses of arrays take a window of them, wait for it, and end with status 4 where the cluster is fenced; a
source line read as poison is written on as poison (R287, R289, 09 R203, 11 R265, 17 R366). -/
def Sys2Proof.Parts.PiecesMoveThroughTheirLine : Prop :=
  ∀ (s : State) (r : Reach) (o : CoreId × Nat × BitVec 32) (pattern : Option Dword) (held : Option LineBuf) (p : Piece),
    let size := if p.src.toNat / 2 ^ 60 = 10 then 64 else 128
    let line : Dword := BitVec.ofNat 64 (p.src.toNat / size * size)
    let kept := pattern = none ∧ ∃ b, held = some b ∧ b.addr = line
    let ranges := (if pattern = none ∧ ¬ kept then [(line, size)] else []) ++ [(p.dst, p.len)]
    let fenced := ∃ q ∈ ranges, ∃ c ∈ arraysOf r.core q.1 q.2, (s.cluster c).fenced = true
    let windows := s.windowsFor r.core r.unit (ranges.flatMap fun q => rowsOf q.1 q.2)
    (fenced → s.movePiece r o pattern held p = .fail 4 s) ∧
    (¬ fenced → windows = none → s.movePiece r o pattern held p = .wait) ∧
    (∀ w, ¬ fenced → windows = some w →
      (∀ v y, pattern = some v →
        w.writeOpen r o p.dst ((List.range p.len).map fun j => some (v.extractLsb' (8 * ((p.src.toNat + j) % 8)) 8)) false = .ok () y →
        s.movePiece r o pattern held p = .ok none y) ∧
      (∀ b y, pattern = none → held = some b → b.addr = line →
        w.writeOpen r o p.dst (((b.bytes.drop (p.src.toNat % size)).take p.len).map some) b.poisoned = .ok () y →
        s.movePiece r o pattern held p = .ok (some b) y) ∧
      (∀ g x y, pattern = none → ¬ kept → w.readOpen r o line size = .ok g x →
        x.writeOpen r o p.dst (((g.bytes.drop (p.src.toNat % size)).take p.len).map some) g.poisoned.isSome = .ok () y →
        s.movePiece r o pattern held p = .ok (some { addr := line, bytes := g.bytes, poisoned := g.poisoned.isSome }) y))

/-- The copy engine reads a command's record once and checks it: the opcode's bytes for status 1, then its ranges, then CREC
(R284); COPY and FILL then move the pieces of a range one after the other, GATHER and SCATTER read batches of eight indices, at most
four in flight, and move the pieces of a row for each, where an index out of range gives zeros or nothing and counts; a poisoned line or
row is counted once and gives status 4; GATHER's rows land from 180 cycles later on; a command whose last piece has moved is
finished (R287 to R289, R292, R293). -/
def Sys2Proof.Parts.CopyEngineMovesItsCommands : Prop :=
  (∀ (s w : State) (core : CoreId) (i : Fin 17) (k : Cmd) (v : Instr) (g : Got), Claims.alone s core i k →
    Claims.carries core i k.op v → k.read = false → k.cbdst = false → k.cbSlot = none →
    (k.op = 1 ∨ k.op = 2 ∨ k.op = 3 ∨ k.op = 4 ∨ k.op = 6) → k.status = 0 →
    s.engineRead (s.cmdReach core i k) (ownerOf core i k) k.at_ 64 = .ok g w → g.poisoned = none →
    w.chain core i = s.chain core i →
    let r : BitVec 512 := bitsOfBytes 512 g.bytes
    let reach := w.cmdReach core i k
    let own := if recordBroken k.op false r (k.dstField r) then 1 else reach.rangeStatus k.op r (k.dstField r) 0
    let status := if own ≠ 0 then own else reach.crecStatus (recordAddr r 56)
    let e' := { k with record := r, crec := recordAddr r 56, read := true }
    let z := w.modCmd core i k.seq fun _ => e'
    (status ≠ 0 ∨ k.op = 6 → ∃ t e, exec v s = .next t ∧ (t.chain core i).cmds = [e] ∧
      e.record = r ∧ e.read = true ∧ e.crec = recordAddr r 56 ∧ e.seq = k.seq ∧ e.status = status ∧ e.errors = k.errors ∧
      e.finished = true ∧ e.noRecord = decide (reach.crecStatus (recordAddr r 56) ≠ 0) ∧ t.mem = w.mem) ∧
    (status = 0 → k.op ≠ 6 →
      (z.ownLeft core i e' = none → exec v s = .next z) ∧ (z.chain core i).cmds = [e'] ∧
      (∀ t, z.ownLeft core i e' = some t → exec v s = .next t ∧ (t.chain core i).cmds = [e'] ∧ t.mem = w.mem))) ∧
  (∀ (s u y : State) (core : CoreId) (i : Fin 17) (k : Cmd) (v : Instr) (p : Piece) (ps : List Piece) (line : Option LineBuf),
    Claims.alone s core i k → Claims.carries core i k.op v → k.read = true → k.op = 1 ∨ k.op = 4 →
    (if k.op = 1 then copyPieces k.record k.base else fillPieces k.record k.base).drop k.pos = p :: ps →
    s.ownLeft core i k = some u →
    u.movePiece (u.cmdReach core i k) (ownerOf core i k) (if k.op = 4 then some (recordAddr k.record 32) else none) k.held p = .ok line y →
    y.chain core i = s.chain core i →
    let bad := ∃ b, line = some b ∧ b.poisoned = true ∧ k.held.map LineBuf.addr ≠ some b.addr
    ∃ t e, exec v s = .next t ∧ (t.chain core i).cmds = [e] ∧
      e.seq = k.seq ∧ e.pos = k.pos + 1 ∧ e.finished = decide (ps = []) ∧ e.ready = y.now + (if ps = [] then 6 else 1) ∧
      e.held = (if ps = [] then none else line) ∧
      (bad → e.errors = k.errors + 1 ∧ e.status = if k.status = 0 then 4 else k.status) ∧
      (¬ bad → e.errors = k.errors ∧ e.status = k.status) ∧
      t.mem = y.mem ∧ t.rows = y.rows ∧ t.poison = y.poison) ∧
  (∀ (s w : State) (core : CoreId) (i : Fin 17) (k : Cmd) (v : Instr) (g : Got), Claims.alone s core i k →
    Claims.carries core i k.op v → k.read = true → k.halting = false → k.op = 2 ∨ k.op = 3 → 8 * k.pos < rowCount k.record → k.batches.length < 4 →
    let n := min 8 (rowCount k.record - 8 * k.pos)
    let width := recordField k.record 52 1
    s.engineRead (s.cmdReach core i k) (ownerOf core i k) (recordAddr k.record 32 + BitVec.ofNat 64 (8 * k.pos * width)) (n * width) =
      .ok g w → w.chain core i = s.chain core i →
    ∃ t e b, exec v s = .next t ∧ (t.chain core i).cmds = [e] ∧ e.pos = k.pos + 1 ∧ e.ready = w.now + 1 ∧
      e.batches = k.batches ++ [b] ∧ b.first = 8 * k.pos ∧ b.ready = w.now + (if k.op = 2 then 180 else 1) ∧
      b.left = (List.range n).map (fun j => { row := 8 * k.pos + j }) ∧
      (∀ j, j < n → b.index[j]? = some (if g.poisoned.isSome then none
        else some (Claims.littleEndian ((g.bytes.drop (j * width)).take width) % 2 ^ 64))) ∧
      e.status = (if g.poisoned.isSome ∧ k.status = 0 then 4 else k.status) ∧ t.mem = w.mem) ∧
  (∀ (s u : State) (core : CoreId) (i : Fin 17) (k : Cmd) (v : Instr) (b : IndexBatch) (w : RowLeft),
    Claims.alone s core i k → Claims.carries core i k.op v → k.read = true → k.halting = false → k.op = 2 ∨ k.op = 3 →
    rowCount k.record ≤ 8 * k.pos →
    rowCount k.record ≠ 0 → k.batches = [b] → b.left = [w] →
    (s.now < b.ready → exec v s = .next s) ∧
    ((b.row k.record w.row).isSome = true ↔ ∃ x, (b.index[w.row - b.first]?).join = some x ∧ x < recordField k.record 48 4) ∧
    (b.ready ≤ s.now → s.ownLeft core i k = some u →
      let missed := if (b.row k.record w.row).isSome then 0 else 1
      (k.piecesOfRow b w.row = [] → w.moved = 0 → w.held = none → u.chain core i = s.chain core i →
        ∃ t e, exec v s = .next t ∧ (t.chain core i).cmds = [e] ∧ e.finished = true ∧ e.batches = [] ∧ e.status = k.status ∧
          e.errors = k.errors + missed ∧ e.ready = u.now + 6 ∧ t.mem = u.mem) ∧
      (∀ p ps line y, (k.piecesOfRow b w.row).drop w.moved = p :: ps →
        u.movePiece (u.cmdReach core i k) (ownerOf core i k) (if missed = 0 then none else some 0) w.held p = .ok line y →
        y.chain core i = s.chain core i →
        let bad := ∃ l, line = some l ∧ l.poisoned = true
        ∃ t e, exec v s = .next t ∧ (t.chain core i).cmds = [e] ∧ t.mem = y.mem ∧ t.rows = y.rows ∧ t.poison = y.poison ∧
          (ps = [] → e.finished = true ∧ e.batches = [] ∧ e.ready = y.now + 6) ∧
          (ps ≠ [] → e.finished = false ∧ e.ready = y.now + 1 ∧ ∃ x, e.batches = [{ b with left := [x] }] ∧ x.row = w.row ∧
            x.moved = w.moved + 1 ∧ x.held = line) ∧
          (¬ bad → e.status = k.status ∧ e.errors = k.errors + (if ps = [] then missed else 0)) ∧
          (bad → e.status = (if k.status = 0 then 4 else k.status) ∧
            e.errors = k.errors + (if w.spoilt then 0 else 1) + (if ps = [] then missed else 0)))))

/-- A move of a piece reads the source line that holds it, of 128 bytes or in A-space of one row, unless that is the line read
last, and writes the piece's bytes, those of FILL from its pattern; the accesses of arrays take a window of them, wait for it,
and end with status 4 where the cluster is fenced; a source line read as poison is written on as poison (R287, R289, 09 R203, 11
R265, 17 R366). The copy engine reads a command's record once and checks it: the opcode's bytes for status 1, then its ranges,
then CREC (R284); COPY and FILL then move the pieces of a range one after the other, GATHER and SCATTER read batches of eight
indices, at most four in flight, and move the pieces of a row for each, where an index out of range gives zeros or nothing and
counts; a poisoned line or row is counted once and gives status 4; GATHER's rows land from 180 cycles later on; a command whose
last piece has moved is finished (R287 to R289, R292, R293). The order of a record's checks is log 28, the pace of the pieces
log 29, and what poison leaves log 23: the model's choices. -/
def Obligations.CopyEngineMovesItsPieces : Prop := Parts.PiecesMoveThroughTheirLine ∧ Parts.CopyEngineMovesItsCommands

/-- The pieces of a row of GATHER or SCATTER: between the table row that its index names and packed row i, which lies in one run, or with
DLAY 1 in chunks of 64 bytes one array after the other; of an index that names no row GATHER writes the packed row alone, with zeros,
and SCATTER nothing (R288). -/
def Sys2Proof.Parts.RowsMoveByTheirIndex : Prop :=
  ∀ (k : Cmd) (b : IndexBatch) (i : Nat), k.op = 2 ∨ k.op = 3 →
    let bytes := Claims.recordBytes k.record 44 4
    let table := fun (x : Nat) => recordAddr k.record 16 + BitVec.ofNat 64 (x * bytes)
    let chunks : List (Dword × Nat × Nat) := if Claims.recordBytes k.record 53 1 = 0 then [(k.base + BitVec.ofNat 64 (i * bytes), bytes, 0)]
      else (List.range (bytes / 64)).map fun c => (k.base + BitVec.ofNat 64 (c * 65536 + i * 64), 64, 64 * c)
    let index := (b.index[i - b.first]?).join
    (∀ x, index = some x → x < Claims.recordBytes k.record 48 4 → k.piecesOfRow b i = chunks.flatMap fun c =>
      if k.op = 2 then pieces (table x + BitVec.ofNat 64 c.2.2) c.1 c.2.1 else pieces c.1 (table x + BitVec.ofNat 64 c.2.2) c.2.1) ∧
    ((∀ x, index = some x → Claims.recordBytes k.record 48 4 ≤ x) →
      (k.op = 2 → k.piecesOfRow b i = chunks.flatMap fun c => pieces c.1 c.1 c.2.1) ∧ (k.op = 3 → k.piecesOfRow b i = []))

/-- The pieces that a contiguous move is cut into lie within one line of the source and of the destination each, and move every
byte of the range once, in order; COPY moves its rows one after the other, and FILL fills its range with the bytes of its
pattern in turn (R287). -/
def Sys2Proof.Parts.PiecesCoverTheirRange : Prop :=
  (∀ (src dst : Dword) (n : Nat),
    Claims.byteMoves (pieces src dst n) = (List.range n).map (fun b => (src + BitVec.ofNat 64 b, dst + BitVec.ofNat 64 b)) ∧
    ∀ p ∈ pieces src dst n, 0 < p.len ∧ p.dst.toNat % 128 + p.len ≤ 128 ∧
      (let size := if p.src.toNat / 2 ^ 60 = 10 then 64 else 128; p.src.toNat % size + p.len ≤ size)) ∧
  (∀ (r : BitVec 512) (base : Dword),
    Claims.byteMoves (copyPieces r base) =
      (List.range (if Claims.recordBytes r 32 4 = 0 then 0 else Claims.recordBytes r 36 4)).flatMap fun j =>
        (List.range (Claims.recordBytes r 32 4)).map fun b =>
          (BitVec.ofNat 64 (Claims.recordBytes r 16 8 + j * Claims.recordBytes r 40 8 + b),
            base + BitVec.ofNat 64 (j * Claims.recordBytes r 48 8 + b))) ∧
  (∀ (r : BitVec 512) (base : Dword),
    (fillPieces r base).flatMap (fun p => (List.range p.len).map fun b => (p.dst + BitVec.ofNat 64 b, (p.src.toNat + b) % 8)) =
      (List.range (Claims.recordBytes r 24 8)).map fun b => (base + BitVec.ofNat 64 b, b % 8))

/-- The pieces of a row of GATHER or SCATTER: between the table row that its index names and packed row i, which lies in one
run, or with DLAY 1 in chunks of 64 bytes one array after the other; of an index that names no row GATHER writes the packed row
alone, with zeros, and SCATTER nothing (R288). The pieces that a contiguous move is cut into lie within one line of the source
and of the destination each, and move every byte of the range once, in order; COPY moves its rows one after the other, and FILL
fills its range with the bytes of its pattern in turn (R287). -/
def Obligations.RowsAndPiecesCoverTheirRange : Prop := Parts.RowsMoveByTheirIndex ∧ Parts.PiecesCoverTheirRange

/-- MIGRATE on any chain but the system chain ends with status 8; on it, a record with a context of 0, or one that is not VALID,
or with a misaligned page or frame, ends with status 1, and one that is in order with status 0 where the page moves and 6 where
it does not; a page that moved leaves no translation of its context in the TLBs (R222, R224, R225, R285, R287). MMAF puts its
entry at the end of the matrix queue, with the masks and the mode of its record, or ends with the status of the check that
fails, and waits with its record read while the queue is full; one that follows a failed command ends with that command's status
(R291). MIGRATE's statuses are the model's reading (log 29), as is the entry of an MMAF (log 35). -/
def Obligations.MigrateAndMmafFollowTheirRecords : Prop :=
  (∀ (s w : State) (core : CoreId) (i : Fin 17) (k : Cmd) (g : Got), Claims.alone s core i k → k.op = 5 → k.status = 0 → k.read = false →
    s.engineRead (s.cmdReach core i k) (ownerOf core i k) k.at_ 64 = .ok g w → g.poisoned = none →
    w.chain core i = s.chain core i →
    let r : BitVec 512 := bitsOfBytes 512 g.bytes
    let va := recordAddr r 16
    let dst := Claims.recordBytes r 24 8
    let ctx := Claims.recordBytes r 32 2
    let crec := recordAddr r 56
    let reach := w.cmdReach core i k
    let broken := Claims.recordBytes r 34 22 ≠ 0 ∨ va.toNat % 65536 ≠ 0 ∨ dst % 65536 ≠ 0 ∨ ctx = 0 ∨ 4095 < ctx ∨ w.ctxValid ctx = false
    let z := w.modCmd core i k.seq fun k => { k with record := r, crec := crec, read := true }
    let ends := fun (status : Nat) => ∃ t e, exec (.migrate core i) s = .next t ∧ (t.chain core i).cmds = [e] ∧ e.seq = k.seq ∧
      e.finished = true ∧ e.status = status
    (i ≠ 16 → ends 8) ∧
    (i = 16 → broken → ends 1) ∧
    (i = 16 → ¬ broken → (z.cmdReach core i k).status .store va 65536 ≠ 0 → ends ((z.cmdReach core i k).status .store va 65536)) ∧
    (i = 16 → ¬ broken → (z.cmdReach core i k).status .store va 65536 = 0 → reach.crecStatus crec ≠ 0 → ends (reach.crecStatus crec)) ∧
    (i = 16 → ¬ broken → (z.cmdReach core i k).status .store va 65536 = 0 → reach.crecStatus crec = 0 →
      (z.migratePage core ctx va.toNat dst = none → exec (.migrate core i) s = .next z) ∧
      ∀ ok y, z.migratePage core ctx va.toNat dst = some (ok, y) → y.chain core i = z.chain core i →
        ends (if ok then 0 else 6) ∧ ∃ t, exec (.migrate core i) s = .next t ∧ t.mem = y.mem ∧ t.tlb = y.tlb)) ∧
  (∀ (s : State) (core : CoreId) (i : Fin 17) (k : Cmd), Claims.alone s core i k → k.op = 5 → k.status = 0 → k.read = true →
    let move := s.migratePage core (Claims.recordBytes k.record 32 2) (recordAddr k.record 16).toNat (Claims.recordBytes k.record 24 8)
    (move = none → exec (.migrate core i) s = .next s) ∧
    (∀ ok y, move = some (ok, y) → y.chain core i = s.chain core i → ∃ t e, exec (.migrate core i) s = .next t ∧
      (t.chain core i).cmds = [e] ∧ e.finished = true ∧ e.status = (if ok then 0 else 6) ∧ t.mem = y.mem ∧ t.tlb = y.tlb)) ∧
  (∀ (s y : State) (core : CoreId) (ctx va dst : Nat), s.migratePage core ctx va dst = some (true, y) →
    ∀ e ∈ y.tlb, e.global = false → e.ctx = ctx → ¬ (e.base < va + 65536 ∧ va < e.base + e.size)) ∧
  (∀ (s w : State) (core : CoreId) (i : Fin 17) (k : Cmd) (g : Got), Claims.alone s core i k → k.op = 7 → k.status = 0 →
    (k.following = true → k.inherited ≠ 0 → ∃ t e, exec (.mmaf core i) s = .next t ∧ (t.chain core i).cmds = [e] ∧
      e.finished = true ∧ e.status = k.inherited ∧ (t.core core).queue = (s.core core).queue) ∧
    (k.following = false ∨ k.inherited = 0 → k.read = true → 8 ≤ (s.core core).queue.length → exec (.mmaf core i) s = .next s) ∧
    (k.following = false ∨ k.inherited = 0 → k.read = true → (s.core core).queue.length < 8 →
      ∃ (t : State) (e : Cmd) (n : MatEntry), exec (.mmaf core i) s = .next t ∧ (t.core core).queue = (s.core core).queue ++ [n] ∧
        (t.chain core i).cmds = [e] ∧ e.stage = .handed ∧ e.finished = false ∧ n.load = false ∧ n.source = .command i k.seq ∧
        n.addr = recordAddr k.record 16 ∧ n.m = Claims.recordBytes k.record 32 2 ∧ n.rm = k.rm ∧ t.mem = s.mem) ∧
    (k.following = false ∨ k.inherited = 0 → k.read = false →
      s.engineRead (s.cmdReach core i k) (ownerOf core i k) k.at_ 64 = .ok g w → g.poisoned = none →
      w.chain core i = s.chain core i →
      let r : BitVec 512 := bitsOfBytes 512 g.bytes
      let a := recordAddr r 16
      let c := recordAddr r 24
      let m := Claims.recordBytes r 32 2
      let latch := Claims.recordBytes r 34 1
      let slot := Claims.recordBytes r 35 1
      let flags := Claims.recordBytes r 36 1
      let crec := recordAddr r 56
      let z := w.modCmd core i k.seq fun k =>
        { k with record := r, crec := crec, read := true }
      let reach := { w.cmdReach core i k with kind := .matrix, unit := Agency.unit .matrix }
      let fits := 1 ≤ m ∧ m ≤ 256 ∧ latch ≤ 1 ∧ slot ≤ 31 ∧ flags ≤ 3 ∧ Claims.recordBytes r 37 3 = 0
      let fault := z.mmaFault core reach latch slot a c m
      let ends := fun (status : Nat) => ∃ t e, exec (.mmaf core i) s = .next t ∧ (t.chain core i).cmds = [e] ∧ e.seq = k.seq ∧
        e.finished = true ∧ e.status = status ∧ (t.core core).queue = (w.core core).queue
      (¬ fits → ends 1) ∧
      (∀ e, fits → fault = some e → ends e.2.2) ∧
      (fits → fault = none → (w.cmdReach core i k).crecStatus crec ≠ 0 → ends ((w.cmdReach core i k).crecStatus crec)) ∧
      (fits → fault = none → (w.cmdReach core i k).crecStatus crec = 0 → 8 ≤ (w.core core).queue.length → exec (.mmaf core i) s = .next z) ∧
      (fits → fault = none → (w.cmdReach core i k).crecStatus crec = 0 → (w.core core).queue.length < 8 →
        ∃ (t : State) (e : Cmd) (n : MatEntry), exec (.mmaf core i) s = .next t ∧ (t.core core).queue = (w.core core).queue ++ [n] ∧
          (t.chain core i).cmds = [e] ∧ e.stage = .handed ∧ e.finished = false ∧
          n.load = false ∧ n.ctx = (s.chain core i).owner ∧ n.source = .command i k.seq ∧ n.latch = latch ∧ n.addr = a ∧
          n.cAddr = c.toNat % 2 ^ 60 ∧ n.m = m ∧ n.slot = slot ∧ n.acc = decide (flags % 2 = 1) ∧
          n.masked = decide (2 ≤ flags) ∧ n.outMask = recordAddr r 48 ++ recordAddr r 40 ∧ n.rm = k.rm ∧ t.mem = w.mem)))

/-- COMMAND_COMPLETION: the finished command at the head of a chain whose cycle has come completes: with SIGNAL and a CREC, its
16-byte record of status, error count and sequence number is written first; DONESEQ advances over it, the chain's error bit
gathers its status, and its lines are given up (R273, R284, R286); nothing happens before its cycle or while its chain may not
run. -/
def Sys2Proof.Parts.CompletionAdvancesDoneseq : Prop :=
  ∀ (s : State) (core : CoreId) (i : Fin 17) (k : Cmd), (s.chain core i).cmds = [k] → k.finished = true →
    k.stage = .running ∨ k.stage = .handed → k.cbSlot = none →
    let c := s.chain core i
    let due := k.ready ≤ s.now ∧ s.chainRuns core i = true
    let retired := fun (t : State) => (t.chain core i).cmds = [] ∧ (t.chain core i).doneSeq = c.doneSeq + 1 ∧
      (t.chain core i).err = (c.err || decide (k.status ≠ 0)) ∧ (t.chain core i).appSeq = c.appSeq ∧
      (∀ o ∈ t.lineOwners, o.2 ≠ ownerOf core i k) ∧ (∀ o ∈ t.rowOwners, o.2 ≠ ownerOf core i k)
    (¬ due → exec (.commandCompletion core i) s = .next s) ∧
    (due → k.signal = false ∨ k.crec = 0 ∨ k.noRecord = true →
      ∃ t, exec (.commandCompletion core i) s = .next t ∧ retired t ∧ t.mem = s.mem) ∧
    (∀ w, due → k.signal = true → k.crec ≠ 0 → k.noRecord = false →
      s.engineWrite (s.cmdReach core i k) (ownerOf core i k) k.crec
        ((bytesOfBits (BitVec.ofNat 32 k.status) 4 ++ bytesOfBits (BitVec.ofNat 32 k.errors) 4 ++ bytesOfBits k.seq 4 ++
          [0, 0, 0, 0]).map some) false = .ok () w → w.chain core i = c →
      ∃ t, exec (.commandCompletion core i) s = .next t ∧ retired t ∧ t.mem = w.mem) ∧
    (∀ h, due → k.signal = true → k.crec = 0 → k.hart = some h → s.resident h = true →
      k.team = some ((s.hart h).launch, (s.hart h).team) →
      ∃ t, exec (.commandCompletion core i) s = .next t ∧
        (((s.hart h).inWfe = false ∨ (s.hart h).runs = false → (t.hart h).eventLatch = true) ∧
          ((s.hart h).inWfe = true → (s.hart h).runs = true → (t.hart h).wait = .none)))

/-- The start of a command of each opcode: the oldest command of the only chain that has one takes a free execution slot, in the
round-robin order, one a cycle, with the windows of its team or, of the host, of the oldest team of its context, and reads its
record in the same step, or does not start where that step cannot be made; a command of a chain that may not run or whose copy
work is frozen, or whose cycle has not come, stays (R276, R284, 09 R201, 17 R363). COMMAND_COMPLETION: the finished command at
the head of a chain whose cycle has come completes: with SIGNAL and a CREC, its 16-byte record of status, error count and
sequence number is written first; DONESEQ advances over it, the chain's error bit gathers its status, and its lines are given up
(R273, R284, R286); nothing happens before its cycle or while its chain may not run. That a start takes its slot and reads its
record in one step is the model's reading (logs 26 and 28). -/
def Obligations.CommandsStartAndComplete : Prop := Parts.CommandsStartInTheirSlot ∧ Parts.CompletionAdvancesDoneseq

/-- The value of an element of a collective for integer types, modulo 2^64 (21 R419). -/
def Sys2Proof.Claims.collValue (op ty root : Nat) (vs : List Dword) : Int :=
  let n := fun (v : Dword) => if ty = 0 then v.toInt else (v.toNat : Int)
  match op, vs with
  | _, [] => 0
  | 0, v :: l => l.foldl (fun a b => a + n b) (n v)
  | 1, v :: l => l.foldl (fun a b => max a (n b)) (n v)
  | 2, v :: l => l.foldl (fun a b => min a (n b)) (n v)
  | _, v :: l => (((v :: l).map n)[root]?).getD 0

/-- COLL: a command reads its record, then its group table, whose every entry must name a core of the domain, and its input, and
takes part once at its own entry; when every participant is there, its output is written, the same at each: the sum, maximum,
minimum or the root's elements in index order; participants that disagree all end with status 7. COLL_TIMEOUT_EXPIRY ends the
participants of a collective that is late with status 7, and a peer's contribution counts as a participant, once, and ends a
collective that no command of the device waits for (21 R418 to R420). When a COLL reads its table and input, and how a peer
counts, are the model's readings (log 50). -/
def Obligations.CollectivesGatherAndAnswer : Prop :=
  (∀ (s w : State) (core : CoreId) (i : Fin 17) (k : Cmd) (g : Got), Claims.alone s core i k → k.op = 8 → k.read = false →
    k.status = 0 → s.engineRead (s.cmdReach core i k) (ownerOf core i k) k.at_ 64 = .ok g w → g.poisoned = none →
    w.chain core i = s.chain core i →
    let r : BitVec 512 := bitsOfBytes 512 g.bytes
    let reach := w.cmdReach core i k
    let broken := collBroken r = true
    ∃ t e, exec (.coll core i) s = .next t ∧ (t.chain core i).cmds = [e] ∧ e.record = r ∧ e.read = true ∧
      (broken → e.finished = true ∧ e.status = 1) ∧
      (¬ broken → 2 ^ 60 ≤ (recordAddr r 40).toNat → e.finished = true ∧ e.status = 3) ∧
      (¬ broken → (recordAddr r 40).toNat < 2 ^ 60 → reach.status .load (recordAddr r 40) (8 * Claims.recordBytes r 39 1) = 0 →
        reach.crecStatus (recordAddr r 56) = 0 → e.finished = false ∧ e.status = 0)) ∧
  (∀ (s w y : State) (core : CoreId) (i : Fin 17) (k : Cmd) (g d : Got), Claims.alone s core i k → k.op = 8 → k.read = true →
    k.status = 0 → s.partOf core i k.seq = none →
    let r := k.record
    let n := Claims.recordBytes r 39 1
    let count := Claims.recordBytes r 32 4
    let size := collSize (Claims.recordBytes r 37 1)
    let own := ownerOf core i k
    let reach := s.cmdReach core i k
    s.engineRead reach own (recordAddr r 40) (8 * n) = .ok g w → g.poisoned = none → w.chain core i = s.chain core i →
    let group : List Dword := (List.range n).map fun j => BitVec.ofNat 64 (Claims.littleEndian ((g.bytes.drop (8 * j)).take 8))
    ((∃ e ∈ group, w.inDomain e = false) → ∃ t e, exec (.coll core i) s = .next t ∧ (t.chain core i).cmds = [e] ∧
      e.finished = true ∧ e.status = 7) ∧
    (∀ j, (∀ e ∈ group, w.inDomain e = true) → w.colls = [] → j < n →
      group[j]? = some (BitVec.ofNat 64 (w.page.devnum.toNat + 8 * core)) →
      (∀ q, q < j → group[q]? ≠ some (BitVec.ofNat 64 (w.page.devnum.toNat + 8 * core))) →
      reach.hStatus .load (recordAddr r 16) (count * size) = 0 → reach.hStatus .store (recordAddr r 24) (count * size) = 0 →
      w.engineRead reach own (recordAddr r 16) (count * size) = .ok d y → d.poisoned = none → y.chain core i = s.chain core i →
      y.colls = [] →
      ∃ t e p, exec (.coll core i) s = .next t ∧ (t.chain core i).cmds = [e] ∧ e.stage = .handed ∧ e.finished = false ∧
        t.colls = [p] ∧ p.cmd = some (core, i.val, k.seq) ∧ p.input.group = group ∧ p.input.index = j ∧
        p.input.tag.toNat = Claims.recordBytes r 48 4 ∧ p.input.op = Claims.recordBytes r 36 1 ∧ p.input.count = count ∧
        p.input.root = Claims.recordBytes r 38 1 ∧ p.input.rm = k.rm ∧ p.failed = 0 ∧
        ∀ x, x < count → p.input.data[x]? = some (BitVec.ofNat 64 (Claims.littleEndian ((d.bytes.drop (size * x)).take size))))) ∧
  (∀ (s y : State) (core : CoreId) (i : Fin 17) (k : Cmd) (p : CollPart) (rest : List CollPart),
    (s.chain core i).cmds = [k] → s.chainRuns core i = true → k.op = 8 → k.stage = .handed → k.finished = false → k.status = 0 →
    s.colls = p :: rest → p.cmd = some (core, i.val, k.seq) →
    (∀ q ∈ rest, q.input.group = p.input.group ∧ q.input.tag = p.input.tag ∧ q.cmd = none) →
    let agree := ∀ q ∈ rest, q.input.op = p.input.op ∧ q.input.ty = p.input.ty ∧ q.input.count = p.input.count ∧
      q.input.root = p.input.root
    let whole := ∀ q ∈ p :: rest, q.failed = 0
    (rest.length + 1 < p.input.group.length → exec (.coll core i) s = .next s) ∧
    (p.input.group.length ≤ rest.length + 1 → ¬ (agree ∧ whole) → ∃ t e, exec (.coll core i) s = .next t ∧
      (t.chain core i).cmds = [e] ∧ e.finished = true ∧ e.status = 7 ∧ t.colls = []) ∧
    (p.input.group.length ≤ rest.length + 1 → agree → whole →
      s.engineWrite (s.cmdReach core i k) (ownerOf core i k) (recordAddr k.record 24) ((collResult (p :: rest)).map some) false = .ok () y →
      y.chain core i = s.chain core i → y.colls = s.colls →
      ∃ t e, exec (.coll core i) s = .next t ∧ (t.chain core i).cmds = [e] ∧ e.finished = true ∧ e.status = 0 ∧ t.colls = [] ∧
        t.mem = y.mem)) ∧
  (∀ (op ty rm root : Nat) (vs : List Dword), ty ≤ 1 → op ≤ 3 → vs ≠ [] → (op = 3 → root < vs.length) →
    collElement op ty rm root vs = BitVec.ofInt 64 (Claims.collValue op ty root vs)) ∧
  (∀ (s : State) (core : CoreId) (i : Fin 17) (k : Cmd) (p : CollPart),
    (s.chain core i).cmds = [k] → k.finished = false → k.status = 0 → s.colls = [p] → p.cmd = some (core, i.val, k.seq) →
    let late := 1 < p.input.group.length ∧ p.arrived + 1000 * s.page.collTimeout ≤ s.devTime
    (¬ late → exec (.collTimeoutExpiry p.input.tag) s = .next s) ∧
    (∀ tag, tag ≠ p.input.tag → exec (.collTimeoutExpiry tag) s = .next s) ∧
    (late → ∃ t e, exec (.collTimeoutExpiry p.input.tag) s = .next t ∧ t.colls = [] ∧ (t.chain core i).cmds = [e] ∧
      e.finished = true ∧ e.status = 7)) ∧
  (∀ (s : State) (c : CollInput) (e : Dword), s.page.boot.toNat < 0x80 → c.group[c.index]? = some e →
    e.toNat % 8 ≠ s.page.devnum.toNat →
    let same := fun (p : CollPart) => decide (p.input.group = c.group) && decide (p.input.tag = c.tag)
    let there := ∃ p ∈ s.colls, same p = true ∧ p.input.index = c.index
    let members := s.colls.filter same
    let complete := c.group.length ≤ members.length + 1 ∧ ∀ p ∈ members, p.cmd = none
    (there → exec (.collPeerContribution c) s = .next s) ∧
    (¬ there → ¬ complete →
      exec (.collPeerContribution c) s = .next { s with colls := s.colls ++ [{ cmd := none, input := c, arrived := s.devTime }] }) ∧
    (¬ there → complete → exec (.collPeerContribution c) s = .next { s with colls := s.colls.filter fun p => !same p }))

/-! ## Chapters 07 and 18: launches and partitions -/

namespace Sys2Proof.Claims

/-- Bits lo to lo + n - 1 of a number. -/
def bitsFrom (r lo n : Nat) : Nat := r / 2 ^ lo % 2 ^ n

/-- Whether a core is one of the 448 of the module: 32 dies of 14 cores (R9). -/
def coreExists (c : Nat) : Prop := c < 512 ∧ c % 16 < 14

/-- The conditions of R175 for status 1, on the 128 bytes of a launch record. -/
def launchMalformed (r : Nat) : Prop :=
  bitsFrom r 122 6 ≠ 0 ∨ bitsFrom r 713 7 ≠ 0 ∨ bitsFrom r 930 30 ≠ 0 ∨ r % 4 ≠ 0 ∨ bitsFrom r 112 8 = 0 ∨
  32 < bitsFrom r 112 8 ∨ 4096 < bitsFrom r 736 32 ∨ 1024 < bitsFrom r 768 32 ∨ 32 < bitsFrom r 704 8 ∨
  ¬ (bitsFrom r 720 16 = 0xFFFF ∨ coreExists (bitsFrom r 720 16))

/-- Whether a team fits one core (R177): HPT harts of COLS columns, packed or spread. -/
def teamFits (r : Nat) : Prop :=
  let hpt := bitsFrom r 112 8
  let cols := 64 * 2 ^ bitsFrom r 120 2
  let p := min 4 (512 / cols)
  if bitsFrom r 712 1 = 1 then (hpt + p - 1) / p ≤ 8 else (hpt + 7) / 8 ≤ 4 ∧ (hpt + 7) / 8 * cols ≤ 512

end Sys2Proof.Claims

/-- A LAUNCH command reads its record: an address that is not 8-byte aligned or not in H-space, or a reserved byte, ends it with
status 1; it then reads the launch record once: SEMA is checked first, and its failure ends the command; a record that breaks
R175 is admitted with its status and places nothing; one in order is admitted with status 0, or where it names preload entries
stays to read them. Every field is the record's (R173 to R177, R185). How the launch record is read and the order of its checks
are the model's readings (log 39). -/
def Obligations.LaunchCommandsReadTheirRecord : Prop :=
  (∀ (s w : State) (core : CoreId) (i : Fin 17) (k : Cmd) (g : Got), Claims.alone s core i k → k.op = 9 → k.read = false → k.status = 0 →
    s.engineRead (s.cmdReach core i k) (ownerOf core i k) k.at_ 64 = .ok g w → g.poisoned = none →
    w.chain core i = s.chain core i →
    let r : BitVec 512 := bitsOfBytes 512 g.bytes
    let va := recordAddr r 16
    let reach := w.cmdReach core i k
    let broken := Claims.recordBytes r 24 32 ≠ 0 ∨ va.toNat % 8 ≠ 0 ∨ 2 ^ 60 ≤ va.toNat
    (broken → ∃ t e, exec (.launch core i) s = .next t ∧ (t.chain core i).cmds = [e] ∧ e.finished = true ∧ e.status = 1) ∧
    (¬ broken →
      let status := if reach.status .load va 128 ≠ 0 then reach.status .load va 128 else reach.crecStatus (recordAddr r 56)
      ∃ t e, exec (.launch core i) s = .next t ∧ (t.chain core i).cmds = [e] ∧ e.read = true ∧ e.record = r ∧
        e.finished = decide (status ≠ 0) ∧ e.status = status ∧ t.launches = w.launches)) ∧
  (∀ (s w : State) (core : CoreId) (i : Fin 17) (k : Cmd) (g : Got), Claims.alone s core i k → k.op = 9 → k.read = true → k.status = 0 →
    s.launchOf core i k.seq = none →
    s.engineRead (s.cmdReach core i k) (ownerOf core i k) (recordAddr k.record 16) 128 = .ok g w → g.poisoned = none →
    g.bytes.length = 128 → w.chain core i = s.chain core i →
    let raw := Claims.littleEndian g.bytes
    let sema : Dword := BitVec.ofNat 64 (Claims.bitsFrom raw 800 64)
    let reach := s.cmdReach core i k
    let ctx := (s.chain core i).owner
    let bound := Claims.bitsFrom raw 720 16
    let malformed := Claims.launchMalformed raw
    let misplaced := ¬ Claims.teamFits raw ∨ ctx = 0 ∨ bound ≠ 0xFFFF ∧ (w.pair (pairOfCore bound)).part ≠ some (w.ctxPart ctx)
    let semaOk := sema.toNat % 32 = 0 ∧ sema.toNat < 2 ^ 60 ∧ reach.status .store sema 32 = 0
    let refuses := fun (status : Nat) => ∃ t e, exec (.launch core i) s = .next t ∧ (t.chain core i).cmds = [e] ∧
      e.finished = true ∧ e.status = status ∧ t.launches = w.launches
    let admits := fun (status : Nat) => ∃ t e l, exec (.launch core i) s = .next t ∧ (t.chain core i).cmds = [e] ∧
      e.stage = .handed ∧ e.finished = false ∧ t.launches.get? w.nextLaunch = some l ∧ t.nextLaunch = w.nextLaunch + 1 ∧
      l.checked = true ∧ l.status = status ∧ l.stop = decide (status ≠ 0) ∧ l.teams = [] ∧ l.nextTeam = 0 ∧ l.ctx = ctx ∧
      l.core = core ∧ l.chain = i.val ∧ l.seq = k.seq ∧ l.ready = max w.now (k.begun + 150) ∧ l.raw.toNat = raw
    (sema.toNat % 32 ≠ 0 → refuses 1) ∧
    (sema.toNat % 32 = 0 → reach.status .store sema 32 ≠ 0 → refuses (reach.status .store sema 32)) ∧
    (sema.toNat % 32 = 0 → reach.status .store sema 32 = 0 → 2 ^ 60 ≤ sema.toNat → refuses 2) ∧
    (semaOk → malformed → admits 1) ∧
    (semaOk → ¬ malformed → misplaced → admits 2) ∧
    (semaOk → ¬ malformed → ¬ misplaced → Claims.bitsFrom raw 640 64 ≠ 0 →
      Claims.bitsFrom raw 640 64 % 8 ≠ 0 ∨ 2 ^ 60 ≤ Claims.bitsFrom raw 640 64 → admits 3) ∧
    (semaOk → ¬ malformed → ¬ misplaced → Claims.bitsFrom raw 640 64 % 8 = 0 → Claims.bitsFrom raw 640 64 < 2 ^ 60 →
      (Claims.bitsFrom raw 640 64 = 0 ∨ Claims.bitsFrom raw 704 8 = 0 → admits 0) ∧
      (Claims.bitsFrom raw 640 64 ≠ 0 → Claims.bitsFrom raw 704 8 ≠ 0 → ∃ t e l, exec (.launch core i) s = .next t ∧
        (t.chain core i).cmds = [e] ∧ e.stage = .running ∧ e.finished = false ∧ t.launches.get? w.nextLaunch = some l ∧
        l.checked = false ∧ l.preload = [] ∧ l.ctx = ctx ∧ l.raw.toNat = raw))) ∧
  (∀ (r : BitVec 1024),
    let l := launchFields r
    let n := Claims.bitsFrom r.toNat
    l.entry.toNat = n 0 64 ∧ l.tx = n 64 16 ∧ l.ty = n 80 16 ∧ l.tz = n 96 16 ∧ l.hpt = n 112 8 ∧ l.cols = 64 * 2 ^ n 120 2 ∧
    (∀ j, j < 8 → (l.mbx.getD j 0).toNat = n (128 + 64 * j) 64) ∧ l.dptab.toNat = n 640 64 ∧ l.dpcnt = n 704 8 ∧
    l.pack = decide (n 712 1 = 1) ∧ l.core = n 720 16 ∧ l.wuse = n 736 32 ∧ l.cuse = n 768 32 ∧ l.sema.toNat = n 800 64 ∧
    l.sval.toNat = n 864 64 ∧ l.bar = decide (n 928 1 = 1) ∧ l.gang = decide (n 929 1 = 1) ∧ l.gtick.toNat = n 960 64)

/-- TEAM_PLACEMENT places the next team of a launch that may start on a core that has room: hart h sits where R177 puts it, in a
slot and columns that no other hart has, at ENTRY, its registers 0, with its number, its team's coordinates and the record's
mailboxes, and the team waits for the fill of its spaces and its preload; a core without room leaves it, and columns that stay
marked for a stopped context are to be cleared first; a gang launch without time base, or that is late, is stopped with status
7, and GANG_START lets its held harts go at GTICK, from which their cycles count. LAUNCH_COMPLETION writes bytes 8 to 31 of the
completion record and then SVAL, and then finishes the command and forgets the launch. RESIDENCY_CLEAR clears a band of columns
with its slot's tags and sets its validity, in two passes (R30, R164, R176 to R178, R185, R424). The order of placement is the
model's reading (log 39), as are the completion record's step (log 40) and the order of a clear (log 56). -/
def Obligations.LaunchesPlaceAndComplete : Prop :=
  (∀ (s : State) (n : Nat) (l : Launch) (core : CoreId), s.launches.get? n = some l → l.placedAll = false → l.checked = true →
    s.launchReady l = true →
    (l.record.gang = false → s.room l core = none → exec (.teamPlacement n core) s = .next s) ∧
    (∀ m, l.record.gang = false → s.room l core = some m → s.onMarks l m = true →
      ∃ t, exec (.teamPlacement n core) s = .next t ∧ t.launches = s.launches ∧ t.harts = s.harts ∧ { t with clusters := s.clusters } = s ∧
        ∀ x ∈ m.seats, ∀ b ∈ (s.cluster x.cluster).marks,
          x.slot = b.slot ∨ x.colbase < b.colbase + b.cols ∧ b.colbase < x.colbase + l.record.cols →
          b ∉ (t.cluster x.cluster).marks ∧ ∃ y ∈ (t.cluster x.cluster).clears, y = { b with since := s.now }) ∧
    (∀ m, l.record.gang = false → s.room l core = some m → s.onMarks l m = false → l.preload = [] →
      (m.seats.map fun x => 4 * x.cluster + x.slot).Nodup →
      let wait := 8 * l.record.wuse + 2 * l.record.cuse
      ∃ t, exec (.teamPlacement n core) s = .next t ∧
        (∃ l', t.launches.get? n = some l' ∧ l'.nextTeam = l.nextTeam + 1 ∧ l'.ready = s.now + 40 + wait ∧
          l'.teams = l.teams ++ [{ num := l.nextTeam, core := core, placed := s.now, wBase := m.wBase, cBase := m.cBase, live := l.record.hpt }]) ∧
        m.seats.length = l.record.hpt ∧
        (∀ j x, m.seats[j]? = some x →
          let h := 4 * x.cluster + x.slot
          let v := t.hart h
          x.cluster = 8 * core + (if l.record.pack then j / min 4 (512 / l.record.cols) else j % 8) ∧ x.slot < 4 ∧
          s.resident h = false ∧ t.resident h = true ∧
          v.sc.pc = l.record.entry ∧ (∀ r, v.sc.x.getD r 0 = 0) ∧ v.sc.loops = [] ∧ v.sc.latch = none ∧
          v.csr.hid = j ∧ v.csr.nharts = l.record.hpt ∧ v.csr.mbx = l.record.mbx ∧ v.csr.tvec = 0 ∧ v.csr.inh = false ∧
          v.csr.teamid = BitVec.ofNat 64 (l.nextTeam % l.record.tx + 2 ^ 16 * (l.nextTeam / l.record.tx % l.record.ty) +
            2 ^ 32 * (l.nextTeam / l.record.tx / l.record.ty)) ∧
          v.colbase = x.colbase ∧ v.cols = l.record.cols ∧ v.colbase % v.cols = 0 ∧ v.ctx = l.ctx ∧ v.launch = n ∧
          v.team = l.nextTeam ∧ v.sc.nextIssue = s.now + wait ∧ v.startCycle = s.now + wait ∧ v.gangHold = false) ∧
        (∀ g, (∀ x ∈ m.seats, g ≠ 4 * x.cluster + x.slot) → t.hart g = s.hart g)) ∧
    (l.record.gang = true → s.tsync = false ∨ l.record.gtick.toNat + 1000 < s.devTime →
      exec (.teamPlacement n core) s = .next (s.modLaunch n fun l => { l with stop := true, status := if l.status = 0 then 7 else l.status }))) ∧
  (∀ (s : State) (n : Nat) (l : Launch), s.launches.get? n = some l →
    (s.devTime < l.record.gtick.toNat ∨ (∀ e ∈ s.harts, e.2.launch = n → e.2.gangHold = false) → exec (.gangStart n) s = .next s) ∧
    (l.record.gtick.toNat ≤ s.devTime → (s.harts.map Prod.fst).Nodup → ∃ t, exec (.gangStart n) s = .next t ∧
      (∀ h v, s.harts.get? h = some v → t.hart h = if v.launch = n ∧ v.gangHold = true then
        { v with gangHold := false, startCycle := max s.now v.sc.nextIssue } else v) ∧
      { t with harts := s.harts } = s)) ∧
  (∀ (s : State) (n : Nat) (l : Launch) (i : Fin 17) (k : Cmd) (y : State), s.launches.get? n = some l → l.chain = i.val →
    (s.chain l.core i).cmds = [k] → k.seq = l.seq → k.stage = .handed → k.finished = false → k.status = 0 →
    (l.placedAll = false ∨ l.teams ≠ [] → exec (.launchCompletion n) s = .next s) ∧
    (l.placedAll = true → l.teams = [] → s.launchReady l = false → exec (.launchCompletion n) s = .next s) ∧
    (l.placedAll = true → l.teams = [] → s.launchReady l = true →
      let r := s.cmdReach l.core i k
      let o := ownerOf l.core i k
      let tail := bytesOfBits (BitVec.ofNat 32 l.status) 4 ++ bytesOfBits l.bitmap 2 ++ [0, 0] ++
        bytesOfBits (BitVec.ofNat 64 l.retired) 8 ++ List.replicate 8 0
      (l.recorded = false → s.engineWrite r o (l.record.sema + 8) (tail.map some) false = .ok () y →
        y.chain l.core i = s.chain l.core i → y.launches = s.launches →
        ∃ t l', exec (.launchCompletion n) s = .next t ∧ t.launches.get? n = some l' ∧ l' = { l with recorded := true } ∧ t.mem = y.mem) ∧
      (l.recorded = true → s.engineWrite r o l.record.sema ((bytesOfBits l.record.sval 8).map some) false = .ok () y →
        y.chain l.core i = s.chain l.core i → y.launches = s.launches →
        ∃ t e, exec (.launchCompletion n) s = .next t ∧ t.launches.get? n = none ∧ (t.chain l.core i).cmds = [e] ∧
          e.finished = true ∧ e.status = 0 ∧ t.mem = y.mem))) ∧
  (∀ (s : State) (k : ClusterKey) (b : Band) (rest : List Band), (s.cluster k).clears = b :: rest → sparseWf (fun _ => (0 : Row)) s.rows = true →
    b.colbase + b.cols ≤ 512 → b.slot < 4 →
    let free := (s.cluster k).fenced = false ∧ (s.cluster k).arraysFree ≤ s.now ∧
      ∀ e ∈ s.harts, clusterOfHart e.1 = k → ∀ c, e.2.claim = some c → b.since ≤ c
    (¬ free → exec (.residencyClear k) s = .next s) ∧
    (free → ∃ t, exec (.residencyClear k) s = .next t ∧ (t.cluster k).clears = rest ∧
      (t.cluster k).arraysFree = s.now + 2 * 2 ^ (s.cluster k).laneCode ∧
      (∀ e j, e < 16384 → j < 512 → (t.row k e).getLsbD j =
        if b.colbase ≤ j ∧ j < b.colbase + b.cols then false else (s.row k e).getLsbD j) ∧
      (∀ q e, q ≠ k → e < 16384 → t.row q e = s.row q e) ∧
      (∀ q e, q < 4 → e < 16384 → t.tag (4 * k + b.slot) q e = false ∧ t.tgv (4 * k + b.slot) e = true) ∧
      t.mem = s.mem ∧ t.harts = s.harts))

/-- SCHEDULER_TICK: once in each microsecond of device time the queue with the turn is charged 1; one with no work, or whose
deficit is used up while another has work, passes the turn, and one alone is credited its quantum; up to the switch instant the
outgoing queue is charged and nothing is decided; a command 5 acts after the charge of its tick, also while its context stops. A
command of the outgoing context stops once it is within no line of its destination. SWITCH_INSTANT: in the tick in which
everything of the outgoing context stands still, the turn goes to the incoming queue, or the partition is held, and the outgoing
context's area is begun. SHADOW_SWAP puts the stopped harts of a cluster into the bank, their columns marked, and takes the
incoming ones out. CONTEXT_SPILL writes the next piece of an area by the plan with which it began, or, of an area that is too
small, the header alone, and CONTEXT_RESTORE goes on with the context that comes back, until the switch is over, or the context
has to leave again (R373 to R375, R377, R379 to R382, R389, R391). The order of charge and switch is the model's reading (log
41), as are the ticks (log 57); the area's items are log 42. -/
def Obligations.PartitionsSwitchTheirContexts : Prop :=
  (∀ (s : State) (p : Nat),
    let v := s.partition p
    let due := s.devTime / 1000 ≠ v.lastTick
    let u := s.modPartition p fun v => { v with lastTick := s.devTime / 1000, tickCycle := s.now }
    let ends := v.held && decide (v.switch = some .restoring) && s.harts.all fun e => !e.2.stopped || decide (some e.2.ctx ≠ v.outgoing)
    let z := if ends = true then u.modPartition p (fun v => { v with switch := none, outgoing := none }) else u
    let charged := match v.turn with
      | some q => if v.held || v.idle then z else z.credit q (-1)
      | none => z
    (¬ due → exec (.schedulerTick p) s = .next s) ∧
    (∀ q hold, due → v.request = some (q, hold) →
      let w := (charged.modPartition p fun v => { v with request := none }).obey p q hold
      exec (.schedulerTick p) s = .next { w with page := { w.page with op := 5, go := false, status := 0 } }) ∧
    (due → v.request = none →
      (v.switch = some .stopping ∨ v.switch = some .leaving → exec (.schedulerTick p) s = .next charged) ∧
      (v.switch = none ∨ v.switch = some .restoring →
      (v.held = true → exec (.schedulerTick p) s = .next z) ∧
      (∀ q d, v.held = false → v.turn = some q → s.queues.get? q = some d → v.idle = false →
        let works := 0 < (s.chain d.core (Fin.ofNat 17 d.chain)).pend
        let others := ∃ e ∈ s.queuesOf p, e.1 ≠ q ∧ s.hasWork e.2 = true
        let less := max (-(2 ^ 31 - 1)) (min (2 ^ 31 - 1) (d.deficit - 1))
        (works → 0 < less → ∃ t, exec (.schedulerTick p) s = .next t ∧ t.queues.get? q = some { d with deficit := less } ∧
          (t.partition p).turn = some q ∧ (t.partition p).switch = v.switch ∧
          { t with queues := s.queues, partitions := s.partitions } = s) ∧
        (works → less ≤ 0 → ¬ others → ∃ t e, exec (.schedulerTick p) s = .next t ∧ t.queues.get? q = some e ∧
          e.deficit = max (-(2 ^ 31 - 1)) (min (2 ^ 31 - 1) (less + 100 * d.weight)) ∧ e.weight = d.weight ∧
          (t.partition p).turn = some q ∧ { t with queues := s.queues, partitions := s.partitions } = s) ∧
        (works → less ≤ 0 → others → exec (.schedulerTick p) s = .next ((u.credit q (-1)).passTurn p)) ∧
        (¬ works → exec (.schedulerTick p) s = .next ((u.setDeficit q 0).passTurn p))) ∧
      (v.held = false → v.turn = none ∨ v.idle = true → exec (.schedulerTick p) s = .next (u.passTurn p))))) ∧
  (∀ (s : State) (p q r : Nat) (a b : Queue), s.queues.get? q = some a → s.queues.get? r = some b → s.nextQueue p (some q) = some r →
    (s.partition p).turn = some q → q ≠ r →
    let v := s.partition p
    let credited := max (-(2 ^ 31 - 1)) (min (2 ^ 31 - 1) (b.deficit + 100 * b.weight))
    let t := s.passTurn p
    let paid := ∃ e, t.queues.get? r = some e ∧ e.deficit = credited
    let stops := v.switch = some .stopping ∨ v.switch = some .leaving
    (a.ctx = b.ctx → ¬ stops → paid ∧ (t.partition p).turn = some r ∧ (t.partition p).switch = v.switch) ∧
    (a.ctx ≠ b.ctx → v.switch = none → paid ∧ (t.partition p).turn = some q ∧ (t.partition p).switch = some .stopping ∧
      (t.partition p).incoming = some r ∧ (t.partition p).outgoing = some a.ctx) ∧
    (∀ g, a.ctx ≠ b.ctx ∨ stops → v.switch = some g → v.reason ≠ 3 → paid ∧ (t.partition p).turn = some q ∧
      (t.partition p).switch = some (if g = .stopping then .stopping else .leaving) ∧ (t.partition p).incoming = some r)) ∧
  (∀ (s : State) (p ctx : Nat), (s.partition p).switch = some .stopping → (s.partition p).outgoing = some ctx →
    let still := ∀ c ∈ s.coresOf p, s.coreStill c ctx = true
    let now := (s.partition p).tickCycle = s.now ∧ still ∧ ∀ t ∈ s.twinsOf p, (s.twin t).gate = .on ∨ (s.twin t).gate = .gated
    (¬ now → exec (.switchInstant p) s = .next s) ∧
    (now → (s.partition p).incoming = none → ∃ t sp, exec (.switchInstant p) s = .next t ∧ (t.partition p).held = true ∧
      (t.partition p).switch = some .restoring ∧ (t.ctxState ctx).spill = some sp ∧ sp.pos = 0 ∧ sp.began = s.devTime ∧
      sp.reason = (s.partition p).reason ∧ (t.ctxState ctx).saved = false) ∧
    (∀ r b, now → (s.partition p).incoming = some r → s.queues.get? r = some b → b.ctx ≠ ctx →
      ∃ t sp, exec (.switchInstant p) s = .next t ∧ (t.partition p).turn = some r ∧ (t.partition p).switch = some .restoring ∧
        (t.partition p).incoming = none ∧ (t.ctxState ctx).spill = some sp ∧ sp.pos = 0 ∧ (t.ctxState b.ctx).spill = none)) ∧
  (∀ (s : State) (k : ClusterKey) (p b : Nat), (s.pair (pairOfCore (coreOfCluster k))).part = some p →
    (s.partition p).switch = some .restoring ∨ (s.partition p).switch = some .leaving → s.comingCtx p = some b →
    (s.twin (twinOfCore (coreOfCluster k))).gate = .on → (s.ctxState b).harts = [] →
    (∀ o ∈ (s.cluster k).bank, o.2.ctx = b ∧ o.1 < 4) → ((s.cluster k).bank.map Prod.fst).Nodup →
    let out := s.harts.filter fun e => decide (clusterOfHart e.1 = k) && e.2.stopped && decide (e.2.ctx ≠ b)
    (s.now < (s.cluster k).arraysFree → exec (.shadowSwap k) s = .next s) ∧
    (out = [] → (s.cluster k).bank = [] → exec (.shadowSwap k) s = .next s) ∧
    (¬ (out = [] ∧ (s.cluster k).bank = []) → (s.cluster k).arraysFree ≤ s.now →
      ∃ t, exec (.shadowSwap k) s = .next t ∧
        (t.cluster k).bank = out.map (fun e => (e.1 % 4, e.2)) ∧
        (t.cluster k).marks = (s.cluster k).marks ++
          out.map (fun e => { slot := e.1 % 4, colbase := e.2.colbase, cols := e.2.cols, ctx := e.2.ctx }) ∧
        (∀ o ∈ (s.cluster k).bank, ∃ v, t.harts.get? (4 * k + o.1) = some v ∧ v.stopped = true ∧ v.csr = o.2.csr ∧ v.sc.pc = o.2.sc.pc ∧
          v.sc.x = o.2.sc.x ∧ v.sc.nextIssue = max o.2.sc.nextIssue (s.now + 64)) ∧
        t.rows = s.rows ∧ t.mem = s.mem ∧ (t.cluster k).tags = (s.cluster k).tags)) ∧
  (∀ (s : State) (ctx : Nat),
    ((s.ctxState ctx).spill = none → exec (.contextSpill ctx) s = .next s) ∧
    (∀ sp, (s.ctxState ctx).spill = some sp → (∃ e ∈ s.harts, e.2.ctx = ctx ∧ e.2.stopped = true) → sp.core = none →
      exec (.contextSpill ctx) s = .next s) ∧
    (∀ sp, (s.ctxState ctx).spill = some sp → sp.core = none → sp.reason ≠ 3 → (∀ e ∈ s.harts, e.2.ctx = ctx → e.2.stopped = false) →
      let p := s.spillPlan ctx sp
      let begun := { sp with plan := some p }
      (∀ w, s.areaRoom ctx < p.offsets.2 → s.areaWrite ctx [(0, (AreaPlan.header ctx 0xFFFF p sp).take 256)] = some w →
        exec (.contextSpill ctx) s = .next (w.failContext ctx 5)) ∧
      (p.offsets.2 ≤ s.areaRoom ctx → s.spoiltPiece ctx p sp.pos = true → exec (.contextSpill ctx) s = .next (s.failContext ctx 4)) ∧
      (p.offsets.2 ≤ s.areaRoom ctx → s.spoiltPiece ctx p sp.pos = false →
        (∀ ws w, s.areaPiece ctx sp.reason begun = some ws → s.areaWrite ctx ws = some w → exec (.contextSpill ctx) s =
          .next ((w.modCtx ctx fun c => { c with spill := some { begun with pos := sp.pos + 1 } }).charge (w.account ctx))) ∧
        (s.areaPiece ctx sp.reason begun = none → ∃ t, exec (.contextSpill ctx) s = .next t ∧
          (t.ctxState ctx).saved = true ∧ (t.ctxState ctx).spill = none ∧ t.mem = s.mem)))) ∧
  (∀ (s : State) (core : CoreId) (i : Fin 17) (k : Cmd), (s.chain core i).cmds = [k] → (∀ j, j ≠ i → (s.chain core j).cmds = []) →
    k.halting = true →
    let within := k.stage = .running ∧ k.midLine = true ∧ (s.core core).fenced = false
    (within → s.haltStep core = none) ∧
    (¬ within → s.haltStep core = some ((s.disown (ownerOf core i k)).modCmd core i k.seq Cmd.halt))) ∧
  (∀ (s : State) (ctx p : Nat), s.ctxPart ctx = p →
    let v := s.partition p
    let goes := (v.switch = some .restoring ∨ v.switch = some .leaving) ∧ s.comingCtx p = some ctx
    (¬ goes → exec (.contextRestore ctx) s = .next s) ∧
    (goes →
      let mine := fun (c : CoreId) => decide ((s.pair (pairOfCore c)).part = some p) && !s.coreGated c
      let back := (s.modPartition p fun v => { v with switch := none, outgoing := none }).modCtx ctx fun c => { c with saved := false }
      (∀ w, s.restorePiece ctx mine = some w → exec (.contextRestore ctx) s = .next (w.charge ctx)) ∧
      (s.restorePiece ctx mine = none → s.restored ctx mine = true →
        (∀ e ∈ s.harts, e.2.stopped = true → some e.2.ctx = v.outgoing → e.2.ctx = ctx) →
        (v.switch = some .restoring → exec (.contextRestore ctx) s = .next back) ∧
        (v.switch = some .leaving → exec (.contextRestore ctx) s = .next (back.stopContext p ctx v.incoming v.reason)))))

/-! ## Chapters 03, 09, 17: events of a hart, a core, and the storage -/

/-- What happens to a hart or a core without a word of its own: results that come back are written, and no other; a word that is
no instruction traps ILL, or PRIV in a hart for a privileged one; a fetch that fails traps with its cause; a walk that succeeds
replaces the translations of its address in the TLB of its core, and one of its set where that is full with 8, and one that
fails leaves the TLBs; a routine starts at svec with the head event in its CSRs (R76 to R81, R99, R111, R218, R219, R354). That
a walk fills one translation and does nothing else is the model's reading (log 48); the sets of the TLB are log 6. -/
def Obligations.HartAndCoreEventsComplete : Prop :=
  (∀ (s : State) (h : HartKey),
    (∃ t, exec (.dividerResult h) s = .next t ∧ (t.hart h).sc = (s.hart h).sc.arriveBoard s.now (fun w => w.kind == .div) ∧
      (∀ g, g ≠ h → t.hart g = s.hart g) ∧ { t with harts := s.harts } = s) ∧
    (∃ t, exec (.loadReturn h) s = .next t ∧ (t.hart h).sc = (s.hart h).sc.arriveBoard s.now (fun w => w.kind != .div) ∧
      (∀ g, g ≠ h → t.hart g = s.hart g) ∧ { t with harts := s.harts } = s)) ∧
  (∀ (sc : Scalar) (w : PendingWrite) (n : Nat) (p : PendingWrite → Bool), sc.board = [w] →
    (w.owner = none → w.ready ≤ n → p w = true → (sc.arriveBoard n p).board = [] ∧ (w.rd ≠ 0 → (sc.arriveBoard n p).get w.rd = w.value) ∧
      (∀ r, r ≠ w.rd → (sc.arriveBoard n p).get r = sc.get r)) ∧
    (¬ (w.owner = none ∧ w.ready ≤ n ∧ p w = true) → sc.arriveBoard n p = sc)) ∧
  (∀ (s : State) (h : HartKey), s.cur = .hart h →
    let n := s.ir.toNat
    let privileged := n / 2 ^ 26 = 0x33 ∧ n / 8 % 256 < 8 ∨ n / 2 ^ 26 = 0x1A ∧ n / 8 % 256 = 0x10
    exec .nonInstructionWord s = .next (s.due.takeTrap h (if privileged then 0x02 else 0x01) (s.ir.setWidth 64) (s.hart h).sc.pc)) ∧
  (∀ (s : State) (c : CoreId), s.cur = .steward c → exec .nonInstructionWord s = .next (s.due.trapped 0x01 (s.ir.setWidth 64))) ∧
  (∀ (s t : State),
    (∀ w, s.fetch = (.ok w, t) → exec .instructionFetchFault s = .next s) ∧
    (∀ m h, s.fetch = (.error m, t) → t.cur = .hart h →
      exec .instructionFetchFault s = .next (t.due.takeTrap h m.cause m.value (t.hart h).sc.pc))) ∧
  (∀ (s : State) (core : CoreId) (ctx : Nat) (va : Dword) (use : Access),
    let a := va.toNat % 2 ^ 52
    let ending := (s.translateAfresh core 0 ctx a use).1
    (2 ^ 51 ≤ a → exec (.walk core ctx va use) s = .next s) ∧
    (a < 2 ^ 51 → ∃ t, exec (.walk core ctx va use) s = .next t ∧ t.harts = s.harts ∧
      (∀ c, ending = .error c → t.tlb = s.tlb) ∧
      (∀ q, ending = .ok q → ∃ e rest, t.tlb = e :: rest ∧ e.core = core ∧ e.unit = 0 ∧ e.covers ctx a = true ∧
        s.locOfPa (e.pa a) = some q.loc ∧ e.permits use = true ∧
        let others := s.tlb.filter fun o => !(o.isAt core 0 && o.covers ctx a)
        let set := others.filter fun o => o.isAt core 0 && decide (o.setIn 0 = e.setIn 0)
        (set.length < 8 → rest = others) ∧ (8 ≤ set.length → ∃ o ∈ set, rest = others.erase o)))) ∧
  (∀ (s : State) (core : CoreId),
    let w := (s.core core).steward
    (w.running = true ∨ w.events = [] → exec (.supervisorRoutineStart core) s = .next s) ∧
    (∀ e rest, w.running = false → w.events = e :: rest → e.kind < 256 → e.ctx < 4096 →
      ∃ t, exec (.supervisorRoutineStart core) s = .next t ∧ { t with cores := s.cores } = s ∧
        let v := (t.core core).steward
        v.running = true ∧ v.events = w.events ∧ v.sc.pc = w.svec ∧ v.sevv = e.value ∧ v.sevpc = e.pc ∧ v.sevx.toNat = e.x.toNat ∧
        v.sevk.toNat = e.kind + 2 ^ 16 * e.master.toNat + 2 ^ 32 * e.ctx ∧ v.sdisp = 0 ∧ v.serr = w.serr ∧ v.sc.x = w.sc.x))

/-- UNCORRECTABLE_ERROR by where it strikes (R365, R366): a line of an L1 is dropped, a line of memory is poisoned once, a
cluster is fenced: its harts are no longer resident, those of its shadow bank are failed unless an area holds them, the columns
it kept are to be cleared, and a FENCE event with its number joins the queue of its steward; the engines of a core are fenced,
and the commands of its chains, the system chain's too, leave with status 10 and no completion record; both are error events for
the snapshot; a fenced unit is not fenced twice. A matrix read ends its entry, and a spill read fails its context: its harts are
gone, its launches hold status 4, and its area is not complete. What a fence, a matrix read and a spill read leave are the
model's readings (logs 49 and 23). -/
def Obligations.UncorrectableErrorsStayContained : Prop :=
  (∀ (s : State) (core line : Nat), ∃ t, exec (.uncorrectableError (.l1Line core line)) s = .next t ∧
    (∀ e, e ∈ t.l1 ↔ e ∈ s.l1 ∧ ¬ (e.1 / 2 ^ 64 = core ∧ e.1 % 2 ^ 64 / 16 = line)) ∧ { t with l1 := s.l1 } = s) ∧
  (∀ (s : State) (line : Nat), ∃ t, exec (.uncorrectableError (.homeLine line)) s = .next t ∧ { t with poison := s.poison } = s ∧
    (∀ l, l ∈ t.poison ↔ l ∈ s.poison ∨ l = line ∧ 128 * line + 128 ≤ Config.hbmBytes)) ∧
  (∀ (s : State) (k : ClusterKey), (s.cluster k).fenced = true → exec (.uncorrectableError (.clusterState k)) s = .next s) ∧
  (∀ (s : State) (k : ClusterKey), validCore (coreOfCluster k) = true → (s.cluster k).fenced = false → s.harts = [] →
    (∀ b ∈ (s.cluster k).bank, (s.ctxState b.2.ctx).saved = true) →
    ∃ t, exec (.uncorrectableError (.clusterState k)) s = .next t ∧ (t.cluster k).fenced = true ∧ (t.cluster k).bank = (s.cluster k).bank ∧
      (t.cluster k).marks = [] ∧
      (t.cluster k).clears = (s.cluster k).clears ++ (s.cluster k).marks.map (fun (b : Band) => { b with since := s.now }) ∧
      t.mem = s.mem ∧ (∀ q, q ≠ k → t.cluster q = s.cluster q) ∧
      (∃ e, (t.core (coreOfCluster k)).steward.events = (s.core (coreOfCluster k)).steward.events ++ [e] ∧ e.kind = 8 ∧
        e.value = BitVec.ofNat 64 (k % 8)) ∧
      (s.snapshot.armed = true → t.snapshot.armed = false ∧ t.snapshot.cause = 3 ∧ t.snapshot.source = coreOfCluster k ∧
        t.snapshot.time.toNat = s.devTime % 2 ^ 64) ∧
      (s.snapshot.armed = false → t.snapshot = { s.snapshot with missed := s.snapshot.missed + 1 })) ∧
  (∀ (s : State) (k : ClusterKey) (slot : Nat) (v : Hart) (l : Launch), validCore (coreOfCluster k) = true →
    (s.cluster k).fenced = false → s.harts = [] → (s.cluster k).bank = [(slot, v)] → (s.ctxState v.ctx).saved = false →
    s.launches.get? v.launch = some l →
    ∃ t l', exec (.uncorrectableError (.clusterState k)) s = .next t ∧ (t.cluster k).fenced = true ∧ (t.cluster k).bank = [] ∧
      t.launches.get? v.launch = some l' ∧ l'.status = (if l.status = 0 then 4 else l.status) ∧ l'.retired = l.retired) ∧
  (∀ (s : State) (k : ClusterKey) (h : HartKey) (v : Hart), validCore (coreOfCluster k) = true → (s.cluster k).fenced = false →
    s.harts = [(h, v)] → clusterOfHart h = k → (s.cluster k).bank = [] →
    ∃ t, exec (.uncorrectableError (.clusterState k)) s = .next t ∧ (t.cluster k).fenced = true ∧ t.harts = []) ∧
  (∀ (s : State) (core : CoreId), let v := s.core core
    (v.fenced = true → exec (.uncorrectableError (.engineState core)) s = .next s) ∧
    (validCore core = true → v.fenced = false → (∀ i : Fin 17, i ≠ 16 → (v.chains[i]).cmds = []) → v.queue = [] → v.frozenMmas = [] →
      v.drainLog = [] →
      ((v.chains[16]).cmds = [] → ∃ t, exec (.uncorrectableError (.engineState core)) s = .next t ∧ (t.core core).fenced = true ∧
        t.harts = s.harts ∧ t.mem = s.mem ∧
        ∀ (i : Fin 17) c, (v.chains[i]).ctx = some c → (t.ctxState c).frozenMaster.isSome = true) ∧
      (∀ k, (v.chains[16]).ctx = some 0 → (v.chains[16]).cmds = [k] → k.stage ≠ .done →
        ∃ t, exec (.uncorrectableError (.engineState core)) s = .next t ∧ (t.core core).fenced = true ∧ t.mem = s.mem ∧
          (t.chain core 16).cmds = [] ∧ (t.chain core 16).err = true ∧ (t.chain core 16).doneSeq = (v.chains[16]).doneSeq + 1))) ∧
  (∀ (s : State) (core : CoreId) (va : Dword),
    ((s.core core).queue = [] → exec (.uncorrectableError (.matrixRead core va)) s = .next s) ∧
    (∀ e h, (s.core core).queue = [e] → e.started = true → e.load = false → e.source = .hart h → s.resident h = true →
      e.of h (s.hart h) = true → (s.hart h).mwaitErr = none →
      ∃ t, exec (.uncorrectableError (.matrixRead core va)) s = .next t ∧ (t.hart h).mwaitErr = some (0x09, va) ∧
        (t.core core).queue = [] ∧ t.mem = s.mem)) ∧
  (∀ (s : State) (ctx : Nat), s.harts = [] →
    ∃ t, exec (.uncorrectableError (.spillRead ctx)) s = .next t ∧ (t.ctxState ctx).failed = true ∧ (t.ctxState ctx).saved = false ∧
      (t.ctxState ctx).spill = none ∧ (t.ctxState ctx).harts = [] ∧ t.mem = s.mem ∧
      (∀ k b, b ∈ (t.cluster k).bank ↔ b ∈ (s.cluster k).bank ∧ b.2.ctx ≠ ctx) ∧
      (∀ k (b : Band), b ∈ (t.cluster k).marks ↔ b ∈ (s.cluster k).marks ∧ b.ctx ≠ ctx) ∧
      ∀ n l, s.launches.get? n = some l → ∃ l', t.launches.get? n = some l' ∧
        (l.ctx = ctx → l'.status = (if l.status = 0 then 4 else l.status) ∧ l'.stop = true ∧ l'.teams = []) ∧ (l.ctx ≠ ctx → l' = l))

/-! ## Chapters 18 and 21: the host, the peers, the module -/

/-- What a request of a function meets first: one of a frozen function is answered with nothing, and so is one of a virtual function
outside the host control page, which freezes it (R363, R421). The numbers of the functions, and the protection check of a virtual one, are
the model's choice (log 62). -/
def Sys2Proof.Claims.request (s : State) (fn loc n : Nat) (served : Option State) : State :=
  if fn ∈ s.frozenFns then { s with hostAnswer := [] }
  else if 1 ≤ fn ∧ fn ≤ 16 ∧ ¬ (2 ^ 46 ≤ loc ∧ loc + n ≤ 2 ^ 46 + 2 ^ 20) then
    let t := s.trigger 3 0x1FF
    { t with frozenFns := s.frozenFns ++ [fn], hostAnswer := [] }
  else served.getD s

/-- A command of the host control page has its argument bytes in the command block: bytes 8 to 11, 12 to 15 and 16 to 23 (R427). -/
def Sys2Proof.Claims.commanded (s : State) (low mid : Nat) (addr : Dword) : State :=
  { s with page := { s.page with args := #v[BitVec.ofNat 64 (low % 2 ^ 32 + 2 ^ 32 * mid), addr, 0, 0, 0, 0, 0] } }

/-- A function has a queue: the management function every one, a virtual function those of its partition (R425). -/
def Sys2Proof.Claims.fnQueue (s : State) (fn : Nat) (d : Queue) : Prop := fn = 0 ∨ 1 ≤ fn ∧ fn ≤ 16 ∧ s.ctxPart d.ctx = fn - 1

/-- Requests of the host and the peers, each of a function that its address or queue names beside it (log 62), of a module that is not in
recovery: a read answers the bytes at their home, one at a time, or of the page, of which a virtual function reads the append registers of its queues; the
bytes of a write to device memory go on their way; an atomic answers the old value and stores the sum, the operand, or the operand where
the old value compares equal, and leaves a poisoned word; a flush read acknowledges what was posted to its function (R257, R269, R270, R365,
R421). A doorbell hands the batch of its queue's chain over; an append register and the system append append a list whole, hand it over
and report it, or report why not; an append that a line keeps back reads as BUSY, and another write meanwhile does nothing (R280, R425, R427, R437); a function that is frozen, or has not the queue, does neither. -/
def Sys2Proof.Parts.HostRequestsTakeEffect : Prop :=
  (∀ (s : State) (x n : Nat), let fn := x / 2 ^ 64; let a := x % 2 ^ 64
    let answered := fun (t : Option State) => exec (.hostPeerRead x n) s = .next (Claims.request s fn a n t)
    (s.page.boot.toNat < 0x80 → a + n ≤ Config.hbmBytes → s.lineOwners = [] →
      answered (some { s with hostAnswer := [], reading := if n = 0 then none else some (a, n) })) ∧
    (s.page.boot.toNat < 0x80 → 2 ^ 50 ≤ a → answered (some { s with hostAnswer := s.bytes a n })) ∧
    (2 ^ 46 ≤ a → a + n ≤ 2 ^ 46 + 2 ^ 20 →
      ∃ l : List Byte, l.length = n ∧ answered (some { s with hostAnswer := l }) ∧
        (fn = 0 → ∀ i, i < n → l[i]? = some (s.pageByte (a - 2 ^ 46 + i))) ∧
        (1 ≤ fn → fn ≤ 16 → ∀ i, i < n → let off := a - 2 ^ 46 + i
          (∀ d, 0x58000 ≤ off → off < 0x5A000 → s.queues.get? ((off - 0x58000) / 8) = some d → s.ctxPart d.ctx = fn - 1 →
            l[i]? = some (s.pageByte off)) ∧
          (¬ (0x58000 ≤ off ∧ off < 0x5A000) → l[i]? = some 0) ∧
          (∀ d, s.queues.get? ((off - 0x58000) / 8) = some d → s.ctxPart d.ctx ≠ fn - 1 → l[i]? = some 0)))) ∧
  (∀ (s : State),
    (s.reading = none → s.readingStep = none) ∧
    (∀ a n, s.reading = some (a, n) → (s.blocked a 1 = true → s.readingStep = none) ∧
      (s.blocked a 1 = false →
        let u := (s.settle a 1).touch a 1
        s.readingStep = some { u with hostAnswer := s.hostAnswer ++ [u.plain 0 a], reading := if n ≤ 1 then none else some (a + 1, n - 1) }))) ∧
  (∀ (s : State) (x : Nat) (bs : List Byte), s.page.boot.toNat < 0x80 → let fn := x / 2 ^ 64; let a := x % 2 ^ 64
    let answered := fun (t : Option State) => exec (.hostPeerWrite x bs) s = .next (Claims.request s fn a bs.length t)
    (a + bs.length ≤ Config.hbmBytes → answered (some { s with incoming := s.incoming ++ bs.mapIdx fun i b => (a + i, b) })) ∧
    (2 ^ 50 ≤ a → answered (some (s.setBytes a (bs.map some)))) ∧
    (2 ^ 46 ≤ a → a + bs.length ≤ 2 ^ 46 + 2 ^ 20 → bs ≠ [] → answered none)) ∧
  (∀ (s : State) (x : Nat) (op : PeerAtomic) (wide : Bool) (y c : Dword), s.page.boot.toNat < 0x80 →
    let fn := x / 2 ^ 64; let a := x % 2 ^ 64
    let n := if wide then 8 else 4
    let answered := fun (t : Option State) => exec (.hostPeerAtomic op x wide y c) s = .next (Claims.request s fn a n t)
    (a % n ≠ 0 → answered none) ∧
    (a % n = 0 → a + n ≤ Config.hbmBytes → s.lineOwners = [] →
      let u := (s.settle a n).touch a n
      let l := (List.range n).map fun i => u.plain 0 (a + i)
      let old := Claims.littleEndian l
      let new : Option Nat := match op with
        | .fetchAdd => some ((old + y.toNat) % 2 ^ (8 * n))
        | .swap => some (y.toNat % 2 ^ (8 * n))
        | .cas => if old = c.toNat % 2 ^ (8 * n) then some (y.toNat % 2 ^ (8 * n)) else none
      (a / 128 ∉ u.poison → ∀ bs : List Byte, bs.length = n → new = some (Claims.littleEndian bs) →
        answered (some { u.homeStore 0 a (bs.map some) with hostAnswer := l })) ∧
      (a / 128 ∈ u.poison ∨ new = none → answered (some { u with hostAnswer := l })))) ∧
  (∀ (s : State) (fn : Nat), ∃ t, exec (.flushReadCompletion fn) s = .next t ∧
    (∀ e ∈ t.harts, fn ∈ e.2.posted → ∃ f ∈ t.flight, f.hart = e.1 ∧ isOutside (8 * f.word) = true ∧ functionOf (8 * f.word) = fn) ∧ (s.flight = [] → t.harts = s.harts.map (fun e => (e.1, { e.2 with posted := e.2.posted.filter (· ≠ fn) })) ∧
      { t with harts := s.harts } = s)) ∧
  (∀ (s : State) (x : Nat), s.page.boot.toNat < 0x80 → let fn := x / 2 ^ 64; let q := x % 2 ^ 64
    (s.queues.get? q = none → exec (.doorbell x) s = .next s) ∧
    (∀ d, s.queues.get? q = some d →
      (fn ∈ s.frozenFns ∨ ¬ Claims.fnQueue s fn d → exec (.doorbell x) s = .next s) ∧
      (fn ∉ s.frozenFns → Claims.fnQueue s fn d → ∃ t, exec (.doorbell x) s = .next t ∧ { t with cores := s.cores } = s ∧
        (t.chain d.core (Fin.ofNat 17 d.chain)).cmds = (s.chain d.core (Fin.ofNat 17 d.chain)).cmds.map (fun k =>
          if k.stage = .batch then { k with stage := .queued, ready := s.now + 30 } else k)))) ∧
  (∀ (s : State) (x : Nat) (list : Dword) (d : Queue), s.page.boot.toNat < 0x80 → let fn := x / 2 ^ 64; let q := x % 2 ^ 64
    s.queues.get? q = some d →
    let i := Fin.ofNat 17 d.chain
    let r : Reach := { kind := .copy, core := d.core, ctx := d.ctx, unit := Agency.unit .copy }
    let old := (s.appends.get? q).getD {}
    let begun : State := { s with appends := s.appends.put q { old with asking := some list } }
    let refuses := fun (why : Nat) =>
      exec (.appendRegister x list) s = .next { begun with appends := begun.appends.put q { old with refused := true, why := why } }
    (fn ∈ s.frozenFns ∨ ¬ Claims.fnQueue s fn d → exec (.appendRegister x list) s = .next s) ∧
    (fn ∉ s.frozenFns → Claims.fnQueue s fn d → old.asking ≠ none → exec (.appendRegister x list) s = .next s) ∧
    (fn ∉ s.frozenFns → Claims.fnQueue s fn d → old.asking = none →
      (list.toNat % 64 ≠ 0 ∨ 2 ^ 60 ≤ list.toNat → refuses 1) ∧
      (∀ why, hostList (hostReader r) true 257 begun list [] = .refused why → refuses why) ∧
      (∀ l w, hostList (hostReader r) true 257 begun list [] = .ok l w → w.chain d.core i = s.chain d.core i →
        4096 < (s.chain d.core i).pend + l.length → refuses 5) ∧
      (begun.hostAppend r true d.core i list = none → exec (.appendRegister x list) s = .next begun) ∧
      (∀ n w, begun.hostAppend r true d.core i list = some (.ok (n, w)) →
        exec (.appendRegister x list) s = .next { w with appends := w.appends.put q { seq := n } }))) ∧
  (∀ (s : State) (q : Nat) (v : Append), s.appends.get? q = some v → (s.appendWord q).getLsbD 33 = v.asking.isSome) ∧
  (∀ (s : State) (core : CoreId) (list : Dword), s.page.boot.toNat < 0x80 →
    let u := Claims.commanded s core 0 list
    let begun : State := { u with page := { u.page with append := some (core, list), op := 11, go := true } }
    let ended := fun (t : State) (status : Byte) =>
      ({ t with page := { t.page with append := none, op := 11, go := false, status := status } } : State)
    (s.page.go = true → exec (.systemAppend core list) s = .next u) ∧
    (s.page.go = false → ¬ (core < 512 ∧ core % 16 < 14) → exec (.systemAppend core list) s = .next (u.pageDone 11 1)) ∧
    (s.page.go = false → core < 512 → core % 16 < 14 →
      (begun.hostAppend (stewardReach core) true core 16 list = none → exec (.systemAppend core list) s = .next begun) ∧
      (∀ why, begun.hostAppend (stewardReach core) true core 16 list = some (.error why) →
        exec (.systemAppend core list) s = .next (ended begun 2)) ∧
      (∀ n w, begun.hostAppend (stewardReach core) true core 16 list = some (.ok (n, w)) →
        exec (.systemAppend core list) s = .next (ended w 0)))) ∧
  (∀ (s w : State) (r : Reach) (expl : Bool) (core : CoreId) (i : Fin 17) (list : Dword) (n : BitVec 32),
    s.hostAppend r expl core i list = some (.ok (n, w)) →
    (∃ l y, hostList (hostReader r) expl 257 s list [] = .ok l y ∧ (y.chain core i).pend + l.length ≤ 4096 ∧
      n = (y.chain core i).appSeq + BitVec.ofNat 32 l.length) ∧
    (w.chain core i).appSeq = n ∧ ∀ k ∈ (w.chain core i).cmds, k.stage ≠ .batch)

/-- The bytes of a write of the host or a peer come to their homes one at a time and in their order, each unless a running command owns its
line; a poisoned line that is written whole is written at once and is poisoned no longer (R257, R265, R269, R365). -/
def Sys2Proof.Parts.HostWritesArrive : Prop :=
  ∀ (s : State),
    (s.incoming = [] → s.incomingStep = none) ∧
    (∀ loc b rest, s.incoming = (loc, b) :: rest → loc / 128 ∉ s.poison →
      (s.blocked loc 1 = true → s.incomingStep = none) ∧
      (s.blocked loc 1 = false → s.incomingStep = some ({ s with incoming := rest }.homeStore 0 loc [some b]))) ∧
    (∀ line rest (bs : List Byte), bs.length = 128 → s.incoming = bs.mapIdx (fun i b => (128 * line + i, b)) ++ rest → line ∈ s.poison →
      (s.blocked (128 * line) 128 = true → s.incomingStep = none) ∧
      (s.blocked (128 * line) 128 = false → ∃ t, s.incomingStep = some t ∧ line ∉ t.poison ∧
        t = { s with incoming := rest }.homeStore 0 (128 * line) (bs.map some)))

/-- The tables and registers of the host control page: an entry of the context table is written while its context has no state,
with its reserved bits 0, and refused where it breaks R371; a valid queue descriptor binds a free chain of a core of the
context's partition, and is refused otherwise; one with V = 0 removes the queue unless it has work or its context state under the turn, and
its fields read back; DEVNUM is written while every peer port is down, PLIMIT within its range (R371 to R373, R426); half of a pool
descriptor is written at a time (R334). -/
def Sys2Proof.Parts.HostTablesTakeTheirWrites : Prop :=
  (∀ (s : State) (ctx : Nat) (e : BitVec 512), s.page.boot.toNat < 0x80 →
    let n := Claims.bitsFrom e.toNat
    let broken := 4096 ≤ ctx ∨ n 193 1 = 1 ∧ (n 64 12 ≠ ctx ∨ n 128 7 ≠ 0)
    let busy := s.hasState ctx = true ∨ (s.ctxState ctx).spill ≠ none
    (broken ∨ busy → exec (.contextTableWrite ctx e) s = .next s) ∧
    (¬ broken → ¬ busy → ∃ t, exec (.contextTableWrite ctx e) s = .next t ∧
      (∀ j, j < 512 → (t.ctxEntry ctx).getLsbD j = (e.getLsbD j &&
        (decide (j = 0) || decide (13 ≤ j ∧ j < 46) || decide (64 ≤ j ∧ j < 96) || decide (128 ≤ j ∧ j < 194) ||
          decide (200 ≤ j ∧ j < 212) || decide (224 ≤ j ∧ j < 256) || decide (320 ≤ j ∧ j < 324)))) ∧
      (∀ q, q ≠ ctx → t.ctxEntry q = s.ctxEntry q) ∧ (t.ctxState ctx).failed = false ∧ (t.ctxState ctx).saved = false ∧
      t.mem = s.mem ∧ t.harts = s.harts)) ∧
  (∀ (s : State) (q : Nat) (d : BitVec 128), s.page.boot.toNat < 0x80 →
    let n := Claims.bitsFrom d.toNat
    let ctx := n 1 12
    let core := n 21 9
    let i := Fin.ofNat 17 (n 30 4)
    let fits := q < 1024 ∧ (s.chain core i).ctx = none ∧ ctx ≠ 0 ∧ n 13 8 ≠ 0 ∧ Claims.coreExists core ∧ s.ctxValid ctx = true ∧
      (s.pair (pairOfCore core)).part = some (s.ctxPart ctx) ∧ s.queues.get? q = none
    let reads := fun (t : State) => ∀ j, j < 128 → (t.queueWord q).getLsbD j = (d.getLsbD j && decide (1 ≤ j ∧ j < 34))
    (n 0 1 = 1 → ¬ fits → exec (.queueDescriptorWrite q d) s = .next s) ∧
    (n 0 1 = 1 → fits → ∃ t v, exec (.queueDescriptorWrite q d) s = .next t ∧ t.queues.get? q = some v ∧ v.ctx = ctx ∧
      v.weight = n 13 8 ∧ v.core = core ∧ v.chain = n 30 4 ∧ v.deficit = 0 ∧ (t.chain core i).ctx = some ctx ∧
      (t.chain core i).cmds = [] ∧ { t with queues := s.queues, cores := s.cores, spareQueues := s.spareQueues } = s) ∧
    (n 0 1 = 0 → q < 1024 → s.queues.get? q = none → ∃ t, exec (.queueDescriptorWrite q d) s = .next t ∧ reads t ∧
      { t with spareQueues := s.spareQueues } = s) ∧
    (1024 ≤ q → exec (.queueDescriptorWrite q d) s = .next s) ∧
    (∀ v, n 0 1 = 0 → q < 1024 → s.queues.get? q = some v →
      let c := s.chain v.core (Fin.ofNat 17 v.chain)
      let p := s.partition (s.ctxPart v.ctx)
      let kept := 0 < c.pend ∨ p.incoming = some q ∨ p.turn = some q ∧ (s.hasState v.ctx = true ∨ p.switch ≠ none)
      (kept → exec (.queueDescriptorWrite q d) s = .next s) ∧
      (¬ kept → ∃ t, exec (.queueDescriptorWrite q d) s = .next t ∧ reads t ∧ t.queues.get? q = none ∧
        (t.chain v.core (Fin.ofNat 17 v.chain)).ctx = none ∧ (t.partition (s.ctxPart v.ctx)).turn ≠ some q))) ∧
  (∀ (s : State) (v : Dword),
    ((∃ p ∈ s.ports, p ≠ 0) → exec (.registerWrite 0x0008 v) s = .next s) ∧
    ((∀ p ∈ s.ports, p = 0) → exec (.registerWrite 0x0008 v) s = .next { s with page := { s.page with devnum := v.setWidth 3 } }) ∧
    (1000 ≤ v.toNat → v.toNat ≤ 8500 → exec (.registerWrite 0x0018 v) s = .next { s with page := { s.page with plimit := v.toNat } }) ∧
    (v.toNat < 1000 ∨ 8500 < v.toNat → exec (.registerWrite 0x0018 v) s = .next s) ∧
    exec (.registerWrite 0x0010 v) s = .next s) ∧
  (∀ (s : State) (n : Nat) (v : Dword), s.page.boot.toNat < 0x80 → n < 65536 →
    let old := (s.poolTable.get? n).getD 0
    (∃ t e, exec (.registerWrite (0x100000 + 16 * n) v) s = .next t ∧ t.poolTable.get? n = some e ∧
      (∀ j, j < 64 → e.getLsbD j = (v.getLsbD j && (decide (j = 0) || decide (13 ≤ j ∧ j < 52)))) ∧
      (∀ j, 64 ≤ j → j < 128 → e.getLsbD j = (old.getLsbD j && (decide (64 ≤ j ∧ j < 81) || decide (96 ≤ j ∧ j < 108)))) ∧
      { t with poolTable := s.poolTable } = s) ∧
    (∃ t e, exec (.registerWrite (0x100008 + 16 * n) v) s = .next t ∧ t.poolTable.get? n = some e ∧
      (∀ j, 64 ≤ j → j < 128 → e.getLsbD j = (v.getLsbD (j - 64) && (decide (64 ≤ j ∧ j < 81) || decide (96 ≤ j ∧ j < 108)))) ∧
      (∀ j, j < 64 → e.getLsbD j = (old.getLsbD j && (decide (j = 0) || decide (13 ≤ j ∧ j < 52)))) ∧
      { t with poolTable := s.poolTable } = s))

/-- Requests of the host and the peers, each of a function that its address or queue names beside it (log 62), of a module that
is not in recovery: a read answers the bytes at their home, one at a time, or of the page, of which a virtual function reads the
append registers of its queues; the bytes of a write to device memory go on their way; an atomic answers the old value and
stores the sum, the operand, or the operand where the old value compares equal, and leaves a poisoned word; a flush read
acknowledges what was posted to its function (R257, R269, R270, R365, R421). A doorbell hands the batch of its queue's chain
over; an append register and the system append append a list whole, hand it over and report it, or report why not; an append
that a line keeps back reads as BUSY, and another write meanwhile does nothing (R280, R425, R427, R437); a function that is
frozen, or has not the queue, does neither. The bytes of a write of the host or a peer come to their homes one at a time and in
their order, each unless a running command owns its line; a poisoned line that is written whole is written at once and is
poisoned no longer (R257, R265, R269, R365). The tables and registers of the host control page: an entry of the context table is
written while its context has no state, with its reserved bits 0, and refused where it breaks R371; a valid queue descriptor
binds a free chain of a core of the context's partition, and is refused otherwise; one with V = 0 removes the queue unless it
has work or its context state under the turn, and its fields read back; DEVNUM is written while every peer port is down, PLIMIT
within its range (R371 to R373, R426); half of a pool descriptor is written at a time (R334). What a table refuses is log 46,
the appends and the page are log 47, the places of the page log 58, what a posted write waits for log 19, and the functions are
log 62: the model's choices. -/
def Obligations.HostRequestsAndTablesTakeEffect : Prop := Parts.HostRequestsTakeEffect ∧ Parts.HostWritesArrive ∧ Parts.HostTablesTakeTheirWrites

/-- The command block and the commands of the host control page, of a module that is not in recovery: the argument bytes hold
what is written to them; a command while GO reads 1 is ignored; any other ends with its status, 1 for malformed, an OP that no
command has among them, and 2 for refused arguments, and has its effect otherwise; GO reads 1 until the tick of a command 5
(R372, R377, R395, R427, R428). What a command refuses is log 46, the argument bytes are log 47, an Ungate is log 43, the
functions' numbers are log 58, the host's failing read is log 19, and the in-field test log 11: the model's choices. -/
def Obligations.HostCommandsTakeEffect : Prop :=
  ∀ (s : State), s.page.boot.toNat < 0x80 →
    let done := fun (t : State) (op status : Byte) => ({ t with page := { t.page with op := op, go := false, status := status } } : State)
    let asked := Claims.commanded s
    (∀ (j : Nat) (v : Dword), j < 7 → exec (.registerWrite (0x1008 + 8 * j) v) s =
      .next { s with page := { s.page with args := s.page.args.setIfInBounds j v } }) ∧
    (∀ v : Dword, let named : State := { s with page := { s.page with op := v.setWidth 8 } }
      (s.page.go = true → exec (.registerWrite 0x1000 v) s = .next s) ∧
      (s.page.go = false → v.getLsbD 8 = false → exec (.registerWrite 0x1000 v) s = .next named) ∧
      (s.page.go = false → v.getLsbD 8 = true → v.toNat % 256 = 0 ∨ 11 < v.toNat % 256 →
        exec (.registerWrite 0x1000 v) s = .next (done named (v.setWidth 8) 1))) ∧
    (s.page.go = true →
      (∀ a, exec (.resync a) s = .next (asked 0 0 a)) ∧ (∀ n a, exec (.keyLoad n a) s = .next (asked n 0 a)) ∧
      (∀ core (mask : Byte), exec (.unfence core mask) s = .next (asked core 0 (mask.setWidth 64))) ∧
      (∀ core, exec (.ungate core) s = .next (asked core 0 0)) ∧
      (∀ p q, exec (.preEmpt p q) s = .next (asked p (q.getD 0xFFFFFFFF) 0)) ∧
      (∀ p, exec (.preEmptHold p) s = .next (asked p 0xFFFFFFFF 1)) ∧
      (∀ d p valid, exec (.assignPair d p valid) s = .next (asked d p (if valid then 1 else 0))) ∧
      (∀ a, exec (.emergencyAddress a) s = .next (asked 0 0 a)) ∧ exec .snapshotTrigger s = .next (asked 0 0 0) ∧
      exec .snapshotRearm s = .next (asked 1 0 0) ∧ (∀ n, exec (.collectiveTimeout n) s = .next (asked n 0 0)) ∧
      (∀ f, exec (.thawFunction f) s = .next (asked f 0 0))) ∧
    (s.page.go = false →
    (∀ a, let u := asked 0 0 a
      exec (.resync a) s = .next (done (u.homeStore 0 (hostLoc 0 (a.toNat % 2 ^ 51)) ((u.summary 0).map some)) 1 0)) ∧
    (∀ n a, let u := asked n 0 a
      let ide := 0 ∈ s.linkIde ∨ 0 ∈ s.selectiveIde
      (n = 0 ∨ 4096 ≤ n → exec (.keyLoad n a) s = .next (done u 2 1)) ∧
      (1 ≤ n → n ≤ 4095 → ¬ ide → exec (.keyLoad n a) s = .next (done u 2 2)) ∧
      (1 ≤ n → n ≤ 4095 → ide → ∃ t st, exec (.keyLoad n a) s = .next (done t 2 st) ∧
        (st = 2 ∧ t.keys = s.keys ∨ st = 0 ∧ ∃ k, t.keys.get? n = some k ∧
          ∀ j, j < 64 → k.extractLsb' (8 * j) 8 = s.byte (hostLoc 0 (a.toNat % 2 ^ 51) + j)) ∧
        (∀ m, m ≠ n → t.keys.get? m = s.keys.get? m) ∧ { t with keys := s.keys, choice := s.choice } = u)) ∧
    (∀ core (mask : Byte), let u := asked core 0 (mask.setWidth 64)
      (¬ (core < 512 ∧ core % 16 < 14) → exec (.unfence core mask) s = .next (done u 3 1)) ∧
      (core < 512 → core % 16 < 14 → (∀ k, k < 8 → mask.getLsbD k = true → (s.cluster (8 * core + k)).fenced = false) →
        exec (.unfence core mask) s = .next (done u 3 0)) ∧
      (∀ k, core < 512 → core % 16 < 14 → k < 8 → mask = 1 <<< k → (s.cluster (8 * core + k)).fenced = true →
        ∃ t, ((exec (.unfence core mask) s = .next (done t 3 0) ∧ (t.cluster (8 * core + k)).fenced = false) ∨
          (exec (.unfence core mask) s = .next (done t 3 2) ∧ (t.cluster (8 * core + k)).fenced = true)) ∧
          t.mem = s.mem ∧ ∀ q, q ≠ 8 * core + k → t.cluster q = s.cluster q)) ∧
    (∀ core, let u := asked core 0 0
      (¬ (core < 512 ∧ core % 16 < 14 ∧ upperCore core = true) → exec (.ungate core) s = .next (done u 4 1)) ∧
      (core < 512 → core % 16 < 14 → upperCore core = true →
        ((s.twin (twinOfCore core)).gate ≠ .gated → exec (.ungate core) s = .next (done u 4 2)) ∧
        ((s.twin (twinOfCore core)).gate = .gated → ∃ t, exec (.ungate core) s = .next (done t 4 0) ∧
          (t.twin (twinOfCore core)).gateWant = false ∧ (t.twin (twinOfCore core)).gate = .ungating))) ∧
    (∀ i p q hold, (i = .preEmpt p q ∧ hold = false ∨ i = .preEmptHold p ∧ q = none ∧ hold = true) →
      let u := asked p (q.getD 0xFFFFFFFF) (if hold then 1 else 0)
      let w := u.modPartition p fun v => { v with request := some (q, hold) }
      let takes := exec i s = .next { w with page := { w.page with op := 5, go := true } }
      (16 ≤ p ∨ (∃ n, q = some n ∧ 1024 ≤ n) → exec i s = .next (done u 5 1)) ∧
      (∀ n, p < 16 → q = some n → n < 1024 →
        let works := ∃ d ∈ s.queuesOf p, d.1 = n ∧ s.hasWork d.2 = true
        (¬ works → exec i s = .next (done u 5 2)) ∧ (works → takes)) ∧
      (p < 16 → q = none → takes)) ∧
    (∀ d p valid, let u := asked d p (if valid then 1 else 0)
      (16 ≤ d ∨ 16 ≤ p → exec (.assignPair d p valid) s = .next (done u 6 1)) ∧
      (d < 16 → p < 16 → s.pairBusy d = true → exec (.assignPair d p valid) s = .next (done u 6 2)) ∧
      (d < 16 → p < 16 → s.pairBusy d = false → ∃ t, exec (.assignPair d p valid) s = .next (done t 6 0) ∧
        (t.pair d).part = (if valid then some p else none) ∧ (∀ e, e ≠ d → t.pair e = s.pair e) ∧ { t with pairs := s.pairs } = u)) ∧
    (∀ a, let u := asked 0 0 a
      (a.toNat % 8 ≠ 0 → exec (.emergencyAddress a) s = .next (done u 7 2)) ∧
      (a.toNat % 8 = 0 → exec (.emergencyAddress a) s = .next (done { u with page := { u.page with emergency := a } } 7 0))) ∧
    (let u := asked 0 0 0
      ∃ t, exec .snapshotTrigger s = .next (done t 8 0) ∧
      (s.snapshot.armed = false → t = { u with snapshot := { s.snapshot with missed := s.snapshot.missed + 1 } }) ∧
      (s.snapshot.armed = true → t.snapshot.armed = false ∧ t.snapshot.cause = 0 ∧ t.snapshot.missed = s.snapshot.missed ∧
        t.snapshot.time.toNat = s.devTime % 2 ^ 64 ∧ { t with snapshot := s.snapshot } = u)) ∧
    exec .snapshotRearm s = .next (done { asked 1 0 0 with snapshot := { s.snapshot with armed := true, missed := 0 } } 8 0) ∧
    (∀ n, let u := asked n 0 0
      (n = 0 ∨ 10000000 < n → exec (.collectiveTimeout n) s = .next (done u 9 1)) ∧
      (1 ≤ n → n ≤ 10000000 → exec (.collectiveTimeout n) s = .next (done { u with page := { u.page with collTimeout := n } } 9 0))) ∧
    (∀ f, let u := asked f 0 0
      (f ∉ s.frozenFns → exec (.thawFunction f) s = .next (done u 10 2)) ∧
      (f ∈ s.frozenFns → exec (.thawFunction f) s = .next (done { u with frozenFns := s.frozenFns.filter (· ≠ f) } 10 0))))

/-- The module: a link that goes down stays down and is declared once; a launch with no team beyond it goes on, and one with
teams beyond it loses them, with status 6 and their pairs in its bitmap; a PTM exchange brings device time within 20 ns of the
host's, and TSYNC for 10 ms; a thermal level throttles every cluster of its die, and a power limit every cluster of every die,
no lower than four arrays; device reset empties the cores, the harts and the key slots, keeps the bytes of HBM, and leaves a
module in recovery there; the hard trip leaves the module without power; power-on measures each image that its signature and
version admit, in order, and stops at the first that they do not; a port that goes down leaves the domain, and a peer's link
comes up protected; SPDM requests are answered in order, in SPDM 1.3, and IDE_KM protects the link of port 0 or a function's
stream (R416, R417, R421 to R423, R430 to R435). Links at a reset and their keys are log 31, what a link that goes down leaves
and PTM are log 51, the thermal steps log 52, reset and boot log 53, SPDM's answers log 12, and the signature's form log 63: the
model's choices. -/
def Obligations.ModuleEventsTakeEffect : Prop :=
  (∀ (s : State) (p q : Nat),
    (neighbours p q = false ∨ (p, q) ∈ s.downLinks ∨ (q, p) ∈ s.downLinks → exec (.linkDown p q) s = .next s) ∧
    (neighbours p q = true → (p, q) ∉ s.downLinks → (q, p) ∉ s.downLinks → s.flight = [] →
      let far := fun (l : Launch) (t : Team) => ∃ h, l.home = some h ∧ crosses p q (routeXY (pairOfCore t.core) h) = true
      ((∀ e ∈ s.launches, ∀ t ∈ e.2.teams, ¬ far e.2 t) →
        exec (.linkDown p q) s = .next { s with downLinks := s.downLinks ++ [(p, q)] }) ∧
      (∀ n l, s.launches = [(n, l)] → s.harts = [] → s.clusters = [] → s.ctxStates = [] → (l.teams.map Team.num).Nodup →
        (∃ t ∈ l.teams, far l t) → ∃ t l', exec (.linkDown p q) s = .next t ∧ t.launches = [(n, l')] ∧
          t.downLinks = s.downLinks ++ [(p, q)] ∧ l'.status = (if l.status = 0 then 6 else l.status) ∧ l'.retired = l.retired ∧
          (∀ v, v ∈ l'.teams ↔ v ∈ l.teams ∧ ¬ far l v) ∧
          ∀ b, b < 16 → (l'.bitmap.getLsbD b = true ↔ l.bitmap.getLsbD b = true ∨ ∃ v ∈ l.teams, far l v ∧ pairOfCore v.core = b)))) ∧
  (∀ (s : State) (n : Nat), ∃ t, exec (.ptmExchange n) s = .next t ∧ n ≤ t.devTime + 20 ∧ t.devTime ≤ n + 20 ∧ t.tsync = true ∧
    { t with devTime := s.devTime, lastPtm := s.lastPtm, choice := s.choice } = s) ∧
  (∀ (s : State), ∃ t, exec .tsyncExpiry s = .next t ∧ t.tsync = s.tsync ∧ (s.tsync = false → t.lastPtm = none) ∧
    (s.tsync = true → t = s)) ∧
  (∀ (s : State) (d : Nat) (l : Thermal),
    (32 ≤ d → exec (.thermalLevelChange d l) s = .next s) ∧
    (d < 32 → ∃ t, exec (.thermalLevelChange d l) s = .next t ∧
      (l ≠ .critical → t.thermal.get? d = (if l = .normal then none else some l) ∧ t.mem = s.mem ∧ t.harts = s.harts ∧
        ∀ k, dieOfCore (coreOfCluster k) = d → coreOfCluster k % 16 < 14 →
          (t.cluster k).thermalLane = (match l with
            | .normal => 0
            | .hot => min 2 ((s.cluster k).thermalLane + 1)
            | _ => (s.cluster k).thermalLane) ∧
          (t.cluster k).thermalSkip.toNat = (match l with
            | .normal => 0
            | .warm => (2 * (s.cluster k).thermalSkip.toNat + 1) % 64
            | _ => (s.cluster k).thermalSkip.toNat)) ∧
      (l = .critical → s.emergencySave = true → ∀ k, dieOfCore (coreOfCluster k) = d → coreOfCluster k % 16 < 14 →
        (t.cluster k).thermalLane = 2 ∧ (t.cluster k).thermalSkip = 0x3F))) ∧
  (∀ (s : State), ∃ t, exec .plimitExceeded s = .next t ∧ t.powerCapped = true ∧ t.mem = s.mem ∧ t.harts = s.harts ∧
    ∀ k, dieOfCore (coreOfCluster k) < 32 → coreOfCluster k % 16 < 14 → let c := s.cluster k
      (c.thermalSkip = 0x3F → (t.cluster k).thermalLane = min 2 (c.thermalLane + 1) ∧ (t.cluster k).thermalSkip = 0x3F) ∧
      (c.thermalSkip ≠ 0x3F → (t.cluster k).thermalLane = c.thermalLane ∧
        (t.cluster k).thermalSkip.toNat = (2 * c.thermalSkip.toNat + 1) % 64)) ∧
  (∀ (s : State), ∃ t, exec .deviceReset s = .next t ∧ t.powered = true ∧ t.harts = [] ∧ t.clusters = [] ∧ t.cores = [] ∧ t.twins = [] ∧
    t.pairs = [] ∧ t.launches = [] ∧ t.contexts = [] ∧ t.queues = [] ∧ t.partitions = [] ∧ t.rows = [] ∧ t.l1 = [] ∧ t.tlb = [] ∧
    t.keys = [] ∧ t.cache = [] ∧ t.flight = [] ∧ t.lineOwners = [] ∧ t.rowOwners = [] ∧ t.rowPoison = [] ∧ t.poolTable = [] ∧
    t.ctxStates = [] ∧ t.colls = [] ∧ t.frozenFns = [] ∧ t.thermal = [] ∧ t.emergencySave = false ∧ t.poison = s.poison ∧
    t.lineKeys = s.lineKeys ∧ t.ports = s.ports ∧ t.measurements = s.measurements ∧
    t.devTime = 0 ∧ t.now = 0 ∧ t.downLinks = [] ∧ t.snapshot = {} ∧
    t.page = { boot := if s.page.boot.toNat < 0x80 then 0 else s.page.boot } ∧ t.spdm = s.spdm ∧ t.linkIde = s.linkIde ∧
    (∀ a, t.byte a = if a < 2 ^ 44 ∨ 2 ^ 50 ≤ a then s.byte a else 0)) ∧
  (∀ (s : State), ∃ t, exec .hardTrip s = .next t ∧ t.powered = false ∧ t.harts = [] ∧ t.cores = [] ∧
    (∀ a, t.byte a = if 2 ^ 50 ≤ a then s.byte a else 0)) ∧
  (∀ (s : State) (images : List BootImage),
    (s.powered = true → s.page.boot ≠ 0 → exec (.powerOn images) s = .next s) ∧
    (s.powered = false ∨ s.page.boot = 0 →
      ∃ t m, exec (.powerOn images) s = .next t ∧ t.powered = true ∧ t.measurements = m ∧
        { t with powered := s.powered, measurements := s.measurements, page := s.page } = s ∧
        let right := fun (i : BootImage) => verifyP521 (sha512 i.bytes) i.signature
        let n := (images.takeWhile fun i => i.readable && right i && decide (Config.fusedVersion ≤ i.version)).length
        t.page.boot = (match images[n]? with
          | none => if n = 0 then 0x82 else 0x01
          | some i => if i.readable = false then 0x82 else if right i = false then 0x80 else 0x81) ∧
        (images.length ≤ 8 → ∀ j, j < 8 → m[j]? = some (match images[j]? with
          | none => 0
          | some i => if n ≤ j then 0 else
            sha512 (List.replicate 64 0 ++ (List.range 64).map fun b => (sha512 i.bytes).extractLsb' (8 * b) 8))))) ∧
  (∀ (s : State) (p : Nat) (up : Bool),
    (8 ≤ p → exec (.portLinkChange p up) s = .next s) ∧
    (p < 8 → ∃ t, exec (.portLinkChange p up) s = .next t ∧ (p ∈ t.ports ↔ up = true) ∧ (∀ q, q ≠ p → (q ∈ t.ports ↔ q ∈ s.ports)) ∧
      (∀ q, q ≠ p → (q ∈ t.linkIde ↔ q ∈ s.linkIde)) ∧ (p ∈ t.linkIde ↔ up = true ∧ (p ≠ 0 ∨ p ∈ s.linkIde)) ∧
      t.selectiveIde = (if p = 0 ∧ up = false then [] else s.selectiveIde) ∧
      { t with ports := s.ports, linkIde := s.linkIde, selectiveIde := s.selectiveIde } = s)) ∧
  (∀ (s : State), s.page.boot.toNat < 0x80 →
    let v := s.spdm
    let answers := fun (i : Instr) (code : Nat) (ok : Bool) (w : Spdm) => ∃ a : SpdmAnswer,
      exec i s = .next { s with spdm := { (if ok then w else v) with answer := some a } } ∧ a.version = 0x13 ∧
      a.code = (if ok then code else 0x7F) ∧ a.algorithms = (if ok = true ∧ code = 0x63 then [.ecdsaP521, .sha512] else []) ∧
      a.measurements = if ok = true ∧ code = 0x60 then s.measurements.toList else []
    answers .getVersion 0x04 true { v with versioned := true, capable := false, negotiated := false } ∧
    answers .getCapabilities 0x61 v.versioned { v with capable := true } ∧
    answers .negotiateAlgorithms 0x63 v.capable { v with negotiated := true } ∧
    answers .getDigests 0x01 v.negotiated v ∧ (∀ n, answers (.getCertificate n) 0x02 v.negotiated v) ∧
    (∀ n, answers (.challenge n) 0x03 v.negotiated v) ∧ (∀ n, answers (.getMeasurements n) 0x60 v.negotiated v) ∧
    (∀ l, answers (.keyExchange l) 0x64 v.negotiated { v with keyed := true, secured := false }) ∧
    (∀ l, answers (.finish l) 0x65 (v.keyed && Config.spdmVerify l) { v with secured := true }) ∧
    (∀ l, ∃ (t : State) (a : SpdmAnswer), exec (.ideKm l) s = .next t ∧ t.spdm = { v with answer := some a } ∧
      (∀ p, p ∈ t.linkIde ↔ p ∈ s.linkIde ∨ p = 0 ∧ v.secured = true ∧ l.head? = some 0) ∧
      (∀ f, f ∈ t.selectiveIde ↔ f ∈ s.selectiveIde ∨ v.secured = true ∧ ∃ k ks, l = k :: ks ∧ k ≠ 0 ∧ f = k.toNat - 1) ∧
      { t with linkIde := s.linkIde, selectiveIde := s.selectiveIde, spdm := s.spdm } = s))

/-! ## Encodings, memory, reset and the step -/

/-- Every word that the encoder gives for a well-formed instruction, with every operand and every stall count that its encoding
admits, decodes to that instruction and stall count: no bit of an encoding is dropped (03 R72, R77). -/
def Obligations.EncodedWordsDecode : Prop :=
  ∀ (i : Instr) (st : Stall) (w : Word), i.WellFormed → encode i st = some w → decode w = some i ∧ stallOf w = st

/-- Every word that decodes is the one word of its instruction and stall count, and the instruction is well formed: a word with a
reserved field that is not zero, an unassigned function value or a field value out of its range decodes to nothing (03 R72, R77,
R78). -/
def Obligations.DecodedWordsEncode : Prop :=
  ∀ (w : Word) (i : Instr), decode w = some i → i.WellFormed ∧ encode i (stallOf w) = some w

/-- Words written out field by field from the tables of R77 decode to their instructions, and words of R78 to none: an unassigned
major, an unassigned function value, a reserved bit, a loop offset of 0, a chain above 16. -/
def Obligations.WrittenWordsDecode : Prop :=
  decode 0b000010_00001_00010_00011_00000000_100#32 = some (.add 1 2 3) ∧
  decode 0b000011_00101_00110_1111111111111_000#32 = some (.addi 5 6 0x1FFF) ∧
  decode 0b000001_011_1_1_01001_0000000000000_000#32 = some (.pfx 3 1 1 9) ∧
  decode 0b001100_00111_01000_0000000000100_010#32 = some (.beq 7 8 4) ∧
  decode 0b010111_00001_00010_0000001000_110_000#32 = some (.ld 1 2 8) ∧
  decode 0b011101_0001_0010_0011_00100_1_00000_000#32 = some (.vadd 1 2 3 4 1) ∧
  decode 0b011010_000000000000000_00000001_000#32 = some .scall ∧
  decode 0b110011_00001_00000_00000_00000111_000#32 = some (.estep 1) ∧
  decode 0b000000_00000_00000_00000_00000000_000#32 = none ∧
  decode 0b111111_00000_00000_00000_00000000_000#32 = none ∧
  decode 0b000010_00001_00010_00011_00011011_000#32 = none ∧
  decode 0b000010_00001_00010_00001_00010111_000#32 = none ∧
  decode 0b010100_00000_00001_0000000000000_000#32 = none ∧
  decode 0b010101_0000000011_0000000000000_000#32 = none ∧
  decode 0b101101_00000_10001_00000_00000001_000#32 = none

/-- No instruction, no event and no word of a hart or a steward stops the machine: each answers a next state, where it takes a trap
as well as where it has its effect. -/
def Obligations.NoInstructionStops : Prop := ∀ (i : Instr) (s : State), ∃ t, exec i s = .next t

/-- A write at the home reads back byte by byte under its key, and every byte around it reads as it did; a line that it does not
meet reads as before under every key, and so does W-space, C-space and what lies outside the device (09 R220, 11 R253, R254). -/
def Obligations.HomeStoresWriteTheirBytes : Prop :=
  ∀ (s : State) (key loc : Nat) (bs : List Byte), loc + bs.length ≤ 2 ^ 44 →
    let t := s.homeStore key loc (bs.map some)
    let u := s.settle loc bs.length
    (∀ a, loc ≤ a → a < loc + bs.length → t.plain key a = bs.getD (a - loc) 0) ∧
    (∀ a, a < loc ∨ loc + bs.length ≤ a → t.plain key a = u.plain key a) ∧
    (∀ a k, a / 128 < loc / 128 ∨ (loc + bs.length + 127) / 128 ≤ a / 128 → t.plain k a = u.plain k a) ∧
    (∀ a, 2 ^ 44 ≤ a → t.byte a = u.byte a) ∧
    t.rows = u.rows ∧ t.harts = u.harts ∧ t.cores = u.cores ∧ t.flight = u.flight ∧ t.keys = u.keys

/-- A shared cache half of 16-way sets takes a line in while its set has a free way. In a full set the line takes the place of the victim:
of the lines that may leave, the one of lowest rank, of equal ranks the one of lowest address; where no line may leave, it is not allocated.
A line that no entry of the schedule of its pair covers may leave at rank 0; otherwise the first entry that covers it counts, and the line
may leave, at that entry's rank, once the step counter exceeds its STEP (R205, R207, R208). -/
def Obligations.SharedCachesEvictBySchedule : Prop :=
  (∀ (s : State) (line : Nat),
    let pair := s.pair (cacheHalf line / 2)
    let half := s.cache.filter fun l => decide (cacheHalf l = cacheHalf line)
    let set := half.filter fun l => decide (cacheSetOf l = cacheSetOf line)
    let rank := fun (l : Nat) => pair.rank (s.page.devnum.toNat * 2 ^ 36 + l)
    (line ∈ s.cache → s.allocate line = s) ∧
    (line ∉ s.cache →
      (half.length < 16 ∨ set.length < 16 → s.allocate line = { s with cache := line :: s.cache }) ∧
      (16 ≤ half.length → 16 ≤ set.length →
        ((∀ l ∈ set, rank l = none) → s.allocate line = s) ∧
        (∀ v r, v ∈ set → rank v = some r → (∀ l ∈ set, ∀ q, rank l = some q → r < q ∨ r = q ∧ v ≤ l) →
          s.allocate line = { s with cache := line :: s.cache.erase v })))) ∧
  (∀ (p : DiePair) (line : Nat),
    let covers := fun (e : BitVec 128) => (e.extractLsb' 7 39).toNat ≤ line ∧ line < (e.extractLsb' 7 39).toNat + (e.extractLsb' 64 32).toNat
    ((∀ e ∈ p.schedule, ¬ covers e) → p.rank line = some 0) ∧
    (∀ l e r, p.schedule = l ++ e :: r → (∀ o ∈ l, ¬ covers o) → covers e →
      (p.stepCount.toNat ≤ (e.extractLsb' 96 16).toNat → p.rank line = none) ∧
      ((e.extractLsb' 96 16).toNat < p.stepCount.toNat → p.rank line = some (e.extractLsb' 112 8).toNat))) ∧
  (∀ (line : Nat), cacheHalf line = 2 * (128 * line / (96 * 2 ^ 30)) + (if (128 * line).testBit 7 ^^ (128 * line).testBit 16 then 1 else 0))

/-- Memory keeps its canonical form, strictly rising addresses and no entry equal to what an unlisted address reads as, in every
step from every state that has it. -/
def Obligations.StepsKeepMemoryCanonical : Prop :=
  ∀ (s t : State), s.Canonical → step s = .next t → t.Canonical

/-- The machine after device reset has no hart, launch, context or queue, holds zero in W-space, C-space and HBM and no row, and
its registers hold the values of the manual; a hart starts as R30 and R21 say: registers and predicates clear but p0, fields
undefined, loop stack and latch empty, its CSRs at their reset values (01 R21, R30, 07 R165, 21 R426 to R428). That HBM and the
outside read as log 15 says, and that the caches are empty (log 6), is the model's choice. -/
def Obligations.ResetLeavesTheManualsValues : Prop :=
  let s := State.reset
  (s.Canonical ∧ s.harts = [] ∧ s.launches = [] ∧ s.contexts = [] ∧ s.queues = [] ∧ s.rows = [] ∧ s.keys = [] ∧ s.tlb = [] ∧
    s.cache = [] ∧ s.l1 = [] ∧ s.flight = [] ∧ s.incoming = [] ∧ s.poison = [] ∧ s.rowPoison = [] ∧ s.devTime = 0 ∧ s.now = 0 ∧ s.page.plimit = 8500 ∧ s.page.devnum = 0 ∧ s.page.boot = 0 ∧
    s.page.collTimeout = 100000 ∧ s.page.emergency = 0 ∧ s.snapshot.armed = true ∧ s.snapshot.missed = 0 ∧
    (∀ a, a < 2 ^ 50 → s.byte a = 0) ∧ (∀ k e, s.row k e = 0) ∧ (∀ h t e, s.tag h t e = false) ∧
    (∀ c n, (s.core c).drainSlot 0 n = none ∧ (s.core c).b0 = none ∧ (s.core c).b1 = none) ∧
    (∀ k n, (s.cluster k).tables.getD n none = none ∧ (s.cluster k).laneCode = 0) ∧
    (∀ c, (s.core c).steward.svec = 0 ∧ (s.core c).steward.serr = 0 ∧ (s.core c).steward.clctl = 0)) ∧
  (let t : Hart := {}
   (∀ r, t.sc.get r = 0) ∧ t.sc.preds = 1 ∧ t.sc.loops = [] ∧ t.sc.latch = none ∧ (∀ v : VReg, (t.field v).width = 0) ∧
    t.csr.rowbase = 0 ∧ t.csr.rmode = 0 ∧ t.csr.fflags = 0 ∧ t.csr.kmask = 0 ∧ t.csr.mk0 = BitVec.allOnes 64 ∧
    t.csr.mk1 = BitVec.allOnes 64 ∧ t.csr.tvec = 0 ∧ t.csr.tepc = 0 ∧ t.csr.tcause = 0 ∧ t.csr.tval = 0 ∧ t.csr.sbase = 0 ∧
    t.csr.pfxl = 0 ∧ t.csr.tscr = 0 ∧ t.csr.inh = false ∧ t.csr.ntimeo = 1048576 ∧ t.csr.schk = false ∧ t.csr.migwait = 65535)

/-- No event from outside is taken: there is none, or the oldest waits for a line that a running command owns, or for the bytes of an
earlier write (R265, R269). -/
def Sys2Proof.Claims.quiet (s : State) : Prop :=
  s.inputs = [] ∨ ∃ i rest, s.inputs = i :: rest ∧ s.powered = true ∧ fromOutside i = true ∧ (s.inputWaits i || s.behindWrite i) = true

/-- A step: the oldest event from outside runs first, unless it waits; without power the machine takes POWER_ON alone, and stops
where nothing comes; in the engines' part of a cycle it is an event or the selection; in the issue part the next agent is asked:
one that may not issue is passed over; one whose retired access has failed traps with that; any other runs the instruction that
its word decodes to, by exec, or traps on a word that is none or on its fetch; what follows is the account of the issue slots;
after the last agent the cycle ends. The order of what happens in a cycle is the model's choice (logs 2 and 3), as is the device
time of a cycle (log 18). -/
def Obligations.StepsRunTheDecodedInstruction : Prop :=
  (∀ (s : State), s.inputs = [] → s.powered = false → step s = .fault .powerOff) ∧
  (∀ (s : State) (i : Instr) (rest : List Instr), s.inputs = i :: rest →
    let u : State := { s with inputs := rest }
    (s.powered = true → fromOutside i = true → s.inputWaits i = false → s.behindWrite i = false → step s = exec i u) ∧
    (s.powered = true → fromOutside i = false → step s = .next u) ∧
    (s.powered = false → step s = if isPowerOn i then exec i u else .next u)) ∧
  (∀ (s : State), Claims.quiet s → s.powered = true → s.phase = .background → step s = .next s.backgroundStep) ∧
  (∀ (s : State), Claims.quiet s → s.powered = true → s.phase = .issue → s.todo = [] → step s = .next s.tick) ∧
  (∀ (s : State) (a : Agent) (rest : List Agent), Claims.quiet s → s.powered = true → s.phase = .issue → s.todo = a :: rest →
    let u : State := { s with todo := rest, cur := a }
    let v := u.unbar a
    (u.mayIssue a = false → step s = .next u) ∧
    (∀ f, u.mayIssue a = true → v.overdueFault = some f →
      step s = .next (u.settleIssue a (State.finish (.trap (v.modSelf fun t => { t with overdue := none }) f.1 f.2)))) ∧
    (∀ w t i r, u.mayIssue a = true → v.overdueFault = none → v.nextWord = (.ok w, t) → decode w = some i →
      exec i { t with ir := w } = .next r → step s = .next (u.settleIssue a r)) ∧
    (∀ w t r, u.mayIssue a = true → v.overdueFault = none → v.nextWord = (.ok w, t) → decode w = none →
      exec .nonInstructionWord { t with ir := w } = .next r → step s = .next (u.settleIssue a r)) ∧
    (∀ m t r, u.mayIssue a = true → v.overdueFault = none → v.nextWord = (.error m, t) →
      exec .instructionFetchFault v = .next r → step s = .next (u.settleIssue a r))) ∧
  (∀ n, ((List.range n).map nsOfCycle).sum = n * 50 / 47)
end

