-- ==== Sys2Proof/Laws/Frame.lean ====
section
/-! SUPPORT. What the frame of a word does: a word that is ready runs its body; one that is not stops at the check that it
fails. -/

namespace Sys2Proof.Machine

@[simp] theorem State.setSc_cur (s : State) (v : Scalar) : (s.setSc v).cur = s.cur := by
  unfold State.setSc
  split <;> rfl

@[simp] theorem State.due_cur (s : State) : s.due.cur = s.cur := State.setSc_cur s _

/-- The frame of a word, with its checks made in the state `due`. -/
theorem runWord_eq (i : Instr) (f : State → Flow) (s : State) :
    runWord i f s =
      if privileged i && s.cur.isHart then s.due.trapped causePriv s.due.wordValue
      else if (if s.cur.isHart then namesSystemChain i else !stewardWord i) then s.due.trapped causeIll s.due.wordValue
      else
        match s.due.sc.latch with
        | none => s.due.body i f
        | some p =>
          if pfxIllegal i p then s.due.trapped causeIll s.due.wordValue
          else if s.due.sc.pred p.psel == p.pinv then s.due.retired
          else s.due.body i f := by
  rw [← State.due_cur s]
  rfl

/-- A word that is ready runs its body. -/
theorem runWord_ready {s : State} {i : Instr} (h : s.Ready i) (f : State → Flow) :
    runWord i f s = State.finish (f s.due) := by
  have hb : s.due.body i f = State.finish (f s.due) := by
    simp only [State.body, h.stall, h.late, h.free]
    split <;> rfl
  rw [runWord_eq, h.mode, h.agent]
  simp only [Bool.false_eq_true, if_false]
  split
  · exact hb
  · rename_i p hp
    obtain ⟨h7, h8⟩ := h.latch p hp
    simp [h7, hb, h8]

end Sys2Proof.Machine
end

