-- ==== Sys2Proof/Laws/Sparse.lean ====
section
/-! SUPPORT. Reading a map after writing it, and that writing keeps the canonical form. -/

namespace Sys2Proof.Machine

@[simp] theorem FMap.get?_put_same {α : Type} (m : FMap α) (k : Nat) (v : α) : (m.put k v).get? k = some v := by
  induction m with
  | nil => simp [FMap.put, FMap.get?]
  | cons e m ih =>
    obtain ⟨j, w⟩ := e
    simp only [FMap.put]
    split
    · simp [FMap.get?]
    · split
      · simp [FMap.get?]
      · simp_all [FMap.get?]

@[simp] theorem FMap.get?_put_other {α : Type} (m : FMap α) {k k' : Nat} (v : α) (h : k' ≠ k) :
    (m.put k v).get? k' = m.get? k' := by
  induction m with
  | nil => simp [FMap.put, FMap.get?, h.symm]
  | cons e m ih =>
    obtain ⟨j, w⟩ := e
    simp only [FMap.put]
    split
    · simp [FMap.get?, h.symm]
    · split
      · rename_i hj
        subst hj
        simp [FMap.get?, h.symm]
      · simp_all [FMap.get?]

/-- The later of two values at a key stays. -/
@[simp] theorem FMap.put_put {α : Type} (m : FMap α) (k : Nat) (v w : α) : (m.put k v).put k w = m.put k w := by
  induction m with
  | nil => simp [FMap.put]
  | cons e m ih =>
    obtain ⟨j, u⟩ := e
    simp only [FMap.put]
    split
    · simp [FMap.put]
    · split
      · simp [FMap.put]
      · simp_all [FMap.put]

@[simp] theorem FMap.get?_erase_same {α : Type} (m : FMap α) (k : Nat) : (m.erase k).get? k = none := by
  induction m with
  | nil => rfl
  | cons e m ih =>
    obtain ⟨j, w⟩ := e
    by_cases hj : j = k <;> simp_all [FMap.erase, FMap.get?]

@[simp] theorem FMap.get?_erase_other {α : Type} (m : FMap α) {k k' : Nat} (h : k' ≠ k) :
    (m.erase k).get? k' = m.get? k' := by
  induction m with
  | nil => rfl
  | cons e m ih =>
    obtain ⟨j, w⟩ := e
    by_cases hj : j = k
    · subst hj
      simp_all [FMap.erase, FMap.get?, h.symm]
    · simp_all [FMap.erase, FMap.get?]

/-- The keys of a map, strictly rising. -/
theorem FMap.sorted_iff {α : Type} (m : FMap α) : m.sorted = true ↔ m.Pairwise (fun a b => a.1 < b.1) := by
  induction m with
  | nil => simp [FMap.sorted]
  | cons e m ih =>
    cases m with
    | nil => simp [FMap.sorted]
    | cons f m =>
      obtain ⟨j, v⟩ := e
      obtain ⟨k, w⟩ := f
      simp only [FMap.sorted, Bool.and_eq_true, decide_eq_true_eq, ih]
      constructor
      · rintro ⟨hjk, hp⟩
        refine List.Pairwise.cons ?_ hp
        intro a ha
        rcases List.mem_cons.mp ha with rfl | ha
        · exact hjk
        · exact Nat.lt_trans hjk (List.rel_of_pairwise_cons hp ha)
      · intro hp
        exact ⟨(List.pairwise_cons.mp hp).1 (k, w) (by simp), hp.of_cons⟩

theorem FMap.mem_put {α : Type} {m : FMap α} {k : Nat} {v : α} {e : Nat × α} (h : e ∈ m.put k v) :
    e = (k, v) ∨ e ∈ m := by
  induction m with
  | nil => simpa [FMap.put] using h
  | cons f m ih =>
    obtain ⟨j, w⟩ := f
    simp only [FMap.put] at h
    split at h
    · simpa using h
    · split at h
      · rcases List.mem_cons.mp h with h | h
        · exact .inl h
        · exact .inr (by simp [h])
      · rcases List.mem_cons.mp h with h | h
        · exact .inr (by simp [h])
        · rcases ih h with h | h
          · exact .inl h
          · exact .inr (by simp [h])

theorem FMap.sorted_put {α : Type} {m : FMap α} (h : m.sorted = true) (k : Nat) (v : α) : (m.put k v).sorted = true := by
  rw [FMap.sorted_iff] at *
  induction m with
  | nil => simp [FMap.put]
  | cons e m ih =>
    obtain ⟨j, w⟩ := e
    obtain ⟨h1, h2⟩ := List.pairwise_cons.mp h
    simp only [FMap.put]
    split
    · rename_i hk
      refine List.Pairwise.cons ?_ h
      intro a ha
      rcases List.mem_cons.mp ha with rfl | ha
      · exact hk
      · exact Nat.lt_trans hk (h1 a ha)
    · split
      · rename_i hj
        subst hj
        exact List.Pairwise.cons h1 h2
      · refine List.Pairwise.cons ?_ (ih h2)
        intro a ha
        rcases FMap.mem_put ha with rfl | ha
        · simp only; omega
        · exact h1 a ha

theorem FMap.sorted_erase {α : Type} {m : FMap α} (h : m.sorted = true) (k : Nat) : (m.erase k).sorted = true := by
  rw [FMap.sorted_iff] at *
  exact h.filter _

theorem sparseGet_put_same {α : Type} [DecidableEq α] (d : Nat → α) (m : FMap α) (k : Nat) (v : α) :
    sparseGet d (sparsePut d m k v) k = v := by
  unfold sparsePut sparseGet
  split <;> simp_all

theorem sparseGet_put_other {α : Type} [DecidableEq α] (d : Nat → α) (m : FMap α) {k k' : Nat} (v : α) (h : k' ≠ k) :
    sparseGet d (sparsePut d m k v) k' = sparseGet d m k' := by
  unfold sparsePut sparseGet
  split <;> simp [h]

/-- A store with entries taken off keeps the canonical form. -/
theorem sparseWf_filter {α : Type} [DecidableEq α] {d : Nat → α} {m : FMap α} (h : sparseWf d m = true) (p : Nat × α → Bool) :
    sparseWf d (m.filter p) = true := by
  simp only [sparseWf, Bool.and_eq_true, List.all_eq_true, decide_eq_true_eq] at *
  rw [FMap.sorted_iff] at *
  exact ⟨h.1.filter _, fun e he => h.2 e (List.mem_of_mem_filter he)⟩

/-- A write keeps the canonical form. -/
theorem sparseWf_put {α : Type} [DecidableEq α] {d : Nat → α} {m : FMap α} (h : sparseWf d m = true) (k : Nat) (v : α) :
    sparseWf d (sparsePut d m k v) = true := by
  simp only [sparseWf, Bool.and_eq_true, List.all_eq_true, decide_eq_true_eq] at *
  unfold sparsePut
  split
  · exact ⟨FMap.sorted_erase h.1 k, fun e he => h.2 e (List.mem_of_mem_filter he)⟩
  · rename_i hv
    refine ⟨FMap.sorted_put h.1 k v, fun e he => ?_⟩
    rcases FMap.mem_put he with rfl | he
    · exact hv
    · exact h.2 e he

end Sys2Proof.Machine
end

