-- ==== Sys2Proof/Laws/State.lean ====
section
/-! SUPPORT. What each named update of the state leaves alone, field by field, and what the parts read after it. -/

namespace Sys2Proof.Machine

/-! ## Fields that an update leaves alone -/

@[simp] theorem State.setHart_powered (s : State) (h : HartKey) (v : Hart) : (s.setHart h v).powered = s.powered := rfl
@[simp] theorem State.setHart_now (s : State) (h : HartKey) (v : Hart) : (s.setHart h v).now = s.now := rfl
@[simp] theorem State.setHart_devTime (s : State) (h : HartKey) (v : Hart) : (s.setHart h v).devTime = s.devTime := rfl
@[simp] theorem State.setHart_phase (s : State) (h : HartKey) (v : Hart) : (s.setHart h v).phase = s.phase := rfl
@[simp] theorem State.setHart_todo (s : State) (h : HartKey) (v : Hart) : (s.setHart h v).todo = s.todo := rfl
@[simp] theorem State.setHart_cur (s : State) (h : HartKey) (v : Hart) : (s.setHart h v).cur = s.cur := rfl
@[simp] theorem State.setHart_ir (s : State) (h : HartKey) (v : Hart) : (s.setHart h v).ir = s.ir := rfl
@[simp] theorem State.setHart_inputs (s : State) (h : HartKey) (v : Hart) : (s.setHart h v).inputs = s.inputs := rfl
@[simp] theorem State.setHart_choice (s : State) (h : HartKey) (v : Hart) : (s.setHart h v).choice = s.choice := rfl
@[simp] theorem State.setHart_mem (s : State) (h : HartKey) (v : Hart) : (s.setHart h v).mem = s.mem := rfl
@[simp] theorem State.setHart_rows (s : State) (h : HartKey) (v : Hart) : (s.setHart h v).rows = s.rows := rfl
@[simp] theorem State.setHart_l1 (s : State) (h : HartKey) (v : Hart) : (s.setHart h v).l1 = s.l1 := rfl
@[simp] theorem State.setHart_flight (s : State) (h : HartKey) (v : Hart) : (s.setHart h v).flight = s.flight := rfl
@[simp] theorem State.setHart_poison (s : State) (h : HartKey) (v : Hart) : (s.setHart h v).poison = s.poison := rfl
@[simp] theorem State.setHart_rowPoison (s : State) (h : HartKey) (v : Hart) : (s.setHart h v).rowPoison = s.rowPoison := rfl
@[simp] theorem State.setHart_lineOwners (s : State) (h : HartKey) (v : Hart) : (s.setHart h v).lineOwners = s.lineOwners := rfl
@[simp] theorem State.setHart_rowOwners (s : State) (h : HartKey) (v : Hart) : (s.setHart h v).rowOwners = s.rowOwners := rfl
@[simp] theorem State.setHart_cache (s : State) (h : HartKey) (v : Hart) : (s.setHart h v).cache = s.cache := rfl
@[simp] theorem State.setHart_incoming (s : State) (h : HartKey) (v : Hart) : (s.setHart h v).incoming = s.incoming := rfl
@[simp] theorem State.setHart_reading (s : State) (h : HartKey) (v : Hart) : (s.setHart h v).reading = s.reading := rfl
@[simp] theorem State.setHart_keys (s : State) (h : HartKey) (v : Hart) : (s.setHart h v).keys = s.keys := rfl
@[simp] theorem State.setHart_lineKeys (s : State) (h : HartKey) (v : Hart) : (s.setHart h v).lineKeys = s.lineKeys := rfl
@[simp] theorem State.setHart_tlb (s : State) (h : HartKey) (v : Hart) : (s.setHart h v).tlb = s.tlb := rfl
@[simp] theorem State.setHart_clusters (s : State) (h : HartKey) (v : Hart) : (s.setHart h v).clusters = s.clusters := rfl
@[simp] theorem State.setHart_cores (s : State) (h : HartKey) (v : Hart) : (s.setHart h v).cores = s.cores := rfl
@[simp] theorem State.setHart_twins (s : State) (h : HartKey) (v : Hart) : (s.setHart h v).twins = s.twins := rfl
@[simp] theorem State.setHart_pairs (s : State) (h : HartKey) (v : Hart) : (s.setHart h v).pairs = s.pairs := rfl
@[simp] theorem State.setHart_launches (s : State) (h : HartKey) (v : Hart) : (s.setHart h v).launches = s.launches := rfl
@[simp] theorem State.setHart_nextLaunch (s : State) (h : HartKey) (v : Hart) : (s.setHart h v).nextLaunch = s.nextLaunch := rfl
@[simp] theorem State.setHart_contexts (s : State) (h : HartKey) (v : Hart) : (s.setHart h v).contexts = s.contexts := rfl
@[simp] theorem State.setHart_poolTable (s : State) (h : HartKey) (v : Hart) : (s.setHart h v).poolTable = s.poolTable := rfl
@[simp] theorem State.setHart_ctxStates (s : State) (h : HartKey) (v : Hart) : (s.setHart h v).ctxStates = s.ctxStates := rfl
@[simp] theorem State.setHart_queues (s : State) (h : HartKey) (v : Hart) : (s.setHart h v).queues = s.queues := rfl
@[simp] theorem State.setHart_spareQueues (s : State) (h : HartKey) (v : Hart) : (s.setHart h v).spareQueues = s.spareQueues := rfl
@[simp] theorem State.setHart_appends (s : State) (h : HartKey) (v : Hart) : (s.setHart h v).appends = s.appends := rfl
@[simp] theorem State.setHart_partitions (s : State) (h : HartKey) (v : Hart) : (s.setHart h v).partitions = s.partitions := rfl
@[simp] theorem State.setHart_colls (s : State) (h : HartKey) (v : Hart) : (s.setHart h v).colls = s.colls := rfl
@[simp] theorem State.setHart_page (s : State) (h : HartKey) (v : Hart) : (s.setHart h v).page = s.page := rfl
@[simp] theorem State.setHart_snapshot (s : State) (h : HartKey) (v : Hart) : (s.setHart h v).snapshot = s.snapshot := rfl
@[simp] theorem State.setHart_lastPtm (s : State) (h : HartKey) (v : Hart) : (s.setHart h v).lastPtm = s.lastPtm := rfl
@[simp] theorem State.setHart_ports (s : State) (h : HartKey) (v : Hart) : (s.setHart h v).ports = s.ports := rfl
@[simp] theorem State.setHart_linkIde (s : State) (h : HartKey) (v : Hart) : (s.setHart h v).linkIde = s.linkIde := rfl
@[simp] theorem State.setHart_selectiveIde (s : State) (h : HartKey) (v : Hart) : (s.setHart h v).selectiveIde = s.selectiveIde := rfl
@[simp] theorem State.setHart_frozenFns (s : State) (h : HartKey) (v : Hart) : (s.setHart h v).frozenFns = s.frozenFns := rfl
@[simp] theorem State.setHart_downLinks (s : State) (h : HartKey) (v : Hart) : (s.setHart h v).downLinks = s.downLinks := rfl
@[simp] theorem State.setHart_thermal (s : State) (h : HartKey) (v : Hart) : (s.setHart h v).thermal = s.thermal := rfl
@[simp] theorem State.setHart_powerCapped (s : State) (h : HartKey) (v : Hart) : (s.setHart h v).powerCapped = s.powerCapped := rfl
@[simp] theorem State.setHart_emergencySave (s : State) (h : HartKey) (v : Hart) : (s.setHart h v).emergencySave = s.emergencySave := rfl
@[simp] theorem State.setHart_measurements (s : State) (h : HartKey) (v : Hart) : (s.setHart h v).measurements = s.measurements := rfl
@[simp] theorem State.setHart_spdm (s : State) (h : HartKey) (v : Hart) : (s.setHart h v).spdm = s.spdm := rfl
@[simp] theorem State.setHart_hostAnswer (s : State) (h : HartKey) (v : Hart) : (s.setHart h v).hostAnswer = s.hostAnswer := rfl

@[simp] theorem State.modHart_powered (s : State) (h : HartKey) (f : Hart → Hart) : (s.modHart h f).powered = s.powered := rfl
@[simp] theorem State.modHart_now (s : State) (h : HartKey) (f : Hart → Hart) : (s.modHart h f).now = s.now := rfl
@[simp] theorem State.modHart_devTime (s : State) (h : HartKey) (f : Hart → Hart) : (s.modHart h f).devTime = s.devTime := rfl
@[simp] theorem State.modHart_phase (s : State) (h : HartKey) (f : Hart → Hart) : (s.modHart h f).phase = s.phase := rfl
@[simp] theorem State.modHart_todo (s : State) (h : HartKey) (f : Hart → Hart) : (s.modHart h f).todo = s.todo := rfl
@[simp] theorem State.modHart_cur (s : State) (h : HartKey) (f : Hart → Hart) : (s.modHart h f).cur = s.cur := rfl
@[simp] theorem State.modHart_ir (s : State) (h : HartKey) (f : Hart → Hart) : (s.modHart h f).ir = s.ir := rfl
@[simp] theorem State.modHart_inputs (s : State) (h : HartKey) (f : Hart → Hart) : (s.modHart h f).inputs = s.inputs := rfl
@[simp] theorem State.modHart_choice (s : State) (h : HartKey) (f : Hart → Hart) : (s.modHart h f).choice = s.choice := rfl
@[simp] theorem State.modHart_mem (s : State) (h : HartKey) (f : Hart → Hart) : (s.modHart h f).mem = s.mem := rfl
@[simp] theorem State.modHart_rows (s : State) (h : HartKey) (f : Hart → Hart) : (s.modHart h f).rows = s.rows := rfl
@[simp] theorem State.modHart_l1 (s : State) (h : HartKey) (f : Hart → Hart) : (s.modHart h f).l1 = s.l1 := rfl
@[simp] theorem State.modHart_flight (s : State) (h : HartKey) (f : Hart → Hart) : (s.modHart h f).flight = s.flight := rfl
@[simp] theorem State.modHart_poison (s : State) (h : HartKey) (f : Hart → Hart) : (s.modHart h f).poison = s.poison := rfl
@[simp] theorem State.modHart_rowPoison (s : State) (h : HartKey) (f : Hart → Hart) : (s.modHart h f).rowPoison = s.rowPoison := rfl
@[simp] theorem State.modHart_lineOwners (s : State) (h : HartKey) (f : Hart → Hart) : (s.modHart h f).lineOwners = s.lineOwners := rfl
@[simp] theorem State.modHart_rowOwners (s : State) (h : HartKey) (f : Hart → Hart) : (s.modHart h f).rowOwners = s.rowOwners := rfl
@[simp] theorem State.modHart_cache (s : State) (h : HartKey) (f : Hart → Hart) : (s.modHart h f).cache = s.cache := rfl
@[simp] theorem State.modHart_incoming (s : State) (h : HartKey) (f : Hart → Hart) : (s.modHart h f).incoming = s.incoming := rfl
@[simp] theorem State.modHart_reading (s : State) (h : HartKey) (f : Hart → Hart) : (s.modHart h f).reading = s.reading := rfl
@[simp] theorem State.modHart_keys (s : State) (h : HartKey) (f : Hart → Hart) : (s.modHart h f).keys = s.keys := rfl
@[simp] theorem State.modHart_lineKeys (s : State) (h : HartKey) (f : Hart → Hart) : (s.modHart h f).lineKeys = s.lineKeys := rfl
@[simp] theorem State.modHart_tlb (s : State) (h : HartKey) (f : Hart → Hart) : (s.modHart h f).tlb = s.tlb := rfl
@[simp] theorem State.modHart_clusters (s : State) (h : HartKey) (f : Hart → Hart) : (s.modHart h f).clusters = s.clusters := rfl
@[simp] theorem State.modHart_cores (s : State) (h : HartKey) (f : Hart → Hart) : (s.modHart h f).cores = s.cores := rfl
@[simp] theorem State.modHart_twins (s : State) (h : HartKey) (f : Hart → Hart) : (s.modHart h f).twins = s.twins := rfl
@[simp] theorem State.modHart_pairs (s : State) (h : HartKey) (f : Hart → Hart) : (s.modHart h f).pairs = s.pairs := rfl
@[simp] theorem State.modHart_launches (s : State) (h : HartKey) (f : Hart → Hart) : (s.modHart h f).launches = s.launches := rfl
@[simp] theorem State.modHart_nextLaunch (s : State) (h : HartKey) (f : Hart → Hart) : (s.modHart h f).nextLaunch = s.nextLaunch := rfl
@[simp] theorem State.modHart_contexts (s : State) (h : HartKey) (f : Hart → Hart) : (s.modHart h f).contexts = s.contexts := rfl
@[simp] theorem State.modHart_poolTable (s : State) (h : HartKey) (f : Hart → Hart) : (s.modHart h f).poolTable = s.poolTable := rfl
@[simp] theorem State.modHart_ctxStates (s : State) (h : HartKey) (f : Hart → Hart) : (s.modHart h f).ctxStates = s.ctxStates := rfl
@[simp] theorem State.modHart_queues (s : State) (h : HartKey) (f : Hart → Hart) : (s.modHart h f).queues = s.queues := rfl
@[simp] theorem State.modHart_spareQueues (s : State) (h : HartKey) (f : Hart → Hart) : (s.modHart h f).spareQueues = s.spareQueues := rfl
@[simp] theorem State.modHart_appends (s : State) (h : HartKey) (f : Hart → Hart) : (s.modHart h f).appends = s.appends := rfl
@[simp] theorem State.modHart_partitions (s : State) (h : HartKey) (f : Hart → Hart) : (s.modHart h f).partitions = s.partitions := rfl
@[simp] theorem State.modHart_colls (s : State) (h : HartKey) (f : Hart → Hart) : (s.modHart h f).colls = s.colls := rfl
@[simp] theorem State.modHart_page (s : State) (h : HartKey) (f : Hart → Hart) : (s.modHart h f).page = s.page := rfl
@[simp] theorem State.modHart_snapshot (s : State) (h : HartKey) (f : Hart → Hart) : (s.modHart h f).snapshot = s.snapshot := rfl
@[simp] theorem State.modHart_lastPtm (s : State) (h : HartKey) (f : Hart → Hart) : (s.modHart h f).lastPtm = s.lastPtm := rfl
@[simp] theorem State.modHart_ports (s : State) (h : HartKey) (f : Hart → Hart) : (s.modHart h f).ports = s.ports := rfl
@[simp] theorem State.modHart_linkIde (s : State) (h : HartKey) (f : Hart → Hart) : (s.modHart h f).linkIde = s.linkIde := rfl
@[simp] theorem State.modHart_selectiveIde (s : State) (h : HartKey) (f : Hart → Hart) : (s.modHart h f).selectiveIde = s.selectiveIde := rfl
@[simp] theorem State.modHart_frozenFns (s : State) (h : HartKey) (f : Hart → Hart) : (s.modHart h f).frozenFns = s.frozenFns := rfl
@[simp] theorem State.modHart_downLinks (s : State) (h : HartKey) (f : Hart → Hart) : (s.modHart h f).downLinks = s.downLinks := rfl
@[simp] theorem State.modHart_thermal (s : State) (h : HartKey) (f : Hart → Hart) : (s.modHart h f).thermal = s.thermal := rfl
@[simp] theorem State.modHart_powerCapped (s : State) (h : HartKey) (f : Hart → Hart) : (s.modHart h f).powerCapped = s.powerCapped := rfl
@[simp] theorem State.modHart_emergencySave (s : State) (h : HartKey) (f : Hart → Hart) : (s.modHart h f).emergencySave = s.emergencySave := rfl
@[simp] theorem State.modHart_measurements (s : State) (h : HartKey) (f : Hart → Hart) : (s.modHart h f).measurements = s.measurements := rfl
@[simp] theorem State.modHart_spdm (s : State) (h : HartKey) (f : Hart → Hart) : (s.modHart h f).spdm = s.spdm := rfl
@[simp] theorem State.modHart_hostAnswer (s : State) (h : HartKey) (f : Hart → Hart) : (s.modHart h f).hostAnswer = s.hostAnswer := rfl

@[simp] theorem State.setCluster_powered (s : State) (k : ClusterKey) (v : Cluster) : (s.setCluster k v).powered = s.powered := rfl
@[simp] theorem State.setCluster_now (s : State) (k : ClusterKey) (v : Cluster) : (s.setCluster k v).now = s.now := rfl
@[simp] theorem State.setCluster_devTime (s : State) (k : ClusterKey) (v : Cluster) : (s.setCluster k v).devTime = s.devTime := rfl
@[simp] theorem State.setCluster_phase (s : State) (k : ClusterKey) (v : Cluster) : (s.setCluster k v).phase = s.phase := rfl
@[simp] theorem State.setCluster_todo (s : State) (k : ClusterKey) (v : Cluster) : (s.setCluster k v).todo = s.todo := rfl
@[simp] theorem State.setCluster_cur (s : State) (k : ClusterKey) (v : Cluster) : (s.setCluster k v).cur = s.cur := rfl
@[simp] theorem State.setCluster_ir (s : State) (k : ClusterKey) (v : Cluster) : (s.setCluster k v).ir = s.ir := rfl
@[simp] theorem State.setCluster_inputs (s : State) (k : ClusterKey) (v : Cluster) : (s.setCluster k v).inputs = s.inputs := rfl
@[simp] theorem State.setCluster_choice (s : State) (k : ClusterKey) (v : Cluster) : (s.setCluster k v).choice = s.choice := rfl
@[simp] theorem State.setCluster_mem (s : State) (k : ClusterKey) (v : Cluster) : (s.setCluster k v).mem = s.mem := rfl
@[simp] theorem State.setCluster_rows (s : State) (k : ClusterKey) (v : Cluster) : (s.setCluster k v).rows = s.rows := rfl
@[simp] theorem State.setCluster_l1 (s : State) (k : ClusterKey) (v : Cluster) : (s.setCluster k v).l1 = s.l1 := rfl
@[simp] theorem State.setCluster_flight (s : State) (k : ClusterKey) (v : Cluster) : (s.setCluster k v).flight = s.flight := rfl
@[simp] theorem State.setCluster_poison (s : State) (k : ClusterKey) (v : Cluster) : (s.setCluster k v).poison = s.poison := rfl
@[simp] theorem State.setCluster_rowPoison (s : State) (k : ClusterKey) (v : Cluster) : (s.setCluster k v).rowPoison = s.rowPoison := rfl
@[simp] theorem State.setCluster_lineOwners (s : State) (k : ClusterKey) (v : Cluster) : (s.setCluster k v).lineOwners = s.lineOwners := rfl
@[simp] theorem State.setCluster_rowOwners (s : State) (k : ClusterKey) (v : Cluster) : (s.setCluster k v).rowOwners = s.rowOwners := rfl
@[simp] theorem State.setCluster_cache (s : State) (k : ClusterKey) (v : Cluster) : (s.setCluster k v).cache = s.cache := rfl
@[simp] theorem State.setCluster_incoming (s : State) (k : ClusterKey) (v : Cluster) : (s.setCluster k v).incoming = s.incoming := rfl
@[simp] theorem State.setCluster_reading (s : State) (k : ClusterKey) (v : Cluster) : (s.setCluster k v).reading = s.reading := rfl
@[simp] theorem State.setCluster_keys (s : State) (k : ClusterKey) (v : Cluster) : (s.setCluster k v).keys = s.keys := rfl
@[simp] theorem State.setCluster_lineKeys (s : State) (k : ClusterKey) (v : Cluster) : (s.setCluster k v).lineKeys = s.lineKeys := rfl
@[simp] theorem State.setCluster_tlb (s : State) (k : ClusterKey) (v : Cluster) : (s.setCluster k v).tlb = s.tlb := rfl
@[simp] theorem State.setCluster_harts (s : State) (k : ClusterKey) (v : Cluster) : (s.setCluster k v).harts = s.harts := rfl
@[simp] theorem State.setCluster_cores (s : State) (k : ClusterKey) (v : Cluster) : (s.setCluster k v).cores = s.cores := rfl
@[simp] theorem State.setCluster_twins (s : State) (k : ClusterKey) (v : Cluster) : (s.setCluster k v).twins = s.twins := rfl
@[simp] theorem State.setCluster_pairs (s : State) (k : ClusterKey) (v : Cluster) : (s.setCluster k v).pairs = s.pairs := rfl
@[simp] theorem State.setCluster_launches (s : State) (k : ClusterKey) (v : Cluster) : (s.setCluster k v).launches = s.launches := rfl
@[simp] theorem State.setCluster_nextLaunch (s : State) (k : ClusterKey) (v : Cluster) : (s.setCluster k v).nextLaunch = s.nextLaunch := rfl
@[simp] theorem State.setCluster_contexts (s : State) (k : ClusterKey) (v : Cluster) : (s.setCluster k v).contexts = s.contexts := rfl
@[simp] theorem State.setCluster_poolTable (s : State) (k : ClusterKey) (v : Cluster) : (s.setCluster k v).poolTable = s.poolTable := rfl
@[simp] theorem State.setCluster_ctxStates (s : State) (k : ClusterKey) (v : Cluster) : (s.setCluster k v).ctxStates = s.ctxStates := rfl
@[simp] theorem State.setCluster_queues (s : State) (k : ClusterKey) (v : Cluster) : (s.setCluster k v).queues = s.queues := rfl
@[simp] theorem State.setCluster_spareQueues (s : State) (k : ClusterKey) (v : Cluster) : (s.setCluster k v).spareQueues = s.spareQueues := rfl
@[simp] theorem State.setCluster_appends (s : State) (k : ClusterKey) (v : Cluster) : (s.setCluster k v).appends = s.appends := rfl
@[simp] theorem State.setCluster_partitions (s : State) (k : ClusterKey) (v : Cluster) : (s.setCluster k v).partitions = s.partitions := rfl
@[simp] theorem State.setCluster_colls (s : State) (k : ClusterKey) (v : Cluster) : (s.setCluster k v).colls = s.colls := rfl
@[simp] theorem State.setCluster_page (s : State) (k : ClusterKey) (v : Cluster) : (s.setCluster k v).page = s.page := rfl
@[simp] theorem State.setCluster_snapshot (s : State) (k : ClusterKey) (v : Cluster) : (s.setCluster k v).snapshot = s.snapshot := rfl
@[simp] theorem State.setCluster_lastPtm (s : State) (k : ClusterKey) (v : Cluster) : (s.setCluster k v).lastPtm = s.lastPtm := rfl
@[simp] theorem State.setCluster_ports (s : State) (k : ClusterKey) (v : Cluster) : (s.setCluster k v).ports = s.ports := rfl
@[simp] theorem State.setCluster_linkIde (s : State) (k : ClusterKey) (v : Cluster) : (s.setCluster k v).linkIde = s.linkIde := rfl
@[simp] theorem State.setCluster_selectiveIde (s : State) (k : ClusterKey) (v : Cluster) : (s.setCluster k v).selectiveIde = s.selectiveIde := rfl
@[simp] theorem State.setCluster_frozenFns (s : State) (k : ClusterKey) (v : Cluster) : (s.setCluster k v).frozenFns = s.frozenFns := rfl
@[simp] theorem State.setCluster_downLinks (s : State) (k : ClusterKey) (v : Cluster) : (s.setCluster k v).downLinks = s.downLinks := rfl
@[simp] theorem State.setCluster_thermal (s : State) (k : ClusterKey) (v : Cluster) : (s.setCluster k v).thermal = s.thermal := rfl
@[simp] theorem State.setCluster_powerCapped (s : State) (k : ClusterKey) (v : Cluster) : (s.setCluster k v).powerCapped = s.powerCapped := rfl
@[simp] theorem State.setCluster_emergencySave (s : State) (k : ClusterKey) (v : Cluster) : (s.setCluster k v).emergencySave = s.emergencySave := rfl
@[simp] theorem State.setCluster_measurements (s : State) (k : ClusterKey) (v : Cluster) : (s.setCluster k v).measurements = s.measurements := rfl
@[simp] theorem State.setCluster_spdm (s : State) (k : ClusterKey) (v : Cluster) : (s.setCluster k v).spdm = s.spdm := rfl
@[simp] theorem State.setCluster_hostAnswer (s : State) (k : ClusterKey) (v : Cluster) : (s.setCluster k v).hostAnswer = s.hostAnswer := rfl

@[simp] theorem State.modCluster_powered (s : State) (k : ClusterKey) (f : Cluster → Cluster) : (s.modCluster k f).powered = s.powered := rfl
@[simp] theorem State.modCluster_now (s : State) (k : ClusterKey) (f : Cluster → Cluster) : (s.modCluster k f).now = s.now := rfl
@[simp] theorem State.modCluster_devTime (s : State) (k : ClusterKey) (f : Cluster → Cluster) : (s.modCluster k f).devTime = s.devTime := rfl
@[simp] theorem State.modCluster_phase (s : State) (k : ClusterKey) (f : Cluster → Cluster) : (s.modCluster k f).phase = s.phase := rfl
@[simp] theorem State.modCluster_todo (s : State) (k : ClusterKey) (f : Cluster → Cluster) : (s.modCluster k f).todo = s.todo := rfl
@[simp] theorem State.modCluster_cur (s : State) (k : ClusterKey) (f : Cluster → Cluster) : (s.modCluster k f).cur = s.cur := rfl
@[simp] theorem State.modCluster_ir (s : State) (k : ClusterKey) (f : Cluster → Cluster) : (s.modCluster k f).ir = s.ir := rfl
@[simp] theorem State.modCluster_inputs (s : State) (k : ClusterKey) (f : Cluster → Cluster) : (s.modCluster k f).inputs = s.inputs := rfl
@[simp] theorem State.modCluster_choice (s : State) (k : ClusterKey) (f : Cluster → Cluster) : (s.modCluster k f).choice = s.choice := rfl
@[simp] theorem State.modCluster_mem (s : State) (k : ClusterKey) (f : Cluster → Cluster) : (s.modCluster k f).mem = s.mem := rfl
@[simp] theorem State.modCluster_rows (s : State) (k : ClusterKey) (f : Cluster → Cluster) : (s.modCluster k f).rows = s.rows := rfl
@[simp] theorem State.modCluster_l1 (s : State) (k : ClusterKey) (f : Cluster → Cluster) : (s.modCluster k f).l1 = s.l1 := rfl
@[simp] theorem State.modCluster_flight (s : State) (k : ClusterKey) (f : Cluster → Cluster) : (s.modCluster k f).flight = s.flight := rfl
@[simp] theorem State.modCluster_poison (s : State) (k : ClusterKey) (f : Cluster → Cluster) : (s.modCluster k f).poison = s.poison := rfl
@[simp] theorem State.modCluster_rowPoison (s : State) (k : ClusterKey) (f : Cluster → Cluster) : (s.modCluster k f).rowPoison = s.rowPoison := rfl
@[simp] theorem State.modCluster_lineOwners (s : State) (k : ClusterKey) (f : Cluster → Cluster) : (s.modCluster k f).lineOwners = s.lineOwners := rfl
@[simp] theorem State.modCluster_rowOwners (s : State) (k : ClusterKey) (f : Cluster → Cluster) : (s.modCluster k f).rowOwners = s.rowOwners := rfl
@[simp] theorem State.modCluster_cache (s : State) (k : ClusterKey) (f : Cluster → Cluster) : (s.modCluster k f).cache = s.cache := rfl
@[simp] theorem State.modCluster_incoming (s : State) (k : ClusterKey) (f : Cluster → Cluster) : (s.modCluster k f).incoming = s.incoming := rfl
@[simp] theorem State.modCluster_reading (s : State) (k : ClusterKey) (f : Cluster → Cluster) : (s.modCluster k f).reading = s.reading := rfl
@[simp] theorem State.modCluster_keys (s : State) (k : ClusterKey) (f : Cluster → Cluster) : (s.modCluster k f).keys = s.keys := rfl
@[simp] theorem State.modCluster_lineKeys (s : State) (k : ClusterKey) (f : Cluster → Cluster) : (s.modCluster k f).lineKeys = s.lineKeys := rfl
@[simp] theorem State.modCluster_tlb (s : State) (k : ClusterKey) (f : Cluster → Cluster) : (s.modCluster k f).tlb = s.tlb := rfl
@[simp] theorem State.modCluster_harts (s : State) (k : ClusterKey) (f : Cluster → Cluster) : (s.modCluster k f).harts = s.harts := rfl
@[simp] theorem State.modCluster_cores (s : State) (k : ClusterKey) (f : Cluster → Cluster) : (s.modCluster k f).cores = s.cores := rfl
@[simp] theorem State.modCluster_twins (s : State) (k : ClusterKey) (f : Cluster → Cluster) : (s.modCluster k f).twins = s.twins := rfl
@[simp] theorem State.modCluster_pairs (s : State) (k : ClusterKey) (f : Cluster → Cluster) : (s.modCluster k f).pairs = s.pairs := rfl
@[simp] theorem State.modCluster_launches (s : State) (k : ClusterKey) (f : Cluster → Cluster) : (s.modCluster k f).launches = s.launches := rfl
@[simp] theorem State.modCluster_nextLaunch (s : State) (k : ClusterKey) (f : Cluster → Cluster) : (s.modCluster k f).nextLaunch = s.nextLaunch := rfl
@[simp] theorem State.modCluster_contexts (s : State) (k : ClusterKey) (f : Cluster → Cluster) : (s.modCluster k f).contexts = s.contexts := rfl
@[simp] theorem State.modCluster_poolTable (s : State) (k : ClusterKey) (f : Cluster → Cluster) : (s.modCluster k f).poolTable = s.poolTable := rfl
@[simp] theorem State.modCluster_ctxStates (s : State) (k : ClusterKey) (f : Cluster → Cluster) : (s.modCluster k f).ctxStates = s.ctxStates := rfl
@[simp] theorem State.modCluster_queues (s : State) (k : ClusterKey) (f : Cluster → Cluster) : (s.modCluster k f).queues = s.queues := rfl
@[simp] theorem State.modCluster_spareQueues (s : State) (k : ClusterKey) (f : Cluster → Cluster) : (s.modCluster k f).spareQueues = s.spareQueues := rfl
@[simp] theorem State.modCluster_appends (s : State) (k : ClusterKey) (f : Cluster → Cluster) : (s.modCluster k f).appends = s.appends := rfl
@[simp] theorem State.modCluster_partitions (s : State) (k : ClusterKey) (f : Cluster → Cluster) : (s.modCluster k f).partitions = s.partitions := rfl
@[simp] theorem State.modCluster_colls (s : State) (k : ClusterKey) (f : Cluster → Cluster) : (s.modCluster k f).colls = s.colls := rfl
@[simp] theorem State.modCluster_page (s : State) (k : ClusterKey) (f : Cluster → Cluster) : (s.modCluster k f).page = s.page := rfl
@[simp] theorem State.modCluster_snapshot (s : State) (k : ClusterKey) (f : Cluster → Cluster) : (s.modCluster k f).snapshot = s.snapshot := rfl
@[simp] theorem State.modCluster_lastPtm (s : State) (k : ClusterKey) (f : Cluster → Cluster) : (s.modCluster k f).lastPtm = s.lastPtm := rfl
@[simp] theorem State.modCluster_ports (s : State) (k : ClusterKey) (f : Cluster → Cluster) : (s.modCluster k f).ports = s.ports := rfl
@[simp] theorem State.modCluster_linkIde (s : State) (k : ClusterKey) (f : Cluster → Cluster) : (s.modCluster k f).linkIde = s.linkIde := rfl
@[simp] theorem State.modCluster_selectiveIde (s : State) (k : ClusterKey) (f : Cluster → Cluster) : (s.modCluster k f).selectiveIde = s.selectiveIde := rfl
@[simp] theorem State.modCluster_frozenFns (s : State) (k : ClusterKey) (f : Cluster → Cluster) : (s.modCluster k f).frozenFns = s.frozenFns := rfl
@[simp] theorem State.modCluster_downLinks (s : State) (k : ClusterKey) (f : Cluster → Cluster) : (s.modCluster k f).downLinks = s.downLinks := rfl
@[simp] theorem State.modCluster_thermal (s : State) (k : ClusterKey) (f : Cluster → Cluster) : (s.modCluster k f).thermal = s.thermal := rfl
@[simp] theorem State.modCluster_powerCapped (s : State) (k : ClusterKey) (f : Cluster → Cluster) : (s.modCluster k f).powerCapped = s.powerCapped := rfl
@[simp] theorem State.modCluster_emergencySave (s : State) (k : ClusterKey) (f : Cluster → Cluster) : (s.modCluster k f).emergencySave = s.emergencySave := rfl
@[simp] theorem State.modCluster_measurements (s : State) (k : ClusterKey) (f : Cluster → Cluster) : (s.modCluster k f).measurements = s.measurements := rfl
@[simp] theorem State.modCluster_spdm (s : State) (k : ClusterKey) (f : Cluster → Cluster) : (s.modCluster k f).spdm = s.spdm := rfl
@[simp] theorem State.modCluster_hostAnswer (s : State) (k : ClusterKey) (f : Cluster → Cluster) : (s.modCluster k f).hostAnswer = s.hostAnswer := rfl

@[simp] theorem State.setCore_powered (s : State) (c : CoreId) (v : CoreState) : (s.setCore c v).powered = s.powered := rfl
@[simp] theorem State.setCore_now (s : State) (c : CoreId) (v : CoreState) : (s.setCore c v).now = s.now := rfl
@[simp] theorem State.setCore_devTime (s : State) (c : CoreId) (v : CoreState) : (s.setCore c v).devTime = s.devTime := rfl
@[simp] theorem State.setCore_phase (s : State) (c : CoreId) (v : CoreState) : (s.setCore c v).phase = s.phase := rfl
@[simp] theorem State.setCore_todo (s : State) (c : CoreId) (v : CoreState) : (s.setCore c v).todo = s.todo := rfl
@[simp] theorem State.setCore_cur (s : State) (c : CoreId) (v : CoreState) : (s.setCore c v).cur = s.cur := rfl
@[simp] theorem State.setCore_ir (s : State) (c : CoreId) (v : CoreState) : (s.setCore c v).ir = s.ir := rfl
@[simp] theorem State.setCore_inputs (s : State) (c : CoreId) (v : CoreState) : (s.setCore c v).inputs = s.inputs := rfl
@[simp] theorem State.setCore_choice (s : State) (c : CoreId) (v : CoreState) : (s.setCore c v).choice = s.choice := rfl
@[simp] theorem State.setCore_mem (s : State) (c : CoreId) (v : CoreState) : (s.setCore c v).mem = s.mem := rfl
@[simp] theorem State.setCore_rows (s : State) (c : CoreId) (v : CoreState) : (s.setCore c v).rows = s.rows := rfl
@[simp] theorem State.setCore_l1 (s : State) (c : CoreId) (v : CoreState) : (s.setCore c v).l1 = s.l1 := rfl
@[simp] theorem State.setCore_flight (s : State) (c : CoreId) (v : CoreState) : (s.setCore c v).flight = s.flight := rfl
@[simp] theorem State.setCore_poison (s : State) (c : CoreId) (v : CoreState) : (s.setCore c v).poison = s.poison := rfl
@[simp] theorem State.setCore_rowPoison (s : State) (c : CoreId) (v : CoreState) : (s.setCore c v).rowPoison = s.rowPoison := rfl
@[simp] theorem State.setCore_lineOwners (s : State) (c : CoreId) (v : CoreState) : (s.setCore c v).lineOwners = s.lineOwners := rfl
@[simp] theorem State.setCore_rowOwners (s : State) (c : CoreId) (v : CoreState) : (s.setCore c v).rowOwners = s.rowOwners := rfl
@[simp] theorem State.setCore_cache (s : State) (c : CoreId) (v : CoreState) : (s.setCore c v).cache = s.cache := rfl
@[simp] theorem State.setCore_incoming (s : State) (c : CoreId) (v : CoreState) : (s.setCore c v).incoming = s.incoming := rfl
@[simp] theorem State.setCore_reading (s : State) (c : CoreId) (v : CoreState) : (s.setCore c v).reading = s.reading := rfl
@[simp] theorem State.setCore_keys (s : State) (c : CoreId) (v : CoreState) : (s.setCore c v).keys = s.keys := rfl
@[simp] theorem State.setCore_lineKeys (s : State) (c : CoreId) (v : CoreState) : (s.setCore c v).lineKeys = s.lineKeys := rfl
@[simp] theorem State.setCore_tlb (s : State) (c : CoreId) (v : CoreState) : (s.setCore c v).tlb = s.tlb := rfl
@[simp] theorem State.setCore_harts (s : State) (c : CoreId) (v : CoreState) : (s.setCore c v).harts = s.harts := rfl
@[simp] theorem State.setCore_clusters (s : State) (c : CoreId) (v : CoreState) : (s.setCore c v).clusters = s.clusters := rfl
@[simp] theorem State.setCore_twins (s : State) (c : CoreId) (v : CoreState) : (s.setCore c v).twins = s.twins := rfl
@[simp] theorem State.setCore_pairs (s : State) (c : CoreId) (v : CoreState) : (s.setCore c v).pairs = s.pairs := rfl
@[simp] theorem State.setCore_launches (s : State) (c : CoreId) (v : CoreState) : (s.setCore c v).launches = s.launches := rfl
@[simp] theorem State.setCore_nextLaunch (s : State) (c : CoreId) (v : CoreState) : (s.setCore c v).nextLaunch = s.nextLaunch := rfl
@[simp] theorem State.setCore_contexts (s : State) (c : CoreId) (v : CoreState) : (s.setCore c v).contexts = s.contexts := rfl
@[simp] theorem State.setCore_poolTable (s : State) (c : CoreId) (v : CoreState) : (s.setCore c v).poolTable = s.poolTable := rfl
@[simp] theorem State.setCore_ctxStates (s : State) (c : CoreId) (v : CoreState) : (s.setCore c v).ctxStates = s.ctxStates := rfl
@[simp] theorem State.setCore_queues (s : State) (c : CoreId) (v : CoreState) : (s.setCore c v).queues = s.queues := rfl
@[simp] theorem State.setCore_spareQueues (s : State) (c : CoreId) (v : CoreState) : (s.setCore c v).spareQueues = s.spareQueues := rfl
@[simp] theorem State.setCore_appends (s : State) (c : CoreId) (v : CoreState) : (s.setCore c v).appends = s.appends := rfl
@[simp] theorem State.setCore_partitions (s : State) (c : CoreId) (v : CoreState) : (s.setCore c v).partitions = s.partitions := rfl
@[simp] theorem State.setCore_colls (s : State) (c : CoreId) (v : CoreState) : (s.setCore c v).colls = s.colls := rfl
@[simp] theorem State.setCore_page (s : State) (c : CoreId) (v : CoreState) : (s.setCore c v).page = s.page := rfl
@[simp] theorem State.setCore_snapshot (s : State) (c : CoreId) (v : CoreState) : (s.setCore c v).snapshot = s.snapshot := rfl
@[simp] theorem State.setCore_lastPtm (s : State) (c : CoreId) (v : CoreState) : (s.setCore c v).lastPtm = s.lastPtm := rfl
@[simp] theorem State.setCore_ports (s : State) (c : CoreId) (v : CoreState) : (s.setCore c v).ports = s.ports := rfl
@[simp] theorem State.setCore_linkIde (s : State) (c : CoreId) (v : CoreState) : (s.setCore c v).linkIde = s.linkIde := rfl
@[simp] theorem State.setCore_selectiveIde (s : State) (c : CoreId) (v : CoreState) : (s.setCore c v).selectiveIde = s.selectiveIde := rfl
@[simp] theorem State.setCore_frozenFns (s : State) (c : CoreId) (v : CoreState) : (s.setCore c v).frozenFns = s.frozenFns := rfl
@[simp] theorem State.setCore_downLinks (s : State) (c : CoreId) (v : CoreState) : (s.setCore c v).downLinks = s.downLinks := rfl
@[simp] theorem State.setCore_thermal (s : State) (c : CoreId) (v : CoreState) : (s.setCore c v).thermal = s.thermal := rfl
@[simp] theorem State.setCore_powerCapped (s : State) (c : CoreId) (v : CoreState) : (s.setCore c v).powerCapped = s.powerCapped := rfl
@[simp] theorem State.setCore_emergencySave (s : State) (c : CoreId) (v : CoreState) : (s.setCore c v).emergencySave = s.emergencySave := rfl
@[simp] theorem State.setCore_measurements (s : State) (c : CoreId) (v : CoreState) : (s.setCore c v).measurements = s.measurements := rfl
@[simp] theorem State.setCore_spdm (s : State) (c : CoreId) (v : CoreState) : (s.setCore c v).spdm = s.spdm := rfl
@[simp] theorem State.setCore_hostAnswer (s : State) (c : CoreId) (v : CoreState) : (s.setCore c v).hostAnswer = s.hostAnswer := rfl

@[simp] theorem State.modCore_powered (s : State) (c : CoreId) (f : CoreState → CoreState) : (s.modCore c f).powered = s.powered := rfl
@[simp] theorem State.modCore_now (s : State) (c : CoreId) (f : CoreState → CoreState) : (s.modCore c f).now = s.now := rfl
@[simp] theorem State.modCore_devTime (s : State) (c : CoreId) (f : CoreState → CoreState) : (s.modCore c f).devTime = s.devTime := rfl
@[simp] theorem State.modCore_phase (s : State) (c : CoreId) (f : CoreState → CoreState) : (s.modCore c f).phase = s.phase := rfl
@[simp] theorem State.modCore_todo (s : State) (c : CoreId) (f : CoreState → CoreState) : (s.modCore c f).todo = s.todo := rfl
@[simp] theorem State.modCore_cur (s : State) (c : CoreId) (f : CoreState → CoreState) : (s.modCore c f).cur = s.cur := rfl
@[simp] theorem State.modCore_ir (s : State) (c : CoreId) (f : CoreState → CoreState) : (s.modCore c f).ir = s.ir := rfl
@[simp] theorem State.modCore_inputs (s : State) (c : CoreId) (f : CoreState → CoreState) : (s.modCore c f).inputs = s.inputs := rfl
@[simp] theorem State.modCore_choice (s : State) (c : CoreId) (f : CoreState → CoreState) : (s.modCore c f).choice = s.choice := rfl
@[simp] theorem State.modCore_mem (s : State) (c : CoreId) (f : CoreState → CoreState) : (s.modCore c f).mem = s.mem := rfl
@[simp] theorem State.modCore_rows (s : State) (c : CoreId) (f : CoreState → CoreState) : (s.modCore c f).rows = s.rows := rfl
@[simp] theorem State.modCore_l1 (s : State) (c : CoreId) (f : CoreState → CoreState) : (s.modCore c f).l1 = s.l1 := rfl
@[simp] theorem State.modCore_flight (s : State) (c : CoreId) (f : CoreState → CoreState) : (s.modCore c f).flight = s.flight := rfl
@[simp] theorem State.modCore_poison (s : State) (c : CoreId) (f : CoreState → CoreState) : (s.modCore c f).poison = s.poison := rfl
@[simp] theorem State.modCore_rowPoison (s : State) (c : CoreId) (f : CoreState → CoreState) : (s.modCore c f).rowPoison = s.rowPoison := rfl
@[simp] theorem State.modCore_lineOwners (s : State) (c : CoreId) (f : CoreState → CoreState) : (s.modCore c f).lineOwners = s.lineOwners := rfl
@[simp] theorem State.modCore_rowOwners (s : State) (c : CoreId) (f : CoreState → CoreState) : (s.modCore c f).rowOwners = s.rowOwners := rfl
@[simp] theorem State.modCore_cache (s : State) (c : CoreId) (f : CoreState → CoreState) : (s.modCore c f).cache = s.cache := rfl
@[simp] theorem State.modCore_incoming (s : State) (c : CoreId) (f : CoreState → CoreState) : (s.modCore c f).incoming = s.incoming := rfl
@[simp] theorem State.modCore_reading (s : State) (c : CoreId) (f : CoreState → CoreState) : (s.modCore c f).reading = s.reading := rfl
@[simp] theorem State.modCore_keys (s : State) (c : CoreId) (f : CoreState → CoreState) : (s.modCore c f).keys = s.keys := rfl
@[simp] theorem State.modCore_lineKeys (s : State) (c : CoreId) (f : CoreState → CoreState) : (s.modCore c f).lineKeys = s.lineKeys := rfl
@[simp] theorem State.modCore_tlb (s : State) (c : CoreId) (f : CoreState → CoreState) : (s.modCore c f).tlb = s.tlb := rfl
@[simp] theorem State.modCore_harts (s : State) (c : CoreId) (f : CoreState → CoreState) : (s.modCore c f).harts = s.harts := rfl
@[simp] theorem State.modCore_clusters (s : State) (c : CoreId) (f : CoreState → CoreState) : (s.modCore c f).clusters = s.clusters := rfl
@[simp] theorem State.modCore_twins (s : State) (c : CoreId) (f : CoreState → CoreState) : (s.modCore c f).twins = s.twins := rfl
@[simp] theorem State.modCore_pairs (s : State) (c : CoreId) (f : CoreState → CoreState) : (s.modCore c f).pairs = s.pairs := rfl
@[simp] theorem State.modCore_launches (s : State) (c : CoreId) (f : CoreState → CoreState) : (s.modCore c f).launches = s.launches := rfl
@[simp] theorem State.modCore_nextLaunch (s : State) (c : CoreId) (f : CoreState → CoreState) : (s.modCore c f).nextLaunch = s.nextLaunch := rfl
@[simp] theorem State.modCore_contexts (s : State) (c : CoreId) (f : CoreState → CoreState) : (s.modCore c f).contexts = s.contexts := rfl
@[simp] theorem State.modCore_poolTable (s : State) (c : CoreId) (f : CoreState → CoreState) : (s.modCore c f).poolTable = s.poolTable := rfl
@[simp] theorem State.modCore_ctxStates (s : State) (c : CoreId) (f : CoreState → CoreState) : (s.modCore c f).ctxStates = s.ctxStates := rfl
@[simp] theorem State.modCore_queues (s : State) (c : CoreId) (f : CoreState → CoreState) : (s.modCore c f).queues = s.queues := rfl
@[simp] theorem State.modCore_spareQueues (s : State) (c : CoreId) (f : CoreState → CoreState) : (s.modCore c f).spareQueues = s.spareQueues := rfl
@[simp] theorem State.modCore_appends (s : State) (c : CoreId) (f : CoreState → CoreState) : (s.modCore c f).appends = s.appends := rfl
@[simp] theorem State.modCore_partitions (s : State) (c : CoreId) (f : CoreState → CoreState) : (s.modCore c f).partitions = s.partitions := rfl
@[simp] theorem State.modCore_colls (s : State) (c : CoreId) (f : CoreState → CoreState) : (s.modCore c f).colls = s.colls := rfl
@[simp] theorem State.modCore_page (s : State) (c : CoreId) (f : CoreState → CoreState) : (s.modCore c f).page = s.page := rfl
@[simp] theorem State.modCore_snapshot (s : State) (c : CoreId) (f : CoreState → CoreState) : (s.modCore c f).snapshot = s.snapshot := rfl
@[simp] theorem State.modCore_lastPtm (s : State) (c : CoreId) (f : CoreState → CoreState) : (s.modCore c f).lastPtm = s.lastPtm := rfl
@[simp] theorem State.modCore_ports (s : State) (c : CoreId) (f : CoreState → CoreState) : (s.modCore c f).ports = s.ports := rfl
@[simp] theorem State.modCore_linkIde (s : State) (c : CoreId) (f : CoreState → CoreState) : (s.modCore c f).linkIde = s.linkIde := rfl
@[simp] theorem State.modCore_selectiveIde (s : State) (c : CoreId) (f : CoreState → CoreState) : (s.modCore c f).selectiveIde = s.selectiveIde := rfl
@[simp] theorem State.modCore_frozenFns (s : State) (c : CoreId) (f : CoreState → CoreState) : (s.modCore c f).frozenFns = s.frozenFns := rfl
@[simp] theorem State.modCore_downLinks (s : State) (c : CoreId) (f : CoreState → CoreState) : (s.modCore c f).downLinks = s.downLinks := rfl
@[simp] theorem State.modCore_thermal (s : State) (c : CoreId) (f : CoreState → CoreState) : (s.modCore c f).thermal = s.thermal := rfl
@[simp] theorem State.modCore_powerCapped (s : State) (c : CoreId) (f : CoreState → CoreState) : (s.modCore c f).powerCapped = s.powerCapped := rfl
@[simp] theorem State.modCore_emergencySave (s : State) (c : CoreId) (f : CoreState → CoreState) : (s.modCore c f).emergencySave = s.emergencySave := rfl
@[simp] theorem State.modCore_measurements (s : State) (c : CoreId) (f : CoreState → CoreState) : (s.modCore c f).measurements = s.measurements := rfl
@[simp] theorem State.modCore_spdm (s : State) (c : CoreId) (f : CoreState → CoreState) : (s.modCore c f).spdm = s.spdm := rfl
@[simp] theorem State.modCore_hostAnswer (s : State) (c : CoreId) (f : CoreState → CoreState) : (s.modCore c f).hostAnswer = s.hostAnswer := rfl

@[simp] theorem State.modSteward_powered (s : State) (c : CoreId) (f : Steward → Steward) : (s.modSteward c f).powered = s.powered := rfl
@[simp] theorem State.modSteward_now (s : State) (c : CoreId) (f : Steward → Steward) : (s.modSteward c f).now = s.now := rfl
@[simp] theorem State.modSteward_devTime (s : State) (c : CoreId) (f : Steward → Steward) : (s.modSteward c f).devTime = s.devTime := rfl
@[simp] theorem State.modSteward_phase (s : State) (c : CoreId) (f : Steward → Steward) : (s.modSteward c f).phase = s.phase := rfl
@[simp] theorem State.modSteward_todo (s : State) (c : CoreId) (f : Steward → Steward) : (s.modSteward c f).todo = s.todo := rfl
@[simp] theorem State.modSteward_cur (s : State) (c : CoreId) (f : Steward → Steward) : (s.modSteward c f).cur = s.cur := rfl
@[simp] theorem State.modSteward_ir (s : State) (c : CoreId) (f : Steward → Steward) : (s.modSteward c f).ir = s.ir := rfl
@[simp] theorem State.modSteward_inputs (s : State) (c : CoreId) (f : Steward → Steward) : (s.modSteward c f).inputs = s.inputs := rfl
@[simp] theorem State.modSteward_choice (s : State) (c : CoreId) (f : Steward → Steward) : (s.modSteward c f).choice = s.choice := rfl
@[simp] theorem State.modSteward_mem (s : State) (c : CoreId) (f : Steward → Steward) : (s.modSteward c f).mem = s.mem := rfl
@[simp] theorem State.modSteward_rows (s : State) (c : CoreId) (f : Steward → Steward) : (s.modSteward c f).rows = s.rows := rfl
@[simp] theorem State.modSteward_l1 (s : State) (c : CoreId) (f : Steward → Steward) : (s.modSteward c f).l1 = s.l1 := rfl
@[simp] theorem State.modSteward_flight (s : State) (c : CoreId) (f : Steward → Steward) : (s.modSteward c f).flight = s.flight := rfl
@[simp] theorem State.modSteward_poison (s : State) (c : CoreId) (f : Steward → Steward) : (s.modSteward c f).poison = s.poison := rfl
@[simp] theorem State.modSteward_rowPoison (s : State) (c : CoreId) (f : Steward → Steward) : (s.modSteward c f).rowPoison = s.rowPoison := rfl
@[simp] theorem State.modSteward_lineOwners (s : State) (c : CoreId) (f : Steward → Steward) : (s.modSteward c f).lineOwners = s.lineOwners := rfl
@[simp] theorem State.modSteward_rowOwners (s : State) (c : CoreId) (f : Steward → Steward) : (s.modSteward c f).rowOwners = s.rowOwners := rfl
@[simp] theorem State.modSteward_cache (s : State) (c : CoreId) (f : Steward → Steward) : (s.modSteward c f).cache = s.cache := rfl
@[simp] theorem State.modSteward_incoming (s : State) (c : CoreId) (f : Steward → Steward) : (s.modSteward c f).incoming = s.incoming := rfl
@[simp] theorem State.modSteward_reading (s : State) (c : CoreId) (f : Steward → Steward) : (s.modSteward c f).reading = s.reading := rfl
@[simp] theorem State.modSteward_keys (s : State) (c : CoreId) (f : Steward → Steward) : (s.modSteward c f).keys = s.keys := rfl
@[simp] theorem State.modSteward_lineKeys (s : State) (c : CoreId) (f : Steward → Steward) : (s.modSteward c f).lineKeys = s.lineKeys := rfl
@[simp] theorem State.modSteward_tlb (s : State) (c : CoreId) (f : Steward → Steward) : (s.modSteward c f).tlb = s.tlb := rfl
@[simp] theorem State.modSteward_harts (s : State) (c : CoreId) (f : Steward → Steward) : (s.modSteward c f).harts = s.harts := rfl
@[simp] theorem State.modSteward_clusters (s : State) (c : CoreId) (f : Steward → Steward) : (s.modSteward c f).clusters = s.clusters := rfl
@[simp] theorem State.modSteward_twins (s : State) (c : CoreId) (f : Steward → Steward) : (s.modSteward c f).twins = s.twins := rfl
@[simp] theorem State.modSteward_pairs (s : State) (c : CoreId) (f : Steward → Steward) : (s.modSteward c f).pairs = s.pairs := rfl
@[simp] theorem State.modSteward_launches (s : State) (c : CoreId) (f : Steward → Steward) : (s.modSteward c f).launches = s.launches := rfl
@[simp] theorem State.modSteward_nextLaunch (s : State) (c : CoreId) (f : Steward → Steward) : (s.modSteward c f).nextLaunch = s.nextLaunch := rfl
@[simp] theorem State.modSteward_contexts (s : State) (c : CoreId) (f : Steward → Steward) : (s.modSteward c f).contexts = s.contexts := rfl
@[simp] theorem State.modSteward_poolTable (s : State) (c : CoreId) (f : Steward → Steward) : (s.modSteward c f).poolTable = s.poolTable := rfl
@[simp] theorem State.modSteward_ctxStates (s : State) (c : CoreId) (f : Steward → Steward) : (s.modSteward c f).ctxStates = s.ctxStates := rfl
@[simp] theorem State.modSteward_queues (s : State) (c : CoreId) (f : Steward → Steward) : (s.modSteward c f).queues = s.queues := rfl
@[simp] theorem State.modSteward_spareQueues (s : State) (c : CoreId) (f : Steward → Steward) : (s.modSteward c f).spareQueues = s.spareQueues := rfl
@[simp] theorem State.modSteward_appends (s : State) (c : CoreId) (f : Steward → Steward) : (s.modSteward c f).appends = s.appends := rfl
@[simp] theorem State.modSteward_partitions (s : State) (c : CoreId) (f : Steward → Steward) : (s.modSteward c f).partitions = s.partitions := rfl
@[simp] theorem State.modSteward_colls (s : State) (c : CoreId) (f : Steward → Steward) : (s.modSteward c f).colls = s.colls := rfl
@[simp] theorem State.modSteward_page (s : State) (c : CoreId) (f : Steward → Steward) : (s.modSteward c f).page = s.page := rfl
@[simp] theorem State.modSteward_snapshot (s : State) (c : CoreId) (f : Steward → Steward) : (s.modSteward c f).snapshot = s.snapshot := rfl
@[simp] theorem State.modSteward_lastPtm (s : State) (c : CoreId) (f : Steward → Steward) : (s.modSteward c f).lastPtm = s.lastPtm := rfl
@[simp] theorem State.modSteward_ports (s : State) (c : CoreId) (f : Steward → Steward) : (s.modSteward c f).ports = s.ports := rfl
@[simp] theorem State.modSteward_linkIde (s : State) (c : CoreId) (f : Steward → Steward) : (s.modSteward c f).linkIde = s.linkIde := rfl
@[simp] theorem State.modSteward_selectiveIde (s : State) (c : CoreId) (f : Steward → Steward) : (s.modSteward c f).selectiveIde = s.selectiveIde := rfl
@[simp] theorem State.modSteward_frozenFns (s : State) (c : CoreId) (f : Steward → Steward) : (s.modSteward c f).frozenFns = s.frozenFns := rfl
@[simp] theorem State.modSteward_downLinks (s : State) (c : CoreId) (f : Steward → Steward) : (s.modSteward c f).downLinks = s.downLinks := rfl
@[simp] theorem State.modSteward_thermal (s : State) (c : CoreId) (f : Steward → Steward) : (s.modSteward c f).thermal = s.thermal := rfl
@[simp] theorem State.modSteward_powerCapped (s : State) (c : CoreId) (f : Steward → Steward) : (s.modSteward c f).powerCapped = s.powerCapped := rfl
@[simp] theorem State.modSteward_emergencySave (s : State) (c : CoreId) (f : Steward → Steward) : (s.modSteward c f).emergencySave = s.emergencySave := rfl
@[simp] theorem State.modSteward_measurements (s : State) (c : CoreId) (f : Steward → Steward) : (s.modSteward c f).measurements = s.measurements := rfl
@[simp] theorem State.modSteward_spdm (s : State) (c : CoreId) (f : Steward → Steward) : (s.modSteward c f).spdm = s.spdm := rfl
@[simp] theorem State.modSteward_hostAnswer (s : State) (c : CoreId) (f : Steward → Steward) : (s.modSteward c f).hostAnswer = s.hostAnswer := rfl

@[simp] theorem State.modTwin_powered (s : State) (t : PairKey) (f : Twin → Twin) : (s.modTwin t f).powered = s.powered := rfl
@[simp] theorem State.modTwin_now (s : State) (t : PairKey) (f : Twin → Twin) : (s.modTwin t f).now = s.now := rfl
@[simp] theorem State.modTwin_devTime (s : State) (t : PairKey) (f : Twin → Twin) : (s.modTwin t f).devTime = s.devTime := rfl
@[simp] theorem State.modTwin_phase (s : State) (t : PairKey) (f : Twin → Twin) : (s.modTwin t f).phase = s.phase := rfl
@[simp] theorem State.modTwin_todo (s : State) (t : PairKey) (f : Twin → Twin) : (s.modTwin t f).todo = s.todo := rfl
@[simp] theorem State.modTwin_cur (s : State) (t : PairKey) (f : Twin → Twin) : (s.modTwin t f).cur = s.cur := rfl
@[simp] theorem State.modTwin_ir (s : State) (t : PairKey) (f : Twin → Twin) : (s.modTwin t f).ir = s.ir := rfl
@[simp] theorem State.modTwin_inputs (s : State) (t : PairKey) (f : Twin → Twin) : (s.modTwin t f).inputs = s.inputs := rfl
@[simp] theorem State.modTwin_choice (s : State) (t : PairKey) (f : Twin → Twin) : (s.modTwin t f).choice = s.choice := rfl
@[simp] theorem State.modTwin_mem (s : State) (t : PairKey) (f : Twin → Twin) : (s.modTwin t f).mem = s.mem := rfl
@[simp] theorem State.modTwin_rows (s : State) (t : PairKey) (f : Twin → Twin) : (s.modTwin t f).rows = s.rows := rfl
@[simp] theorem State.modTwin_l1 (s : State) (t : PairKey) (f : Twin → Twin) : (s.modTwin t f).l1 = s.l1 := rfl
@[simp] theorem State.modTwin_flight (s : State) (t : PairKey) (f : Twin → Twin) : (s.modTwin t f).flight = s.flight := rfl
@[simp] theorem State.modTwin_poison (s : State) (t : PairKey) (f : Twin → Twin) : (s.modTwin t f).poison = s.poison := rfl
@[simp] theorem State.modTwin_rowPoison (s : State) (t : PairKey) (f : Twin → Twin) : (s.modTwin t f).rowPoison = s.rowPoison := rfl
@[simp] theorem State.modTwin_lineOwners (s : State) (t : PairKey) (f : Twin → Twin) : (s.modTwin t f).lineOwners = s.lineOwners := rfl
@[simp] theorem State.modTwin_rowOwners (s : State) (t : PairKey) (f : Twin → Twin) : (s.modTwin t f).rowOwners = s.rowOwners := rfl
@[simp] theorem State.modTwin_cache (s : State) (t : PairKey) (f : Twin → Twin) : (s.modTwin t f).cache = s.cache := rfl
@[simp] theorem State.modTwin_incoming (s : State) (t : PairKey) (f : Twin → Twin) : (s.modTwin t f).incoming = s.incoming := rfl
@[simp] theorem State.modTwin_reading (s : State) (t : PairKey) (f : Twin → Twin) : (s.modTwin t f).reading = s.reading := rfl
@[simp] theorem State.modTwin_keys (s : State) (t : PairKey) (f : Twin → Twin) : (s.modTwin t f).keys = s.keys := rfl
@[simp] theorem State.modTwin_lineKeys (s : State) (t : PairKey) (f : Twin → Twin) : (s.modTwin t f).lineKeys = s.lineKeys := rfl
@[simp] theorem State.modTwin_tlb (s : State) (t : PairKey) (f : Twin → Twin) : (s.modTwin t f).tlb = s.tlb := rfl
@[simp] theorem State.modTwin_harts (s : State) (t : PairKey) (f : Twin → Twin) : (s.modTwin t f).harts = s.harts := rfl
@[simp] theorem State.modTwin_clusters (s : State) (t : PairKey) (f : Twin → Twin) : (s.modTwin t f).clusters = s.clusters := rfl
@[simp] theorem State.modTwin_cores (s : State) (t : PairKey) (f : Twin → Twin) : (s.modTwin t f).cores = s.cores := rfl
@[simp] theorem State.modTwin_pairs (s : State) (t : PairKey) (f : Twin → Twin) : (s.modTwin t f).pairs = s.pairs := rfl
@[simp] theorem State.modTwin_launches (s : State) (t : PairKey) (f : Twin → Twin) : (s.modTwin t f).launches = s.launches := rfl
@[simp] theorem State.modTwin_nextLaunch (s : State) (t : PairKey) (f : Twin → Twin) : (s.modTwin t f).nextLaunch = s.nextLaunch := rfl
@[simp] theorem State.modTwin_contexts (s : State) (t : PairKey) (f : Twin → Twin) : (s.modTwin t f).contexts = s.contexts := rfl
@[simp] theorem State.modTwin_poolTable (s : State) (t : PairKey) (f : Twin → Twin) : (s.modTwin t f).poolTable = s.poolTable := rfl
@[simp] theorem State.modTwin_ctxStates (s : State) (t : PairKey) (f : Twin → Twin) : (s.modTwin t f).ctxStates = s.ctxStates := rfl
@[simp] theorem State.modTwin_queues (s : State) (t : PairKey) (f : Twin → Twin) : (s.modTwin t f).queues = s.queues := rfl
@[simp] theorem State.modTwin_spareQueues (s : State) (t : PairKey) (f : Twin → Twin) : (s.modTwin t f).spareQueues = s.spareQueues := rfl
@[simp] theorem State.modTwin_appends (s : State) (t : PairKey) (f : Twin → Twin) : (s.modTwin t f).appends = s.appends := rfl
@[simp] theorem State.modTwin_partitions (s : State) (t : PairKey) (f : Twin → Twin) : (s.modTwin t f).partitions = s.partitions := rfl
@[simp] theorem State.modTwin_colls (s : State) (t : PairKey) (f : Twin → Twin) : (s.modTwin t f).colls = s.colls := rfl
@[simp] theorem State.modTwin_page (s : State) (t : PairKey) (f : Twin → Twin) : (s.modTwin t f).page = s.page := rfl
@[simp] theorem State.modTwin_snapshot (s : State) (t : PairKey) (f : Twin → Twin) : (s.modTwin t f).snapshot = s.snapshot := rfl
@[simp] theorem State.modTwin_lastPtm (s : State) (t : PairKey) (f : Twin → Twin) : (s.modTwin t f).lastPtm = s.lastPtm := rfl
@[simp] theorem State.modTwin_ports (s : State) (t : PairKey) (f : Twin → Twin) : (s.modTwin t f).ports = s.ports := rfl
@[simp] theorem State.modTwin_linkIde (s : State) (t : PairKey) (f : Twin → Twin) : (s.modTwin t f).linkIde = s.linkIde := rfl
@[simp] theorem State.modTwin_selectiveIde (s : State) (t : PairKey) (f : Twin → Twin) : (s.modTwin t f).selectiveIde = s.selectiveIde := rfl
@[simp] theorem State.modTwin_frozenFns (s : State) (t : PairKey) (f : Twin → Twin) : (s.modTwin t f).frozenFns = s.frozenFns := rfl
@[simp] theorem State.modTwin_downLinks (s : State) (t : PairKey) (f : Twin → Twin) : (s.modTwin t f).downLinks = s.downLinks := rfl
@[simp] theorem State.modTwin_thermal (s : State) (t : PairKey) (f : Twin → Twin) : (s.modTwin t f).thermal = s.thermal := rfl
@[simp] theorem State.modTwin_powerCapped (s : State) (t : PairKey) (f : Twin → Twin) : (s.modTwin t f).powerCapped = s.powerCapped := rfl
@[simp] theorem State.modTwin_emergencySave (s : State) (t : PairKey) (f : Twin → Twin) : (s.modTwin t f).emergencySave = s.emergencySave := rfl
@[simp] theorem State.modTwin_measurements (s : State) (t : PairKey) (f : Twin → Twin) : (s.modTwin t f).measurements = s.measurements := rfl
@[simp] theorem State.modTwin_spdm (s : State) (t : PairKey) (f : Twin → Twin) : (s.modTwin t f).spdm = s.spdm := rfl
@[simp] theorem State.modTwin_hostAnswer (s : State) (t : PairKey) (f : Twin → Twin) : (s.modTwin t f).hostAnswer = s.hostAnswer := rfl

@[simp] theorem State.modPair_powered (s : State) (p : Nat) (f : DiePair → DiePair) : (s.modPair p f).powered = s.powered := rfl
@[simp] theorem State.modPair_now (s : State) (p : Nat) (f : DiePair → DiePair) : (s.modPair p f).now = s.now := rfl
@[simp] theorem State.modPair_devTime (s : State) (p : Nat) (f : DiePair → DiePair) : (s.modPair p f).devTime = s.devTime := rfl
@[simp] theorem State.modPair_phase (s : State) (p : Nat) (f : DiePair → DiePair) : (s.modPair p f).phase = s.phase := rfl
@[simp] theorem State.modPair_todo (s : State) (p : Nat) (f : DiePair → DiePair) : (s.modPair p f).todo = s.todo := rfl
@[simp] theorem State.modPair_cur (s : State) (p : Nat) (f : DiePair → DiePair) : (s.modPair p f).cur = s.cur := rfl
@[simp] theorem State.modPair_ir (s : State) (p : Nat) (f : DiePair → DiePair) : (s.modPair p f).ir = s.ir := rfl
@[simp] theorem State.modPair_inputs (s : State) (p : Nat) (f : DiePair → DiePair) : (s.modPair p f).inputs = s.inputs := rfl
@[simp] theorem State.modPair_choice (s : State) (p : Nat) (f : DiePair → DiePair) : (s.modPair p f).choice = s.choice := rfl
@[simp] theorem State.modPair_mem (s : State) (p : Nat) (f : DiePair → DiePair) : (s.modPair p f).mem = s.mem := rfl
@[simp] theorem State.modPair_rows (s : State) (p : Nat) (f : DiePair → DiePair) : (s.modPair p f).rows = s.rows := rfl
@[simp] theorem State.modPair_l1 (s : State) (p : Nat) (f : DiePair → DiePair) : (s.modPair p f).l1 = s.l1 := rfl
@[simp] theorem State.modPair_flight (s : State) (p : Nat) (f : DiePair → DiePair) : (s.modPair p f).flight = s.flight := rfl
@[simp] theorem State.modPair_poison (s : State) (p : Nat) (f : DiePair → DiePair) : (s.modPair p f).poison = s.poison := rfl
@[simp] theorem State.modPair_rowPoison (s : State) (p : Nat) (f : DiePair → DiePair) : (s.modPair p f).rowPoison = s.rowPoison := rfl
@[simp] theorem State.modPair_lineOwners (s : State) (p : Nat) (f : DiePair → DiePair) : (s.modPair p f).lineOwners = s.lineOwners := rfl
@[simp] theorem State.modPair_rowOwners (s : State) (p : Nat) (f : DiePair → DiePair) : (s.modPair p f).rowOwners = s.rowOwners := rfl
@[simp] theorem State.modPair_cache (s : State) (p : Nat) (f : DiePair → DiePair) : (s.modPair p f).cache = s.cache := rfl
@[simp] theorem State.modPair_incoming (s : State) (p : Nat) (f : DiePair → DiePair) : (s.modPair p f).incoming = s.incoming := rfl
@[simp] theorem State.modPair_reading (s : State) (p : Nat) (f : DiePair → DiePair) : (s.modPair p f).reading = s.reading := rfl
@[simp] theorem State.modPair_keys (s : State) (p : Nat) (f : DiePair → DiePair) : (s.modPair p f).keys = s.keys := rfl
@[simp] theorem State.modPair_lineKeys (s : State) (p : Nat) (f : DiePair → DiePair) : (s.modPair p f).lineKeys = s.lineKeys := rfl
@[simp] theorem State.modPair_tlb (s : State) (p : Nat) (f : DiePair → DiePair) : (s.modPair p f).tlb = s.tlb := rfl
@[simp] theorem State.modPair_harts (s : State) (p : Nat) (f : DiePair → DiePair) : (s.modPair p f).harts = s.harts := rfl
@[simp] theorem State.modPair_clusters (s : State) (p : Nat) (f : DiePair → DiePair) : (s.modPair p f).clusters = s.clusters := rfl
@[simp] theorem State.modPair_cores (s : State) (p : Nat) (f : DiePair → DiePair) : (s.modPair p f).cores = s.cores := rfl
@[simp] theorem State.modPair_twins (s : State) (p : Nat) (f : DiePair → DiePair) : (s.modPair p f).twins = s.twins := rfl
@[simp] theorem State.modPair_launches (s : State) (p : Nat) (f : DiePair → DiePair) : (s.modPair p f).launches = s.launches := rfl
@[simp] theorem State.modPair_nextLaunch (s : State) (p : Nat) (f : DiePair → DiePair) : (s.modPair p f).nextLaunch = s.nextLaunch := rfl
@[simp] theorem State.modPair_contexts (s : State) (p : Nat) (f : DiePair → DiePair) : (s.modPair p f).contexts = s.contexts := rfl
@[simp] theorem State.modPair_poolTable (s : State) (p : Nat) (f : DiePair → DiePair) : (s.modPair p f).poolTable = s.poolTable := rfl
@[simp] theorem State.modPair_ctxStates (s : State) (p : Nat) (f : DiePair → DiePair) : (s.modPair p f).ctxStates = s.ctxStates := rfl
@[simp] theorem State.modPair_queues (s : State) (p : Nat) (f : DiePair → DiePair) : (s.modPair p f).queues = s.queues := rfl
@[simp] theorem State.modPair_spareQueues (s : State) (p : Nat) (f : DiePair → DiePair) : (s.modPair p f).spareQueues = s.spareQueues := rfl
@[simp] theorem State.modPair_appends (s : State) (p : Nat) (f : DiePair → DiePair) : (s.modPair p f).appends = s.appends := rfl
@[simp] theorem State.modPair_partitions (s : State) (p : Nat) (f : DiePair → DiePair) : (s.modPair p f).partitions = s.partitions := rfl
@[simp] theorem State.modPair_colls (s : State) (p : Nat) (f : DiePair → DiePair) : (s.modPair p f).colls = s.colls := rfl
@[simp] theorem State.modPair_page (s : State) (p : Nat) (f : DiePair → DiePair) : (s.modPair p f).page = s.page := rfl
@[simp] theorem State.modPair_snapshot (s : State) (p : Nat) (f : DiePair → DiePair) : (s.modPair p f).snapshot = s.snapshot := rfl
@[simp] theorem State.modPair_lastPtm (s : State) (p : Nat) (f : DiePair → DiePair) : (s.modPair p f).lastPtm = s.lastPtm := rfl
@[simp] theorem State.modPair_ports (s : State) (p : Nat) (f : DiePair → DiePair) : (s.modPair p f).ports = s.ports := rfl
@[simp] theorem State.modPair_linkIde (s : State) (p : Nat) (f : DiePair → DiePair) : (s.modPair p f).linkIde = s.linkIde := rfl
@[simp] theorem State.modPair_selectiveIde (s : State) (p : Nat) (f : DiePair → DiePair) : (s.modPair p f).selectiveIde = s.selectiveIde := rfl
@[simp] theorem State.modPair_frozenFns (s : State) (p : Nat) (f : DiePair → DiePair) : (s.modPair p f).frozenFns = s.frozenFns := rfl
@[simp] theorem State.modPair_downLinks (s : State) (p : Nat) (f : DiePair → DiePair) : (s.modPair p f).downLinks = s.downLinks := rfl
@[simp] theorem State.modPair_thermal (s : State) (p : Nat) (f : DiePair → DiePair) : (s.modPair p f).thermal = s.thermal := rfl
@[simp] theorem State.modPair_powerCapped (s : State) (p : Nat) (f : DiePair → DiePair) : (s.modPair p f).powerCapped = s.powerCapped := rfl
@[simp] theorem State.modPair_emergencySave (s : State) (p : Nat) (f : DiePair → DiePair) : (s.modPair p f).emergencySave = s.emergencySave := rfl
@[simp] theorem State.modPair_measurements (s : State) (p : Nat) (f : DiePair → DiePair) : (s.modPair p f).measurements = s.measurements := rfl
@[simp] theorem State.modPair_spdm (s : State) (p : Nat) (f : DiePair → DiePair) : (s.modPair p f).spdm = s.spdm := rfl
@[simp] theorem State.modPair_hostAnswer (s : State) (p : Nat) (f : DiePair → DiePair) : (s.modPair p f).hostAnswer = s.hostAnswer := rfl

@[simp] theorem State.modPartition_powered (s : State) (p : Nat) (f : Partition → Partition) : (s.modPartition p f).powered = s.powered := rfl
@[simp] theorem State.modPartition_now (s : State) (p : Nat) (f : Partition → Partition) : (s.modPartition p f).now = s.now := rfl
@[simp] theorem State.modPartition_devTime (s : State) (p : Nat) (f : Partition → Partition) : (s.modPartition p f).devTime = s.devTime := rfl
@[simp] theorem State.modPartition_phase (s : State) (p : Nat) (f : Partition → Partition) : (s.modPartition p f).phase = s.phase := rfl
@[simp] theorem State.modPartition_todo (s : State) (p : Nat) (f : Partition → Partition) : (s.modPartition p f).todo = s.todo := rfl
@[simp] theorem State.modPartition_cur (s : State) (p : Nat) (f : Partition → Partition) : (s.modPartition p f).cur = s.cur := rfl
@[simp] theorem State.modPartition_ir (s : State) (p : Nat) (f : Partition → Partition) : (s.modPartition p f).ir = s.ir := rfl
@[simp] theorem State.modPartition_inputs (s : State) (p : Nat) (f : Partition → Partition) : (s.modPartition p f).inputs = s.inputs := rfl
@[simp] theorem State.modPartition_choice (s : State) (p : Nat) (f : Partition → Partition) : (s.modPartition p f).choice = s.choice := rfl
@[simp] theorem State.modPartition_mem (s : State) (p : Nat) (f : Partition → Partition) : (s.modPartition p f).mem = s.mem := rfl
@[simp] theorem State.modPartition_rows (s : State) (p : Nat) (f : Partition → Partition) : (s.modPartition p f).rows = s.rows := rfl
@[simp] theorem State.modPartition_l1 (s : State) (p : Nat) (f : Partition → Partition) : (s.modPartition p f).l1 = s.l1 := rfl
@[simp] theorem State.modPartition_flight (s : State) (p : Nat) (f : Partition → Partition) : (s.modPartition p f).flight = s.flight := rfl
@[simp] theorem State.modPartition_poison (s : State) (p : Nat) (f : Partition → Partition) : (s.modPartition p f).poison = s.poison := rfl
@[simp] theorem State.modPartition_rowPoison (s : State) (p : Nat) (f : Partition → Partition) : (s.modPartition p f).rowPoison = s.rowPoison := rfl
@[simp] theorem State.modPartition_lineOwners (s : State) (p : Nat) (f : Partition → Partition) : (s.modPartition p f).lineOwners = s.lineOwners := rfl
@[simp] theorem State.modPartition_rowOwners (s : State) (p : Nat) (f : Partition → Partition) : (s.modPartition p f).rowOwners = s.rowOwners := rfl
@[simp] theorem State.modPartition_cache (s : State) (p : Nat) (f : Partition → Partition) : (s.modPartition p f).cache = s.cache := rfl
@[simp] theorem State.modPartition_incoming (s : State) (p : Nat) (f : Partition → Partition) : (s.modPartition p f).incoming = s.incoming := rfl
@[simp] theorem State.modPartition_reading (s : State) (p : Nat) (f : Partition → Partition) : (s.modPartition p f).reading = s.reading := rfl
@[simp] theorem State.modPartition_keys (s : State) (p : Nat) (f : Partition → Partition) : (s.modPartition p f).keys = s.keys := rfl
@[simp] theorem State.modPartition_lineKeys (s : State) (p : Nat) (f : Partition → Partition) : (s.modPartition p f).lineKeys = s.lineKeys := rfl
@[simp] theorem State.modPartition_tlb (s : State) (p : Nat) (f : Partition → Partition) : (s.modPartition p f).tlb = s.tlb := rfl
@[simp] theorem State.modPartition_harts (s : State) (p : Nat) (f : Partition → Partition) : (s.modPartition p f).harts = s.harts := rfl
@[simp] theorem State.modPartition_clusters (s : State) (p : Nat) (f : Partition → Partition) : (s.modPartition p f).clusters = s.clusters := rfl
@[simp] theorem State.modPartition_cores (s : State) (p : Nat) (f : Partition → Partition) : (s.modPartition p f).cores = s.cores := rfl
@[simp] theorem State.modPartition_twins (s : State) (p : Nat) (f : Partition → Partition) : (s.modPartition p f).twins = s.twins := rfl
@[simp] theorem State.modPartition_pairs (s : State) (p : Nat) (f : Partition → Partition) : (s.modPartition p f).pairs = s.pairs := rfl
@[simp] theorem State.modPartition_launches (s : State) (p : Nat) (f : Partition → Partition) : (s.modPartition p f).launches = s.launches := rfl
@[simp] theorem State.modPartition_nextLaunch (s : State) (p : Nat) (f : Partition → Partition) : (s.modPartition p f).nextLaunch = s.nextLaunch := rfl
@[simp] theorem State.modPartition_contexts (s : State) (p : Nat) (f : Partition → Partition) : (s.modPartition p f).contexts = s.contexts := rfl
@[simp] theorem State.modPartition_poolTable (s : State) (p : Nat) (f : Partition → Partition) : (s.modPartition p f).poolTable = s.poolTable := rfl
@[simp] theorem State.modPartition_ctxStates (s : State) (p : Nat) (f : Partition → Partition) : (s.modPartition p f).ctxStates = s.ctxStates := rfl
@[simp] theorem State.modPartition_queues (s : State) (p : Nat) (f : Partition → Partition) : (s.modPartition p f).queues = s.queues := rfl
@[simp] theorem State.modPartition_spareQueues (s : State) (p : Nat) (f : Partition → Partition) : (s.modPartition p f).spareQueues = s.spareQueues := rfl
@[simp] theorem State.modPartition_appends (s : State) (p : Nat) (f : Partition → Partition) : (s.modPartition p f).appends = s.appends := rfl
@[simp] theorem State.modPartition_colls (s : State) (p : Nat) (f : Partition → Partition) : (s.modPartition p f).colls = s.colls := rfl
@[simp] theorem State.modPartition_page (s : State) (p : Nat) (f : Partition → Partition) : (s.modPartition p f).page = s.page := rfl
@[simp] theorem State.modPartition_snapshot (s : State) (p : Nat) (f : Partition → Partition) : (s.modPartition p f).snapshot = s.snapshot := rfl
@[simp] theorem State.modPartition_lastPtm (s : State) (p : Nat) (f : Partition → Partition) : (s.modPartition p f).lastPtm = s.lastPtm := rfl
@[simp] theorem State.modPartition_ports (s : State) (p : Nat) (f : Partition → Partition) : (s.modPartition p f).ports = s.ports := rfl
@[simp] theorem State.modPartition_linkIde (s : State) (p : Nat) (f : Partition → Partition) : (s.modPartition p f).linkIde = s.linkIde := rfl
@[simp] theorem State.modPartition_selectiveIde (s : State) (p : Nat) (f : Partition → Partition) : (s.modPartition p f).selectiveIde = s.selectiveIde := rfl
@[simp] theorem State.modPartition_frozenFns (s : State) (p : Nat) (f : Partition → Partition) : (s.modPartition p f).frozenFns = s.frozenFns := rfl
@[simp] theorem State.modPartition_downLinks (s : State) (p : Nat) (f : Partition → Partition) : (s.modPartition p f).downLinks = s.downLinks := rfl
@[simp] theorem State.modPartition_thermal (s : State) (p : Nat) (f : Partition → Partition) : (s.modPartition p f).thermal = s.thermal := rfl
@[simp] theorem State.modPartition_powerCapped (s : State) (p : Nat) (f : Partition → Partition) : (s.modPartition p f).powerCapped = s.powerCapped := rfl
@[simp] theorem State.modPartition_emergencySave (s : State) (p : Nat) (f : Partition → Partition) : (s.modPartition p f).emergencySave = s.emergencySave := rfl
@[simp] theorem State.modPartition_measurements (s : State) (p : Nat) (f : Partition → Partition) : (s.modPartition p f).measurements = s.measurements := rfl
@[simp] theorem State.modPartition_spdm (s : State) (p : Nat) (f : Partition → Partition) : (s.modPartition p f).spdm = s.spdm := rfl
@[simp] theorem State.modPartition_hostAnswer (s : State) (p : Nat) (f : Partition → Partition) : (s.modPartition p f).hostAnswer = s.hostAnswer := rfl

@[simp] theorem State.modCtx_powered (s : State) (c : Nat) (f : CtxState → CtxState) : (s.modCtx c f).powered = s.powered := rfl
@[simp] theorem State.modCtx_now (s : State) (c : Nat) (f : CtxState → CtxState) : (s.modCtx c f).now = s.now := rfl
@[simp] theorem State.modCtx_devTime (s : State) (c : Nat) (f : CtxState → CtxState) : (s.modCtx c f).devTime = s.devTime := rfl
@[simp] theorem State.modCtx_phase (s : State) (c : Nat) (f : CtxState → CtxState) : (s.modCtx c f).phase = s.phase := rfl
@[simp] theorem State.modCtx_todo (s : State) (c : Nat) (f : CtxState → CtxState) : (s.modCtx c f).todo = s.todo := rfl
@[simp] theorem State.modCtx_cur (s : State) (c : Nat) (f : CtxState → CtxState) : (s.modCtx c f).cur = s.cur := rfl
@[simp] theorem State.modCtx_ir (s : State) (c : Nat) (f : CtxState → CtxState) : (s.modCtx c f).ir = s.ir := rfl
@[simp] theorem State.modCtx_inputs (s : State) (c : Nat) (f : CtxState → CtxState) : (s.modCtx c f).inputs = s.inputs := rfl
@[simp] theorem State.modCtx_choice (s : State) (c : Nat) (f : CtxState → CtxState) : (s.modCtx c f).choice = s.choice := rfl
@[simp] theorem State.modCtx_mem (s : State) (c : Nat) (f : CtxState → CtxState) : (s.modCtx c f).mem = s.mem := rfl
@[simp] theorem State.modCtx_rows (s : State) (c : Nat) (f : CtxState → CtxState) : (s.modCtx c f).rows = s.rows := rfl
@[simp] theorem State.modCtx_l1 (s : State) (c : Nat) (f : CtxState → CtxState) : (s.modCtx c f).l1 = s.l1 := rfl
@[simp] theorem State.modCtx_flight (s : State) (c : Nat) (f : CtxState → CtxState) : (s.modCtx c f).flight = s.flight := rfl
@[simp] theorem State.modCtx_poison (s : State) (c : Nat) (f : CtxState → CtxState) : (s.modCtx c f).poison = s.poison := rfl
@[simp] theorem State.modCtx_rowPoison (s : State) (c : Nat) (f : CtxState → CtxState) : (s.modCtx c f).rowPoison = s.rowPoison := rfl
@[simp] theorem State.modCtx_lineOwners (s : State) (c : Nat) (f : CtxState → CtxState) : (s.modCtx c f).lineOwners = s.lineOwners := rfl
@[simp] theorem State.modCtx_rowOwners (s : State) (c : Nat) (f : CtxState → CtxState) : (s.modCtx c f).rowOwners = s.rowOwners := rfl
@[simp] theorem State.modCtx_cache (s : State) (c : Nat) (f : CtxState → CtxState) : (s.modCtx c f).cache = s.cache := rfl
@[simp] theorem State.modCtx_incoming (s : State) (c : Nat) (f : CtxState → CtxState) : (s.modCtx c f).incoming = s.incoming := rfl
@[simp] theorem State.modCtx_reading (s : State) (c : Nat) (f : CtxState → CtxState) : (s.modCtx c f).reading = s.reading := rfl
@[simp] theorem State.modCtx_keys (s : State) (c : Nat) (f : CtxState → CtxState) : (s.modCtx c f).keys = s.keys := rfl
@[simp] theorem State.modCtx_lineKeys (s : State) (c : Nat) (f : CtxState → CtxState) : (s.modCtx c f).lineKeys = s.lineKeys := rfl
@[simp] theorem State.modCtx_tlb (s : State) (c : Nat) (f : CtxState → CtxState) : (s.modCtx c f).tlb = s.tlb := rfl
@[simp] theorem State.modCtx_harts (s : State) (c : Nat) (f : CtxState → CtxState) : (s.modCtx c f).harts = s.harts := rfl
@[simp] theorem State.modCtx_clusters (s : State) (c : Nat) (f : CtxState → CtxState) : (s.modCtx c f).clusters = s.clusters := rfl
@[simp] theorem State.modCtx_cores (s : State) (c : Nat) (f : CtxState → CtxState) : (s.modCtx c f).cores = s.cores := rfl
@[simp] theorem State.modCtx_twins (s : State) (c : Nat) (f : CtxState → CtxState) : (s.modCtx c f).twins = s.twins := rfl
@[simp] theorem State.modCtx_pairs (s : State) (c : Nat) (f : CtxState → CtxState) : (s.modCtx c f).pairs = s.pairs := rfl
@[simp] theorem State.modCtx_launches (s : State) (c : Nat) (f : CtxState → CtxState) : (s.modCtx c f).launches = s.launches := rfl
@[simp] theorem State.modCtx_nextLaunch (s : State) (c : Nat) (f : CtxState → CtxState) : (s.modCtx c f).nextLaunch = s.nextLaunch := rfl
@[simp] theorem State.modCtx_contexts (s : State) (c : Nat) (f : CtxState → CtxState) : (s.modCtx c f).contexts = s.contexts := rfl
@[simp] theorem State.modCtx_poolTable (s : State) (c : Nat) (f : CtxState → CtxState) : (s.modCtx c f).poolTable = s.poolTable := rfl
@[simp] theorem State.modCtx_queues (s : State) (c : Nat) (f : CtxState → CtxState) : (s.modCtx c f).queues = s.queues := rfl
@[simp] theorem State.modCtx_spareQueues (s : State) (c : Nat) (f : CtxState → CtxState) : (s.modCtx c f).spareQueues = s.spareQueues := rfl
@[simp] theorem State.modCtx_appends (s : State) (c : Nat) (f : CtxState → CtxState) : (s.modCtx c f).appends = s.appends := rfl
@[simp] theorem State.modCtx_partitions (s : State) (c : Nat) (f : CtxState → CtxState) : (s.modCtx c f).partitions = s.partitions := rfl
@[simp] theorem State.modCtx_colls (s : State) (c : Nat) (f : CtxState → CtxState) : (s.modCtx c f).colls = s.colls := rfl
@[simp] theorem State.modCtx_page (s : State) (c : Nat) (f : CtxState → CtxState) : (s.modCtx c f).page = s.page := rfl
@[simp] theorem State.modCtx_snapshot (s : State) (c : Nat) (f : CtxState → CtxState) : (s.modCtx c f).snapshot = s.snapshot := rfl
@[simp] theorem State.modCtx_lastPtm (s : State) (c : Nat) (f : CtxState → CtxState) : (s.modCtx c f).lastPtm = s.lastPtm := rfl
@[simp] theorem State.modCtx_ports (s : State) (c : Nat) (f : CtxState → CtxState) : (s.modCtx c f).ports = s.ports := rfl
@[simp] theorem State.modCtx_linkIde (s : State) (c : Nat) (f : CtxState → CtxState) : (s.modCtx c f).linkIde = s.linkIde := rfl
@[simp] theorem State.modCtx_selectiveIde (s : State) (c : Nat) (f : CtxState → CtxState) : (s.modCtx c f).selectiveIde = s.selectiveIde := rfl
@[simp] theorem State.modCtx_frozenFns (s : State) (c : Nat) (f : CtxState → CtxState) : (s.modCtx c f).frozenFns = s.frozenFns := rfl
@[simp] theorem State.modCtx_downLinks (s : State) (c : Nat) (f : CtxState → CtxState) : (s.modCtx c f).downLinks = s.downLinks := rfl
@[simp] theorem State.modCtx_thermal (s : State) (c : Nat) (f : CtxState → CtxState) : (s.modCtx c f).thermal = s.thermal := rfl
@[simp] theorem State.modCtx_powerCapped (s : State) (c : Nat) (f : CtxState → CtxState) : (s.modCtx c f).powerCapped = s.powerCapped := rfl
@[simp] theorem State.modCtx_emergencySave (s : State) (c : Nat) (f : CtxState → CtxState) : (s.modCtx c f).emergencySave = s.emergencySave := rfl
@[simp] theorem State.modCtx_measurements (s : State) (c : Nat) (f : CtxState → CtxState) : (s.modCtx c f).measurements = s.measurements := rfl
@[simp] theorem State.modCtx_spdm (s : State) (c : Nat) (f : CtxState → CtxState) : (s.modCtx c f).spdm = s.spdm := rfl
@[simp] theorem State.modCtx_hostAnswer (s : State) (c : Nat) (f : CtxState → CtxState) : (s.modCtx c f).hostAnswer = s.hostAnswer := rfl

@[simp] theorem State.modLicence_powered (s : State) (t : PairKey) (f : Licence → Licence) : (s.modLicence t f).powered = s.powered := rfl
@[simp] theorem State.modLicence_now (s : State) (t : PairKey) (f : Licence → Licence) : (s.modLicence t f).now = s.now := rfl
@[simp] theorem State.modLicence_devTime (s : State) (t : PairKey) (f : Licence → Licence) : (s.modLicence t f).devTime = s.devTime := rfl
@[simp] theorem State.modLicence_phase (s : State) (t : PairKey) (f : Licence → Licence) : (s.modLicence t f).phase = s.phase := rfl
@[simp] theorem State.modLicence_todo (s : State) (t : PairKey) (f : Licence → Licence) : (s.modLicence t f).todo = s.todo := rfl
@[simp] theorem State.modLicence_cur (s : State) (t : PairKey) (f : Licence → Licence) : (s.modLicence t f).cur = s.cur := rfl
@[simp] theorem State.modLicence_ir (s : State) (t : PairKey) (f : Licence → Licence) : (s.modLicence t f).ir = s.ir := rfl
@[simp] theorem State.modLicence_inputs (s : State) (t : PairKey) (f : Licence → Licence) : (s.modLicence t f).inputs = s.inputs := rfl
@[simp] theorem State.modLicence_choice (s : State) (t : PairKey) (f : Licence → Licence) : (s.modLicence t f).choice = s.choice := rfl
@[simp] theorem State.modLicence_mem (s : State) (t : PairKey) (f : Licence → Licence) : (s.modLicence t f).mem = s.mem := rfl
@[simp] theorem State.modLicence_rows (s : State) (t : PairKey) (f : Licence → Licence) : (s.modLicence t f).rows = s.rows := rfl
@[simp] theorem State.modLicence_l1 (s : State) (t : PairKey) (f : Licence → Licence) : (s.modLicence t f).l1 = s.l1 := rfl
@[simp] theorem State.modLicence_flight (s : State) (t : PairKey) (f : Licence → Licence) : (s.modLicence t f).flight = s.flight := rfl
@[simp] theorem State.modLicence_poison (s : State) (t : PairKey) (f : Licence → Licence) : (s.modLicence t f).poison = s.poison := rfl
@[simp] theorem State.modLicence_rowPoison (s : State) (t : PairKey) (f : Licence → Licence) : (s.modLicence t f).rowPoison = s.rowPoison := rfl
@[simp] theorem State.modLicence_lineOwners (s : State) (t : PairKey) (f : Licence → Licence) : (s.modLicence t f).lineOwners = s.lineOwners := rfl
@[simp] theorem State.modLicence_rowOwners (s : State) (t : PairKey) (f : Licence → Licence) : (s.modLicence t f).rowOwners = s.rowOwners := rfl
@[simp] theorem State.modLicence_cache (s : State) (t : PairKey) (f : Licence → Licence) : (s.modLicence t f).cache = s.cache := rfl
@[simp] theorem State.modLicence_incoming (s : State) (t : PairKey) (f : Licence → Licence) : (s.modLicence t f).incoming = s.incoming := rfl
@[simp] theorem State.modLicence_reading (s : State) (t : PairKey) (f : Licence → Licence) : (s.modLicence t f).reading = s.reading := rfl
@[simp] theorem State.modLicence_keys (s : State) (t : PairKey) (f : Licence → Licence) : (s.modLicence t f).keys = s.keys := rfl
@[simp] theorem State.modLicence_lineKeys (s : State) (t : PairKey) (f : Licence → Licence) : (s.modLicence t f).lineKeys = s.lineKeys := rfl
@[simp] theorem State.modLicence_tlb (s : State) (t : PairKey) (f : Licence → Licence) : (s.modLicence t f).tlb = s.tlb := rfl
@[simp] theorem State.modLicence_harts (s : State) (t : PairKey) (f : Licence → Licence) : (s.modLicence t f).harts = s.harts := rfl
@[simp] theorem State.modLicence_clusters (s : State) (t : PairKey) (f : Licence → Licence) : (s.modLicence t f).clusters = s.clusters := rfl
@[simp] theorem State.modLicence_cores (s : State) (t : PairKey) (f : Licence → Licence) : (s.modLicence t f).cores = s.cores := rfl
@[simp] theorem State.modLicence_pairs (s : State) (t : PairKey) (f : Licence → Licence) : (s.modLicence t f).pairs = s.pairs := rfl
@[simp] theorem State.modLicence_launches (s : State) (t : PairKey) (f : Licence → Licence) : (s.modLicence t f).launches = s.launches := rfl
@[simp] theorem State.modLicence_nextLaunch (s : State) (t : PairKey) (f : Licence → Licence) : (s.modLicence t f).nextLaunch = s.nextLaunch := rfl
@[simp] theorem State.modLicence_contexts (s : State) (t : PairKey) (f : Licence → Licence) : (s.modLicence t f).contexts = s.contexts := rfl
@[simp] theorem State.modLicence_poolTable (s : State) (t : PairKey) (f : Licence → Licence) : (s.modLicence t f).poolTable = s.poolTable := rfl
@[simp] theorem State.modLicence_ctxStates (s : State) (t : PairKey) (f : Licence → Licence) : (s.modLicence t f).ctxStates = s.ctxStates := rfl
@[simp] theorem State.modLicence_queues (s : State) (t : PairKey) (f : Licence → Licence) : (s.modLicence t f).queues = s.queues := rfl
@[simp] theorem State.modLicence_spareQueues (s : State) (t : PairKey) (f : Licence → Licence) : (s.modLicence t f).spareQueues = s.spareQueues := rfl
@[simp] theorem State.modLicence_appends (s : State) (t : PairKey) (f : Licence → Licence) : (s.modLicence t f).appends = s.appends := rfl
@[simp] theorem State.modLicence_partitions (s : State) (t : PairKey) (f : Licence → Licence) : (s.modLicence t f).partitions = s.partitions := rfl
@[simp] theorem State.modLicence_colls (s : State) (t : PairKey) (f : Licence → Licence) : (s.modLicence t f).colls = s.colls := rfl
@[simp] theorem State.modLicence_page (s : State) (t : PairKey) (f : Licence → Licence) : (s.modLicence t f).page = s.page := rfl
@[simp] theorem State.modLicence_snapshot (s : State) (t : PairKey) (f : Licence → Licence) : (s.modLicence t f).snapshot = s.snapshot := rfl
@[simp] theorem State.modLicence_lastPtm (s : State) (t : PairKey) (f : Licence → Licence) : (s.modLicence t f).lastPtm = s.lastPtm := rfl
@[simp] theorem State.modLicence_ports (s : State) (t : PairKey) (f : Licence → Licence) : (s.modLicence t f).ports = s.ports := rfl
@[simp] theorem State.modLicence_linkIde (s : State) (t : PairKey) (f : Licence → Licence) : (s.modLicence t f).linkIde = s.linkIde := rfl
@[simp] theorem State.modLicence_selectiveIde (s : State) (t : PairKey) (f : Licence → Licence) : (s.modLicence t f).selectiveIde = s.selectiveIde := rfl
@[simp] theorem State.modLicence_frozenFns (s : State) (t : PairKey) (f : Licence → Licence) : (s.modLicence t f).frozenFns = s.frozenFns := rfl
@[simp] theorem State.modLicence_downLinks (s : State) (t : PairKey) (f : Licence → Licence) : (s.modLicence t f).downLinks = s.downLinks := rfl
@[simp] theorem State.modLicence_thermal (s : State) (t : PairKey) (f : Licence → Licence) : (s.modLicence t f).thermal = s.thermal := rfl
@[simp] theorem State.modLicence_powerCapped (s : State) (t : PairKey) (f : Licence → Licence) : (s.modLicence t f).powerCapped = s.powerCapped := rfl
@[simp] theorem State.modLicence_emergencySave (s : State) (t : PairKey) (f : Licence → Licence) : (s.modLicence t f).emergencySave = s.emergencySave := rfl
@[simp] theorem State.modLicence_measurements (s : State) (t : PairKey) (f : Licence → Licence) : (s.modLicence t f).measurements = s.measurements := rfl
@[simp] theorem State.modLicence_spdm (s : State) (t : PairKey) (f : Licence → Licence) : (s.modLicence t f).spdm = s.spdm := rfl
@[simp] theorem State.modLicence_hostAnswer (s : State) (t : PairKey) (f : Licence → Licence) : (s.modLicence t f).hostAnswer = s.hostAnswer := rfl

@[simp] theorem State.modTeam_powered (s : State) (l n : Nat) (f : Team → Team) : (s.modTeam l n f).powered = s.powered := rfl
@[simp] theorem State.modTeam_now (s : State) (l n : Nat) (f : Team → Team) : (s.modTeam l n f).now = s.now := rfl
@[simp] theorem State.modTeam_devTime (s : State) (l n : Nat) (f : Team → Team) : (s.modTeam l n f).devTime = s.devTime := rfl
@[simp] theorem State.modTeam_phase (s : State) (l n : Nat) (f : Team → Team) : (s.modTeam l n f).phase = s.phase := rfl
@[simp] theorem State.modTeam_todo (s : State) (l n : Nat) (f : Team → Team) : (s.modTeam l n f).todo = s.todo := rfl
@[simp] theorem State.modTeam_cur (s : State) (l n : Nat) (f : Team → Team) : (s.modTeam l n f).cur = s.cur := rfl
@[simp] theorem State.modTeam_ir (s : State) (l n : Nat) (f : Team → Team) : (s.modTeam l n f).ir = s.ir := rfl
@[simp] theorem State.modTeam_inputs (s : State) (l n : Nat) (f : Team → Team) : (s.modTeam l n f).inputs = s.inputs := rfl
@[simp] theorem State.modTeam_choice (s : State) (l n : Nat) (f : Team → Team) : (s.modTeam l n f).choice = s.choice := rfl
@[simp] theorem State.modTeam_mem (s : State) (l n : Nat) (f : Team → Team) : (s.modTeam l n f).mem = s.mem := rfl
@[simp] theorem State.modTeam_rows (s : State) (l n : Nat) (f : Team → Team) : (s.modTeam l n f).rows = s.rows := rfl
@[simp] theorem State.modTeam_l1 (s : State) (l n : Nat) (f : Team → Team) : (s.modTeam l n f).l1 = s.l1 := rfl
@[simp] theorem State.modTeam_flight (s : State) (l n : Nat) (f : Team → Team) : (s.modTeam l n f).flight = s.flight := rfl
@[simp] theorem State.modTeam_poison (s : State) (l n : Nat) (f : Team → Team) : (s.modTeam l n f).poison = s.poison := rfl
@[simp] theorem State.modTeam_rowPoison (s : State) (l n : Nat) (f : Team → Team) : (s.modTeam l n f).rowPoison = s.rowPoison := rfl
@[simp] theorem State.modTeam_lineOwners (s : State) (l n : Nat) (f : Team → Team) : (s.modTeam l n f).lineOwners = s.lineOwners := rfl
@[simp] theorem State.modTeam_rowOwners (s : State) (l n : Nat) (f : Team → Team) : (s.modTeam l n f).rowOwners = s.rowOwners := rfl
@[simp] theorem State.modTeam_cache (s : State) (l n : Nat) (f : Team → Team) : (s.modTeam l n f).cache = s.cache := rfl
@[simp] theorem State.modTeam_incoming (s : State) (l n : Nat) (f : Team → Team) : (s.modTeam l n f).incoming = s.incoming := rfl
@[simp] theorem State.modTeam_reading (s : State) (l n : Nat) (f : Team → Team) : (s.modTeam l n f).reading = s.reading := rfl
@[simp] theorem State.modTeam_keys (s : State) (l n : Nat) (f : Team → Team) : (s.modTeam l n f).keys = s.keys := rfl
@[simp] theorem State.modTeam_lineKeys (s : State) (l n : Nat) (f : Team → Team) : (s.modTeam l n f).lineKeys = s.lineKeys := rfl
@[simp] theorem State.modTeam_tlb (s : State) (l n : Nat) (f : Team → Team) : (s.modTeam l n f).tlb = s.tlb := rfl
@[simp] theorem State.modTeam_harts (s : State) (l n : Nat) (f : Team → Team) : (s.modTeam l n f).harts = s.harts := rfl
@[simp] theorem State.modTeam_clusters (s : State) (l n : Nat) (f : Team → Team) : (s.modTeam l n f).clusters = s.clusters := rfl
@[simp] theorem State.modTeam_cores (s : State) (l n : Nat) (f : Team → Team) : (s.modTeam l n f).cores = s.cores := rfl
@[simp] theorem State.modTeam_twins (s : State) (l n : Nat) (f : Team → Team) : (s.modTeam l n f).twins = s.twins := rfl
@[simp] theorem State.modTeam_pairs (s : State) (l n : Nat) (f : Team → Team) : (s.modTeam l n f).pairs = s.pairs := rfl
@[simp] theorem State.modTeam_nextLaunch (s : State) (l n : Nat) (f : Team → Team) : (s.modTeam l n f).nextLaunch = s.nextLaunch := rfl
@[simp] theorem State.modTeam_contexts (s : State) (l n : Nat) (f : Team → Team) : (s.modTeam l n f).contexts = s.contexts := rfl
@[simp] theorem State.modTeam_poolTable (s : State) (l n : Nat) (f : Team → Team) : (s.modTeam l n f).poolTable = s.poolTable := rfl
@[simp] theorem State.modTeam_ctxStates (s : State) (l n : Nat) (f : Team → Team) : (s.modTeam l n f).ctxStates = s.ctxStates := rfl
@[simp] theorem State.modTeam_queues (s : State) (l n : Nat) (f : Team → Team) : (s.modTeam l n f).queues = s.queues := rfl
@[simp] theorem State.modTeam_spareQueues (s : State) (l n : Nat) (f : Team → Team) : (s.modTeam l n f).spareQueues = s.spareQueues := rfl
@[simp] theorem State.modTeam_appends (s : State) (l n : Nat) (f : Team → Team) : (s.modTeam l n f).appends = s.appends := rfl
@[simp] theorem State.modTeam_partitions (s : State) (l n : Nat) (f : Team → Team) : (s.modTeam l n f).partitions = s.partitions := rfl
@[simp] theorem State.modTeam_colls (s : State) (l n : Nat) (f : Team → Team) : (s.modTeam l n f).colls = s.colls := rfl
@[simp] theorem State.modTeam_page (s : State) (l n : Nat) (f : Team → Team) : (s.modTeam l n f).page = s.page := rfl
@[simp] theorem State.modTeam_snapshot (s : State) (l n : Nat) (f : Team → Team) : (s.modTeam l n f).snapshot = s.snapshot := rfl
@[simp] theorem State.modTeam_lastPtm (s : State) (l n : Nat) (f : Team → Team) : (s.modTeam l n f).lastPtm = s.lastPtm := rfl
@[simp] theorem State.modTeam_ports (s : State) (l n : Nat) (f : Team → Team) : (s.modTeam l n f).ports = s.ports := rfl
@[simp] theorem State.modTeam_linkIde (s : State) (l n : Nat) (f : Team → Team) : (s.modTeam l n f).linkIde = s.linkIde := rfl
@[simp] theorem State.modTeam_selectiveIde (s : State) (l n : Nat) (f : Team → Team) : (s.modTeam l n f).selectiveIde = s.selectiveIde := rfl
@[simp] theorem State.modTeam_frozenFns (s : State) (l n : Nat) (f : Team → Team) : (s.modTeam l n f).frozenFns = s.frozenFns := rfl
@[simp] theorem State.modTeam_downLinks (s : State) (l n : Nat) (f : Team → Team) : (s.modTeam l n f).downLinks = s.downLinks := rfl
@[simp] theorem State.modTeam_thermal (s : State) (l n : Nat) (f : Team → Team) : (s.modTeam l n f).thermal = s.thermal := rfl
@[simp] theorem State.modTeam_powerCapped (s : State) (l n : Nat) (f : Team → Team) : (s.modTeam l n f).powerCapped = s.powerCapped := rfl
@[simp] theorem State.modTeam_emergencySave (s : State) (l n : Nat) (f : Team → Team) : (s.modTeam l n f).emergencySave = s.emergencySave := rfl
@[simp] theorem State.modTeam_measurements (s : State) (l n : Nat) (f : Team → Team) : (s.modTeam l n f).measurements = s.measurements := rfl
@[simp] theorem State.modTeam_spdm (s : State) (l n : Nat) (f : Team → Team) : (s.modTeam l n f).spdm = s.spdm := rfl
@[simp] theorem State.modTeam_hostAnswer (s : State) (l n : Nat) (f : Team → Team) : (s.modTeam l n f).hostAnswer = s.hostAnswer := rfl

@[simp] theorem State.modQueue_powered (s : State) (q : Nat) (f : Queue → Queue) : (s.modQueue q f).powered = s.powered := rfl
@[simp] theorem State.modQueue_now (s : State) (q : Nat) (f : Queue → Queue) : (s.modQueue q f).now = s.now := rfl
@[simp] theorem State.modQueue_devTime (s : State) (q : Nat) (f : Queue → Queue) : (s.modQueue q f).devTime = s.devTime := rfl
@[simp] theorem State.modQueue_phase (s : State) (q : Nat) (f : Queue → Queue) : (s.modQueue q f).phase = s.phase := rfl
@[simp] theorem State.modQueue_todo (s : State) (q : Nat) (f : Queue → Queue) : (s.modQueue q f).todo = s.todo := rfl
@[simp] theorem State.modQueue_cur (s : State) (q : Nat) (f : Queue → Queue) : (s.modQueue q f).cur = s.cur := rfl
@[simp] theorem State.modQueue_ir (s : State) (q : Nat) (f : Queue → Queue) : (s.modQueue q f).ir = s.ir := rfl
@[simp] theorem State.modQueue_inputs (s : State) (q : Nat) (f : Queue → Queue) : (s.modQueue q f).inputs = s.inputs := rfl
@[simp] theorem State.modQueue_choice (s : State) (q : Nat) (f : Queue → Queue) : (s.modQueue q f).choice = s.choice := rfl
@[simp] theorem State.modQueue_mem (s : State) (q : Nat) (f : Queue → Queue) : (s.modQueue q f).mem = s.mem := rfl
@[simp] theorem State.modQueue_rows (s : State) (q : Nat) (f : Queue → Queue) : (s.modQueue q f).rows = s.rows := rfl
@[simp] theorem State.modQueue_l1 (s : State) (q : Nat) (f : Queue → Queue) : (s.modQueue q f).l1 = s.l1 := rfl
@[simp] theorem State.modQueue_flight (s : State) (q : Nat) (f : Queue → Queue) : (s.modQueue q f).flight = s.flight := rfl
@[simp] theorem State.modQueue_poison (s : State) (q : Nat) (f : Queue → Queue) : (s.modQueue q f).poison = s.poison := rfl
@[simp] theorem State.modQueue_rowPoison (s : State) (q : Nat) (f : Queue → Queue) : (s.modQueue q f).rowPoison = s.rowPoison := rfl
@[simp] theorem State.modQueue_lineOwners (s : State) (q : Nat) (f : Queue → Queue) : (s.modQueue q f).lineOwners = s.lineOwners := rfl
@[simp] theorem State.modQueue_rowOwners (s : State) (q : Nat) (f : Queue → Queue) : (s.modQueue q f).rowOwners = s.rowOwners := rfl
@[simp] theorem State.modQueue_cache (s : State) (q : Nat) (f : Queue → Queue) : (s.modQueue q f).cache = s.cache := rfl
@[simp] theorem State.modQueue_incoming (s : State) (q : Nat) (f : Queue → Queue) : (s.modQueue q f).incoming = s.incoming := rfl
@[simp] theorem State.modQueue_reading (s : State) (q : Nat) (f : Queue → Queue) : (s.modQueue q f).reading = s.reading := rfl
@[simp] theorem State.modQueue_keys (s : State) (q : Nat) (f : Queue → Queue) : (s.modQueue q f).keys = s.keys := rfl
@[simp] theorem State.modQueue_lineKeys (s : State) (q : Nat) (f : Queue → Queue) : (s.modQueue q f).lineKeys = s.lineKeys := rfl
@[simp] theorem State.modQueue_tlb (s : State) (q : Nat) (f : Queue → Queue) : (s.modQueue q f).tlb = s.tlb := rfl
@[simp] theorem State.modQueue_harts (s : State) (q : Nat) (f : Queue → Queue) : (s.modQueue q f).harts = s.harts := rfl
@[simp] theorem State.modQueue_clusters (s : State) (q : Nat) (f : Queue → Queue) : (s.modQueue q f).clusters = s.clusters := rfl
@[simp] theorem State.modQueue_cores (s : State) (q : Nat) (f : Queue → Queue) : (s.modQueue q f).cores = s.cores := rfl
@[simp] theorem State.modQueue_twins (s : State) (q : Nat) (f : Queue → Queue) : (s.modQueue q f).twins = s.twins := rfl
@[simp] theorem State.modQueue_pairs (s : State) (q : Nat) (f : Queue → Queue) : (s.modQueue q f).pairs = s.pairs := rfl
@[simp] theorem State.modQueue_launches (s : State) (q : Nat) (f : Queue → Queue) : (s.modQueue q f).launches = s.launches := rfl
@[simp] theorem State.modQueue_nextLaunch (s : State) (q : Nat) (f : Queue → Queue) : (s.modQueue q f).nextLaunch = s.nextLaunch := rfl
@[simp] theorem State.modQueue_contexts (s : State) (q : Nat) (f : Queue → Queue) : (s.modQueue q f).contexts = s.contexts := rfl
@[simp] theorem State.modQueue_poolTable (s : State) (q : Nat) (f : Queue → Queue) : (s.modQueue q f).poolTable = s.poolTable := rfl
@[simp] theorem State.modQueue_ctxStates (s : State) (q : Nat) (f : Queue → Queue) : (s.modQueue q f).ctxStates = s.ctxStates := rfl
@[simp] theorem State.modQueue_spareQueues (s : State) (q : Nat) (f : Queue → Queue) : (s.modQueue q f).spareQueues = s.spareQueues := rfl
@[simp] theorem State.modQueue_appends (s : State) (q : Nat) (f : Queue → Queue) : (s.modQueue q f).appends = s.appends := rfl
@[simp] theorem State.modQueue_partitions (s : State) (q : Nat) (f : Queue → Queue) : (s.modQueue q f).partitions = s.partitions := rfl
@[simp] theorem State.modQueue_colls (s : State) (q : Nat) (f : Queue → Queue) : (s.modQueue q f).colls = s.colls := rfl
@[simp] theorem State.modQueue_page (s : State) (q : Nat) (f : Queue → Queue) : (s.modQueue q f).page = s.page := rfl
@[simp] theorem State.modQueue_snapshot (s : State) (q : Nat) (f : Queue → Queue) : (s.modQueue q f).snapshot = s.snapshot := rfl
@[simp] theorem State.modQueue_lastPtm (s : State) (q : Nat) (f : Queue → Queue) : (s.modQueue q f).lastPtm = s.lastPtm := rfl
@[simp] theorem State.modQueue_ports (s : State) (q : Nat) (f : Queue → Queue) : (s.modQueue q f).ports = s.ports := rfl
@[simp] theorem State.modQueue_linkIde (s : State) (q : Nat) (f : Queue → Queue) : (s.modQueue q f).linkIde = s.linkIde := rfl
@[simp] theorem State.modQueue_selectiveIde (s : State) (q : Nat) (f : Queue → Queue) : (s.modQueue q f).selectiveIde = s.selectiveIde := rfl
@[simp] theorem State.modQueue_frozenFns (s : State) (q : Nat) (f : Queue → Queue) : (s.modQueue q f).frozenFns = s.frozenFns := rfl
@[simp] theorem State.modQueue_downLinks (s : State) (q : Nat) (f : Queue → Queue) : (s.modQueue q f).downLinks = s.downLinks := rfl
@[simp] theorem State.modQueue_thermal (s : State) (q : Nat) (f : Queue → Queue) : (s.modQueue q f).thermal = s.thermal := rfl
@[simp] theorem State.modQueue_powerCapped (s : State) (q : Nat) (f : Queue → Queue) : (s.modQueue q f).powerCapped = s.powerCapped := rfl
@[simp] theorem State.modQueue_emergencySave (s : State) (q : Nat) (f : Queue → Queue) : (s.modQueue q f).emergencySave = s.emergencySave := rfl
@[simp] theorem State.modQueue_measurements (s : State) (q : Nat) (f : Queue → Queue) : (s.modQueue q f).measurements = s.measurements := rfl
@[simp] theorem State.modQueue_spdm (s : State) (q : Nat) (f : Queue → Queue) : (s.modQueue q f).spdm = s.spdm := rfl
@[simp] theorem State.modQueue_hostAnswer (s : State) (q : Nat) (f : Queue → Queue) : (s.modQueue q f).hostAnswer = s.hostAnswer := rfl

@[simp] theorem State.modSelf_powered (s : State) (f : Hart → Hart) : (s.modSelf f).powered = s.powered := rfl
@[simp] theorem State.modSelf_now (s : State) (f : Hart → Hart) : (s.modSelf f).now = s.now := rfl
@[simp] theorem State.modSelf_devTime (s : State) (f : Hart → Hart) : (s.modSelf f).devTime = s.devTime := rfl
@[simp] theorem State.modSelf_phase (s : State) (f : Hart → Hart) : (s.modSelf f).phase = s.phase := rfl
@[simp] theorem State.modSelf_todo (s : State) (f : Hart → Hart) : (s.modSelf f).todo = s.todo := rfl
@[simp] theorem State.modSelf_cur (s : State) (f : Hart → Hart) : (s.modSelf f).cur = s.cur := rfl
@[simp] theorem State.modSelf_ir (s : State) (f : Hart → Hart) : (s.modSelf f).ir = s.ir := rfl
@[simp] theorem State.modSelf_inputs (s : State) (f : Hart → Hart) : (s.modSelf f).inputs = s.inputs := rfl
@[simp] theorem State.modSelf_choice (s : State) (f : Hart → Hart) : (s.modSelf f).choice = s.choice := rfl
@[simp] theorem State.modSelf_mem (s : State) (f : Hart → Hart) : (s.modSelf f).mem = s.mem := rfl
@[simp] theorem State.modSelf_rows (s : State) (f : Hart → Hart) : (s.modSelf f).rows = s.rows := rfl
@[simp] theorem State.modSelf_l1 (s : State) (f : Hart → Hart) : (s.modSelf f).l1 = s.l1 := rfl
@[simp] theorem State.modSelf_flight (s : State) (f : Hart → Hart) : (s.modSelf f).flight = s.flight := rfl
@[simp] theorem State.modSelf_poison (s : State) (f : Hart → Hart) : (s.modSelf f).poison = s.poison := rfl
@[simp] theorem State.modSelf_rowPoison (s : State) (f : Hart → Hart) : (s.modSelf f).rowPoison = s.rowPoison := rfl
@[simp] theorem State.modSelf_lineOwners (s : State) (f : Hart → Hart) : (s.modSelf f).lineOwners = s.lineOwners := rfl
@[simp] theorem State.modSelf_rowOwners (s : State) (f : Hart → Hart) : (s.modSelf f).rowOwners = s.rowOwners := rfl
@[simp] theorem State.modSelf_cache (s : State) (f : Hart → Hart) : (s.modSelf f).cache = s.cache := rfl
@[simp] theorem State.modSelf_incoming (s : State) (f : Hart → Hart) : (s.modSelf f).incoming = s.incoming := rfl
@[simp] theorem State.modSelf_reading (s : State) (f : Hart → Hart) : (s.modSelf f).reading = s.reading := rfl
@[simp] theorem State.modSelf_keys (s : State) (f : Hart → Hart) : (s.modSelf f).keys = s.keys := rfl
@[simp] theorem State.modSelf_lineKeys (s : State) (f : Hart → Hart) : (s.modSelf f).lineKeys = s.lineKeys := rfl
@[simp] theorem State.modSelf_tlb (s : State) (f : Hart → Hart) : (s.modSelf f).tlb = s.tlb := rfl
@[simp] theorem State.modSelf_clusters (s : State) (f : Hart → Hart) : (s.modSelf f).clusters = s.clusters := rfl
@[simp] theorem State.modSelf_cores (s : State) (f : Hart → Hart) : (s.modSelf f).cores = s.cores := rfl
@[simp] theorem State.modSelf_twins (s : State) (f : Hart → Hart) : (s.modSelf f).twins = s.twins := rfl
@[simp] theorem State.modSelf_pairs (s : State) (f : Hart → Hart) : (s.modSelf f).pairs = s.pairs := rfl
@[simp] theorem State.modSelf_launches (s : State) (f : Hart → Hart) : (s.modSelf f).launches = s.launches := rfl
@[simp] theorem State.modSelf_nextLaunch (s : State) (f : Hart → Hart) : (s.modSelf f).nextLaunch = s.nextLaunch := rfl
@[simp] theorem State.modSelf_contexts (s : State) (f : Hart → Hart) : (s.modSelf f).contexts = s.contexts := rfl
@[simp] theorem State.modSelf_poolTable (s : State) (f : Hart → Hart) : (s.modSelf f).poolTable = s.poolTable := rfl
@[simp] theorem State.modSelf_ctxStates (s : State) (f : Hart → Hart) : (s.modSelf f).ctxStates = s.ctxStates := rfl
@[simp] theorem State.modSelf_queues (s : State) (f : Hart → Hart) : (s.modSelf f).queues = s.queues := rfl
@[simp] theorem State.modSelf_spareQueues (s : State) (f : Hart → Hart) : (s.modSelf f).spareQueues = s.spareQueues := rfl
@[simp] theorem State.modSelf_appends (s : State) (f : Hart → Hart) : (s.modSelf f).appends = s.appends := rfl
@[simp] theorem State.modSelf_partitions (s : State) (f : Hart → Hart) : (s.modSelf f).partitions = s.partitions := rfl
@[simp] theorem State.modSelf_colls (s : State) (f : Hart → Hart) : (s.modSelf f).colls = s.colls := rfl
@[simp] theorem State.modSelf_page (s : State) (f : Hart → Hart) : (s.modSelf f).page = s.page := rfl
@[simp] theorem State.modSelf_snapshot (s : State) (f : Hart → Hart) : (s.modSelf f).snapshot = s.snapshot := rfl
@[simp] theorem State.modSelf_lastPtm (s : State) (f : Hart → Hart) : (s.modSelf f).lastPtm = s.lastPtm := rfl
@[simp] theorem State.modSelf_ports (s : State) (f : Hart → Hart) : (s.modSelf f).ports = s.ports := rfl
@[simp] theorem State.modSelf_linkIde (s : State) (f : Hart → Hart) : (s.modSelf f).linkIde = s.linkIde := rfl
@[simp] theorem State.modSelf_selectiveIde (s : State) (f : Hart → Hart) : (s.modSelf f).selectiveIde = s.selectiveIde := rfl
@[simp] theorem State.modSelf_frozenFns (s : State) (f : Hart → Hart) : (s.modSelf f).frozenFns = s.frozenFns := rfl
@[simp] theorem State.modSelf_downLinks (s : State) (f : Hart → Hart) : (s.modSelf f).downLinks = s.downLinks := rfl
@[simp] theorem State.modSelf_thermal (s : State) (f : Hart → Hart) : (s.modSelf f).thermal = s.thermal := rfl
@[simp] theorem State.modSelf_powerCapped (s : State) (f : Hart → Hart) : (s.modSelf f).powerCapped = s.powerCapped := rfl
@[simp] theorem State.modSelf_emergencySave (s : State) (f : Hart → Hart) : (s.modSelf f).emergencySave = s.emergencySave := rfl
@[simp] theorem State.modSelf_measurements (s : State) (f : Hart → Hart) : (s.modSelf f).measurements = s.measurements := rfl
@[simp] theorem State.modSelf_spdm (s : State) (f : Hart → Hart) : (s.modSelf f).spdm = s.spdm := rfl
@[simp] theorem State.modSelf_hostAnswer (s : State) (f : Hart → Hart) : (s.modSelf f).hostAnswer = s.hostAnswer := rfl

@[simp] theorem State.modCsr_powered (s : State) (f : Csrs → Csrs) : (s.modCsr f).powered = s.powered := rfl
@[simp] theorem State.modCsr_now (s : State) (f : Csrs → Csrs) : (s.modCsr f).now = s.now := rfl
@[simp] theorem State.modCsr_devTime (s : State) (f : Csrs → Csrs) : (s.modCsr f).devTime = s.devTime := rfl
@[simp] theorem State.modCsr_phase (s : State) (f : Csrs → Csrs) : (s.modCsr f).phase = s.phase := rfl
@[simp] theorem State.modCsr_todo (s : State) (f : Csrs → Csrs) : (s.modCsr f).todo = s.todo := rfl
@[simp] theorem State.modCsr_cur (s : State) (f : Csrs → Csrs) : (s.modCsr f).cur = s.cur := rfl
@[simp] theorem State.modCsr_ir (s : State) (f : Csrs → Csrs) : (s.modCsr f).ir = s.ir := rfl
@[simp] theorem State.modCsr_inputs (s : State) (f : Csrs → Csrs) : (s.modCsr f).inputs = s.inputs := rfl
@[simp] theorem State.modCsr_choice (s : State) (f : Csrs → Csrs) : (s.modCsr f).choice = s.choice := rfl
@[simp] theorem State.modCsr_mem (s : State) (f : Csrs → Csrs) : (s.modCsr f).mem = s.mem := rfl
@[simp] theorem State.modCsr_rows (s : State) (f : Csrs → Csrs) : (s.modCsr f).rows = s.rows := rfl
@[simp] theorem State.modCsr_l1 (s : State) (f : Csrs → Csrs) : (s.modCsr f).l1 = s.l1 := rfl
@[simp] theorem State.modCsr_flight (s : State) (f : Csrs → Csrs) : (s.modCsr f).flight = s.flight := rfl
@[simp] theorem State.modCsr_poison (s : State) (f : Csrs → Csrs) : (s.modCsr f).poison = s.poison := rfl
@[simp] theorem State.modCsr_rowPoison (s : State) (f : Csrs → Csrs) : (s.modCsr f).rowPoison = s.rowPoison := rfl
@[simp] theorem State.modCsr_lineOwners (s : State) (f : Csrs → Csrs) : (s.modCsr f).lineOwners = s.lineOwners := rfl
@[simp] theorem State.modCsr_rowOwners (s : State) (f : Csrs → Csrs) : (s.modCsr f).rowOwners = s.rowOwners := rfl
@[simp] theorem State.modCsr_cache (s : State) (f : Csrs → Csrs) : (s.modCsr f).cache = s.cache := rfl
@[simp] theorem State.modCsr_incoming (s : State) (f : Csrs → Csrs) : (s.modCsr f).incoming = s.incoming := rfl
@[simp] theorem State.modCsr_reading (s : State) (f : Csrs → Csrs) : (s.modCsr f).reading = s.reading := rfl
@[simp] theorem State.modCsr_keys (s : State) (f : Csrs → Csrs) : (s.modCsr f).keys = s.keys := rfl
@[simp] theorem State.modCsr_lineKeys (s : State) (f : Csrs → Csrs) : (s.modCsr f).lineKeys = s.lineKeys := rfl
@[simp] theorem State.modCsr_tlb (s : State) (f : Csrs → Csrs) : (s.modCsr f).tlb = s.tlb := rfl
@[simp] theorem State.modCsr_clusters (s : State) (f : Csrs → Csrs) : (s.modCsr f).clusters = s.clusters := rfl
@[simp] theorem State.modCsr_cores (s : State) (f : Csrs → Csrs) : (s.modCsr f).cores = s.cores := rfl
@[simp] theorem State.modCsr_twins (s : State) (f : Csrs → Csrs) : (s.modCsr f).twins = s.twins := rfl
@[simp] theorem State.modCsr_pairs (s : State) (f : Csrs → Csrs) : (s.modCsr f).pairs = s.pairs := rfl
@[simp] theorem State.modCsr_launches (s : State) (f : Csrs → Csrs) : (s.modCsr f).launches = s.launches := rfl
@[simp] theorem State.modCsr_nextLaunch (s : State) (f : Csrs → Csrs) : (s.modCsr f).nextLaunch = s.nextLaunch := rfl
@[simp] theorem State.modCsr_contexts (s : State) (f : Csrs → Csrs) : (s.modCsr f).contexts = s.contexts := rfl
@[simp] theorem State.modCsr_poolTable (s : State) (f : Csrs → Csrs) : (s.modCsr f).poolTable = s.poolTable := rfl
@[simp] theorem State.modCsr_ctxStates (s : State) (f : Csrs → Csrs) : (s.modCsr f).ctxStates = s.ctxStates := rfl
@[simp] theorem State.modCsr_queues (s : State) (f : Csrs → Csrs) : (s.modCsr f).queues = s.queues := rfl
@[simp] theorem State.modCsr_spareQueues (s : State) (f : Csrs → Csrs) : (s.modCsr f).spareQueues = s.spareQueues := rfl
@[simp] theorem State.modCsr_appends (s : State) (f : Csrs → Csrs) : (s.modCsr f).appends = s.appends := rfl
@[simp] theorem State.modCsr_partitions (s : State) (f : Csrs → Csrs) : (s.modCsr f).partitions = s.partitions := rfl
@[simp] theorem State.modCsr_colls (s : State) (f : Csrs → Csrs) : (s.modCsr f).colls = s.colls := rfl
@[simp] theorem State.modCsr_page (s : State) (f : Csrs → Csrs) : (s.modCsr f).page = s.page := rfl
@[simp] theorem State.modCsr_snapshot (s : State) (f : Csrs → Csrs) : (s.modCsr f).snapshot = s.snapshot := rfl
@[simp] theorem State.modCsr_lastPtm (s : State) (f : Csrs → Csrs) : (s.modCsr f).lastPtm = s.lastPtm := rfl
@[simp] theorem State.modCsr_ports (s : State) (f : Csrs → Csrs) : (s.modCsr f).ports = s.ports := rfl
@[simp] theorem State.modCsr_linkIde (s : State) (f : Csrs → Csrs) : (s.modCsr f).linkIde = s.linkIde := rfl
@[simp] theorem State.modCsr_selectiveIde (s : State) (f : Csrs → Csrs) : (s.modCsr f).selectiveIde = s.selectiveIde := rfl
@[simp] theorem State.modCsr_frozenFns (s : State) (f : Csrs → Csrs) : (s.modCsr f).frozenFns = s.frozenFns := rfl
@[simp] theorem State.modCsr_downLinks (s : State) (f : Csrs → Csrs) : (s.modCsr f).downLinks = s.downLinks := rfl
@[simp] theorem State.modCsr_thermal (s : State) (f : Csrs → Csrs) : (s.modCsr f).thermal = s.thermal := rfl
@[simp] theorem State.modCsr_powerCapped (s : State) (f : Csrs → Csrs) : (s.modCsr f).powerCapped = s.powerCapped := rfl
@[simp] theorem State.modCsr_emergencySave (s : State) (f : Csrs → Csrs) : (s.modCsr f).emergencySave = s.emergencySave := rfl
@[simp] theorem State.modCsr_measurements (s : State) (f : Csrs → Csrs) : (s.modCsr f).measurements = s.measurements := rfl
@[simp] theorem State.modCsr_spdm (s : State) (f : Csrs → Csrs) : (s.modCsr f).spdm = s.spdm := rfl
@[simp] theorem State.modCsr_hostAnswer (s : State) (f : Csrs → Csrs) : (s.modCsr f).hostAnswer = s.hostAnswer := rfl

@[simp] theorem State.setRow_powered (s : State) (k : ClusterKey) (e : Nat) (v : Row) : (s.setRow k e v).powered = s.powered := rfl
@[simp] theorem State.setRow_now (s : State) (k : ClusterKey) (e : Nat) (v : Row) : (s.setRow k e v).now = s.now := rfl
@[simp] theorem State.setRow_devTime (s : State) (k : ClusterKey) (e : Nat) (v : Row) : (s.setRow k e v).devTime = s.devTime := rfl
@[simp] theorem State.setRow_phase (s : State) (k : ClusterKey) (e : Nat) (v : Row) : (s.setRow k e v).phase = s.phase := rfl
@[simp] theorem State.setRow_todo (s : State) (k : ClusterKey) (e : Nat) (v : Row) : (s.setRow k e v).todo = s.todo := rfl
@[simp] theorem State.setRow_cur (s : State) (k : ClusterKey) (e : Nat) (v : Row) : (s.setRow k e v).cur = s.cur := rfl
@[simp] theorem State.setRow_ir (s : State) (k : ClusterKey) (e : Nat) (v : Row) : (s.setRow k e v).ir = s.ir := rfl
@[simp] theorem State.setRow_inputs (s : State) (k : ClusterKey) (e : Nat) (v : Row) : (s.setRow k e v).inputs = s.inputs := rfl
@[simp] theorem State.setRow_choice (s : State) (k : ClusterKey) (e : Nat) (v : Row) : (s.setRow k e v).choice = s.choice := rfl
@[simp] theorem State.setRow_mem (s : State) (k : ClusterKey) (e : Nat) (v : Row) : (s.setRow k e v).mem = s.mem := rfl
@[simp] theorem State.setRow_l1 (s : State) (k : ClusterKey) (e : Nat) (v : Row) : (s.setRow k e v).l1 = s.l1 := rfl
@[simp] theorem State.setRow_flight (s : State) (k : ClusterKey) (e : Nat) (v : Row) : (s.setRow k e v).flight = s.flight := rfl
@[simp] theorem State.setRow_poison (s : State) (k : ClusterKey) (e : Nat) (v : Row) : (s.setRow k e v).poison = s.poison := rfl
@[simp] theorem State.setRow_rowPoison (s : State) (k : ClusterKey) (e : Nat) (v : Row) : (s.setRow k e v).rowPoison = s.rowPoison := rfl
@[simp] theorem State.setRow_lineOwners (s : State) (k : ClusterKey) (e : Nat) (v : Row) : (s.setRow k e v).lineOwners = s.lineOwners := rfl
@[simp] theorem State.setRow_rowOwners (s : State) (k : ClusterKey) (e : Nat) (v : Row) : (s.setRow k e v).rowOwners = s.rowOwners := rfl
@[simp] theorem State.setRow_cache (s : State) (k : ClusterKey) (e : Nat) (v : Row) : (s.setRow k e v).cache = s.cache := rfl
@[simp] theorem State.setRow_incoming (s : State) (k : ClusterKey) (e : Nat) (v : Row) : (s.setRow k e v).incoming = s.incoming := rfl
@[simp] theorem State.setRow_reading (s : State) (k : ClusterKey) (e : Nat) (v : Row) : (s.setRow k e v).reading = s.reading := rfl
@[simp] theorem State.setRow_keys (s : State) (k : ClusterKey) (e : Nat) (v : Row) : (s.setRow k e v).keys = s.keys := rfl
@[simp] theorem State.setRow_lineKeys (s : State) (k : ClusterKey) (e : Nat) (v : Row) : (s.setRow k e v).lineKeys = s.lineKeys := rfl
@[simp] theorem State.setRow_tlb (s : State) (k : ClusterKey) (e : Nat) (v : Row) : (s.setRow k e v).tlb = s.tlb := rfl
@[simp] theorem State.setRow_harts (s : State) (k : ClusterKey) (e : Nat) (v : Row) : (s.setRow k e v).harts = s.harts := rfl
@[simp] theorem State.setRow_clusters (s : State) (k : ClusterKey) (e : Nat) (v : Row) : (s.setRow k e v).clusters = s.clusters := rfl
@[simp] theorem State.setRow_cores (s : State) (k : ClusterKey) (e : Nat) (v : Row) : (s.setRow k e v).cores = s.cores := rfl
@[simp] theorem State.setRow_twins (s : State) (k : ClusterKey) (e : Nat) (v : Row) : (s.setRow k e v).twins = s.twins := rfl
@[simp] theorem State.setRow_pairs (s : State) (k : ClusterKey) (e : Nat) (v : Row) : (s.setRow k e v).pairs = s.pairs := rfl
@[simp] theorem State.setRow_launches (s : State) (k : ClusterKey) (e : Nat) (v : Row) : (s.setRow k e v).launches = s.launches := rfl
@[simp] theorem State.setRow_nextLaunch (s : State) (k : ClusterKey) (e : Nat) (v : Row) : (s.setRow k e v).nextLaunch = s.nextLaunch := rfl
@[simp] theorem State.setRow_contexts (s : State) (k : ClusterKey) (e : Nat) (v : Row) : (s.setRow k e v).contexts = s.contexts := rfl
@[simp] theorem State.setRow_poolTable (s : State) (k : ClusterKey) (e : Nat) (v : Row) : (s.setRow k e v).poolTable = s.poolTable := rfl
@[simp] theorem State.setRow_ctxStates (s : State) (k : ClusterKey) (e : Nat) (v : Row) : (s.setRow k e v).ctxStates = s.ctxStates := rfl
@[simp] theorem State.setRow_queues (s : State) (k : ClusterKey) (e : Nat) (v : Row) : (s.setRow k e v).queues = s.queues := rfl
@[simp] theorem State.setRow_spareQueues (s : State) (k : ClusterKey) (e : Nat) (v : Row) : (s.setRow k e v).spareQueues = s.spareQueues := rfl
@[simp] theorem State.setRow_appends (s : State) (k : ClusterKey) (e : Nat) (v : Row) : (s.setRow k e v).appends = s.appends := rfl
@[simp] theorem State.setRow_partitions (s : State) (k : ClusterKey) (e : Nat) (v : Row) : (s.setRow k e v).partitions = s.partitions := rfl
@[simp] theorem State.setRow_colls (s : State) (k : ClusterKey) (e : Nat) (v : Row) : (s.setRow k e v).colls = s.colls := rfl
@[simp] theorem State.setRow_page (s : State) (k : ClusterKey) (e : Nat) (v : Row) : (s.setRow k e v).page = s.page := rfl
@[simp] theorem State.setRow_snapshot (s : State) (k : ClusterKey) (e : Nat) (v : Row) : (s.setRow k e v).snapshot = s.snapshot := rfl
@[simp] theorem State.setRow_lastPtm (s : State) (k : ClusterKey) (e : Nat) (v : Row) : (s.setRow k e v).lastPtm = s.lastPtm := rfl
@[simp] theorem State.setRow_ports (s : State) (k : ClusterKey) (e : Nat) (v : Row) : (s.setRow k e v).ports = s.ports := rfl
@[simp] theorem State.setRow_linkIde (s : State) (k : ClusterKey) (e : Nat) (v : Row) : (s.setRow k e v).linkIde = s.linkIde := rfl
@[simp] theorem State.setRow_selectiveIde (s : State) (k : ClusterKey) (e : Nat) (v : Row) : (s.setRow k e v).selectiveIde = s.selectiveIde := rfl
@[simp] theorem State.setRow_frozenFns (s : State) (k : ClusterKey) (e : Nat) (v : Row) : (s.setRow k e v).frozenFns = s.frozenFns := rfl
@[simp] theorem State.setRow_downLinks (s : State) (k : ClusterKey) (e : Nat) (v : Row) : (s.setRow k e v).downLinks = s.downLinks := rfl
@[simp] theorem State.setRow_thermal (s : State) (k : ClusterKey) (e : Nat) (v : Row) : (s.setRow k e v).thermal = s.thermal := rfl
@[simp] theorem State.setRow_powerCapped (s : State) (k : ClusterKey) (e : Nat) (v : Row) : (s.setRow k e v).powerCapped = s.powerCapped := rfl
@[simp] theorem State.setRow_emergencySave (s : State) (k : ClusterKey) (e : Nat) (v : Row) : (s.setRow k e v).emergencySave = s.emergencySave := rfl
@[simp] theorem State.setRow_measurements (s : State) (k : ClusterKey) (e : Nat) (v : Row) : (s.setRow k e v).measurements = s.measurements := rfl
@[simp] theorem State.setRow_spdm (s : State) (k : ClusterKey) (e : Nat) (v : Row) : (s.setRow k e v).spdm = s.spdm := rfl
@[simp] theorem State.setRow_hostAnswer (s : State) (k : ClusterKey) (e : Nat) (v : Row) : (s.setRow k e v).hostAnswer = s.hostAnswer := rfl

@[simp] theorem State.modLaunch_powered (s : State) (l : Nat) (f : Launch → Launch) : (s.modLaunch l f).powered = s.powered := rfl
@[simp] theorem State.modLaunch_now (s : State) (l : Nat) (f : Launch → Launch) : (s.modLaunch l f).now = s.now := rfl
@[simp] theorem State.modLaunch_devTime (s : State) (l : Nat) (f : Launch → Launch) : (s.modLaunch l f).devTime = s.devTime := rfl
@[simp] theorem State.modLaunch_phase (s : State) (l : Nat) (f : Launch → Launch) : (s.modLaunch l f).phase = s.phase := rfl
@[simp] theorem State.modLaunch_todo (s : State) (l : Nat) (f : Launch → Launch) : (s.modLaunch l f).todo = s.todo := rfl
@[simp] theorem State.modLaunch_cur (s : State) (l : Nat) (f : Launch → Launch) : (s.modLaunch l f).cur = s.cur := rfl
@[simp] theorem State.modLaunch_ir (s : State) (l : Nat) (f : Launch → Launch) : (s.modLaunch l f).ir = s.ir := rfl
@[simp] theorem State.modLaunch_inputs (s : State) (l : Nat) (f : Launch → Launch) : (s.modLaunch l f).inputs = s.inputs := rfl
@[simp] theorem State.modLaunch_choice (s : State) (l : Nat) (f : Launch → Launch) : (s.modLaunch l f).choice = s.choice := rfl
@[simp] theorem State.modLaunch_mem (s : State) (l : Nat) (f : Launch → Launch) : (s.modLaunch l f).mem = s.mem := rfl
@[simp] theorem State.modLaunch_rows (s : State) (l : Nat) (f : Launch → Launch) : (s.modLaunch l f).rows = s.rows := rfl
@[simp] theorem State.modLaunch_l1 (s : State) (l : Nat) (f : Launch → Launch) : (s.modLaunch l f).l1 = s.l1 := rfl
@[simp] theorem State.modLaunch_flight (s : State) (l : Nat) (f : Launch → Launch) : (s.modLaunch l f).flight = s.flight := rfl
@[simp] theorem State.modLaunch_poison (s : State) (l : Nat) (f : Launch → Launch) : (s.modLaunch l f).poison = s.poison := rfl
@[simp] theorem State.modLaunch_rowPoison (s : State) (l : Nat) (f : Launch → Launch) : (s.modLaunch l f).rowPoison = s.rowPoison := rfl
@[simp] theorem State.modLaunch_lineOwners (s : State) (l : Nat) (f : Launch → Launch) : (s.modLaunch l f).lineOwners = s.lineOwners := rfl
@[simp] theorem State.modLaunch_rowOwners (s : State) (l : Nat) (f : Launch → Launch) : (s.modLaunch l f).rowOwners = s.rowOwners := rfl
@[simp] theorem State.modLaunch_cache (s : State) (l : Nat) (f : Launch → Launch) : (s.modLaunch l f).cache = s.cache := rfl
@[simp] theorem State.modLaunch_incoming (s : State) (l : Nat) (f : Launch → Launch) : (s.modLaunch l f).incoming = s.incoming := rfl
@[simp] theorem State.modLaunch_reading (s : State) (l : Nat) (f : Launch → Launch) : (s.modLaunch l f).reading = s.reading := rfl
@[simp] theorem State.modLaunch_keys (s : State) (l : Nat) (f : Launch → Launch) : (s.modLaunch l f).keys = s.keys := rfl
@[simp] theorem State.modLaunch_lineKeys (s : State) (l : Nat) (f : Launch → Launch) : (s.modLaunch l f).lineKeys = s.lineKeys := rfl
@[simp] theorem State.modLaunch_tlb (s : State) (l : Nat) (f : Launch → Launch) : (s.modLaunch l f).tlb = s.tlb := rfl
@[simp] theorem State.modLaunch_harts (s : State) (l : Nat) (f : Launch → Launch) : (s.modLaunch l f).harts = s.harts := rfl
@[simp] theorem State.modLaunch_clusters (s : State) (l : Nat) (f : Launch → Launch) : (s.modLaunch l f).clusters = s.clusters := rfl
@[simp] theorem State.modLaunch_cores (s : State) (l : Nat) (f : Launch → Launch) : (s.modLaunch l f).cores = s.cores := rfl
@[simp] theorem State.modLaunch_twins (s : State) (l : Nat) (f : Launch → Launch) : (s.modLaunch l f).twins = s.twins := rfl
@[simp] theorem State.modLaunch_pairs (s : State) (l : Nat) (f : Launch → Launch) : (s.modLaunch l f).pairs = s.pairs := rfl
@[simp] theorem State.modLaunch_nextLaunch (s : State) (l : Nat) (f : Launch → Launch) : (s.modLaunch l f).nextLaunch = s.nextLaunch := rfl
@[simp] theorem State.modLaunch_contexts (s : State) (l : Nat) (f : Launch → Launch) : (s.modLaunch l f).contexts = s.contexts := rfl
@[simp] theorem State.modLaunch_poolTable (s : State) (l : Nat) (f : Launch → Launch) : (s.modLaunch l f).poolTable = s.poolTable := rfl
@[simp] theorem State.modLaunch_ctxStates (s : State) (l : Nat) (f : Launch → Launch) : (s.modLaunch l f).ctxStates = s.ctxStates := rfl
@[simp] theorem State.modLaunch_queues (s : State) (l : Nat) (f : Launch → Launch) : (s.modLaunch l f).queues = s.queues := rfl
@[simp] theorem State.modLaunch_spareQueues (s : State) (l : Nat) (f : Launch → Launch) : (s.modLaunch l f).spareQueues = s.spareQueues := rfl
@[simp] theorem State.modLaunch_appends (s : State) (l : Nat) (f : Launch → Launch) : (s.modLaunch l f).appends = s.appends := rfl
@[simp] theorem State.modLaunch_partitions (s : State) (l : Nat) (f : Launch → Launch) : (s.modLaunch l f).partitions = s.partitions := rfl
@[simp] theorem State.modLaunch_colls (s : State) (l : Nat) (f : Launch → Launch) : (s.modLaunch l f).colls = s.colls := rfl
@[simp] theorem State.modLaunch_page (s : State) (l : Nat) (f : Launch → Launch) : (s.modLaunch l f).page = s.page := rfl
@[simp] theorem State.modLaunch_snapshot (s : State) (l : Nat) (f : Launch → Launch) : (s.modLaunch l f).snapshot = s.snapshot := rfl
@[simp] theorem State.modLaunch_lastPtm (s : State) (l : Nat) (f : Launch → Launch) : (s.modLaunch l f).lastPtm = s.lastPtm := rfl
@[simp] theorem State.modLaunch_ports (s : State) (l : Nat) (f : Launch → Launch) : (s.modLaunch l f).ports = s.ports := rfl
@[simp] theorem State.modLaunch_linkIde (s : State) (l : Nat) (f : Launch → Launch) : (s.modLaunch l f).linkIde = s.linkIde := rfl
@[simp] theorem State.modLaunch_selectiveIde (s : State) (l : Nat) (f : Launch → Launch) : (s.modLaunch l f).selectiveIde = s.selectiveIde := rfl
@[simp] theorem State.modLaunch_frozenFns (s : State) (l : Nat) (f : Launch → Launch) : (s.modLaunch l f).frozenFns = s.frozenFns := rfl
@[simp] theorem State.modLaunch_downLinks (s : State) (l : Nat) (f : Launch → Launch) : (s.modLaunch l f).downLinks = s.downLinks := rfl
@[simp] theorem State.modLaunch_thermal (s : State) (l : Nat) (f : Launch → Launch) : (s.modLaunch l f).thermal = s.thermal := rfl
@[simp] theorem State.modLaunch_powerCapped (s : State) (l : Nat) (f : Launch → Launch) : (s.modLaunch l f).powerCapped = s.powerCapped := rfl
@[simp] theorem State.modLaunch_emergencySave (s : State) (l : Nat) (f : Launch → Launch) : (s.modLaunch l f).emergencySave = s.emergencySave := rfl
@[simp] theorem State.modLaunch_measurements (s : State) (l : Nat) (f : Launch → Launch) : (s.modLaunch l f).measurements = s.measurements := rfl
@[simp] theorem State.modLaunch_spdm (s : State) (l : Nat) (f : Launch → Launch) : (s.modLaunch l f).spdm = s.spdm := rfl
@[simp] theorem State.modLaunch_hostAnswer (s : State) (l : Nat) (f : Launch → Launch) : (s.modLaunch l f).hostAnswer = s.hostAnswer := rfl

/-! ## Parts -/

@[simp] theorem State.hart_setHart_same (s : State) (k : HartKey) (v : Hart) : (s.setHart k v).hart k = v := by
  simp [State.hart, State.setHart]
theorem State.hart_setHart_other (s : State) {k j : HartKey} (v : Hart) (h : j ≠ k) : (s.setHart k v).hart j = s.hart j := by
  simp [State.hart, State.setHart, FMap.get?_put_other _ _ h]
@[simp] theorem State.hart_modHart_same (s : State) (k : HartKey) (f : Hart → Hart) : (s.modHart k f).hart k = f (s.hart k) := by
  simp [State.modHart]
theorem State.hart_modHart_other (s : State) {k j : HartKey} (f : Hart → Hart) (h : j ≠ k) : (s.modHart k f).hart j = s.hart j := by
  simp [State.modHart, State.hart_setHart_other _ _ h]
@[simp] theorem State.cluster_setCluster_same (s : State) (k : ClusterKey) (v : Cluster) : (s.setCluster k v).cluster k = v := by
  simp [State.cluster, State.setCluster]
theorem State.cluster_setCluster_other (s : State) {k j : ClusterKey} (v : Cluster) (h : j ≠ k) : (s.setCluster k v).cluster j = s.cluster j := by
  simp [State.cluster, State.setCluster, FMap.get?_put_other _ _ h]
@[simp] theorem State.cluster_modCluster_same (s : State) (k : ClusterKey) (f : Cluster → Cluster) : (s.modCluster k f).cluster k = f (s.cluster k) := by
  simp [State.modCluster]
theorem State.cluster_modCluster_other (s : State) {k j : ClusterKey} (f : Cluster → Cluster) (h : j ≠ k) : (s.modCluster k f).cluster j = s.cluster j := by
  simp [State.modCluster, State.cluster_setCluster_other _ _ h]
@[simp] theorem State.core_setCore_same (s : State) (k : CoreId) (v : CoreState) : (s.setCore k v).core k = v := by
  simp [State.core, State.setCore]
theorem State.core_setCore_other (s : State) {k j : CoreId} (v : CoreState) (h : j ≠ k) : (s.setCore k v).core j = s.core j := by
  simp [State.core, State.setCore, FMap.get?_put_other _ _ h]
@[simp] theorem State.core_modCore_same (s : State) (k : CoreId) (f : CoreState → CoreState) : (s.modCore k f).core k = f (s.core k) := by
  simp [State.modCore]
theorem State.core_modCore_other (s : State) {k j : CoreId} (f : CoreState → CoreState) (h : j ≠ k) : (s.modCore k f).core j = s.core j := by
  simp [State.modCore, State.core_setCore_other _ _ h]
@[simp] theorem State.twin_modTwin_same (s : State) (k : PairKey) (f : Twin → Twin) : (s.modTwin k f).twin k = f (s.twin k) := by
  simp [State.twin, State.modTwin]
theorem State.twin_modTwin_other (s : State) {k j : PairKey} (f : Twin → Twin) (h : j ≠ k) : (s.modTwin k f).twin j = s.twin j := by
  simp [State.twin, State.modTwin, FMap.get?_put_other _ _ h]
@[simp] theorem State.pair_modPair_same (s : State) (k : Nat) (f : DiePair → DiePair) : (s.modPair k f).pair k = f (s.pair k) := by
  simp [State.pair, State.modPair]
theorem State.pair_modPair_other (s : State) {k j : Nat} (f : DiePair → DiePair) (h : j ≠ k) : (s.modPair k f).pair j = s.pair j := by
  simp [State.pair, State.modPair, FMap.get?_put_other _ _ h]
@[simp] theorem State.partition_modPartition_same (s : State) (k : Nat) (f : Partition → Partition) : (s.modPartition k f).partition k = f (s.partition k) := by
  simp [State.partition, State.modPartition]
theorem State.partition_modPartition_other (s : State) {k j : Nat} (f : Partition → Partition) (h : j ≠ k) : (s.modPartition k f).partition j = s.partition j := by
  simp [State.partition, State.modPartition, FMap.get?_put_other _ _ h]
@[simp] theorem State.ctxState_modCtx_same (s : State) (k : Nat) (f : CtxState → CtxState) : (s.modCtx k f).ctxState k = f (s.ctxState k) := by
  simp [State.ctxState, State.modCtx]
theorem State.ctxState_modCtx_other (s : State) {k j : Nat} (f : CtxState → CtxState) (h : j ≠ k) : (s.modCtx k f).ctxState j = s.ctxState j := by
  simp [State.ctxState, State.modCtx, FMap.get?_put_other _ _ h]
@[simp] theorem State.hart_setCluster (s : State) (k : ClusterKey) (v : Cluster) (j : HartKey) : (s.setCluster k v).hart j = s.hart j := rfl
@[simp] theorem State.hart_modCluster (s : State) (k : ClusterKey) (f : Cluster → Cluster) (j : HartKey) : (s.modCluster k f).hart j = s.hart j := rfl
@[simp] theorem State.hart_setCore (s : State) (c : CoreId) (v : CoreState) (j : HartKey) : (s.setCore c v).hart j = s.hart j := rfl
@[simp] theorem State.hart_modCore (s : State) (c : CoreId) (f : CoreState → CoreState) (j : HartKey) : (s.modCore c f).hart j = s.hart j := rfl
@[simp] theorem State.hart_modSteward (s : State) (c : CoreId) (f : Steward → Steward) (j : HartKey) : (s.modSteward c f).hart j = s.hart j := rfl
@[simp] theorem State.hart_modTwin (s : State) (t : PairKey) (f : Twin → Twin) (j : HartKey) : (s.modTwin t f).hart j = s.hart j := rfl
@[simp] theorem State.hart_modPair (s : State) (p : Nat) (f : DiePair → DiePair) (j : HartKey) : (s.modPair p f).hart j = s.hart j := rfl
@[simp] theorem State.hart_modPartition (s : State) (p : Nat) (f : Partition → Partition) (j : HartKey) : (s.modPartition p f).hart j = s.hart j := rfl
@[simp] theorem State.hart_modCtx (s : State) (c : Nat) (f : CtxState → CtxState) (j : HartKey) : (s.modCtx c f).hart j = s.hart j := rfl
@[simp] theorem State.hart_modLaunch (s : State) (l : Nat) (f : Launch → Launch) (j : HartKey) : (s.modLaunch l f).hart j = s.hart j := rfl
@[simp] theorem State.cluster_setHart (s : State) (h : HartKey) (v : Hart) (j : ClusterKey) : (s.setHart h v).cluster j = s.cluster j := rfl
@[simp] theorem State.cluster_modHart (s : State) (h : HartKey) (f : Hart → Hart) (j : ClusterKey) : (s.modHart h f).cluster j = s.cluster j := rfl
@[simp] theorem State.cluster_setCore (s : State) (c : CoreId) (v : CoreState) (j : ClusterKey) : (s.setCore c v).cluster j = s.cluster j := rfl
@[simp] theorem State.cluster_modCore (s : State) (c : CoreId) (f : CoreState → CoreState) (j : ClusterKey) : (s.modCore c f).cluster j = s.cluster j := rfl
@[simp] theorem State.cluster_modSteward (s : State) (c : CoreId) (f : Steward → Steward) (j : ClusterKey) : (s.modSteward c f).cluster j = s.cluster j := rfl
@[simp] theorem State.cluster_modTwin (s : State) (t : PairKey) (f : Twin → Twin) (j : ClusterKey) : (s.modTwin t f).cluster j = s.cluster j := rfl
@[simp] theorem State.cluster_modPair (s : State) (p : Nat) (f : DiePair → DiePair) (j : ClusterKey) : (s.modPair p f).cluster j = s.cluster j := rfl
@[simp] theorem State.cluster_modPartition (s : State) (p : Nat) (f : Partition → Partition) (j : ClusterKey) : (s.modPartition p f).cluster j = s.cluster j := rfl
@[simp] theorem State.cluster_modCtx (s : State) (c : Nat) (f : CtxState → CtxState) (j : ClusterKey) : (s.modCtx c f).cluster j = s.cluster j := rfl
@[simp] theorem State.cluster_modLaunch (s : State) (l : Nat) (f : Launch → Launch) (j : ClusterKey) : (s.modLaunch l f).cluster j = s.cluster j := rfl
@[simp] theorem State.core_setHart (s : State) (h : HartKey) (v : Hart) (j : CoreId) : (s.setHart h v).core j = s.core j := rfl
@[simp] theorem State.core_modHart (s : State) (h : HartKey) (f : Hart → Hart) (j : CoreId) : (s.modHart h f).core j = s.core j := rfl
@[simp] theorem State.core_setCluster (s : State) (k : ClusterKey) (v : Cluster) (j : CoreId) : (s.setCluster k v).core j = s.core j := rfl
@[simp] theorem State.core_modCluster (s : State) (k : ClusterKey) (f : Cluster → Cluster) (j : CoreId) : (s.modCluster k f).core j = s.core j := rfl
@[simp] theorem State.core_modTwin (s : State) (t : PairKey) (f : Twin → Twin) (j : CoreId) : (s.modTwin t f).core j = s.core j := rfl
@[simp] theorem State.core_modPair (s : State) (p : Nat) (f : DiePair → DiePair) (j : CoreId) : (s.modPair p f).core j = s.core j := rfl
@[simp] theorem State.core_modPartition (s : State) (p : Nat) (f : Partition → Partition) (j : CoreId) : (s.modPartition p f).core j = s.core j := rfl
@[simp] theorem State.core_modCtx (s : State) (c : Nat) (f : CtxState → CtxState) (j : CoreId) : (s.modCtx c f).core j = s.core j := rfl
@[simp] theorem State.core_modLaunch (s : State) (l : Nat) (f : Launch → Launch) (j : CoreId) : (s.modLaunch l f).core j = s.core j := rfl
@[simp] theorem State.twin_setHart (s : State) (h : HartKey) (v : Hart) (j : PairKey) : (s.setHart h v).twin j = s.twin j := rfl
@[simp] theorem State.twin_modHart (s : State) (h : HartKey) (f : Hart → Hart) (j : PairKey) : (s.modHart h f).twin j = s.twin j := rfl
@[simp] theorem State.twin_setCluster (s : State) (k : ClusterKey) (v : Cluster) (j : PairKey) : (s.setCluster k v).twin j = s.twin j := rfl
@[simp] theorem State.twin_modCluster (s : State) (k : ClusterKey) (f : Cluster → Cluster) (j : PairKey) : (s.modCluster k f).twin j = s.twin j := rfl
@[simp] theorem State.twin_setCore (s : State) (c : CoreId) (v : CoreState) (j : PairKey) : (s.setCore c v).twin j = s.twin j := rfl
@[simp] theorem State.twin_modCore (s : State) (c : CoreId) (f : CoreState → CoreState) (j : PairKey) : (s.modCore c f).twin j = s.twin j := rfl
@[simp] theorem State.twin_modSteward (s : State) (c : CoreId) (f : Steward → Steward) (j : PairKey) : (s.modSteward c f).twin j = s.twin j := rfl

@[simp] theorem State.core_modSteward_same (s : State) (c : CoreId) (f : Steward → Steward) :
    (s.modSteward c f).core c = { s.core c with steward := f (s.core c).steward } := by
  simp [State.modSteward]
theorem State.core_modSteward_other (s : State) {c d : CoreId} (f : Steward → Steward) (h : d ≠ c) :
    (s.modSteward c f).core d = s.core d := State.core_modCore_other _ _ h

/-! ## The running agent -/

theorem State.me_hart {s : State} {h : HartKey} (hc : s.cur = .hart h) : s.me = h := by simp [State.me, hc]
theorem State.self_hart {s : State} {h : HartKey} (hc : s.cur = .hart h) : s.self = s.hart h := by
  simp [State.self, State.me_hart hc]
theorem State.sc_hart {s : State} {h : HartKey} (hc : s.cur = .hart h) : s.sc = (s.hart h).sc := by simp [State.sc, hc]
theorem State.setSc_hart {s : State} {h : HartKey} (hc : s.cur = .hart h) (v : Scalar) :
    s.setSc v = s.modHart h fun t => { t with sc := v } := by simp [State.setSc, hc]
theorem State.modSelf_hart {s : State} {h : HartKey} (hc : s.cur = .hart h) (f : Hart → Hart) :
    s.modSelf f = s.modHart h f := by simp [State.modSelf, State.me_hart hc]
/-- The state of a hart's checks. -/
theorem State.due_hart {s : State} {h : HartKey} (hc : s.cur = .hart h) :
    s.due = s.modHart h fun t => { t with sc := t.sc.commit s.now } := by
  simp [State.due, State.modSc, State.setSc, State.sc, hc, State.modHart]

@[simp] theorem State.setSc_powered (s : State) (v : Scalar) : (s.setSc v).powered = s.powered := by
  unfold State.setSc; split <;> rfl
@[simp] theorem State.due_powered (s : State) : s.due.powered = s.powered := State.setSc_powered s _
@[simp] theorem State.setSc_now (s : State) (v : Scalar) : (s.setSc v).now = s.now := by
  unfold State.setSc; split <;> rfl
@[simp] theorem State.due_now (s : State) : s.due.now = s.now := State.setSc_now s _
@[simp] theorem State.setSc_devTime (s : State) (v : Scalar) : (s.setSc v).devTime = s.devTime := by
  unfold State.setSc; split <;> rfl
@[simp] theorem State.due_devTime (s : State) : s.due.devTime = s.devTime := State.setSc_devTime s _
@[simp] theorem State.setSc_phase (s : State) (v : Scalar) : (s.setSc v).phase = s.phase := by
  unfold State.setSc; split <;> rfl
@[simp] theorem State.due_phase (s : State) : s.due.phase = s.phase := State.setSc_phase s _
@[simp] theorem State.setSc_todo (s : State) (v : Scalar) : (s.setSc v).todo = s.todo := by
  unfold State.setSc; split <;> rfl
@[simp] theorem State.due_todo (s : State) : s.due.todo = s.todo := State.setSc_todo s _
@[simp] theorem State.setSc_ir (s : State) (v : Scalar) : (s.setSc v).ir = s.ir := by
  unfold State.setSc; split <;> rfl
@[simp] theorem State.due_ir (s : State) : s.due.ir = s.ir := State.setSc_ir s _
@[simp] theorem State.setSc_inputs (s : State) (v : Scalar) : (s.setSc v).inputs = s.inputs := by
  unfold State.setSc; split <;> rfl
@[simp] theorem State.due_inputs (s : State) : s.due.inputs = s.inputs := State.setSc_inputs s _
@[simp] theorem State.setSc_choice (s : State) (v : Scalar) : (s.setSc v).choice = s.choice := by
  unfold State.setSc; split <;> rfl
@[simp] theorem State.due_choice (s : State) : s.due.choice = s.choice := State.setSc_choice s _
@[simp] theorem State.setSc_mem (s : State) (v : Scalar) : (s.setSc v).mem = s.mem := by
  unfold State.setSc; split <;> rfl
@[simp] theorem State.due_mem (s : State) : s.due.mem = s.mem := State.setSc_mem s _
@[simp] theorem State.setSc_rows (s : State) (v : Scalar) : (s.setSc v).rows = s.rows := by
  unfold State.setSc; split <;> rfl
@[simp] theorem State.due_rows (s : State) : s.due.rows = s.rows := State.setSc_rows s _
@[simp] theorem State.setSc_l1 (s : State) (v : Scalar) : (s.setSc v).l1 = s.l1 := by
  unfold State.setSc; split <;> rfl
@[simp] theorem State.due_l1 (s : State) : s.due.l1 = s.l1 := State.setSc_l1 s _
@[simp] theorem State.setSc_flight (s : State) (v : Scalar) : (s.setSc v).flight = s.flight := by
  unfold State.setSc; split <;> rfl
@[simp] theorem State.due_flight (s : State) : s.due.flight = s.flight := State.setSc_flight s _
@[simp] theorem State.setSc_poison (s : State) (v : Scalar) : (s.setSc v).poison = s.poison := by
  unfold State.setSc; split <;> rfl
@[simp] theorem State.due_poison (s : State) : s.due.poison = s.poison := State.setSc_poison s _
@[simp] theorem State.setSc_rowPoison (s : State) (v : Scalar) : (s.setSc v).rowPoison = s.rowPoison := by
  unfold State.setSc; split <;> rfl
@[simp] theorem State.due_rowPoison (s : State) : s.due.rowPoison = s.rowPoison := State.setSc_rowPoison s _
@[simp] theorem State.setSc_lineOwners (s : State) (v : Scalar) : (s.setSc v).lineOwners = s.lineOwners := by
  unfold State.setSc; split <;> rfl
@[simp] theorem State.due_lineOwners (s : State) : s.due.lineOwners = s.lineOwners := State.setSc_lineOwners s _
@[simp] theorem State.setSc_rowOwners (s : State) (v : Scalar) : (s.setSc v).rowOwners = s.rowOwners := by
  unfold State.setSc; split <;> rfl
@[simp] theorem State.due_rowOwners (s : State) : s.due.rowOwners = s.rowOwners := State.setSc_rowOwners s _
@[simp] theorem State.setSc_cache (s : State) (v : Scalar) : (s.setSc v).cache = s.cache := by
  unfold State.setSc; split <;> rfl
@[simp] theorem State.due_cache (s : State) : s.due.cache = s.cache := State.setSc_cache s _
@[simp] theorem State.setSc_incoming (s : State) (v : Scalar) : (s.setSc v).incoming = s.incoming := by
  unfold State.setSc; split <;> rfl
@[simp] theorem State.due_incoming (s : State) : s.due.incoming = s.incoming := State.setSc_incoming s _
@[simp] theorem State.setSc_reading (s : State) (v : Scalar) : (s.setSc v).reading = s.reading := by
  unfold State.setSc; split <;> rfl
@[simp] theorem State.due_reading (s : State) : s.due.reading = s.reading := State.setSc_reading s _
@[simp] theorem State.setSc_keys (s : State) (v : Scalar) : (s.setSc v).keys = s.keys := by
  unfold State.setSc; split <;> rfl
@[simp] theorem State.due_keys (s : State) : s.due.keys = s.keys := State.setSc_keys s _
@[simp] theorem State.setSc_lineKeys (s : State) (v : Scalar) : (s.setSc v).lineKeys = s.lineKeys := by
  unfold State.setSc; split <;> rfl
@[simp] theorem State.due_lineKeys (s : State) : s.due.lineKeys = s.lineKeys := State.setSc_lineKeys s _
@[simp] theorem State.setSc_tlb (s : State) (v : Scalar) : (s.setSc v).tlb = s.tlb := by
  unfold State.setSc; split <;> rfl
@[simp] theorem State.due_tlb (s : State) : s.due.tlb = s.tlb := State.setSc_tlb s _
@[simp] theorem State.setSc_clusters (s : State) (v : Scalar) : (s.setSc v).clusters = s.clusters := by
  unfold State.setSc; split <;> rfl
@[simp] theorem State.due_clusters (s : State) : s.due.clusters = s.clusters := State.setSc_clusters s _
@[simp] theorem State.setSc_twins (s : State) (v : Scalar) : (s.setSc v).twins = s.twins := by
  unfold State.setSc; split <;> rfl
@[simp] theorem State.due_twins (s : State) : s.due.twins = s.twins := State.setSc_twins s _
@[simp] theorem State.setSc_pairs (s : State) (v : Scalar) : (s.setSc v).pairs = s.pairs := by
  unfold State.setSc; split <;> rfl
@[simp] theorem State.due_pairs (s : State) : s.due.pairs = s.pairs := State.setSc_pairs s _
@[simp] theorem State.setSc_launches (s : State) (v : Scalar) : (s.setSc v).launches = s.launches := by
  unfold State.setSc; split <;> rfl
@[simp] theorem State.due_launches (s : State) : s.due.launches = s.launches := State.setSc_launches s _
@[simp] theorem State.setSc_nextLaunch (s : State) (v : Scalar) : (s.setSc v).nextLaunch = s.nextLaunch := by
  unfold State.setSc; split <;> rfl
@[simp] theorem State.due_nextLaunch (s : State) : s.due.nextLaunch = s.nextLaunch := State.setSc_nextLaunch s _
@[simp] theorem State.setSc_contexts (s : State) (v : Scalar) : (s.setSc v).contexts = s.contexts := by
  unfold State.setSc; split <;> rfl
@[simp] theorem State.due_contexts (s : State) : s.due.contexts = s.contexts := State.setSc_contexts s _
@[simp] theorem State.setSc_poolTable (s : State) (v : Scalar) : (s.setSc v).poolTable = s.poolTable := by
  unfold State.setSc; split <;> rfl
@[simp] theorem State.due_poolTable (s : State) : s.due.poolTable = s.poolTable := State.setSc_poolTable s _
@[simp] theorem State.setSc_ctxStates (s : State) (v : Scalar) : (s.setSc v).ctxStates = s.ctxStates := by
  unfold State.setSc; split <;> rfl
@[simp] theorem State.due_ctxStates (s : State) : s.due.ctxStates = s.ctxStates := State.setSc_ctxStates s _
@[simp] theorem State.setSc_queues (s : State) (v : Scalar) : (s.setSc v).queues = s.queues := by
  unfold State.setSc; split <;> rfl
@[simp] theorem State.due_queues (s : State) : s.due.queues = s.queues := State.setSc_queues s _
@[simp] theorem State.setSc_spareQueues (s : State) (v : Scalar) : (s.setSc v).spareQueues = s.spareQueues := by
  unfold State.setSc; split <;> rfl
@[simp] theorem State.due_spareQueues (s : State) : s.due.spareQueues = s.spareQueues := State.setSc_spareQueues s _
@[simp] theorem State.setSc_appends (s : State) (v : Scalar) : (s.setSc v).appends = s.appends := by
  unfold State.setSc; split <;> rfl
@[simp] theorem State.due_appends (s : State) : s.due.appends = s.appends := State.setSc_appends s _
@[simp] theorem State.setSc_partitions (s : State) (v : Scalar) : (s.setSc v).partitions = s.partitions := by
  unfold State.setSc; split <;> rfl
@[simp] theorem State.due_partitions (s : State) : s.due.partitions = s.partitions := State.setSc_partitions s _
@[simp] theorem State.setSc_colls (s : State) (v : Scalar) : (s.setSc v).colls = s.colls := by
  unfold State.setSc; split <;> rfl
@[simp] theorem State.due_colls (s : State) : s.due.colls = s.colls := State.setSc_colls s _
@[simp] theorem State.setSc_page (s : State) (v : Scalar) : (s.setSc v).page = s.page := by
  unfold State.setSc; split <;> rfl
@[simp] theorem State.due_page (s : State) : s.due.page = s.page := State.setSc_page s _
@[simp] theorem State.setSc_snapshot (s : State) (v : Scalar) : (s.setSc v).snapshot = s.snapshot := by
  unfold State.setSc; split <;> rfl
@[simp] theorem State.due_snapshot (s : State) : s.due.snapshot = s.snapshot := State.setSc_snapshot s _
@[simp] theorem State.setSc_lastPtm (s : State) (v : Scalar) : (s.setSc v).lastPtm = s.lastPtm := by
  unfold State.setSc; split <;> rfl
@[simp] theorem State.due_lastPtm (s : State) : s.due.lastPtm = s.lastPtm := State.setSc_lastPtm s _
@[simp] theorem State.setSc_ports (s : State) (v : Scalar) : (s.setSc v).ports = s.ports := by
  unfold State.setSc; split <;> rfl
@[simp] theorem State.due_ports (s : State) : s.due.ports = s.ports := State.setSc_ports s _
@[simp] theorem State.setSc_linkIde (s : State) (v : Scalar) : (s.setSc v).linkIde = s.linkIde := by
  unfold State.setSc; split <;> rfl
@[simp] theorem State.due_linkIde (s : State) : s.due.linkIde = s.linkIde := State.setSc_linkIde s _
@[simp] theorem State.setSc_selectiveIde (s : State) (v : Scalar) : (s.setSc v).selectiveIde = s.selectiveIde := by
  unfold State.setSc; split <;> rfl
@[simp] theorem State.due_selectiveIde (s : State) : s.due.selectiveIde = s.selectiveIde := State.setSc_selectiveIde s _
@[simp] theorem State.setSc_frozenFns (s : State) (v : Scalar) : (s.setSc v).frozenFns = s.frozenFns := by
  unfold State.setSc; split <;> rfl
@[simp] theorem State.due_frozenFns (s : State) : s.due.frozenFns = s.frozenFns := State.setSc_frozenFns s _
@[simp] theorem State.setSc_downLinks (s : State) (v : Scalar) : (s.setSc v).downLinks = s.downLinks := by
  unfold State.setSc; split <;> rfl
@[simp] theorem State.due_downLinks (s : State) : s.due.downLinks = s.downLinks := State.setSc_downLinks s _
@[simp] theorem State.setSc_thermal (s : State) (v : Scalar) : (s.setSc v).thermal = s.thermal := by
  unfold State.setSc; split <;> rfl
@[simp] theorem State.due_thermal (s : State) : s.due.thermal = s.thermal := State.setSc_thermal s _
@[simp] theorem State.setSc_powerCapped (s : State) (v : Scalar) : (s.setSc v).powerCapped = s.powerCapped := by
  unfold State.setSc; split <;> rfl
@[simp] theorem State.due_powerCapped (s : State) : s.due.powerCapped = s.powerCapped := State.setSc_powerCapped s _
@[simp] theorem State.setSc_emergencySave (s : State) (v : Scalar) : (s.setSc v).emergencySave = s.emergencySave := by
  unfold State.setSc; split <;> rfl
@[simp] theorem State.due_emergencySave (s : State) : s.due.emergencySave = s.emergencySave := State.setSc_emergencySave s _
@[simp] theorem State.setSc_measurements (s : State) (v : Scalar) : (s.setSc v).measurements = s.measurements := by
  unfold State.setSc; split <;> rfl
@[simp] theorem State.due_measurements (s : State) : s.due.measurements = s.measurements := State.setSc_measurements s _
@[simp] theorem State.setSc_spdm (s : State) (v : Scalar) : (s.setSc v).spdm = s.spdm := by
  unfold State.setSc; split <;> rfl
@[simp] theorem State.due_spdm (s : State) : s.due.spdm = s.spdm := State.setSc_spdm s _
@[simp] theorem State.setSc_hostAnswer (s : State) (v : Scalar) : (s.setSc v).hostAnswer = s.hostAnswer := by
  unfold State.setSc; split <;> rfl
@[simp] theorem State.due_hostAnswer (s : State) : s.due.hostAnswer = s.hostAnswer := State.setSc_hostAnswer s _

@[simp] theorem State.due_cluster (s : State) (k : ClusterKey) : s.due.cluster k = s.cluster k := by
  simp [State.cluster]
theorem State.due_hart_same {s : State} {h : HartKey} (hc : s.cur = .hart h) :
    s.due.hart h = { s.hart h with sc := (s.hart h).sc.commit s.now } := by simp [State.due_hart hc]
theorem State.due_hart_other {s : State} {h g : HartKey} (hc : s.cur = .hart h) (hg : g ≠ h) : s.due.hart g = s.hart g := by
  simp [State.due_hart hc, State.hart_modHart_other _ _ hg]
theorem State.due_self {s : State} {h : HartKey} (hc : s.cur = .hart h) :
    s.due.self = { s.hart h with sc := (s.hart h).sc.commit s.now } := by
  rw [State.self_hart (by simpa using hc), State.due_hart_same hc]
theorem State.due_me {s : State} {h : HartKey} (hc : s.cur = .hart h) : s.due.me = h := State.me_hart (by simpa using hc)

end Sys2Proof.Machine
end

