-- ==== Sys2Proof/Laws/Memory.lean ====
section
/-! SUPPORT. Memory: what a byte reads as after a write, that every operation keeps the canonical form, and what a store or an
access leaves alone. -/

namespace Sys2Proof.Machine

/-! ## Bytes -/

theorem State.byte_setByte_same (s : State) (a : Nat) (b : Byte) : (s.setByte a b).byte a = b :=
  sparseGet_put_same resetByte s.mem a b

theorem State.byte_setByte_other (s : State) {a a' : Nat} (b : Byte) (h : a' ≠ a) : (s.setByte a b).byte a' = s.byte a' :=
  sparseGet_put_other resetByte s.mem b h

/-- A byte after a list of bytes is stored: the given byte where the list gives one, else the old byte. -/
theorem State.byte_setBytes (s : State) (loc : Nat) (bs : List (Option Byte)) (a : Nat) :
    (s.setBytes loc bs).byte a = if loc ≤ a then ((bs[a - loc]?).join).getD (s.byte a) else s.byte a := by
  induction bs generalizing s loc with
  | nil => simp [State.setBytes]
  | cons o bs ih =>
    cases o with
    | none =>
      simp only [State.setBytes, ih]
      by_cases h : loc < a
      · have : a - loc = (a - (loc + 1)) + 1 := by omega
        simp [show loc + 1 ≤ a by omega, show loc ≤ a by omega, this]
      · by_cases h' : a = loc
        · subst h'
          simp
        · simp [show ¬ loc + 1 ≤ a by omega, show ¬ loc ≤ a by omega]
    | some b =>
      simp only [State.setBytes, ih]
      by_cases h : loc < a
      · have : a - loc = (a - (loc + 1)) + 1 := by omega
        simp [show loc + 1 ≤ a by omega, show loc ≤ a by omega, this, State.byte_setByte_other s b (show a ≠ loc by omega)]
      · by_cases h' : a = loc
        · subst h'
          simp [State.byte_setByte_same]
        · simp [show ¬ loc + 1 ≤ a by omega, show ¬ loc ≤ a by omega, State.byte_setByte_other s b h']

/-- A byte outside the bytes stored reads as before. -/
theorem State.byte_setBytes_outside (s : State) {loc : Nat} {bs : List (Option Byte)} {a : Nat}
    (h : a < loc ∨ loc + bs.length ≤ a) : (s.setBytes loc bs).byte a = s.byte a := by
  rw [State.byte_setBytes]
  split
  · rw [List.getElem?_eq_none (by omega)]
    rfl
  · rfl

/-! ## Stores

A store changes the bytes, their keys, the caches, the writes on their way and the poison, and nothing else; it keeps the
canonical form. -/

/-- What a store may do. -/
def State.Stores (s t : State) : Prop :=
  (s.Canonical → t.Canonical) ∧
    ∃ m k l f p c, t = { s with mem := m, lineKeys := k, l1 := l, flight := f, poison := p, cache := c }

theorem State.Stores.refl (s : State) : s.Stores s := ⟨id, s.mem, s.lineKeys, s.l1, s.flight, s.poison, s.cache, rfl⟩

theorem State.Stores.trans {s t u : State} (h : s.Stores t) (h' : t.Stores u) : s.Stores u := by
  obtain ⟨c, m0, k0, l0, f0, p0, e0, rfl⟩ := h
  obtain ⟨c', m, k, l, f, p, e, rfl⟩ := h'
  exact ⟨c' ∘ c, m, k, l, f, p, e, rfl⟩

theorem State.Stores.foldl {α : Type} {f : State → α → State} (hf : ∀ (s : State) (a : α), s.Stores (f s a)) (l : List α) (s : State) :
    s.Stores (l.foldl f s) := by
  induction l generalizing s with
  | nil => exact .refl s
  | cons a l ih => exact (hf s a).trans (ih _)

/-- A part of the state that no store changes. -/
theorem State.Stores.part {s t : State} (h : s.Stores t) {α : Type} (f : State → α)
    (hf : ∀ m k l g p c, f { s with mem := m, lineKeys := k, l1 := l, flight := g, poison := p, cache := c } = f s) : f t = f s := by
  obtain ⟨-, m, k, l, g, p, c, rfl⟩ := h
  exact hf m k l g p c

section
variable {s t : State} (h : s.Stores t)
include h
theorem State.Stores.harts : t.harts = s.harts := h.part _ fun _ _ _ _ _ _ => rfl
theorem State.Stores.rows : t.rows = s.rows := h.part _ fun _ _ _ _ _ _ => rfl
theorem State.Stores.cores : t.cores = s.cores := h.part _ fun _ _ _ _ _ _ => rfl
theorem State.Stores.clusters : t.clusters = s.clusters := h.part _ fun _ _ _ _ _ _ => rfl
theorem State.Stores.twins : t.twins = s.twins := h.part _ fun _ _ _ _ _ _ => rfl
theorem State.Stores.launches : t.launches = s.launches := h.part _ fun _ _ _ _ _ _ => rfl
theorem State.Stores.contexts : t.contexts = s.contexts := h.part _ fun _ _ _ _ _ _ => rfl
theorem State.Stores.keys : t.keys = s.keys := h.part _ fun _ _ _ _ _ _ => rfl
theorem State.Stores.tlb : t.tlb = s.tlb := h.part _ fun _ _ _ _ _ _ => rfl
theorem State.Stores.choice : t.choice = s.choice := h.part _ fun _ _ _ _ _ _ => rfl
theorem State.Stores.now : t.now = s.now := h.part _ fun _ _ _ _ _ _ => rfl
theorem State.Stores.hart (n : HartKey) : t.hart n = s.hart n := h.part (fun u => u.hart n) fun _ _ _ _ _ _ => rfl
theorem State.Stores.core (n : CoreId) : t.core n = s.core n := h.part (fun u => u.core n) fun _ _ _ _ _ _ => rfl
theorem State.Stores.row (k : ClusterKey) (e : Nat) : t.row k e = s.row k e := h.part (fun u => u.row k e) fun _ _ _ _ _ _ => rfl
end

theorem State.setByte_stores (s : State) (a : Nat) (b : Byte) : s.Stores (s.setByte a b) :=
  ⟨fun h => sparseWf_put h a b, _, s.lineKeys, s.l1, s.flight, s.poison, s.cache, rfl⟩

theorem State.setBytes_stores (s : State) (loc : Nat) (bs : List (Option Byte)) : s.Stores (s.setBytes loc bs) := by
  induction bs generalizing s loc with
  | nil => exact .refl s
  | cons o bs ih =>
    cases o with
    | none => exact ih s (loc + 1)
    | some b => exact (s.setByte_stores loc b).trans (ih _ (loc + 1))

theorem State.setLineKeys_stores (s : State) (l : FMap (Option (BitVec 512))) : s.Stores { s with lineKeys := l } :=
  ⟨id, s.mem, l, s.l1, s.flight, s.poison, s.cache, rfl⟩

theorem State.rekey_stores (s : State) (key line : Nat) : s.Stores (s.rekey key line) := by
  simp only [State.rekey]
  split
  · exact s.setLineKeys_stores _
  · split
    · exact .refl s
    · exact (s.setLineKeys_stores _).trans (State.setBytes_stores _ _ _)

theorem State.homeSet_stores (s : State) (key loc : Nat) (bs : List (Option Byte)) : s.Stores (s.homeSet key loc bs) := by
  simp only [State.homeSet]
  refine .trans ?_ (State.setBytes_stores _ _ _)
  split
  · exact .foldl (fun s l => s.rekey_stores key l) _ s
  · exact .refl s

theorem State.setL1_stores (s : State) (l : FMap L1Word) : s.Stores { s with l1 := l } :=
  ⟨id, s.mem, s.lineKeys, l, s.flight, s.poison, s.cache, rfl⟩

theorem State.revoke_stores (s : State) (core : Option CoreId) (word : Nat) : s.Stores (s.revoke core word) :=
  ⟨id, s.mem, s.lineKeys, _, s.flight, s.poison, s.cache, rfl⟩

theorem State.dropWord_stores (s : State) (core word : Nat) : s.Stores (s.dropWord core word) :=
  ⟨id, s.mem, s.lineKeys, _, s.flight, s.poison, s.cache, rfl⟩

theorem State.arrive_stores (s : State) (f : FlightWrite) : s.Stores (s.arrive f) :=
  (s.homeSet_stores _ _ _).trans (State.revoke_stores _ _ _)

theorem State.settleWhen_stores (s : State) (p : FlightWrite → Bool) : s.Stores (s.settleWhen p) :=
  State.Stores.trans (t := { s with flight := (arriving (fun f => p f && !s.lineBusy (8 * f.word) 8 none) s.flight).2 })
    ⟨id, s.mem, s.lineKeys, s.l1, _, s.poison, s.cache, rfl⟩ (.foldl State.arrive_stores _ _)

theorem State.settle_stores (s : State) (loc n : Nat) : s.Stores (s.settle loc n) := s.settleWhen_stores _

theorem State.touch_stores (s : State) (loc n : Nat) : s.Stores (s.touch loc n) :=
  ⟨id, s.mem, s.lineKeys, s.l1, s.flight, s.poison, _, rfl⟩

theorem State.homeRead_stores (s : State) (key loc n : Nat) : s.Stores (s.homeRead key loc n).2 :=
  (s.settle_stores loc n).trans (State.touch_stores _ _ _)

theorem State.homeStore_stores (s : State) (key loc : Nat) (bs : List (Option Byte)) : s.Stores (s.homeStore key loc bs) := by
  have h : s.Stores ((linesOf 8 loc bs.length).foldl (fun s w => s.revoke none w)
      (((s.settle loc bs.length).touch loc bs.length).homeSet key loc bs)) :=
    (((s.settle_stores _ _).trans (State.touch_stores _ _ _)).trans (State.homeSet_stores _ _ _ _)).trans
      (.foldl (fun s w => s.revoke_stores none w) _ _)
  exact h.trans ⟨id, _, _, _, _, _, _, rfl⟩

/-- A write to W-space or C-space. -/
theorem State.typedStore_stores (s : State) (loc : Nat) (bs : List (Option Byte)) : s.Stores (s.typedStore loc bs) := by
  simp only [State.typedStore]
  split
  · exact s.setBytes_stores _ _
  · exact (s.setBytes_stores loc bs).trans ⟨id, _, _, _, _, _, _, rfl⟩

/-! ## Accesses

An access may also write a row, fill a TLB, count a mismatch for the steward, make a free choice, and note a posted write of a hart. -/

/-- What an access may do. -/
def State.Accesses (s t : State) : Prop :=
  (s.Canonical → t.Canonical) ∧
    ∃ m k l f p e r q h c b n, t = { s with
      mem := m, lineKeys := k, l1 := l, flight := f, poison := p, cache := e, rows := r, rowPoison := q, harts := h, cores := c, tlb := b, choice := n }

theorem State.Stores.accesses {s t : State} (h : s.Stores t) : s.Accesses t := by
  obtain ⟨c, m, k, l, f, p, e, rfl⟩ := h
  exact ⟨c, m, k, l, f, p, e, _, _, _, _, _, _, rfl⟩

theorem State.Accesses.refl (s : State) : s.Accesses s := (State.Stores.refl s).accesses

theorem State.Accesses.trans {s t u : State} (h : s.Accesses t) (h' : t.Accesses u) : s.Accesses u := by
  obtain ⟨c, m0, k0, l0, f0, p0, e0, r0, q0, h0, d0, b0, n0, rfl⟩ := h
  obtain ⟨c', m, k, l, f, p, e, r, q, h, d, b, n, rfl⟩ := h'
  exact ⟨c' ∘ c, m, k, l, f, p, e, r, q, h, d, b, n, rfl⟩

theorem State.Accesses.foldl {α : Type} {f : State → α → State} (hf : ∀ (s : State) (a : α), s.Accesses (f s a)) (l : List α) (s : State) :
    s.Accesses (l.foldl f s) := by
  induction l generalizing s with
  | nil => exact .refl s
  | cons a l ih => exact (hf s a).trans (ih _)

/-- A part of the state that no access changes. -/
theorem State.Accesses.part {s t : State} (h : s.Accesses t) {α : Type} (f : State → α)
    (hf : ∀ m k l g p e r q h c b n, f { s with
      mem := m, lineKeys := k, l1 := l, flight := g, poison := p, cache := e, rows := r, rowPoison := q, harts := h, cores := c, tlb := b
      choice := n } = f s) :
    f t = f s := by
  obtain ⟨-, m, k, l, g, p, e, r, q, h, d, b, n, rfl⟩ := h
  exact hf m k l g p e r q h d b n

section
variable {s t : State} (h : s.Accesses t)
include h
theorem State.Accesses.clusters : t.clusters = s.clusters := h.part _ fun _ _ _ _ _ _ _ _ _ _ _ _ => rfl
theorem State.Accesses.twins : t.twins = s.twins := h.part _ fun _ _ _ _ _ _ _ _ _ _ _ _ => rfl
theorem State.Accesses.launches : t.launches = s.launches := h.part _ fun _ _ _ _ _ _ _ _ _ _ _ _ => rfl
theorem State.Accesses.contexts : t.contexts = s.contexts := h.part _ fun _ _ _ _ _ _ _ _ _ _ _ _ => rfl
theorem State.Accesses.keys : t.keys = s.keys := h.part _ fun _ _ _ _ _ _ _ _ _ _ _ _ => rfl
theorem State.Accesses.now : t.now = s.now := h.part _ fun _ _ _ _ _ _ _ _ _ _ _ _ => rfl
theorem State.Accesses.cur : t.cur = s.cur := h.part _ fun _ _ _ _ _ _ _ _ _ _ _ _ => rfl
theorem State.Accesses.ir : t.ir = s.ir := h.part _ fun _ _ _ _ _ _ _ _ _ _ _ _ => rfl
end

theorem State.choose_accesses (s : State) (n : Nat) : s.Accesses (s.choose n).2 := by
  simp only [State.choose]
  split
  · exact .refl s
  · exact ⟨id, _, _, _, _, _, _, _, _, _, _, _, _, rfl⟩

theorem State.setTlb_accesses (s : State) (l : List TlbEntry) : s.Accesses { s with tlb := l } :=
  ⟨id, _, _, _, _, _, _, _, _, _, _, _, _, rfl⟩

theorem State.modHart_accesses (s : State) (h : HartKey) (f : Hart → Hart) : s.Accesses (s.modHart h f) :=
  ⟨id, _, _, _, _, _, _, _, _, _, _, _, _, rfl⟩

theorem State.modSteward_accesses (s : State) (c : CoreId) (f : Steward → Steward) : s.Accesses (s.modSteward c f) :=
  ⟨id, _, _, _, _, _, _, _, _, _, _, _, _, rfl⟩

theorem State.l1Room_accesses (s : State) (core word : Nat) : s.Accesses (s.l1Room core word) := by
  simp only [State.l1Room]
  split
  · exact .refl s
  · split
    · exact .refl s
    · exact (s.choose_accesses _).trans (State.setL1_stores _ _).accesses

theorem State.fillWord_accesses (s : State) (core word key : Nat) : s.Accesses (s.fillWord core word key).2.2 := by
  simp only [State.fillWord]
  split
  · exact (s.homeRead_stores key (8 * word) 8).accesses
  · exact ((s.homeRead_stores key (8 * word) 8).trans (State.setL1_stores _ _)).accesses.trans (State.l1Room_accesses _ _ _)

theorem State.readWord_accesses (s : State) (core word key : Nat) (m : Byte) : s.Accesses (s.readWord core word key m).2.2 := by
  simp only [State.readWord]
  split
  · exact s.fillWord_accesses _ _ _
  · split
    · exact s.fillWord_accesses _ _ _
    · split
      · exact .refl s
      · split
        · exact .refl s
        · split
          · exact s.choose_accesses 2
          · exact (s.choose_accesses 2).trans (State.fillWord_accesses _ _ _ _)

theorem State.hartRead_accesses (s : State) (core key loc n : Nat) : s.Accesses (s.hartRead core key loc n).2.2 := by
  have h : ∀ (l : List Nat) (a : List Byte × Option Nat × State), a.2.2.Accesses
      (l.foldl (fun (a : List Byte × Option Nat × State) w =>
        let q := a.2.2.readWord core w key (wordMask w loc n)
        (a.1 ++ bytesOfBits q.1 8, if q.2.1 then a.2.1.or (some (8 * w - loc)) else a.2.1, q.2.2)) a).2.2 := by
    intro l
    induction l with
    | nil => exact fun a => .refl _
    | cons w l ih =>
      intro a
      rw [List.foldl_cons]
      have h := ih (let q := a.2.2.readWord core w key (wordMask w loc n)
        (a.1 ++ bytesOfBits q.1 8, if q.2.1 then a.2.1.or (some (8 * w - loc)) else a.2.1, q.2.2))
      exact (a.2.2.readWord_accesses core w key (wordMask w loc n)).trans h
  exact h _ ([], none, s)

/-- A write leaves through an L1, which makes room for it, and is noted at its hart. -/
theorem State.written_accesses (s : State) (fl : List FlightWrite) (l : FMap L1Word) (core word : Nat) (h : HartKey) (f : Hart → Hart) :
    s.Accesses ((({ s with flight := fl, l1 := l } : State).l1Room core word).modHart h f) :=
  State.Accesses.trans (t := { s with flight := fl, l1 := l }) ⟨id, _, _, _, _, _, _, _, _, _, _, _, _, rfl⟩
    ((State.l1Room_accesses _ _ _).trans (State.modHart_accesses _ _ _))

theorem State.hartWrite_accesses (s : State) (h : HartKey) (key loc : Nat) (va : Dword) (bs : List (Option Byte)) :
    s.Accesses (s.hartWrite h key loc va bs) := by
  refine .foldl (fun s w => ?_) _ s
  simp only
  split
  · exact .refl s
  · split
    · exact s.written_accesses _ _ _ _ _ _
    · exact ⟨id, _, _, _, _, _, _, _, _, _, _, _, _, rfl⟩

theorem State.tableRead_stores (s : State) (core pa n : Nat) : s.Stores (s.tableRead core pa n).2 := by
  simp only [State.tableRead]
  split
  · exact .refl s
  · split
    · exact .refl s
    · split
      · exact .refl s
      · split
        · exact .refl s
        · split <;> exact s.homeRead_stores 0 _ n

theorem State.tableRead_stores_of {s t : State} {core pa n : Nat} {r : Except Nat Nat} (h : s.tableRead core pa n = (r, t)) :
    s.Stores t := by
  have := s.tableRead_stores core pa n
  rwa [h] at this

theorem State.walk_accesses (s : State) (core ctx va : Nat) : s.Accesses (s.walk core ctx va).2 := by
  unfold State.walk
  split
  · exact .refl s
  · split
    · exact (State.tableRead_stores_of ‹_›).accesses
    · refine (State.tableRead_stores_of ‹_›).accesses.trans ?_
      split
      · exact .refl _
      · split
        · exact (State.tableRead_stores_of ‹_›).accesses
        · refine (State.tableRead_stores_of ‹_›).accesses.trans ?_
          split
          · exact .refl _
          · split
            · exact (State.tableRead_stores_of ‹_›).accesses
            · refine (State.tableRead_stores_of ‹_›).accesses.trans ?_
              split
              · exact .refl _
              · split
                · exact .refl _
                · split
                  · exact (State.tableRead_stores_of ‹_›).accesses
                  · refine (State.tableRead_stores_of ‹_›).accesses.trans ?_
                    simp only
                    split
                    · exact State.modSteward_accesses _ _ _
                    · exact .refl _

theorem State.enterTlb_accesses (s : State) (core unit ctx va : Nat) (e : TlbEntry) : s.Accesses (s.enterTlb core unit ctx va e) := by
  simp only [State.enterTlb]
  split
  · exact s.setTlb_accesses _
  · split
    · exact s.setTlb_accesses _
    · exact (s.choose_accesses _).trans (State.setTlb_accesses _ _)

theorem State.fillTlbs_accesses (s : State) (core unit ctx va : Nat) (e : TlbEntry) : s.Accesses (s.fillTlbs core unit ctx va e) := by
  simp only [State.fillTlbs]
  split
  · exact s.enterTlb_accesses _ _ _ _ _
  · exact (s.enterTlb_accesses _ _ _ _ _).trans (State.enterTlb_accesses _ _ _ _ _ _)

theorem State.translateAfresh_accesses (s : State) (core unit ctx va : Nat) (use : Access) :
    s.Accesses (s.translateAfresh core unit ctx va use).2 := by
  have hw := s.walk_accesses core ctx va
  simp only [State.translateAfresh]
  split
  · rename_i h
    rw [h] at hw
    exact hw
  · rename_i h
    rw [h] at hw
    refine hw.trans ?_
    split
    · exact .refl _
    · exact State.fillTlbs_accesses _ _ _ _ _ _

theorem State.translate_accesses (s : State) (core unit ctx : Nat) (va : Dword) (use : Access) :
    s.Accesses (s.translate core unit ctx va use).2 := by
  have keep : ∀ (t : State) (e : TlbEntry) (a : Nat), t.Accesses (if e.unit = unit then t else t.enterTlb core unit ctx a e) := by
    intro t e a
    split
    · exact .refl t
    · exact t.enterTlb_accesses _ _ _ _ _
  simp only [State.translate]
  split
  · exact .refl s
  · split
    · exact s.translateAfresh_accesses _ _ _ _ _
    · split
      · exact keep s _ _
      · split
        · exact (s.choose_accesses _).trans (keep _ _ _)
        · exact (s.choose_accesses _).trans (State.translateAfresh_accesses _ _ _ _ _ _)

theorem State.translateParts_accesses (s : State) (r : Reach) (use : Access) (lax : Bool) (ps : List (Dword × Nat)) :
    s.Accesses (s.translateParts r use lax ps).2 := by
  induction ps generalizing s with
  | nil => exact .refl s
  | cons p ps ih =>
    have ht := s.translate_accesses r.core r.unit r.ctx p.1 use
    have hr : s.Accesses ((s.translate r.core r.unit r.ctx p.1 use).2.translateParts r use lax ps).2 := ht.trans (ih _)
    rcases hq : s.translate r.core r.unit r.ctx p.1 use with ⟨q, t⟩
    rw [hq] at ht hr
    rcases hl : t.translateParts r use lax ps with ⟨l, u⟩
    simp only [hl] at ht hr
    cases q with
    | error m =>
      simp only [State.translateParts, hq, hl]
      split
      · cases l <;> exact hr
      · exact ht
    | ok v =>
      simp only [State.translateParts, hq, hl]
      cases l <;> exact hr

theorem State.readParts_accesses (s : State) (l1 : Bool) (core : CoreId) (ps : List (Option Target × Nat)) :
    s.Accesses (s.readParts l1 core ps).2 := by
  induction ps generalizing s with
  | nil => exact .refl s
  | cons p ps ih =>
    obtain ⟨o, n⟩ := p
    cases o with
    | none => exact ih s
    | some t =>
      simp only [State.readParts]
      refine State.Accesses.trans ?_ (ih _)
      split
      · exact .refl s
      · split
        · exact s.hartRead_accesses _ _ _ _
        · exact (s.homeRead_stores t.key t.loc n).accesses

theorem State.setRow_accesses (s : State) (k : ClusterKey) (e : Nat) (v : BitVec 512) : s.Accesses (s.setRow k e v) :=
  ⟨id, _, _, _, _, _, _, _, _, _, _, _, _, rfl⟩

theorem State.arrayWrite_accesses (s : State) (core off : Nat) (bs : List (Option Byte)) :
    s.Accesses (s.arrayWrite core off bs) := by
  induction bs generalizing s off with
  | nil => exact .refl s
  | cons o bs ih =>
    cases o with
    | none => exact ih s (off + 1)
    | some b => exact (State.setRow_accesses _ _ _ _).trans (ih _ (off + 1))

/-- A write to A-space. -/
theorem State.arrayStore_accesses (s : State) (core off : Nat) (bs : List (Option Byte)) :
    s.Accesses (s.arrayStore core off bs) := by
  simp only [State.arrayStore]
  split
  · exact s.arrayWrite_accesses _ _ _
  · exact (s.arrayWrite_accesses core off bs).trans ⟨id, _, _, _, _, _, _, _, _, _, _, _, _, rfl⟩

/-- A read by an agent. -/
theorem State.fetchBytes_accesses (s : State) (r : Reach) (l1 : Bool) (use : Access) (va : Dword) (n : Nat) :
    s.Accesses (s.fetchBytes r l1 use va n).2 := by
  have hp := s.translateParts_accesses r use false (pagesOf va n)
  simp only [State.fetchBytes]
  split
  · split
    · rename_i h
      rw [h] at hp
      exact hp
    · rename_i h
      rw [h] at hp
      exact hp.trans (State.readParts_accesses _ _ _ _)
  · split <;> exact .refl s

theorem State.writeParts_accesses (s : State) (h : Option HartKey) (va : Dword) (ps : List (Option Target × Nat)) (bs : List (Option Byte)) :
    s.Accesses (s.writeParts h va ps bs).2 := by
  induction ps generalizing s va bs with
  | nil => exact .refl s
  | cons p ps ih =>
    obtain ⟨o, n⟩ := p
    cases o with
    | none => exact ih s _ _
    | some t =>
      simp only [State.writeParts]
      split
      · exact ih s _ _
      · refine State.Accesses.trans ?_ (ih _ _ _)
        cases h with
        | none => exact (s.homeStore_stores _ _ _).accesses
        | some h => exact s.hartWrite_accesses _ _ _ _ _

/-- A write by an agent. -/
theorem State.storeBytes_accesses (s : State) (r : Reach) (h : Option HartKey) (use : Access) (va : Dword)
    (bs : List (Option Byte)) : s.Accesses (s.storeBytes r h use va bs).2 := by
  have hp := s.translateParts_accesses r use false (pagesOf va bs.length)
  simp only [State.storeBytes]
  split
  · split
    · rename_i h
      rw [h] at hp
      exact hp
    · rename_i h
      rw [h] at hp
      exact hp.trans (State.writeParts_accesses _ _ _ _ _)
  · split
    · exact s.arrayStore_accesses _ _ _
    · exact (s.typedStore_stores _ _).accesses

end Sys2Proof.Machine
end

