-- ==== Sys2Proof/Laws/Access.lean ====
section
/-! SUPPORT. What the shared operations of an access do, each said once: a choice, a window of the arrays, a release, an acquire. -/

namespace Sys2Proof.Machine

/-- A choice among n > 0 is one of them. -/
theorem State.choose_lt (s : State) {n : Nat} (h : 0 < n) : (s.choose n).1 < n := by
  simp only [State.choose]
  split
  · exact h
  · exact Nat.mod_lt _ h

/-- A choice changes the counter of choices alone. -/
theorem State.choose_same (s : State) (n : Nat) : { (s.choose n).2 with choice := s.choice } = s := by
  simp only [State.choose]
  split <;> rfl

/-- A window that is granted: the arrays are free, it takes them for its cycles, and it goes on with the user's window or begins one; a
window of the user that has just ended does not grow beyond 32 cycles (09 R203). -/
theorem State.window_some {s t : State} {k : ClusterKey} {user cycles : Nat} (h : s.window k user cycles = some t) :
    (s.cluster k).arraysFree ≤ s.now ∧ ∃ n, (n = cycles ∨ n ≤ 32) ∧
      t = s.modCluster k fun c => { c with arraysFree := s.now + cycles, window := some (user, n) } := by
  simp only [State.window] at h
  split at h
  · cases h
  · rename_i hf
    refine ⟨Nat.not_lt.1 hf, ?_⟩
    split at h
    · cases h
      exact ⟨cycles, .inl rfl, rfl⟩
    · split at h
      · rename_i hw
        cases h
        exact ⟨_, .inr hw.2.2, rfl⟩
      · split at h
        · cases h
        · cases h
          exact ⟨cycles, .inl rfl, rfl⟩

/-- Windows that are granted change the clusters alone. -/
theorem State.windowsFor_same {s t : State} {core user : Nat} {rows : List Nat} (h : s.windowsFor core user rows = some t) :
    { t with clusters := s.clusters } = s := by
  have step : ∀ (l : List Nat) (g : Nat → Nat) (u : State), { u with clusters := s.clusters } = s →
      l.foldl (fun (o : Option State) k => o.bind fun s => s.window k user (g k)) (some u) = some t → { t with clusters := s.clusters } = s := by
    intro l g
    induction l with
    | nil => intro u hu ht; cases ht; exact hu
    | cons k l ih =>
      intro u hu ht
      rw [List.foldl_cons, Option.bind_some] at ht
      cases hw : u.window k user (g k) with
      | none =>
        rw [hw, show l.foldl (fun (o : Option State) k => o.bind fun s => s.window k user (g k)) none = none by
          clear ih ht; induction l with
          | nil => rfl
          | cons _ _ ih => exact ih] at ht
        cases ht
      | some v =>
        rw [hw] at ht
        obtain ⟨-, n, -, rfl⟩ := State.window_some hw
        exact ih _ (by rw [← hu]; rfl) ht
  exact step _ _ s rfl h

/-- An acquire changes the L1s alone, and leaves of them what the other cores hold. -/
theorem State.acquire_same (s : State) (core : CoreId) (scope : Nat) :
    { s.acquire core scope with l1 := s.l1 } = s ∧
      ∀ e ∈ s.l1, e.1 / 2 ^ 64 ≠ core → e ∈ (s.acquire core scope).l1 := by
  simp only [State.acquire]
  split
  · exact ⟨rfl, fun e he _ => he⟩
  · exact ⟨rfl, fun e he hc => List.mem_filter.2 ⟨he, by rw [decide_eq_false hc]; rfl⟩⟩

/-- An acquire by a word of a hart is an ordering point of that hart. -/
theorem State.acquireBy_hart (s : State) (h : HartKey) (scope : Nat) :
    s.acquireBy (.hart h) scope = s.modHart h fun t => { t with orders := t.orders ++
      [{ streams := 511, loads := true, stores := false, release := none, acquire := some scope, ready := s.now, owner := t.serial }] } := rfl

/-- A release that is made: the hart's older accesses are performed, what its stores still had to do is done, and no answer to a posted
write is missing. -/
theorem State.release_ok {s t : State} {h : HartKey} {scope before : Nat} (hr : s.release h scope before = .ok () t) :
    s.Stores t ∧ (s.hart h).quiet s.now before = true ∧ (s.hart h).posted = [] ∧ (s.hart h).lost = none ∧
      (2 ≤ scope → (s.hart h).ackAt ≤ s.now ∧ ∀ f ∈ t.flight, f.hart ≠ h) := by
  simp only [State.release] at hr
  split at hr
  · cases hr
  · rename_i hq
    split at hr
    · cases hr
    · rename_i hf
      split at hr
      · cases hr
      · rename_i hl
        split at hr
        · rename_i hp
          cases hr
          simp only [Bool.or_eq_true, Bool.not_eq_true', Bool.and_eq_true, decide_eq_true_eq, not_or, not_and, Bool.not_eq_false] at hq
          refine ⟨State.settleWhen_stores _ _, hq.1, List.isEmpty_iff.1 hp, hl, fun hs => ⟨Nat.not_lt.1 (hq.2 hs), ?_⟩⟩
          intro f hm he
          exact hf (List.any_eq_true.2 ⟨f, hm, by simp [he, hs]⟩)
        · cases hr

end Sys2Proof.Machine
end

