-- ==== Sys2Proof/Laws/Canonical.lean ====
section
/-! SUPPORT. The canonical form of memory at reset and where the machine clears memory or loses it. -/

namespace Sys2Proof.Machine

/-- Memory lists nothing at reset. -/
theorem State.reset_canonical : State.reset.Canonical := rfl

/-- A range that is cleared reads zero in W-space and C-space, and no other byte changes. -/
theorem State.byte_clearRange (s : State) (loc n a : Nat) :
    (s.clearRange loc n).byte a = if loc ≤ a ∧ a < loc + n then resetByte a else s.byte a := by
  simp only [State.byte, sparseGet, State.clearRange]
  induction s.mem with
  | nil => simp [FMap.get?]
  | cons e m ih =>
    obtain ⟨j, b⟩ := e
    by_cases hj : loc ≤ j ∧ j < loc + n
    · rw [List.filter_cons_of_neg (by simpa using hj), ih]
      by_cases ha : loc ≤ a ∧ a < loc + n
      · simp [ha]
      · simp only [ha, if_false, FMap.get?]
        rw [if_neg (by rintro rfl; exact ha hj)]
    · rw [List.filter_cons_of_pos (by simp; omega)]
      by_cases ha : j = a
      · subst ha
        simp [FMap.get?, hj]
      · simpa [FMap.get?, ha] using ih

theorem State.clearRange_canonical {s : State} (h : s.Canonical) (loc n : Nat) : (s.clearRange loc n).Canonical :=
  sparseWf_filter h _

theorem State.clearRange_stores (s : State) (loc n : Nat) : s.Stores (s.clearRange loc n) :=
  ⟨fun h => State.clearRange_canonical h loc n, _, s.lineKeys, s.l1, s.flight, _, s.cache, rfl⟩

/-- Device reset keeps the bytes of HBM and of what lies outside. -/
theorem State.afterReset_canonical {s : State} (h : s.Canonical) : s.afterReset.Canonical := sparseWf_filter h _

theorem State.dark_canonical {s : State} (h : s.Canonical) : s.dark.Canonical := sparseWf_filter h _

/-- A word placed for the next step keeps the canonical form. -/
theorem State.placeWord_canonical {s : State} (h : s.Canonical) (w : Word) : (s.placeWord w).Canonical := by
  unfold State.placeWord
  exact (State.homeStore_stores _ _ _ _).1 ((State.homeStore_stores _ _ _ _).1 ((State.homeStore_stores _ _ _ _).1
    ((State.homeStore_stores _ _ _ _).1 h)))

end Sys2Proof.Machine
end

