-- ==== Sys2Proof/Laws/Dispatch.lean ====
section
/-! SUPPORT. Every instruction word runs in the frame of R79. -/

namespace Sys2Proof.Machine

/-- The meaning of an instruction word, one that has an encoding, is a body in the frame of R79. -/
theorem exec_word (i : Instr) (h : (encodeNat i).isSome = true) :
    ∃ f : State → Flow, ∀ s, exec i s = .next (runWord i f s) := by
  cases i
  all_goals first | exact Bool.noConfusion (show false = true from h) | exact ⟨_, fun s => rfl⟩

end Sys2Proof.Machine
end

