-- ==== Sys2Proof/Laws/PerInstr.lean ====
section
/-! SUPPORT. What holds of the syntax of each instruction, one lemma for each: an encoding fits a word and leaves the bits of the
stall count clear; an event has none. -/

section

set_option Elab.async false

/-- What the encoder gives for an instruction is a word of 32 bits whose stall count is 0 (03 R72, R77). -/
def Sys2Proof.Laws.Encoding.Statement (i : Sys2Proof.Instr) : Prop :=
  ∀ n, Sys2Proof.encodeNat i = some n → n % 8 = 0 ∧ n < 4294967296

namespace Sys2Proof.Laws.Encoding

theorem pfx (a0 : BitVec 3) (a1 : BitVec 1) (a2 : BitVec 1) (a3 : BitVec 5) : Statement (.pfx a0 a1 a2 a3) := by
  intro n h
  obtain rfl := Option.some.inj h
  omega
theorem add (a0 : BitVec 5) (a1 : BitVec 5) (a2 : BitVec 5) : Statement (.add a0 a1 a2) := by
  intro n h
  obtain rfl := Option.some.inj h
  omega
theorem sub (a0 : BitVec 5) (a1 : BitVec 5) (a2 : BitVec 5) : Statement (.sub a0 a1 a2) := by
  intro n h
  obtain rfl := Option.some.inj h
  omega
theorem and (a0 : BitVec 5) (a1 : BitVec 5) (a2 : BitVec 5) : Statement (.and a0 a1 a2) := by
  intro n h
  obtain rfl := Option.some.inj h
  omega
theorem or (a0 : BitVec 5) (a1 : BitVec 5) (a2 : BitVec 5) : Statement (.or a0 a1 a2) := by
  intro n h
  obtain rfl := Option.some.inj h
  omega
theorem xor (a0 : BitVec 5) (a1 : BitVec 5) (a2 : BitVec 5) : Statement (.xor a0 a1 a2) := by
  intro n h
  obtain rfl := Option.some.inj h
  omega
theorem andn (a0 : BitVec 5) (a1 : BitVec 5) (a2 : BitVec 5) : Statement (.andn a0 a1 a2) := by
  intro n h
  obtain rfl := Option.some.inj h
  omega
theorem sll (a0 : BitVec 5) (a1 : BitVec 5) (a2 : BitVec 5) : Statement (.sll a0 a1 a2) := by
  intro n h
  obtain rfl := Option.some.inj h
  omega
theorem srl (a0 : BitVec 5) (a1 : BitVec 5) (a2 : BitVec 5) : Statement (.srl a0 a1 a2) := by
  intro n h
  obtain rfl := Option.some.inj h
  omega
theorem sra (a0 : BitVec 5) (a1 : BitVec 5) (a2 : BitVec 5) : Statement (.sra a0 a1 a2) := by
  intro n h
  obtain rfl := Option.some.inj h
  omega
theorem slt (a0 : BitVec 5) (a1 : BitVec 5) (a2 : BitVec 5) : Statement (.slt a0 a1 a2) := by
  intro n h
  obtain rfl := Option.some.inj h
  omega
theorem sltu (a0 : BitVec 5) (a1 : BitVec 5) (a2 : BitVec 5) : Statement (.sltu a0 a1 a2) := by
  intro n h
  obtain rfl := Option.some.inj h
  omega
theorem min (a0 : BitVec 5) (a1 : BitVec 5) (a2 : BitVec 5) : Statement (.min a0 a1 a2) := by
  intro n h
  obtain rfl := Option.some.inj h
  omega
theorem max (a0 : BitVec 5) (a1 : BitVec 5) (a2 : BitVec 5) : Statement (.max a0 a1 a2) := by
  intro n h
  obtain rfl := Option.some.inj h
  omega
theorem minu (a0 : BitVec 5) (a1 : BitVec 5) (a2 : BitVec 5) : Statement (.minu a0 a1 a2) := by
  intro n h
  obtain rfl := Option.some.inj h
  omega
theorem maxu (a0 : BitVec 5) (a1 : BitVec 5) (a2 : BitVec 5) : Statement (.maxu a0 a1 a2) := by
  intro n h
  obtain rfl := Option.some.inj h
  omega
theorem csel (a0 : BitVec 5) (a1 : BitVec 5) (a2 : BitVec 5) : Statement (.csel a0 a1 a2) := by
  intro n h
  obtain rfl := Option.some.inj h
  omega
theorem mul (a0 : BitVec 5) (a1 : BitVec 5) (a2 : BitVec 5) : Statement (.mul a0 a1 a2) := by
  intro n h
  obtain rfl := Option.some.inj h
  omega
theorem mulh (a0 : BitVec 5) (a1 : BitVec 5) (a2 : BitVec 5) : Statement (.mulh a0 a1 a2) := by
  intro n h
  obtain rfl := Option.some.inj h
  omega
theorem mulhu (a0 : BitVec 5) (a1 : BitVec 5) (a2 : BitVec 5) : Statement (.mulhu a0 a1 a2) := by
  intro n h
  obtain rfl := Option.some.inj h
  omega
theorem div (a0 : BitVec 5) (a1 : BitVec 5) (a2 : BitVec 5) : Statement (.div a0 a1 a2) := by
  intro n h
  obtain rfl := Option.some.inj h
  omega
theorem divu (a0 : BitVec 5) (a1 : BitVec 5) (a2 : BitVec 5) : Statement (.divu a0 a1 a2) := by
  intro n h
  obtain rfl := Option.some.inj h
  omega
theorem rem (a0 : BitVec 5) (a1 : BitVec 5) (a2 : BitVec 5) : Statement (.rem a0 a1 a2) := by
  intro n h
  obtain rfl := Option.some.inj h
  omega
theorem remu (a0 : BitVec 5) (a1 : BitVec 5) (a2 : BitVec 5) : Statement (.remu a0 a1 a2) := by
  intro n h
  obtain rfl := Option.some.inj h
  omega
theorem clz (a0 : BitVec 5) (a1 : BitVec 5) : Statement (.clz a0 a1) := by
  intro n h
  obtain rfl := Option.some.inj h
  omega
theorem ctz (a0 : BitVec 5) (a1 : BitVec 5) : Statement (.ctz a0 a1) := by
  intro n h
  obtain rfl := Option.some.inj h
  omega
theorem popc (a0 : BitVec 5) (a1 : BitVec 5) : Statement (.popc a0 a1) := by
  intro n h
  obtain rfl := Option.some.inj h
  omega
theorem brev (a0 : BitVec 5) (a1 : BitVec 5) : Statement (.brev a0 a1) := by
  intro n h
  obtain rfl := Option.some.inj h
  omega
theorem addi (a0 : BitVec 5) (a1 : BitVec 5) (a2 : BitVec 13) : Statement (.addi a0 a1 a2) := by
  intro n h
  obtain rfl := Option.some.inj h
  omega
theorem andi (a0 : BitVec 5) (a1 : BitVec 5) (a2 : BitVec 13) : Statement (.andi a0 a1 a2) := by
  intro n h
  obtain rfl := Option.some.inj h
  omega
theorem ori (a0 : BitVec 5) (a1 : BitVec 5) (a2 : BitVec 13) : Statement (.ori a0 a1 a2) := by
  intro n h
  obtain rfl := Option.some.inj h
  omega
theorem xori (a0 : BitVec 5) (a1 : BitVec 5) (a2 : BitVec 13) : Statement (.xori a0 a1 a2) := by
  intro n h
  obtain rfl := Option.some.inj h
  omega
theorem slti (a0 : BitVec 5) (a1 : BitVec 5) (a2 : BitVec 13) : Statement (.slti a0 a1 a2) := by
  intro n h
  obtain rfl := Option.some.inj h
  omega
theorem sltiu (a0 : BitVec 5) (a1 : BitVec 5) (a2 : BitVec 13) : Statement (.sltiu a0 a1 a2) := by
  intro n h
  obtain rfl := Option.some.inj h
  omega
theorem slli (a0 : BitVec 5) (a1 : BitVec 5) (a2 : BitVec 6) : Statement (.slli a0 a1 a2) := by
  intro n h
  obtain rfl := Option.some.inj h
  omega
theorem srli (a0 : BitVec 5) (a1 : BitVec 5) (a2 : BitVec 6) : Statement (.srli a0 a1 a2) := by
  intro n h
  obtain rfl := Option.some.inj h
  omega
theorem srai (a0 : BitVec 5) (a1 : BitVec 5) (a2 : BitVec 6) : Statement (.srai a0 a1 a2) := by
  intro n h
  obtain rfl := Option.some.inj h
  omega
theorem lih (a0 : BitVec 5) (a1 : BitVec 18) : Statement (.lih a0 a1) := by
  intro n h
  obtain rfl := Option.some.inj h
  omega
theorem lish (a0 : BitVec 5) (a1 : BitVec 18) : Statement (.lish a0 a1) := by
  intro n h
  obtain rfl := Option.some.inj h
  omega
theorem beq (a0 : BitVec 5) (a1 : BitVec 5) (a2 : BitVec 13) : Statement (.beq a0 a1 a2) := by
  intro n h
  obtain rfl := Option.some.inj h
  omega
theorem bne (a0 : BitVec 5) (a1 : BitVec 5) (a2 : BitVec 13) : Statement (.bne a0 a1 a2) := by
  intro n h
  obtain rfl := Option.some.inj h
  omega
theorem blt (a0 : BitVec 5) (a1 : BitVec 5) (a2 : BitVec 13) : Statement (.blt a0 a1 a2) := by
  intro n h
  obtain rfl := Option.some.inj h
  omega
theorem bge (a0 : BitVec 5) (a1 : BitVec 5) (a2 : BitVec 13) : Statement (.bge a0 a1 a2) := by
  intro n h
  obtain rfl := Option.some.inj h
  omega
theorem bltu (a0 : BitVec 5) (a1 : BitVec 5) (a2 : BitVec 13) : Statement (.bltu a0 a1 a2) := by
  intro n h
  obtain rfl := Option.some.inj h
  omega
theorem bgeu (a0 : BitVec 5) (a1 : BitVec 5) (a2 : BitVec 13) : Statement (.bgeu a0 a1 a2) := by
  intro n h
  obtain rfl := Option.some.inj h
  omega
theorem jal (a0 : BitVec 5) (a1 : BitVec 18) : Statement (.jal a0 a1) := by
  intro n h
  obtain rfl := Option.some.inj h
  omega
theorem jalr (a0 : BitVec 5) (a1 : BitVec 5) (a2 : BitVec 13) : Statement (.jalr a0 a1 a2) := by
  intro n h
  obtain rfl := Option.some.inj h
  omega
theorem loop (a0 : BitVec 5) (a1 : BitVec 13) : Statement (.loop a0 a1) := by
  intro n h
  obtain rfl := Option.some.inj h
  omega
theorem loopi (a0 : BitVec 10) (a1 : BitVec 13) : Statement (.loopi a0 a1) := by
  intro n h
  obtain rfl := Option.some.inj h
  omega
theorem lidx (a0 : BitVec 5) (a1 : BitVec 5) : Statement (.lidx a0 a1) := by
  intro n h
  obtain rfl := Option.some.inj h
  omega
theorem lcnt (a0 : BitVec 5) (a1 : BitVec 5) : Statement (.lcnt a0 a1) := by
  intro n h
  obtain rfl := Option.some.inj h
  omega
theorem lb (a0 : BitVec 5) (a1 : BitVec 5) (a2 : BitVec 10) : Statement (.lb a0 a1 a2) := by
  intro n h
  obtain rfl := Option.some.inj h
  omega
theorem lbu (a0 : BitVec 5) (a1 : BitVec 5) (a2 : BitVec 10) : Statement (.lbu a0 a1 a2) := by
  intro n h
  obtain rfl := Option.some.inj h
  omega
theorem lh (a0 : BitVec 5) (a1 : BitVec 5) (a2 : BitVec 10) : Statement (.lh a0 a1 a2) := by
  intro n h
  obtain rfl := Option.some.inj h
  omega
theorem lhu (a0 : BitVec 5) (a1 : BitVec 5) (a2 : BitVec 10) : Statement (.lhu a0 a1 a2) := by
  intro n h
  obtain rfl := Option.some.inj h
  omega
theorem lw (a0 : BitVec 5) (a1 : BitVec 5) (a2 : BitVec 10) : Statement (.lw a0 a1 a2) := by
  intro n h
  obtain rfl := Option.some.inj h
  omega
theorem lwu (a0 : BitVec 5) (a1 : BitVec 5) (a2 : BitVec 10) : Statement (.lwu a0 a1 a2) := by
  intro n h
  obtain rfl := Option.some.inj h
  omega
theorem ld (a0 : BitVec 5) (a1 : BitVec 5) (a2 : BitVec 10) : Statement (.ld a0 a1 a2) := by
  intro n h
  obtain rfl := Option.some.inj h
  omega
theorem sb (a0 : BitVec 5) (a1 : BitVec 5) (a2 : BitVec 10) : Statement (.sb a0 a1 a2) := by
  intro n h
  obtain rfl := Option.some.inj h
  omega
theorem sh (a0 : BitVec 5) (a1 : BitVec 5) (a2 : BitVec 10) : Statement (.sh a0 a1 a2) := by
  intro n h
  obtain rfl := Option.some.inj h
  omega
theorem sw (a0 : BitVec 5) (a1 : BitVec 5) (a2 : BitVec 10) : Statement (.sw a0 a1 a2) := by
  intro n h
  obtain rfl := Option.some.inj h
  omega
theorem sd (a0 : BitVec 5) (a1 : BitVec 5) (a2 : BitVec 10) : Statement (.sd a0 a1 a2) := by
  intro n h
  obtain rfl := Option.some.inj h
  omega
theorem csrr (a0 : BitVec 5) (a1 : BitVec 11) : Statement (.csrr a0 a1) := by
  intro n h
  obtain rfl := Option.some.inj h
  omega
theorem csrw (a0 : BitVec 5) (a1 : BitVec 5) (a2 : BitVec 11) : Statement (.csrw a0 a1 a2) := by
  intro n h
  obtain rfl := Option.some.inj h
  omega
theorem csrs (a0 : BitVec 5) (a1 : BitVec 5) (a2 : BitVec 11) : Statement (.csrs a0 a1 a2) := by
  intro n h
  obtain rfl := Option.some.inj h
  omega
theorem csrc (a0 : BitVec 5) (a1 : BitVec 5) (a2 : BitVec 11) : Statement (.csrc a0 a1 a2) := by
  intro n h
  obtain rfl := Option.some.inj h
  omega
theorem vdef (a0 : BitVec 4) (a1 : BitVec 9) (a2 : BitVec 7) (a3 : BitVec 3) : Statement (.vdef a0 a1 a2 a3) := by
  intro n h
  obtain rfl := Option.some.inj h
  omega
theorem vundef (a0 : BitVec 4) : Statement (.vundef a0) := by
  intro n h
  obtain rfl := Option.some.inj h
  omega
theorem vadd (a0 : BitVec 4) (a1 : BitVec 4) (a2 : BitVec 4) (a3 : BitVec 5) (a4 : BitVec 1) :
    Statement (.vadd a0 a1 a2 a3 a4) := by
  intro n h
  obtain rfl := Option.some.inj h
  omega
theorem vsub (a0 : BitVec 4) (a1 : BitVec 4) (a2 : BitVec 4) (a3 : BitVec 5) (a4 : BitVec 1) :
    Statement (.vsub a0 a1 a2 a3 a4) := by
  intro n h
  obtain rfl := Option.some.inj h
  omega
theorem vmul (a0 : BitVec 4) (a1 : BitVec 4) (a2 : BitVec 4) (a3 : BitVec 5) (a4 : BitVec 1) :
    Statement (.vmul a0 a1 a2 a3 a4) := by
  intro n h
  obtain rfl := Option.some.inj h
  omega
theorem vmac (a0 : BitVec 4) (a1 : BitVec 4) (a2 : BitVec 4) (a3 : BitVec 5) (a4 : BitVec 1) :
    Statement (.vmac a0 a1 a2 a3 a4) := by
  intro n h
  obtain rfl := Option.some.inj h
  omega
theorem vdiv (a0 : BitVec 4) (a1 : BitVec 4) (a2 : BitVec 4) (a3 : BitVec 5) (a4 : BitVec 1) :
    Statement (.vdiv a0 a1 a2 a3 a4) := by
  intro n h
  obtain rfl := Option.some.inj h
  omega
theorem vrem (a0 : BitVec 4) (a1 : BitVec 4) (a2 : BitVec 4) (a3 : BitVec 5) (a4 : BitVec 1) :
    Statement (.vrem a0 a1 a2 a3 a4) := by
  intro n h
  obtain rfl := Option.some.inj h
  omega
theorem vmin (a0 : BitVec 4) (a1 : BitVec 4) (a2 : BitVec 4) (a3 : BitVec 5) (a4 : BitVec 1) :
    Statement (.vmin a0 a1 a2 a3 a4) := by
  intro n h
  obtain rfl := Option.some.inj h
  omega
theorem vmax (a0 : BitVec 4) (a1 : BitVec 4) (a2 : BitVec 4) (a3 : BitVec 5) (a4 : BitVec 1) :
    Statement (.vmax a0 a1 a2 a3 a4) := by
  intro n h
  obtain rfl := Option.some.inj h
  omega
theorem vabs (a0 : BitVec 4) (a1 : BitVec 4) (a2 : BitVec 5) (a3 : BitVec 1) : Statement (.vabs a0 a1 a2 a3) := by
  intro n h
  obtain rfl := Option.some.inj h
  omega
theorem vneg (a0 : BitVec 4) (a1 : BitVec 4) (a2 : BitVec 5) (a3 : BitVec 1) : Statement (.vneg a0 a1 a2 a3) := by
  intro n h
  obtain rfl := Option.some.inj h
  omega
theorem vand (a0 : BitVec 4) (a1 : BitVec 4) (a2 : BitVec 4) (a3 : BitVec 5) (a4 : BitVec 1) :
    Statement (.vand a0 a1 a2 a3 a4) := by
  intro n h
  obtain rfl := Option.some.inj h
  omega
theorem vor (a0 : BitVec 4) (a1 : BitVec 4) (a2 : BitVec 4) (a3 : BitVec 5) (a4 : BitVec 1) :
    Statement (.vor a0 a1 a2 a3 a4) := by
  intro n h
  obtain rfl := Option.some.inj h
  omega
theorem vxor (a0 : BitVec 4) (a1 : BitVec 4) (a2 : BitVec 4) (a3 : BitVec 5) (a4 : BitVec 1) :
    Statement (.vxor a0 a1 a2 a3 a4) := by
  intro n h
  obtain rfl := Option.some.inj h
  omega
theorem vnot (a0 : BitVec 4) (a1 : BitVec 4) (a2 : BitVec 5) (a3 : BitVec 1) : Statement (.vnot a0 a1 a2 a3) := by
  intro n h
  obtain rfl := Option.some.inj h
  omega
theorem vandn (a0 : BitVec 4) (a1 : BitVec 4) (a2 : BitVec 4) (a3 : BitVec 5) (a4 : BitVec 1) :
    Statement (.vandn a0 a1 a2 a3 a4) := by
  intro n h
  obtain rfl := Option.some.inj h
  omega
theorem vmov (a0 : BitVec 4) (a1 : BitVec 4) (a2 : BitVec 5) (a3 : BitVec 1) : Statement (.vmov a0 a1 a2 a3) := by
  intro n h
  obtain rfl := Option.some.inj h
  omega
theorem vsel (a0 : BitVec 4) (a1 : BitVec 4) (a2 : BitVec 4) (a3 : BitVec 5) (a4 : BitVec 1) :
    Statement (.vsel a0 a1 a2 a3 a4) := by
  intro n h
  obtain rfl := Option.some.inj h
  omega
theorem vshlv (a0 : BitVec 4) (a1 : BitVec 4) (a2 : BitVec 4) (a3 : BitVec 5) (a4 : BitVec 1) :
    Statement (.vshlv a0 a1 a2 a3 a4) := by
  intro n h
  obtain rfl := Option.some.inj h
  omega
theorem vshrv (a0 : BitVec 4) (a1 : BitVec 4) (a2 : BitVec 4) (a3 : BitVec 5) (a4 : BitVec 1) :
    Statement (.vshrv a0 a1 a2 a3 a4) := by
  intro n h
  obtain rfl := Option.some.inj h
  omega
theorem vadds (a0 : BitVec 4) (a1 : BitVec 4) (a2 : BitVec 4) (a3 : BitVec 5) (a4 : BitVec 1) :
    Statement (.vadds a0 a1 a2 a3 a4) := by
  intro n h
  obtain rfl := Option.some.inj h
  omega
theorem vsubs (a0 : BitVec 4) (a1 : BitVec 4) (a2 : BitVec 4) (a3 : BitVec 5) (a4 : BitVec 1) :
    Statement (.vsubs a0 a1 a2 a3 a4) := by
  intro n h
  obtain rfl := Option.some.inj h
  omega
theorem vmulh (a0 : BitVec 4) (a1 : BitVec 4) (a2 : BitVec 4) (a3 : BitVec 5) (a4 : BitVec 1) :
    Statement (.vmulh a0 a1 a2 a3 a4) := by
  intro n h
  obtain rfl := Option.some.inj h
  omega
theorem vclz (a0 : BitVec 4) (a1 : BitVec 4) (a2 : BitVec 5) (a3 : BitVec 1) : Statement (.vclz a0 a1 a2 a3) := by
  intro n h
  obtain rfl := Option.some.inj h
  omega
theorem vpopc (a0 : BitVec 4) (a1 : BitVec 4) (a2 : BitVec 5) (a3 : BitVec 1) : Statement (.vpopc a0 a1 a2 a3) := by
  intro n h
  obtain rfl := Option.some.inj h
  omega
theorem vfma (a0 : BitVec 4) (a1 : BitVec 4) (a2 : BitVec 4) (a3 : BitVec 5) (a4 : BitVec 1) :
    Statement (.vfma a0 a1 a2 a3 a4) := by
  intro n h
  obtain rfl := Option.some.inj h
  omega
theorem vcvt (a0 : BitVec 4) (a1 : BitVec 4) (a2 : BitVec 4) (a3 : BitVec 5) (a4 : BitVec 1) :
    Statement (.vcvt a0 a1 a2 a3 a4) := by
  intro n h
  obtain rfl := Option.some.inj h
  omega
theorem vrnd (a0 : BitVec 4) (a1 : BitVec 4) (a2 : BitVec 5) (a3 : BitVec 1) : Statement (.vrnd a0 a1 a2 a3) := by
  intro n h
  obtain rfl := Option.some.inj h
  omega
theorem vrcp (a0 : BitVec 4) (a1 : BitVec 4) (a2 : BitVec 5) (a3 : BitVec 1) : Statement (.vrcp a0 a1 a2 a3) := by
  intro n h
  obtain rfl := Option.some.inj h
  omega
theorem vrsq (a0 : BitVec 4) (a1 : BitVec 4) (a2 : BitVec 5) (a3 : BitVec 1) : Statement (.vrsq a0 a1 a2 a3) := by
  intro n h
  obtain rfl := Option.some.inj h
  omega
theorem vaddx (a0 : BitVec 4) (a1 : BitVec 4) (a2 : BitVec 5) (a3 : BitVec 5) (a4 : BitVec 1) :
    Statement (.vaddx a0 a1 a2 a3 a4) := by
  intro n h
  obtain rfl := Option.some.inj h
  omega
theorem vsubx (a0 : BitVec 4) (a1 : BitVec 4) (a2 : BitVec 5) (a3 : BitVec 5) (a4 : BitVec 1) :
    Statement (.vsubx a0 a1 a2 a3 a4) := by
  intro n h
  obtain rfl := Option.some.inj h
  omega
theorem vmulx (a0 : BitVec 4) (a1 : BitVec 4) (a2 : BitVec 5) (a3 : BitVec 5) (a4 : BitVec 1) :
    Statement (.vmulx a0 a1 a2 a3 a4) := by
  intro n h
  obtain rfl := Option.some.inj h
  omega
theorem vmacx (a0 : BitVec 4) (a1 : BitVec 4) (a2 : BitVec 5) (a3 : BitVec 5) (a4 : BitVec 1) :
    Statement (.vmacx a0 a1 a2 a3 a4) := by
  intro n h
  obtain rfl := Option.some.inj h
  omega
theorem vminx (a0 : BitVec 4) (a1 : BitVec 4) (a2 : BitVec 5) (a3 : BitVec 5) (a4 : BitVec 1) :
    Statement (.vminx a0 a1 a2 a3 a4) := by
  intro n h
  obtain rfl := Option.some.inj h
  omega
theorem vmaxx (a0 : BitVec 4) (a1 : BitVec 4) (a2 : BitVec 5) (a3 : BitVec 5) (a4 : BitVec 1) :
    Statement (.vmaxx a0 a1 a2 a3 a4) := by
  intro n h
  obtain rfl := Option.some.inj h
  omega
theorem vandx (a0 : BitVec 4) (a1 : BitVec 4) (a2 : BitVec 5) (a3 : BitVec 5) (a4 : BitVec 1) :
    Statement (.vandx a0 a1 a2 a3 a4) := by
  intro n h
  obtain rfl := Option.some.inj h
  omega
theorem vorx (a0 : BitVec 4) (a1 : BitVec 4) (a2 : BitVec 5) (a3 : BitVec 5) (a4 : BitVec 1) :
    Statement (.vorx a0 a1 a2 a3 a4) := by
  intro n h
  obtain rfl := Option.some.inj h
  omega
theorem vxorx (a0 : BitVec 4) (a1 : BitVec 4) (a2 : BitVec 5) (a3 : BitVec 5) (a4 : BitVec 1) :
    Statement (.vxorx a0 a1 a2 a3 a4) := by
  intro n h
  obtain rfl := Option.some.inj h
  omega
theorem vshlx (a0 : BitVec 4) (a1 : BitVec 4) (a2 : BitVec 5) (a3 : BitVec 5) (a4 : BitVec 1) :
    Statement (.vshlx a0 a1 a2 a3 a4) := by
  intro n h
  obtain rfl := Option.some.inj h
  omega
theorem vshrx (a0 : BitVec 4) (a1 : BitVec 4) (a2 : BitVec 5) (a3 : BitVec 5) (a4 : BitVec 1) :
    Statement (.vshrx a0 a1 a2 a3 a4) := by
  intro n h
  obtain rfl := Option.some.inj h
  omega
theorem vsetx (a0 : BitVec 4) (a1 : BitVec 5) (a2 : BitVec 5) (a3 : BitVec 1) : Statement (.vsetx a0 a1 a2 a3) := by
  intro n h
  obtain rfl := Option.some.inj h
  omega
theorem vrsubx (a0 : BitVec 4) (a1 : BitVec 4) (a2 : BitVec 5) (a3 : BitVec 5) (a4 : BitVec 1) :
    Statement (.vrsubx a0 a1 a2 a3 a4) := by
  intro n h
  obtain rfl := Option.some.inj h
  omega
theorem vscalx (a0 : BitVec 4) (a1 : BitVec 4) (a2 : BitVec 5) (a3 : BitVec 5) (a4 : BitVec 1) :
    Statement (.vscalx a0 a1 a2 a3 a4) := by
  intro n h
  obtain rfl := Option.some.inj h
  omega
theorem eq (a0 : BitVec 2) (a1 : BitVec 2) (a2 : BitVec 4) (a3 : BitVec 4) (a4 : BitVec 5) (a5 : BitVec 1) :
    Statement (.eq a0 a1 a2 a3 a4 a5) := by
  intro n h
  obtain rfl := Option.some.inj h
  omega
theorem ne (a0 : BitVec 2) (a1 : BitVec 2) (a2 : BitVec 4) (a3 : BitVec 4) (a4 : BitVec 5) (a5 : BitVec 1) :
    Statement (.ne a0 a1 a2 a3 a4 a5) := by
  intro n h
  obtain rfl := Option.some.inj h
  omega
theorem lt (a0 : BitVec 2) (a1 : BitVec 2) (a2 : BitVec 4) (a3 : BitVec 4) (a4 : BitVec 5) (a5 : BitVec 1) :
    Statement (.lt a0 a1 a2 a3 a4 a5) := by
  intro n h
  obtain rfl := Option.some.inj h
  omega
theorem le (a0 : BitVec 2) (a1 : BitVec 2) (a2 : BitVec 4) (a3 : BitVec 4) (a4 : BitVec 5) (a5 : BitVec 1) :
    Statement (.le a0 a1 a2 a3 a4 a5) := by
  intro n h
  obtain rfl := Option.some.inj h
  omega
theorem gt (a0 : BitVec 2) (a1 : BitVec 2) (a2 : BitVec 4) (a3 : BitVec 4) (a4 : BitVec 5) (a5 : BitVec 1) :
    Statement (.gt a0 a1 a2 a3 a4 a5) := by
  intro n h
  obtain rfl := Option.some.inj h
  omega
theorem ge (a0 : BitVec 2) (a1 : BitVec 2) (a2 : BitVec 4) (a3 : BitVec 4) (a4 : BitVec 5) (a5 : BitVec 1) :
    Statement (.ge a0 a1 a2 a3 a4 a5) := by
  intro n h
  obtain rfl := Option.some.inj h
  omega
theorem isnz (a0 : BitVec 2) (a1 : BitVec 2) (a2 : BitVec 4) (a3 : BitVec 5) (a4 : BitVec 1) :
    Statement (.isnz a0 a1 a2 a3 a4) := by
  intro n h
  obtain rfl := Option.some.inj h
  omega
theorem eqx (a0 : BitVec 2) (a1 : BitVec 2) (a2 : BitVec 4) (a3 : BitVec 5) (a4 : BitVec 5) (a5 : BitVec 1) :
    Statement (.eqx a0 a1 a2 a3 a4 a5) := by
  intro n h
  obtain rfl := Option.some.inj h
  omega
theorem nex (a0 : BitVec 2) (a1 : BitVec 2) (a2 : BitVec 4) (a3 : BitVec 5) (a4 : BitVec 5) (a5 : BitVec 1) :
    Statement (.nex a0 a1 a2 a3 a4 a5) := by
  intro n h
  obtain rfl := Option.some.inj h
  omega
theorem ltx (a0 : BitVec 2) (a1 : BitVec 2) (a2 : BitVec 4) (a3 : BitVec 5) (a4 : BitVec 5) (a5 : BitVec 1) :
    Statement (.ltx a0 a1 a2 a3 a4 a5) := by
  intro n h
  obtain rfl := Option.some.inj h
  omega
theorem lex (a0 : BitVec 2) (a1 : BitVec 2) (a2 : BitVec 4) (a3 : BitVec 5) (a4 : BitVec 5) (a5 : BitVec 1) :
    Statement (.lex a0 a1 a2 a3 a4 a5) := by
  intro n h
  obtain rfl := Option.some.inj h
  omega
theorem gtx (a0 : BitVec 2) (a1 : BitVec 2) (a2 : BitVec 4) (a3 : BitVec 5) (a4 : BitVec 5) (a5 : BitVec 1) :
    Statement (.gtx a0 a1 a2 a3 a4 a5) := by
  intro n h
  obtain rfl := Option.some.inj h
  omega
theorem gex (a0 : BitVec 2) (a1 : BitVec 2) (a2 : BitVec 4) (a3 : BitVec 5) (a4 : BitVec 5) (a5 : BitVec 1) :
    Statement (.gex a0 a1 a2 a3 a4 a5) := by
  intro n h
  obtain rfl := Option.some.inj h
  omega
theorem matchKey (a0 : BitVec 2) (a1 : BitVec 2) (a2 : BitVec 4) (a3 : BitVec 5) (a4 : BitVec 5) (a5 : BitVec 1) :
    Statement (.matchKey a0 a1 a2 a3 a4 a5) := by
  intro n h
  obtain rfl := Option.some.inj h
  omega
theorem rangeKey (a0 : BitVec 2) (a1 : BitVec 2) (a2 : BitVec 4) (a3 : BitVec 5) (a4 : BitVec 5) (a5 : BitVec 1) :
    Statement (.rangeKey a0 a1 a2 a3 a4 a5) := by
  intro n h
  obtain rfl := Option.some.inj h
  omega
theorem tset (a0 : BitVec 2) (a1 : BitVec 5) : Statement (.tset a0 a1) := by
  intro n h
  obtain rfl := Option.some.inj h
  omega
theorem tclr (a0 : BitVec 2) (a1 : BitVec 5) : Statement (.tclr a0 a1) := by
  intro n h
  obtain rfl := Option.some.inj h
  omega
theorem tnot (a0 : BitVec 2) (a1 : BitVec 2) (a2 : BitVec 5) : Statement (.tnot a0 a1 a2) := by
  intro n h
  obtain rfl := Option.some.inj h
  omega
theorem tand (a0 : BitVec 2) (a1 : BitVec 2) (a2 : BitVec 2) (a3 : BitVec 5) : Statement (.tand a0 a1 a2 a3) := by
  intro n h
  obtain rfl := Option.some.inj h
  omega
theorem tor (a0 : BitVec 2) (a1 : BitVec 2) (a2 : BitVec 2) (a3 : BitVec 5) : Statement (.tor a0 a1 a2 a3) := by
  intro n h
  obtain rfl := Option.some.inj h
  omega
theorem txor (a0 : BitVec 2) (a1 : BitVec 2) (a2 : BitVec 2) (a3 : BitVec 5) : Statement (.txor a0 a1 a2 a3) := by
  intro n h
  obtain rfl := Option.some.inj h
  omega
theorem tandn (a0 : BitVec 2) (a1 : BitVec 2) (a2 : BitVec 2) (a3 : BitVec 5) : Statement (.tandn a0 a1 a2 a3) := by
  intro n h
  obtain rfl := Option.some.inj h
  omega
theorem tmov (a0 : BitVec 2) (a1 : BitVec 2) (a2 : BitVec 5) : Statement (.tmov a0 a1 a2) := by
  intro n h
  obtain rfl := Option.some.inj h
  omega
theorem tfirst (a0 : BitVec 2) (a1 : BitVec 2) (a2 : BitVec 5) : Statement (.tfirst a0 a1 a2) := by
  intro n h
  obtain rfl := Option.some.inj h
  omega
theorem tlast (a0 : BitVec 2) (a1 : BitVec 2) (a2 : BitVec 5) : Statement (.tlast a0 a1 a2) := by
  intro n h
  obtain rfl := Option.some.inj h
  omega
theorem tshup (a0 : BitVec 2) (a1 : BitVec 2) (a2 : BitVec 5) : Statement (.tshup a0 a1 a2) := by
  intro n h
  obtain rfl := Option.some.inj h
  omega
theorem tshdn (a0 : BitVec 2) (a1 : BitVec 2) (a2 : BitVec 5) : Statement (.tshdn a0 a1 a2) := by
  intro n h
  obtain rfl := Option.some.inj h
  omega
theorem tval (a0 : BitVec 2) (a1 : BitVec 5) : Statement (.tval a0 a1) := by
  intro n h
  obtain rfl := Option.some.inj h
  omega
theorem valt (a0 : BitVec 2) (a1 : BitVec 5) : Statement (.valt a0 a1) := by
  intro n h
  obtain rfl := Option.some.inj h
  omega
theorem vcount (a0 : BitVec 5) (a1 : BitVec 2) (a2 : BitVec 5) : Statement (.vcount a0 a1 a2) := by
  intro n h
  obtain rfl := Option.some.inj h
  omega
theorem vany (a0 : BitVec 5) (a1 : BitVec 2) (a2 : BitVec 5) : Statement (.vany a0 a1 a2) := by
  intro n h
  obtain rfl := Option.some.inj h
  omega
theorem vfirstx (a0 : BitVec 5) (a1 : BitVec 2) (a2 : BitVec 5) : Statement (.vfirstx a0 a1 a2) := by
  intro n h
  obtain rfl := Option.some.inj h
  omega
theorem vextr (a0 : BitVec 5) (a1 : BitVec 2) (a2 : BitVec 4) (a3 : BitVec 5) : Statement (.vextr a0 a1 a2 a3) := by
  intro n h
  obtain rfl := Option.some.inj h
  omega
theorem vredsum (a0 : BitVec 5) (a1 : BitVec 2) (a2 : BitVec 4) (a3 : BitVec 5) : Statement (.vredsum a0 a1 a2 a3) := by
  intro n h
  obtain rfl := Option.some.inj h
  omega
theorem vredmax (a0 : BitVec 5) (a1 : BitVec 2) (a2 : BitVec 4) (a3 : BitVec 5) : Statement (.vredmax a0 a1 a2 a3) := by
  intro n h
  obtain rfl := Option.some.inj h
  omega
theorem vredmin (a0 : BitVec 5) (a1 : BitVec 2) (a2 : BitVec 4) (a3 : BitVec 5) : Statement (.vredmin a0 a1 a2 a3) := by
  intro n h
  obtain rfl := Option.some.inj h
  omega
theorem vtopk (a0 : BitVec 5) (a1 : BitVec 2) (a2 : BitVec 4) (a3 : BitVec 5) : Statement (.vtopk a0 a1 a2 a3) := by
  intro n h
  obtain rfl := Option.some.inj h
  omega
theorem vbotk (a0 : BitVec 5) (a1 : BitVec 2) (a2 : BitVec 4) (a3 : BitVec 5) : Statement (.vbotk a0 a1 a2 a3) := by
  intro n h
  obtain rfl := Option.some.inj h
  omega
theorem vmaxloc (a0 : BitVec 5) (a1 : BitVec 2) (a2 : BitVec 4) (a3 : BitVec 5) : Statement (.vmaxloc a0 a1 a2 a3) := by
  intro n h
  obtain rfl := Option.some.inj h
  omega
theorem vscanadd (a0 : BitVec 4) (a1 : BitVec 4) (a2 : BitVec 5) (a3 : BitVec 1) : Statement (.vscanadd a0 a1 a2 a3) := by
  intro n h
  obtain rfl := Option.some.inj h
  omega
theorem vscanmax (a0 : BitVec 4) (a1 : BitVec 4) (a2 : BitVec 5) (a3 : BitVec 1) : Statement (.vscanmax a0 a1 a2 a3) := by
  intro n h
  obtain rfl := Option.some.inj h
  omega
theorem vrowsh (a0 : BitVec 4) (a1 : BitVec 4) (a2 : BitVec 5) (a3 : BitVec 1) : Statement (.vrowsh a0 a1 a2 a3) := by
  intro n h
  obtain rfl := Option.some.inj h
  omega
theorem vrowshup (a0 : BitVec 4) (a1 : BitVec 4) (a2 : BitVec 5) (a3 : BitVec 1) : Statement (.vrowshup a0 a1 a2 a3) := by
  intro n h
  obtain rfl := Option.some.inj h
  omega
theorem vidx (a0 : BitVec 4) (a1 : BitVec 5) (a2 : BitVec 1) : Statement (.vidx a0 a1 a2) := by
  intro n h
  obtain rfl := Option.some.inj h
  omega
theorem vbcastf (a0 : BitVec 4) (a1 : BitVec 4) (a2 : BitVec 5) (a3 : BitVec 1) : Statement (.vbcastf a0 a1 a2 a3) := by
  intro n h
  obtain rfl := Option.some.inj h
  omega
theorem vftag (a0 : BitVec 4) (a1 : BitVec 5) (a2 : BitVec 1) : Statement (.vftag a0 a1 a2) := by
  intro n h
  obtain rfl := Option.some.inj h
  omega
theorem vtagf (a0 : BitVec 4) (a1 : BitVec 5) (a2 : BitVec 1) : Statement (.vtagf a0 a1 a2) := by
  intro n h
  obtain rfl := Option.some.inj h
  omega
theorem vtli (a0 : BitVec 4) (a1 : BitVec 4) (a2 : BitVec 2) (a3 : BitVec 5) (a4 : BitVec 1) :
    Statement (.vtli a0 a1 a2 a3 a4) := by
  intro n h
  obtain rfl := Option.some.inj h
  omega
theorem vtlu (a0 : BitVec 4) (a1 : BitVec 4) (a2 : BitVec 2) (a3 : BitVec 5) (a4 : BitVec 1) :
    Statement (.vtlu a0 a1 a2 a3 a4) := by
  intro n h
  obtain rfl := Option.some.inj h
  omega
theorem vsimh (a0 : BitVec 4) (a1 : BitVec 4) (a2 : BitVec 4) (a3 : BitVec 5) (a4 : BitVec 1) :
    Statement (.vsimh a0 a1 a2 a3 a4) := by
  intro n h
  obtain rfl := Option.some.inj h
  omega
theorem vlda (a0 : BitVec 4) (a1 : BitVec 5) (a2 : BitVec 5) (a3 : BitVec 1) : Statement (.vlda a0 a1 a2 a3) := by
  intro n h
  obtain rfl := Option.some.inj h
  omega
theorem vldaSp (a0 : BitVec 4) (a1 : BitVec 5) (a2 : BitVec 5) (a3 : BitVec 1) : Statement (.vldaSp a0 a1 a2 a3) := by
  intro n h
  obtain rfl := Option.some.inj h
  omega
theorem vsta (a0 : BitVec 4) (a1 : BitVec 5) (a2 : BitVec 5) (a3 : BitVec 1) : Statement (.vsta a0 a1 a2 a3) := by
  intro n h
  obtain rfl := Option.some.inj h
  omega
theorem vldx (a0 : BitVec 4) (a1 : BitVec 4) (a2 : BitVec 5) (a3 : BitVec 5) (a4 : BitVec 1) :
    Statement (.vldx a0 a1 a2 a3 a4) := by
  intro n h
  obtain rfl := Option.some.inj h
  omega
theorem vstx (a0 : BitVec 4) (a1 : BitVec 4) (a2 : BitVec 5) (a3 : BitVec 5) (a4 : BitVec 1) :
    Statement (.vstx a0 a1 a2 a3 a4) := by
  intro n h
  obtain rfl := Option.some.inj h
  omega
theorem vstadd (a0 : BitVec 4) (a1 : BitVec 4) (a2 : BitVec 5) (a3 : BitVec 5) (a4 : BitVec 1) :
    Statement (.vstadd a0 a1 a2 a3 a4) := by
  intro n h
  obtain rfl := Option.some.inj h
  omega
theorem vspill (a0 : BitVec 4) (a1 : BitVec 5) (a2 : BitVec 5) : Statement (.vspill a0 a1 a2) := by
  intro n h
  obtain rfl := Option.some.inj h
  omega
theorem vfill (a0 : BitVec 4) (a1 : BitVec 5) (a2 : BitVec 5) : Statement (.vfill a0 a1 a2) := by
  intro n h
  obtain rfl := Option.some.inj h
  omega
theorem tload (a0 : BitVec 2) (a1 : BitVec 5) : Statement (.tload a0 a1) := by
  intro n h
  obtain rfl := Option.some.inj h
  omega
theorem sbind (a0 : BitVec 3) (a1 : BitVec 4) (a2 : BitVec 5) : Statement (.sbind a0 a1 a2) := by
  intro n h
  obtain rfl := Option.some.inj h
  omega
theorem sunb (a0 : BitVec 3) : Statement (.sunb a0) := by
  intro n h
  obtain rfl := Option.some.inj h
  omega
theorem sbar (a0 : BitVec 5) : Statement (.sbar a0) := by
  intro n h
  obtain rfl := Option.some.inj h
  omega
theorem swait (a0 : BitVec 3) : Statement (.swait a0) := by
  intro n h
  obtain rfl := Option.some.inj h
  omega
theorem sstat (a0 : BitVec 5) (a1 : BitVec 3) : Statement (.sstat a0 a1) := by
  intro n h
  obtain rfl := Option.some.inj h
  omega
theorem amoadd (a0 : BitVec 5) (a1 : BitVec 5) (a2 : BitVec 5) (a3 : BitVec 2) (a4 : BitVec 1) :
    Statement (.amoadd a0 a1 a2 a3 a4) := by
  intro n h
  obtain rfl := Option.some.inj h
  omega
theorem amoand (a0 : BitVec 5) (a1 : BitVec 5) (a2 : BitVec 5) (a3 : BitVec 2) (a4 : BitVec 1) :
    Statement (.amoand a0 a1 a2 a3 a4) := by
  intro n h
  obtain rfl := Option.some.inj h
  omega
theorem amoor (a0 : BitVec 5) (a1 : BitVec 5) (a2 : BitVec 5) (a3 : BitVec 2) (a4 : BitVec 1) :
    Statement (.amoor a0 a1 a2 a3 a4) := by
  intro n h
  obtain rfl := Option.some.inj h
  omega
theorem amoxor (a0 : BitVec 5) (a1 : BitVec 5) (a2 : BitVec 5) (a3 : BitVec 2) (a4 : BitVec 1) :
    Statement (.amoxor a0 a1 a2 a3 a4) := by
  intro n h
  obtain rfl := Option.some.inj h
  omega
theorem amomin (a0 : BitVec 5) (a1 : BitVec 5) (a2 : BitVec 5) (a3 : BitVec 2) (a4 : BitVec 1) (a5 : BitVec 1) :
    Statement (.amomin a0 a1 a2 a3 a4 a5) := by
  intro n h
  obtain rfl := Option.some.inj h
  omega
theorem amomax (a0 : BitVec 5) (a1 : BitVec 5) (a2 : BitVec 5) (a3 : BitVec 2) (a4 : BitVec 1) (a5 : BitVec 1) :
    Statement (.amomax a0 a1 a2 a3 a4 a5) := by
  intro n h
  obtain rfl := Option.some.inj h
  omega
theorem amoswap (a0 : BitVec 5) (a1 : BitVec 5) (a2 : BitVec 5) (a3 : BitVec 2) (a4 : BitVec 1) :
    Statement (.amoswap a0 a1 a2 a3 a4) := by
  intro n h
  obtain rfl := Option.some.inj h
  omega
theorem amocas (a0 : BitVec 5) (a1 : BitVec 5) (a2 : BitVec 5) (a3 : BitVec 2) (a4 : BitVec 1) :
    Statement (.amocas a0 a1 a2 a3 a4) := by
  intro n h
  obtain rfl := Option.some.inj h
  omega
theorem amaxf (a0 : BitVec 5) (a1 : BitVec 5) : Statement (.amaxf a0 a1) := by
  intro n h
  obtain rfl := Option.some.inj h
  omega
theorem amaxfRel (a0 : BitVec 5) (a1 : BitVec 5) : Statement (.amaxfRel a0 a1) := by
  intro n h
  obtain rfl := Option.some.inj h
  omega
theorem acq (a0 : BitVec 3) : Statement (.acq a0) := by
  intro n h
  obtain rfl := Option.some.inj h
  omega
theorem rel (a0 : BitVec 3) : Statement (.rel a0) := by
  intro n h
  obtain rfl := Option.some.inj h
  omega
theorem fence (a0 : BitVec 3) : Statement (.fence a0) := by
  intro n h
  obtain rfl := Option.some.inj h
  omega
theorem cbget (a0 : BitVec 5) (a1 : BitVec 4) : Statement (.cbget a0 a1) := by
  intro n h
  obtain rfl := Option.some.inj h
  omega
theorem cbput (a0 : BitVec 4) : Statement (.cbput a0) := by
  intro n h
  obtain rfl := Option.some.inj h
  omega
theorem cbpop (a0 : BitVec 5) (a1 : BitVec 4) : Statement (.cbpop a0 a1) := by
  intro n h
  obtain rfl := Option.some.inj h
  omega
theorem cbrel (a0 : BitVec 4) : Statement (.cbrel a0) := by
  intro n h
  obtain rfl := Option.some.inj h
  omega
theorem cbstat (a0 : BitVec 5) (a1 : BitVec 4) : Statement (.cbstat a0 a1) := by
  intro n h
  obtain rfl := Option.some.inj h
  omega
theorem cbgetn (a0 : BitVec 5) (a1 : BitVec 4) (a2 : BitVec 5) : Statement (.cbgetn a0 a1 a2) := by
  intro n h
  obtain rfl := Option.some.inj h
  omega
theorem cbpopn (a0 : BitVec 5) (a1 : BitVec 4) (a2 : BitVec 5) : Statement (.cbpopn a0 a1 a2) := by
  intro n h
  obtain rfl := Option.some.inj h
  omega
theorem cbdef (a0 : BitVec 4) (a1 : BitVec 5) : Statement (.cbdef a0 a1) := by
  intro n h
  obtain rfl := Option.some.inj h
  omega
theorem strip (a0 : BitVec 5) : Statement (.strip a0) := by
  intro n h
  obtain rfl := Option.some.inj h
  omega
theorem farm (a0 : BitVec 3) (a1 : BitVec 5) (a2 : BitVec 5) : Statement (.farm a0 a1 a2) := by
  intro n h
  obtain rfl := Option.some.inj h
  omega
theorem fnext (a0 : BitVec 5) (a1 : BitVec 3) : Statement (.fnext a0 a1) := by
  intro n h
  obtain rfl := Option.some.inj h
  omega
theorem xredadd (a0 : BitVec 5) (a1 : BitVec 5) : Statement (.xredadd a0 a1) := by
  intro n h
  obtain rfl := Option.some.inj h
  omega
theorem xredmax (a0 : BitVec 5) (a1 : BitVec 5) (a2 : BitVec 1) : Statement (.xredmax a0 a1 a2) := by
  intro n h
  obtain rfl := Option.some.inj h
  omega
theorem xredmin (a0 : BitVec 5) (a1 : BitVec 5) (a2 : BitVec 1) : Statement (.xredmin a0 a1 a2) := by
  intro n h
  obtain rfl := Option.some.inj h
  omega
theorem xscanadd (a0 : BitVec 5) (a1 : BitVec 5) : Statement (.xscanadd a0 a1) := by
  intro n h
  obtain rfl := Option.some.inj h
  omega
theorem xbcast (a0 : BitVec 5) (a1 : BitVec 5) (a2 : BitVec 5) : Statement (.xbcast a0 a1 a2) := by
  intro n h
  obtain rfl := Option.some.inj h
  omega
theorem xredfadd (a0 : BitVec 5) (a1 : BitVec 5) (a2 : BitVec 2) : Statement (.xredfadd a0 a1 a2) := by
  intro n h
  obtain rfl := Option.some.inj h
  omega
theorem cqapp (a0 : BitVec 5) (a1 : BitVec 5) (a2 : BitVec 5) : Statement (.cqapp a0 a1 a2) := by
  intro n h
  obtain rfl := Option.some.inj h
  omega
theorem cqgo (a0 : BitVec 5) : Statement (.cqgo a0) := by
  intro n h
  obtain rfl := Option.some.inj h
  omega
theorem cqwait (a0 : BitVec 5) (a1 : BitVec 5) : Statement (.cqwait a0 a1) := by
  intro n h
  obtain rfl := Option.some.inj h
  omega
theorem cqstat (a0 : BitVec 5) (a1 : BitVec 5) : Statement (.cqstat a0 a1) := by
  intro n h
  obtain rfl := Option.some.inj h
  omega
theorem cqdone (a0 : BitVec 5) (a1 : BitVec 5) (a2 : BitVec 5) : Statement (.cqdone a0 a1 a2) := by
  intro n h
  obtain rfl := Option.some.inj h
  omega
theorem mma (a0 : BitVec 1) (a1 : BitVec 5) (a2 : BitVec 5) (a3 : BitVec 5) (a4 : BitVec 5) (a5 : BitVec 1) (a6 : BitVec 1) :
    Statement (.mma a0 a1 a2 a3 a4 a5 a6) := by
  intro n h
  obtain rfl := Option.some.inj h
  omega
theorem mldb (a0 : BitVec 1) (a1 : BitVec 5) (a2 : BitVec 5) : Statement (.mldb a0 a1 a2) := by
  intro n h
  obtain rfl := Option.some.inj h
  omega
theorem mlicAcq (a0 : BitVec 5) : Statement (.mlicAcq a0) := by
  intro n h
  obtain rfl := Option.some.inj h
  omega
theorem mlicSt (a0 : BitVec 5) : Statement (.mlicSt a0) := by
  intro n h
  obtain rfl := Option.some.inj h
  omega
theorem dpload (a0 : BitVec 5) (a1 : BitVec 5) (a2 : BitVec 5) : Statement (.dpload a0 a1 a2) := by
  intro n h
  obtain rfl := Option.some.inj h
  omega
theorem dpinfo (a0 : BitVec 5) (a1 : BitVec 5) : Statement (.dpinfo a0 a1) := by
  intro n h
  obtain rfl := Option.some.inj h
  omega
theorem kvfind (a0 : BitVec 5) (a1 : BitVec 5) (a2 : BitVec 5) : Statement (.kvfind a0 a1 a2) := by
  intro n h
  obtain rfl := Option.some.inj h
  omega
theorem kvins (a0 : BitVec 5) (a1 : BitVec 5) (a2 : BitVec 5) : Statement (.kvins a0 a1 a2) := by
  intro n h
  obtain rfl := Option.some.inj h
  omega
theorem kvpin (a0 : BitVec 5) (a1 : BitVec 5) : Statement (.kvpin a0 a1) := by
  intro n h
  obtain rfl := Option.some.inj h
  omega
theorem kvunpin (a0 : BitVec 5) (a1 : BitVec 5) : Statement (.kvunpin a0 a1) := by
  intro n h
  obtain rfl := Option.some.inj h
  omega
theorem kvref (a0 : BitVec 5) (a1 : BitVec 5) (a2 : BitVec 5) : Statement (.kvref a0 a1 a2) := by
  intro n h
  obtain rfl := Option.some.inj h
  omega
theorem kvwin (a0 : BitVec 3) (a1 : BitVec 5) : Statement (.kvwin a0 a1) := by
  intro n h
  obtain rfl := Option.some.inj h
  omega
theorem nrd (a0 : BitVec 5) (a1 : BitVec 5) : Statement (.nrd a0 a1) := by
  intro n h
  obtain rfl := Option.some.inj h
  omega
theorem nwr (a0 : BitVec 5) (a1 : BitVec 5) : Statement (.nwr a0 a1) := by
  intro n h
  obtain rfl := Option.some.inj h
  omega
theorem nswap (a0 : BitVec 5) (a1 : BitVec 5) (a2 : BitVec 5) : Statement (.nswap a0 a1 a2) := by
  intro n h
  obtain rfl := Option.some.inj h
  omega
theorem fpush (a0 : BitVec 5) : Statement (.fpush a0) := by
  intro n h
  obtain rfl := Option.some.inj h
  omega
theorem fpop (a0 : BitVec 5) : Statement (.fpop a0) := by
  intro n h
  obtain rfl := Option.some.inj h
  omega
theorem fcnt (a0 : BitVec 5) : Statement (.fcnt a0) := by
  intro n h
  obtain rfl := Option.some.inj h
  omega
theorem pgreq (a0 : BitVec 5) (a1 : BitVec 5) : Statement (.pgreq a0 a1) := by
  intro n h
  obtain rfl := Option.some.inj h
  omega
theorem tbar (a0 : BitVec 5) : Statement (.tbar a0) := by
  intro n h
  obtain rfl := Option.some.inj h
  omega
theorem svsave (a0 : BitVec 5) (a1 : BitVec 5) (a2 : BitVec 5) : Statement (.svsave a0 a1 a2) := by
  intro n h
  obtain rfl := Option.some.inj h
  omega
theorem svrest (a0 : BitVec 5) (a1 : BitVec 5) (a2 : BitVec 5) : Statement (.svrest a0 a1 a2) := by
  intro n h
  obtain rfl := Option.some.inj h
  omega
theorem slreplay (a0 : BitVec 5) (a1 : BitVec 5) : Statement (.slreplay a0 a1) := by
  intro n h
  obtain rfl := Option.some.inj h
  omega
theorem tlbinv (a0 : BitVec 5) (a1 : BitVec 5) : Statement (.tlbinv a0 a1) := by
  intro n h
  obtain rfl := Option.some.inj h
  omega
theorem hfreeze (a0 : BitVec 5) (a1 : BitVec 5) (a2 : BitVec 5) : Statement (.hfreeze a0 a1 a2) := by
  intro n h
  obtain rfl := Option.some.inj h
  omega
theorem hthaw (a0 : BitVec 5) (a1 : BitVec 5) : Statement (.hthaw a0 a1) := by
  intro n h
  obtain rfl := Option.some.inj h
  omega
theorem esload (a0 : BitVec 5) (a1 : BitVec 5) (a2 : BitVec 5) : Statement (.esload a0 a1 a2) := by
  intro n h
  obtain rfl := Option.some.inj h
  omega
theorem estep (a0 : BitVec 5) : Statement (.estep a0) := by
  intro n h
  obtain rfl := Option.some.inj h
  omega
theorem lbrk : Statement .lbrk := by
  intro n h
  obtain rfl := Option.some.inj h
  omega
theorem lskip : Statement .lskip := by
  intro n h
  obtain rfl := Option.some.inj h
  omega
theorem scall : Statement .scall := by
  intro n h
  obtain rfl := Option.some.inj h
  omega
theorem brk : Statement .brk := by
  intro n h
  obtain rfl := Option.some.inj h
  omega
theorem tret : Statement .tret := by
  intro n h
  obtain rfl := Option.some.inj h
  omega
theorem wfe : Statement .wfe := by
  intro n h
  obtain rfl := Option.some.inj h
  omega
theorem yield : Statement .yield := by
  intro n h
  obtain rfl := Option.some.inj h
  omega
theorem exit : Statement .exit := by
  intro n h
  obtain rfl := Option.some.inj h
  omega
theorem snapt : Statement .snapt := by
  intro n h
  obtain rfl := Option.some.inj h
  omega
theorem sret : Statement .sret := by
  intro n h
  obtain rfl := Option.some.inj h
  omega
theorem scommit : Statement .scommit := by
  intro n h
  obtain rfl := Option.some.inj h
  omega
theorem sabort : Statement .sabort := by
  intro n h
  obtain rfl := Option.some.inj h
  omega
theorem bar : Statement .bar := by
  intro n h
  obtain rfl := Option.some.inj h
  omega
theorem arrive : Statement .arrive := by
  intro n h
  obtain rfl := Option.some.inj h
  omega
theorem await : Statement .await := by
  intro n h
  obtain rfl := Option.some.inj h
  omega
theorem mwait : Statement .mwait := by
  intro n h
  obtain rfl := Option.some.inj h
  omega
theorem mlicAcqw : Statement .mlicAcqw := by
  intro n h
  obtain rfl := Option.some.inj h
  omega
theorem mlicRel : Statement .mlicRel := by
  intro n h
  obtain rfl := Option.some.inj h
  omega
theorem tsyncExpiry : Statement .tsyncExpiry := fun n h => (Option.some_ne_none n h.symm).elim
theorem snapshotTrigger : Statement .snapshotTrigger := fun n h => (Option.some_ne_none n h.symm).elim
theorem snapshotRearm : Statement .snapshotRearm := fun n h => (Option.some_ne_none n h.symm).elim
theorem plimitExceeded : Statement .plimitExceeded := fun n h => (Option.some_ne_none n h.symm).elim
theorem hardTrip : Statement .hardTrip := fun n h => (Option.some_ne_none n h.symm).elim
theorem deviceReset : Statement .deviceReset := fun n h => (Option.some_ne_none n h.symm).elim
theorem getVersion : Statement .getVersion := fun n h => (Option.some_ne_none n h.symm).elim
theorem getCapabilities : Statement .getCapabilities := fun n h => (Option.some_ne_none n h.symm).elim
theorem negotiateAlgorithms : Statement .negotiateAlgorithms := fun n h => (Option.some_ne_none n h.symm).elim
theorem getDigests : Statement .getDigests := fun n h => (Option.some_ne_none n h.symm).elim
theorem nonInstructionWord : Statement .nonInstructionWord := fun n h => (Option.some_ne_none n h.symm).elim
theorem instructionFetchFault : Statement .instructionFetchFault := fun n h => (Option.some_ne_none n h.symm).elim
theorem dividerResult (a0 : HartKey) : Statement (.dividerResult a0) := fun n h => (Option.some_ne_none n h.symm).elim
theorem loadReturn (a0 : HartKey) : Statement (.loadReturn a0) := fun n h => (Option.some_ne_none n h.symm).elim
theorem wfeTimeout (a0 : HartKey) : Statement (.wfeTimeout a0) := fun n h => (Option.some_ne_none n h.symm).elim
theorem vmemTransfer (a0 : HartKey) : Statement (.vmemTransfer a0) := fun n h => (Option.some_ne_none n h.symm).elim
theorem tableSlotWrite (a0 : HartKey) : Statement (.tableSlotWrite a0) := fun n h => (Option.some_ne_none n h.symm).elim
theorem streamBlock (a0 : HartKey) (a1 : BitVec 3) :
    Statement (.streamBlock a0 a1) := fun n h => (Option.some_ne_none n h.symm).elim
theorem homeWrite (a0 : HartKey) : Statement (.homeWrite a0) := fun n h => (Option.some_ne_none n h.symm).elim
theorem stripDrain (a0 : HartKey) : Statement (.stripDrain a0) := fun n h => (Option.some_ne_none n h.symm).elim
theorem latchLoad (a0 : CoreId) : Statement (.latchLoad a0) := fun n h => (Option.some_ne_none n h.symm).elim
theorem mmaAStream (a0 : CoreId) : Statement (.mmaAStream a0) := fun n h => (Option.some_ne_none n h.symm).elim
theorem mmaMigration (a0 : CoreId) : Statement (.mmaMigration a0) := fun n h => (Option.some_ne_none n h.symm).elim
theorem drainRow (a0 : CoreId) : Statement (.drainRow a0) := fun n h => (Option.some_ne_none n h.symm).elim
theorem drainSlotLoad (a0 : HartKey) : Statement (.drainSlotLoad a0) := fun n h => (Option.some_ne_none n h.symm).elim
theorem licenceRelease (a0 : PairKey) : Statement (.licenceRelease a0) := fun n h => (Option.some_ne_none n h.symm).elim
theorem ballastStep (a0 : PairKey) : Statement (.ballastStep a0) := fun n h => (Option.some_ne_none n h.symm).elim
theorem licenceGrant (a0 : PairKey) : Statement (.licenceGrant a0) := fun n h => (Option.some_ne_none n h.symm).elim
theorem slotTableTurn (a0 : PairKey) : Statement (.slotTableTurn a0) := fun n h => (Option.some_ne_none n h.symm).elim
theorem ferryEntryFilled (a0 : HartKey) : Statement (.ferryEntryFilled a0) := fun n h => (Option.some_ne_none n h.symm).elim
theorem twinto (a0 : HartKey) : Statement (.twinto a0) := fun n h => (Option.some_ne_none n h.symm).elim
theorem gatePowerRemoved (a0 : PairKey) : Statement (.gatePowerRemoved a0) := fun n h => (Option.some_ne_none n h.symm).elim
theorem ungatePowerReturned (a0 : PairKey) : Statement (.ungatePowerReturned a0) := fun n h => (Option.some_ne_none n h.symm).elim
theorem walk (a0 : CoreId) (a1 : Nat) (a2 : Dword) (a3 : Access) :
    Statement (.walk a0 a1 a2 a3) := fun n h => (Option.some_ne_none n h.symm).elim
theorem supervisorRoutineStart (a0 : CoreId) :
    Statement (.supervisorRoutineStart a0) := fun n h => (Option.some_ne_none n h.symm).elim
theorem teamPlacement (a0 : Nat) (a1 : CoreId) :
    Statement (.teamPlacement a0 a1) := fun n h => (Option.some_ne_none n h.symm).elim
theorem gangStart (a0 : Nat) : Statement (.gangStart a0) := fun n h => (Option.some_ne_none n h.symm).elim
theorem residencyClear (a0 : ClusterKey) : Statement (.residencyClear a0) := fun n h => (Option.some_ne_none n h.symm).elim
theorem launchCompletion (a0 : Nat) : Statement (.launchCompletion a0) := fun n h => (Option.some_ne_none n h.symm).elim
theorem copy (a0 : CoreId) (a1 : Nat) : Statement (.copy a0 a1) := fun n h => (Option.some_ne_none n h.symm).elim
theorem gather (a0 : CoreId) (a1 : Nat) : Statement (.gather a0 a1) := fun n h => (Option.some_ne_none n h.symm).elim
theorem scatter (a0 : CoreId) (a1 : Nat) : Statement (.scatter a0 a1) := fun n h => (Option.some_ne_none n h.symm).elim
theorem fill (a0 : CoreId) (a1 : Nat) : Statement (.fill a0 a1) := fun n h => (Option.some_ne_none n h.symm).elim
theorem migrate (a0 : CoreId) (a1 : Nat) : Statement (.migrate a0 a1) := fun n h => (Option.some_ne_none n h.symm).elim
theorem marker (a0 : CoreId) (a1 : Nat) : Statement (.marker a0 a1) := fun n h => (Option.some_ne_none n h.symm).elim
theorem mmaf (a0 : CoreId) (a1 : Nat) : Statement (.mmaf a0 a1) := fun n h => (Option.some_ne_none n h.symm).elim
theorem coll (a0 : CoreId) (a1 : Nat) : Statement (.coll a0 a1) := fun n h => (Option.some_ne_none n h.symm).elim
theorem launch (a0 : CoreId) (a1 : Nat) : Statement (.launch a0 a1) := fun n h => (Option.some_ne_none n h.symm).elim
theorem commandCompletion (a0 : CoreId) (a1 : Nat) :
    Statement (.commandCompletion a0 a1) := fun n h => (Option.some_ne_none n h.symm).elim
theorem collTimeoutExpiry (a0 : Word) : Statement (.collTimeoutExpiry a0) := fun n h => (Option.some_ne_none n h.symm).elim
theorem uncorrectableError (a0 : ErrorSite) : Statement (.uncorrectableError a0) := fun n h => (Option.some_ne_none n h.symm).elim
theorem schedulerTick (a0 : Nat) : Statement (.schedulerTick a0) := fun n h => (Option.some_ne_none n h.symm).elim
theorem switchInstant (a0 : Nat) : Statement (.switchInstant a0) := fun n h => (Option.some_ne_none n h.symm).elim
theorem shadowSwap (a0 : ClusterKey) : Statement (.shadowSwap a0) := fun n h => (Option.some_ne_none n h.symm).elim
theorem contextSpill (a0 : Nat) : Statement (.contextSpill a0) := fun n h => (Option.some_ne_none n h.symm).elim
theorem contextRestore (a0 : Nat) : Statement (.contextRestore a0) := fun n h => (Option.some_ne_none n h.symm).elim
theorem linkDown (a0 : Nat) (a1 : Nat) : Statement (.linkDown a0 a1) := fun n h => (Option.some_ne_none n h.symm).elim
theorem hostPeerWrite (a0 : Nat) (a1 : List Byte) :
    Statement (.hostPeerWrite a0 a1) := fun n h => (Option.some_ne_none n h.symm).elim
theorem hostPeerRead (a0 : Nat) (a1 : Nat) : Statement (.hostPeerRead a0 a1) := fun n h => (Option.some_ne_none n h.symm).elim
theorem ptmExchange (a0 : Nat) : Statement (.ptmExchange a0) := fun n h => (Option.some_ne_none n h.symm).elim
theorem doorbell (a0 : Nat) : Statement (.doorbell a0) := fun n h => (Option.some_ne_none n h.symm).elim
theorem appendRegister (a0 : Nat) (a1 : Dword) :
    Statement (.appendRegister a0 a1) := fun n h => (Option.some_ne_none n h.symm).elim
theorem contextTableWrite (a0 : Nat) (a1 : BitVec 512) :
    Statement (.contextTableWrite a0 a1) := fun n h => (Option.some_ne_none n h.symm).elim
theorem queueDescriptorWrite (a0 : Nat) (a1 : BitVec 128) :
    Statement (.queueDescriptorWrite a0 a1) := fun n h => (Option.some_ne_none n h.symm).elim
theorem registerWrite (a0 : Nat) (a1 : Dword) : Statement (.registerWrite a0 a1) := fun n h => (Option.some_ne_none n h.symm).elim
theorem resync (a0 : Dword) : Statement (.resync a0) := fun n h => (Option.some_ne_none n h.symm).elim
theorem keyLoad (a0 : Nat) (a1 : Dword) : Statement (.keyLoad a0 a1) := fun n h => (Option.some_ne_none n h.symm).elim
theorem unfence (a0 : CoreId) (a1 : Byte) : Statement (.unfence a0 a1) := fun n h => (Option.some_ne_none n h.symm).elim
theorem ungate (a0 : CoreId) : Statement (.ungate a0) := fun n h => (Option.some_ne_none n h.symm).elim
theorem preEmpt (a0 : Nat) (a1 : Option Nat) : Statement (.preEmpt a0 a1) := fun n h => (Option.some_ne_none n h.symm).elim
theorem preEmptHold (a0 : Nat) : Statement (.preEmptHold a0) := fun n h => (Option.some_ne_none n h.symm).elim
theorem assignPair (a0 : Nat) (a1 : Nat) (a2 : Bool) :
    Statement (.assignPair a0 a1 a2) := fun n h => (Option.some_ne_none n h.symm).elim
theorem emergencyAddress (a0 : Dword) : Statement (.emergencyAddress a0) := fun n h => (Option.some_ne_none n h.symm).elim
theorem collectiveTimeout (a0 : Nat) : Statement (.collectiveTimeout a0) := fun n h => (Option.some_ne_none n h.symm).elim
theorem thawFunction (a0 : Nat) : Statement (.thawFunction a0) := fun n h => (Option.some_ne_none n h.symm).elim
theorem systemAppend (a0 : CoreId) (a1 : Dword) :
    Statement (.systemAppend a0 a1) := fun n h => (Option.some_ne_none n h.symm).elim
theorem thermalLevelChange (a0 : Nat) (a1 : Thermal) :
    Statement (.thermalLevelChange a0 a1) := fun n h => (Option.some_ne_none n h.symm).elim
theorem powerOn (a0 : List BootImage) : Statement (.powerOn a0) := fun n h => (Option.some_ne_none n h.symm).elim
theorem getCertificate (a0 : Nat) : Statement (.getCertificate a0) := fun n h => (Option.some_ne_none n h.symm).elim
theorem challenge (a0 : BitVec 256) : Statement (.challenge a0) := fun n h => (Option.some_ne_none n h.symm).elim
theorem getMeasurements (a0 : BitVec 256) : Statement (.getMeasurements a0) := fun n h => (Option.some_ne_none n h.symm).elim
theorem keyExchange (a0 : List Byte) : Statement (.keyExchange a0) := fun n h => (Option.some_ne_none n h.symm).elim
theorem finish (a0 : List Byte) : Statement (.finish a0) := fun n h => (Option.some_ne_none n h.symm).elim
theorem ideKm (a0 : List Byte) : Statement (.ideKm a0) := fun n h => (Option.some_ne_none n h.symm).elim
theorem flushReadCompletion (a0 : Nat) : Statement (.flushReadCompletion a0) := fun n h => (Option.some_ne_none n h.symm).elim
theorem hostPeerAtomic (a0 : PeerAtomic) (a1 : Nat) (a2 : Bool) (a3 : Dword) (a4 : Dword) :
    Statement (.hostPeerAtomic a0 a1 a2 a3 a4) := fun n h => (Option.some_ne_none n h.symm).elim
theorem portLinkChange (a0 : Nat) (a1 : Bool) :
    Statement (.portLinkChange a0 a1) := fun n h => (Option.some_ne_none n h.symm).elim
theorem collPeerContribution (a0 : CollInput) :
    Statement (.collPeerContribution a0) := fun n h => (Option.some_ne_none n h.symm).elim

end Sys2Proof.Laws.Encoding

end
end

