-- ==== Sys2Proof/Laws/Ready.lean ====
section
/-! SUPPORT. A check that decides whether a word runs now. -/

namespace Sys2Proof.Machine

/-- The conditions of `State.Ready` as a check. -/
def State.readyCheck (s : State) (i : Instr) : Bool :=
  !(privileged i && s.cur.isHart) && !(if s.cur.isHart then namesSystemChain i else !stewardWord i) &&
  (match s.due.sc.latch with
   | none => true
   | some p => !pfxIllegal i p && s.due.sc.pred p.psel != p.pinv) &&
  ((if s.due.schk then s.due.stalled i else none) == none) &&
  ((if s.due.cur.isHart then s.due.self.lateFault i (s.due.copyVec i) else none) == none) && !s.due.waits i

/-- A word that passes the check is ready. -/
theorem State.Ready.of_check {s : State} {i : Instr} (h : s.readyCheck i = true) : s.Ready i := by
  simp only [State.readyCheck, Bool.and_eq_true, Bool.not_eq_true', beq_iff_eq] at h
  obtain ⟨⟨⟨⟨⟨a, b⟩, c⟩, d⟩, e⟩, f⟩ := h
  refine ⟨a, b, ?_, d, e, f⟩
  intro p hp
  rw [hp] at c
  simpa [bne] using c

end Sys2Proof.Machine
end

