-- ==== Sys2Proof/Laws/Words.lean ====
section
/-! SUPPORT. The shared operations of a word, each said once: registers, results, retirement, taking a trap and returning from
it. -/

namespace Sys2Proof.Machine

/-! ## Scalar state -/

@[simp] theorem State.sc_setSc (s : State) (v : Scalar) : (s.setSc v).sc = v := by
  cases hc : s.cur <;> simp [State.setSc, State.sc, hc, State.modSteward, State.modCore, State.setCore, State.core, State.modHart, State.setHart, State.hart]

@[simp] theorem State.sc_modSc (s : State) (f : Scalar → Scalar) : (s.modSc f).sc = f s.sc := s.sc_setSc _

@[simp] theorem State.modSc_cur (s : State) (f : Scalar → Scalar) : (s.modSc f).cur = s.cur := s.setSc_cur _
@[simp] theorem State.modSc_now (s : State) (f : Scalar → Scalar) : (s.modSc f).now = s.now := s.setSc_now _
@[simp] theorem State.modSc_mem (s : State) (f : Scalar → Scalar) : (s.modSc f).mem = s.mem := s.setSc_mem _

@[simp] theorem Scalar.get_zero (sc : Scalar) : sc.get 0 = 0 := rfl

@[simp] theorem Scalar.put_zero (sc : Scalar) (v : Dword) : sc.put 0 v = sc := rfl

theorem Scalar.get_put_same (sc : Scalar) {r : Reg} (h : r ≠ 0) (v : Dword) : (sc.put r v).get r = v := by
  rw [Scalar.put, if_neg h, Scalar.get, if_neg h]
  simp

theorem Scalar.get_put_other (sc : Scalar) {r q : Reg} (h : q ≠ r) (v : Dword) : (sc.put r v).get q = sc.get q := by
  by_cases hr : r = 0
  · simp [Scalar.put, hr]
  · have : r.toNat ≠ q.toNat := fun e => h (BitVec.eq_of_toNat_eq e.symm)
    by_cases hq : q = 0
    · simp [Scalar.get, hq]
    · rw [Scalar.put, if_neg hr, Scalar.get, if_neg hq, Scalar.get, if_neg hq]
      exact Vector.getElem_set_ne (by have := r.isLt; omega) _ this

/-- A result that comes later leaves every register as it reads now. -/
@[simp] theorem Scalar.get_later (sc : Scalar) (r q : Reg) (v : Dword) (n : Nat) : (sc.later r v n).get q = sc.get q := by
  unfold Scalar.later; split <;> rfl

@[simp] theorem Scalar.get_onBoard (sc : Scalar) (r q : Reg) (v : Dword) (n : Nat) (k : ResultKind) (o : Option Nat) :
    (sc.onBoard r v n k o).get q = sc.get q := by
  unfold Scalar.onBoard; split <;> rfl

@[simp] theorem Scalar.get_bring (sc : Scalar) (o n : Nat) (v : Dword) (q : Reg) : (sc.bring o v n).get q = sc.get q := rfl
@[simp] theorem Scalar.get_discard (sc : Scalar) (r q : Reg) : (sc.discard r).get q = sc.get q := rfl
@[simp] theorem Scalar.get_retire (sc : Scalar) (n k : Nat) (q : Reg) : (sc.retire n k).get q = sc.get q := rfl
@[simp] theorem Scalar.get_transfer (sc : Scalar) (t : Dword) (n k : Nat) (q : Reg) : (sc.transfer t n k).get q = sc.get q := rfl
@[simp] theorem Scalar.commitAll_fixed (sc : Scalar) : sc.commitAll.fixed = [] := rfl

/-- With no result on its way, nothing is written. -/
theorem Scalar.commit_none {sc : Scalar} (h : sc.fixed = []) (n : Nat) : sc.commit n = sc := by
  cases sc
  simp_all [Scalar.commit]

theorem Scalar.commitAll_none {sc : Scalar} (h : sc.fixed = []) : sc.commitAll = sc := by
  cases sc
  simp_all [Scalar.commitAll]

@[simp] theorem loopEnd_nil (last : Dword) : loopEnd [] last = ([], last + 4) := rfl

theorem loopEnd_elsewhere {e : LoopEntry} {last : Dword} (h : e.last ≠ last) (es : List LoopEntry) :
    loopEnd (e :: es) last = (e :: es, last + 4) := by simp [loopEnd, h]

/-! ## Harts -/

@[simp] theorem State.setHart_setHart (s : State) (h : HartKey) (v w : Hart) : (s.setHart h v).setHart h w = s.setHart h w := by
  simp [State.setHart]
@[simp] theorem State.setHart_modHart (s : State) (h : HartKey) (f : Hart → Hart) (w : Hart) :
    (s.modHart h f).setHart h w = s.setHart h w := s.setHart_setHart h _ w
@[simp] theorem State.modHart_modHart (s : State) (h : HartKey) (f g : Hart → Hart) :
    (s.modHart h f).modHart h g = s.modHart h fun t => g (f t) := by
  simp [State.modHart, State.setHart, State.hart]

/-- The issue cycle of a word that has not begun to wait. -/
theorem State.issueCycle_hart {s : State} {h : HartKey} (hc : s.cur = .hart h) (hw : (s.hart h).wait = .none) : s.issueCycle = s.now := by
  simp [State.issueCycle, hc, hw]

/-- A word that retires in a hart changes that hart alone. -/
theorem State.retired_hart {s : State} {h : HartKey} (hc : s.cur = .hart h) :
    s.retired = s.modHart h fun t => { t with sc := t.sc.retire s.issueCycle s.stall, wait := .none, claim := none } := by
  simp [State.retired, State.finish, State.modSc, State.setSc, State.sc, State.issued, hc, State.modHart, State.setHart, State.hart,
    FMap.put_put]

theorem State.jumped_hart {s : State} {h : HartKey} (hc : s.cur = .hart h) (target : Dword) :
    s.jumped target = s.modHart h fun t => { t with sc := t.sc.transfer target s.issueCycle s.stall, wait := .none, claim := none } := by
  simp [State.jumped, State.finish, State.modSc, State.setSc, State.sc, State.issued, hc, State.modHart, State.setHart, State.hart,
    FMap.put_put]

/-- A trap of a hart's word is taken by that hart, at the word's address. -/
theorem State.trapped_hart {s : State} {h : HartKey} (hc : s.cur = .hart h) (cause : Nat) (value : Dword) :
    s.trapped cause value = s.takeTrap h cause value (s.hart h).sc.pc := by
  simp [State.trapped, State.finish, State.sc, hc]

/-- A trap of a steward's word only notes it, and the word retires (17 R355). -/
theorem State.trapped_steward {s : State} {c : CoreId} (hc : s.cur = .steward c) (cause : Nat) (value : Dword) :
    s.trapped cause value = s.modSteward c fun w =>
      let v := w.note cause value
      { v with sc := v.sc.retire s.now s.stall } := by
  simp [State.trapped, State.finish, State.modSc, State.setSc, State.sc, hc, State.modSteward, State.modCore, State.setCore, State.core,
    FMap.put_put, State.stall]

/-- Taking a trap: the writes on their way complete; a program-level cause enters the handler; any other holds the hart for the
steward. -/
theorem State.takeTrap_enters (s : State) {h : HartKey} {cause : Nat} (value addr : Dword)
    (hs : supervisorCause cause = false) (hi : (s.hart h).csr.inh = false) (ht : (s.hart h).csr.tvec ≠ 0) :
    s.takeTrap h cause value addr = s.modHart h fun t =>
      Hart.enterHandler { t with sc := t.sc.commitAll, wait := .none, claim := none } s.now cause value addr := by
  simp only [State.takeTrap, State.hart_modHart_same]
  rw [if_neg (by simpa [hs, hi] using ht), State.setHart_modHart]
  rfl

theorem State.takeTrap_holds (s : State) {h : HartKey} {cause : Nat} (value addr : Dword)
    (hs : supervisorCause cause = true ∨ (s.hart h).csr.inh = true ∨ (s.hart h).csr.tvec = 0) (hp : (s.hart h).arrayDone ≤ s.now) :
    s.takeTrap h cause value addr =
      (s.modHart h fun t => { t with sc := t.sc.commitAll, wait := .none, claim := none }).holdHart h cause value addr := by
  simp only [State.takeTrap, State.hart_modHart_same, State.modHart_now]
  rw [if_pos (by simpa [or_assoc] using hs), if_neg (Nat.not_lt.2 hp)]

/-- While passes of an older array word of the hart go on, such a trap waits for their end. -/
theorem State.takeTrap_waits (s : State) {h : HartKey} {cause : Nat} (value addr : Dword)
    (hs : supervisorCause cause = true ∨ (s.hart h).csr.inh = true ∨ (s.hart h).csr.tvec = 0) (hp : s.now < (s.hart h).arrayDone) :
    s.takeTrap h cause value addr =
      s.modHart h fun t => { t with sc := t.sc.commitAll, wait := .trapping cause value addr, claim := none } := by
  simp only [State.takeTrap, State.hart_modHart_same, State.modHart_now]
  rw [if_pos (by simpa [or_assoc] using hs), if_pos hp]
  simp [State.modHart, State.setHart, State.hart, FMap.put_put]

/-! ## What lies outside the harts and the cores -/

theorem State.SameOutside.refl (s : State) : s.SameOutside s := rfl

theorem State.SameOutside.trans {s t u : State} (h : s.SameOutside t) (h' : t.SameOutside u) : s.SameOutside u := by
  unfold State.SameOutside at *
  rw [← h, ← h']

theorem State.modHart_sameOutside (s : State) (h : HartKey) (f : Hart → Hart) : s.SameOutside (s.modHart h f) := rfl
theorem State.modSteward_sameOutside (s : State) (c : CoreId) (f : Steward → Steward) : s.SameOutside (s.modSteward c f) := rfl
theorem State.postEvent_sameOutside (s : State) (c : CoreId) (e : SupEvent) : s.SameOutside (s.postEvent c e) := rfl
theorem State.setSc_sameOutside (s : State) (v : Scalar) : s.SameOutside (s.setSc v) := by
  unfold State.setSc; split <;> rfl
theorem State.issued_sameOutside (s : State) : s.SameOutside s.issued := by
  unfold State.issued; split <;> rfl
theorem State.result_sameOutside (s : State) (r : Reg) (v : Dword) (n : Nat) : s.SameOutside (s.result r v n) :=
  s.setSc_sameOutside _
theorem State.delay_sameOutside (s : State) (n : Nat) : s.SameOutside (s.delay n) := s.setSc_sameOutside _

end Sys2Proof.Machine
end

