-- ==== Sys2Proof/Tests/Slice0.lean ====
section
/-! SUPPORT. Tests: ill-formed terms that WellFormed refuses, words that decode, words that run, and for each statement with
hypotheses a state that meets them. -/

section

set_option Elab.async false

open Sys2Proof Sys2Proof.Machine

namespace Sys2Proof.Tests

/-! ## Small states -/

/-- Hart 0 alone, in context 1, with 2 MiB of memory mapped and word w at its program counter. -/
def alone (w : Word := 0) : State := { State.reset.placeWord w with cur := .hart 0, todo := [], ir := w }
/-- The lone hart with its record changed. -/
def with0 (f : Hart → Hart) : State := alone.modHart 0 f
/-- The lone hart with some registers set. -/
def regs (l : List (Nat × Dword)) : State :=
  with0 fun t => { t with sc := { t.sc with x := l.foldl (fun x p => x.setIfInBounds p.1 p.2) t.sc.x } }
/-- The steward of core 0, running a routine at its program counter, with the page table of the lone hart. -/
def steward (l : List (Nat × Dword) := []) : State :=
  let s := alone.modSteward 0 fun w =>
    { w with running := true, sc := { w.sc with pc := 0x1000, x := l.foldl (fun x p => x.setIfInBounds p.1 p.2) w.sc.x } }
  { s with cur := .steward 0, contexts := s.contexts.put 0 ((s.contexts.get? 1).getD 0) }

/-- Whether an access ends with a value. -/
def done {α : Type} : Acc α → Bool
  | .ok _ _ => true
  | _ => false
theorem done_ok {α : Type} {r : Acc α} (h : done r = true) : ∃ (v : α) (t : State), r = .ok v t := by
  cases r with
  | ok v t => exact ⟨v, t, rfl⟩
  | miss m t => simp [done] at h
  | wait => simp [done] at h
/-- Whether an access is refused. -/
def missed {α : Type} : Acc α → Bool
  | .miss _ _ => true
  | _ => false
theorem missed_miss {α : Type} {r : Acc α} (h : missed r = true) : ∃ (m : Miss) (t : State), r = .miss m t := by
  cases r with
  | ok v t => simp [missed] at h
  | miss m t => exact ⟨m, t, rfl⟩
  | wait => simp [missed] at h

end Sys2Proof.Tests

namespace Sys2Proof.Tests

/-! ## Well-formedness: each check refuses an ill-formed term (03 R77, R84, R140; 05 R122; 08 R195; 10 R245; 12 R278) -/

theorem test_wf_pfx : Instr.wf (.pfx 0 0 0 3) = false ∧ Instr.wf (.pfx 0 0 1 3) = true := by decide
theorem test_wf_loop : Instr.wf (.loop 1 0) = false ∧ Instr.wf (.loopi 1 0) = false ∧ Instr.wf (.loop 1 8191) = true := by decide
theorem test_wf_level : Instr.wf (.lidx 1 6) = false ∧ Instr.wf (.lcnt 1 6) = false ∧ Instr.wf (.lidx 1 5) = true := by decide
theorem test_wf_vdef : Instr.wf (.vdef 1 0 0 0) = false ∧ Instr.wf (.vdef 1 0 65 0) = false ∧ Instr.wf (.vdef 1 0 64 0) = true := by
  decide
theorem test_wf_range : Instr.wf (.rangeKey 0 0 1 31 5 0) = false ∧ Instr.wf (.rangeKey 0 0 1 30 5 0) = true := by decide
theorem test_wf_scope : Instr.wf (.acq 5) = false ∧ Instr.wf (.rel 5) = false ∧ Instr.wf (.fence 5) = false ∧
    Instr.wf (.fence 4) = true := by decide
theorem test_wf_xredfadd : Instr.wf (.xredfadd 1 2 3) = false ∧ Instr.wf (.xredfadd 1 2 2) = true := by decide
theorem test_wf_chain : Instr.wf (.cqapp 1 17 2) = false ∧ Instr.wf (.cqgo 17) = false ∧ Instr.wf (.cqwait 17 2) = false ∧
    Instr.wf (.cqstat 1 17) = false ∧ Instr.wf (.cqdone 1 17 2) = false ∧ Instr.wf (.cqgo 16) = true := by decide

/-! ## Decoding: words that the manual prints, and words written out from its layouts -/

/-- 03, the program of chapter 03; 04, the loop example: PFX, ALU, ADDI, VARX, VARITH, SYS, CSR, LOOP, LCTL. -/
theorem test_decode_scalar : decode 0x0CA00320 = some (.addi 5 0 100) ∧ decode 0x08C52881 = some (.mul 6 5 5) ∧
    decode 0x05A40000 = some (.pfx 3 0 1 4) ∧ decode 0x65400200 = some (.csrr 10 0x010) ∧
    decode 0x500A0028 = some (.loop 10 5) ∧ decode 0x59600008 = some (.lidx 11 0) ∧ decode 0x68000030 = some .exit ∧
    decode 0x68000080 = some .sret := by decide
/-- 03 R77 and R100 to R111, field by field: SHI, LIH, LISH, branches, JAL, JALR, LOOPI, LD, ST. -/
theorem test_decode_layouts : decode 0b001001_00011_00100_10_00000_111111_001#32 = some (.srai 3 4 63) ∧
    decode 0b001010_00111_001001000110100011_000#32 = some (.lih 7 0x091A3) ∧
    decode 0b001011_00111_111111111111111111_000#32 = some (.lish 7 0x3FFFF) ∧
    decode 0b010001_00001_00010_1000000000000_000#32 = some (.bgeu 1 2 0x1000) ∧
    decode 0b010010_00001_100000000000000001_000#32 = some (.jal 1 0x20001) ∧
    decode 0b010011_00000_00001_0000000000000_000#32 = some (.jalr 0 1 0) ∧
    decode 0b010101_1111111111_0000000000001_000#32 = some (.loopi 1023 1) ∧
    decode 0b010111_00101_00110_1000000000_101_000#32 = some (.lwu 5 6 0x200) ∧
    decode 0b011000_00101_00110_0111111111_100_000#32 = some (.sw 5 6 0x1FF) ∧
    decode 0b011001_00001_00010_00000010000_11_000#32 = some (.csrc 1 2 0x010) := by decide
/-- 05, encodings at a glance. -/
theorem test_decode_fields : decode 0x70C50308 = some (.vdef 3 40 12 1) ∧ decode 0x70C00000 = some (.vundef 3) ∧
    decode 0x85B28C00 = some (.tand 1 2 3 5) ∧ decode 0x74C48A98 = some (.vadds 3 1 2 5 0) ∧
    decode 0x74C48B98 = some (.vadds 3 1 2 5 1) ∧ decode 0x7559CAC8 = some (.vcvt 5 6 7 5 0) ∧
    decode 0x78C0E558 = some (.vsetx 3 7 5 0) ∧ decode 0x78852510 = some (.vmulx 2 1 9 5 0) := by decide
/-- 06 R140, R145, R152, R156. -/
theorem test_decode_search : decode 0x7D48CA10 = some (.lt 1 1 2 3 5 0) ∧ decode 0x8290E530 = some (.matchKey 2 2 4 7 5 0) ∧
    decode 0x89081400 = some (.vcount 8 1 5) ∧ decode 0x89209438 = some (.vtopk 9 0 1 5) ∧
    decode 0x8D040A00 = some (.vscanadd 4 1 5 0) ∧ decode 0x8CC84A40 = some (.vtli 3 2 1 5 0) := by decide
/-- 10 R228, R235, R242, R244 to R247, R249. -/
theorem test_decode_memory : decode 0x90429100 = some (.vlda 1 20 17 0) ∧ decode 0x9082B108 = some (.vsta 2 21 17 0) ∧
    decode 0x9144C700 = some (.vldaSp 5 6 7 0) ∧ decode 0x90D4C710 = some (.vldx 3 5 6 7 0) ∧
    decode 0x90D4C720 = some (.vstadd 3 5 6 7 0) ∧ decode 0x94214000 = some (.sbind 1 1 8) ∧
    decode 0x94200018 = some (.swait 1) ∧ decode 0x95210020 = some (.sstat 9 1) := by decide
theorem test_decode_atomics : decode 0x99232020 = some (.amoadd 9 3 4 0 1) ∧ decode 0x99232370 = some (.amomax 9 3 4 1 1 1) ∧
    decode 0x992327C0 = some (.amocas 9 3 4 3 0) ∧ decode 0x9C032000 = some (.amaxf 3 4) ∧
    decode 0x9C032008 = some (.amaxfRel 3 4) ∧ decode 0xA0000C00 = some (.acq 3) ∧ decode 0xA0002800 = some (.rel 2) ∧
    decode 0xA0004000 = some (.fence 0) ∧ decode 0xA5220000 = some (.cbget 9 2) ∧ decode 0xA4024038 = some (.cbdef 2 8) ∧
    decode 0xA8090000 = some (.strip 9) := by decide
/-- 08 R188, R195; 12 R278; 13 R297, R298; 14 R316. -/
theorem test_decode_engines : decode 0xAC453000 = some (.farm 2 5 6) ∧ decode 0xAD220008 = some (.fnext 9 2) ∧
    decode 0xB1240808 = some (.xredmax 9 4 1) ∧ decode 0xB1290828 = some (.xredfadd 9 9 1) ∧
    decode 0xB5224000 = some (.cqapp 9 2 8) ∧ decode 0xB4024010 = some (.cqwait 2 8) ∧
    decode 0xBAA62C68 = some (.mma 1 10 12 11 3 0 1) ∧ decode 0xB8D63810 = some (.mma 0 13 12 14 0 1 0) ∧ decode 0xBC263800 = some (.mldb 1 6 7) ∧
    decode 0xBD200010 = some (.mlicAcq 9) ∧ decode 0xC1263800 = some (.dpload 9 6 7) := by decide
/-- 15 R340; 17 R360; 19 R398. -/
theorem test_decode_system : decode 0xC5263820 = some (.kvref 9 6 7) ∧ decode 0xC4260028 = some (.kvwin 1 6) ∧
    decode 0xC9253810 = some (.nswap 9 5 7) ∧ decode 0xC9260030 = some (.pgreq 9 6) ∧ decode 0xC8030038 = some (.tbar 3) ∧
    decode 0xCD263800 = some (.svsave 9 6 7) ∧ decode 0xCD263820 = some (.hfreeze 9 6 7) ∧
    decode 0xCD200038 = some (.estep 9) := by decide
/-- 03, the fate of some words: no instruction. -/
theorem test_decode_refuses : decode 0x00000000 = none ∧ decode 0x68000040 = none ∧ decode 0x04000008 = none ∧
    decode 0x2400C000 = none ∧ decode 0x6C000000 = none := by decide

end Sys2Proof.Tests

namespace Sys2Proof.Tests

/-! ## Scalar words, traps and checks: states that meet the hypotheses of the statements -/

/-- Whether a word answers a next state. -/
def moves (i : Instr) (s : State) : Bool :=
  match exec i s with
  | .next _ => true
  | _ => false
theorem moves_next {i : Instr} {s : State} (h : moves i s = true) : ∃ t : State, exec i s = .next t := by
  unfold moves at h
  cases e : exec i s with
  | next t => exact ⟨t, rfl⟩
  | fault f => simp [e] at h
  | refused r => simp [e] at h
/-- The state after a word. -/
def after (i : Instr) (s : State) : State :=
  match exec i s with
  | .next t => t
  | _ => s

theorem test_meets_scalar_values :
    (Claims.scalarValue (.add 1 2 3) (regs [(2, 5)]).due = some (1, 5, 1) ∧ (regs [(2, 5)]).Ready (.add 1 2 3)) ∧
    (Claims.scalarValue (.lidx 1 5) alone.due = some (1, 0, 1) ∧ alone.Ready (.lidx 1 5)) := by
  and_intros <;> first | exact .of_check (by decide +kernel) | decide +kernel
theorem test_meets_divisions :
    (Claims.division (.div 3 4 0) (regs [(4, -9)]).due = some (3, -2 ^ 63, 4) ∧ (regs [(4, -9)]).Ready (.div 3 4 0)) ∧
    (Claims.division (.remu 3 4 5) (regs [(4, 7), (5, 4)]).due = some (3, 3, 6) ∧ (regs [(4, 7), (5, 4)]).Ready (.remu 3 4 5)) := by
  and_intros <;> first | exact .of_check (by decide +kernel) | decide +kernel
theorem test_meets_branches :
    (Claims.transferOf (.bne 1 2 4) alone.due = some (false, 0x1010, none) ∧ alone.Ready (.bne 1 2 4)) ∧
    (Claims.transferOf (.jalr 1 2 (-4)) (regs [(2, 2 ^ 52)]).due = some (true, 2 ^ 52 - 4, some 1) ∧
      (regs [(2, 2 ^ 52)]).Ready (.jalr 1 2 (-4))) ∧
    (Claims.transferOf (.jalr 1 2 2) alone.due = some (true, 2, some 1) ∧ alone.Ready (.jalr 1 2 2)) ∧
    (Claims.transferOf (.jalr 1 2 0) (regs [(2, 2 ^ 52)]).due = some (true, 2 ^ 52, some 1) ∧
      (regs [(2, 2 ^ 52)]).Ready (.jalr 1 2 0)) := by
  and_intros <;> first | exact .of_check (by decide +kernel) | decide +kernel

/-- The lone hart inside n nested loops that end at last. -/
def looped (n : Nat) (last : Dword) (index count : BitVec 32) (l : List (Nat × Dword) := []) : State :=
  (regs l).modHart 0 fun t =>
    { t with sc := { t.sc with loops := List.replicate n { index := index, count := count, start := 0x0F00, last := last } } }

/-- A loop word at the end address, a count above 2^32 - 1 and just at it, a count of 0, depth 6 and 5. -/
theorem test_meets_loop_pushes :
    (Claims.loopOf (.loop 1 5) (looped 1 0x1000 0 2).due = some (0, 5) ∧ (looped 1 0x1000 0 2).Ready (.loop 1 5) ∧
      (looped 1 0x1000 0 2).due.sc.loops.head?.map LoopEntry.last = some (looped 1 0x1000 0 2).due.sc.pc) ∧
    (Claims.loopOf (.loop 1 5) (regs [(1, 2 ^ 32)]).due = some (2 ^ 32, 5) ∧ (regs [(1, 2 ^ 32)]).Ready (.loop 1 5) ∧
      (regs [(1, 2 ^ 32)]).due.sc.loops = []) ∧
    (Claims.loopOf (.loopi 0 5) alone.due = some (0, 5) ∧ alone.Ready (.loopi 0 5) ∧ alone.due.sc.loops = []) ∧
    (Claims.loopOf (.loopi 1 5) (looped 6 0x2000 0 2).due = some (1, 5) ∧ (looped 6 0x2000 0 2).Ready (.loopi 1 5)) ∧
    (Claims.loopOf (.loop 1 1) (looped 5 0x2000 0 2 [(1, 2 ^ 32 - 1)]).due = some (2 ^ 32 - 1, 1) ∧
      (looped 5 0x2000 0 2 [(1, 2 ^ 32 - 1)]).Ready (.loop 1 1)) := by
  and_intros <;> first | exact .of_check (by decide +kernel) | decide +kernel
/-- LBRK and LSKIP with an empty stack, with one entry, and LSKIP before and in the last iteration. -/
theorem test_meets_loop_breaks :
    (alone.Ready .lbrk ∧ alone.Ready .lskip ∧ alone.due.sc.loops = []) ∧ (looped 1 0x2000 0 2).Ready .lbrk ∧
    (looped 1 0x2000 0 2).Ready .lskip ∧ (looped 1 0x2000 1 2).Ready .lskip := by
  and_intros <;> first | exact .of_check (by decide +kernel) | decide +kernel
/-- 04, the loop example: the inner loop of two iterations ends after its second one, and the outer entry, with the same end,
counts in the same retirement. -/
theorem test_loop_end :
    loopEnd [{ index := 1, count := 2, start := 8, last := 12 }, { index := 0, count := 3, start := 4, last := 12 }] 12 =
      ([{ index := 1, count := 3, start := 4, last := 12 }], 4) ∧ loopEnd [] 12 = ([], 16) := by decide
theorem test_meets_pfx : (looped 1 0x1000 0 2).Ready (.pfx 3 0 1 4) ∧ alone.Ready (.pfx 3 0 1 4) := by
  and_intros <;> exact .of_check (by decide +kernel)

/-- How the access of a word on qd fares: 0 performed at once, 1 behind others, 2 refused by its checks, 3 missed. -/
def accessFate (s : State) (i : Instr) (x : Transfer) : Nat :=
  match s.due.directMiss s.me i x with
  | (some _, _) => 2
  | (none, t) =>
    if !(t.self.vmem.isEmpty && !t.self.keptBack x.owner 8 (x.kind == .ld)) then 1
    else if done (t.performDirect t.me i x) then 0 else if missed (t.performDirect t.me i x) then 3 else 1
/-- A double word of a hart from an address, as a load and as a store. -/
def loadAt (va : Dword) : Transfer := { kind := .ld, addr := va, word := some (.ld 1 2 0) }
def storeAt (va : Dword) : Transfer := { kind := .st, addr := va, word := some (.sd 1 2 0) }
/-- A misaligned load, one of the last double word that is mapped, one beyond it, one behind another on qd; the same of the steward. -/
theorem test_meets_loads :
    (Claims.addressOf (regs [(2, 0x1004)]).due 2 0 = 0x1004 ∧ (regs [(2, 0x1004)]).Ready (.ld 1 2 0)) ∧
    ((regs [(2, 0x1FFFF8)]).Ready (.ld 1 2 0) ∧ accessFate (regs [(2, 0x1FFFF8)]) (.ld 1 2 0) (loadAt 0x1FFFF8) = 0) ∧
    ((regs [(2, 0x200000)]).Ready (.ld 1 2 0) ∧ accessFate (regs [(2, 0x200000)]) (.ld 1 2 0) (loadAt 0x200000) = 2) ∧
    accessFate (with0 fun t => { t with vmem := [storeAt 0x1000] }) (.ld 1 2 0) (loadAt 0x1000) = 1 ∧
    ((steward [(2, 0x1FFFF8)]).Ready (.ld 1 2 0) ∧ done ((steward [(2, 0x1FFFF8)]).due.load .scalar 0x1FFFF8 8) = true) ∧
    missed ((steward [(2, 0x200000)]).due.load .scalar 0x200000 8) = true := by
  and_intros <;> first | exact .of_check (by decide +kernel) | decide +kernel
theorem test_meets_stores :
    ((regs [(2, 0x1004)]).Ready (.sd 1 2 0)) ∧ Claims.littleEndian [0x34, 0x12] = 0x1234 ∧
    accessFate (regs [(1, 0x1234), (2, 0x1FFFF8)]) (.sd 1 2 0) (storeAt 0x1FFFF8) = 0 ∧
    accessFate (regs [(2, 2 ^ 52)]) (.sd 1 2 0) (storeAt (2 ^ 52)) = 2 ∧
    ((steward [(2, 0x1FFFF8)]).Ready (.sd 1 2 0) ∧ done ((steward [(2, 0x1FFFF8)]).due.store 0x1FFFF8 (List.replicate 8 0)) = true) ∧
    missed ((steward [(2, 2 ^ 52)]).due.store (2 ^ 52) (List.replicate 8 0)) = true := by
  and_intros <;> first | exact .of_check (by decide +kernel) | decide +kernel
/-- A load and a store that are performed: their bytes come, miss, or wait for a line that a command owns. -/
theorem test_meets_performed :
    done ((alone.hartLoad 0 .scalar 0x1FFFF8 8 (loadAt 0).maker).clean 0x1FFFF8) = true ∧
    missed ((alone.hartLoad 0 .scalar 0x200000 8 (loadAt 0).maker).clean 0x200000) = true ∧
    done (({ alone with lineOwners := [(0x2000, 0, 0, 1)] } : State).hartLoad 0 .scalar 0x100000 8 (loadAt 0).maker) = false ∧
    done (alone.hartStore 0 .scalar false 0x1FFFF8 (List.replicate 8 (some 1)) (storeAt 0).maker) = true ∧
    missed (alone.hartStore 0 .scalar false (2 ^ 52) (List.replicate 8 (some 1)) (storeAt 0).maker) = true := by
  decide +kernel

/-- A prefix latch with predicate 0, which is true, and a copy register. -/
def prefixed (inv dce : Bool) (r : Reg) : State :=
  with0 fun t => { t with sc := { t.sc with latch := some { psel := 0, pinv := inv, dce := dce, dcr := r } } }

theorem test_meets_results :
    (prefixed false true 7).copyReg = some 7 ∧ alone.copyReg = none ∧ alone.sc.board = [] ∧ (3 : Reg) ∈ scalarSources (.add 1 2 3) := by
  decide +kernel
theorem test_meets_scalar_frame :
    Claims.scalarValue (.add 1 2 3) alone.due = some (1, 0, 1) ∧ alone.Ready (.add 1 2 3) ∧ alone.cur = .hart 0 ∧
    ∃ t : State, exec (.add 1 2 3) alone = .next t := by
  and_intros <;> first | exact State.Ready.of_check (by decide +kernel) | decide +kernel | exact moves_next (by decide +kernel)
theorem test_meets_privilege : alone.cur = .hart 0 ∧ (steward).cur = .steward 0 ∧ stewardWord (.vadd 1 2 3 4 0) = false ∧
    (encode (.vadd 1 2 3 4 0) 0).isSome = true := by decide +kernel
/-- Under a latch: a branch, and an ADD whose predicate is false. -/
theorem test_meets_prefixes :
    ((prefixed false false 0).cur = .hart 0 ∧ (encode (.beq 1 2 4) 0).isSome = true ∧ privileged (.beq 1 2 4) = false ∧
      namesSystemChain (.beq 1 2 4) = false ∧
      pfxIllegal (.beq 1 2 4) { psel := 0, pinv := false, dce := false, dcr := 0 } = true) ∧
    ((prefixed true false 0).due.sc.latch = some { psel := 0, pinv := true, dce := false, dcr := 0 } ∧
      (encode (.add 1 2 3) 0).isSome = true ∧
      pfxIllegal (.add 1 2 3) { psel := 0, pinv := true, dce := false, dcr := 0 } = false ∧
      (prefixed true false 0).due.sc.pred 0 = true) := by
  decide +kernel
/-- The lone hart with the checking scoreboard on and a MUL result for x5 two cycles away. -/
def pending : State :=
  with0 fun t => { t with csr := { t.csr with schk := true }, sc := { t.sc with fixed := [{ rd := 5, value := 1, ready := 2 }] } }
theorem test_meets_stall :
    pending.cur = .hart 0 ∧ pending.due.sc.latch = none ∧ (pending.hart 0).csr.schk = true ∧
    pending.due.stalled (.add 1 2 5) = some 5 := by
  decide +kernel
/-- A word whose source stands on the board is not eligible; nor is one that writes the register of a query. -/
theorem test_meets_waits :
    (with0 fun t => { t with sc := { t.sc with board := [{ rd := 2, value := 0, ready := 99 }] } }).due.waits (.add 1 2 3) = true ∧
    (with0 fun t => { t with sc := { t.sc with board := [{ rd := 1, value := 0, ready := 99, kind := .query }] } }).due.waits (.add 1 2 3) = true := by
  decide +kernel
/-- A hart with a handler, and one with none. -/
def handled : State := with0 fun t => { t with csr := { t.csr with tvec := 0x4000 } }
theorem test_meets_traps :
    ((handled.hart 0).csr.inh = false ∧ (handled.hart 0).csr.tvec ≠ 0) ∧ (alone.hart 0).csr.tvec = 0 := by decide +kernel
theorem test_meets_returns : alone.cur = .hart 0 ∧ alone.Ready .tret ∧ alone.Ready .scall ∧ alone.Ready .brk := by
  and_intros <;> first | exact .of_check (by decide +kernel) | decide +kernel

/-! ## Words that run, with values that the manual gives -/

/-- 04 R99: div x3, x4, x0 with x4 = -9 writes -2^63, rem writes -9. -/
theorem test_div_by_zero :
    ((after (.div 3 4 0) (regs [(4, -9)])).sc.board.map fun p => (p.rd, p.value)) = [(3, BitVec.intMin 64)] ∧
    ((after (.rem 3 4 0) (regs [(4, -9)])).sc.board.map fun p => (p.rd, p.value)) = [(3, -9)] := by decide +kernel
/-- 04 R100: andi xd, xa, -8 clears bits 2 to 0; sltiu xd, xa, -1 writes 1 unless xa is all ones. -/
theorem test_immediates :
    (after (.andi 3 4 (-8)) (regs [(4, 0xFF)])).regAt 3 1 = 0xF8 ∧
    (after (.sltiu 3 4 (-1)) (regs [(4, 0xFF)])).regAt 3 1 = 1 ∧ (after (.sltiu 3 4 (-1)) (regs [(4, -1)])).regAt 3 1 = 0 := by
  decide +kernel
/-- 04 R102: lih x7, 0x91A3 gives 0x1234_6000, and addi x7, x7, -2440 then 0x1234_5678. -/
theorem test_constants :
    (after (.lih 7 0x91A3) alone).regAt 7 1 = 0x12346000 ∧
    (after (.addi 7 7 (-2440)) (regs [(7, 0x12346000)])).regAt 7 1 = 0x12345678 := by decide +kernel
/-- 04 R99: SLL ignores bits 63 to 6 of its amount, CSEL tests its old destination, CLZ of 0 is 64, BREV reverses. -/
theorem test_alu_corners :
    (after (.sll 3 4 5) (regs [(4, 1), (5, 65)])).regAt 3 1 = 2 ∧
    (after (.csel 3 4 5) (regs [(3, 1), (4, 7), (5, 9)])).regAt 3 1 = 7 ∧ (after (.csel 0 4 5) (regs [(4, 7)])).regAt 0 1 = 0 ∧
    (after (.clz 3 4) alone).regAt 3 1 = 64 ∧ (after (.brev 3 4) (regs [(4, 1)])).regAt 3 1 = BitVec.intMin 64 := by
  decide +kernel
/-- 03 R83, 01 R45: a trap writes the pending result before the handler starts, and saves the address and the cause. -/
theorem test_trap_entry :
    let t := handled.modHart 0 fun t => { t with sc := { t.sc with fixed := [{ rd := 5, value := 1, ready := 2 }] } }
    let u := (after .brk t).hart 0
    u.sc.pc = 0x4000 ∧ u.csr.tepc = 0x1004 ∧ u.csr.tval = 0x1000 ∧ u.csr.tcause = 0x11 ∧ u.sc.x[5] = 1 ∧ u.csr.inh = true := by
  decide +kernel
/-- 04 R111: LB extends the sign, LBU does not; the bytes stand lowest first. -/
theorem test_load_bytes :
    ((after (.lh 3 4 0) (regs [(4, 0x1000)] |>.homeStore 0 0x1000 [some 0x80, some 0xFF])).sc.board.map fun p => p.value) =
      [0xFFFFFFFFFFFFFF80] ∧
    ((after (.lhu 3 4 0) (regs [(4, 0x1000)] |>.homeStore 0 0x1000 [some 0x80, some 0xFF])).sc.board.map fun p => p.value) =
      [0xFF80] := by decide +kernel

end Sys2Proof.Tests

namespace Sys2Proof.Tests

/-! ## Fields, rows and transfers -/

/-- `Claims.fieldsFit` as a check. -/
def fitCheck (t : Hart) : List VReg → Bool
  | [] => true
  | v :: vs =>
    let d := t.field v
    (d.width != 0 && d.natural && decide (d.base.toNat + d.width.toNat ≤ t.cols)) &&
    vs.all (fun u => let c := t.field u
      !(decide (d.base.toNat < c.base.toNat + c.width.toNat) && decide (c.base.toNat < d.base.toNat + d.width.toNat)) ||
        (c.base == d.base && c.width == d.width)) && fitCheck t vs
theorem fit_of_check {t : Hart} {l : List VReg} (h : fitCheck t l = true) : Claims.fieldsFit t l := by
  induction l with
  | nil => trivial
  | cons v vs ih =>
    simp only [fitCheck, Bool.and_eq_true, decide_eq_true_eq, bne_iff_ne, ne_eq, List.all_eq_true, Bool.or_eq_true,
      Bool.not_eq_true', Bool.and_eq_false_iff, decide_eq_false_iff_not, beq_iff_eq] at h
    obtain ⟨⟨⟨⟨h1, h2⟩, h3⟩, h4⟩, h5⟩ := h
    refine ⟨⟨h1, h2, h3⟩, ?_, ih h5⟩
    intro u hu c a b
    rcases h4 u hu with (h | h) | h
    · exact absurd a h
    · exact absurd b h
    · exact h
/-- `Claims.operandsFit` as a check. -/
def operandsCheck (s : State) (d : VReg) (l : List VReg) : Bool :=
  fitCheck s.self (d :: (s.copyField.toList ++ l)) &&
  (match s.copyField with
   | none => true
   | some c => (s.self.field c).type == (s.self.field d).type && (s.self.field c).width == (s.self.field d).width)
theorem operands_of_check {s : State} {d : VReg} {l : List VReg} (h : operandsCheck s d l = true) : Claims.operandsFit s d l := by
  simp only [operandsCheck, Bool.and_eq_true] at h
  refine ⟨fit_of_check h.1, ?_⟩
  intro c hc
  rw [hc] at h
  simpa using h.2

/-- A hart with v1 to v3 of 8 bits and type n, v4 of f4b, v5 a 16-bit scale pair, v6 of FP16, v7 of 32 bits and type s; x5 = 3,
and the registers given. -/
def fielded (l : List (Nat × Dword) := []) : State :=
  (regs ((5, 3) :: l)).modHart 0 fun t => { t with
    cols := 128
    fields := t.fields |>.set 1 ⟨0, 8, 1⟩ |>.set 2 ⟨8, 8, 1⟩ |>.set 3 ⟨16, 8, 1⟩ |>.set 4 ⟨24, 4, 7⟩ |>.set 5 ⟨28, 16, 1⟩
      |>.set 6 ⟨44, 16, 3⟩ |>.set 7 ⟨60, 32, 0⟩ |>.set 8 ⟨92, 16, 3⟩ }
/-- The same with rowbase at 16,381, so that three rows reach the last one and four go beyond. -/
def topRows (l : List (Nat × Dword) := []) : State :=
  (fielded l).modHart 0 fun t => { t with csr := { t.csr with rowbase := 16381 } }

theorem test_meets_row_words :
    (fielded [(5, 0)]).Ready (.vadd 3 1 2 5 0) ∧
    ((topRows).Ready (.vadd 3 1 2 5 0) ∧ Claims.operandsFit (topRows).due 3 [1, 2] ∧
      ((Claims.rowOp (.vadd 3 1 2 5 0) (topRows).due).map fun w => (w.dest, w.sources, w.admits, w.passes)) = some (3, [1, 2], true, 33) ∧
      ((topRows).hart 0).csr.rowbase.toNat + 3 = 16384) ∧
    ((topRows [(5, 4)]).Ready (.vadd 3 1 2 5 0) ∧ Claims.operandsFit (topRows [(5, 4)]).due 3 [1, 2]) ∧
    ((fielded).Ready (.vadd 9 1 2 5 0) ∧ ((fielded).hart 0).field 9 = { base := 0, width := 0, type := 0 }) := by
  refine ⟨?_, ⟨?_, ?_, ?_, ?_⟩, ⟨?_, ?_⟩, ?_, ?_⟩
  all_goals first
    | exact State.Ready.of_check (by decide +kernel)
    | exact operands_of_check (by decide +kernel)
    | decide +kernel
/-- VCVT from f4b with its scale pair, from n to FP16 without one, and the latter with a register named. -/
theorem test_meets_conversions :
    ((fielded).Ready (.vcvt 6 4 5 5 0) ∧ Claims.operandsFit (fielded).due 6 [4, 5] ∧
      (Claims.convertOp 6 4 5 5 0 (fielded).due).admits = true ∧ (Claims.convertOp 6 4 5 5 0 (fielded).due).sources = [4, 5]) ∧
    ((fielded).Ready (.vcvt 6 1 0 5 0) ∧ Claims.operandsFit (fielded).due 6 [1] ∧
      (Claims.convertOp 6 1 0 5 0 (fielded).due).admits = true) ∧
    ((fielded).Ready (.vcvt 6 1 5 5 0) ∧ Claims.typ (fielded).due 1 = 1 ∧ Claims.typ (fielded).due 6 = 3) := by
  refine ⟨⟨?_, ?_, ?_, ?_⟩, ⟨?_, ?_, ?_⟩, ?_, ?_, ?_⟩
  all_goals first
    | exact State.Ready.of_check (by decide +kernel)
    | exact operands_of_check (by decide +kernel)
    | decide +kernel
theorem test_meets_vdef : alone.Ready (.vdef 3 40 12 1) ∧ alone.Ready (.vundef 3) :=
  ⟨.of_check (by decide +kernel), .of_check (by decide +kernel)⟩
theorem test_meets_tag_words :
    (fielded [(5, 0)]).Ready (.tset 1 5) ∧ (topRows).Ready (.tand 1 2 3 5) ∧ (topRows [(5, 4)]).Ready (.tand 1 2 3 5) ∧
    ((Claims.tagOp (.tand 1 2 3 5) (topRows).due).map fun w => (w.1, w.2.1)) = some (1, 5) ∧ (topRows).Ready (.valt 1 5) ∧
    (topRows).Ready (.vtagf 1 5 0) ∧ Claims.fieldsFit ((topRows).hart 0) [1] := by
  and_intros
  all_goals first
    | exact State.Ready.of_check (by decide +kernel)
    | exact fit_of_check (by decide +kernel)
    | decide +kernel
theorem test_meets_compares :
    (fielded [(5, 0)]).Ready (.eq 1 0 1 2 5 0) ∧
    (topRows).Ready (.lt 1 3 1 2 5 1) ∧ Claims.fieldsFit ((topRows).hart 0) [1, 2] ∧
    ((Claims.compareOp (.lt 1 3 1 2 5 1) (topRows).due).map fun w => (w.sources, w.admits, w.passes)) = some ([1, 2], true, 17) := by
  refine ⟨?_, ?_, ?_, ?_⟩
  all_goals first
    | exact State.Ready.of_check (by decide +kernel)
    | exact fit_of_check (by decide +kernel)
    | decide +kernel
/-- VCOUNT of no rows, VTOPK with k above 8,192 and at it, VREDSUM. -/
theorem test_meets_queries :
    (fielded [(5, 0)]).Ready (.vcount 8 1 5) ∧ (topRows [(9, 8193)]).Ready (.vtopk 9 1 1 5) ∧ (topRows [(9, 8192)]).Ready (.vtopk 9 1 1 5) ∧
    (topRows).Ready (.vredsum 9 1 1 5) ∧ Claims.fieldsFit ((topRows).hart 0) [1] ∧
    ((Claims.queryOp (.vtopk 9 1 1 5) (topRows [(9, 8193)]).due).map fun w => (w.admits, w.late)) = some (true, some 8193) ∧
    ((Claims.queryOp (.vtopk 9 1 1 5) (topRows [(9, 8192)]).due).map fun w => (w.late, w.narrowed.isSome)) = some (none, true) ∧
    ((Claims.queryOp (.vredsum 9 1 1 5) (topRows).due).map fun w => (w.admits, w.narrowed.isSome)) = some (true, false) := by
  refine ⟨?_, ?_, ?_, ?_, ?_, ?_, ?_, ?_⟩
  all_goals first
    | exact State.Ready.of_check (by decide +kernel)
    | exact fit_of_check (by decide +kernel)
    | decide +kernel
theorem test_meets_scans_and_moves :
    (fielded [(5, 0)]).Ready (.vscanadd 7 1 5 0) ∧ (topRows).Ready (.vscanadd 7 1 5 0) ∧ Claims.operandsFit (topRows).due 7 [1] ∧
    ((Claims.scanOp (.vscanadd 7 1 5 0) (topRows).due).map fun w => (w.admits, w.passes)) = some (true, 262) ∧
    (topRows).Ready (.vrowsh 3 1 5 0) ∧ Claims.operandsFit (topRows).due 3 [1] ∧
    ((Claims.moveOp (.vrowsh 3 1 5 0) (topRows).due).map fun w => (w.admits, w.passes)) = some (true, 18) ∧
    (topRows).Ready (.vtlu 3 1 1 5 0) ∧
    ((Claims.moveOp (.vtlu 3 1 1 5 0) (topRows).due).map fun w => (w.admits, w.passes)) = some (true, 2) := by
  refine ⟨?_, ?_, ?_, ?_, ?_, ?_, ?_, ?_, ?_⟩
  all_goals first
    | exact State.Ready.of_check (by decide +kernel)
    | exact operands_of_check (by decide +kernel)
    | decide +kernel

/-- VLDA of no rows, of rows beyond 16,384, misaligned VLDX, VSTADD in a strip, and a load and a store whose check phase passes. -/
theorem test_meets_transfers :
    (fielded [(5, 0)]).Ready (.vlda 1 20 5 0) ∧
    ((topRows [(5, 4)]).Ready (.vlda 1 20 5 0) ∧ Claims.fieldsFit ((topRows [(5, 4)]).hart 0) [1]) ∧
    (((fielded).modHart 0 fun t => { t with strip := some 0 }).Ready (.vstadd 1 2 20 5 0) ∧
      Claims.fieldsFit ((fielded).hart 0) [1, 2] ∧ Claims.transferAdmits (fielded).due .addX 1 (some 2) = true) ∧
    ((fielded [(20, 0x1002)]).Ready (.vsta 7 20 5 0) ∧
      Claims.elementsAligned (Claims.queuedAs (fielded [(20, 0x1002)]).due .store 7 none 20 5 false) = false) ∧
    ((fielded [(20, 0x1FFFFD)]).Ready (.vlda 1 20 5 0) ∧ Claims.transferAdmits (fielded).due .load 1 none = true) := by
  refine ⟨?_, ⟨?_, ?_⟩, ⟨?_, ?_, ?_⟩, ⟨?_, ?_⟩, ?_, ?_⟩
  all_goals first
    | exact State.Ready.of_check (by decide +kernel)
    | exact fit_of_check (by decide +kernel)
    | decide +kernel
/-- Whether a check phase finds nothing, and memory holds no poison after it. -/
def passes (p : Option Miss × State) : Bool := p.1 == none && p.2.poison.isEmpty
theorem passes_iff {p : Option Miss × State} (h : passes p = true) : p = (none, p.2) ∧ p.2.poison = [] := by
  obtain ⟨m, u⟩ := p
  simp only [passes, Bool.and_eq_true, beq_iff_eq, List.isEmpty_iff] at h
  exact ⟨by rw [h.1], h.2⟩
/-- The same, and of A-space. -/
def passes2 (p : Option Miss × State) : Bool := p.1 == none && p.2.poison.isEmpty && p.2.rowPoison.isEmpty
theorem passes2_iff {p : Option Miss × State} (h : passes2 p = true) : p = (none, p.2) ∧ p.2.poison = [] ∧ p.2.rowPoison = [] := by
  obtain ⟨m, u⟩ := p
  simp only [passes2, Bool.and_eq_true, beq_iff_eq, List.isEmpty_iff] at h
  exact ⟨by rw [h.1.1], h.1.2, h.2⟩
/-- Whether the check phase of an indexed form over some rows gets its window and passes. -/
def windowed (s : State) (x : Transfer) (use : Access) (lax strip : Bool) (l : List (Nat × Dword)) : Bool :=
  match s.window (clusterOfHart s.me) (windowUser s.me) (min 32 (s.rowCycles s.me x.rows)) with
  | some w => w.poison.isEmpty && w.rowPoison.isEmpty && passes2 (w.checkRows (s.hartReach s.me .vector) x use lax strip l)
  | none => false
theorem windowed_iff {s : State} {x : Transfer} {use : Access} {lax strip : Bool} {l : List (Nat × Dword)} (h : windowed s x use lax strip l = true) :
    ∃ w u : State, s.window (clusterOfHart s.me) (windowUser s.me) (min 32 (s.rowCycles s.me x.rows)) = some w ∧ w.poison = [] ∧ w.rowPoison = [] ∧
      (u.poison = [] ∧ u.rowPoison = []) ∧ w.checkRows (s.hartReach s.me .vector) x use lax strip l = (none, u) := by
  unfold windowed at h
  split at h
  · simp only [Bool.and_eq_true, List.isEmpty_iff] at h
    exact ⟨_, _, ‹_›, h.1.1, h.1.2, (passes2_iff h.2).2, (passes2_iff h.2).1⟩
  · exact absurd h (by decide)
/-- Whether a VFILL reads a format byte and its check phase passes. -/
def filled (s : State) (va : Dword) (x : Transfer) : Bool :=
  match (s.hartLoad s.me .vector va 1 x.maker).clean va with
  | .ok [f] w => decide (f.toNat ≤ 2) && passes2 (w.checkAccess (s.hartReach s.me .vector) .load false false va 1
      (1 + imageLength x.desc.width.toNat x.rows f.toNat))
  | _ => false
theorem filled_iff {s : State} {va : Dword} {x : Transfer} (h : filled s va x = true) :
    ∃ f w u, (s.hartLoad s.me .vector va 1 x.maker).clean va = .ok [f] w ∧ f.toNat ≤ 2 ∧
      w.checkAccess (s.hartReach s.me .vector) .load false false va 1 (1 + imageLength x.desc.width.toNat x.rows f.toNat) = (none, u) ∧
      (u.poison = [] ∧ u.rowPoison = []) := by
  unfold filled at h
  split at h
  · simp only [Bool.and_eq_true, decide_eq_true_eq] at h
    exact ⟨_, _, _, ‹_›, h.1, (passes2_iff h.2).1, (passes2_iff h.2).2⟩
  · exact absurd h (by decide)
/-- Checks that pass: of a load up to the end of the mapped page, of a store, of an indexed load, of a VFILL; and the TLOADs. -/
theorem test_meets_transfer_checks :
    (∃ u y, Claims.checksPass (fielded [(20, 0x1FFFFD)]).due u (Claims.queuedAs (fielded [(20, 0x1FFFFD)]).due .load 1 none 20 5 false) y) ∧
    (∃ u y, Claims.checksPass (fielded [(20, 0x1000)]).due u (Claims.queuedAs (fielded [(20, 0x1000)]).due .store 1 none 20 5 false) y) ∧
    (∃ u y, Claims.checksPass (fielded [(20, 0x1000)]).due u (Claims.queuedAs (fielded [(20, 0x1000)]).due .loadX 1 (some 2) 20 5 false) y) ∧
    (∃ u y, Claims.checksPass (fielded [(20, 0x1000)]).due u (Claims.queuedAs (fielded [(20, 0x1000)]).due .fill 1 none 20 5 false) y) ∧
    (∃ u : State, (fielded [(20, 0x1FFE00)]).due.checkAccess ((fielded [(20, 0x1FFE00)]).due.hartReach 0 .vector) .load false false 0x1FFE00 1 512
      = (none, u) ∧ u.poison = [] ∧ u.rowPoison = []) ∧
    (fielded [(20, 0x1FFE00)]).Ready (.tload 1 20) ∧ (fielded [(20, 0x1FFE20)]).Ready (.tload 1 20) := by
  refine ⟨?_, ?_, ?_, ?_, ?_, ?_, ?_⟩
  · have h : passes2 ((fielded [(20, 0x1FFFFD)]).due.checkAccess ((fielded [(20, 0x1FFFFD)]).due.hartReach 0 .vector) .load false false
        0x1FFFFD 1 3) = true := by decide +kernel
    exact ⟨_, _, ⟨by decide +kernel, by decide +kernel, (passes2_iff h).2⟩, rfl, (passes2_iff h).1⟩
  · have h : passes2 ((fielded [(20, 0x1000)]).due.checkAccess ((fielded [(20, 0x1000)]).due.hartReach 0 .vector) .store true false
        0x1000 1 3) = true := by decide +kernel
    exact ⟨_, _, ⟨by decide +kernel, by decide +kernel, (passes2_iff h).2⟩, rfl, (passes2_iff h).1⟩
  · have h : windowed (fielded [(20, 0x1000)]).due (Claims.queuedAs (fielded [(20, 0x1000)]).due .loadX 1 (some 2) 20 5 false)
        .load false false ((List.range 3).map fun i => (i, Claims.indexedAddress (fielded [(20, 0x1000)]).due
          (Claims.queuedAs (fielded [(20, 0x1000)]).due .loadX 1 (some 2) 20 5 false) i)) = true := by decide +kernel
    obtain ⟨w, u, hw, p, q, r, e⟩ := windowed_iff h
    exact ⟨u, _, ⟨by decide +kernel, by decide +kernel, r⟩, rfl, w, hw, p, q, e⟩
  · have h : filled (fielded [(20, 0x1000)]).due 0x1000 (Claims.queuedAs (fielded [(20, 0x1000)]).due .fill 1 none 20 5 false) = true := by
      decide +kernel
    obtain ⟨f, w, u, h1, h2, h3, h4⟩ := filled_iff h
    exact ⟨u, _, ⟨by decide +kernel, by decide +kernel, h4⟩, by decide +kernel, by decide +kernel, by decide +kernel, f, w, h1, h2, h3, rfl⟩
  · have h : passes2 ((fielded [(20, 0x1FFE00)]).due.checkAccess ((fielded [(20, 0x1FFE00)]).due.hartReach 0 .vector) .load false false
        0x1FFE00 1 512) = true := by decide +kernel
    exact ⟨_, (passes2_iff h).1, (passes2_iff h).2⟩
  · exact State.Ready.of_check (by decide +kernel)
  · exact State.Ready.of_check (by decide +kernel)

/-- The lone hart with one transfer queued. -/
def queued (x : Transfer) : State := with0 fun t => { t with vmem := [x] }
/-- Three bytes to load into v1 from 0x1000. -/
def someLoad (ready : Nat) : Transfer := { kind := .load, desc := ⟨0, 8, 1⟩, row0 := 0, rows := 3, addr := 0x1000, ready := ready }
/-- The same with its three rows read, so that they land; a scalar load at the head of qd, mapped and not; a table that has been read. -/
def readRows : Transfer := { someLoad 0 with pos := 3, values := [(2, 0x1002, 9), (1, 0x1001, 8), (0, 0x1000, 7)] }
def aLoad : Transfer := { kind := .ld, addr := 0x1FFFF8, word := some (.ld 1 2 0) }
def farLoad : Transfer := { aLoad with addr := 0x200000 }
def readTable : Transfer := { kind := .table, addr := 0x1000, rows := 1, got := List.replicate 512 0 }
/-- Whether an access ends with a value and leaves a side log with room. -/
def small {α : Type} : Acc α → Bool
  | .ok _ t => decide ((t.hart 0).sideLog.length ≤ 64)
  | _ => false
theorem done_small {α : Type} {r : Acc α} (h : small r = true) : ∃ (v : α) (t : State), r = .ok v t ∧ (t.hart 0).sideLog.length ≤ 64 := by
  cases r with
  | ok v t => exact ⟨v, t, rfl, by simpa [small] using h⟩
  | miss m t => simp [small] at h
  | wait => simp [small] at h
theorem test_meets_queue_moves :
    (alone.hart 0).vmem = [] ∧
    ((queued (someLoad 1)).hart 0).vmem = [someLoad 1] ∧
    (∃ (x : Transfer) (u : State), (queued readRows).moveTransfer 0 readRows = .ok x u ∧ (u.hart 0).sideLog.length ≤ 64) ∧
    (∃ (v : Unit) (u : State), (queued aLoad).directStep 0 (.ld 1 2 0) aLoad = .ok v u ∧ (u.hart 0).sideLog.length ≤ 64) ∧
    (∃ (m : Miss) (u : State), (queued farLoad).directStep 0 (.ld 1 2 0) farLoad = .miss m u) ∧
    (readTable.kind = .table ∧ readTable.rows = 1 ∧ readTable.pos = 0 ∧ readTable.got.length = 512) := by
  refine ⟨?_, ?_, ?_, ?_, ?_, ?_⟩
  · decide +kernel
  · decide +kernel
  · exact done_small (by decide +kernel)
  · exact done_small (by decide +kernel)
  · exact missed_miss (by decide +kernel)
  · decide +kernel
/-- Whether a read ends with n bytes that are not poisoned. -/
def reads (n : Nat) : Acc Got → Bool
  | .ok g _ => g.poisoned == none && g.bytes.length == n
  | _ => false
theorem got_ok {n : Nat} {r : Acc Got} (h : reads n r = true) :
    ∃ (g : Got) (t : State), r = .ok g t ∧ g.poisoned = none ∧ g.bytes.length = n := by
  cases r with
  | ok g t => simp only [reads, Bool.and_eq_true, beq_iff_eq] at h; exact ⟨g, t, rfl, h.1, h.2⟩
  | miss m t => simp [reads] at h
  | wait => simp [reads] at h
/-- Transfers of one row of bytes, of the second nibble of a byte, of the last byte of a 3-byte element, of a scale pair, of an indexed row,
and a store of it. -/
def rowLoad : Transfer := someLoad 0
def nibbleLoad : Transfer := { someLoad 0 with desc := ⟨24, 4, 7⟩, pos := 1 }
def longLoad : Transfer := { someLoad 0 with desc := ⟨0, 24, 1⟩, pos := 2, got := [1, 2] }
def pairLoad : Transfer := { someLoad 0 with kind := .scale, desc := ⟨28, 16, 1⟩ }
def indexLoad : Transfer := { someLoad 0 with kind := .loadX, index := ⟨8, 8, 1⟩, addrs := [(0, 0x1000)] }
theorem test_meets_row_images :
    (alone.tag 0 0 3 = false ∧ alone.tgv 0 3 = true) ∧
    (∃ (g : Got) (u : State), alone.hartLoad 0 .vector 0x1000 1 rowLoad.maker = .ok g u ∧ g.poisoned = none ∧ g.bytes.length = 1) ∧
    (∃ (g : Got) (u : State), alone.hartLoad 0 .vector 0x1FFFFE 2 pairLoad.maker = .ok g u ∧ g.poisoned = none ∧ g.bytes.length = 2) ∧
    (nibbleLoad.desc.type = 7 ∧ nibbleLoad.pos < nibbleLoad.rows ∧ nibbleLoad.got = []) ∧
    (Claims.elementBytes longLoad.desc = 3 ∧ longLoad.got.length < 3 ∧ longLoad.got ≠ []) ∧
    (pairLoad.desc.type = 1 ∧ pairLoad.desc.width = 16) ∧
    indexLoad.addrs = [(0, Claims.indexedAddress (queued indexLoad) indexLoad 0)] := by
  refine ⟨?_, ?_, ?_, ?_, ?_, ?_, ?_⟩
  · decide +kernel
  · exact got_ok (by decide +kernel)
  · exact got_ok (by decide +kernel)
  · decide +kernel
  · decide +kernel
  · decide +kernel
  · decide +kernel
/-- 09 R211: a spill image of values in 8 bits. -/
theorem test_spill_image : fillValues 8 3 (spillImage 8 [7, 7, 9]) = [7, 7, 9] := by decide +kernel

/-- 02 R51, 05: VADD wraps in its width, VADDS clamps and raises SAT. -/
theorem test_row_arithmetic :
    let s := { fielded with rows := [(0, BitVec.ofNat 512 (200 + 100 * 256))] }
    (rowBits ((after (.vadd 3 1 2 5 0) s).row 0 0) 16 8 = 44) ∧ (rowBits ((after (.vadds 3 1 2 5 0) s).row 0 0) 16 8 = 255) ∧
    (((after (.vadds 3 1 2 5 0) s).hart 0).csr.fflags = flagSAT) ∧ (((after (.vadd 3 1 2 5 0) s).hart 0).csr.fflags = 0) := by
  decide +kernel
/-- 02 R52: the table of s8 divisions: 100 / 0 = 127, -7 / 2 = -3. -/
theorem test_row_division :
    let s := ({ fielded with rows := [(0, BitVec.ofNat 512 (100)), (1, BitVec.ofNat 512 (249 + 2 * 256))] } : State).modHart 0 fun t =>
      { t with fields := t.fields |>.set 1 ⟨0, 8, 0⟩ |>.set 2 ⟨8, 8, 0⟩ |>.set 3 ⟨16, 8, 0⟩ }
    rowBits ((after (.vdiv 3 1 2 5 0) s).row 0 0) 16 8 = 127 ∧ rowBits ((after (.vdiv 3 1 2 5 0) s).row 0 1) 16 8 = 253 ∧
    rowBits ((after (.vrem 3 1 2 5 0) s).row 0 1) 16 8 = 255 := by
  decide +kernel

end Sys2Proof.Tests

namespace Sys2Proof.Tests

/-! ## Streams, atomics, fences, strips, buffers -/

/-- A number stored in n bytes at an address of the 2 MiB block. -/
def put (s : State) (a n v : Nat) : State := s.homeStore 0 a ((bytesOfBits (BitVec.ofNat 64 v) n).map some)
/-- The lone hart with a binding record at 0x2000, which x8 names: an address, rows and blocks, direction and form. -/
def record (addr rows blocks : Nat) (dir form : Nat := 0) : State :=
  put (put (put (put (put (fielded [(8, 0x2000), (9, 5)]) 0x2000 8 addr) 0x2008 4 rows) 0x200C 4 blocks) 0x2010 8 64) 0x2018 8 (dir + form * 256)
/-- The bytes of a load that completes. -/
def bytesOf : Acc (List Byte) → List Byte
  | .ok bs _ => bs
  | _ => []
/-- SBIND with a misaligned record, with one of no rows, with one of 16,384 rows, and with one of scale pairs. -/
theorem test_meets_sbind :
    ((fielded [(8, 0x2004)]).Ready (.sbind 1 1 8) ∧ ((fielded [(8, 0x2004)]).due.hart 0).stream 1 = none) ∧
    ((record 0x3000 0 2).Ready (.sbind 1 1 8) ∧ done ((record 0x3000 0 2).due.load .scalar 0x2000 32) = true ∧
      Claims.bindingAdmitted (bytesOf ((record 0x3000 0 2).due.load .scalar 0x2000 32)) ⟨0, 8, 1⟩ 0 = false) ∧
    ((record 0x3000 16384 1).Ready (.sbind 1 1 8) ∧ Claims.fieldsFit ((fielded).hart 0) [1] ∧
      Claims.bindingAdmitted (bytesOf ((record 0x3000 16384 1).due.load .scalar 0x2000 32)) ⟨0, 8, 1⟩ 0 = true) ∧
    ((record 0x3000 3 2 0 1).Ready (.sbind 1 5 8) ∧ Claims.typ (fielded).due 5 = 1 ∧ Claims.wid (fielded).due 5 = 16 ∧
      Claims.bindingAdmitted (bytesOf ((record 0x3000 3 2 0 1).due.load .scalar 0x2000 32)) ⟨28, 16, 1⟩ 0 = true) := by
  refine ⟨⟨?_, ?_⟩, ⟨?_, ?_, ?_⟩, ⟨?_, ?_, ?_⟩, ?_, ?_, ?_, ?_⟩
  all_goals first
    | exact State.Ready.of_check (by decide +kernel)
    | exact fit_of_check (by decide +kernel)
    | decide +kernel
/-- A hart whose stream 1 holds a load binding of four blocks of three rows. -/
def bound (f : Binding → Binding) : State :=
  (fielded [(9, 5)]).modHart 0 fun t => { t with streams := t.streams.set 1 (some (f
    { record := BitVec.ofNat 256 (0x3000 + 2 ^ 64 * 3 + 2 ^ 96 * 4 + 2 ^ 128 * 64), desc := t.field 1, rowbase := 0 })) }
/-- A block that the engine has begun to check, and one whose rows it has read. -/
def begun (b : Binding) : Binding := Claims.started b 1 0
def blockRead (b : Binding) : Binding :=
  let b := begun b
  { b with block := b.block.map fun x => { x with last := 9, pos := 3, values := [(2, 0x3002, 9), (1, 0x3001, 8), (0, 0x3000, 7)] } }
/-- SWAIT unbound, before block 0, past its last block, on a block that has moved, on one in flight; the other words. -/
theorem test_meets_stream_words :
    (bound id).Ready (.sunb 1) ∧ (bound begun).Ready (.sunb 1) ∧ alone.Ready (.sunb 1) ∧ alone.Ready (.sbar 9) ∧ (bound id).Ready (.sbar 9) ∧
    alone.Ready (.swait 1) ∧ (bound id).Ready (.swait 1) ∧ (bound begun).Ready (.swait 1) ∧
    ((bound fun b => { begun b with block := none, moved := 1 }).Ready (.swait 1)) ∧
    ((bound fun b => { begun b with block := none, moved := 4, waits := 4, started := 4 }).Ready (.swait 1)) ∧
    (alone.Ready (.sstat 3 1)) ∧ (bound begun).Ready (.sstat 3 1) := by
  and_intros <;> exact State.Ready.of_check (by decide +kernel)
/-- Whether the block of stream 1 of a lone hart is checked without a miss, or with one, or moves. -/
def blockFate (s : State) : Option (Bool × Bool) :=
  (((s.hart 0).stream 1).bind Binding.block).map fun x =>
    ((s.blockCheck 0 x).1.isNone, small (s.moveTransfer 0 x) && !(s.hart 0).keptBack x.owner x.stream x.plainLoad && decide (x.ready ≤ s.now))
theorem test_meets_stream_block :
    (blockFate (bound begun)).map Prod.fst = some true ∧ (blockFate { bound blockRead with now := 9 }).map Prod.snd = some true ∧
    (blockFate (bound fun b => begun { b with record := b.record + 0x300000 })).map Prod.fst = some false := by decide +kernel

/-- An AMO of 64 bits. -/
def amoAt (va : Dword) : Transfer := { kind := .amo, addr := va, word := some (.amocas 9 3 4 0 1) }
/-- An AMO that is misaligned, one of the host window that the host does not take, one that runs, at once and behind another, one of a page that
is not mapped. -/
theorem test_meets_atomics :
    (regs [(3, 0x3004)]).Ready (.amoadd 9 3 4 0 1) ∧
    ((regs [(3, 2 ^ 51)]).Ready (.amoand 9 3 4 0 1) ∧
      ((regs [(3, 2 ^ 51)]).due.hartReach 0 .scalar).check .update (2 ^ 51) 8 = none) ∧
    ((regs [(3, 0x1FFFF8)]).Ready (.amocas 9 3 4 3 1) ∧ accessFate (regs [(3, 0x1FFFF8)]) (.amocas 9 3 4 0 1) (amoAt 0x1FFFF8) = 0 ∧
      (regs []).hartWaits 0 ((regs []).hartReach 0 .scalar) .update 0x1FFFF8 8 (amoAt 0x1FFFF8).maker = false) ∧
    ((regs [(3, 0x200000)]).Ready (.amocas 9 3 4 0 1) ∧ accessFate (regs [(3, 0x200000)]) (.amocas 9 3 4 0 1) (amoAt 0x200000) = 2) ∧
    accessFate (with0 fun t => { t with vmem := [storeAt 0x1000] }) (.amocas 9 3 4 0 1) (amoAt 0x1000) = 1 ∧
    ((match (alone.translate 0 1 1 0x1FFFF8 .update).1 with
      | .ok t => !t.lost && (alone.poisonAt t.loc 8).isNone && (({ alone with poison := [0x3FFF] } : State).poisonAt t.loc 8).isSome
      | _ => false) = true) := by
  refine ⟨?_, ⟨?_, ?_⟩, ⟨?_, ?_, ?_⟩, ⟨?_, ?_⟩, ?_, ?_⟩
  all_goals first
    | exact State.Ready.of_check (by decide +kernel)
    | decide +kernel
theorem test_meets_folds :
    (regs [(3, 0x3002)]).Ready (.amaxf 3 4) ∧ (regs [(3, 0x1FFFFC)]).Ready (.amaxfRel 3 4) ∧
    (Claims.littleEndian [0, 0, 0x80, 0x3F] = Claims.folded 0 0x3F800000) ∧
    ((regs [(3, 0x200000)]).Ready (.amaxf 3 4) ∧
      ((match ((regs [(3, 0x200000)]).due.translate 0 1 1 0x200000 .update).1 with
        | .error e => e.cause == 6
        | _ => false) = true)) := by
  refine ⟨?_, ?_, ?_, ?_, ?_⟩
  all_goals first
    | exact State.Ready.of_check (by decide +kernel)
    | decide +kernel
theorem test_meets_fences :
    alone.Ready (.rel 0) ∧ alone.Ready (.acq 4) ∧ alone.Ready (.fence 3) ∧ alone.Ready (.strip 9) ∧ alone.Ready .sabort ∧
    alone.Ready .scommit ∧ (with0 fun t => { t with strip := some 9 }).Ready (.strip 9) ∧
    (with0 fun t => { t with strip := some 9 }).Ready .sabort ∧ (with0 fun t => { t with strip := some 9 }).Ready .scommit := by
  and_intros <;> exact State.Ready.of_check (by decide +kernel)
/-- Two bytes stored in a strip. -/
def granule (a : Dword) : Granule := { addr := a, mask := 5, data := 7 }
/-- The granules of a strip, one of them on a page that is not mapped. -/
theorem test_meets_commits :
    (alone.granuleMiss (alone.hartReach 0 .vector) (orderGranules [granule 0x3000])).1 = none ∧
    ((alone.granuleMiss (alone.hartReach 0 .vector) (orderGranules [granule 0x3000, granule 0x300000])).1.isSome = true) := by decide +kernel
/-- An ordering point that is due, one that is not, one that has been settled, and one behind an access. -/
def point (rel : Bool) : OrderPoint := { streams := 511, loads := false, stores := rel, release := if rel then some 3 else none, acquire := none, ready := 0, owner := 5 }
theorem test_meets_points :
    (alone.now < { point true with ready := 9 }.ready) ∧ (alone.hart 0).pointDue alone.now (point true) = true ∧
    done (alone.release 0 3 5) = true ∧
    ((with0 fun t => { t with vmem := [storeAt 0x1000] }).hart 0).pointDue 0 (point true) = false := by decide +kernel
/-- A store on its way, and a granule that drains. -/
theorem test_meets_arrivals :
    (alone.flight = []) ∧ (((after (.sd 1 2 0) (regs [(1, 7), (2, 0x3000)])).flight.map fun f => (f.hart, f.word)) = [(0, 0x600)]) ∧
    done ((with0 id).drainGranule 0 (granule 0x3000)) = true := by decide +kernel
/-- A circular buffer of three slots, one free, one filled and one held. -/
def buffer : CircBuf := { base := 0x8000, slotSize := 64, slots := 3, ctx := 1, free := 1, filled := 1, hp := 1, pidx := 2, cidx := 1 }
/-- The lone hart with buffer 2 defined. -/
def buffered (b : CircBuf) (l : List (Nat × Dword) := []) : State := (regs l).setBuffer 0 2 b
theorem test_meets_buffers :
    alone.Ready (.cbput 2) ∧ (buffered { buffer with ctx := 2 }).Ready (.cbstat 3 2) ∧ (buffered buffer).Ready (.cbget 3 2) ∧
    (buffered buffer).Ready (.cbpop 3 2) ∧ (buffered { buffer with free := 3, filled := 0 } [(9, 3)]).Ready (.cbgetn 3 2 9) ∧
    (buffered buffer [(9, 4)]).Ready (.cbpopn 3 2 9) ∧ (buffered buffer).Ready (.cbput 2) ∧ (buffered buffer).Ready (.cbrel 2) ∧
    ((buffered { buffer with hc := 1 }).Ready (.cbrel 2) ∧ done ((buffered { buffer with hc := 1 }).due.release 0 1 0) = true) ∧
    (buffered buffer).Ready (.cbstat 3 2) := by
  refine ⟨?_, ?_, ?_, ?_, ?_, ?_, ?_, ?_, ⟨?_, ?_⟩, ?_⟩
  all_goals first
    | exact State.Ready.of_check (by decide +kernel)
    | decide +kernel
/-- A record of 1,024 slots of 1 MiB, and one of 1,025 slots. -/
theorem test_meets_cbdef :
    ((put (put (put (regs [(8, 0x2000)]) 0x2000 8 0x8000) 0x2008 4 (2 ^ 20)) 0x200C 4 1024).Ready (.cbdef 2 8)) ∧
    bytesOf ((put (put (put (regs [(8, 0x2000)]) 0x2000 8 0x8000) 0x2008 4 (2 ^ 20)) 0x200C 4 1024).due.load .scalar 0x2000 16) =
      [0, 0x80, 0, 0, 0, 0, 0, 0, 0, 0, 0x10, 0, 0, 4, 0, 0] ∧
    (alone.due.hartReach 0 .vector).check .load 0x8000 (2 ^ 30) = none ∧
    ((put (put (put (regs [(8, 0x2000)]) 0x2000 8 0x8000) 0x2008 4 64) 0x200C 4 1025).Ready (.cbdef 2 8)) := by
  refine ⟨?_, ?_, ?_, ?_⟩
  all_goals first
    | exact State.Ready.of_check (by decide +kernel)
    | decide +kernel

/-- 10 R244: a fold of 1.0 into a word of 0 leaves 1.0; 10 R242: an AMO of 32 bits adds and returns the old value, extended. -/
theorem test_atomics :
    (after (.amaxf 3 4) (regs [(3, 0x3000), (4, 0x3F800000)])).bytes 0x3000 4 = [0, 0, 0x80, 0x3F] ∧
    (after (.amoadd 9 3 4 0 0) (put (regs [(3, 0x3000), (4, 1)]) 0x3000 4 0xFFFFFFFF)).bytes 0x3000 4 = [0, 0, 0, 0] ∧
    ((after (.amoadd 9 3 4 0 0) (put (regs [(3, 0x3000), (4, 1)]) 0x3000 4 0xFFFFFFFF)).sc.board.map fun p => p.value) = [-1] := by
  decide +kernel
/-- 10 R247: CBGET gives the address of the next slot and moves the index round. -/
theorem test_cbget :
    let t := after (.cbget 3 2) (buffered buffer)
    (t.sc.board.map fun p => p.value) = [0x8080] ∧ ((t.buffer 0 2).map fun b => (b.free, b.hp, b.pidx)) = some (0, 2, 0) := by
  decide +kernel

end Sys2Proof.Tests

namespace Sys2Proof.Tests

/-! ## Control registers, system words, teams, chains -/

/-- A number that the steward owns, one of no register, a read, a write of rmode above 4 and of 4, and a steward's read and
write. -/
theorem test_meets_csr_words :
    alone.Ready (.csrr 5 0x100) ∧ (alone.Ready (.csrr 5 0x0FF) ∧ alone.due.csrRead 0 0x0FF = none) ∧
    (alone.Ready (.csrr 5 0x005) ∧ alone.due.csrRead 0 0x005 = some 0) ∧
    ((regs [(2, 5)]).Ready (.csrw 5 2 0x008) ∧ (regs [(2, 5)]).due.csrRead 0 0x008 = some 0) ∧ (regs [(2, 4)]).Ready (.csrw 5 2 0x008) ∧
    ((steward).Ready (.csrr 5 0x1FF) ∧ (steward).due.stewardCsrRead 0 0x1FF = none) ∧
    ((steward).Ready (.csrr 5 0x101) ∧ (steward [(2, 0x4000)]).Ready (.csrw 5 2 0x101) ∧ (steward).due.stewardCsrRead 0 0x101 = some 0) := by
  refine ⟨?_, ⟨?_, ?_⟩, ⟨?_, ?_⟩, ⟨?_, ?_⟩, ?_, ⟨?_, ?_⟩, ?_, ?_, ?_⟩
  all_goals first
    | exact State.Ready.of_check (by decide +kernel)
    | decide +kernel
theorem test_meets_csr_write_back : alone.csrRead 0 0x005 = some 0 ∧ alone.csrRead 0 0x008 = some 0 ∧ alone.csrRead 0 0x018 = some 0 ∧
    (0 : Dword) &&& 3 = 0 := by decide +kernel
/-- The lone hart waiting in a WFE that issued in cycle 3, in cycle n. -/
def asleep (n : Nat) : State := { (with0 fun t => { t with wait := .wfe 3 }) with now := n }
theorem test_meets_system_words :
    (alone.Ready .wfe ∧ (alone.due.hart 0).eventLatch = false) ∧ (with0 fun t => { t with eventLatch := true }).Ready .wfe ∧
    (((asleep 65538).hart 0).wait = .wfe 3 ∧ (asleep 65538).now < 3 + 65536) ∧
    (((asleep 65539).hart 0).wait = .wfe 3 ∧ 3 + 65536 ≤ (asleep 65539).now) ∧ alone.Ready .yield ∧ alone.Ready .exit ∧
    (with0 fun t => { t with strip := some 0 }).Ready .exit ∧ done (alone.due.release 0 3 0) = true ∧
    (alone.Ready .snapt ∧ alone.snapshot.armed = true) := by
  refine ⟨⟨?_, ?_⟩, ?_, ⟨?_, ?_⟩, ⟨?_, ?_⟩, ?_, ?_, ?_, ?_, ?_, ?_⟩
  all_goals first
    | exact State.Ready.of_check (by decide +kernel)
    | decide +kernel
/-- The launch of the lone hart with slot 2 declared, drawn to a strip base. -/
def farmed (next : Dword) : State :=
  { alone with launches := alone.launches.modify 0 fun l => { l with farm := [(2, { total := 100, size := 7, next := next })] } }
theorem test_meets_farms :
    (regs [(10, 100), (11, 0)]).Ready (.farm 2 10 11) ∧ (regs [(10, 100), (11, 7)]).Ready (.farm 2 10 11) ∧
    (alone.due.launches.get? 0).isSome = true ∧ alone.Ready (.fnext 5 2) ∧ (farmed 100).Ready (.fnext 5 2) ∧ (farmed 99).Ready (.fnext 5 2) := by
  refine ⟨?_, ?_, ?_, ?_, ?_, ?_⟩
  all_goals first
    | exact State.Ready.of_check (by decide +kernel)
    | decide +kernel
/-- An arrival whose phase broke, one that completes the phase; AWAIT with nothing pending, after the phase, and before. -/
theorem test_meets_rendezvous :
    (with0 fun t => { t with broken := some 2 }).Ready .bar ∧
    (alone.Ready (.xredadd 5 10) ∧ done ((alone.due.modHart 0 fun t => { t with pend := false }).release 0 1 0) = true ∧
      ((alone.team? 0 0).map fun v => (v.arrived, v.live)) = some (0, 1)) ∧
    alone.Ready .await ∧ (with0 fun t => { t with pend := true }).Ready .await ∧
    ((with0 fun t => { t with pend := true }).team? 0 0).map Team.ph = some 0 ∧
    ({ (with0 fun t => { t with pend := true }) with launches := alone.launches.modify 0 fun l =>
        { l with teams := l.teams.map fun v => { v with ph := 1 } } } : State).Ready .await := by
  refine ⟨?_, ⟨?_, ?_, ?_⟩, ?_, ?_, ?_, ?_⟩
  all_goals first
    | exact State.Ready.of_check (by decide +kernel)
    | decide +kernel
/-- An arrival whose release waits for a store, or has waited; waiting words whose phase is open, complete, or broke. -/
theorem test_meets_waiting :
    done ((with0 fun t => { t with ackAt := 2 ^ 40 }).release 0 2 0) = false ∧
    (with0 fun t => { t with wait := .releasing 7 0 }).Ready (.xredadd 5 10) ∧
    (with0 fun t => { t with wait := .arrived, pend := true }).Ready .bar ∧
    (with0 fun t => { t with wait := .arrived, pend := true, outcome := some (12, 0, 2) }).Ready (.xredadd 5 10) ∧
    (with0 fun t => { t with wait := .arrived, pend := true, broken := some 1 }).Ready .await := by
  and_intros <;> first | exact State.Ready.of_check (by decide +kernel) | decide +kernel
/-- Two participants. -/
theorem test_meets_collectives : ([(0, 5, 1), (1, 7, 1)] : List (Nat × Dword × Dword)).map Prod.fst = [0, 1] ∧
    ((treeResults 1 [(0, 5, 1), (1, 7, 1)]).1.find? fun q => q.1 = 0) = some (0, 12) := by decide +kernel
/-- The lone hart with chain 3 bound to its context. -/
def chained (f : Chain → Chain := id) (s : State := alone) : State := s.modChain 0 3 fun q => f { q with ctx := some 1 }
/-- The lone hart with a list of two MARKERs at 0x2000. -/
def markers : State := put (put (put (regs [(8, 0x2000)]) 0x2000 8 0x2040) 0x2008 1 6) 0x2048 1 6
/-- The headers of a list that is read whole. -/
def headers : Acc (List Header) → List Header
  | .ok l _ => l
  | _ => []
theorem test_meets_chains :
    alone.Ready (.cqgo 3) ∧ (alone.chain 0 3).ctx = none ∧
    ((chained id markers).Ready (.cqapp 5 3 8) ∧
      ((headers (readList (fun s a k => s.load .scalar a k) 257 (chained id markers).due 0x2000 [])).map Header.op) = [6, 6]) ∧
    ((chained).Ready (.cqgo 3) ∧ ((chained).chain 0 3).ctx = some ((chained).hart 0).ctx ∧ done ((chained).due.release 0 3 0) = true) := by
  refine ⟨?_, ?_, ⟨?_, ?_⟩, ?_, ?_, ?_⟩
  all_goals first
    | exact State.Ready.of_check (by decide +kernel)
    | decide +kernel
/-- CQWAIT and CQDONE of a number not yet appended, of the last one done, and of one that is done; CQSTAT. -/
theorem test_meets_chain_answers :
    (chained (fun q => { q with appSeq := 7, doneSeq := 7 }) (regs [(8, 8)])).Ready (.cqwait 3 8) ∧
    (chained (fun q => { q with appSeq := 7, doneSeq := 7 }) (regs [(8, 7)])).Ready (.cqwait 3 8) ∧
    (chained (fun q => { q with appSeq := 7, doneSeq := 5 }) (regs [(8, 8)])).Ready (.cqdone 5 3 8) ∧
    (chained (fun q => { q with appSeq := 7, doneSeq := 5 }) (regs [(8, 5)])).Ready (.cqdone 5 3 8) ∧ (chained).Ready (.cqstat 5 3) ∧
    Claims.reached 7 8 = true ∧ Claims.reached 7 7 = true ∧ Claims.reached 8 5 = false := by
  refine ⟨?_, ?_, ?_, ?_, ?_, ?_, ?_, ?_⟩
  all_goals first
    | exact State.Ready.of_check (by decide +kernel)
    | decide +kernel

/-- 12 R279: CQAPP numbers its commands, stores the numbers in the records and returns the last. -/
theorem test_cqapp :
    let t := after (.cqapp 5 3 8) (chained id markers)
    (t.chain 0 3).cmds.map Cmd.seq = [1, 2] ∧ (t.sc.board.map fun p => p.value) = [2] := by decide +kernel
/-- 08 R189: a strip is drawn, and the last one ends at the total. -/
theorem test_fnext :
    ((after (.fnext 5 2) (farmed 98)).sc.board.map fun p => p.value) = [98] ∧
    (((after (.fnext 5 2) (farmed 98)).launches.get? 0).bind fun l => (l.farm.get? 2).map FarmSlot.next) = some 100 := by decide +kernel

end Sys2Proof.Tests

namespace Sys2Proof.Tests

/-! ## The matrix engine, drain slots, the licence -/

/-- A latch of BF16 columns. -/
def bLatch : BLatch := { ctx := 1, bType := 2, aType := 2, image := [] }
/-- The lone hart with a W-space window of 64 KiB and a C-space window of 256 KiB, the licence, latch 1 loaded, a drain program
in slot 3, and a, f, c, n in x10 to x13. -/
def matrix (a f c n : Dword) : State :=
  let s := regs [(10, a), (11, f), (12, c), (13, n)]
  let s : State := { s with launches := s.launches.modify 0 fun l => { l with record := { l.record with wuse := 64, cuse := 256 } } }
  let s := s.modTwin 0 fun t => { t with licence := { t.licence with holder := some (0, 1) } }
  s.modCore 0 fun v =>
    { v with b1 := some bLatch, slots := v.slots.set 3 (some { ctx := 1, words := [0xB800], params := Vector.replicate 32 0, q := 1 }) }
/-- An entry of the queue. -/
def entry : MatEntry := { load := true, ctx := 1, source := .hart 0, team := some (0, 0), latch := 1, addr := 11 * 2 ^ 60 }
/-- The queue of core 0. -/
def lined (l : List MatEntry) (s : State) : State := s.modCore 0 fun v => { v with queue := l }

/-- An unlisted pair of formats; an MLDB out of the window, one that joins the queue, one that finds it full. -/
theorem test_meets_mldb :
    (matrix (11 * 2 ^ 60) 42 0 0).Ready (.mldb 1 10 11) ∧ pairListed 2 5 = false ∧
    ((matrix (11 * 2 ^ 60 + 65536) 18 0 0).Ready (.mldb 1 10 11) ∧
      mldbFault (matrix (11 * 2 ^ 60 + 65536) 18 0 0).due.matrixSelf (11 * 2 ^ 60 + 65536) 18 = some (8, 11 * 2 ^ 60 + 65536)) ∧
    ((matrix (11 * 2 ^ 60) 18 0 0).Ready (.mldb 1 10 11) ∧
      mldbFault (matrix (11 * 2 ^ 60) 18 0 0).due.matrixSelf (11 * 2 ^ 60) 18 = none) ∧
    (lined (List.replicate 8 entry) (matrix (11 * 2 ^ 60) 18 0 0)).Ready (.mldb 1 10 11) := by
  refine ⟨?_, ?_, ⟨?_, ?_⟩, ⟨?_, ?_⟩, ?_⟩
  all_goals first
    | exact State.Ready.of_check (by decide +kernel)
    | decide +kernel
/-- MMA of no rows, of 257, of rows outside C-space, and of a row that passes. -/
theorem test_meets_mma :
    (matrix (10 * 2 ^ 60) 18 (12 * 2 ^ 60) 0).Ready (.mma 1 10 12 13 3 1 1) ∧
    (matrix (10 * 2 ^ 60) 18 (12 * 2 ^ 60) 257).Ready (.mma 1 10 12 13 3 1 1) ∧
    ((matrix (10 * 2 ^ 60) 18 (12 * 2 ^ 60 + 1) 1).Ready (.mma 1 10 12 13 3 1 1) ∧
      (matrix (10 * 2 ^ 60) 18 (12 * 2 ^ 60 + 1) 1).due.mmaFault 0 (matrix (10 * 2 ^ 60) 18 (12 * 2 ^ 60 + 1) 1).due.matrixSelf 1 3
        (10 * 2 ^ 60) (12 * 2 ^ 60 + 1) 1 = some (5, 12 * 2 ^ 60 + 1, 1)) ∧
    ((matrix (10 * 2 ^ 60) 18 (12 * 2 ^ 60 + 261632) 1).Ready (.mma 1 10 12 13 3 1 1) ∧
      (matrix (10 * 2 ^ 60) 18 (12 * 2 ^ 60 + 261632) 1).due.mmaFault 0 (matrix (10 * 2 ^ 60) 18 (12 * 2 ^ 60 + 261632) 1).due.matrixSelf 1 3
        (10 * 2 ^ 60) (12 * 2 ^ 60 + 261632) 1 = none) := by
  refine ⟨?_, ?_, ⟨?_, ?_⟩, ?_, ?_⟩
  all_goals first
    | exact State.Ready.of_check (by decide +kernel)
    | decide +kernel
/-- MWAIT with an entry of the hart, with none, with an error, and before its time. -/
theorem test_meets_mwait :
    ((lined [entry] alone).Ready .mwait ∧ entry.of 0 ((lined [entry] alone).hart 0) = true) ∧ alone.Ready .mwait ∧
    (with0 fun t => { t with mwaitErr := some (0xA, 3) }).Ready .mwait ∧ (with0 fun t => { t with mwaitFrom := 1 }).Ready .mwait := by
  refine ⟨⟨?_, ?_⟩, ?_, ?_, ?_⟩
  all_goals first
    | exact State.Ready.of_check (by decide +kernel)
    | decide +kernel
/-- An A row to stream, which the licence and the arrays let go. -/
def streaming : MatEntry :=
  { load := false, ctx := 1, source := .hart 0, team := some (0, 0), latch := 1, addr := 10 * 2 ^ 60, bType := 2, aType := 2,
    window := ((0, 65536), (0, 262144)), m := 4, slot := 3 }
/-- A load from A-space at its first row, and one that has read all its rows. -/
def arrayLoad : MatEntry := { entry with addr := 10 * 2 ^ 60 }
def loaded : MatEntry := { arrayLoad with started := true, rowsDone := 32 }
/-- The lone hart beside a fenced cluster. -/
def fencedCluster : State := alone.modCluster 0 fun c => { c with fenced := true }
/-- An MMA that has waited, one that has been sent to core 1, and one whose tile has come back. -/
def waiting : MatEntry := { streaming with migwait := 64 }
def away : MatEntry := { waiting with started := true, migrated := some 1 }
def back : MatEntry := { away with m := 1, rowsDone := 1, tile := [List.replicate 128 0] }
/-- How a micro-word ends: 0 done, 1 it waits, 2 an error. -/
def ends : DrainEnd → Nat
  | .done _ _ => 0
  | .wait => 1
  | _ => 2
/-- The window of cluster 0 that the engine takes for its next row is granted. -/
def grants (s : State) : Bool := (s.window 0 (Agency.unit .matrix) 1).isSome
/-- An empty queue; an MLDB from W-space and from A-space, before its time, at a row to read, at a fenced cluster, and whole; an A
row that may stream, and one at a fenced cluster. -/
theorem test_meets_matrix_engine :
    (alone.core 0).queue = [] ∧
    ((lined [entry] alone).matrixRuns 0 1 = true ∧ entry.ready ≤ alone.now ∧ entry.started = false ∧ selector entry.addr = 11 ∧
      (lined [entry] alone).poisonAt (wLoc 0 0) 32768 = none ∧ alone.now < ({ entry with ready := 2 ^ 40 } : MatEntry).ready) ∧
    ((lined [arrayLoad] alone).matrixRuns 0 1 = true ∧ selector arrayLoad.addr = 10 ∧ arrayLoad.rowsDone < 32 ∧
      ((lined [arrayLoad] alone).cluster 0).fenced = false ∧ grants (lined [arrayLoad] alone) = true ∧ alone.rowPoison = [] ∧
      (fencedCluster.cluster 0).fenced = true) ∧
    (32 ≤ loaded.rowsDone ∧ loaded.started = true ∧ loaded.migrated = none) ∧
    (let s := lined [streaming] (matrix 0 0 0 0)
     s.matrixRuns 0 1 = true ∧ (s.core 0).latch 1 = some bLatch ∧ s.engineLent 0 = false ∧ (s.core 0).frozenMmas = [] ∧
      (s.licence 0).holder = some (0, 1) ∧ (s.licence 0).releasing = false ∧ (s.core 0).streamNext = 0 ∧ streaming.rowsDone < streaming.m ∧
      grants s = true ∧ s.rowPoisoned 0 streaming 0 = none) := by decide +kernel
/-- An MMA that may be sent to core 1, whose licence is free or held; one that is away and has rows to read, and one with its tile back. -/
theorem test_meets_migration :
    let s := lined [waiting] { (matrix 0 0 0 0) with now := 500 }
    waiting.started = false ∧ waiting.migwait ≠ 0 ∧ waiting.issued + waiting.migwait < s.now ∧ waiting.acc = false ∧ waiting.m ≤ 128 ∧
    s.slotNames 0 1 = false ∧ s.matrixRuns 0 1 = true ∧ [1].find? (s.takes 0) = some 1 ∧ (s.licence 1).holder = none ∧
    [1].find? ((s.modTwin (twinOfCore 1) fun t => { t with licence := { t.licence with holder := some (1, 2) } }).takes 0) = some 1 ∧
    (away.migrated = some 1 ∧ away.rowsDone < away.m ∧ grants (lined [away] (matrix 0 0 0 0)) = true ∧
      (lined [away] (matrix 0 0 0 0)).rowPoisoned 0 away 0 = none) ∧
    (back.m ≤ back.rowsDone ∧ back.tile.length = back.m ∧ back.tile ≠ [] ∧ back.lent = false) := by decide +kernel
/-- A row that may begin and runs END; a program whose first word is LDACC, which is done; a row not yet due; an LDROW outside its
spaces, which is an error, and an STROW whose arrays are taken, which waits. -/
theorem test_meets_drain_row :
    let e := { streaming with rowsDone := 1, due := [0], params := Vector.replicate 32 (10 * 2 ^ 60) }
    let s := lined [e] (matrix 0 0 0 0)
    (s.core 0).drainNext = 0 ∧ (s.core 0).fenced = false ∧ (s.core 0).restart.valid = false ∧ e.drained < e.rowsDone ∧
    s.activeCtx 0 = some 1 ∧ ((s.core 0).drainSlot 1 3).map DrainSlot.words = some [0xB800] ∧ (s.core 0).drainRow = none ∧
    microOp (0xB800 : MicroWord) = 0x17 ∧ microOp (0x0000 : MicroWord) ≠ 0x17 ∧
    ends (s.microStep 0 e 0 (e.rowLoc 0 0) {} 0x0000) = 0 ∧ streaming.rowsDone ≤ streaming.drained ∧
    ends (s.microStep 0 e 0 (e.rowLoc 0 0) {} 0x1000) = 2 ∧
    ends ((s.modCluster 0 fun c => { c with arraysFree := 2 ^ 40 }).microStep 0 e 0 (e.rowLoc 0 0) {} 0x8800) = 1 := by decide +kernel
/-- Lane registers of 128 lanes, and an LDACC of a row that is not poisoned. -/
theorem test_meets_lanes : (∀ r : Fin 8, ({} : Lanes).d[r].length = 128) ∧ alone.poisonAt (cLoc 0 0) 512 = none := by decide +kernel
/-- The lone hart with a drain image at 0x2000: two micro-words, END first, and no parameter. -/
def image (len : Nat) : State := put (regs [(10, 0x2000), (11, BitVec.ofNat 64 (3 + len * 2 ^ 16))]) 0x2000 8 0xB800B800
/-- Whether an image is read. -/
def wordsOf : Acc (List MicroWord × Nat × List Dword) → List MicroWord
  | .ok p _ => p.1
  | _ => []
/-- DPLOAD of 1,025 words, from a misaligned address, from A-space, of an image, and of parameters alone; DPINFO. -/
theorem test_meets_dpload :
    (image 1025).Ready (.dpload 5 10 11) ∧ (regs [(10, 0x2002), (11, 3)]).Ready (.dpload 5 10 11) ∧
    (regs [(10, 2 ^ 60), (11, 3)]).Ready (.dpload 5 10 11) ∧ (image 2).Ready (.dpload 5 10 11) ∧
    wordsOf (readImage (fun s a n => s.load .scalar a n) 0x2000 2 (image 2).due) = [0xB800, 0xB800] ∧
    imageBroken [0xB800, 0xB800] 0 = false ∧ (image 0).Ready (.dpload 5 10 11) ∧ alone.Ready (.dpinfo 5 10) ∧
    done (readImage (fun s a n => s.load .scalar a n) 0x2000 0 (put (regs [(10, 0x2000), (11, 3)]) 0x2000 8 0).due) = true := by
  refine ⟨?_, ?_, ?_, ?_, ?_, ?_, ?_, ?_, ?_⟩
  all_goals first
    | exact State.Ready.of_check (by decide +kernel)
    | decide +kernel
/-- A load of slot 3 that waits. -/
def slotLoad : SlotLoad := { slot := 3, program := some { ctx := 1, words := [0xB800], params := Vector.replicate 32 0, q := 0 }, owner := 0, ready := 9 }
/-- A DPLOAD whose slot an older DPLOAD of the hart still loads, and the load for which an MMA of that slot waits. -/
theorem test_meets_loading :
    (((with0 fun t => { t with slotLoads := [slotLoad] }).due.hart 0).slotLoads = [slotLoad] ∧ slotLoad.slot = 3 ∧ slotLoad.program ≠ none) ∧
    ((image 2).modHart 0 fun t => { t with slotLoads := [{ slotLoad with program := none, ready := 2 ^ 40 }] }).Ready (.dpload 5 10 11) := by
  and_intros <;> first | exact State.Ready.of_check (by decide +kernel) | decide +kernel
theorem test_meets_slot_loads : (alone.hart 0).slotLoads = [] ∧
    (((with0 fun t => { t with slotLoads := [slotLoad] }).core (coreOfHart 0)).namesSlot 3 = false) := by decide +kernel
/-- The licence of pair 0 changed, in cycle n. -/
def licensed (n : Nat) (f : Licence → Licence) : State := { (alone.modTwin 0 fun t => { t with licence := f t.licence }) with now := n }
theorem test_meets_licence_words :
    alone.Ready (.mlicAcq 5) ∧ alone.Ready .mlicAcqw ∧ alone.Ready .mlicRel ∧ alone.Ready (.mlicSt 5) ∧
    ((licensed 0 fun l => { l with holder := some (0, 1) }).Ready .mlicAcqw ∧
      ((licensed 0 fun l => { l with holder := some (0, 1) }).due.licence 0).holder = some (coreOfHart 0, (alone.hart 0).ctx)) := by
  refine ⟨?_, ?_, ?_, ?_, ?_, ?_⟩
  all_goals first
    | exact State.Ready.of_check (by decide +kernel)
    | decide +kernel
/-- A result of MLIC.ACQ that is due, of a hart that holds the licence and of one that does not. -/
theorem test_meets_acq :
    let w : PendingWrite := { rd := 5, value := 0, ready := 8, kind := .licence, owner := some 1 }
    let s := licensed 8 fun l => { l with holder := some (0, 1) }
    ((s.modHart 0 fun t => { t with sc := { t.sc with board := [w] } }).acqStep 0).isSome = true ∧
    (s.licence (coreOfHart 0)).holder = some (coreOfHart 0, (s.hart 0).ctx) ∧ w.ready ≤ s.now ∧
    ((licensed 8 id).licence (coreOfHart 0)).holder = none := by decide +kernel
/-- An idle licence; a request of 8 cycles; a gap of 480; a release; a ramp down in cycles 239 and 240, and up in 240 and 479. -/
theorem test_meets_licence_events :
    ((alone.twin 0).licence = { holder := none, requests := [], releasing := false, gap := none, ballast := (0, 0) }) ∧
    ((licensed 8 fun l => { l with requests := [(0, 1, 0)] }).twin 0).licence.requests = [(0, 1, 0)] ∧
    ((licensed 480 fun l => { l with requests := [(0, 1, 0)], gap := some (0, 16, none) }).twin 0).licence.gap = some (0, 16, none) ∧
    (((licensed 9 fun l => { l with holder := some (0, 1), releasing := true }).core 0).streamNext ≤ 9 ∧
      ((licensed 9 fun l => { l with holder := some (0, 1), releasing := true }).core 0).queue = []) ∧
    upperCore 0 = false ∧ (upperCoreOf 0 = 16 ∧ twinOfCore 16 = 0 ∧ twinOfCore 0 = 0) := by decide +kernel
/-- A slot table whose current entry names the upper core for context 2, which has a request. -/
theorem test_meets_slot_turn :
    let s := (licensed 500 fun l => { l with holder := some (0, 1), requests := [(16, 2, 3)] }).modTwin 0 fun t =>
      { t with mslots := t.mslots.map fun _ => { v := true, upper := true, ctx := 2 } }
    (s.currentSlot 0).v = true ∧ (s.currentSlot 0).upper = true ∧ (s.currentSlot 0).ctx = 2 ∧ s.requestsLicence 16 2 = true := by
  decide +kernel

/-- 13 R306: a free licence is granted 8 cycles after the request, not before. -/
theorem test_licence_grant :
    ((match execLicenceGrant 0 (licensed 8 fun l => { l with requests := [(0, 1, 0)] }) with
      | .next t => (t.twin 0).licence.holder
      | _ => none) = some (0, 1)) ∧
    ((match execLicenceGrant 0 (licensed 7 fun l => { l with requests := [(0, 1, 0)] }) with
      | .next t => (t.twin 0).licence.holder
      | _ => none) = none) := by decide +kernel

end Sys2Proof.Tests

namespace Sys2Proof.Tests

/-! ## Key-value blocks, twins, the steward -/

/-- A directory entry of frame f in context 1, of 16 zero tokens under the root. -/
def block (f : Nat) (refs : BitVec 32) (pins : BitVec 16) : DirEntry :=
  { ctx := 1, frame := f, parent := none, parentHash := 1, tokens := List.replicate 16 0, hash := 0,
    refs := refs, pins := pins, filled := true }
/-- Die pair 0 with a pool of four frames of context 1, and entries by frame. -/
def directory (l : List (Nat × DirEntry)) : DiePair :=
  { pools := [{ base := 16, frames := 4, ctx := 1 }], entries := l.map fun e => (65536 + e.1, e.2) }
/-- The lone hart with registers and that directory. -/
def pooled (l : List (Nat × DirEntry)) (x : List (Nat × Dword)) : State := (regs x).modPair 0 fun _ => directory l
/-- Whether a step at a directory ends with a result. -/
def found : KvEnd → Bool
  | .done _ _ => true
  | .bounds _ => false

theorem test_meets_kv_words :
    (alone.Ready (.kvpin 5 10) ∧ (alone.due.pair 0).pool 1 = none) ∧ ((pooled [] []).due.pair 0).pool 1 = some ⟨16, 4, 1⟩ ∧
    (pooled [] [(10, 0x2020), (11, -1)]).Ready (.kvfind 5 10 11) ∧
    ((pooled [] [(10, 0x2000), (11, 4)]).Ready (.kvins 5 10 11) ∧ (pooled [] [(10, 0x2000), (11, 4)]).due.readsWhole 0x2000 = true ∧
      done ((pooled [] [(10, 0x2000), (11, 4)]).due.loadRecord 0x2000 64) = true) ∧
    ((pooled [] [(10, 0x2000), (11, -1)]).Ready (.kvins 5 10 11) ∧
      found ((directory []).lookup ⟨16, 4, 1⟩ true (List.replicate 64 0) (-1)) = true) ∧
    (pooled [] [(10, 4)]).Ready (.kvpin 5 10) ∧
    ((pooled [(3, block 3 1 65534)] [(10, 3)]).Ready (.kvpin 5 10) ∧
      ((pooled [(3, block 3 1 65534)] [(10, 3)]).due.pair 0).entries.get? (65536 + 3) = some (block 3 1 65534)) ∧
    (pooled [] [(10, 3)]).Ready (.kvpin 5 10) ∧
    ((pooled [(3, block 3 1 1)] [(10, 3)]).Ready (.kvunpin 5 10) ∧ done ((pooled [(3, block 3 1 1)] [(10, 3)]).due.release 0 3 (((pooled [(3, block 3 1 1)] [(10, 3)]).due.hart 0).serial)) = true) ∧
    (pooled [(3, block 3 (2 ^ 31) 0)] [(10, 3), (11, 2 ^ 31 - 1)]).Ready (.kvref 5 10 11) ∧
    ((bound id).Ready (.kvwin 1 10) ∧ (((bound id).due.hart 0).stream 1).any (fun b => !b.stores) = true) := by
  and_intros <;> first | exact State.Ready.of_check (by decide +kernel) | decide +kernel
/-- A KVUNPIN whose release is under way, with frame 3 read at its issue, while x10 has changed. -/
theorem test_meets_kv_release :
    let s := (pooled [(3, block 3 1 1)] [(10, 77)]).modHart 0 fun t => { t with wait := .releasing 3 0 }
    s.Ready (.kvunpin 5 10) ∧ (s.hart 0).wait = .releasing 3 0 ∧ done (s.due.release 0 3 (s.due.hart 0).serial) = true := by
  and_intros <;> first | exact State.Ready.of_check (by decide +kernel) | decide +kernel
/-- The lone hart, whose step reaches the directory in cycle c with the tokens it has read, and with frame 3 and a second value read at its
issue. -/
def stepping (c : Nat) (s : State) (y : Dword := -1) : State :=
  s.modHart 0 fun t => { t with wait := .directory c (List.replicate 64 0) 3 y }
/-- A release that waits for an acknowledgement; KV words before their cycle, with no pool, over a block, over an orphan, and over none. -/
theorem test_meets_kv_steps :
    done (((pooled [(3, block 3 1 1)] []).modHart 0 fun t => { t with ackAt := 2 ^ 40 }).due.release 0 3 0) = false ∧
    ((stepping 9 (pooled [] [])).Ready (.kvpin 5 10) ∧ (stepping 9 (pooled [] [])).now < 9) ∧
    ((stepping 0 alone).Ready (.kvfind 5 10 11) ∧ (alone.due.pair 0).pool 1 = none) ∧
    ((stepping 0 (pooled [] [(11, -1)])).Ready (.kvins 5 10 11) ∧ (stepping 0 (pooled [] [])).Ready (.kvfind 5 10 11) ∧
      found ((directory []).lookup ⟨16, 4, 1⟩ true (List.replicate 64 0) (-1)) = true ∧
      found ((directory [(65536 + 1, block 1 (2 ^ 32 - 1) 0)]).lookup ⟨16, 4, 1⟩ false (List.replicate 64 0) 2) = true) ∧
    ((stepping 0 (pooled [(3, block 3 1 65534)] [(10, 3)])).Ready (.kvpin 5 10) ∧ (stepping 0 (pooled [] [(10, 3)])).Ready (.kvpin 5 10)) ∧
    (stepping 0 (pooled [(3, block 3 1 1)] [(10, 3)])).Ready (.kvunpin 5 10) ∧
    ((stepping 0 ((pooled [] [(10, 3)]).modPair 0 fun d => { d with orphans := [(65536 + 3, 2)] })).Ready (.kvunpin 5 10)) ∧
    ((stepping 0 (pooled [(3, block 3 1 1)] [(10, 3), (11, -1)])).Ready (.kvref 5 10 11) ∧
      (stepping 0 (pooled [(3, block 3 (2 ^ 31) 0)] []) (2 ^ 31 - 1)).Ready (.kvref 5 10 11) ∧
      (stepping 0 (pooled [] [(10, 3)])).Ready (.kvref 5 10 11)) := by
  and_intros <;> first | exact State.Ready.of_check (by decide +kernel) | decide +kernel
/-- The block that a lookup of 16 zero tokens under the root matches. -/
def matching : DirEntry := { block 3 7 0 with hash := crcBytes (BitVec.ofNat 64 1) (List.replicate 64 0) }
/-- A block that matches, none, no free frame, and the lowest free one. -/
theorem test_meets_lookups :
    (matching.ctx = 1 ∧ matching.parent = none ∧
      matching.tokens = (List.range 16).map (fun i => BitVec.ofNat 32 (Claims.fieldAt (List.replicate 64 0) (4 * i) 4)) ∧
      Machine.setOf matching.hash = Machine.setOf (crcBytes (BitVec.ofNat 64 1) (List.replicate 64 0)) ∧ matching.refs.toNat < 2 ^ 32 - 1) ∧
    (directory []).entries = [] ∧ (directory [(0, block 0 1 0), (1, block 1 1 0), (2, block 2 1 0), (3, block 3 1 0)]).freeFrame ⟨16, 4, 1⟩ = none ∧
    (directory [(0, block 0 1 0)]).freeFrame ⟨16, 4, 1⟩ = some 1 := by
  refine ⟨⟨rfl, rfl, ?_, by simp only [matching], ?_⟩, ?_, ?_, ?_⟩ <;> decide +kernel

/-- The upper hart of the pair at place n of kind point of twin 0, waiting or kept. -/
def placed (point : Bool) (n : Nat) (waiting : Bool) (s : State) : State :=
  s.modTwin 0 fun v => v.setPlaces point [(2 * n + 1, { hart := 512, value := 9, waiting := waiting, arrival := 0, limit := 5 })]
/-- The word of an NSWAP to x5 through slot 3. -/
def nswapWord : Word := (encode (.nswap 5 3 11) 0).getD 0
/-- The lone hart at an NSWAP, with a limit. -/
def swapper (limit : Dword) : State :=
  { (with0 fun t => { t with csr := { t.csr with ntimeo := limit } }) with ir := nswapWord }
/-- The twin of the lone hart waits for it in that NSWAP. -/
def partner : State := placed false 3 true { (swapper 8) with harts := (512, { ctx := 1, wait := .twin, waitWord := nswapWord }) :: [] ++ (swapper 8).harts }
theorem test_meets_narrows :
    alone.Ready (.nrd 5 31) ∧ alone.Ready (.nwr 31 10) ∧ (alone.twin 0).writes = [] ∧
    ((swapper 8).Ready (.nswap 5 3 11) ∧ treeDest (swapper 8).ir = 5 ∧ done ((swapper 8).due.release 0 2 ((swapper 8).due.hart 0).serial) = true ∧
      ((swapper 8).twin 0).places false = []) ∧
    ((placed false 3 false (swapper 8)).Ready (.nswap 5 3 11) ∧
      (((placed false 3 false (swapper 8)).twin 0).places false).get? 7 = some ⟨512, 9, false, 0, 5⟩) ∧
    (swapper 0).Ready (.nswap 5 3 11) ∧ (swapper 0).Ready (.tbar 31) ∧
    (partner.Ready (.nswap 5 3 11) ∧ ((partner.twin 0).places false).get? 7 = some ⟨512, 9, true, 0, 5⟩ ∧
      (partner.hart 512).sc.latch = none ∧ treeDest (partner.hart 512).waitWord = 5 ∧ (partner.hart 0).wait = .none) := by
  refine ⟨?_, ?_, ?_, ⟨?_, ?_, ?_, ?_⟩, ⟨?_, ?_⟩, ?_, ?_, ⟨?_, ?_, ?_, ?_, ?_⟩⟩
  all_goals first
    | exact State.Ready.of_check (by decide +kernel)
    | decide +kernel
/-- The lone hart at barrier point 31, for which its twin waits there. -/
def tbarWord : Word := (encode (.tbar 31) 0).getD 0
def barPartner : State :=
  let s := { (with0 fun t => { t with csr := { t.csr with ntimeo := 8 } }) with ir := tbarWord }
  placed true 31 true { s with harts := (512, { ctx := 1, wait := .twin, waitWord := tbarWord }) :: [] ++ s.harts }
theorem test_meets_bar_partner :
    (barPartner.Ready (.tbar 31) ∧ ((barPartner.twin 0).places true).get? 63 = some ⟨512, 9, true, 0, 5⟩ ∧ (barPartner.hart 0).wait = .none) ∧
    done (barPartner.due.release 0 2 (barPartner.due.hart 0).serial) = true := by
  and_intros <;> first | exact State.Ready.of_check (by decide +kernel) | decide +kernel
/-- 19 R400: both harts of a TBAR complete, their places are free, and both acquire. -/
theorem test_tbar_completes :
    (match exec (.tbar 31) barPartner with
      | .next t => decide ((t.hart 0).wait = .none) && decide ((t.hart 512).wait = .none) && decide ((t.twin 0).places true = []) &&
          decide ((t.hart 0).orders.map (fun o => o.acquire) = [some 2]) && decide ((t.hart 512).orders.map (fun o => o.acquire) = [some 2])
      | _ => false) = true := by decide +kernel
/-- A place that another hart of the side holds, with a limit and with none; a release that waits. -/
theorem test_meets_meeting :
    let s := fun n => (swapper n).modTwin 0 fun v => v.setPlaces false [(6, { hart := 1, value := 9, waiting := true, arrival := 0, limit := 5 })]
    ((s 8).Ready (.nswap 5 3 11) ∧ (s 0).Ready (.nswap 5 3 11) ∧ (((s 8).twin 0).places false).get? 6 = some ⟨1, 9, true, 0, 5⟩) ∧
    (((swapper 8).modHart 0 fun t => { t with ackAt := 2 ^ 40 }).Ready (.nswap 5 3 11) ∧
      done (((swapper 8).modHart 0 fun t => { t with ackAt := 2 ^ 40 }).due.release 0 2 0) = false) := by
  and_intros <;> first | exact State.Ready.of_check (by decide +kernel) | decide +kernel
/-- A hart of the lower core that waits at barrier point 31 with a limit of 5 cycles, in cycle n. -/
def meeting (n : Nat) : State :=
  { ((with0 fun t => { t with wait := .twin, waitWord := (encode (.tbar 31) 0).getD 0 }).modTwin 0 fun v =>
      { v with points := [(62, { hart := 0, value := 0, waiting := true, arrival := 0, limit := 5 })] }) with now := n }
theorem test_meets_twinto : (alone.hart 0).wait = .none ∧ (with0 fun t => { t with wait := .meeting 0 9 }).now = 0 ∧
    ((with0 fun t => { t with wait := .meeting 1 9 }).hart 0).wait = .meeting 1 9 ∧
    (((meeting 5).hart 0).wait = .twin ∧ twinPlace ((meeting 5).hart 0).waitWord = (true, 31) ∧
      (((meeting 5).twin 0).places true).get? 62 = some ⟨0, 0, true, 0, 5⟩) ∧ (meeting 4).now < 0 + 5 := by decide +kernel

/-- The lone hart with FIFOs of twin 0: entries going up, and coming down. -/
def ferried (up down : List (Nat × Option Row)) (x : List (Nat × Dword)) : State :=
  (regs x).modTwin 0 fun v => { v with up := { entries := up, next := 16 }, down := { entries := down, next := 3 } }
/-- The gate of twin 0 changed. -/
def gate (g : Gate) (want saved : Bool) (ready : Option Nat) (s : State) : State :=
  s.modTwin 0 fun v => { v with gate := g, gateWant := want, gateSaved := saved, gateReady := ready }
/-- A module whose partition 0 gives the turn to context 1, in cycle 1880. -/
def turned : State :=
  let s := State.reset.modPair 0 fun d => { d with part := some 0 }
  let s : State := { s with partitions := [(0, { turn := some 2, idle := false })], now := 1880 }
  { s with queues := [(2, { ctx := 1, weight := 1, core := 0, chain := 0 })] }
theorem test_meets_ferry :
    (ferried [] [] [(10, 10 * 2 ^ 60 + 32)]).Ready (.fpush 10) ∧ (ferried [] [] [(10, 11 * 2 ^ 60)]).Ready (.fpop 10) ∧
    ((ferried [] [] [(10, 10 * 2 ^ 60)]).Ready (.fpush 10) ∧ (ferried [] [] [(10, 10 * 2 ^ 60)]).Ready (.fpop 10) ∧ (alone.hart 0).wait = .none ∧
      ((ferried [] [] []).due.hartReach 0 .vector).check .load (10 * 2 ^ 60) 64 = none ∧
      ((ferried [] [] []).due.hartReach 0 .vector).check .store (10 * 2 ^ 60) 64 = none) ∧
    alone.Ready (.fcnt 5) ∧ (regs [(10, 2)]).Ready (.pgreq 5 10) ∧ (regs [(10, 1)]).Ready (.pgreq 5 10) ∧
    (gate .gated true false none alone).Ready (.pgreq 5 10) := by
  and_intros <;> first | exact State.Ready.of_check (by decide +kernel) | decide +kernel
/-- A push and a pop that wait for an entry, of a full and of a free FIFO, and of an oldest entry without and with its row. -/
theorem test_meets_entries :
    let s := fun (w : Wait) (x : State) => x.modHart 0 fun t => { t with wait := w }
    (((s (.pushing 64) (ferried (List.replicate 16 (0, none)) [] [])).hart 0).wait = .pushing 64 ∧
      16 ≤ (((ferried (List.replicate 16 (0, none)) [] []).twin 0).outgoing 0).entries.length) ∧
    (((ferried (List.replicate 15 (0, none)) [] []).twin 0).outgoing 0).entries.length + (((ferried [] [] []).twin 0).outgoing 0).popped < 16 ∧
    (((s (.popping 64) (ferried [] [(0, none)] [])).hart 0).wait = .popping 64 ∧
      (∀ e ∈ (((ferried [] [(0, none)] []).twin 0).incoming 0).entries.head?, e.2 = none)) ∧
    (((ferried [] [(0, some 7), (1, none)] []).twin 0).incoming 0).entries = [(0, some 7), (1, none)] := by decide +kernel
/-- A push with its entry, whose arrays are free, and are not; a pop with its entry, and one whose row another command owns. -/
def pushed (f : Hart → Hart := id) : State := (ferried [(3, none)] [] []).modHart 0 fun t => f { t with wait := .fpush 3 (10 * 2 ^ 60) 0 }
def popped (f : Hart → Hart := id) : State :=
  ((ferried [] [] []).modTwin 0 fun v => { v with down := { v.down with popped := 1 } }).modHart 0 fun t =>
    f { t with wait := .fpop (10 * 2 ^ 60) 7 0 }
theorem test_meets_entry_moves :
    (pushed.Ready (.fpush 10) ∧ (pushed.hart 0).wait = .fpush 3 (10 * 2 ^ 60) 0 ∧ (pushed.due.ferryWindow 0 (10 * 2 ^ 60)).isSome = true) ∧
    ((pushed fun t => { t with arrayDone := 2 ^ 40 }).Ready (.fpush 10) ∧
      ((pushed fun t => { t with arrayDone := 2 ^ 40 }).due.ferryWindow 0 (10 * 2 ^ 60)).isNone = true) ∧
    (popped.Ready (.fpop 10) ∧ (popped.hart 0).wait = .fpop (10 * 2 ^ 60) 7 0 ∧ (popped.due.ferryWindow 0 (10 * 2 ^ 60)).isSome = true ∧
      popped.due.accessBlocked (popped.due.hartReach 0 .vector) .store (10 * 2 ^ 60) 64 = false) ∧
    ((popped fun t => { t with arrayDone := 2 ^ 40 }).Ready (.fpop 10) ∧
      ((popped fun t => { t with arrayDone := 2 ^ 40 }).due.ferryWindow 0 (10 * 2 ^ 60)).isNone = true) := by
  and_intros <;> first | exact State.Ready.of_check (by decide +kernel) | decide +kernel
/-- 19 R404: a pop that has its entry frees it and writes its row. -/
theorem test_pop_frees :
    (match exec (.ferryEntryFilled 0) popped with
      | .next t => decide ((t.twin 0).down.popped = 0) && decide (t.arrayRead 0 0 64 = bytesOfBits (7 : Row) 64)
      | _ => false) = true := by decide +kernel
/-- Push and pop with their entries, at their event; a gate at rest, saved, without power, back. -/
theorem test_meets_ferry_events :
    (let y := fun (s : State) => ({ s with cur := .hart 0, ir := (s.hart 0).waitWord } : State)
     ((y pushed).ferryWindow 0 (10 * 2 ^ 60)).isSome = true ∧ ((y (pushed fun t => { t with arrayDone := 2 ^ 40 })).ferryWindow 0 (10 * 2 ^ 60)).isNone = true ∧
     ((y popped).ferryWindow 0 (10 * 2 ^ 60)).isSome = true ∧ ((y popped).accessBlocked ((y popped).hartReach 0 .vector) .store (10 * 2 ^ 60) 64) = false ∧
     ((y (popped fun t => { t with arrayDone := 2 ^ 40 })).ferryWindow 0 (10 * 2 ^ 60)).isNone = true) ∧
    ((turned.pair (pairOfCore (upperCoreOf 0))).part.bind turned.turnCtx) = some 1 ∧ (turned.twin 0).gate = .on ∧
    ((turned.ctxState 1).cores.get? (upperCoreOf 0) = none ∧
      (let s := turned.modCtx 1 fun c => { c with cores := c.cores.put (upperCoreOf 0) {} }
       ((s.ctxState 1).cores.get? (upperCoreOf 0)).isSome ∧ (s.partition (s.ctxPart 1)).switch = none ∧ s.rangesFree (upperCoreOf 0) 1 ∧
         (s.twin 0).gate = .on)) ∧
    (((gate .gated false false (some 1880) turned).twin 0).gateReady = some 1880 ∧ ((gate .on true false (some 1880) turned).twin 0).gateReady = some 1880 ∧
      (gate .on true false (some 1880) turned).now = 1880 ∧ (gate .gated false false (some 1881) turned).now < 1881) ∧
    (((gate .gating true true none turned).twin 0).licence.gap = none ∧ ((gate .gating true true none turned).twin 0).licence.holder = none) ∧
    (((gate .gating true true (some 1880) turned).twin 0).gateReady = some 1880 ∧ (gate .gating true true (some 1880) turned).now = 1880) ∧
    (((gate .ungating false false none turned).ctxState 1).harts = [] ∧
      (gate .ungating false false none turned).restorePiece 1 (fun c => decide (c = upperCoreOf 0)) = none ∧
      (gate .ungating false false none turned).harts = [] ∧ (gate .ungating false false none turned).clusters = []) := by decide +kernel

/-- Hart 0, held by a page fault, in a slot without columns; the steward of core 0 runs with x10 = 0 and x11 = 0x2000. -/
def holding (f : Hart → Hart := id) : State :=
  (steward [(11, 0x2000)]).modHart 0 fun t => f { t with cols := 0, held := some { cause := 9, value := 64, addr := 64 } }
/-- A steward with an event at its head, and sdisp. -/
def routine (e : SupEvent) (disp : BitVec 2) (f : Hart → Hart := id) : State :=
  (holding f).modCore 0 fun c => { c with steward := { c.steward with events := [e], sdisp := disp } }
/-- A transfer that is outstanding. -/
def outstanding : Transfer := { kind := .ld, addr := 0x2000, ready := 9 }
/-- HTRAP of hart 0, and an event of another kind. -/
def htrap : SupEvent := { kind := 1, master := 0, ctx := 1, value := 64, pc := 0, x := 9, who := some (0, 0) }
theorem test_meets_steward_words :
    ((steward [(10, 4)]).Ready (.svsave 5 10 11) ∧ masterOf (steward [(10, 4)]).due 0 4 = none) ∧
    (steward [(10, 65536)]).Ready (.hthaw 5 10) ∧ masterOf (holding).due 0 0 = some (0, 0) ∧
    ((holding).Ready (.svsave 5 10 11) ∧ ((holding).hart 0).transfersDone = true) ∧
    (holding).Ready (.svrest 5 10 11) ∧ (holding fun t => { t with saved := true, kept := true }).Ready (.svrest 5 10 11) ∧
    ((holding fun t => { t with vmem := [outstanding] }).Ready (.svsave 5 10 11) ∧
      ((holding fun t => { t with vmem := [outstanding] }).hart 0).transfersDone = false) ∧
    ((steward [(10, 4097)]).Ready (.hfreeze 5 10 11) ∧ (steward [(10, 8193)]).Ready (.hthaw 5 10) ∧
      masterOf (steward [(10, 4097)]).due 0 4097 = some (1, 1) ∧ masterOf (steward [(10, 8193)]).due 0 8193 = some (2, 1)) ∧
    ((steward [(10, 12288)]).Ready (.slreplay 5 10) ∧ masterOf (steward [(10, 12288)]).due 0 12288 = some (3, 0) ∧
      (replay DrainEntry.words (State.replayDrain 0) (steward [(10, 12288)]).due [] [] []).isSome = true) ∧
    ((steward [(10, 16384)]).Ready (.slreplay 5 10) ∧ masterOf (steward [(10, 16384)]).due 0 16384 = some (4, 0)) ∧
    ((holding).Ready (.slreplay 5 10) ∧ (replay SideEntry.words (State.replaySide 0) (holding).due [] [] []).isSome = true) ∧
    (steward).Ready (.hfreeze 5 10 11) ∧ (steward).Ready (.hthaw 5 10) ∧
    ((steward [(10, 0x2000)]).Ready (.tlbinv 5 10) ∧ done ((steward [(10, 0x2000)]).due.stewardLoad 0 0x2000 32) = true) ∧
    (steward [(10, 0x2000), (11, 1025)]).Ready (.esload 5 10 11) ∧ (steward [(10, 0x2008), (11, 1024)]).Ready (.esload 5 10 11) ∧
    ((steward [(10, 0x2000), (11, 1)]).Ready (.esload 5 10 11) ∧ done ((steward [(10, 0x2000), (11, 1)]).due.stewardLoad 0 0x2000 16) = true) ∧
    (steward).Ready (.estep 5) := by
  and_intros <;> first | exact State.Ready.of_check (by decide +kernel) | decide +kernel
theorem test_meets_steward_records :
    done ((holding).due.stewardStore 0 0x2000 (((holding).due.hartRecord 0 0 0 ((holding).due.hart 0)).map some)) = true ∧
    done ((holding).due.stewardLoad 0 0x2000 2048) = true ∧ done ((holding).due.stewardLoad 0 0x2000 12288) = true := by decide +kernel
/-- SRET of a shoot-down, of a held hart with each disposition. -/
theorem test_meets_sret : (routine { htrap with kind := 4 } 0).Ready .sret ∧ (routine htrap 3).Ready .sret ∧ (routine htrap 0).Ready .sret ∧
    (routine htrap 2).Ready .sret ∧ ((routine { htrap with ctx := 2 } 0).Ready .sret ∧ ((routine { htrap with ctx := 2 } 0).hart 0).ctx ≠ 2) ∧
    ((routine htrap 1 fun t => { t with csr := { t.csr with tvec := 0x3000 } }).Ready .sret ∧ hartOfMaster 0 htrap.master = 0 ∧
      (routine htrap 1).resident 0 = true ∧ ((routine htrap 1).hart 0).ctx = htrap.ctx ∧ ((routine htrap 1).hart 0).held.isSome = true ∧
      htrap.who = some (((routine htrap 1).hart 0).launch, ((routine htrap 1).hart 0).team) ∧ ((routine htrap 1).hart 0).saved = false ∧ ((routine htrap 1).hart 0).csr.inh = false) := by
  and_intros <;> first | exact State.Ready.of_check (by decide +kernel) | decide +kernel

end Sys2Proof.Tests

namespace Sys2Proof.Tests

/-! ## Commands of the copy engine -/

/-- A running command of chain 3 of core 0, appended by hart 0, whose record lies at 0x2000. -/
def running (op : Nat) : Cmd :=
  { seq := 1, at_ := 0x2000, rm := 0, op := op, fence := false, signal := false, follow := false, cbdst := false, crec := 0,
    team := some (0, 0), hart := some 0, stage := .running }
/-- Core 0 with commands on chain 3, or on the system chain. -/
def commanded (ks : List Cmd) (s : State := alone) : State := chained (fun q => { q with cmds := ks }) s
def commanded16 (ks : List Cmd) (s : State := alone) : State := s.modChain 0 16 fun q => { q with cmds := ks }
/-- A record's bytes from 16 on, eight at a time, at 0x2000. -/
def recorded (l : List Nat) (s : State := alone) : State := (l.zipIdx).foldl (fun s p => put s (0x2010 + 8 * p.2) 8 p.1) s
/-- What an access of a command gives. -/
def ended {α : Type} : Step α → Bool
  | .ok _ _ => true
  | _ => false
theorem ended_ok {α : Type} {r : Step α} (h : ended r = true) : ∃ (v : α) (t : State), r = .ok v t := by
  cases r with
  | ok v t => exact ⟨v, t, rfl⟩
  | park va t => simp [ended] at h
  | freeze va t => simp [ended] at h
  | fail st t => simp [ended] at h
  | wait => simp [ended] at h

/-- A command that may start now, or from the next cycle on. -/
theorem test_meets_starts :
    let s := commanded [{ running 1 with stage := .queued }]
    (s.chain 0 3).cmds = [{ running 1 with stage := .queued }] ∧ Claims.carries 0 (3 : Fin 17) 1 (.copy 0 3) ∧
    (∀ j, j ≠ 3 → (s.chain 0 j).cmds = []) ∧ s.chainRuns 0 3 = true ∧ (s.chain 0 3).owner ∉ (s.core 0).copyFrozen ∧ (s.core 0).nextStart ≤ s.now := by
  refine ⟨?_, .inl ⟨rfl, rfl⟩, ?_, ?_, ?_, ?_⟩ <;> decide +kernel
/-- A COPY of 300 bytes whose record is read, one in the middle of its pieces, and one at its last piece. -/
def copying : State := recorded [0x3000, 0x4010, 300 + 2 ^ 32, 0, 0]
/-- The record of that COPY. -/
def copyRecord : BitVec 512 := 0x3000 * 2 ^ 128 + 0x4010 * 2 ^ 192 + 300 * 2 ^ 256 + 2 ^ 288
theorem test_meets_copy :
    (Claims.alone (commanded [running 1] copying) 0 3 (running 1) ∧
      ended ((commanded [running 1] copying).engineRead ((commanded [running 1] copying).cmdReach 0 3 (running 1)) (ownerOf 0 3 (running 1))
        0x2000 64) = true) ∧
    ([0, 1, 2, 4].all fun n => !((copyPieces copyRecord { running 1 with record := copyRecord }.base).drop n).isEmpty) = true ∧
    (copyPieces copyRecord { running 1 with record := copyRecord }.base).length = 5 := by
  refine ⟨⟨⟨?_, ?_, rfl, rfl, ?_⟩, ?_⟩, ?_, ?_⟩ <;> decide +kernel
/-- The answer of an access, where it ends. -/
def moved {α β : Type} (r : Step α) (f : α → State → β) : Option β :=
  match r with
  | .ok x u => some (f x u)
  | _ => none
/-- How a move ends: 0 moved, 1 it waits, 2 it fails. -/
def movesTo (r : Step (Option LineBuf)) : Nat :=
  match r with
  | .ok .. => 0
  | .wait => 1
  | _ => 2
/-- Whether the next piece of a command can move, its destinations owned. -/
def moves1 (s : State) (k : Cmd) (pattern : Option Dword) (held : Option LineBuf) (ps : List Piece) : Bool :=
  match ps, s.ownLeft 0 3 k with
  | p :: _, some u => movesTo (u.movePiece (u.cmdReach 0 3 k) (ownerOf 0 3 k) pattern held p) == 0
  | _, _ => false
theorem test_meets_copy_moves :
    let k := { running 1 with record := copyRecord, read := true, pos := 4 }
    Claims.alone (commanded [k] copying) 0 3 k ∧ moves1 (commanded [k] copying) k none none ((copyPieces copyRecord k.base).drop 4) = true ∧
      moves1 (commanded [k] copying) k (some 7) none ((copyPieces copyRecord k.base).drop 4) = true := by
  refine ⟨⟨?_, ?_, rfl, rfl, ?_⟩, ?_, ?_⟩ <;> decide +kernel
/-- A piece that moves from the line read last, from memory, from a pattern; one into arrays that are taken, and that are fenced. -/
theorem test_meets_pieces :
    let k := { running 1 with record := copyRecord, read := true }
    let s := commanded [k] copying
    let r := s.cmdReach 0 3 k
    let o := ownerOf 0 3 k
    let held : LineBuf := { addr := 0x3000, bytes := List.replicate 128 1, poisoned := false }
    let p : Piece := { src := 0x3010, dst := 0x4010, len := 16 }
    let q : Piece := { p with dst := 10 * 2 ^ 60 }
    (Option.isSome (moved (s.readOpen r o 0x3000 128) fun g u => ended (u.writeOpen r o 0x4010 (((g.bytes.drop 16).take 16).map some) false))) = true ∧
    ended (s.writeOpen r o 0x4010 (((held.bytes.drop 16).take 16).map some) false) = true ∧
    movesTo (s.movePiece r o none none p) = 0 ∧ movesTo (s.movePiece r o none (some held) p) = 0 ∧
    movesTo (s.movePiece r o (some 7) none p) = 0 ∧
    movesTo ((s.modCluster 0 fun c => { c with arraysFree := 2 ^ 40 }).movePiece r o none none q) = 1 ∧
    movesTo ((s.modCluster 0 fun c => { c with fenced := true }).movePiece r o none none q) = 2 := by decide +kernel
/-- A GATHER of nine rows of 64 bytes from a table of three rows, by indices of two bytes. -/
def gatherRecord : BitVec 512 :=
  0x3000 * 2 ^ 128 + 0x4000 * 2 ^ 192 + 0x5000 * 2 ^ 256 + 9 * 2 ^ 320 + 64 * 2 ^ 352 + 3 * 2 ^ 384 + 2 * 2 ^ 416
theorem test_meets_gather :
    let k := { running 2 with record := gatherRecord, read := true }
    let b : IndexBatch := { first := 8, index := [some 2], left := [{ row := 8 }], ready := 0 }
    let none' : IndexBatch := { b with index := [some 3] }
    let l := { k with pos := 2, batches := [b] }
    (Claims.alone (commanded [k]) 0 3 k ∧ 8 * k.pos < rowCount k.record ∧
      ended ((commanded [k]).engineRead ((commanded [k]).cmdReach 0 3 k) (ownerOf 0 3 k) 0x5000 16) = true) ∧
    (Claims.alone (commanded [l]) 0 3 l ∧ rowCount l.record ≤ 8 * l.pos ∧ (b.row l.record 8).isSome = true ∧
      moves1 (commanded [l]) l none none (l.piecesOfRow b 8) = true) ∧
    ((none'.row l.record 8).isSome = false ∧
      moves1 (commanded [{ l with batches := [none'] }]) { l with batches := [none'] } (some 0) none (l.piecesOfRow none' 8) = true) ∧
    (({ l with op := 3 } : Cmd).piecesOfRow none' 8 = [] ∧
      ((commanded [{ l with op := 3, batches := [none'] }]).ownLeft 0 3 { l with op := 3, batches := [none'] }).isSome = true) ∧
    alone.now < ({ b with ready := 2 ^ 40 } : IndexBatch).ready := by
  refine ⟨⟨⟨?_, ?_, rfl, rfl, ?_⟩, ?_, ?_⟩, ⟨⟨?_, ?_, rfl, rfl, ?_⟩, ?_, ?_, ?_⟩, ⟨?_, ?_⟩, ⟨?_, ?_⟩, ?_⟩ <;> decide +kernel

/-- A MIGRATE of page 0 of context 1, which a leaf line maps, to frame 0x400000. -/
def migrating : State :=
  let s := put (put alone 0x204000 8 0x206001) 0x206000 8 0xF
  recorded [0, 0x400000, 1, 0, 0, 0] { s with contexts := s.contexts.put 0 ((s.contexts.get? 1).getD 0) }
theorem test_meets_migrate :
    let k := { running 5 with team := none, hart := none }
    let s := commanded16 [k] migrating
    Claims.alone s 0 16 k ∧ ended (s.engineRead (s.cmdReach 0 16 k) (ownerOf 0 16 k) 0x2000 64) = true ∧
    Claims.alone (commanded [k] migrating) 0 3 k := by
  refine ⟨⟨?_, ?_, rfl, rfl, ?_⟩, ?_, ⟨?_, ?_, rfl, rfl, ?_⟩⟩ <;> decide +kernel
theorem test_meets_page_move : ((migrating.migratePage 0 1 0 0x400000).map Prod.fst) = some true := by decide +kernel

/-- MMAF records at 0x2000: rows, latch, drain slot, flags, and the tile. -/
def mmaf (m latch slot flags : Nat) (c : Nat := 12 * 2 ^ 60) : State :=
  recorded [10 * 2 ^ 60, c, m + 2 ^ 16 * latch + 2 ^ 24 * slot + 2 ^ 32 * flags, 5, 9, 0] (matrix 0 0 0 0)
/-- A running MMAF, with the windows of its team. -/
def tiling : Cmd := { running 7 with window := ((0, 65536), (0, 262144)) }
/-- The fault of an MMAF as its step finds it. -/
def mmafFault (s : State) (slot : Nat) (c : Dword) : Option (Nat × Dword × Nat) :=
  s.mmaFault 0 { s.cmdReach 0 3 tiling with kind := .matrix } 1 slot (10 * 2 ^ 60) c 1
theorem test_meets_mmaf :
    Claims.alone (commanded [{ tiling with following := true, inherited := 4 }]) 0 3 { tiling with following := true, inherited := 4 } ∧
    (Claims.alone (commanded [tiling] (mmaf 257 1 3 0)) 0 3 tiling ∧
      ended ((commanded [tiling] (mmaf 257 1 3 0)).engineRead ((commanded [tiling] (mmaf 257 1 3 0)).cmdReach 0 3 tiling)
        (ownerOf 0 3 tiling) 0x2000 64) = true) ∧
    (mmafFault (commanded [tiling] (mmaf 256 1 31 3)) 31 (12 * 2 ^ 60)).map (fun e => e.2.2) = some 9 ∧
    (mmafFault (commanded [tiling] (mmaf 1 1 3 3)) 3 (12 * 2 ^ 60) = none ∧
      ended ((commanded [tiling] (mmaf 1 1 3 3)).engineRead ((commanded [tiling] (mmaf 1 1 3 3)).cmdReach 0 3 tiling)
        (ownerOf 0 3 tiling) 0x2000 64) = true) := by
  refine ⟨⟨?_, ?_, rfl, rfl, ?_⟩, ⟨⟨?_, ?_, rfl, rfl, ?_⟩, ?_⟩, ?_, ?_, ?_⟩ <;> decide +kernel

/-- A finished command with a completion record at 0x6000, due in a cycle. -/
def finished (crec : Dword) (ready : Nat) : Cmd := { running 1 with signal := true, crec := crec, finished := true, ready := ready }
theorem test_meets_completion :
    let s := commanded [finished 0x6000 0]
    ((s.chain 0 3).cmds = [finished 0x6000 0] ∧ s.chainRuns 0 3 = true ∧
      ended (s.engineWrite (s.cmdReach 0 3 (finished 0x6000 0)) (ownerOf 0 3 (finished 0x6000 0)) 0x6000 ((List.replicate 16 (0 : Byte)).map some)
        false) = true) ∧
    s.now < (finished 0x6000 1).ready ∧ ((commanded [finished 0 0]).resident 0 = true ∧ ((commanded [finished 0 0]).hart 0).inWfe = false) ∧
    ((commanded [finished 0 0] (with0 fun t => { t with wait := .wfe 0 })).hart 0).inWfe = true := by
  refine ⟨⟨?_, ?_, ?_⟩, ?_, ⟨?_, ?_⟩, ?_⟩ <;> decide +kernel

/-- A COLL of two participants, that sums two integers of eight bytes; its participant, and that of another device. -/
def collRecord : BitVec 512 := 0x3000 * 2 ^ 128 + 0x4000 * 2 ^ 192 + 2 * 2 ^ 256 + 2 * 2 ^ 312 + 0x5000 * 2 ^ 320 + 9 * 2 ^ 384
def collInput (j : Nat) (data : List Dword) : CollInput :=
  { group := [0, 9], index := j, op := 0, ty := 0, count := 2, root := 0, tag := 9, rm := 0, data := data }
def collMine : CollPart := { cmd := some (0, 3, 1), input := collInput 0 [3, 4], arrived := 0 }
def collPeer (failed : Nat) : CollPart := { cmd := none, input := collInput 1 [5, -4], arrived := 0, failed := failed }
/-- The handed command of that participant, and who has arrived. -/
def collWait (l : List CollPart) : State := { (commanded [{ running 8 with stage := .handed, read := true, record := collRecord }]) with colls := l }
theorem test_meets_coll :
    (Claims.alone (commanded [running 8] (recorded [0x3000, 0x4000, 2 + 2 ^ 57, 0x5000, 9, 0])) 0 3 (running 8) ∧ collBroken collRecord = false ∧
      collBroken (collRecord - 2 ^ 257) = true) ∧
    (let k := { running 8 with read := true, record := collRecord }
     let s := put (commanded [k]) 0x5008 8 8
     Claims.alone s 0 3 k ∧ s.partOf 0 3 k.seq = none ∧ s.inDomain 0 = true ∧ s.inDomain 8 = true ∧ s.inDomain 9 = false ∧
     ended (s.engineRead (s.cmdReach 0 3 k) (ownerOf 0 3 k) 0x5000 16) = true ∧ (s.cmdReach 0 3 k).hStatus .store 0x4000 16 = 0 ∧
     ended (s.engineRead (s.cmdReach 0 3 k) (ownerOf 0 3 k) 0x3000 16) = true) ∧
    ((collWait [collMine]).colls = [collMine] ∧ (collWait [collMine, collPeer 3]).chainRuns 0 3 = true) ∧
    (let s := collWait [collMine, collPeer 0]
     let k := { running 8 with stage := .handed, read := true, record := collRecord }
     (s.chain 0 3).cmds = [k] ∧ (collResult [collMine, collPeer 0]).length = 16 ∧
     ended (s.engineWrite (s.cmdReach 0 3 k) (ownerOf 0 3 k) 0x4000 ((collResult [collMine, collPeer 0]).map some) false) = true) ∧
    ((collWait [collMine]).page.collTimeout = 100000 ∧ alone.page.boot.toNat < 0x80) := by
  refine ⟨⟨⟨?_, ?_, rfl, rfl, ?_⟩, ?_, ?_⟩, ⟨⟨?_, ?_, rfl, rfl, ?_⟩, ?_, ?_, ?_, ?_, ?_, ?_, ?_⟩, ?_, ?_, ?_⟩ <;> decide +kernel
/-- 21 R419: the sum of two participants, the second of which wraps. -/
theorem test_coll_sum : collResult [collMine, collPeer 0] = [8, 0, 0, 0, 0, 0, 0, 0, 0, 0, 0, 0, 0, 0, 0, 0] := by decide +kernel

end Sys2Proof.Tests

namespace Sys2Proof.Tests

/-! ## Launches and partitions -/

/-- A launch record of one team of one hart of 512 columns at entry 0x1000, as a number, with more bits set. -/
def launchBits (n : Nat) : BitVec 1024 := BitVec.ofNat 1024 (0x1000 + (2 ^ 64 + 2 ^ 80 + 2 ^ 96 + 2 ^ 112 + 3 * 2 ^ 120 + 0xFFFF * 2 ^ 720 + 0x6000 * 2 ^ 800) + n)
/-- That record at 0x3000. -/
def launchAt (n : Nat) (s : State) : State := s.homeStore 0 0x3000 ((bytesOfBits (launchBits n) 128).map some)
/-- The command that reads a record at an address. -/
def launcher (at_ : Nat) : Cmd := { running 9 with seq := 2, read := true, record := BitVec.ofNat 512 (at_ * 2 ^ 128) }
/-- Hart 0 gone, and core 0 with that command: the launch record at 0x3000. -/
def launching (n : Nat) : State :=
  { commanded [launcher 0x3000] (launchAt n alone) with harts := [] }
/-- Whether the record is read, its address in order. -/
def launchRead (s : State) (k : Cmd) (a : Dword) (n : Nat) : Bool :=
  ended (s.engineRead (s.cmdReach 0 3 k) (ownerOf 0 3 k) a n) && (s.cmdReach 0 3 k).status .load a n == 0 &&
  (s.cmdReach 0 3 k).status .store 0x6000 32 == 0
theorem test_meets_launch_commands :
    (Claims.alone (commanded [running 9] (recorded [0x3000, 0, 0, 0, 0, 0])) 0 3 (running 9) ∧
      launchRead (commanded [running 9] (recorded [0x3000, 0, 0, 0, 0, 0])) (running 9) 0x2000 64 = true ∧
      launchRead (commanded [running 9] (recorded [0x3000, 0, 0, 0, 0, 0])) (running 9) 0x3000 128 = true) ∧
    (Claims.alone (launching 0) 0 3 (launcher 0x3000) ∧ (launching 0).launchOf 0 3 2 = none ∧
      launchRead (launching 0) (launcher 0x3000) 0x3000 128 = true) ∧
    (launchRead (launching 1) (launcher 0x3000) 0x3000 128 = true ∧ (launchBits 1).toNat % 4 ≠ 0) ∧
    (launchRead (launching (8 * 2 ^ 112)) (launcher 0x3000) 0x3000 128 = true ∧ Claims.bitsFrom (launchBits (8 * 2 ^ 112)).toNat 112 8 = 9) ∧
    (launchRead (launching (4 * 2 ^ 640)) (launcher 0x3000) 0x3000 128 = true ∧
      Claims.bitsFrom (launchBits (4 * 2 ^ 640)).toNat 640 64 % 8 ≠ 0) ∧
    (launching 0).ctxPart 1 = 0 ∧ ((launching 0).pair 0).part = some 0 := by
  refine ⟨⟨⟨?_, ?_, ?_, ?_, ?_⟩, ?_, ?_⟩, ⟨⟨?_, ?_, ?_, ?_, ?_⟩, ?_, ?_⟩, ⟨?_, ?_⟩, ⟨?_, ?_⟩, ⟨?_, ?_⟩, ?_, ?_⟩ <;> decide +kernel
/-- The records that R175 admits and refuses, at their bounds. -/
theorem test_meets_launch_records :
    ¬ Claims.launchMalformed (launchBits 0).toNat ∧ Claims.teamFits (launchBits 0).toNat ∧
    ¬ Claims.launchMalformed (launchBits (31 * 2 ^ 112 + 4096 * 2 ^ 736 + 1024 * 2 ^ 768 + 32 * 2 ^ 704)).toNat ∧
    Claims.launchMalformed (launchBits (32 * 2 ^ 112)).toNat ∧ Claims.launchMalformed (launchBits (4097 * 2 ^ 736)).toNat ∧
    ¬ Claims.teamFits (launchBits (8 * 2 ^ 112)).toNat ∧ Claims.teamFits (launchBits (7 * 2 ^ 112)).toNat := by
  refine ⟨?_, ?_, ?_, ?_, ?_, ?_, ?_⟩ <;> simp only [Claims.launchMalformed, Claims.teamFits, Claims.coreExists] <;> decide +kernel

/-- A launch of hpt harts, checked and with no team placed yet, as launch 5 on chain 3. -/
def fresh (hpt : Nat) (f : LaunchRec → LaunchRec := id) : Launch :=
  { ctx := 1, part := 0, core := 0, chain := 3, seq := 2, raw := 0, checked := true
    record := f { entry := 0x1000, tx := 2, ty := 1, tz := 1, hpt := hpt, allot := 0, wuse := 64, cuse := 16, sema := 0x6000, sval := 7 } }
/-- Core 0 without harts, with launch 5 and its handed command. -/
def placing (l : Launch) : State :=
  { (commanded [{ launcher 0x3000 with stage := .handed }]) with harts := [], launches := [(5, l)], nextLaunch := 6 }
/-- The two seats of a spread team. -/
def twoSeats : Room :=
  { core := 0, seats := [{ cluster := 0, slot := 0, colbase := 0 }, { cluster := 1, slot := 0, colbase := 0 }], wBase := 0, cBase := 0 }
theorem test_meets_placement :
    ((fresh 2).placedAll = false ∧ (placing (fresh 2)).launchReady (fresh 2) = true ∧ (placing (fresh 2)).room (fresh 2) 0 = some twoSeats ∧
      (twoSeats.seats.map fun x => 4 * x.cluster + x.slot).Nodup) ∧
    (placing (fresh 2)).room (fresh 2) 16 ≠ none ∧ (placing (fresh 2)).room (fresh 2) 14 = none ∧
    (placing (fresh 1 fun r => { r with gang := true })).tsync = false := by decide +kernel
/-- Room over columns that stay marked for a stopped context, and room beside them. -/
theorem test_meets_marks :
    let l := fresh 1
    let s := ((placing l).modCtx 2 fun c => { c with saved := true }).modCluster 0 fun c => { c with marks := [{ slot := 0, colbase := 0, cols := 64, ctx := 2 }] }
    ((s.room l 0).any fun m => s.onMarks l m) = true ∧ (((placing l).room l 0).any fun m => !(placing l).onMarks l m) = true := by
  decide +kernel
/-- A gang-held hart whose time has come, in ns 5; a launch whose teams are gone, and its record written. -/
theorem test_meets_launch_ends :
    (let s : State := { placing (fresh 1 fun r => { r with gtick := 5 }) with devTime := 5, harts := [(0, { launch := 5, gangHold := true })] }
     s.launches.get? 5 = some (fresh 1 fun r => { r with gtick := 5 }) ∧ s.harts.get? 0 = some { launch := 5, gangHold := true }) ∧
    (let l := { fresh 1 with nextTeam := 2 }
     l.placedAll = true ∧ l.teams = [] ∧ (placing l).launchReady l = true ∧
     ended ((placing l).engineWrite ((placing l).cmdReach 0 3 (launcher 0)) (ownerOf 0 3 (launcher 0)) 0x6008 ((List.replicate 24 (0 : Byte)).map some)
       false) = true ∧
     ended ((placing l).engineWrite ((placing l).cmdReach 0 3 (launcher 0)) (ownerOf 0 3 (launcher 0)) 0x6000 ((List.replicate 8 (0 : Byte)).map some)
       false) = true) := by decide +kernel
theorem test_meets_residency_clear :
    let b : Band := { slot := 3, colbase := 448, cols := 64 }
    let s := alone.modCluster 0 fun c => { c with clears := [b] }
    (s.cluster 0).clears = [b] ∧ sparseWf (fun _ => (0 : Row)) s.rows = true ∧ (s.cluster 0).fenced = false ∧ (s.cluster 0).arraysFree ≤ s.now ∧
    (∀ e ∈ s.harts, clusterOfHart e.1 = 0 → ∀ c, e.2.claim = some c → b.since ≤ c) := by
  refine ⟨?_, ?_, ?_, ?_, ?_⟩
  iterate 4 decide +kernel
  intro e he _ c hc
  exact Nat.zero_le c

/-- Two queues of partition 0, of contexts a and b, with deficits; the first has the turn; chain 3 of core 0 has work. -/
def queues (a b : Nat) (d : Int) (f : Partition → Partition) : State :=
  let s := State.reset.modPair 0 fun p => { p with part := some 0 }
  let q (n c : Nat) (d : Int) : Queue := { ctx := n, weight := 2, core := 0, chain := c, deficit := d }
  { s with queues := [(4, q a 3 d), (9, q b 5 0)], devTime := 1000, partitions := [(0, f { turn := some 4, idle := false })] }
/-- Work on a chain of core 0. -/
def busy (i : Fin 17) (s : State) : State := s.modChain 0 i fun q => { q with cmds := [running 1] }
theorem test_meets_ticks :
    (queues 1 1 2 id).devTime / 1000 ≠ ((queues 1 1 2 id).partition 0).lastTick ∧
    (0 < ((busy 3 (queues 1 1 2 id)).chain 0 (Fin.ofNat 17 3)).pend ∧ (busy 3 (queues 1 1 2 id)).queues.get? 4 = some ⟨1, 2, 0, 3, 2⟩) ∧
    ((∀ e ∈ (busy 3 (queues 1 1 1 id)).queuesOf 0, e.1 ≠ 4 → (busy 3 (queues 1 1 1 id)).hasWork e.2 = false) ∧
      (∃ e ∈ (busy 5 (busy 3 (queues 1 1 1 id))).queuesOf 0, e.1 ≠ 4 ∧ (busy 5 (busy 3 (queues 1 1 1 id))).hasWork e.2 = true)) ∧
    ((queues 1 1 1 id).chain 0 (Fin.ofNat 17 3)).pend = 0 ∧ ((queues 1 1 1 fun v => { v with held := true }).partition 0).held = true ∧
    ((queues 1 1 1 fun v => { v with request := some (none, true) }).partition 0).request = some (none, true) ∧
    ((queues 1 1 1 fun v => { v with switch := some .stopping }).partition 0).switch = some .stopping := by
  and_intros <;> decide +kernel
/-- A hold whose outgoing context has left, a request that waits for it, and requests in a held and in a running partition. -/
theorem test_meets_holds :
    (let v := (queues 1 1 1 fun v => { v with held := true, switch := some .restoring, outgoing := some 1 }).partition 0
     v.held = true ∧ v.switch = some .restoring) ∧ State.reset.harts = [] ∧
    (let v := (queues 1 1 1 fun v => { v with held := true, switch := some .restoring, request := some (some 4, false) }).partition 0
     v.request = some (some 4, false) ∧ v.held = true) ∧
    (let v := (queues 1 1 1 fun v => { v with request := some (some 9, false), switch := some .restoring }).partition 0
     v.request = some (some 9, false) ∧ v.held = false) ∧
    (let v := (queues 1 1 1 fun v => { v with idle := true }).partition 0
     v.idle = true ∧ v.held = false ∧ v.request = none) := by decide +kernel
theorem test_meets_turns :
    ((busy 5 (queues 1 1 0 id)).nextQueue 0 (some 4) = some 9 ∧ ((busy 5 (queues 1 1 0 id)).partition 0).turn = some 4) ∧
    ((busy 5 (queues 1 2 0 id)).queues.get? 4 = some ⟨1, 2, 0, 3, 0⟩ ∧ (busy 5 (queues 1 2 0 id)).queues.get? 9 = some ⟨2, 2, 0, 5, 0⟩) ∧
    (let s := queues 1 2 0 fun v => { v with switch := some .stopping, outgoing := some 1, incoming := some 9 }
     (s.partition 0).switch = some .stopping ∧ (s.partition 0).outgoing = some 1 ∧ (s.partition 0).tickCycle = s.now ∧ s.coresOf 0 = [] ∧
     s.twinsOf 0 = [] ∧ (s.partition 0).incoming = some 9) ∧
    (queues 1 2 0 fun v => { v with switch := some .stopping, outgoing := some 1, tickCycle := 1 }).now ≠ 1 ∧
    (let s := busy 5 (queues 1 2 0 fun v => { v with switch := some .restoring })
     s.nextQueue 0 (some 4) = some 9 ∧ (s.partition 0).switch = some .restoring ∧ (s.partition 0).turn = some 4) ∧
    ((queues 1 2 0 fun v => { v with switch := some .stopping, outgoing := some 1 }).partition 0).incoming = none := by decide +kernel
/-- For the turn of a queue that has no work nothing is asked of the next one. -/
theorem test_meets_turn_work : (queues 1 2 0 id).nextQueue 0 (some 4) = none ∧ (busy 5 (queues 1 2 0 id)).nextQueue 0 (some 4) = some 9 := by
  decide +kernel
/-- A switch from context 1 to context 2, with a stopped hart of 1 in cluster 0 and one of 2 in its bank. -/
def swapping (ready : Nat) : State :=
  let s := queues 1 2 0 fun v => { v with switch := some .restoring, turn := some 9, outgoing := some 1 }
  { s.modCluster 0 fun c => { c with bank := [(2, { ctx := 2 })], arraysFree := ready } with harts := [(1, { ctx := 1, stopped := true })] }
theorem test_meets_swap :
    ((swapping 0).pair (pairOfCore (coreOfCluster 0))).part = some 0 ∧ (swapping 0).comingCtx 0 = some 2 ∧
    ((swapping 0).partition 0).outgoing = some 1 ∧ ((swapping 0).twin 0).gate = .on ∧ ((swapping 0).ctxState 2).harts = [] ∧
    (∀ o ∈ ((swapping 0).cluster 0).bank, o.2.ctx = 2 ∧ o.1 < 4) ∧ (((swapping 0).cluster 0).bank.map Prod.fst).Nodup ∧
    (swapping 1).now < ((swapping 1).cluster 0).arraysFree := by decide +kernel
/-- Context 1, whose save area of 1 MiB lies at 0x400000, with a spill at a piece; without harts. -/
def spilling (pos : Nat) (harts : FMap Hart) : State :=
  let s := alone.modCtx 1 fun c => { c with spill := some { pos := pos } }
  { s with harts := harts, launches := [],
           contexts := s.contexts.put 1 ((s.contexts.get? 1).getD 0 ||| 0x400000 <<< 128 ||| 1024 <<< 224) }
theorem test_meets_spill :
    (alone.ctxState 1).spill = none ∧ ((spilling 0 [(0, { ctx := 1, stopped := true })]).ctxState 1).spill = some { pos := 0 } ∧
    ((((spilling 0 []).spillPlan 1 { pos := 0 }).offsets).2 ≤ (spilling 0 []).areaRoom 1 ∧
      (spilling 0 []).spoiltPiece 1 ((spilling 0 []).spillPlan 1 { pos := 0 }) 0 = false ∧
      ((spilling 0 []).areaPiece 1 1 { pos := 0 }).any (fun ws => ((spilling 0 []).areaWrite 1 ws).isSome) = true) ∧
    (spilling 9 []).areaPiece 1 1 { pos := 9 } = none ∧
    (let s : State := { alone with harts := [] }
     (s.areaRoom 1 < ((s.spillPlan 1 {}).offsets).2) ∧
       (s.areaWrite 1 [(0, (AreaPlan.header 1 0xFFFF (s.spillPlan 1 {}) {}).take 256)]).isSome = true) := by decide +kernel
/-- A save area whose core record reads a poisoned line of the context's W-space. -/
theorem test_meets_spoilt_spill :
    let s : State := { (alone.modCtx 1 fun c => { c with spill := some { pos := 1 } }) with
      harts := [], poison := [wLoc 0 0 / 128], launches := [(0, { placedLaunch with record := { placedLaunch.record with wuse := 1 } })] }
    s.spoiltPiece 1 { harts := [], cores := [0], launches := [] } 1 = true := by decide +kernel
/-- A command of the outgoing context between two pieces of one destination line, and one at a line's start; a fenced core. -/
theorem test_meets_halts :
    let k := { running 1 with record := copyRecord, read := true, halting := true }
    (k.midLine = false ∧ (commanded [k]).haltStep 0 ≠ none ∧ (commanded [k]).chain 0 3 ≠ {}) ∧
    ([0, 1, 2, 3, 4].any fun n => ({ k with pos := n } : Cmd).midLine) = true := by decide +kernel
theorem test_meets_restore :
    (let s := queues 1 2 0 fun v => { v with switch := some .restoring, turn := some 9, outgoing := some 1 }
     s.ctxPart 2 = 0 ∧ s.comingCtx 0 = some 2 ∧ s.comingCtx 0 ≠ some 1 ∧
     s.restorePiece 2 (fun c => decide ((s.pair (pairOfCore c)).part = some 0) && !s.coreGated c) = none ∧
     s.restored 2 (fun c => decide ((s.pair (pairOfCore c)).part = some 0) && !s.coreGated c) = true ∧ s.harts = []) ∧
    (let s := queues 1 2 0 fun v => { v with switch := some .leaving, turn := some 9, outgoing := some 1, incoming := some 4 }
     s.comingCtx 0 = some 2 ∧ s.restorePiece 2 (fun c => decide ((s.pair (pairOfCore c)).part = some 0) && !s.coreGated c) = none ∧
     s.restored 2 (fun c => decide ((s.pair (pairOfCore c)).part = some 0) && !s.coreGated c) = true) ∧
    ((swapping 0).modCtx 2 fun c => { c with harts := [(6, { ctx := 2 })] }).restorePiece 2 (fun c => decide (c = 0)) ≠ none := by decide +kernel

end Sys2Proof.Tests

namespace Sys2Proof.Tests

/-! ## Events of a hart, a core, the host, the module -/

/-- A board with one result for x5, due in cycle 3. -/
def awaited : Scalar := { board := [{ rd := 5, value := 9, ready := 3 }] }
theorem test_meets_late_results : awaited.board = [{ rd := 5, value := 9, ready := 3, kind := .plain, owner := none }] ∧ (3 ≤ 3 ∧ ¬ (3 ≤ 2)) := by
  decide +kernel
/-- A fetch that succeeds, one of a misaligned pc, a walk that succeeds, and one that fails. -/
theorem test_meets_fetch_and_walk :
    (match alone.fetch.1 with
     | .ok w => decide (w = 0)
     | .error _ => false) = true ∧
    (match (with0 fun t => { t with sc := { t.sc with pc := 2 } }).fetch.1 with
     | .error m => decide (m.cause = 5)
     | .ok _ => false) = true ∧
    (match (alone.translateAfresh 0 0 1 0x1000 .load).1 with
     | .ok q => decide (q.loc = 0x1000)
     | .error _ => false) = true ∧
    (match (alone.translateAfresh 0 0 1 0x200000 .load).1 with
     | .ok _ => false
     | .error c => decide (c = 6)) = true ∧ (alone.tlb.filter fun o => o.isAt 0 0).length < 2048 := by decide +kernel
/-- A steward at rest with HTRAP at the head of its queue, and one that runs. -/
theorem test_meets_routine_start :
    let s := alone.modSteward 0 fun w => { w with events := [htrap] }
    (s.core 0).steward.running = false ∧ (s.core 0).steward.events = [htrap] ∧ htrap.kind < 256 ∧ htrap.ctx < 4096 ∧
    (steward.core 0).steward.running = true := by decide +kernel
/-- Cluster 0 fenced; free; with a saved hart in its bank, and with one that is not saved; with one hart; engines without commands, and with a
command of the system chain; a started entry of hart 0. -/
theorem test_meets_errors :
    ((alone.modCluster 0 fun c => { c with fenced := true }).cluster 0).fenced = true ∧
    (State.reset.harts = [] ∧ validCore (coreOfCluster 0) = true ∧ (State.reset.cluster 0).bank = [] ∧ State.reset.snapshot.armed = true) ∧
    (let s := fun (saved : Bool) => ((placing (fresh 1)).modCluster 0 fun c => { c with bank := [(2, { ctx := 2, launch := 5 })] }).modCtx 2 fun c =>
       { c with saved := saved }
     ((s true).cluster 0).bank = [(2, { ctx := 2, launch := 5 })] ∧ ((s true).ctxState 2).saved = true ∧ ((s false).ctxState 2).saved = false ∧
       (s false).launches.get? 5 = some (fresh 1) ∧ (s false).harts = []) ∧
    ((alone.harts.map Prod.fst) = [0] ∧ clusterOfHart 0 = 0 ∧ (alone.cluster 0).bank = []) ∧
    ((∀ i : Fin 17, i ≠ 16 → ((commanded16 [running 6]).chain 0 i).cmds = []) ∧ ((commanded16 [running 6]).chain 0 16).cmds = [running 6] ∧
      ((commanded16 [running 6]).chain 0 16).ctx = some 0 ∧ (running 6).stage ≠ .done ∧ ((commanded16 [running 6]).core 0).queue = [] ∧
      ((commanded16 [running 6]).core 0).fenced = false) ∧
    (let e := { streaming with started := true }
     (lined [e] alone).resident 0 = true ∧ e.of 0 ((lined [e] alone).hart 0) = true ∧ ((lined [e] alone).hart 0).mwaitErr = none) ∧
    (placing (fresh 1)).launches.get? 5 = some (fresh 1) ∧ (placing (fresh 1)).harts = [] := by decide +kernel

/-- The lone module, in no recovery, with queue 0 of context 1 on chain 3 and its list at 0x2000. -/
def hosted (s : State := chained) : State :=
  { s with queues := [(0, { ctx := 1, weight := 1, core := 0, chain := 3 })], contexts := s.contexts.put 0 ((s.contexts.get? 1).getD 0) }
/-- How a list reads. -/
def listEnd : HostList → Nat
  | .ok l _ => 100 + l.length
  | .refused why => why
  | .wait => 0
/-- How an append ends. -/
def appendEnd : Option (Except Nat (BitVec 32 × State)) → Nat
  | some (.ok p) => 100 + p.1.toNat
  | some (.error why) => why
  | none => 0
/-- The memory of the lone module with some lines owned, and with a poisoned line. -/
def owned (l : List Nat) (s : State := alone) : State := { s with lineOwners := l.map fun n => (n, 0, 3, 1) }
def spoilt (s : State := alone) : State := { s with poison := [64] }
theorem test_meets_host_requests :
    (alone.page.boot.toNat < 0x80 ∧ 0x2000 + 8 ≤ Config.hbmBytes ∧ alone.lineOwners = []) ∧
    ((alone.settle 0x2000 8).poison = [] ∧ 0x2000 % 8 = 0 ∧ 0x2004 % 4 = 0 ∧ 0x2000 / 128 ∈ (spoilt.settle 0x2000 8).poison) ∧
    Claims.littleEndian [1, 0, 0, 0] = (Claims.littleEndian [0, 0, 0, 0] + 1) % 2 ^ (8 * 4) ∧
    ((hosted).queues.get? 0).isSome = true ∧ alone.queues.get? 1 = none ∧
    (2 ∈ ({ hosted with frozenFns := [2] } : State).frozenFns ∧ ¬ 2 ∈ (hosted).frozenFns ∧ (hosted).ctxPart 1 = 1 - 1) := by decide +kernel
/-- A read of the host under way, at a line that is owned and at one that is not; an append that waits, and one that does not. -/
theorem test_meets_host_waits :
    ((alone.reading = none ∧ ({ alone with reading := some (0x2000, 2) } : State).reading = some (0x2000, 2)) ∧
      ({ owned [64] with reading := some (0x2000, 2) } : State).blocked 0x2000 1 = true ∧ alone.blocked 0x2000 1 = false) ∧
    (let s := fun (a : Option Dword) => ({ hosted (chained id markers) with appends := [(0, { asking := a })] } : State)
     (((s (some 0x2000)).appends.get? 0).getD {}).asking ≠ none ∧ (((s none).appends.get? 0).getD {}).asking = none ∧
       ((s (some 0x2000)).appends.get? 0).isSome = true) := by decide +kernel
/-- 21 R437: BUSY of an append register whose append waits. -/
theorem test_append_busy :
    (({ hosted with appends := [(0, { asking := some 0x2000 })] } : State).appendWord 0).getLsbD 33 = true ∧
    (({ hosted with appends := [(0, {})] } : State).appendWord 0).getLsbD 33 = false := by decide +kernel
/-- 21 R427: OP 12 is malformed; 21 R425: an argument byte reads back. -/
theorem test_command_block :
    (match exec (.registerWrite 0x1000 0x10C) alone with
      | .next t => decide (t.page.status = 1) && decide (t.page.go = false)
      | _ => false) = true ∧
    (match exec (.registerWrite 0x1010 0x1234) alone with
      | .next t => decide (t.pageByte 0x1010 = 0x34)
      | _ => false) = true := by decide +kernel
/-- Bytes of a write that are to arrive, at a line that is owned, at one that is not, and over a whole poisoned line. -/
theorem test_meets_host_writes :
    (let s : State := { alone with incoming := [(0x2000, 1), (0x2001, 2)] }
     s.incoming = [(0x2000, 1), (0x2001, 2)] ∧ 0x2000 / 128 ∉ s.poison ∧ s.blocked 0x2000 1 = false ∧ (owned [64] s).blocked 0x2000 1 = true) ∧
    (let s : State := { spoilt with incoming := (List.replicate 128 (7 : Byte)).mapIdx fun i b => (128 * 64 + i, b) }
     64 ∈ s.poison ∧ s.blocked (128 * 64) 128 = false ∧ (owned [64] s).blocked (128 * 64) 128 = true) := by decide +kernel
theorem test_meets_appends :
    let r : Reach := { kind := .copy, core := 0, ctx := 1 }
    (listEnd (hostList (hostReader r) true 257 (hosted (chained id markers)) 0x2000 []) = 102 ∧
      appendEnd ((hosted (chained id markers)).hostAppend r true 0 3 0x2000) = 102 ∧
      appendEnd ((hosted (chained id markers)).hostAppend (stewardReach 0) true 0 16 0x2000) = 102) ∧
    listEnd (hostList (hostReader r) true 257 hosted 0x2000 []) = 3 ∧ listEnd (hostList (hostReader r) true 257 hosted 0x200000 []) = 2 ∧
    (let s := hosted (chained (fun q => { q with cmds := List.replicate 4095 (running 6) }) markers)
     (s.chain 0 3).pend = 4095 ∧ listEnd (hostList (hostReader r) true 257 s 0x2000 []) = 102) ∧
    appendEnd ((hosted).hostAppend (stewardReach 0) true 0 16 0x2000) = 3 := by decide +kernel
/-- Entries of the context table that break R371, and that keep it; descriptors that fit, that name a bound chain, that end a queue. -/
theorem test_meets_tables :
    (Claims.bitsFrom (2 ^ 193 + 2 ^ 64 * 5) 193 1 = 1 ∧ Claims.bitsFrom (2 ^ 193 + 2 ^ 64 * 5) 64 12 = 5 ∧
      Claims.bitsFrom (2 ^ 193 + 2 ^ 64 * 5 + 2 ^ 128) 128 7 = 1) ∧
    (State.reset.hasState 5 = false ∧ (State.reset.ctxState 5).spill = none ∧ alone.hasState 1 = true) ∧
    (let d := 1 + 2 * 1 + 2 ^ 13 + 2 ^ 30 * 4
     Claims.bitsFrom d 0 1 = 1 ∧ Claims.bitsFrom d 1 12 = 1 ∧ Claims.bitsFrom d 30 4 = 4 ∧ (alone.chain 0 4).ctx = none ∧ alone.ctxValid 1 = true ∧
     (alone.pair 0).part = some (alone.ctxPart 1) ∧ alone.queues.get? 7 = none) ∧
    ((chained).chain 0 3).ctx ≠ none ∧
    (((commanded [running 1]).chain 0 3).pend = 1 ∧ (queues 1 1 0 id).queues.get? 9 = some ⟨1, 2, 0, 5, 0⟩ ∧
      ((queues 1 1 0 id).chain 0 5).pend = 0 ∧ ((queues 1 1 0 id).partition 0).turn ≠ some 9 ∧
      ((queues 1 1 0 fun v => { v with incoming := some 9 }).partition 0).incoming = some 9) ∧
    ((∀ p ∈ State.reset.ports, p = 0) ∧ ∃ p ∈ ({ State.reset with ports := [1] } : State).ports, p ≠ 0) := by
  and_intros <;> decide +kernel
theorem test_meets_commands :
    ((0 ∉ State.reset.linkIde ∧ 0 ∉ State.reset.selectiveIde) ∧ 0 ∈ ({ State.reset with linkIde := [0] } : State).linkIde) ∧
    (State.reset.page.go = false ∧ ({ State.reset with page := { go := true } } : State).page.go = true ∧
      (0x1FF#64).getLsbD 8 = true ∧ 11 < (0x1FF#64).toNat % 256 ∧ (0x0FF#64).getLsbD 8 = false) ∧ upperCore 16 = true ∧ upperCore 0 = false ∧
    ((gate .gated true false none alone).twin (twinOfCore 16)).gate = .gated ∧ (State.reset.cluster 0).fenced = false ∧
    (∃ d ∈ (busy 3 (queues 1 1 0 id)).queuesOf 0, d.1 = 4 ∧ (busy 3 (queues 1 1 0 id)).hasWork d.2 = true) ∧
    (alone.pairBusy 0 = true ∧ alone.pairBusy 1 = false) ∧ 2 ∈ ({ State.reset with frozenFns := [2] } : State).frozenFns ∧
    ({ State.reset with snapshot := { State.reset.snapshot with armed := false } } : State).snapshot.armed = false := by decide +kernel
/-- A boot image that reads. -/
def bootImage (readable : Bool) (version : Nat) : BootImage := { readable := readable, version := version, bytes := [], signature := [] }
theorem test_meets_module :
    (neighbours 0 1 = true ∧ neighbours 0 2 = false ∧ (0, 1) ∉ State.reset.downLinks ∧ State.reset.launches = []) ∧
    (let team (core : Nat) : Launch := { fresh 1 with teams := [{ num := 0, core := core }], home := some 0 }
     (team 48).home = some 0 ∧ State.reset.flight = [] ∧ State.reset.harts = [] ∧
     crosses 0 1 (routeXY (pairOfCore 48) 0) = true ∧ crosses 0 1 (routeXY (pairOfCore 0) 0) = false) ∧
    (State.reset.tsync = false ∧ ({ State.reset with lastPtm := some 0, devTime := 9999999 } : State).tsync = true) ∧
    (dieOfCore (coreOfCluster 111) = 0 ∧ coreOfCluster 111 % 16 < 14 ∧ State.reset.stopPending 111 = false) ∧
    State.reset.powered = true ∧ State.reset.page.boot = 0 ∧ (bootImage true 0).readable = true ∧ 7 < 8 ∧ ¬ 8 < 8 ∧
    State.reset.spdm.versioned = false := by decide +kernel

end Sys2Proof.Tests

namespace Sys2Proof.Tests

/-! ## Encodings, memory, the step -/

theorem test_meets_encodings : Instr.wf (.add 1 2 3) = true ∧ encode (.add 1 2 3) 4 = some 0b000010_00001_00010_00011_00000000_100#32 ∧
    decode 0b000010_00001_00010_00011_00000000_100#32 = some (.add 1 2 3) := by decide +kernel
/-- A store whose bytes have neighbours in their line, another line, and W-space beside it; one that ends at the top of HBM. -/
theorem test_meets_home_stores :
    (0x1003 + [(1 : Byte), 2].length ≤ 2 ^ 44 ∧ 0x1003 ≤ 0x1004 ∧ 0x1004 < 0x1003 + [(1 : Byte), 2].length ∧
      0x1005 ≥ 0x1003 + [(1 : Byte), 2].length ∧ 0x1080 / 128 ≥ (0x1003 + [(1 : Byte), 2].length + 127) / 128) ∧
    (2 ^ 44 - 2) + [(1 : Byte), 2].length ≤ 2 ^ 44 ∧
    (alone.homeStore 0 0x1003 [some 1, some 2]).plain 0 0x1004 = 2 ∧ (alone.homeStore 0 0x1003 [some 1, some 2]).plain 0 0x1005 = 0 := by
  decide +kernel
/-- Line j of the lower half of pair 0. -/
def lowLine (j : Nat) : Nat := 1024 * j
theorem lowLine_half {j : Nat} (h : j < 262145) : cacheHalf (lowLine j) = 0 := by
  simp only [cacheHalf, lowLine]
  omega
/-- 262,145 lines over 16,384 sets: some set holds a line and 16 others. -/
theorem test_meets_full_set :
    ∃ (l : List Nat) (line : Nat), line ∉ l ∧ l.length = 16 ∧ (∀ x ∈ line :: l, cacheHalf x = 0) ∧ ∀ x ∈ l, cacheSetOf x = cacheSetOf line := by
  obtain ⟨y, -, hy⟩ := Finset.exists_lt_card_fiber_of_mul_lt_card_of_maps_to (s := Finset.range 262145) (t := Finset.range 16384)
    (f := fun j => cacheSetOf (lowLine j)) (n := 16) (fun j _ => Finset.mem_range.2 (Nat.mod_lt _ (by decide))) (by simp)
  obtain ⟨u, hu, hc⟩ := Finset.exists_subset_card_eq (Nat.succ_le_of_lt hy)
  have hm : ∀ j ∈ u, j < 262145 ∧ cacheSetOf (lowLine j) = y := fun j hj => by simpa using hu hj
  obtain ⟨j, hj⟩ := Finset.card_pos.1 (hc ▸ Nat.succ_pos 16)
  refine ⟨((u.erase j).toList.map lowLine), lowLine j, ?_, ?_, ?_, ?_⟩
  · simp only [List.mem_map, Finset.mem_toList, Finset.mem_erase, lowLine]
    rintro ⟨k, ⟨hk, -⟩, he⟩
    omega
  · simp [Finset.card_erase_of_mem hj, hc]
  · intro x hx
    obtain rfl | hx := List.mem_cons.1 hx
    · exact lowLine_half (hm j hj).1
    · obtain ⟨k, hk, rfl⟩ := List.mem_map.1 hx
      exact lowLine_half (hm k (Finset.mem_of_mem_erase (Finset.mem_toList.1 hk))).1
  · intro x hx
    obtain ⟨k, hk, rfl⟩ := List.mem_map.1 hx
    rw [(hm k (Finset.mem_of_mem_erase (Finset.mem_toList.1 hk))).2, (hm j hj).2]
/-- Ranks under a schedule of one entry: of a line beyond it, and of one that it covers, before and after its step. -/
theorem test_meets_ranks :
    (State.reset.pair 0).rank 5 = some 0 ∧
    ({ schedule := [2 ^ 64 * 8 + 2 ^ 96 + 2 ^ 112 * 3], stepCount := 1 } : DiePair).rank 5 = none ∧
    ({ schedule := [2 ^ 64 * 8 + 2 ^ 96 + 2 ^ 112 * 3], stepCount := 2 } : DiePair).rank 5 = some 3 ∧
    ({ schedule := [2 ^ 64 * 8 + 2 ^ 96 + 2 ^ 112 * 3], stepCount := 2 } : DiePair).rank 8 = some 0 := by decide +kernel
/-- How a step ends. -/
def steps : Host.Outcome State Fault Refusal → Bool
  | .next _ => true
  | .fault _ => false
  | .refused _ => false
theorem test_meets_canonical : Memory.wf alone.mem = true ∧ steps (step { alone with todo := [.hart 0] }) = true := by decide +kernel
/-- The word that an agent tries, or the cause of its refusal. -/
def tried (s : State) (a : Agent) : Nat :=
  match (s.unbar a).nextWord.1 with
  | .ok w => w.toNat
  | .error m => 2 ^ 32 + m.cause
/-- Hart 0 asked for a word: ADD, a word that is none, a misaligned pc. -/
def asked (w : Word) (pc : Dword := 0x1000) : State := { (alone w).modHart 0 (fun t => { t with sc := { t.sc with pc := pc } }) with todo := [.hart 0] }
theorem test_meets_steps :
    (State.reset.inputs = [] ∧ ({ State.reset with powered := false } : State).powered = false) ∧
    (({ alone with inputs := [.getVersion] } : State).inputs = [.getVersion] ∧ alone.powered = true ∧ fromOutside .getVersion = true ∧
      alone.inputWaits .getVersion = false) ∧
    (State.reset.powered = true ∧ State.reset.phase = .background) ∧
    (alone.inputs = [] ∧ alone.powered = true ∧ alone.phase = .issue ∧ alone.todo = []) := by decide +kernel
theorem test_meets_asked :
    (let s := asked 0b000010_00001_00010_00011_00000000_000#32
     s.todo = [.hart 0] ∧ s.phase = .issue ∧ s.mayIssue (.hart 0) = true ∧ s.mayIssue (.hart 1) = false ∧
      tried s (.hart 0) = 0b000010_00001_00010_00011_00000000_000 ∧
      decode 0b000010_00001_00010_00011_00000000_000#32 = some (.add 1 2 3) ∧
      steps (Sys2Proof.Machine.exec (.add 1 2 3) s) = true) ∧
    (let s := asked 0
     s.mayIssue (.hart 0) = true ∧ tried s (.hart 0) = 0 ∧ decode 0 = none ∧
      steps (Sys2Proof.Machine.exec .nonInstructionWord s) = true) ∧
    (let s := asked 0 2
     s.mayIssue (.hart 0) = true ∧ tried s (.hart 0) = 2 ^ 32 + 5 ∧
      steps (Sys2Proof.Machine.exec .instructionFetchFault s) = true) := by decide +kernel
/-- A hart whose retired access has failed; an event that waits behind a write of the host; one that is no event; one without power. -/
theorem test_meets_other_steps :
    (let s := (asked 0b000010_00001_00010_00011_00000000_000#32).modHart 0 fun t => { t with overdue := some (5, 64) }
     s.mayIssue (.hart 0) = true ∧ (s.unbar (.hart 0)).overdueFault = some (5, 64)) ∧
    (({ alone with inputs := [.getVersion], incoming := [(0x2000, 1)] } : State).behindWrite .getVersion = true) ∧
    (fromOutside (.add 1 2 3) = false ∧ isPowerOn (.powerOn []) = true ∧ isPowerOn .getVersion = false) := by decide +kernel
/-- The step of hart 0 at ADD x1, x2, x2 advances its pc. -/
theorem test_step_add :
    (match step (asked 0b000010_00001_00010_00010_00000000_000#32) with
     | .next t => decide ((t.hart 0).sc.pc = 0x1004) && decide ((t.hart 0).csr.tcause = 0)
     | _ => false) = true := by decide +kernel

end Sys2Proof.Tests

namespace Sys2Proof.Tests

/-! ## Waits that keep what they have read -/

/-- A stream of a hart whose block in flight has failed its check. -/
def failed : State := bound fun b => { begun b with fault := some (6, 0x3000) }
/-- A word that orders its hart's accesses behind a failed block, and one that reads a record. -/
theorem test_meets_failed_blocks :
    ((failed.hart 0).failedBlocks ≠ [] ∧ (alone.hart 0).failedBlocks = [] ∧ ordersItself .exit = true ∧ ordersItself (.add 1 2 3) = false) ∧
    (readsRecord (.cqapp 5 6 7) = true ∧ readsRecord (.add 1 2 3) = false) ∧
    (∃ b ∈ (failed.hart 0).failedBlocks, b.owner < 5) := by decide +kernel
/-- A supervisor-level trap while passes of an older array word go on, and at their end. -/
theorem test_meets_trapping :
    let s := fun (done : Nat) => with0 fun t => { t with wait := .trapping 7 64 0x1000, arrayDone := done }
    ((s 0).hart 0).wait = .trapping 7 64 0x1000 ∧ ((s 0).hart 0).arrayDone ≤ (s 0).now ∧ (s 9).now < ((s 9).hart 0).arrayDone ∧
    ((s 9).trapStep 0).isNone = true ∧ ((s 0).trapStep 0).isSome = true := by decide +kernel
/-- A word that has read a byte of its record, while a second hart may write the rest; and one that reads it whole. -/
def halfRead : State :=
  { (put (with0 fun t => { t with wait := .record 9 [(0x2000, 1)] 0x2000 4 }) 0x2000 8 0x0202) with
    harts := (512, { ctx := 1 }) :: [] ++ (with0 fun t => { t with wait := .record 9 [(0x2000, 1)] 0x2000 4 }).harts }
theorem test_meets_records :
    (halfRead.recordGot = [(0x2000, 1)] ∧ halfRead.readsWhole 0x2000 = false ∧ alone.recordGot = [] ∧ alone.readsWhole 0x2000 = true) ∧
    (halfRead.firstX 10 = 0x2000 ∧ halfRead.secondX 11 = 4) ∧ done (halfRead.load .scalar 0x2000 8) = true ∧
    done ((halfRead.modSelf fun t => { t with wait := .record (halfRead.recordDue 0x2000) halfRead.recordGot 0 0 }).noteRecord 0x2000 8) = true := by
  decide +kernel
/-- 11 R257: the byte that is read stands, the other is read now. -/
theorem test_record_bytes :
    (match halfRead.loadRecord 0x2000 2 with
      | .ok bs _ => bs
      | _ => []) = [1, 2] := by decide +kernel
/-- A load block 0 before its check with a KVWIN of its stream next, and with another word. -/
def opening (w : Word) : State :=
  let s := bound fun b => { b with block := (Claims.started b 0 0).block }
  s.homeStore 0 0x1000 ((bytesOfBits w 4).map some)
theorem test_meets_window_next :
    let w := fun (i : Instr) => opening ((encode i 0).getD 0)
    let x := fun (s : State) => (((s.hart 0).stream 1).bind Binding.block).getD { kind := .ld, addr := 0 }
    (x (w (.kvwin 1 10))).last = 0 ∧ (x (w (.kvwin 1 10))).edged = false ∧
    ((w (.kvwin 1 10)).modHart 0 (fun t => { t with sc := { t.sc with instret := BitVec.ofNat 64 ((x (w (.kvwin 1 10))).owner + 1) } })).windowNext
      0 1 (x (w (.kvwin 1 10))) = true ∧
    (w (.add 1 2 3)).windowNext 0 1 (x (w (.add 1 2 3))) = false := by decide +kernel
/-- An ARRIVE whose release is made, with its count to come; WFE with a full latch. -/
theorem test_meets_counts :
    let p : OrderPoint := { streams := 511, loads := false, release := none, acquire := none, ready := 0, settled := true, owner := 3, arrives := true }
    ((with0 fun t => { t with orders := [p] }).hart 0).orders.find? (fun p => p.arrives && p.settled) = some p ∧
    ((with0 fun t => { t with orders := [p] }).arrivalStep 0).isSome = true ∧
    ((with0 fun t => { t with wait := .wfe 0, eventLatch := true }).hart 0).runs = true ∧
    ((with0 fun t => { t with wait := .wfe 0, frozen := true }).hart 0).runs = false := by decide +kernel
/-- Commands whose record is read: a MIGRATE that moves its page, and an MMAF, of a queue with room and of a full one. -/
theorem test_meets_read_commands :
    (let k := { running 5 with read := true, record := 0x400000 * 2 ^ 192 + 2 ^ 256 }
     Claims.alone (commanded16 [k] migrating) 0 16 k ∧
       ((commanded16 [k] migrating).migratePage 0 (Claims.recordBytes k.record 32 2) (recordAddr k.record 16).toNat
         (Claims.recordBytes k.record 24 8)).map Prod.fst = some true) ∧
    (let k := { tiling with read := true, record := 10 * 2 ^ 188 + 12 * 2 ^ 252 + 2 ^ 256 }
     Claims.alone (commanded [k] (mmaf 1 1 3 3)) 0 3 k ∧ ((commanded [k] (mmaf 1 1 3 3)).core 0).queue.length < 8 ∧
       8 ≤ ((lined (List.replicate 8 streaming) (commanded [k] (mmaf 1 1 3 3))).core 0).queue.length) := by
  refine ⟨⟨⟨?_, ?_, rfl, rfl, ?_⟩, ?_⟩, ⟨⟨?_, ?_, rfl, rfl, ?_⟩, ?_, ?_⟩⟩ <;> decide +kernel
/-- A piece of a source in A-space, whose line is one row. -/
theorem test_meets_row_pieces : ({ src := 10 * 2 ^ 60 + 64, dst := 0x4010, len := 16 } : Piece).src.toNat / 2 ^ 60 = 10 ∧
    (pieces (10 * 2 ^ 60 + 32) 0x4000 64).length = 2 := by decide +kernel
/-- A stopping context that a command 5 moves at its tick. -/
theorem test_meets_tick_commands :
    let s := queues 1 2 0 fun v => { v with switch := some .stopping, outgoing := some 1, request := some (some 9, false) }
    s.devTime / 1000 ≠ (s.partition 0).lastTick ∧ (s.partition 0).request = some (some 9, false) ∧ (s.partition 0).reason ≠ 3 ∧
    (s.partition 0).switch ≠ some .leaving := by decide +kernel

end Sys2Proof.Tests

end
end

section
/-! PROOFS. Chapter 01, registers and retirement: what reads what, and when. -/

namespace Sys2Proof.Machine

/-- The end of a word leaves its agent's scalar state as it is. -/
@[simp] theorem State.sc_issued (s : State) : s.issued.sc = s.sc := by
  cases hc : s.cur <;> simp [State.issued, State.sc, hc]

/-- The stall count is the low three bits of the word. -/
theorem State.stall_eq (s : State) : s.stall = s.ir.toNat % 8 := by
  simp [State.stall, stallOf, BitVec.extractLsb'_toNat]

theorem State.sc_retired (s : State) : s.retired.sc = s.sc.retire s.issueCycle s.stall := by
  simp [State.retired, State.finish]

theorem State.sc_jumped (s : State) (target : Dword) : (s.jumped target).sc = s.sc.transfer target s.issueCycle s.stall := by
  simp [State.jumped, State.finish]

end Sys2Proof.Machine

namespace Sys2Proof.Proofs

open Sys2Proof.Machine

/-- Settles O7: both sides are the record update of `Scalar.retire`, or of `Scalar.transfer`, at the issue cycle of the word. -/
theorem retirementMovesThePc : Obligations.RetirementMovesThePc := by
  intro s target
  constructor
  · rw [State.sc_retired, State.stall_eq]; rfl
  · rw [State.sc_jumped, State.stall_eq]; rfl

end Sys2Proof.Proofs
end

section
/-! PROOFS. Results on their way to a register (03 R81, R83): what a register reads in a cycle. -/

namespace Sys2Proof.Machine

/-! ## Fixed-latency results -/

/-- Of results written one after the other, a register keeps the last of its own. -/
theorem Scalar.get_foldl_put (l : List PendingWrite) (sc : Scalar) {r : Reg} (hr : r ≠ 0) :
    (l.foldl (fun a w => a.put w.rd w.value) sc).get r =
      (l.filter fun w => decide (w.rd = r)).foldl (fun _ w => w.value) (sc.get r) := by
  induction l generalizing sc with
  | nil => rfl
  | cons w l ih =>
    rw [List.foldl_cons, ih]
    by_cases hw : w.rd = r
    · subst hw
      simp [Scalar.get_put_same _ hr]
    · simp [hw, Scalar.get_put_other _ (Ne.symm hw)]

/-- What a register reads once the results of a cycle are written: the last of those on their way to it that have come. -/
theorem Scalar.get_commit (sc : Scalar) (n : Nat) {r : Reg} (hr : r ≠ 0) :
    (sc.commit n).get r =
      (sc.fixed.filter fun w => decide (w.rd = r) && decide (w.ready ≤ n)).foldl (fun _ w => w.value) (sc.get r) := by
  rw [← List.filter_filter, ← Scalar.get_foldl_put _ _ hr]
  rfl

/-- A result that has come is what its register reads, whatever was on its way before. -/
theorem Scalar.get_commit_later_same (sc : Scalar) {d : Reg} (v : Dword) {t n : Nat} (hd : d ≠ 0) (hn : t ≤ n) :
    ((sc.later d v t).commit n).get d = v := by
  rw [Scalar.get_commit _ _ hd, Scalar.later, if_neg hd]
  simp [hn]

/-- Before that, its register reads as if it and the older results for the register were not on their way. -/
theorem Scalar.get_commit_later_before (sc : Scalar) {d : Reg} (v : Dword) {t n : Nat} (hn : n < t) :
    ((sc.later d v t).commit n).get d = ((sc.discard d).commit n).get d := by
  by_cases hd : d = 0
  · rw [hd]; rfl
  · rw [Scalar.get_commit _ _ hd, Scalar.get_commit _ _ hd, Scalar.later, if_neg hd]
    simp [Scalar.discard, Nat.not_le.2 hn, Scalar.get]

theorem Scalar.get_commit_discard_other (sc : Scalar) {d r : Reg} (n : Nat) (h : r ≠ d) :
    ((sc.discard d).commit n).get r = (sc.commit n).get r := by
  by_cases hr : r = 0
  · rw [hr]; rfl
  · rw [Scalar.get_commit _ _ hr, Scalar.get_commit _ _ hr, Scalar.get_discard]
    congr 1
    simp only [Scalar.discard, List.filter_filter]
    refine List.filter_congr fun w _ => ?_
    by_cases hw : w.rd = r <;> simp [hw, h]

/-- Every other register reads as it did. -/
theorem Scalar.get_commit_later_other (sc : Scalar) {d r : Reg} (v : Dword) (t n : Nat) (h : r ≠ d) :
    ((sc.later d v t).commit n).get r = (sc.commit n).get r := by
  by_cases hd : d = 0
  · rw [Scalar.later, if_pos hd]
  by_cases hr : r = 0
  · rw [hr]; rfl
  · rw [← Scalar.get_commit_discard_other sc n h, Scalar.get_commit _ _ hr, Scalar.get_commit _ _ hr, Scalar.later, if_neg hd]
    simp [h.symm, Scalar.get]

/-- A fixed-latency result is on its way to its register, and to the copy register where the word carries one. -/
theorem State.sc_result_none {s : State} (h : s.copyReg = none) (d : Reg) (v : Dword) (lat : Nat) :
    (s.result d v lat).sc = s.sc.later d v (s.now + lat) := by
  simp [State.result, h]

theorem State.sc_result_some {s : State} {c : Reg} (h : s.copyReg = some c) (d : Reg) (v : Dword) (lat : Nat) :
    (s.result d v lat).sc = (s.sc.later d v (s.now + lat)).later c v (s.now + lat) := by
  simp [State.result, h]

/-! ## Scoreboarded results -/

theorem State.sc_resultAt_none {s : State} (h : s.copyReg = none) (d : Reg) (v : Dword) (n : Nat) (k : ResultKind) (o : Option Nat) :
    (s.resultAt d v n k o).sc = s.sc.onBoard d v n k o := by
  simp [State.resultAt, h]

/-- While no entry of the board is due, none arrives. -/
theorem Scalar.arriveBoard_none {sc : Scalar} {n : Nat} (h : ∀ w ∈ sc.board, w.due n = false) (p : PendingWrite → Bool) :
    sc.arriveBoard n p = sc := by
  have hd : (sc.board.filter fun w => w.due n && p w) = [] := by
    rw [List.filter_eq_nil_iff]
    intro w hw
    simp [h w hw]
  have hk : (sc.board.filter fun w => !(w.due n && p w)) = sc.board := by
    rw [List.filter_eq_self]
    intro w hw
    simp [h w hw]
  simp only [Scalar.arriveBoard, hd, hk, List.foldl_nil]

/-- The one entry of a board arrives once it is due. -/
theorem Scalar.arriveBoard_one {sc : Scalar} {w : PendingWrite} {n : Nat} {p : PendingWrite → Bool} (hb : sc.board = [w])
    (hd : w.due n = true) (hp : p w = true) : sc.arriveBoard n p = { sc.put w.rd w.value with board := [] } := by
  simp [Scalar.arriveBoard, hb, hd, hp]

theorem Scalar.board_onBoard {sc : Scalar} {d : Reg} (hd : d ≠ 0) (hb : sc.board = []) (v : Dword) (n : Nat) (k : ResultKind)
    (o : Option Nat) : (sc.onBoard d v n k o).board = [{ rd := d, value := v, ready := n, kind := k, owner := o }] := by
  rw [Scalar.onBoard, if_neg hd]
  simp [Scalar.discard, hb]

/-- A word waits for a scoreboarded result of a register that it reads. -/
theorem State.waits_of_source {s : State} {i : Instr} {w : PendingWrite} (hw : w ∈ s.sc.board) (hr : w.rd ∈ scalarSources i) :
    s.waits i = true := by
  simp only [State.waits, Bool.or_eq_true, List.any_eq_true]
  exact .inl ⟨w, hw, .inl ⟨w.rd, hr, decide_eq_true rfl⟩⟩

/-- A word waits for a query that still writes the word's destination (06 R146). -/
theorem State.waits_of_query {s : State} {i : Instr} {w : PendingWrite} (hw : w ∈ s.sc.board) (hk : w.kind = .query)
    (hd : scalarDest i = some w.rd) : s.waits i = true := by
  simp only [State.waits, Bool.or_eq_true, List.any_eq_true, Bool.and_eq_true]
  exact .inl ⟨w, hw, .inr ⟨by rw [hk]; rfl, .inl (decide_eq_true hd)⟩⟩

end Sys2Proof.Machine

namespace Sys2Proof.Proofs

open Sys2Proof.Machine

theorem resultsAppearAfterTheirLatency : Parts.ResultsAppearAfterTheirLatency := by
  intro s d r v lat n
  simp only [State.regAt]
  rw [State.sc_modSc]
  cases hc : s.copyReg with
  | none =>
    rw [State.sc_result_none hc]
    refine ⟨rfl, fun hd hn => ?_, fun _ _ hn => ?_, fun _ h => (Option.some_ne_none _ h.symm).elim, fun hd _ => ?_⟩
    · exact Scalar.get_commit_later_same _ _ hd hn
    · exact Scalar.get_commit_later_before _ _ hn
    · exact Scalar.get_commit_later_other _ _ _ _ hd
  | some c =>
    rw [State.sc_result_some hc]
    refine ⟨rfl, fun hd hn => ?_, fun _ hcopy hn => ?_, fun c' h h0 hn => ?_, fun hd hcopy => ?_⟩
    · by_cases h : d = c
      · subst h
        exact Scalar.get_commit_later_same _ _ hd hn
      · exact (Scalar.get_commit_later_other _ _ _ _ h).trans (Scalar.get_commit_later_same _ _ hd hn)
    · have h : d ≠ c := fun e => hcopy (congrArg some e.symm)
      exact (Scalar.get_commit_later_other _ _ _ _ h).trans (Scalar.get_commit_later_before _ _ hn)
    · obtain rfl := Option.some.inj h
      exact Scalar.get_commit_later_same _ _ h0 hn
    · have h : r ≠ c := fun e => hcopy (congrArg some e.symm)
      exact (Scalar.get_commit_later_other _ _ _ _ h).trans (Scalar.get_commit_later_other _ _ _ _ hd)

theorem scoreboardedResultsHoldTheirReaders : Parts.ScoreboardedResultsHoldTheirReaders := by
  intro s d v ready owner i hd hcopy hboard
  have board : ∀ v n k o, (s.resultAt d v n k o).sc.board = [{ rd := d, value := v, ready := n, kind := k, owner := o }] := by
    intro v n k o
    rw [State.sc_resultAt_none hcopy, Scalar.board_onBoard hd hboard]
  have arrives : ∀ (sc : Scalar) (k : ResultKind) (n : Nat), (k != .div) = true → ready ≤ n →
      sc.board = [{ rd := d, value := v, ready := ready, kind := k, owner := none }] →
      (sc.arriveBoard n fun w => w.kind != .div).get d = v ∧ (sc.arriveBoard n fun w => w.kind != .div).board = [] := by
    intro sc k n hk hn hb
    rw [Scalar.arriveBoard_one hb (by simpa [PendingWrite.due] using hn) hk]
    exact ⟨Scalar.get_put_same sc hd v, rfl⟩
  refine ⟨⟨fun h => ?_, fun n hn => ?_⟩, fun n hn => ?_, fun h => ?_, ⟨fun h => ?_, fun n hn => ?_⟩, fun n hn => ?_⟩
  · exact State.waits_of_source (by rw [board]; exact List.mem_singleton_self _) h
  · refine Scalar.arriveBoard_none ?_ _
    simpa [board, PendingWrite.due] using hn
  · exact arrives _ .plain n rfl hn (board _ _ _ _)
  · exact State.waits_of_query (by rw [board]; exact List.mem_singleton_self _) rfl h
  · exact State.waits_of_source (by rw [board]; exact List.mem_singleton_self _) h
  · refine Scalar.arriveBoard_none ?_ _
    simp [board, PendingWrite.due]
  · exact arrives _ .memory n rfl hn (by simp [Scalar.bring, board])

/-- Settles O6: a register reads the last of its results that have come (`Scalar.get_commit`), and a board of one entry gives that
entry up in its cycle (`Scalar.arriveBoard_one`). -/
theorem resultsAppearInTheirCycle : Obligations.ResultsAppearInTheirCycle :=
  ⟨resultsAppearAfterTheirLatency, scoreboardedResultsHoldTheirReaders⟩

end Sys2Proof.Proofs
end

section
/-! PROOFS. Taking a trap (01 R44 to R46, 17 R352 to R354): into the hart's own handler, or held for the steward. -/

namespace Sys2Proof.Machine

theorem supervisorCause_iff (c : Nat) : supervisorCause c = true ↔ c = 0x06 ∨ c = 0x07 ∨ c = 0x09 := by
  simp [supervisorCause, causeLdpf, causeProt, causeUce, or_assoc]

@[simp] theorem Scalar.commitAll_commitAll (sc : Scalar) : sc.commitAll.commitAll = sc.commitAll :=
  Scalar.commitAll_none rfl

/-- Writing results changes registers alone. -/
theorem Scalar.foldl_put_same (l : List PendingWrite) (sc : Scalar) :
    { l.foldl (fun a w => a.put w.rd w.value) sc with x := sc.x } = sc := by
  induction l generalizing sc with
  | nil => rfl
  | cons w l ih =>
    have hp : { sc.put w.rd w.value with x := sc.x } = sc := by unfold Scalar.put; split <;> rfl
    have := congrArg (fun c : Scalar => { c with x := sc.x }) (ih (sc.put w.rd w.value))
    exact this.trans hp

theorem Scalar.commitAll_same (sc : Scalar) : { sc.commitAll with x := sc.x, fixed := sc.fixed } = sc :=
  congrArg (fun c : Scalar => { c with fixed := sc.fixed }) (Scalar.foldl_put_same sc.fixed sc)

/-- A freeze is noted in the snapshot and in the state of the context alone. -/
theorem State.noteFrozen_eq (s : State) (c : CoreId) (ctx : Nat) (m : BitVec 16) :
    ∃ snap states, s.noteFrozen c ctx m = { s with snapshot := snap, ctxStates := states } := by
  simp only [State.noteFrozen, State.trigger]
  split <;> exact ⟨_, _, rfl⟩

/-- The record of a hart that a trap holds. -/
def Hart.heldWith (t : Hart) (cause : Nat) (value addr : Dword) : Hart :=
  { t with sc := t.sc.commitAll, held := some { cause := cause, value := value, addr := addr, frozen := cause == causeProt },
           wait := .none, saved := false, kept := false }

/-- What holding a hart changes before it tells the steward: the hart's record, and what a freeze notes. -/
def State.holding (s : State) (h : HartKey) (cause : Nat) (value addr : Dword) : State :=
  let u := s.setHart h ((s.hart h).heldWith cause value addr)
  if cause = 0x07 then u.noteFrozen (coreOfHart h) (s.hart h).ctx (hartMaster h) else u

theorem State.holdHart_eq (s : State) (h : HartKey) (cause : Nat) (value addr : Dword) :
    s.holdHart h cause value addr = (s.holding h cause value addr).postEvent (coreOfHart h)
      { kind := 1, master := hartMaster h, ctx := (s.hart h).ctx, value := value, pc := addr, x := BitVec.ofNat 8 cause,
        who := some ((s.hart h).launch, (s.hart h).team) } := by
  by_cases hc : cause = 0x07 <;> simp [State.holdHart, State.holding, causeProt, hc] <;> rfl

theorem State.holding_frame (s : State) (h : HartKey) (cause : Nat) (value addr : Dword) :
    ∃ snap states, s.holding h cause value addr =
      { s.setHart h ((s.hart h).heldWith cause value addr) with snapshot := snap, ctxStates := states } := by
  unfold State.holding
  split
  · exact State.noteFrozen_eq ..
  · exact ⟨_, _, rfl⟩

/-- A hart that is held, as the statements say it. -/
theorem State.holdHart_heldAt (s : State) (h : HartKey) (cause : Nat) (value addr : Dword) :
    Claims.HeldAt s h cause value addr (s.holdHart h cause value addr) := by
  obtain ⟨snap, states, frame⟩ := s.holding_frame h cause value addr
  have harts : ∀ g, (s.holdHart h cause value addr).hart g = (s.setHart h ((s.hart h).heldWith cause value addr)).hart g := by
    intro g
    rw [State.holdHart_eq, frame]
    rfl
  have here : (s.holdHart h cause value addr).hart h = (s.hart h).heldWith cause value addr := by
    rw [harts, State.hart_setHart_same]
  refine ⟨?_, ?_, ?_, ?_, ?_, ?_, ?_, ?_, ?_⟩
  · rw [here]
    rfl
  · rw [here]; rfl
  · rw [here]; rfl
  · rw [here]; rfl
  · rw [here]
    rfl
  · rw [State.holdHart_eq, State.postEvent, State.core_modSteward_same, frame]
    rfl
  · intro hc
    rw [State.holdHart_eq, State.holding, if_neg hc]
    rfl
  · rw [State.holdHart_eq, frame]
    rfl
  · intro g hg
    rw [harts, State.hart_setHart_other _ _ hg]

end Sys2Proof.Machine

namespace Sys2Proof.Proofs

open Sys2Proof.Machine

theorem trapsEnterTheHandler : Parts.TrapsEnterTheHandler := by
  intro s h cause value addr hlt hl hp hu hinh htvec
  have hs : supervisorCause cause = false := by
    rw [← Bool.not_eq_true, supervisorCause_iff]
    rintro (h | h | h)
    exacts [hl h, hp h, hu h]
  rw [State.takeTrap_enters s value addr hs hinh htvec, State.hart_modHart_same]
  have hsame := Scalar.commitAll_same (s.hart h).sc
  have loops : (s.hart h).sc.commitAll.loops = (s.hart h).sc.loops := (congrArg Scalar.loops hsame :)
  have instret : (s.hart h).sc.commitAll.instret = (s.hart h).sc.instret := (congrArg Scalar.instret hsame :)
  have preds : (s.hart h).sc.commitAll.preds = (s.hart h).sc.preds := (congrArg Scalar.preds hsame :)
  have latch : (s.hart h).sc.commitAll.latch = (s.hart h).sc.latch := (congrArg Scalar.latch hsame :)
  refine ⟨rfl, ?_, rfl, congrArg packLatch latch, rfl, rfl, rfl, rfl, rfl, rfl, loops, instret, rfl, rfl, preds, rfl, rfl, rfl, ?_⟩
  · exact (BitVec.toNat_ofNat cause 64).trans (Nat.mod_eq_of_lt hlt)
  · intro g hg
    exact State.hart_modHart_other _ _ hg

/-- A hart whose pending results are written and whose claim is given up is held just as it was before that. -/
theorem heldAt_of_commitAll {s t : State} {h : HartKey} {cause : Nat} {value addr : Dword}
    (ht : Claims.HeldAt (s.modHart h fun t => { t with sc := t.sc.commitAll, wait := .none, claim := none }) h cause value addr t) :
    Claims.HeldAt s h cause value addr t := by
  obtain ⟨held, csr, sc, wait, frozen, events, outside, rest, others⟩ := ht
  simp only [State.hart_modHart_same, Scalar.commitAll_commitAll, State.core_modHart] at csr sc frozen events
  refine ⟨held, csr, sc, wait, frozen, events, fun hc => ?_, ?_, fun g hg => ?_⟩
  · exact (State.modHart_sameOutside s h _).trans (outside hc)
  · exact (congrArg (fun u : State => { u with harts := s.harts }) rest :)
  · rw [others g hg, State.hart_modHart_other _ _ hg]

theorem otherTrapsHoldTheHart : Parts.OtherTrapsHoldTheHart := by
  intro s h cause value addr hcause
  have hs : supervisorCause cause = true ∨ (s.hart h).csr.inh = true ∨ (s.hart h).csr.tvec = 0 := by
    rw [supervisorCause_iff, or_assoc, or_assoc]
    exact hcause
  refine ⟨fun hdone => ?_, fun hbusy => ?_, fun hwait => ⟨fun hbusy => ?_, fun hdone => ⟨_, ?_, s.holdHart_heldAt h cause value addr⟩⟩⟩
  · simp only [State.takeTrap_holds s value addr hs hdone]
    exact heldAt_of_commitAll (State.holdHart_heldAt _ h cause value addr)
  · simp only [State.takeTrap_waits s value addr hs hbusy]
    exact ⟨State.hart_modHart_same _ _ _, rfl, rfl, fun g hg => State.hart_modHart_other _ _ hg⟩
  · simp [State.trapStep, hwait, hbusy]
  · simp [State.trapStep, hwait, Nat.not_lt.2 hdone]

/-- Settles O11: the trap of a program enters the handler by one record update of the hart; any other holds the hart, at once or
once the passes of its older array words have ended. -/
theorem trapsEnterTheHandlerOrHoldTheHart : Obligations.TrapsEnterTheHandlerOrHoldTheHart :=
  ⟨trapsEnterTheHandler, otherTrapsHoldTheHart⟩

end Sys2Proof.Proofs
end

section
/-! PROOFS. The frame of the scalar words leaves out the trap PRIV of a CSR read. -/

namespace Sys2Proof.Machine

/-- A CSR number of a steward raises PRIV in a hart (01 R22, 04 R112). -/
theorem exec_csrr_priv {s : State} {h : HartKey} {d : Reg} {n : BitVec 11} (hc : s.cur = .hart h) (hr : s.Ready (.csrr d n))
    (hn : 0x100 ≤ n.toNat) : exec (.csrr d n) s = .next (s.due.trapped causePriv s.due.wordValue) := by
  have hx : exec (.csrr d n) s = .next (runWord (.csrr d n) (csrFlow d n fun _ _ => none) s) := rfl
  have hcur : s.due.cur = .hart h := by simpa using hc
  rw [hx, runWord_ready hr]
  simp only [csrFlow, hcur, if_pos hn]
  rfl

end Sys2Proof.Machine

namespace Sys2Proof.Proofs

open Sys2Proof.Machine

/-- The trap registers of a hart whose word traps into its handler. -/
theorem csr_trapped {s : State} {h : HartKey} {cause : Nat} (value : Dword) (hc : s.cur = .hart h) (hlt : cause < 2 ^ 64)
    (hs : cause ≠ 0x06 ∧ cause ≠ 0x07 ∧ cause ≠ 0x09) (hinh : (s.hart h).csr.inh = false) (htvec : (s.hart h).csr.tvec ≠ 0) :
    ((s.trapped cause value).hart h).csr.tcause.toNat = cause ∧ ((s.trapped cause value).hart h).csr.inh = true := by
  obtain ⟨-, tcause, -, -, inh, -⟩ :=
    trapsEnterTheHandler s h cause value (s.hart h).sc.pc hlt hs.1 hs.2.1 hs.2.2 hinh htvec
  rw [State.trapped_hart hc]
  exact ⟨tcause, inh⟩

/-- The module with one hart, which has a handler at address 8. -/
def withHandler : State := { State.reset with cur := .hart 0, harts := [(0, { csr := { tvec := 8 } })] }

theorem withHandler_ready : withHandler.Ready (.csrr 1 0x100) := State.Ready.of_check (by decide +kernel)

/-- Refutes O8: `csrr x1, 0x100` names a CSR of a steward, so in a hart it raises PRIV (01 R22, 04 R112), cause 0x02, which the
statement does not list with ILL, ALIGN, BOUNDS and LOOPOVF; the trap entry sets INH, so the frame does not hold of it either. -/
theorem not_scalarWordsKeepTheRest : ¬ Obligations.ScalarWordsKeepTheRest := by
  intro claim
  have handler : withHandler.due.cur = .hart 0 ∧ (withHandler.due.hart 0).csr.inh = false ∧ (withHandler.due.hart 0).csr.tvec ≠ 0 := by
    decide +kernel
  obtain ⟨hcur, hinh, htvec⟩ := handler
  obtain ⟨priv, entered⟩ := csr_trapped withHandler.due.wordValue hcur (cause := causePriv) (by decide) (by decide) hinh htvec
  have hexec := exec_csrr_priv (d := 1) (n := 0x100) (h := 0) rfl withHandler_ready (by decide)
  rcases claim (.csrr 1 0x100) withHandler _ 0 (some 1) rfl withHandler_ready rfl hexec with
    ⟨cause, value, listed, trapped⟩ | ⟨-, -, beside, -⟩
  · have other := (csr_trapped value hcur (cause := cause) (by omega) (by omega) hinh htvec).1
    rw [← trapped, priv] at other
    simp only [causePriv] at other
    omega
  · have kept : ((withHandler.due.trapped causePriv withHandler.due.wordValue).hart 0).csr = (withHandler.hart 0).csr :=
      (congrArg Hart.csr beside :)
    rw [kept] at entered
    exact absurd entered (by decide +kernel)

end Sys2Proof.Proofs
end

section
/-! PROOFS. Reset (01 R21, R30, 07 R165, 21 R426 to R428). -/

namespace Sys2Proof.Machine

/-- Every byte of the device reads zero at reset (log 15). -/
theorem State.reset_byte {a : Nat} (h : a < 2 ^ 50) : State.reset.byte a = 0 := if_pos h

/-- A column, slot or register of a blank vector is the blank one, within its bounds as beyond them. -/
theorem getD_replicate {α : Type} (n i : Nat) (a : α) : (Vector.replicate n a).getD i a = a := by
  by_cases hi : i < n <;> simp [Vector.getD, hi]

theorem State.reset_tag (h : HartKey) (t e : Nat) : State.reset.tag h t e = false := by
  have hz : ((State.reset.cluster (clusterOfHart h)).tags.getD (4 * slotOfHart h + t) 0) = 0 := getD_replicate 16 _ 0
  rw [State.tag, hz]
  exact BitVec.getLsbD_zero

theorem State.reset_drainSlot (c : CoreId) (ctx n : Nat) : (State.reset.core c).drainSlot ctx n = none := by
  have hs : (State.reset.core c).slots[n]?.join = none := by
    show (Vector.replicate 32 (none : Option DrainSlot))[n]?.join = none
    by_cases hn : n < 32 <;> simp [hn]
  rw [CoreState.drainSlot, hs]

end Sys2Proof.Machine

namespace Sys2Proof.Proofs

open Sys2Proof.Machine

/-- Settles O59: the reset state and the blank hart are written out; only bytes, tags, slots and registers need an argument for
every index. -/
theorem resetLeavesTheManualsValues : Obligations.ResetLeavesTheManualsValues := by
  refine ⟨⟨State.reset_canonical, rfl, rfl, rfl, rfl, rfl, rfl, rfl, rfl, rfl, rfl, rfl, rfl, rfl, rfl, rfl, rfl, rfl, rfl, rfl, rfl, rfl,
    rfl, fun _ => State.reset_byte, fun _ _ => rfl, State.reset_tag, ?_, ?_, fun _ => ⟨rfl, rfl, rfl⟩⟩,
    ?_, rfl, rfl, rfl, ?_, rfl, rfl, rfl, rfl, rfl, rfl, rfl, rfl, rfl, rfl, rfl, rfl, rfl, rfl, rfl, rfl, rfl⟩
  · intro c n
    exact ⟨State.reset_drainSlot c 0 n, rfl, rfl⟩
  · intro k n
    exact ⟨getD_replicate 4 n none, rfl⟩
  · intro r
    simp [Scalar.get]
  · intro v
    simp [Hart.field]

end Sys2Proof.Proofs
end

section
/-! PROOFS. Columns of rows and of tags (01 R28, R31, R38): what a bit reads after a part of a row or of a column is replaced. -/

namespace Sys2Proof.Machine

/-! ## A part of a number replaced -/

/-- A number with w bits from lo on replaced, taken apart at lo and at lo + w. -/
theorem splice_eq (r lo w v : Nat) :
    r - r / 2 ^ lo % 2 ^ w * 2 ^ lo + v % 2 ^ w * 2 ^ lo = 2 ^ lo * (2 ^ w * (r / 2 ^ lo / 2 ^ w) + v % 2 ^ w) + r % 2 ^ lo := by
  have hr := Nat.div_add_mod r (2 ^ lo)
  have hq := congrArg (2 ^ lo * ·) (Nat.div_add_mod (r / 2 ^ lo) (2 ^ w))
  simp only [Nat.mul_add] at hq
  rw [Nat.mul_add, Nat.mul_comm _ (2 ^ lo), Nat.mul_comm (v % 2 ^ w)]
  omega

theorem testBit_splice (r lo w v j : Nat) :
    (r - r / 2 ^ lo % 2 ^ w * 2 ^ lo + v % 2 ^ w * 2 ^ lo).testBit j =
      if lo ≤ j ∧ j < lo + w then v.testBit (j - lo) else r.testBit j := by
  rw [splice_eq, Nat.testBit_two_pow_mul_add _ (Nat.mod_lt _ (Nat.two_pow_pos lo)),
    Nat.testBit_two_pow_mul_add _ (Nat.mod_lt _ (Nat.two_pow_pos w))]
  simp only [Nat.testBit_mod_two_pow, Nat.testBit_div_two_pow]
  by_cases hlo : j < lo
  · simp [hlo, Nat.not_le.2 hlo]
  · by_cases hw : j < lo + w
    · simp [hlo, hw, Nat.not_lt.1 hlo, show j - lo < w by omega]
    · simp [hlo, hw, show ¬ j - lo < w by omega, show j - lo - w + w + lo = j by omega]

/-! ## Rows -/

theorem getLsbD_setRowBits (r : Row) (lo w v : Nat) {j : Nat} (hj : j < 512) :
    (setRowBits r lo w v).getLsbD j = if lo ≤ j ∧ j < lo + w then v.testBit (j - lo) else r.getLsbD j := by
  simp only [setRowBits, rowBits, BitVec.getLsbD_ofNat, testBit_splice, hj, decide_true, Bool.true_and]
  rfl

theorem testBit_rowBits (r : Row) (lo w j : Nat) : (rowBits r lo w).testBit j = (decide (j < w) && r.getLsbD (lo + j)) := by
  rw [rowBits, Nat.testBit_mod_two_pow, Nat.testBit_div_two_pow, Nat.add_comm]
  rfl

theorem rowBits_lt (r : Row) (lo w : Nat) : rowBits r lo w < 2 ^ w := Nat.mod_lt _ (Nat.two_pow_pos w)

/-! ## Columns -/

theorem testBit_bitsOf (f : Nat → Bool) (n i : Nat) : (bitsOf f n).testBit i = (decide (i < n) && f i) := by
  have bound : ∀ n, bitsOf f n < 2 ^ n := by
    intro n
    induction n with
    | zero => exact Nat.one_pos
    | succ n ih =>
      rw [bitsOf, Nat.pow_succ]
      split <;> omega
  induction n with
  | zero => simp [bitsOf]
  | succ n ih =>
    have hb : bitsOf f (n + 1) = 2 ^ n * (if f n then 1 else 0) + bitsOf f n := by
      rw [bitsOf]
      split <;> omega
    rw [hb, Nat.testBit_two_pow_mul_add _ (bound n), ih]
    rcases Nat.lt_trichotomy i n with h | h | h
    · simp [h, Nat.lt_succ_of_lt h]
    · subst h
      by_cases hf : f i <;> simp [hf]
    · have hi : i - n ≠ 0 := by omega
      have h1 : Nat.testBit 1 (i - n) = false := Bool.eq_false_iff.2 (mt Nat.testBit_one_eq_true_iff_self_eq_zero.1 hi)
      by_cases hf : f n <;> simp [hf, h1, Nat.not_lt.2 h.le, show ¬ i < n + 1 by omega]

theorem colGet_colSplice (c : Column) (lo n : Nat) (f : Nat → Bool) {e : Nat} (he : e < 16384) :
    colGet (colSplice c lo n (bitsOf (fun i => f (lo + i)) n)) e = if lo ≤ e ∧ e < lo + n then f e else colGet c e := by
  simp only [colGet, colSplice, BitVec.getLsbD_ofNat, testBit_splice, he, decide_true, Bool.true_and, testBit_bitsOf]
  split
  · rename_i h
    simp [show e - lo < n by omega, show lo + (e - lo) = e by omega]
  · rfl

theorem slotOfHart_lt (h : HartKey) : slotOfHart h < 4 := Nat.mod_lt _ (by decide)

theorem getD_setIfInBounds_same {α : Type} {n i : Nat} (v : Vector α n) (hi : i < n) (a d : α) : (v.setIfInBounds i a).getD i d = a := by
  simp [Vector.getD, hi]

theorem getD_setIfInBounds_other {α : Type} {n i j : Nat} (v : Vector α n) (h : i ≠ j) (a d : α) :
    (v.setIfInBounds i a).getD j d = v.getD j d := by
  simp [Vector.getD, Array.getD_eq_getD_getElem?, h]

/-- Tags after a write: the rows of the range in that column of that hart, and no other bit. -/
theorem State.tag_setTags_same (s : State) (h : HartKey) {t : Nat} (ht : t < 4) (lo n : Nat) (f : Nat → Bool) {e : Nat}
    (he : e < 16384) : (s.setTags h t lo n f).tag h t e = if lo ≤ e ∧ e < lo + n then f e else s.tag h t e := by
  have hslot := slotOfHart_lt h
  have hi : 4 * slotOfHart h + t < 16 := by omega
  rw [State.tag, State.setTags, State.cluster_modCluster_same]
  simp only [getD_setIfInBounds_same _ hi]
  rw [colGet_colSplice _ _ _ _ he]
  rfl

theorem State.tag_setTags_other (s : State) {h g : HartKey} {t q : Nat} (ht : t < 4) (hq : q < 4) (lo n : Nat) (f : Nat → Bool) (e : Nat)
    (hg : clusterOfHart g ≠ clusterOfHart h ∨ slotOfHart g ≠ slotOfHart h ∨ q ≠ t) :
    (s.setTags h t lo n f).tag g q e = s.tag g q e := by
  by_cases hc : clusterOfHart g = clusterOfHart h
  · have hslot := slotOfHart_lt h
    have hslot' := slotOfHart_lt g
    have hne : 4 * slotOfHart h + t ≠ 4 * slotOfHart g + q := by
      have := hg.resolve_left (not_not_intro hc)
      omega
    rw [State.tag, State.setTags, hc, State.cluster_modCluster_same, State.tag, hc]
    simp only [getD_setIfInBounds_other _ hne]
  · rw [State.tag, State.setTags, State.cluster_modCluster_other _ _ hc]
    rfl

theorem State.tgv_setTags (s : State) (h g : HartKey) (t lo n : Nat) (f : Nat → Bool) (e : Nat) :
    (s.setTags h t lo n f).tgv g e = s.tgv g e := by
  by_cases hc : clusterOfHart g = clusterOfHart h
  · rw [State.tgv, State.setTags, hc, State.cluster_modCluster_same, State.tgv, hc]
  · rw [State.tgv, State.setTags, State.cluster_modCluster_other _ _ hc]
    rfl

/-- Validity after a write: the rows of the range in the column of that hart, and no other bit. -/
theorem State.tgv_setTgvs_same (s : State) (h : HartKey) (lo n : Nat) (f : Nat → Bool) {e : Nat} (he : e < 16384) :
    (s.setTgvs h lo n f).tgv h e = if lo ≤ e ∧ e < lo + n then f e else s.tgv h e := by
  have hi : slotOfHart h < 4 := slotOfHart_lt h
  rw [State.tgv, State.setTgvs, State.cluster_modCluster_same]
  simp only [getD_setIfInBounds_same _ hi]
  rw [colGet_colSplice _ _ _ _ he]
  rfl

theorem State.tgv_setTgvs_other (s : State) {h g : HartKey} (lo n : Nat) (f : Nat → Bool) (e : Nat)
    (hg : clusterOfHart g ≠ clusterOfHart h ∨ slotOfHart g ≠ slotOfHart h) : (s.setTgvs h lo n f).tgv g e = s.tgv g e := by
  by_cases hc : clusterOfHart g = clusterOfHart h
  · have hne : slotOfHart h ≠ slotOfHart g := Ne.symm (hg.resolve_left (not_not_intro hc))
    rw [State.tgv, State.setTgvs, hc, State.cluster_modCluster_same, State.tgv, hc]
    simp only [getD_setIfInBounds_other _ hne]
  · rw [State.tgv, State.setTgvs, State.cluster_modCluster_other _ _ hc]
    rfl

theorem State.tag_setTgvs (s : State) (h g : HartKey) (lo n : Nat) (f : Nat → Bool) (q e : Nat) :
    (s.setTgvs h lo n f).tag g q e = s.tag g q e := by
  by_cases hc : clusterOfHart g = clusterOfHart h
  · rw [State.tag, State.setTgvs, hc, State.cluster_modCluster_same, State.tag, hc]
  · rw [State.tag, State.setTgvs, State.cluster_modCluster_other _ _ hc]
    rfl

end Sys2Proof.Machine

namespace Sys2Proof.Proofs

open Sys2Proof.Machine

theorem fieldColumnsReadBack : Parts.FieldColumnsReadBack := by
  intro r lo w v j hw
  constructor
  · refine Nat.eq_of_testBit_eq fun i => ?_
    rw [testBit_rowBits, Nat.testBit_mod_two_pow]
    by_cases hi : i < w
    · rw [getLsbD_setRowBits _ _ _ _ (by omega), if_pos (by omega), Nat.add_sub_cancel_left]
    · simp [hi]
  · intro hj
    by_cases h : j < 512
    · rw [getLsbD_setRowBits _ _ _ _ h, if_neg (by omega)]
    · rw [BitVec.getLsbD_of_ge _ _ (Nat.not_lt.1 h), BitVec.getLsbD_of_ge _ _ (Nat.not_lt.1 h)]

theorem tagColumnsReadBack : Parts.TagColumnsReadBack := by
  intro s h t lo n f ht _
  exact ⟨fun e he => s.tag_setTags_same h ht lo n f he, fun g q e hq hg => s.tag_setTags_other ht hq lo n f e hg,
    fun g e => s.tgv_setTags h g t lo n f e, fun e he => s.tgv_setTgvs_same h lo n f he,
    fun g e hg => s.tgv_setTgvs_other lo n f e hg, fun g q e => s.tag_setTgvs h g lo n f q e, rfl, rfl⟩

/-- Settles O18: bit by bit, by what a number reads with a part of it replaced. -/
theorem columnsReadBack : Obligations.ColumnsReadBack := ⟨fieldColumnsReadBack, tagColumnsReadBack⟩

end Sys2Proof.Proofs
end

section
/-! PROOFS. The effect of a row operation (01 R38, 05 R127, R129): rows written, rows that lose their validity, flags. -/

namespace Sys2Proof.Machine

theorem State.row_setRow_same (s : State) (k : ClusterKey) (e : Nat) (v : Row) : (s.setRow k e v).row k e = v :=
  sparseGet_put_same _ _ _ _

theorem State.row_setRow_other (s : State) {k j : ClusterKey} {e i : Nat} (v : Row) (he : e < 16384) (hi : i < 16384)
    (h : j ≠ k ∨ i ≠ e) : (s.setRow k e v).row j i = s.row j i := by
  refine sparseGet_put_other _ _ _ ?_
  have hk : ¬ (@Eq Nat j k ∧ i = e) := fun hh => h.elim (· hh.1) (· hh.2)
  omega

/-- A row of the running hart's cluster written with a result: its destination and its copy field. -/
theorem State.writeField_row_same (s : State) (d : VReg) (e v : Nat) :
    (s.writeField d e v).row (clusterOfHart s.me) e = Claims.resultRow s d (s.row (clusterOfHart s.me) e) v := by
  simp only [State.writeField, Claims.resultRow]
  cases s.copyField with
  | none => exact State.row_setRow_same ..
  | some c =>
    refine (State.row_setRow_same ..).trans ?_
    rw [State.setElem, State.row_setRow_same]
    rfl

theorem State.writeField_row_other (s : State) (d : VReg) {e i : Nat} (v : Nat) {j : ClusterKey} (he : e < 16384) (hi : i < 16384)
    (h : j ≠ clusterOfHart s.me ∨ i ≠ e) : (s.writeField d e v).row j i = s.row j i := by
  simp only [State.writeField]
  cases s.copyField with
  | none => exact State.row_setRow_other _ _ he hi h
  | some c => exact (State.row_setRow_other _ _ he hi h).trans (State.row_setRow_other _ _ he hi h)

/-- A result changes rows alone. -/
theorem State.writeField_frame (s : State) (d : VReg) (e v : Nat) : ∃ rows, s.writeField d e v = { s with rows := rows } := by
  simp only [State.writeField]
  cases s.copyField <;> exact ⟨_, rfl⟩

/-- The results of a list of rows written one after the other. -/
def State.writeRows (s : State) (d : VReg) (f : Nat → Nat × Flags × Bool) (rows : List Nat) : State :=
  rows.foldl (fun t e => t.writeField d e (f e).1) s

theorem State.writeRows_frame (s : State) (d : VReg) (f : Nat → Nat × Flags × Bool) (l : List Nat) :
    ∃ rows, s.writeRows d f l = { s with rows := rows } := by
  induction l generalizing s with
  | nil => exact ⟨s.rows, rfl⟩
  | cons e l ih =>
    obtain ⟨rows, hrows⟩ := s.writeField_frame d e (f e).1
    obtain ⟨rows', h⟩ := ih (s.writeField d e (f e).1)
    exact ⟨rows', h.trans (by rw [hrows])⟩

theorem State.writeRows_row (s : State) (d : VReg) (f : Nat → Nat × Flags × Bool) {l : List Nat} (hl : l.Nodup)
    (hb : ∀ e ∈ l, e < 16384) (k : ClusterKey) {i : Nat} (hi : i < 16384) :
    (s.writeRows d f l).row k i =
      if k = clusterOfHart s.me ∧ i ∈ l then Claims.resultRow s d (s.row k i) (f i).1 else s.row k i := by
  induction l generalizing s with
  | nil => simp [State.writeRows]
  | cons e l ih =>
    obtain ⟨hel, hl⟩ := List.nodup_cons.1 hl
    have he : e < 16384 := hb e (List.mem_cons_self ..)
    obtain ⟨rows, hrows⟩ := s.writeField_frame d e (f e).1
    have hme : (s.writeField d e (f e).1).me = s.me := by rw [hrows]; rfl
    have hres : ∀ r x, Claims.resultRow (s.writeField d e (f e).1) d r x = Claims.resultRow s d r x := by
      intro r x; rw [hrows]; rfl
    refine (ih _ hl fun i h => hb i (List.mem_cons_of_mem _ h)).trans ?_
    rw [hme, hres]
    by_cases hie : k = clusterOfHart s.me ∧ i = e
    · obtain ⟨rfl, rfl⟩ := hie
      simp [hel, State.writeField_row_same]
    · have hne : k ≠ clusterOfHart s.me ∨ i ≠ e := by tauto
      rw [State.writeField_row_other _ _ _ he hi hne]
      refine if_congr ?_ rfl rfl
      rw [List.mem_cons]
      tauto

/-- The rows that a word over n rows with a mask selects, ascending. -/
def State.selectedRows (s : State) (m : BitVec 1) (n : Nat) : List Nat := (s.range n).filter (s.tagged m)

theorem State.mem_selectedRows (s : State) (m : BitVec 1) (n e : Nat) : e ∈ s.selectedRows m n ↔ Claims.selected s m n e = true := by
  simp only [State.selectedRows, State.range, List.mem_filter, List.mem_map, List.mem_range, Claims.selected, State.tagged,
    State.rowbase, Bool.and_eq_true, decide_eq_true_eq]
  constructor
  · rintro ⟨⟨i, hi, rfl⟩, ht⟩
    exact ⟨⟨by omega, by omega⟩, ht⟩
  · rintro ⟨⟨h1, h2⟩, ht⟩
    exact ⟨⟨e - s.self.csr.rowbase.toNat, by omega, by omega⟩, ht⟩

theorem State.nodup_selectedRows (s : State) (m : BitVec 1) (n : Nat) : (s.selectedRows m n).Nodup :=
  (List.nodup_range.map fun _ _ h => Nat.add_left_cancel h).filter _

theorem State.selectedRows_lt {s : State} {m : BitVec 1} {n e : Nat} (hn : s.rowbase + n ≤ 16384) (h : e ∈ s.selectedRows m n) :
    e < 16384 := by
  rw [State.mem_selectedRows] at h
  simp only [Claims.selected, Bool.and_eq_true, decide_eq_true_eq] at h
  simp only [State.rowbase] at hn
  omega

/-- The flags that the rows of a list raise: those of the rows that are valid and stay so. -/
def State.flagsOf (s : State) (f : Nat → Nat × Flags × Bool) (rows : List Nat) : Flags :=
  rows.foldl (fun g e => if s.tgv s.me e && (f e).2.2 then g ||| (f e).2.1 else g) 0

theorem getLsbD_foldl_or {α : Type} (p : α → Bool) (q : α → Flags) (l : List α) (g : Flags) (b : Nat) :
    (l.foldl (fun g e => if p e then g ||| q e else g) g).getLsbD b = (g.getLsbD b || l.any fun e => p e && (q e).getLsbD b) := by
  induction l generalizing g with
  | nil => simp
  | cons e l ih =>
    rw [List.foldl_cons, ih]
    by_cases hp : p e <;> simp [hp, Bool.or_assoc]

/-- The rows of a list lose their validity where their result says so. -/
def State.invalidate (s old : State) (n : Nat) (lost : List Nat) : State :=
  if lost.isEmpty then s else s.setTgvs old.me old.rowbase n fun e => old.tgv old.me e && !lost.any fun i => decide (i = e)

/-- A row operation is: its results written, the rows that lose their validity, and the flags of the others. -/
theorem State.forRows_eq (s : State) (d : VReg) (m : BitVec 1) (n : Nat) (f : Nat → Nat × Flags × Bool) :
    s.forRows d m n f =
      ((s.writeRows d f (s.selectedRows m n)).invalidate s n ((s.selectedRows m n).filter fun e => !(f e).2.2)).raise
        (s.flagsOf f (s.selectedRows m n)) := by
  simp only [State.forRows, State.invalidate, State.writeRows, State.flagsOf, State.selectedRows, List.foldl_map, List.filter_map,
    List.any_map, List.isEmpty_map, Function.comp_def]
  rfl

theorem State.row_invalidate (s old : State) (n : Nat) (lost : List Nat) (k : ClusterKey) (e : Nat) :
    (s.invalidate old n lost).row k e = s.row k e := by
  unfold State.invalidate
  split <;> rfl

theorem State.tag_invalidate (s old : State) (n : Nat) (lost : List Nat) (g : HartKey) (q e : Nat) :
    (s.invalidate old n lost).tag g q e = s.tag g q e := by
  unfold State.invalidate
  split
  · rfl
  · exact State.tag_setTgvs ..

theorem State.invalidate_frame (s old : State) (n : Nat) (lost : List Nat) :
    ∃ clusters, s.invalidate old n lost = { s with clusters := clusters } := by
  unfold State.invalidate
  split <;> exact ⟨_, rfl⟩

/-- Validity after rows have lost it, where the rows lie in the range of the word. -/
theorem State.tgv_invalidate (s old : State) {n e : Nat} {lost : List Nat} (hv : s.tgv old.me e = old.tgv old.me e)
    (hl : e ∈ lost → old.rowbase ≤ e ∧ e < old.rowbase + n) (he : e < 16384) :
    (s.invalidate old n lost).tgv old.me e = (old.tgv old.me e && !decide (e ∈ lost)) := by
  unfold State.invalidate
  split
  · rename_i h
    rw [List.isEmpty_iff.1 h]
    simp [hv]
  · have hany : (lost.any fun i => decide (i = e)) = decide (e ∈ lost) := by simp [List.any_eq]
    rw [State.tgv_setTgvs_same _ _ _ _ _ he, hany]
    split
    · rfl
    · rename_i h
      simp [hv, mt hl h]

/-! ## What a row operation leaves of the state -/

theorem State.row_forRows (s : State) (d : VReg) (m : BitVec 1) (n : Nat) (f : Nat → Nat × Flags × Bool) (k : ClusterKey) (e : Nat) :
    (s.forRows d m n f).row k e = (s.writeRows d f (s.selectedRows m n)).row k e := by
  rw [State.forRows_eq]
  exact State.row_invalidate ..

theorem State.tag_forRows (s : State) (d : VReg) (m : BitVec 1) (n : Nat) (f : Nat → Nat × Flags × Bool) (g : HartKey) (q e : Nat) :
    (s.forRows d m n f).tag g q e = s.tag g q e := by
  obtain ⟨rows, hrows⟩ := s.writeRows_frame d f (s.selectedRows m n)
  rw [State.forRows_eq, hrows]
  exact State.tag_invalidate { s with rows := rows } ..

theorem State.tgv_forRows (s : State) (d : VReg) (m : BitVec 1) {n e : Nat} (f : Nat → Nat × Flags × Bool) (he : e < 16384) :
    (s.forRows d m n f).tgv s.me e = (s.tgv s.me e && (!Claims.selected s m n e || (f e).2.2)) := by
  obtain ⟨rows, hrows⟩ := s.writeRows_frame d f (s.selectedRows m n)
  have hlost : e ∈ ((s.selectedRows m n).filter fun e => !(f e).2.2) ↔ Claims.selected s m n e = true ∧ (f e).2.2 = false := by
    rw [List.mem_filter, State.mem_selectedRows, Bool.not_eq_true']
  have hin : e ∈ ((s.selectedRows m n).filter fun e => !(f e).2.2) → s.rowbase ≤ e ∧ e < s.rowbase + n := by
    rw [hlost]
    simp only [Claims.selected, Bool.and_eq_true, decide_eq_true_eq]
    exact fun h => h.1.1
  rw [State.forRows_eq, hrows]
  refine (State.tgv_invalidate { s with rows := rows } s rfl hin he).trans ?_
  simp only [hlost]
  cases Claims.selected s m n e <;> cases (f e).2.2 <;> rfl

/-- A row operation changes rows, validity, and the flags of its hart. -/
theorem State.forRows_frame (s : State) (d : VReg) (m : BitVec 1) (n : Nat) (f : Nat → Nat × Flags × Bool) :
    ∃ rows clusters, s.forRows d m n f = ({ s with rows := rows, clusters := clusters } : State).raise (s.flagsOf f (s.selectedRows m n)) := by
  obtain ⟨rows, hrows⟩ := s.writeRows_frame d f (s.selectedRows m n)
  obtain ⟨clusters, hclusters⟩ :=
    ({ s with rows := rows } : State).invalidate_frame s n ((s.selectedRows m n).filter fun e => !(f e).2.2)
  exact ⟨rows, clusters, by rw [State.forRows_eq, hrows, hclusters]⟩

/-- Each flag is raised by a selected row that is valid and stays so. -/
theorem State.getLsbD_flagsOf (s : State) (f : Nat → Nat × Flags × Bool) {m : BitVec 1} {n : Nat} (hn : s.rowbase + n ≤ 16384) (b : Nat) :
    (s.flagsOf f (s.selectedRows m n)).getLsbD b = (List.range 16384).any fun e =>
      Claims.selected s m n e && s.tgv s.me e && (f e).2.2 && (f e).2.1.getLsbD b := by
  have h0 : (0 : Flags).getLsbD b = false := BitVec.getLsbD_zero
  rw [State.flagsOf, getLsbD_foldl_or, h0, Bool.false_or, Bool.eq_iff_iff]
  simp only [List.any_eq_true, List.mem_range, Bool.and_eq_true, State.mem_selectedRows]
  constructor
  · rintro ⟨e, hs, ⟨hv, hk⟩, hb⟩
    exact ⟨e, State.selectedRows_lt hn ((s.mem_selectedRows m n e).2 hs), ⟨⟨hs, hv⟩, hk⟩, hb⟩
  · rintro ⟨e, _, ⟨⟨hs, hv⟩, hk⟩, hb⟩
    exact ⟨e, hs, ⟨hv, hk⟩, hb⟩

end Sys2Proof.Machine

namespace Sys2Proof.Proofs

open Sys2Proof.Machine

/-- Settles O14: the results are written one row after the other, none into a row that another result is for or is computed from
(`State.writeRows_row`), and what is left of the operation is the validity and the flags (`State.forRows_eq`). -/
theorem rowOperationsTouchOnlySelectedRows : Obligations.RowOperationsTouchOnlySelectedRows := by
  intro s h d m n f hc hn
  have hme : s.me = h := State.me_hart hc
  have hself : s.self = s.hart h := State.self_hart hc
  have hbase : s.rowbase + n ≤ 16384 := by rwa [State.rowbase, hself]
  have hlt : ∀ e ∈ s.selectedRows m n, e < 16384 := fun e he => State.selectedRows_lt hbase he
  have hrow : ∀ k e, e < 16384 → (s.forRows d m n f).row k e =
      if k = clusterOfHart h ∧ Claims.selected s m n e then Claims.resultRow s d (s.row k e) (f e).1 else s.row k e := by
    intro k e he
    rw [State.row_forRows, s.writeRows_row d f (s.nodup_selectedRows m n) hlt k he, hme]
    simp only [State.mem_selectedRows]
  obtain ⟨rows, clusters, frame⟩ := s.forRows_frame d m n f
  have hraise : ∀ fl, ({ s with rows := rows, clusters := clusters } : State).raise fl =
      ({ s with rows := rows, clusters := clusters } : State).raiseOn h fl := by
    intro fl
    exact congrArg (State.raiseOn _ · fl) hme
  rw [hraise, State.raiseOn] at frame
  refine ⟨fun e he => ?_, fun k e hk he => ?_, fun e he => ?_, fun g q e => s.tag_forRows d m n f g q e, fun b => ?_, ?_, fun g hg => ?_,
    ?_, ?_, ?_⟩
  · simp [hrow _ _ he]
  · simp [hrow _ _ he, hk]
  · rw [← hme, s.tgv_forRows d m f he]
  · rw [frame, State.hart_modHart_same, ← hme, ← s.getLsbD_flagsOf f hbase b]
    exact BitVec.getLsbD_or ..
  · rw [frame, State.hart_modHart_same]
    rfl
  · rw [frame, State.hart_modHart_other _ _ hg]
    rfl
  all_goals rw [frame]; rfl

end Sys2Proof.Proofs
end

section
/-! PROOFS. The array frame of a word of row arithmetic (01 R35 to R37, 05 R127, R128): the checks of its operands and rows, and
what a body does that has a row operation in that frame. -/

namespace Sys2Proof.Machine

/-! ## The checks of operands (01 R32, 03 R86, 05 R127, R128) -/

theorem FieldDesc.accepted_iff (cols : Nat) (before : List FieldDesc) (d : FieldDesc) :
    d.accepted cols before = true ↔ (d.width ≠ 0 ∧ d.natural = true ∧ d.base.toNat + d.width.toNat ≤ cols) ∧
      ∀ b ∈ before, b.overlaps d = true → b.base = d.base ∧ b.width = d.width := by
  simp only [FieldDesc.accepted, Bool.and_eq_true, bne_iff_ne, ne_eq, decide_eq_true_eq, List.all_eq_true, Bool.or_eq_true,
    Bool.not_eq_true', beq_iff_eq, and_assoc]
  refine and_congr_right fun _ => and_congr_right fun _ => and_congr_right fun _ => forall₂_congr fun b _ => ?_
  cases b.overlaps d <;> simp

theorem Hart.checkFields_eq_none (t : Hart) (before : List FieldDesc) (ops : List (VReg × (FieldDesc → Bool)))
    (hfit : Claims.fieldsFit t (ops.map Prod.fst)) (hok : ∀ p ∈ ops, p.2 (t.field p.1) = true)
    (hbefore : ∀ b ∈ before, ∀ p ∈ ops, b.overlaps (t.field p.1) = true → b.base = (t.field p.1).base ∧ b.width = (t.field p.1).width) :
    t.checkFields before ops = none := by
  induction ops generalizing before with
  | nil => rfl
  | cons p ops ih =>
    obtain ⟨v, ok⟩ := p
    obtain ⟨hself, hlater, hrest⟩ := hfit
    have hacc : (t.field v).accepted t.cols before = true :=
      (FieldDesc.accepted_iff ..).2 ⟨hself, fun b hb => hbefore b hb (v, ok) (List.mem_cons_self ..)⟩
    have hv : ok (t.field v) = true := hok (v, ok) (List.mem_cons_self ..)
    simp only [Hart.checkFields, hacc, hv, Bool.and_self, if_true]
    refine ih _ hrest (fun p hp => hok p (List.mem_cons_of_mem _ hp)) fun b hb p hp hov => ?_
    rcases List.mem_cons.1 hb with rfl | hb
    · simp only [FieldDesc.overlaps, Bool.and_eq_true, decide_eq_true_eq] at hov
      exact (hlater p.1 (List.mem_map_of_mem hp) hov.1 hov.2).imp Eq.symm Eq.symm
    · exact hbefore b hb p (List.mem_cons_of_mem _ hp) hov

theorem State.withCopy_fst (s : State) (d : VReg) (ok : FieldDesc → Bool) (srcs : List (VReg × (FieldDesc → Bool))) :
    (s.withCopy d ok srcs).map Prod.fst = d :: (s.copyField.toList ++ srcs.map Prod.fst) := by
  simp only [State.withCopy]
  cases s.copyField <;> rfl

/-- Operands that are in order and of the classes of the word pass its checks. -/
theorem State.checkFields_withCopy {s : State} {d : VReg} {ok : FieldDesc → Bool} {srcs : List (VReg × (FieldDesc → Bool))}
    (hfit : Claims.operandsFit s d (srcs.map Prod.fst)) (hd : ok (s.self.field d) = true)
    (hs : ∀ p ∈ srcs, p.2 (s.self.field p.1) = true) : s.self.checkFields [] (s.withCopy d ok srcs) = none := by
  obtain ⟨hfields, hcopy⟩ := hfit
  refine Hart.checkFields_eq_none _ _ _ (by rwa [State.withCopy_fst]) ?_ (fun b hb => (List.not_mem_nil hb).elim)
  simp only [State.withCopy]
  cases hc : s.copyField with
  | none =>
    rintro p (_ | ⟨_, hp⟩)
    exacts [hd, hs p hp]
  | some c =>
    rintro p (_ | ⟨_, _ | ⟨_, hp⟩⟩)
    · exact hd
    · simp [hcopy c hc]
    · exact hs p hp

/-- A destination that is not in order is the first field that fails. -/
theorem State.checkFields_badDest {s : State} {d : VReg} (ok : FieldDesc → Bool) (srcs : List (VReg × (FieldDesc → Bool)))
    (hd : (s.self.field d).width = 0 ∨ (s.self.field d).natural = false ∨
      s.self.cols < (s.self.field d).base.toNat + (s.self.field d).width.toNat) :
    s.self.checkFields [] (s.withCopy d ok srcs) = some d := by
  have hacc : (s.self.field d).accepted s.self.cols [] = false := by
    rw [← Bool.not_eq_true, FieldDesc.accepted_iff]
    rintro ⟨⟨hw, hnat, hcols⟩, -⟩
    rcases hd with h | h | h
    · exact hw h
    · rw [hnat] at h; cases h
    · omega
  simp only [State.withCopy]
  cases s.copyField <;> simp [Hart.checkFields, hacc]

/-! ## The array frame -/

theorem State.array_zero (s : State) (ops : List (VReg × (FieldDesc → Bool))) (p : Nat) (f : State → State) :
    s.array 0 ops p f = .retire s := rfl

theorem State.array_field {s : State} {n : Nat} {ops : List (VReg × (FieldDesc → Bool))} {v : VReg} (p : Nat) (f : State → State)
    (hn : 0 < n) (h : s.self.checkFields [] ops = some v) : s.array n ops p f = .trap s causeField (v.setWidth 64) := by
  simp only [State.array, if_neg hn.ne', h]

theorem State.array_bounds {s : State} {n : Nat} {ops : List (VReg × (FieldDesc → Bool))} (p : Nat) (f : State → State)
    (hn : 0 < n) (h : s.self.checkFields [] ops = none) (hb : 16384 < s.rowbase + n) :
    s.array n ops p f = .trap s causeBounds (BitVec.ofNat 64 n) := by
  simp only [State.array, if_neg hn.ne', h, if_pos hb]

theorem State.array_done {s : State} {n : Nat} {ops : List (VReg × (FieldDesc → Bool))} (p : Nat) (f : State → State)
    (hn : 0 < n) (h : s.self.checkFields [] ops = none) (hb : s.rowbase + n ≤ 16384) :
    s.array n ops p f = .retire ((f s).occupy p) := by
  simp only [State.array, if_neg hn.ne', h, if_neg (Nat.not_lt.2 hb)]

/-! ## Bodies that perform a row operation -/

/-- Body b of a word performs row operation w in state s: the array frame around it, with the sources of w, with class rules that
hold where w suits its operands, and, where the widths are natural, with the passes and the results of w. -/
def RowBody (s : State) (w : Claims.RowOp) (b : Flow) : Prop :=
  ∃ (ok : FieldDesc → Bool) (srcs : List (VReg × (FieldDesc → Bool))) (passes : Nat) (g : State → Nat → Nat × Flags × Bool),
    b = s.array (s.rx w.count).toNat (s.withCopy w.dest ok srcs) passes
      (fun t => t.forRows w.dest w.mask (s.rx w.count).toNat (g t)) ∧
    srcs.map Prod.fst = w.sources ∧
    (w.admits = true → ok (s.fieldOf w.dest) = true ∧ ∀ p ∈ srcs, p.2 (s.fieldOf p.1) = true) ∧
    (w.admits = true → (∀ v ∈ w.dest :: w.sources, (s.fieldOf v).natural = true) → passes = w.passes ∧ ∀ e, g s e = w.row e)

section
variable {s : State} {w : Claims.RowOp} {b : Flow}

theorem RowBody.zero (h : RowBody s w b) (hn : (s.rx w.count).toNat = 0) : b = .retire s := by
  obtain ⟨ok, srcs, passes, g, rfl, -⟩ := h
  rw [hn, State.array_zero]

theorem RowBody.badDest (h : RowBody s w b) (hn : 0 < (s.rx w.count).toNat)
    (hd : (s.self.field w.dest).width = 0 ∨ (s.self.field w.dest).natural = false ∨
      s.self.cols < (s.self.field w.dest).base.toNat + (s.self.field w.dest).width.toNat) :
    b = .trap s causeField (w.dest.setWidth 64) := by
  obtain ⟨ok, srcs, passes, g, rfl, -⟩ := h
  exact State.array_field _ _ hn (State.checkFields_badDest ok srcs hd)

theorem RowBody.bounds (h : RowBody s w b) (hn : 0 < (s.rx w.count).toNat) (hfit : Claims.operandsFit s w.dest w.sources)
    (hadm : w.admits = true) (hb : 16384 < s.rowbase + (s.rx w.count).toNat) :
    b = .trap s causeBounds (BitVec.ofNat 64 (s.rx w.count).toNat) := by
  obtain ⟨ok, srcs, passes, g, rfl, hsrcs, hrules, -⟩ := h
  exact State.array_bounds _ _ hn (State.checkFields_withCopy (by rwa [hsrcs]) (hrules hadm).1 (hrules hadm).2) hb

theorem fieldsFit_natural {t : Hart} {vs : List VReg} (h : Claims.fieldsFit t vs) : ∀ v ∈ vs, (t.field v).natural = true := by
  induction vs with
  | nil => simp
  | cons v vs ih =>
    obtain ⟨⟨-, hnat, -⟩, -, hrest⟩ := h
    rintro u (_ | ⟨_, hu⟩)
    exacts [hnat, ih hrest u hu]

theorem RowBody.done (h : RowBody s w b) (hn : 0 < (s.rx w.count).toNat) (hfit : Claims.operandsFit s w.dest w.sources)
    (hadm : w.admits = true) (hb : s.rowbase + (s.rx w.count).toNat ≤ 16384) :
    b = .retire ((s.forRows w.dest w.mask (s.rx w.count).toNat w.row).occupy w.passes) := by
  obtain ⟨ok, srcs, passes, g, rfl, hsrcs, hrules, hrow⟩ := h
  have hnat : ∀ v ∈ w.dest :: w.sources, (s.fieldOf v).natural = true := by
    intro v hv
    refine fieldsFit_natural hfit.1 v ?_
    rcases List.mem_cons.1 hv with rfl | hv
    · exact List.mem_cons_self ..
    · exact List.mem_cons_of_mem _ (List.mem_append_right _ hv)
  obtain ⟨rfl, hg⟩ := hrow hadm hnat
  rw [State.array_done _ _ hn (State.checkFields_withCopy (by rwa [hsrcs]) (hrules hadm).1 (hrules hadm).2) hb, funext hg]

end

end Sys2Proof.Machine
end
section
/-! PROOFS. Fields as the tables of row arithmetic and as the words read them, and the two shapes that most bodies have. -/

namespace Sys2Proof.Machine

/-! ## Numbers of fields, as the tables and as the words read them -/

theorem num_eq_ival (s : State) (v : VReg) (e : Nat) : Claims.num s v e = s.ival (s.fieldOf v) e := by
  simp only [Claims.num, State.ival, FieldDesc.int, FieldDesc.signed, Bool.and_eq_true, beq_iff_eq]
  rfl

theorem signed_eq (s : State) (v : VReg) : (s.fieldOf v).signed = decide (Claims.typ s v = 0) := by
  rw [FieldDesc.signed, Claims.typ, Bool.beq_eq_decide_eq]
  exact decide_eq_decide.2 ⟨fun h => congrArg BitVec.toNat h, fun h => BitVec.eq_of_toNat_eq h⟩

theorem key_eq (s : State) (a : VReg) (b : Reg) : Claims.key s a b = (s.fieldOf a).key (s.rx b) := by
  rw [Claims.key, FieldDesc.key, signed_eq]
  simp

theorem isFloat_eq (s : State) (v : VReg) : (s.fieldOf v).isFloat = Claims.isF s v := by
  rw [FieldDesc.isFloat, Claims.isF, Bool.decide_and]
  rfl

theorem sres_eq_saturate (s : State) (d : VReg) (x : Int) : Claims.sres s d x = saturate (s.fieldOf d) x := by
  simp only [Claims.sres, saturate, FieldDesc.range, signed_eq, decide_eq_true_eq]
  split <;> rfl

theorem type_eq_iff (s : State) (u v : VReg) : (s.fieldOf u).type = (s.fieldOf v).type ↔ Claims.typ s u = Claims.typ s v :=
  ⟨fun h => congrArg BitVec.toNat h, fun h => BitVec.eq_of_toNat_eq h⟩

theorem width_eq_iff (s : State) (u v : VReg) : (s.fieldOf u).width = (s.fieldOf v).width ↔ Claims.wid s u = Claims.wid s v :=
  ⟨fun h => congrArg BitVec.toNat h, fun h => BitVec.eq_of_toNat_eq h⟩

theorem bits_lt (s : State) (v : VReg) (e : Nat) : Claims.bits s v e < 2 ^ Claims.wid s v := rowBits_lt ..

theorem natural_width_le {d : FieldDesc} (h : d.natural = true) : d.width.toNat ≤ 64 := by
  unfold FieldDesc.natural at h
  split at h
  · exact of_decide_eq_true h
  · exact of_decide_eq_true h
  all_goals exact (congrArg BitVec.toNat (eq_of_beq h)).trans_le (by decide)

/-! ## Class rules (05 R128) -/

theorem admitsI_iff (s : State) (d : VReg) (vs : List VReg) :
    Claims.admitsI s d vs = true ↔ ∀ v ∈ d :: vs, ruleI (s.fieldOf v) = true := by
  rw [Claims.admitsI, Bool.and_eq_true, List.all_eq_true, List.forall_mem_cons]
  rfl

theorem admitsB_iff (s : State) (d : VReg) (vs : List VReg) :
    Claims.admitsB s d vs = true ↔ ∀ v ∈ vs, ruleB (s.fieldOf d) (s.fieldOf v) = true := by
  simp only [Claims.admitsB, List.all_eq_true, decide_eq_true_eq, ruleB, beq_iff_eq, width_eq_iff]

theorem admitsIS_iff (s : State) (d : VReg) (vs : List VReg) :
    Claims.admitsIS s d vs = true ↔ ruleI (s.fieldOf d) = true ∧ ∀ v ∈ vs, ruleIS (s.fieldOf d) (s.fieldOf v) = true := by
  simp only [Claims.admitsIS, Bool.and_eq_true, List.all_eq_true, decide_eq_true_eq, ruleIS, beq_iff_eq, type_eq_iff]
  refine and_congr_right fun hd => forall₂_congr fun v _ => ⟨fun h => ⟨?_, h⟩, And.right⟩
  have : Claims.isI s v = Claims.isI s d := by rw [Claims.isI, h]; rfl
  exact this.trans hd

theorem admitsF_iff (s : State) (d : VReg) (vs : List VReg) :
    Claims.admitsF s d vs = true ↔ (s.fieldOf d).isFloat = true ∧ ∀ v ∈ vs, ruleF (s.fieldOf d) (s.fieldOf v) = true := by
  simp only [Claims.admitsF, Bool.and_eq_true, List.all_eq_true, decide_eq_true_eq, ruleF, beq_iff_eq, type_eq_iff, isFloat_eq]
  refine and_congr_right fun hd => forall₂_congr fun v _ => ⟨fun h => ⟨?_, h⟩, And.right⟩
  have : Claims.isF s v = Claims.isF s d := by rw [Claims.isF, h]; rfl
  exact this.trans hd

/-- Rule IF takes its class from va; where the operands are all integers, or all of one float type, each of them meets it. -/
theorem ruleIF_of_admitsIF {s : State} {d a : VReg} {vs : List VReg} (h : Claims.admitsIF s d vs = true) (ha : a ∈ vs) :
    ∀ v ∈ d :: vs, ruleIF (s.fieldOf a) (s.fieldOf d) (s.fieldOf v) = true := by
  rcases Bool.or_eq_true_iff.1 h with hI | hF
  · have hrule := (admitsI_iff s d vs).1 hI
    have hint : (s.fieldOf a).isInt = true := hrule a (List.mem_cons_of_mem _ ha)
    intro v hv
    rw [ruleIF, if_pos hint]
    exact hrule v hv
  · obtain ⟨hd, hrule⟩ := (admitsF_iff s d vs).1 hF
    have hself : ruleF (s.fieldOf d) (s.fieldOf d) = true := by simp [ruleF, hd]
    have hfloat := hrule a ha
    simp only [ruleF, Bool.and_eq_true] at hfloat
    have hint : ¬ (s.fieldOf a).isInt = true := by
      have := hfloat.1
      simp only [FieldDesc.isFloat, FieldDesc.isInt, Bool.and_eq_true, decide_eq_true_eq] at this ⊢
      omega
    intro v hv
    rw [ruleIF, if_neg hint, if_pos hfloat.1]
    rcases List.mem_cons.1 hv with rfl | hv
    · exact hself
    · exact hrule v hv

theorem narrowI_iff (s : State) (vs : List VReg) :
    Claims.narrowI s vs = true ↔ ∀ v ∈ vs, (!(s.fieldOf v).isInt || upTo32 (s.fieldOf v)) = true := by
  rw [Claims.narrowI, List.all_eq_true]
  rfl

/-! ## The shapes of bodies -/

section
variable {s : State} {w : Claims.RowOp}

/-- A body with two field sources. -/
theorem rowBody_word2 {a b : VReg} {rd ra rb : FieldDesc → Bool} {p : Nat} {f : State → Nat → Nat × Flags × Bool}
    (hs : w.sources = [a, b])
    (hr : w.admits = true → rd (s.fieldOf w.dest) = true ∧ ra (s.fieldOf a) = true ∧ rb (s.fieldOf b) = true)
    (hf : w.admits = true → (∀ v ∈ [w.dest, a, b], (s.fieldOf v).natural = true) → p = w.passes ∧ ∀ e, f s e = w.row e) :
    RowBody s w (word2 w.dest a b w.count w.mask rd ra rb p f s) := by
  refine ⟨rd, [(a, ra), (b, rb)], p, f, rfl, hs.symm, fun hadm => ?_, fun hadm hn => hf hadm (by rwa [hs] at hn)⟩
  obtain ⟨hd, ha, hb⟩ := hr hadm
  exact ⟨hd, by simp [ha, hb]⟩

/-- A body with one field source. -/
theorem rowBody_word1 {a : VReg} {rd ra : FieldDesc → Bool} {p : Nat} {f : State → Nat → Nat × Flags × Bool}
    (hs : w.sources = [a]) (hr : w.admits = true → rd (s.fieldOf w.dest) = true ∧ ra (s.fieldOf a) = true)
    (hf : w.admits = true → (∀ v ∈ [w.dest, a], (s.fieldOf v).natural = true) → p = w.passes ∧ ∀ e, f s e = w.row e) :
    RowBody s w (word1 w.dest a w.count w.mask rd ra p f s) := by
  refine ⟨rd, [(a, ra)], p, f, rfl, hs.symm, fun hadm => ?_, fun hadm hn => hf hadm (by rwa [hs] at hn)⟩
  obtain ⟨hd, ha⟩ := hr hadm
  exact ⟨hd, by simp [ha]⟩

end

end Sys2Proof.Machine
end

section
/-! PROOFS. The shapes of the bodies of row words, each with the row operation that it performs (05 R128 to R138). -/

namespace Sys2Proof.Machine

/-- Rule IF with its limit on the widths of integer sources. -/
theorem limitedIF_of_admitsIF {s : State} {d a : VReg} {vs : List VReg} {lim : Bool}
    (h : (Claims.admitsIF s d vs && (!lim || Claims.narrowI s vs)) = true) (ha : a ∈ vs) :
    ruleIF (s.fieldOf a) (s.fieldOf d) (s.fieldOf d) = true ∧ ∀ v ∈ vs, (ruleIF (s.fieldOf a) (s.fieldOf d) (s.fieldOf v) &&
      (!(s.fieldOf a).isInt || (if lim then upTo32 else anyWidth) (s.fieldOf v))) = true := by
  obtain ⟨hIF, hlim⟩ := Bool.and_eq_true_iff.1 h
  have hrule := ruleIF_of_admitsIF hIF ha
  have hlim : ∀ v ∈ vs, (!(s.fieldOf v).isInt || (if lim then upTo32 else anyWidth) (s.fieldOf v)) = true := by
    cases lim with
    | false => intros; simp [anyWidth]
    | true => exact (narrowI_iff s vs).1 hlim
  refine ⟨hrule d (List.mem_cons_self ..), fun v hv => ?_⟩
  have hv' := hrule v (List.mem_cons_of_mem _ hv)
  rw [hv', Bool.true_and]
  cases hint : (s.fieldOf a).isInt with
  | false => rfl
  | true =>
    rw [ruleIF, if_pos hint] at hv'
    simpa [hv'] using hlim v hv

/-! ## Integer or float words -/

/-- The row operation of an IF word with one field source and a float result that is exact. -/
def ifOp1 (s : State) (d a : VReg) (n : Reg) (m : BitVec 1) (pi pf : Nat) (fi : Int → Int) (ff : Num → Num) : Claims.RowOp :=
  { dest := d, sources := [a], count := n, mask := m, admits := Claims.admitsIF s d [a],
    passes := if Claims.isI s a then pi else pf,
    row := fun e => if Claims.isI s a then Claims.ires s d (fi (Claims.num s a e))
      else Claims.bres ((s.self.field d).fmt.round 0 (ff (Claims.flt s a e))).1 }

section
variable (s : State) (d a b : VReg) (c n : Reg) (m : BitVec 1)

theorem rowBody_ifWord2 (lim : Bool) {pi pf qi qf : Nat} {fi gi : Int → Int → Int} {ff : Nat → Num → Num → Num × Flags}
    (hi : qi = pi) (hf : qf = pf) (hg : ∀ x y, gi x y = fi x y) :
    RowBody s (Claims.ifOp s d a b n m lim pi pf fi ff) (ifWord2 d a b n m (if lim then upTo32 else anyWidth) qi qf gi ff s) := by
  unfold ifWord2
  refine rowBody_word2 (w := Claims.ifOp s d a b n m lim pi pf fi ff) rfl (fun hadm => ?_) fun _ _ => ⟨?_, fun e => ?_⟩
  · obtain ⟨hd, hs⟩ := limitedIF_of_admitsIF hadm (List.mem_cons_self ..)
    exact ⟨hd, hs a (by simp), hs b (by simp)⟩
  · rw [hi, hf]; rfl
  · simp only [Claims.ifOp, num_eq_ival, hg]
    rfl

theorem rowBody_ifWordX (lim : Bool) {pi pf qi qf : Nat} {fi gi : Int → Int → Int} {ff : Nat → Num → Num → Num × Flags}
    (hi : qi = pi) (hf : qf = pf) (hg : ∀ x y, gi x y = fi x y) :
    RowBody s (Claims.ifOpX s d a c n m lim pi pf fi ff) (ifWordX d a c n m (if lim then upTo32 else anyWidth) qi qf gi ff s) := by
  unfold ifWordX
  refine rowBody_word1 (w := Claims.ifOpX s d a c n m lim pi pf fi ff) rfl (fun hadm => ?_) fun _ _ => ⟨?_, fun e => ?_⟩
  · obtain ⟨hd, hs⟩ := limitedIF_of_admitsIF hadm (List.mem_cons_self ..)
    exact ⟨hd, hs a (by simp)⟩
  · rw [hi, hf]; rfl
  · simp only [Claims.ifOpX, num_eq_ival, key_eq, hg]
    rfl

theorem rowBody_ifWord1 {pi pf qi qf : Nat} {fi gi : Int → Int} {ff : Num → Num}
    (hi : qi = pi) (hf : qf = pf) (hg : ∀ x, gi x = fi x) : 
    RowBody s (ifOp1 s d a n m pi pf fi ff) (ifWord1 d a n m qi qf gi ff s) := by
  unfold ifWord1
  refine rowBody_word1 (w := ifOp1 s d a n m pi pf fi ff) rfl (fun hadm => ?_) fun _ _ => ⟨?_, fun e => ?_⟩
  · have hr := ruleIF_of_admitsIF hadm (List.mem_cons_self ..)
    exact ⟨hr d (by simp), hr a (by simp)⟩
  · rw [hi, hf]; rfl
  · simp only [ifOp1, num_eq_ival, hg]
    rfl

/-! ## Words over bits -/

theorem rowBody_bitWord2 {p q : Nat} {f : Nat → Nat} {g : State → Nat → Nat → Nat → Nat} (hp : q = p)
    (hg : Claims.wid s a = Claims.wid s d → Claims.wid s b = Claims.wid s d → (s.fieldOf d).natural = true → ∀ e,
      g s e (Claims.bits s a e) (Claims.bits s b e) % 2 ^ Claims.wid s d = f e) :
    RowBody s (Claims.bitOp s d [a, b] n m p f) (bitWord2 d a b n m q g s) := by
  unfold bitWord2
  refine rowBody_word2 (w := Claims.bitOp s d [a, b] n m p f) rfl (fun hadm => ?_) fun hadm hn => ⟨hp, fun e => ?_⟩
  · have hr := (admitsB_iff s d [a, b]).1 hadm
    exact ⟨rfl, hr a (by simp), hr b (by simp)⟩
  · have hr : Claims.wid s a = Claims.wid s d ∧ Claims.wid s b = Claims.wid s d := by simpa [Claims.bitOp, Claims.admitsB] using hadm
    exact congrArg (·, 0, true) (hg hr.1 hr.2 (hn d (List.mem_cons_self ..)) e)

theorem rowBody_bitWord1 {f : Nat → Nat} {g : Nat → Nat}
    (hg : Claims.wid s a = Claims.wid s d → (s.fieldOf d).natural = true → ∀ e,
      g (Claims.bits s a e) % 2 ^ Claims.wid s d = f e) :
    RowBody s (Claims.bitOp s d [a] n m (2 * Claims.wid s d) f) (bitWord1 d a n m g s) := by
  unfold bitWord1
  refine rowBody_word1 (w := Claims.bitOp s d [a] n m (2 * Claims.wid s d) f) rfl (fun hadm => ?_) fun hadm hn => ⟨rfl, fun e => ?_⟩
  · exact ⟨rfl, (admitsB_iff s d [a]).1 hadm a (by simp)⟩
  · have hr : Claims.wid s a = Claims.wid s d := by simpa [Claims.bitOp, Claims.admitsB] using hadm
    exact congrArg (·, 0, true) (hg hr (hn d (List.mem_cons_self ..)) e)

theorem rowBody_bitWordX {f : Nat → Nat} {g : Nat → Nat → Nat}
    (hg : Claims.wid s a = Claims.wid s d → ∀ e,
      g (Claims.bits s a e) ((s.rx c).toNat % 2 ^ Claims.wid s d) % 2 ^ Claims.wid s d = f e) :
    RowBody s (Claims.bitOp s d [a] n m (2 * Claims.wid s d) f) (bitWordX d a c n m g s) := by
  unfold bitWordX
  refine rowBody_word1 (w := Claims.bitOp s d [a] n m (2 * Claims.wid s d) f) rfl (fun hadm => ?_) fun hadm hn => ⟨rfl, fun e => ?_⟩
  · exact ⟨rfl, (admitsB_iff s d [a]).1 hadm a (by simp)⟩
  · have hr : Claims.wid s a = Claims.wid s d := by simpa [Claims.bitOp, Claims.admitsB] using hadm
    exact congrArg (·, 0, true) (hg hr e)

/-! ## Float words -/

theorem rowBody_floatWord1 {p : Nat} {f : Nat → Num × Flags} {q : FieldDesc → Nat} {g : Nat → Num → Num × Flags}
    (hp : q (s.fieldOf d) = p) (hg : ∀ e, g s.rmode (Claims.flt s a e) = f e) :
    RowBody s (Claims.fltOp s d [a] n m p f) (floatWord1 d a n m q g s) := by
  unfold floatWord1
  refine rowBody_word1 (w := Claims.fltOp s d [a] n m p f) rfl (fun hadm => ?_) fun _ _ => ⟨hp, fun e => ?_⟩
  · exact ((admitsF_iff s d [a]).1 hadm).imp id fun h => h a (by simp)
  · exact congrArg (rounded (s.fieldOf d) s.rmode) (hg e)

end
end Sys2Proof.Machine
end

section
/-! PROOFS. Arithmetic of the row words: the model's way of computing and the tables'. -/

namespace Sys2Proof.Machine

theorem ceilLog2_eq_clog (n : Nat) : ceilLog2 n = Nat.clog 2 n := by
  unfold ceilLog2
  split
  · rw [Nat.clog_of_right_le_one (by assumption)]
  · rename_i h
    refine (eq_of_forall_ge_iff fun y => ?_).symm
    rw [Nat.clog_le_iff_le_pow (by decide), Nat.add_one_le_iff, Nat.log2_lt (by omega)]
    omega

theorem complement64_mod {w x : Nat} (hw : w ≤ 64) (hx : x < 2 ^ w) : complement64 x % 2 ^ w = 2 ^ w - 1 - x := by
  have hpow : 2 ^ 64 = 2 ^ w * 2 ^ (64 - w) := by rw [← Nat.pow_add, Nat.add_sub_cancel' hw]
  obtain ⟨k, hk⟩ : ∃ k, 2 ^ (64 - w) = k + 1 := ⟨2 ^ (64 - w) - 1, by have := Nat.two_pow_pos (64 - w); omega⟩
  have hsum : complement64 x = 2 ^ w * k + (2 ^ w - 1 - x) := by
    rw [complement64, Nat.mod_eq_of_lt (hx.trans_le (Nat.pow_le_pow_right (by decide) hw)), hpow, hk, Nat.mul_add]
    omega
  rw [hsum, Nat.mul_add_mod, Nat.mod_eq_of_lt (by omega)]

theorem fit_natCast (w n : Nat) : Claims.fit w (n : Int) = n % 2 ^ w := by
  rw [Claims.fit]
  norm_cast

theorem sigBits_eq (i : Int) : sigBits i = Claims.significant i.natAbs := by
  simp [sigBits, Claims.significant]

theorem onesCount_eq (v w : Nat) : onesCount v w = Claims.ones w v := by
  rw [Claims.ones]
  induction w with
  | zero => rfl
  | succ w ih => simp [onesCount, ih, List.range_succ]

theorem filter_testBit_eq (w x y : Nat) :
    w - onesCount (x ^^^ y) w = ((List.range w).filter fun j => x.testBit j == y.testBit j).length := by
  have hsum : onesCount (x ^^^ y) w + ((List.range w).filter fun j => x.testBit j == y.testBit j).length = w := by
    induction w with
    | zero => rfl
    | succ w ih =>
      have hxor : (x.testBit w ^^ y.testBit w) = !(x.testBit w == y.testBit w) := by
        cases x.testBit w <;> cases y.testBit w <;> rfl
      rw [onesCount, List.range_succ, List.filter_append, List.length_append, Nat.testBit_xor, hxor]
      cases h : (x.testBit w == y.testBit w) <;> simp [h] <;> omega
  omega

theorem length_takeWhile_range {p : Nat → Bool} {k w : Nat} (hkw : k ≤ w) (hp : ∀ j < k, p j = true) (hk : k < w → p k = false) :
    ((List.range w).takeWhile p).length = k := by
  obtain ⟨m, rfl⟩ := Nat.exists_eq_add_of_le hkw
  rw [List.range_add, List.takeWhile_append_of_pos (by simpa using hp)]
  cases m with
  | zero => simp
  | succ m => simp [List.range_succ_eq_map, hk]

theorem leadingZeros_eq {w v : Nat} (hv : v < 2 ^ w) :
    leadingZeros w v = ((List.range w).takeWhile fun j => !v.testBit (w - 1 - j)).length := by
  rw [leadingZeros]
  split
  · rename_i h
    rw [h, length_takeWhile_range le_rfl (by simp) (fun h => (lt_irrefl w h).elim)]
  · rename_i h
    have hlog : v.log2 < w := (Nat.log2_lt h).2 hv
    refine (length_takeWhile_range (k := w - 1 - v.log2) (by omega) (fun j hj => ?_) fun _ => ?_).symm
    · have hv' : v < 2 ^ (w - 1 - j) := Nat.lt_log2_self.trans_le (Nat.pow_le_pow_right (by decide) (by omega))
      rw [Nat.testBit_lt_two_pow hv']
      rfl
    · rw [show w - 1 - (w - 1 - v.log2) = v.log2 by omega, Nat.testBit_log2 h]
      rfl

theorem shiftRight_eq {w k : Nat} (u : Nat) {z : Int} (hw : w ≤ 64) (hlo : -2 ^ w ≤ z) (hhi : z < 2 ^ w) :
    shiftRight u z k = Claims.fit u (if w ≤ k then (if z < 0 then -1 else 0) else z / 2 ^ k) := by
  have hdiv : shiftRight u z k = Claims.fit u (z / 2 ^ min k 64) := by
    rw [shiftRight, Int.fdiv_eq_ediv_of_nonneg _ (by positivity)]
    rfl
  rw [hdiv]
  split
  · rename_i hk
    have hpow : (2 : Int) ^ w ≤ 2 ^ min k 64 := pow_le_pow_right₀ (by decide) (le_min hk hw)
    split
    · rename_i hz
      rw [Int.ediv_eq_neg_one_of_neg_of_le hz (by omega)]
    · rename_i hz
      rw [Int.ediv_eq_zero_of_lt (by omega) (by omega)]
  · rw [min_eq_left (by omega)]

theorem ival_bounds (s : State) (v : VReg) (e : Nat) :
    -2 ^ Claims.wid s v ≤ s.ival (s.fieldOf v) e ∧ s.ival (s.fieldOf v) e < 2 ^ Claims.wid s v := by
  have hb : ((s.elem s.me (s.fieldOf v) e : Nat) : Int) < 2 ^ Claims.wid s v := by exact_mod_cast bits_lt s v e
  have hn := Int.natCast_nonneg (s.elem s.me (s.fieldOf v) e)
  have hw : (0 : Int) < 2 ^ Claims.wid s v := by positivity
  rw [State.ival, FieldDesc.int]
  split
  · exact ⟨by change _ ≤ _ - (2 : Int) ^ Claims.wid s v; omega, by change _ - (2 : Int) ^ Claims.wid s v < _; omega⟩
  · exact ⟨by omega, hb⟩

theorem quot_eq_divide (signed : Bool) (w : Nat) (a b : Int) : (divide signed w a b).1 = Claims.quot signed w a b := by
  unfold divide Claims.quot
  split <;> rfl

theorem remainder_eq_divide (signed : Bool) (w : Nat) (a b : Int) :
    (divide signed w a b).2 = if b = 0 then a else a - b * a.tdiv b := by
  unfold divide
  split
  · rfl
  · exact Int.tmod_def a b

end Sys2Proof.Machine
end

section
/-! PROOFS. The words of row arithmetic but VCVT, one by one (05 R131 to R138, 06 R151, R154): each performs the row operation of
its table. -/

namespace Sys2Proof.Machine

/-! ## Words over two fields of a class -/

theorem min_eq_if (x y : Int) : min x y = if x < y then x else y := by
  split <;> omega

theorem max_eq_if (x y : Int) : max x y = if x < y then y else x := by
  split <;> omega

section
variable (s : State) (d a b : VReg) (c n : Reg) (m : BitVec 1)

theorem rowBody_intWord2 {admits : Bool} {rd ra rb : FieldDesc → Bool} {p q : Nat} {z : Nat → Int} {f : State → Nat → Nat × Flags × Bool}
    (hr : admits = true → rd (s.fieldOf d) = true ∧ ra (s.fieldOf a) = true ∧ rb (s.fieldOf b) = true) (hp : q = p)
    (hf : (∀ v ∈ [d, a, b], (s.fieldOf v).natural = true) → ∀ e, f s e = Claims.ires s d (z e)) :
    RowBody s (Claims.intOp s d a b n m admits p z) (word2 d a b n m rd ra rb q f s) :=
  rowBody_word2 (w := Claims.intOp s d a b n m admits p z) rfl hr fun _ hn => ⟨hp, hf hn⟩

/-- Sources of rule IS that are narrow. -/
theorem ruleIS32_of_admits {vs : List VReg} (h : (Claims.admitsIS s d vs && Claims.narrowI s vs) = true) :
    ruleI (s.fieldOf d) = true ∧ ∀ v ∈ vs, ruleIS32 (s.fieldOf d) (s.fieldOf v) = true := by
  obtain ⟨hIS, hnarrow⟩ := Bool.and_eq_true_iff.1 h
  obtain ⟨hd, hs⟩ := (admitsIS_iff s d vs).1 hIS
  refine ⟨hd, fun v hv => ?_⟩
  have hint := (Bool.and_eq_true_iff.1 (hs v hv)).1
  have hw := (narrowI_iff s vs).1 hnarrow v hv
  rw [hint] at hw
  rw [ruleIS32, hs v hv]
  exact hw

theorem ruleI32_of_admits {vs : List VReg} (h : (Claims.admitsI s d vs && Claims.narrowI s vs) = true) :
    ruleI (s.fieldOf d) = true ∧ ∀ v ∈ vs, ruleI32 (s.fieldOf v) = true := by
  obtain ⟨hI, hnarrow⟩ := Bool.and_eq_true_iff.1 h
  have hs := (admitsI_iff s d vs).1 hI
  refine ⟨hs d (List.mem_cons_self ..), fun v hv => ?_⟩
  have hint : (s.fieldOf v).isInt = true := hs v (List.mem_cons_of_mem _ hv)
  have hw := (narrowI_iff s vs).1 hnarrow v hv
  rw [hint] at hw
  rw [ruleI32, hint]
  exact hw

theorem rowBody_fltWord2 {p q : Nat} {f : Nat → Num × Flags} {rd ra rb : FieldDesc → Bool} {g : State → Nat → Nat × Flags × Bool}
    (hr : Claims.admitsF s d [a, b] = true → rd (s.fieldOf d) = true ∧ ra (s.fieldOf a) = true ∧ rb (s.fieldOf b) = true)
    (hp : q = p) (hg : ∀ e, g s e = Claims.fres s d (f e)) :
    RowBody s (Claims.fltOp s d [a, b] n m p f) (word2 d a b n m rd ra rb q g s) :=
  rowBody_word2 (w := Claims.fltOp s d [a, b] n m p f) rfl hr fun _ _ => ⟨hp, hg⟩

theorem w3_eq_widest : widest (s.fieldOf d) (s.fieldOf a) (s.fieldOf b) = Claims.w3 s d a b := by
  rw [widest, Claims.w3, max_comm, max_assoc]
  rfl

theorem wid_le {s : State} {v : VReg} (h : (s.fieldOf v).natural = true) : Claims.wid s v ≤ 64 := natural_width_le h

theorem shiftLeft_eq (w k : Nat) (z : Int) : shiftLeft w z k = Claims.fit w (if w ≤ k then 0 else z * 2 ^ k) := by
  rw [shiftLeft]
  split
  · simp [Claims.fit]
  · rfl

/-- Bodies that depend on the class of an operand. -/
theorem RowBody.ite {t : Bool} {v w : Claims.RowOp} {x y : Flow} (ht : t = true → RowBody s v x) (hf : t = false → RowBody s w y) :
    RowBody s (if t then v else w) (if t then x else y) := by
  cases t
  · exact hf rfl
  · exact ht rfl

theorem rowBody_shiftWord {f : Nat → Int → Nat → Nat} {z : Nat → Int}
    (hf : (s.fieldOf a).natural = true → ∀ e,
      f (Claims.wid s d) (s.ival (s.fieldOf a) e) (Claims.bits s b e) = Claims.fit (Claims.wid s d) (z e)) :
    RowBody s (Claims.intOp s d a b n m (Claims.admitsI s d [a, b] && decide (Claims.typ s b = 1))
        (2 * max (Claims.wid s a) (Claims.wid s d) * (max 1 (Nat.clog 2 (max (Claims.wid s a) (Claims.wid s d))) + 1) + Claims.wid s b) z)
      (shiftWord d a b n m f s) := by
  unfold shiftWord
  refine rowBody_intWord2 s d a b n m (fun hadm => ?_) (by rw [ceilLog2_eq_clog]; rfl) fun hn e => congrArg (·, 0, true) (hf ?_ e)
  · obtain ⟨hI, hb⟩ := Bool.and_eq_true_iff.1 hadm
    have hr := (admitsI_iff s d [a, b]).1 hI
    exact ⟨hr d (by simp), hr a (by simp), beq_iff_eq.2 (BitVec.eq_of_toNat_eq (of_decide_eq_true hb))⟩
  · exact hn a (by simp)

/-- Row operations of rule I with two sources. -/
theorem rowBody_satWord {w : Claims.RowOp} {f : Int → Int → Int}
    (hw : w = ⟨d, [a, b], n, m, Claims.admitsI s d [a, b], 4 * Claims.w3 s d a b + 3,
      fun e => Claims.sres s d (f (Claims.num s a e) (Claims.num s b e))⟩) : RowBody s w (satWord d a b n m f s) := by
  subst hw
  unfold satWord
  refine rowBody_word2 (w := ⟨d, [a, b], n, m, _, _, _⟩) rfl (fun hadm => ?_) fun _ _ => ⟨by rw [w3_eq_widest], fun e => ?_⟩
  · have hr := (admitsI_iff s d [a, b]).1 hadm
    exact ⟨hr d (by simp), hr a (by simp), hr b (by simp)⟩
  · simp only [sres_eq_saturate, num_eq_ival]

theorem rowBody_shiftWordX {w : Claims.RowOp} {f : Nat → Int → Nat → Nat} {z : Nat → Int}
    (hw : w = ⟨d, [a], n, m, Claims.admitsI s d [a], 2 * max (Claims.wid s a) (Claims.wid s d), fun e => Claims.ires s d (z e)⟩)
    (hf : (s.fieldOf a).natural = true → ∀ e,
      f (Claims.wid s d) (s.ival (s.fieldOf a) e) (s.rx c).toNat = Claims.fit (Claims.wid s d) (z e)) :
    RowBody s w (shiftWordX d a c n m f s) := by
  subst hw
  unfold shiftWordX
  refine rowBody_word1 (w := ⟨d, [a], n, m, _, _, _⟩) rfl (fun hadm => ?_) fun _ hn => ⟨rfl, fun e => congrArg (·, 0, true) (hf ?_ e)⟩
  · have hr := (admitsI_iff s d [a]).1 hadm
    exact ⟨hr d (by simp), hr a (by simp)⟩
  · exact hn a (by simp)

end

/-! ## The words -/

/-- A word performs a row operation: its meaning is a body in the frame of R79 that performs it. -/
def RowWord (i : Instr) (s : State) (w : Claims.RowOp) : Prop :=
  ∃ f, (∀ t, exec i t = .next (runWord i f t)) ∧ RowBody s w (f s)

theorem RowWord.of_some {i : Instr} {s : State} {v w : Claims.RowOp} {f : State → Flow} (h : some v = some w)
    (hexec : ∀ t, exec i t = .next (runWord i f t)) (hbody : RowBody s v (f s)) : RowWord i s w :=
  ⟨f, hexec, Option.some.inj h ▸ hbody⟩

/-- Every word of the tables performs its row operation. -/
theorem rowWord_of_rowOp {i : Instr} {s : State} {w : Claims.RowOp} (h : Claims.rowOp i s = some w) : RowWord i s w := by
  cases i
  case vadd d a b n m =>
    exact .of_some h (fun _ => rfl) (rowBody_ifWord2 s d a b n m false (by rw [w3_eq_widest]) rfl fun _ _ => rfl)
  case vsub d a b n m =>
    exact .of_some h (fun _ => rfl) (rowBody_ifWord2 s d a b n m false (by rw [w3_eq_widest]) rfl fun _ _ => rfl)
  case vmul d a b n m =>
    exact .of_some h (fun _ => rfl) (rowBody_ifWord2 s d a b n m true rfl rfl fun _ _ => rfl)
  case vmin d a b n m =>
    exact .of_some h (fun _ => rfl) (rowBody_ifWord2 s d a b n m false (by rw [w3_eq_widest]) rfl fun x y => min_eq_if x y)
  case vmax d a b n m =>
    exact .of_some h (fun _ => rfl) (rowBody_ifWord2 s d a b n m false (by rw [w3_eq_widest]) rfl fun x y => max_eq_if x y)
  case vmac d a b n m =>
    refine .of_some h (fun _ => rfl) (rowBody_intWord2 s d a b n m (fun hadm => ?_) rfl fun _ e => ?_)
    · obtain ⟨hd, hs⟩ := ruleI32_of_admits s d hadm
      exact ⟨hd, hs a (by simp), hs b (by simp)⟩
    · simp only [num_eq_ival]
      rfl
  case vdiv d a b n m =>
    refine .of_some h (fun _ => rfl) (RowBody.ite (t := Claims.isI s a) s (fun _ => ?_) (fun _ => ?_))
    · refine rowBody_intWord2 s d a b n m (fun hadm => ?_) rfl fun _ e => ?_
      · obtain ⟨hd, hs⟩ := ruleIS32_of_admits s d hadm
        exact ⟨hd, hs a (by simp), hs b (by simp)⟩
      · simp only [quot_eq_divide, signed_eq, num_eq_ival]
        rfl
    · refine rowBody_fltWord2 s d a b n m (fun hadm => ?_) rfl fun e => rfl
      have hr := ruleIF_of_admitsIF (Bool.or_eq_true_iff.2 (.inr hadm)) (List.mem_cons_self (a := a))
      exact ⟨hr d (by simp), hr a (by simp), hr b (by simp)⟩
  case vrem d a b n m =>
    refine .of_some h (fun _ => rfl) (rowBody_intWord2 s d a b n m (fun hadm => ?_) rfl fun _ e => ?_)
    · obtain ⟨hd, hs⟩ := ruleIS32_of_admits s d hadm
      exact ⟨hd, hs a (by simp), hs b (by simp)⟩
    · simp only [remainder_eq_divide, num_eq_ival]
      rfl
  case vabs d a n m =>
    exact .of_some h (fun _ => rfl) (rowBody_ifWord1 s d a n m (fi := fun x => |x|) (ff := Num.abs) (by rw [max_comm]; rfl) rfl
      fun x => Int.natCast_natAbs x)
  case vneg d a n m =>
    exact .of_some h (fun _ => rfl) (rowBody_ifWord1 s d a n m (fi := fun x => -x) (ff := Num.neg) (by rw [max_comm]; rfl) rfl fun _ => rfl)
  case vand d a b n m =>
    exact .of_some h (fun _ => rfl) (rowBody_bitWord2 s d a b n m rfl fun _ hb _ e =>
      Nat.mod_eq_of_lt (Nat.and_lt_two_pow _ (hb ▸ bits_lt s b e)))
  case vor d a b n m =>
    exact .of_some h (fun _ => rfl) (rowBody_bitWord2 s d a b n m rfl fun ha hb _ e =>
      Nat.mod_eq_of_lt (Nat.or_lt_two_pow (ha ▸ bits_lt s a e) (hb ▸ bits_lt s b e)))
  case vxor d a b n m =>
    exact .of_some h (fun _ => rfl) (rowBody_bitWord2 s d a b n m rfl fun ha hb _ e =>
      Nat.mod_eq_of_lt (Nat.xor_lt_two_pow (ha ▸ bits_lt s a e) (hb ▸ bits_lt s b e)))
  case vandn d a b n m =>
    refine .of_some h (fun _ => rfl) (rowBody_bitWord2 s d a b n m rfl fun ha hb hn e => ?_)
    rw [Nat.and_mod_two_pow, complement64_mod (wid_le hn) (hb ▸ bits_lt s b e), Nat.mod_eq_of_lt (ha ▸ bits_lt s a e)]
  case vnot d a n m =>
    exact .of_some h (fun _ => rfl) (rowBody_bitWord1 s d a n m fun ha hn e =>
      complement64_mod (wid_le hn) (ha ▸ bits_lt s a e))
  case vmov d a n m =>
    exact .of_some h (fun _ => rfl) (rowBody_bitWord1 s d a n m fun ha _ e => Nat.mod_eq_of_lt (ha ▸ bits_lt s a e))
  case vsel d a b n m =>
    refine .of_some h (fun _ => rfl) (rowBody_bitWord2 s d a b n m rfl fun ha hb _ e => Nat.mod_eq_of_lt ?_)
    split
    · exact ha ▸ bits_lt s a e
    · exact hb ▸ bits_lt s b e
  case vshlv d a b n m =>
    refine .of_some h (fun _ => rfl) (rowBody_shiftWord s d a b n m fun _ e => ?_)
    simp only [shiftLeft_eq, num_eq_ival]
  case vshrv d a b n m =>
    refine .of_some h (fun _ => rfl) (rowBody_shiftWord s d a b n m fun hn e => ?_)
    rw [shiftRight_eq _ (wid_le hn) (ival_bounds s a e).1 (ival_bounds s a e).2, ← num_eq_ival]
  case vadds d a b n m =>
    exact .of_some h (fun _ => rfl) (rowBody_satWord s d a b n m rfl)
  case vsubs d a b n m =>
    exact .of_some h (fun _ => rfl) (rowBody_satWord s d a b n m rfl)
  case vmulh d a b n m =>
    refine .of_some h (fun _ => rfl) (rowBody_intWord2 s d a b n m (fun hadm => ?_) rfl fun _ e => ?_)
    · obtain ⟨hadm, hnarrow⟩ := Bool.and_eq_true_iff.1 hadm
      obtain ⟨hIS, hB⟩ := Bool.and_eq_true_iff.1 hadm
      obtain ⟨hd, hs⟩ := (admitsIS_iff s d [a, b]).1 hIS
      have hw : ∀ v ∈ [a, b], (s.fieldOf v).width = (s.fieldOf d).width := fun v hv =>
        eq_of_beq ((admitsB_iff s d [a, b]).1 hB v hv)
      have hr : ∀ v ∈ [a, b], (ruleIS32 (s.fieldOf d) (s.fieldOf v) && (s.fieldOf v).width == (s.fieldOf d).width) = true := by
        intro v hv
        rw [ruleIS32, hs v hv, hw v hv, beq_self_eq_true, Bool.true_and, Bool.and_true]
        exact hnarrow
      refine ⟨?_, hr a (by simp), hr b (by simp)⟩
      rw [ruleI32, show (s.fieldOf d).isInt = true from hd]
      exact hnarrow
    · rw [Int.fdiv_eq_ediv_of_nonneg _ (by positivity)]
      simp only [num_eq_ival]
      rfl
  case vclz d a n m =>
    refine .of_some h (fun _ => rfl) (rowBody_word1 rfl (fun hadm => ⟨hadm, rfl⟩) fun _ _ => ⟨rfl, fun e => ?_⟩)
    refine (congrArg (·, 0, true) ?_ : plainRow _ = Claims.ires s d _)
    rw [fit_natCast, ← leadingZeros_eq (bits_lt s a e)]
    rfl
  case vpopc d a n m =>
    refine .of_some h (fun _ => rfl) (rowBody_word1 rfl (fun hadm => ⟨hadm, rfl⟩) fun _ _ => ⟨rfl, fun e => ?_⟩)
    refine (congrArg (·, 0, true) ?_ : plainRow _ = Claims.ires s d _)
    rw [fit_natCast, ← onesCount_eq]
    rfl
  case vfma d a b n m =>
    refine .of_some h (fun _ => rfl) (rowBody_fltWord2 s d a b n m (fun hadm => ?_) rfl fun e => rfl)
    obtain ⟨hd, hs⟩ := (admitsF_iff s d [a, b]).1 hadm
    exact ⟨hd, hs a (by simp), hs b (by simp)⟩
  case vrnd d a n m =>
    exact .of_some h (fun _ => rfl) (rowBody_floatWord1 s d a n m rfl fun _ => rfl)
  case vrcp d a n m =>
    exact .of_some h (fun _ => rfl) (rowBody_floatWord1 s d a n m rfl fun _ => rfl)
  case vrsq d a n m =>
    exact .of_some h (fun _ => rfl) (rowBody_floatWord1 s d a n m rfl fun _ => rfl)
  case vaddx d a b n m =>
    exact .of_some h (fun _ => rfl) (rowBody_ifWordX s d a b n m false rfl rfl fun _ _ => rfl)
  case vsubx d a b n m =>
    exact .of_some h (fun _ => rfl) (rowBody_ifWordX s d a b n m false rfl rfl fun _ _ => rfl)
  case vrsubx d a b n m =>
    exact .of_some h (fun _ => rfl) (rowBody_ifWordX s d a b n m false rfl rfl fun _ _ => rfl)
  case vmulx d a b n m =>
    exact .of_some h (fun _ => rfl) (rowBody_ifWordX s d a b n m true (by rw [sigBits_eq, key_eq]; rfl) rfl fun _ _ => rfl)
  case vmacx d a b n m =>
    refine .of_some h (fun _ => rfl) (rowBody_word1 rfl (fun hadm => ?_) fun _ _ => ⟨by rw [sigBits_eq, key_eq]; rfl, fun e => ?_⟩)
    · obtain ⟨hd, hs⟩ := ruleI32_of_admits s d hadm
      exact ⟨hd, hs a (by simp)⟩
    · simp only [num_eq_ival, key_eq]
      rfl
  case vminx d a b n m =>
    exact .of_some h (fun _ => rfl) (rowBody_ifWordX s d a b n m false rfl rfl fun x y => min_eq_if x y)
  case vmaxx d a b n m =>
    exact .of_some h (fun _ => rfl) (rowBody_ifWordX s d a b n m false rfl rfl fun x y => max_eq_if x y)
  case vandx d a b n m =>
    exact .of_some h (fun _ => rfl) (rowBody_bitWordX s d a b n m fun _ _ =>
      Nat.mod_eq_of_lt (Nat.and_lt_two_pow _ (Nat.mod_lt _ (Nat.two_pow_pos _))))
  case vorx d a b n m =>
    exact .of_some h (fun _ => rfl) (rowBody_bitWordX s d a b n m fun ha e =>
      Nat.mod_eq_of_lt (Nat.or_lt_two_pow (ha ▸ bits_lt s a e) (Nat.mod_lt _ (Nat.two_pow_pos _))))
  case vxorx d a b n m =>
    exact .of_some h (fun _ => rfl) (rowBody_bitWordX s d a b n m fun ha e =>
      Nat.mod_eq_of_lt (Nat.xor_lt_two_pow (ha ▸ bits_lt s a e) (Nat.mod_lt _ (Nat.two_pow_pos _))))
  case vshlx d a b n m =>
    refine .of_some h (fun _ => rfl) (rowBody_shiftWordX s d a b n m rfl fun _ e => ?_)
    simp only [shiftLeft_eq, num_eq_ival]
  case vshrx d a b n m =>
    refine .of_some h (fun _ => rfl) (rowBody_shiftWordX s d a b n m rfl fun hn e => ?_)
    rw [shiftRight_eq _ (wid_le hn) (ival_bounds s a e).1 (ival_bounds s a e).2, ← num_eq_ival]
  case vsetx d b n m =>
    exact .of_some h (fun _ => rfl) ⟨fun _ => true, [], _, _, rfl, rfl, fun _ => ⟨rfl, by simp⟩, fun _ _ => ⟨rfl, fun _ => rfl⟩⟩
  case vscalx d a b n m =>
    exact .of_some h (fun _ => rfl) (rowBody_floatWord1 s d a n m rfl fun _ => rfl)
  case vsimh d a b n m =>
    refine .of_some h (fun _ => rfl) (rowBody_word2 rfl (fun hadm => ?_) fun _ _ => ⟨rfl, fun e => ?_⟩)
    · obtain ⟨hd, hw⟩ := Bool.and_eq_true_iff.1 hadm
      exact ⟨beq_iff_eq.2 (BitVec.eq_of_toNat_eq (of_decide_eq_true hd)), rfl,
        beq_iff_eq.2 (BitVec.eq_of_toNat_eq (of_decide_eq_true hw).symm)⟩
    · exact congrArg (fun x => Claims.bres (x % 2 ^ Claims.wid s d)) (filter_testBit_eq _ _ _)
  case vidx d n m =>
    exact .of_some h (fun _ => rfl) ⟨ruleI, [], _, _, rfl, rfl, fun hadm => ⟨hadm, by simp⟩, fun _ _ => ⟨rfl, fun _ => rfl⟩⟩
  case vftag d n m =>
    refine .of_some h (fun _ => rfl) ⟨fun _ => true, [], _, _, rfl, rfl, fun _ => ⟨rfl, by simp⟩, fun _ _ => ⟨rfl, fun e => ?_⟩⟩
    have hbits : ∀ x : Nat, x / 2 * 2 = x - x % 2 := by omega
    exact congrArg (fun x => Claims.bres (x + if s.tag s.me 0 e then 1 else 0)) (hbits _)
  all_goals exact (Option.some_ne_none w h.symm).elim

end Sys2Proof.Machine
end

section
/-! PROOFS. VCVT (05 R135), and what the row words do with their operands. -/

namespace Sys2Proof.Machine

theorem isF4b_eq (s : State) (v : VReg) : (s.fieldOf v).isF4b = decide (Claims.typ s v = 7) := by
  rw [FieldDesc.isF4b, Claims.typ, Bool.beq_eq_decide_eq]
  exact decide_eq_decide.2 ⟨fun h => congrArg BitVec.toNat h, fun h => BitVec.eq_of_toNat_eq h⟩

/-- A number into a field that is not f4b, by the class of the field. -/
theorem numTo_eq (d : FieldDesc) (mode : Nat) (x : Num) :
    numTo d mode x = ((if d.isInt then numToInt d mode x else d.fmt.round mode x).1,
      (if d.isInt then numToInt d mode x else d.fmt.round mode x).2, true) := by
  unfold numTo
  split
  · rfl
  · exact congrArg (_, ·, true) BitVec.zero_or

section
variable (s : State) (d a b : VReg) (n : Reg) (m : BitVec 1)

theorem costCvt_eq : costCvt (s.fieldOf a) (s.fieldOf d) =
    (if Claims.isI s a then (if Claims.isI s d then 2 * Claims.wid s d else 8 * Claims.wid s a + 4 * Claims.wid s d)
      else (if Claims.isI s d then 8 * Claims.wid s d + 4 * Claims.wid s a else 6 * (Claims.wid s a + Claims.wid s d))) +
      (if Claims.typ s a = 7 ∨ Claims.typ s d = 7 then 40 else 0) := by
  have ha : (s.fieldOf a).isInt = Claims.isI s a := rfl
  have hd : (s.fieldOf d).isInt = Claims.isI s d := rfl
  simp only [costCvt, isF4b_eq, ha, hd, Bool.or_eq_true, decide_eq_true_eq]
  cases Claims.isI s a <;> cases Claims.isI s d <;> split <;> rfl

theorem vcvt_body : ∃ f, (∀ t, exec (.vcvt d a b n m) t = .next (runWord (.vcvt d a b n m) f t)) ∧
    (0 < (s.rx n).toNat → Claims.operandsFit s d [a] → Claims.typ s a ≠ 7 → Claims.typ s d ≠ 7 → b ≠ 0 →
      f s = .trap s causeField (b.setWidth 64)) ∧
    (Claims.typ s a = 7 ∨ Claims.typ s d = 7 ∨ b = 0 ∨ (s.rx n).toNat = 0 → RowBody s (Claims.convertOp d a b n m s) (f s)) := by
  refine ⟨_, fun _ => rfl, ?_, ?_⟩
  · intro hn hfit ha hd hb
    have hnone : s.self.checkFields [] (s.withCopy d (fun _ => true)
        [(a, fun x => !(x.isF4b && (s.fieldOf d).isF4b))]) = none := by
      refine State.checkFields_withCopy hfit rfl ?_
      simp [isF4b_eq, hd]
    refine (if_neg ?_).trans (if_pos ⟨hn.ne', ?_, hb⟩)
    · simp [isF4b_eq, ha, hd]
    · rw [hnone]
      rfl
  · intro h
    by_cases h7 : Claims.typ s a = 7 ∨ Claims.typ s d = 7
    · have hbody : ((s.fieldOf a).isF4b || (s.fieldOf d).isF4b) = true := by simpa [isF4b_eq] using h7
      have hcost := costCvt_eq s d a
      rw [if_pos h7] at hcost
      rw [Claims.convertOp, if_pos h7]
      simp only [if_pos hbody]
      refine rowBody_word2 rfl (fun hadm => ?_) fun _ _ => ⟨hcost, fun e => ?_⟩
      · have hpair : (¬ Claims.typ s a = 7 ∨ ¬ Claims.typ s d = 7) ∧ Claims.typ s b = 1 ∧ Claims.wid s b = 16 := by
          simpa [and_assoc] using hadm
        refine ⟨rfl, ?_, ?_⟩
        · simpa [isF4b_eq] using hpair.1
        · exact Bool.and_eq_true_iff.2 ⟨beq_iff_eq.2 (BitVec.eq_of_toNat_eq hpair.2.1), beq_iff_eq.2 (BitVec.eq_of_toNat_eq hpair.2.2)⟩
      · simp only [isF4b_eq, decide_eq_true_eq, numTo_eq, num_eq_ival]
        rfl
    · have hbody : ¬ ((s.fieldOf a).isF4b || (s.fieldOf d).isF4b) = true := by simpa [isF4b_eq] using h7
      have hcost := costCvt_eq s d a
      rw [if_neg h7] at hcost
      have hcheck : ¬ ((s.rx n).toNat ≠ 0 ∧ (s.self.checkFields [] (s.withCopy d (fun _ => true)
          [(a, fun x => !(x.isF4b && (s.fieldOf d).isF4b))])).isNone = true ∧ b ≠ 0) := by
        tauto
      rw [Claims.convertOp, if_neg h7]
      simp only [if_neg hbody, if_neg hcheck]
      refine ⟨fun _ => true, [(a, fun x => !(x.isF4b && (s.fieldOf d).isF4b))], _, _, rfl, rfl, fun _ => ⟨rfl, ?_⟩, fun _ _ => ⟨hcost, fun e => ?_⟩⟩
      · simpa [isF4b_eq] using Or.inl (mt Or.inl h7)
      · cases hA : (s.fieldOf a).isInt <;> cases hD : (s.fieldOf d).isInt
        · by_cases ht : (s.fieldOf a).type = (s.fieldOf d).type
          · simp only [show Claims.isI s a = false from hA, show Claims.isI s d = false from hD, ht, beq_self_eq_true]
            rw [if_pos (show (s.self.field a).type = (s.self.field d).type from ht)]
            exact (apply_ite Claims.bres _ _ _).symm
          · simp only [show Claims.isI s a = false from hA, show Claims.isI s d = false from hD, beq_eq_false_iff_ne.2 ht]
            rw [if_neg (show ¬ (s.self.field a).type = (s.self.field d).type from ht), numTo, hD]
            rfl
        · have ht : ((s.fieldOf a).type == (s.fieldOf d).type) = false := by
            refine beq_eq_false_iff_ne.2 fun ht => ?_
            rw [FieldDesc.isInt, ht] at hA
            exact Bool.noConfusion (hA.symm.trans hD)
          simp only [show Claims.isI s a = false from hA, show Claims.isI s d = true from hD, ht, numTo_eq, hD]
          rfl
        · simp only [show Claims.isI s a = true from hA, show Claims.isI s d = false from hD, num_eq_ival]
          rfl
        · simp only [show Claims.isI s a = true from hA, show Claims.isI s d = true from hD, num_eq_ival]
          rfl

end

end Sys2Proof.Machine

namespace Sys2Proof.Proofs

open Sys2Proof.Machine

/-- The rows of a hart's word in the state of its checks. -/
theorem due_rowbase {s : State} {h : HartKey} (hc : s.cur = .hart h) : s.due.rowbase = (s.hart h).csr.rowbase.toNat := by
  rw [State.rowbase, State.due_self hc]

theorem rowWordsComputeTheirRows : Parts.RowWordsComputeTheirRows := by
  intro i s h w hw hready hc
  obtain ⟨f, hexec, hbody⟩ := rowWord_of_rowOp hw
  rw [hexec, runWord_ready hready]
  refine ⟨fun hn => ?_, fun hn hfit hadm hb => ?_⟩
  · rw [hbody.zero hn]
    rfl
  · rw [hbody.done hn hfit hadm (by rwa [due_rowbase hc])]
    rfl

theorem conversionsComputeTheirRows : Parts.ConversionsComputeTheirRows := by
  intro d a b n m s h hready hc
  obtain ⟨f, hexec, hrefused, hbody⟩ := vcvt_body s.due d a b n m
  rw [hexec, runWord_ready hready]
  have parts : (Claims.convertOp d a b n m s.due).dest = d ∧ (Claims.convertOp d a b n m s.due).count = n ∧
      (Claims.convertOp d a b n m s.due).mask = m := by
    rw [Claims.convertOp]
    split <;> exact ⟨rfl, rfl, rfl⟩
  obtain ⟨hdest, hcount, hmask⟩ := parts
  refine ⟨fun hn => ?_, fun hn hfit hadm hb => ?_, fun hn hfit ha hd hb => ?_⟩
  · rw [(hbody (.inr (.inr (.inr hn)))).zero (by rwa [hcount])]
    rfl
  · have hscale : Claims.typ s.due a = 7 ∨ Claims.typ s.due d = 7 ∨ b = 0 ∨ (s.due.rx n).toNat = 0 := by
      by_cases h7 : Claims.typ s.due a = 7 ∨ Claims.typ s.due d = 7
      · exact h7.imp_right .inl
      · rw [Claims.convertOp, if_neg h7] at hadm
        exact .inr (.inr (.inl (of_decide_eq_true hadm)))
    have hdone := (hbody hscale).done (by rwa [hcount]) (by rwa [hdest]) hadm (by rwa [hcount, due_rowbase hc])
    rw [hdest, hcount, hmask] at hdone
    rw [hdone]
    rfl
  · rw [hrefused hn hfit ha hd hb]
    rfl

/-- Settles O13: each word's body is the array frame around the row operation of its table (`rowWord_of_rowOp`, `vcvt_body`), and
that frame completes once the operands pass its checks. -/
theorem rowWordsAndConversionsGiveTheirRows : Obligations.RowWordsAndConversionsGiveTheirRows :=
  ⟨rowWordsComputeTheirRows, conversionsComputeTheirRows⟩

/-- Settles O15: the destination is the first field that the array frame checks, and the row count comes after the fields. -/
theorem rowWordsCheckFieldsAndRows : Obligations.RowWordsCheckFieldsAndRows := by
  intro i s h w hw hready hc
  obtain ⟨f, hexec, hbody⟩ := rowWord_of_rowOp hw
  rw [hexec, runWord_ready hready]
  refine ⟨fun hn hfit hadm hb => ?_, fun hn hd => ?_⟩
  · rw [hbody.bounds hn hfit hadm (by rwa [due_rowbase hc])]
    rfl
  · rw [hbody.badDest hn (by rw [State.due_self hc]; exact hd)]
    rfl

end Sys2Proof.Proofs
end

section
/-! PROOFS. Encoding and decoding of instruction words (03 R72, R77, R78): a word is the union of its fields, each at a place of
its own, so each slice that the decoder takes gives back one field, or 0 where a reserved field stands. -/

namespace Sys2Proof.Coding

/-- Numbers with no bit in common add up to their union. -/
theorem add_eq_or {a b : Nat} (h : a &&& b = 0) : a + b = a ||| b := by
  obtain ⟨n, ha, hb⟩ : ∃ n, a < 2 ^ n ∧ b < 2 ^ n :=
    ⟨a + b, lt_of_le_of_lt (Nat.le_add_right a b) Nat.lt_two_pow_self, lt_of_le_of_lt (Nat.le_add_left b a) Nat.lt_two_pow_self⟩
  have toNat : ∀ {x : Nat}, x < 2 ^ n → (BitVec.ofNat (n + 1) x).toNat = x := fun hx =>
    Nat.mod_eq_of_lt (by omega)
  have hand : BitVec.ofNat (n + 1) a &&& BitVec.ofNat (n + 1) b = 0#(n + 1) :=
    BitVec.eq_of_toNat_eq (by rw [BitVec.toNat_and, toNat ha, toNat hb, h]; rfl)
  have hsum := congrArg BitVec.toNat (BitVec.add_eq_or_of_and_eq_zero _ _ hand)
  rw [BitVec.toNat_add, BitVec.toNat_or, toNat ha, toNat hb, Nat.mod_eq_of_lt (by omega)] at hsum
  exact hsum

/-- A divisor of a power of two is a power of two. -/
theorem two_pow_of_mod {m : Nat} (h : 4294967296 % m = 0) : ∃ p, m = 2 ^ p := by
  obtain ⟨p, -, hp⟩ := (Nat.dvd_prime_pow Nat.prime_two).1 (show m ∣ 2 ^ 32 from Nat.dvd_of_mod_eq_zero h)
  exact ⟨p, hp⟩

/-- A slice of a number is made of the number's own bits. -/
theorem slice_or {a b q r : Nat} (hq : 4294967296 % q = 0) (hr : 4294967296 % r = 0) :
    (a ||| b) / q % r = a / q % r ||| b / q % r := by
  obtain ⟨p, rfl⟩ := two_pow_of_mod hq
  obtain ⟨e, rfl⟩ := two_pow_of_mod hr
  rw [Nat.or_div_two_pow, Nat.or_mod_two_pow]

/-- A field is read back at its own place. -/
theorem slice_same {n m r : Nat} (x : BitVec n) (hm : 4294967296 % m = 0) (hr : 2 ^ n = r) : x.toNat * m / m % r = x.toNat := by
  obtain ⟨p, rfl⟩ := two_pow_of_mod hm
  rw [Nat.mul_div_cancel _ (Nat.two_pow_pos p), Nat.mod_eq_of_lt (hr ▸ x.isLt)]

/-- A slice that ends below a field is clear of it. -/
theorem slice_above {n m q r : Nat} (x : BitVec n) (h : m % (q * r) = 0) : x.toNat * m / q % r = 0 := by
  obtain ⟨k, rfl⟩ := Nat.dvd_of_mod_eq_zero h
  rcases Nat.eq_zero_or_pos q with rfl | hq
  · simp
  · rw [show x.toNat * (q * r * k) = q * (r * (x.toNat * k)) by ring, Nat.mul_div_cancel_left _ hq, Nat.mul_mod_right]

/-- A slice that begins above a field is clear of it. -/
theorem slice_below {n m q r : Nat} (x : BitVec n) (h : q % (2 ^ n * m) = 0) : x.toNat * m / q % r = 0 := by
  rcases Nat.eq_zero_or_pos q with rfl | hq
  · simp
  rcases Nat.eq_zero_or_pos m with rfl | hm
  · simp
  have hlt : x.toNat * m < q :=
    lt_of_lt_of_le (Nat.mul_lt_mul_of_pos_right x.isLt hm) (Nat.le_of_dvd hq (Nat.dvd_of_mod_eq_zero h))
  rw [Nat.div_eq_of_lt hlt, Nat.zero_mod]

/-- A number and a field have no common bit where the number's slice at the place of the field is 0. -/
theorem and_field {a m n : Nat} (x : BitVec n) (h : a / m % 2 ^ n = 0) (hm : 4294967296 % m = 0) : a &&& x.toNat * m = 0 := by
  obtain ⟨p, rfl⟩ := two_pow_of_mod hm
  apply Nat.eq_of_testBit_eq
  intro i
  rw [Nat.testBit_and, Nat.zero_testBit, Nat.testBit_mul_two_pow]
  by_cases hi : p ≤ i ∧ i - p < n
  · have hbit : (a / 2 ^ p % 2 ^ n).testBit (i - p) = a.testBit i := by
      rw [Nat.testBit_mod_two_pow, Nat.testBit_div_two_pow]
      simp [hi.1, hi.2]
    rw [← hbit, h]
    simp
  · by_cases hp : p ≤ i
    · rw [BitVec.testBit_toNat, BitVec.getLsbD_of_ge x _ (by omega)]
      simp
    · simp [hp]

theorem add_field {a m n : Nat} (x : BitVec n) (h : a / m % 2 ^ n = 0) (hm : 4294967296 % m = 0) :
    a + x.toNat * m = a ||| x.toNat * m := add_eq_or (and_field x h hm)

/-- A field of a word, as a slice of its number. -/
theorem fld_slice (w lo n : Nat) : fld w lo n = BitVec.ofNat n (w / 2 ^ lo % 2 ^ n) := by
  apply BitVec.eq_of_toNat_eq
  simp [fld]

/-- A slice within the low 32 bits of a number does not see the bits above. -/
theorem slice_mod {a q r : Nat} (h : 4294967296 % (q * r) = 0) : a % 4294967296 / q % r = a / q % r := by
  obtain ⟨k, hk⟩ := Nat.dvd_of_mod_eq_zero h
  rw [hk, mul_assoc, Nat.mod_mul_right_div_self, Nat.mod_mul_right_mod]

/-! The decoder at one major (03 R77). -/

theorem decodeNat_lctl {w : Nat} (h : w / 67108864 % 64 = 0x16) : decodeNat w = decodeLctl w := by
  rw [decodeNat, h]; rfl

theorem decodeNat_ld {w : Nat} (h : w / 67108864 % 64 = 0x17) : decodeNat w = decodeLd w := by
  rw [decodeNat, h]; rfl

theorem decodeNat_st {w : Nat} (h : w / 67108864 % 64 = 0x18) : decodeNat w = decodeSt w := by
  rw [decodeNat, h]; rfl

theorem decodeNat_csr {w : Nat} (h : w / 67108864 % 64 = 0x19) : decodeNat w = decodeCsr w := by
  rw [decodeNat, h]; rfl

theorem decodeNat_sys {w : Nat} (h : w / 67108864 % 64 = 0x1A) : decodeNat w = decodeSys w := by
  rw [decodeNat, h]; rfl

theorem decodeNat_vdef {w : Nat} (h : w / 67108864 % 64 = 0x1C) : decodeNat w = decodeVdef w := by
  rw [decodeNat, h]; rfl

theorem decodeNat_varith {w : Nat} (h : w / 67108864 % 64 = 0x1D) : decodeNat w = decodeVarith w := by
  rw [decodeNat, h]; rfl

theorem decodeNat_varx {w : Nat} (h : w / 67108864 % 64 = 0x1E) : decodeNat w = decodeVarx w := by
  rw [decodeNat, h]; rfl

theorem decodeNat_vcmp {w : Nat} (h : w / 67108864 % 64 = 0x1F) : decodeNat w = decodeVcmp w := by
  rw [decodeNat, h]; rfl

theorem decodeNat_vcmpx {w : Nat} (h : w / 67108864 % 64 = 0x20) : decodeNat w = decodeVcmpx w := by
  rw [decodeNat, h]; rfl

theorem decodeNat_vtag {w : Nat} (h : w / 67108864 % 64 = 0x21) : decodeNat w = decodeVtag w := by
  rw [decodeNat, h]; rfl

theorem decodeNat_vqry {w : Nat} (h : w / 67108864 % 64 = 0x22) : decodeNat w = decodeVqry w := by
  rw [decodeNat, h]; rfl

theorem decodeNat_vrow {w : Nat} (h : w / 67108864 % 64 = 0x23) : decodeNat w = decodeVrow w := by
  rw [decodeNat, h]; rfl

theorem decodeNat_vmem {w : Nat} (h : w / 67108864 % 64 = 0x24) : decodeNat w = decodeVmem w := by
  rw [decodeNat, h]; rfl

theorem decodeNat_stream {w : Nat} (h : w / 67108864 % 64 = 0x25) : decodeNat w = decodeStream w := by
  rw [decodeNat, h]; rfl

theorem decodeNat_amo {w : Nat} (h : w / 67108864 % 64 = 0x26) : decodeNat w = decodeAmo w := by
  rw [decodeNat, h]; rfl

theorem decodeNat_fold {w : Nat} (h : w / 67108864 % 64 = 0x27) : decodeNat w = decodeFold w := by
  rw [decodeNat, h]; rfl

theorem decodeNat_fence {w : Nat} (h : w / 67108864 % 64 = 0x28) : decodeNat w = decodeFence w := by
  rw [decodeNat, h]; rfl

theorem decodeNat_cb {w : Nat} (h : w / 67108864 % 64 = 0x29) : decodeNat w = decodeCb w := by
  rw [decodeNat, h]; rfl

theorem decodeNat_stripc {w : Nat} (h : w / 67108864 % 64 = 0x2A) : decodeNat w = decodeStripc w := by
  rw [decodeNat, h]; rfl

theorem decodeNat_farm {w : Nat} (h : w / 67108864 % 64 = 0x2B) : decodeNat w = decodeFarm w := by
  rw [decodeNat, h]; rfl

theorem decodeNat_xtree {w : Nat} (h : w / 67108864 % 64 = 0x2C) : decodeNat w = decodeXtree w := by
  rw [decodeNat, h]; rfl

theorem decodeNat_cq {w : Nat} (h : w / 67108864 % 64 = 0x2D) : decodeNat w = decodeCq w := by
  rw [decodeNat, h]; rfl

theorem decodeNat_mctl {w : Nat} (h : w / 67108864 % 64 = 0x2F) : decodeNat w = decodeMctl w := by
  rw [decodeNat, h]; rfl

theorem decodeNat_drain {w : Nat} (h : w / 67108864 % 64 = 0x30) : decodeNat w = decodeDrain w := by
  rw [decodeNat, h]; rfl

theorem decodeNat_kv {w : Nat} (h : w / 67108864 % 64 = 0x31) : decodeNat w = decodeKv w := by
  rw [decodeNat, h]; rfl

theorem decodeNat_twin {w : Nat} (h : w / 67108864 % 64 = 0x32) : decodeNat w = decodeTwin w := by
  rw [decodeNat, h]; rfl

theorem decodeNat_supv {w : Nat} (h : w / 67108864 % 64 = 0x33) : decodeNat w = decodeSupv w := by
  rw [decodeNat, h]; rfl

theorem decodeNat_mma {w : Nat} (h : w / 67108864 % 64 = 0x2E) : decodeNat w =
    some (.mma (fld w 25 1) (fld w 20 5) (fld w 15 5) (fld w 10 5) (fld w 5 5) (fld w 4 1) (fld w 3 1)) := by
  rw [decodeNat, h]; rfl

/-! From the instruction to its word and back, by the chapters of the instructions. -/

/-- The word of number n and stall count st decodes to i, and its stall field is st. -/
def ReadBack (i : Instr) (st : Stall) (n : Nat) : Prop :=
  decodeNat ((n + st.toNat * 1) % 4294967296) = some i ∧ fld ((n + st.toNat * 1) % 4294967296) 0 3 = st

/-- VDEF and VUNDEF share a major: a width of 0 stands for VUNDEF (05 R122, R123). -/
theorem vdef_of_wellFormed {v b w t} {x : Option Instr} (hwf : (Instr.vdef v b w t).WellFormed) :
    (if w.toNat = 0 then x else if w.toNat ≤ 64 then some (Instr.vdef v b w t) else none) = some (Instr.vdef v b w t) := by
  obtain ⟨h0, h64⟩ := hwf
  have hne : ¬ w.toNat = 0 := fun h => h0 (BitVec.eq_of_toNat_eq h)
  rw [if_neg hne, if_pos h64]

/-- The words of chapter 04 with operands. -/
theorem readBack_scalar {i : Instr} {n : Nat} (st : Stall) (hhi : i.ctorIdx < (Instr.vdef 0 0 0 0).ctorIdx) (hwf : i.WellFormed)
    (h : encodeNat i = some n) : ReadBack i st n := by
  cases i
  all_goals try exact absurd hhi (Nat.not_lt_of_le (Nat.le_of_ble_eq_true rfl))
  all_goals first | exact (Option.some_ne_none _ h.symm).elim | obtain rfl := Option.some.inj h
  all_goals try simp only [ReadBack, decodeNat, decodeAlu, decodeShi, decodeLctl, decodeLd, decodeSt, decodeCsr, add_field,
    slice_mod, slice_or, slice_same, slice_above, slice_below, Nat.reduceDiv, Nat.reduceMod, Nat.reduceMul, Nat.or_zero,
    Nat.zero_or, Nat.or_self, fld_slice, BitVec.ofNat_toNat, BitVec.setWidth_eq, Nat.reducePow, and_self, and_true, true_and,
    ↓reduceIte]
  all_goals exact if_pos hwf

/-- The words that define fields and compute in them (05). -/
theorem readBack_rows {i : Instr} {n : Nat} (st : Stall) (hlo : (Instr.vdef 0 0 0 0).ctorIdx ≤ i.ctorIdx) (hhi : i.ctorIdx <
    (Instr.eq 0 0 0 0 0 0).ctorIdx) (hwf : i.WellFormed) (h : encodeNat i = some n) : ReadBack i st n := by
  cases i
  all_goals try exact absurd hlo (Nat.not_le_of_lt (Nat.le_of_ble_eq_true rfl))
  all_goals try exact absurd hhi (Nat.not_lt_of_le (Nat.le_of_ble_eq_true rfl))
  all_goals first | exact (Option.some_ne_none _ h.symm).elim | obtain rfl := Option.some.inj h
  all_goals try simp only [ReadBack, decodeNat_vdef, decodeNat_varith, decodeNat_varx, decodeVdef, decodeVarith, decodeVarx,
    add_field, slice_mod, slice_or, slice_same, slice_above, slice_below, Nat.reduceDiv, Nat.reduceMod, Nat.reduceMul,
    Nat.or_zero, Nat.zero_or, Nat.or_self, fld_slice, BitVec.ofNat_toNat, BitVec.setWidth_eq, Nat.reducePow, and_self, and_true,
    ↓reduceIte]
  all_goals first | exact if_pos hwf | exact vdef_of_wellFormed hwf

/-- The words that compare, set tags, query and move rows (05, 06). -/
theorem readBack_tags {i : Instr} {n : Nat} (st : Stall) (hlo : (Instr.eq 0 0 0 0 0 0).ctorIdx ≤ i.ctorIdx) (hhi : i.ctorIdx <
    (Instr.vlda 0 0 0 0).ctorIdx) (hwf : i.WellFormed) (h : encodeNat i = some n) : ReadBack i st n := by
  cases i
  all_goals try exact absurd hlo (Nat.not_le_of_lt (Nat.le_of_ble_eq_true rfl))
  all_goals try exact absurd hhi (Nat.not_lt_of_le (Nat.le_of_ble_eq_true rfl))
  all_goals first | exact (Option.some_ne_none _ h.symm).elim | obtain rfl := Option.some.inj h
  all_goals try simp only [ReadBack, decodeNat_vcmp, decodeNat_vcmpx, decodeNat_vtag, decodeNat_vqry, decodeNat_vrow,
    decodeVcmp, decodeVcmpx, decodeVtag, decodeVqry, decodeVrow, add_field, slice_mod, slice_or, slice_same, slice_above,
    slice_below, Nat.reduceDiv, Nat.reduceMod, Nat.reduceMul, Nat.or_zero, Nat.zero_or, Nat.or_self, fld_slice,
    BitVec.ofNat_toNat, BitVec.setWidth_eq, Nat.reducePow, and_self, and_true, ↓reduceIte]
  all_goals exact if_pos hwf

/-- The words that reach memory, other harts and the engines, and the words without operands. -/
theorem readBack_rest {i : Instr} {n : Nat} (st : Stall) (hlo : (Instr.vlda 0 0 0 0).ctorIdx ≤ i.ctorIdx) (hwf : i.WellFormed)
    (h : encodeNat i = some n) : ReadBack i st n := by
  cases i
  all_goals try exact absurd hlo (Nat.not_le_of_lt (Nat.le_of_ble_eq_true rfl))
  all_goals first | exact (Option.some_ne_none _ h.symm).elim | obtain rfl := Option.some.inj h
  all_goals try simp only [ReadBack, decodeNat_lctl, decodeLctl, decodeNat_sys, decodeSys, decodeNat_vmem, decodeNat_stream,
    decodeNat_amo, decodeNat_fold, decodeNat_fence, decodeNat_cb, decodeNat_stripc, decodeNat_farm, decodeNat_xtree,
    decodeNat_cq, decodeVmem, decodeStream, decodeAmo, decodeFold, decodeFence, decodeCb, decodeStripc, decodeFarm, decodeXtree,
    decodeCq, decodeNat_mma, decodeNat_mctl, decodeNat_drain, decodeNat_kv, decodeNat_twin, decodeNat_supv, decodeMctl,
    decodeDrain, decodeKv, decodeTwin, decodeSupv, add_field, slice_mod, slice_or, slice_same, slice_above, slice_below,
    Nat.reduceDiv, Nat.reduceMod, Nat.reduceMul, Nat.or_zero, Nat.zero_or, Nat.or_self, fld_slice, BitVec.ofNat_toNat,
    BitVec.setWidth_eq, Nat.reducePow, Nat.reduceEqDiff, and_self, and_true, true_and, ↓reduceIte]
  all_goals exact if_pos hwf

/-- Every word that the encoder gives for a well-formed instruction is read back. -/
theorem readBack_of_encodeNat {i : Instr} {n : Nat} (st : Stall) (hwf : i.WellFormed) (h : encodeNat i = some n) :
    ReadBack i st n := by
  rcases lt_or_ge i.ctorIdx (Instr.vdef 0 0 0 0).ctorIdx with hv | hv
  · exact readBack_scalar st hv hwf h
  rcases lt_or_ge i.ctorIdx (Instr.eq 0 0 0 0 0 0).ctorIdx with hq | hq
  · exact readBack_rows st hv hq hwf h
  rcases lt_or_ge i.ctorIdx (Instr.vlda 0 0 0 0).ctorIdx with hm | hm
  · exact readBack_tags st hq hm hwf h
  · exact readBack_rest st hm hwf h

/-! From the word to its instruction and back, by the majors. Over the integers a slice is linear in the quotients of the word,
so that the sum of the slices telescopes to the word. -/

theorem fld_toNat (w lo n : Nat) : (fld w lo n).toNat = w / 2 ^ lo % 2 ^ n := by simp [fld]

/-- A slice is a quotient less the bits above it. -/
theorem slice_int (w q r : Nat) : ((w / q % r : Nat) : Int) = ((w / q : Nat) : Int) - r * ((w / (q * r) : Nat) : Int) := by
  have h := Nat.mod_add_div (w / q) r
  rw [Nat.div_div_eq_div_mul] at h
  rw [eq_sub_iff_add_eq, ← Nat.cast_mul, ← Nat.cast_add, h]

/-- The number w, but for its stall count, is the word of the well-formed instruction i. -/
def WordOf (i : Instr) (w : Nat) : Prop := i.WellFormed ∧ encodeNat i = some (w / 8 * 8)

theorem vdef_wellFormed {w : Nat} {v b t} (h0 : ¬ w / 64 % 128 = 0) (h : w / 64 % 128 ≤ 64) :
    (Instr.vdef v b (fld w 6 7) t).WellFormed := by
  have hw : (fld w 6 7).toNat = w / 64 % 128 := fld_toNat w 6 7
  exact ⟨fun hz => h0 (by rw [← hw, hz]; rfl), hw ▸ h⟩

/-- Majors 0x01 to 0x15: arithmetic, branches and loops. -/
theorem wordOf_alu {w : Nat} {i : Instr} (hhi : w / 67108864 < 0x16) (h : decodeNat w = some i) : WordOf i w := by
  rw [decodeNat, Nat.mod_eq_of_lt (by omega)] at h
  split at h
  all_goals try (exfalso; omega)
  all_goals try delta decodeAlu decodeShi at h
  all_goals repeat' split at h
  all_goals try contradiction
  all_goals obtain rfl := Option.some.inj h
  all_goals try casesm* _ ∧ _
  all_goals refine ⟨by trivial, congrArg some ?_⟩
  all_goals
    simp only [← Nat.cast_inj (R := Int), fld_toNat, Nat.cast_add, Nat.cast_mul, slice_int, Nat.reducePow, Nat.reduceMul,
      Nat.cast_ofNat, Nat.cast_zero, Nat.cast_one] at *
    linarith

/-- Majors 0x16 to 0x1A: loop control, loads, stores, CSRs and system words. -/
theorem wordOf_control {w : Nat} {i : Instr} (hlo : 0x16 ≤ w / 67108864) (hhi : w / 67108864 < 0x1C) (h : decodeNat w = some i)
    : WordOf i w := by
  rw [decodeNat, Nat.mod_eq_of_lt (by omega)] at h
  split at h
  all_goals try (exfalso; omega)
  all_goals try delta decodeLctl decodeLd decodeSt decodeCsr decodeSys at h
  all_goals repeat' split at h
  all_goals try contradiction
  all_goals obtain rfl := Option.some.inj h
  all_goals try casesm* _ ∧ _
  all_goals refine ⟨by trivial, congrArg some ?_⟩
  all_goals
    simp only [← Nat.cast_inj (R := Int), fld_toNat, Nat.cast_add, Nat.cast_mul, slice_int, Nat.reducePow, Nat.reduceMul,
      Nat.cast_ofNat, Nat.cast_zero, Nat.cast_one] at *
    linarith

/-- Majors 0x1C to 0x1E: row definitions and arithmetic. -/
theorem wordOf_rows {w : Nat} {i : Instr} (hlo : 0x1C ≤ w / 67108864) (hhi : w / 67108864 < 0x1F) (h : decodeNat w = some i) :
    WordOf i w := by
  rw [decodeNat, Nat.mod_eq_of_lt (by omega)] at h
  split at h
  all_goals try (exfalso; omega)
  all_goals try delta decodeVdef decodeVarith decodeVarx at h
  all_goals repeat' split at h
  all_goals try contradiction
  all_goals obtain rfl := Option.some.inj h
  all_goals refine ⟨by first | trivial | exact vdef_wellFormed ‹_› ‹_›, congrArg some ?_⟩
  all_goals
    simp only [← Nat.cast_inj (R := Int), fld_toNat, Nat.cast_add, Nat.cast_mul, slice_int, Nat.reducePow, Nat.reduceMul,
      Nat.cast_ofNat, Nat.cast_zero, Nat.cast_one] at *
    linarith

/-- Majors 0x1F to 0x23: compares, tags, queries and row moves. -/
theorem wordOf_tags {w : Nat} {i : Instr} (hlo : 0x1F ≤ w / 67108864) (hhi : w / 67108864 < 0x24) (h : decodeNat w = some i) :
    WordOf i w := by
  rw [decodeNat, Nat.mod_eq_of_lt (by omega)] at h
  split at h
  all_goals try (exfalso; omega)
  all_goals try delta decodeVcmp decodeVcmpx decodeVtag decodeVqry decodeVrow at h
  all_goals repeat' split at h
  all_goals try contradiction
  all_goals obtain rfl := Option.some.inj h
  all_goals try casesm* _ ∧ _
  all_goals refine ⟨by trivial, congrArg some ?_⟩
  all_goals
    simp only [← Nat.cast_inj (R := Int), fld_toNat, Nat.cast_add, Nat.cast_mul, slice_int, Nat.reducePow, Nat.reduceMul,
      Nat.cast_ofNat, Nat.cast_zero, Nat.cast_one] at *
    linarith

/-- Majors 0x24 to 0x2A: row memory, streams, atomics, fences, buffers and strips. -/
theorem wordOf_memory {w : Nat} {i : Instr} (hlo : 0x24 ≤ w / 67108864) (hhi : w / 67108864 < 0x2B) (h : decodeNat w = some i) :
    WordOf i w := by
  rw [decodeNat, Nat.mod_eq_of_lt (by omega)] at h
  split at h
  all_goals try (exfalso; omega)
  all_goals try delta decodeVmem decodeStream decodeAmo decodeFold decodeFence decodeCb decodeStripc at h
  all_goals repeat' split at h
  all_goals try contradiction
  all_goals obtain rfl := Option.some.inj h
  all_goals try casesm* _ ∧ _
  all_goals refine ⟨by trivial, congrArg some ?_⟩
  all_goals
    simp only [← Nat.cast_inj (R := Int), fld_toNat, Nat.cast_add, Nat.cast_mul, slice_int, Nat.reducePow, Nat.reduceMul,
      Nat.cast_ofNat, Nat.cast_zero, Nat.cast_one] at *
    linarith

/-- Majors 0x2B to 0x3F: farms, collectives, command queues, engines and the steward. -/
theorem wordOf_engines {w : Nat} {i : Instr} (hlo : 0x2B ≤ w / 67108864) (hhi : w / 67108864 < 64) (h : decodeNat w = some i) :
    WordOf i w := by
  rw [decodeNat, Nat.mod_eq_of_lt (by omega)] at h
  split at h
  all_goals try (exfalso; omega)
  all_goals try delta decodeFarm decodeXtree decodeCq decodeMctl decodeDrain decodeKv decodeTwin decodeSupv at h
  all_goals repeat' split at h
  all_goals try contradiction
  all_goals obtain rfl := Option.some.inj h
  all_goals try casesm* _ ∧ _
  all_goals refine ⟨by trivial, congrArg some ?_⟩
  all_goals
    simp only [← Nat.cast_inj (R := Int), fld_toNat, Nat.cast_add, Nat.cast_mul, slice_int, Nat.reducePow, Nat.reduceMul,
      Nat.cast_ofNat, Nat.cast_zero, Nat.cast_one] at *
    linarith

/-- Every number of 32 bits that decodes is the word of its instruction. -/
theorem wordOf_of_decodeNat {w : Nat} {i : Instr} (hw : w / 67108864 < 64) (h : decodeNat w = some i) : WordOf i w := by
  rcases lt_or_ge (w / 67108864) 0x16 with h1 | h1
  · exact wordOf_alu h1 h
  rcases lt_or_ge (w / 67108864) 0x1C with h2 | h2
  · exact wordOf_control h1 h2 h
  rcases lt_or_ge (w / 67108864) 0x1F with h3 | h3
  · exact wordOf_rows h2 h3 h
  rcases lt_or_ge (w / 67108864) 0x24 with h4 | h4
  · exact wordOf_tags h3 h4 h
  rcases lt_or_ge (w / 67108864) 0x2B with h5 | h5
  · exact wordOf_memory h4 h5 h
  · exact wordOf_engines h5 hw h

/-- The stall field of a word, as a number. -/
theorem stallOf_toNat (w : Word) : (stallOf w).toNat = w.toNat % 8 := by
  simp [stallOf, BitVec.extractLsb'_toNat]

/-- The stall field stands at bit 0. -/
theorem stallOf_eq_fld (w : Word) : stallOf w = fld w.toNat 0 3 :=
  BitVec.eq_of_toNat_eq (by simp [stallOf_toNat, fld_toNat])

/-- A word is its number without the stall count, and the stall count. -/
theorem ofNat_add_stallOf (w : Word) : BitVec.ofNat 32 (w.toNat / 8 * 8 + (stallOf w).toNat) = w := by
  rw [stallOf_toNat, Nat.div_add_mod', BitVec.ofNat_toNat, BitVec.setWidth_eq]

end Sys2Proof.Coding

namespace Sys2Proof.Proofs

open Sys2Proof.Coding

/-- Settles O52: the decoder's slices of an encoded word are its fields, by the chapters of the instructions. -/
theorem encodedWordsDecode : Obligations.EncodedWordsDecode := by
  unfold Obligations.EncodedWordsDecode
  intro i st w hwf h
  obtain ⟨n, hn, rfl⟩ := Option.map_eq_some_iff.1 h
  obtain ⟨hdec, hst⟩ := readBack_of_encodeNat st hwf hn
  rw [mul_one] at hdec hst
  exact ⟨hdec, (stallOf_eq_fld _).trans hst⟩

/-- Settles O53: the fields of a word that decodes add up to the word, by its major. -/
theorem decodedWordsEncode : Obligations.DecodedWordsEncode := by
  unfold Obligations.DecodedWordsEncode
  intro w i h
  obtain ⟨hwf, henc⟩ := wordOf_of_decodeNat (by omega) h
  refine ⟨hwf, ?_⟩
  rw [encode, henc, Option.map_some, ofNat_add_stallOf]

/-- Settles O54: each word is evaluated. -/
theorem writtenWordsDecode : Obligations.WrittenWordsDecode := by
  unfold Obligations.WrittenWordsDecode
  and_intros <;> decide

end Sys2Proof.Proofs
end

section
/-! PROOFS. The frame of a word (03 R79, R82 to R86): privilege, the latch of PFX, and the checking scoreboard. -/

namespace Sys2Proof.Machine

/-! ## The state of a word's checks -/

/-- The results that come change the registers of a scalar state and what is on its way, nothing else. -/
theorem Scalar.commit_same (sc : Scalar) (n : Nat) : { sc.commit n with x := sc.x, fixed := sc.fixed } = sc :=
  congrArg (fun c : Scalar => { c with fixed := sc.fixed })
    (Scalar.foldl_put_same (sc.fixed.filter fun w => w.ready ≤ n) sc)

@[simp] theorem Scalar.commit_pc (sc : Scalar) (n : Nat) : (sc.commit n).pc = sc.pc :=
  (congrArg Scalar.pc (sc.commit_same n) :)
@[simp] theorem Scalar.commit_instret (sc : Scalar) (n : Nat) : (sc.commit n).instret = sc.instret :=
  (congrArg Scalar.instret (sc.commit_same n) :)

theorem State.due_wordValue (s : State) : s.due.wordValue = s.ir.setWidth 64 := by
  rw [State.wordValue, State.due_ir]

theorem State.due_steward {s : State} {c : CoreId} (hc : s.cur = .steward c) :
    s.due = s.modSteward c fun w => { w with sc := w.sc.commit s.now } := by
  simp [State.due, State.modSc, State.setSc, State.sc, hc, State.modSteward, State.modCore]

/-- A steward notes the first trap alone (17 R355). -/
theorem Steward.note_eq (w : Steward) (cause : Nat) (value : Dword) :
    w.note cause value = { w with serr := if w.serr = 0 then BitVec.ofNat 8 cause else w.serr,
                                  serrv := if w.serr = 0 then value else w.serrv } := by
  unfold Steward.note
  split <;> rfl

/-- A trap that a check raises in a hart is taken at the word's address. -/
theorem State.due_trapped {s : State} {h : HartKey} (hc : s.cur = .hart h) (cause : Nat) (value : Dword) :
    s.due.trapped cause value = s.due.takeTrap h cause value (s.hart h).sc.pc := by
  rw [State.trapped_hart (by simpa using hc), State.due_hart_same hc, Scalar.commit_pc]

/-! ## The checks, one after another -/

/-- Check 3 of R79. -/
theorem runWord_privileged {s : State} {h : HartKey} {i : Instr} (hc : s.cur = .hart h) (hp : privileged i = true)
    (f : State → Flow) : runWord i f s = s.due.takeTrap h 0x02 (s.ir.setWidth 64) (s.hart h).sc.pc := by
  rw [runWord_eq, hp, hc, State.due_wordValue]
  exact State.due_trapped hc _ _

/-- A word that the steward does not run. -/
theorem runWord_refused {s : State} {c : CoreId} {i : Instr} (hc : s.cur = .steward c) (hw : stewardWord i = false)
    (f : State → Flow) : runWord i f s = s.due.trapped 0x01 (s.ir.setWidth 64) := by
  rw [runWord_eq, hc, hw, State.due_wordValue]
  simp [Agent.isHart, causeIll]

section
variable {s : State} {h : HartKey} {i : Instr} (hc : s.cur = .hart h) (hp : privileged i = false) (hn : namesSystemChain i = false)
include hc hp hn

/-- In a hart, a word that passes the checks of its mode comes to the latch of PFX. -/
theorem runWord_hart (f : State → Flow) :
    runWord i f s =
      match s.due.sc.latch with
      | none => s.due.body i f
      | some p =>
        if pfxIllegal i p then s.due.trapped causeIll s.due.wordValue
        else if s.due.sc.pred p.psel == p.pinv then s.due.retired
        else s.due.body i f := by
  rw [runWord_eq, hp, hc, Agent.isHart, hn]
  rfl

/-- Check 5 of R79. -/
theorem runWord_pfxIllegal {p : PfxLatch} (hl : s.due.sc.latch = some p) (hi : pfxIllegal i p = true) (f : State → Flow) :
    runWord i f s = s.due.takeTrap h 0x01 (s.ir.setWidth 64) (s.hart h).sc.pc := by
  rw [runWord_hart hc hp hn, hl, ← State.due_trapped hc, ← State.due_wordValue]
  exact if_pos hi

/-- A false predicate (03 R84). -/
theorem runWord_predicateFalse {p : PfxLatch} (hl : s.due.sc.latch = some p) (hi : pfxIllegal i p = false)
    (hf : s.due.sc.pred p.psel = p.pinv) (f : State → Flow) : runWord i f s = s.due.retired := by
  rw [runWord_hart hc hp hn, hl]
  simp [hi, hf]

/-- A word that admits the loaded latch, if any, and whose predicate is true, comes to its body. -/
theorem runWord_admitted (hl : ∀ p, s.due.sc.latch = some p → pfxIllegal i p = false ∧ s.due.sc.pred p.psel ≠ p.pinv)
    (f : State → Flow) : runWord i f s = s.due.body i f := by
  rw [runWord_hart hc hp hn]
  cases hlatch : s.due.sc.latch with
  | none => rfl
  | some p =>
    obtain ⟨hi, hf⟩ := hl p hlatch
    simp [hi, hf]

end

section
variable {s : State} {h : HartKey} {i : Instr} (hc : s.cur = .hart h)
include hc

/-- A word that has not begun to wait, and is not eligible, is not checked. -/
theorem State.body_waits (hw : (s.hart h).wait = .none) (h1 : s.waits i = true) (f : State → Flow) : s.body i f = s.idle i := by
  rw [State.body, State.self_hart hc, hw]
  simp [h1]

/-- Check 6 of R79. -/
theorem State.body_stalled (hw : (s.hart h).wait = .none) (h1 : s.waits i = false) (hk : (s.hart h).csr.schk = true) {r : Reg}
    (hr : s.stalled i = some r) (f : State → Flow) : s.body i f = s.trapped causeStall (r.setWidth 64) := by
  have hs : s.schk = true := by rw [State.schk, hc]; exact hk
  rw [State.body, State.self_hart hc, hw, h1, hs, hr]
  simp [State.trapped]

/-- A word that waits leaves the state as it is, unless it passes over failed stream blocks. -/
theorem State.idle_keeps (hk : (s.hart h).failedBlocks = [] ∨ ordersItself i = false ∧ readsRecord i = false) : s.idle i = s := by
  rw [State.idle, State.self_hart hc]
  refine if_neg ?_
  rcases hk with hk | ⟨ho, hr⟩
  · simp [hk]
  · simp [ho, hr]

theorem State.idle_waives (hb : (s.hart h).failedBlocks ≠ []) (ho : ordersItself i = true ∨ readsRecord i = true) :
    s.idle i = s.modHart h fun t => { t with streams := t.streams.map fun b => b.map fun b => { b with waived := b.fault.isSome } } := by
  have hb' : (s.hart h).failedBlocks.isEmpty = false := by simpa using hb
  rw [State.idle, State.self_hart hc, hc, State.modSelf_hart hc, hb']
  rw [if_pos (by simpa [Agent.isHart] using ho), State.modHart, State.modHart, Hart.waive, hb']
  rfl

end

/-! ## PFX -/

theorem exec_pfx {s : State} {p : BitVec 3} {n c : BitVec 1} {r : Reg} (h : s.Ready (.pfx p n c r)) :
    exec (.pfx p n c r) s = .next (State.finish
      (if (s.due.sc.loops.head?).any fun e => decide (e.last = s.due.sc.pc) then .trap s.due causeIll s.due.wordValue
       else .latched s.due { psel := p, pinv := n == 1, dce := c == 1, dcr := r })) :=
  congrArg Host.Outcome.next (runWord_ready h _)

theorem State.sc_latched (s : State) (p : PfxLatch) :
    (State.finish (.latched s p)).sc = { s.sc.retire s.issueCycle s.stall with latch := some p } := by
  simp [State.finish]

/-- No step of a loop follows a word that does not end the innermost one. -/
theorem loopEnd_of_head {es : List LoopEntry} {pc : Dword} (h : es.head?.map LoopEntry.last ≠ some pc) :
    loopEnd es pc = (es, pc + 4) := by
  cases es with
  | nil => exact loopEnd_nil pc
  | cons e es => exact loopEnd_elsewhere (by simpa using h) es

end Sys2Proof.Machine

namespace Sys2Proof.Proofs

open Sys2Proof.Machine

/-- Settles O4: the body of PFX asks for the end of the innermost loop; elsewhere the loop-end step only moves the pc. -/
theorem pfxLoadsTheLatch : Obligations.PfxLoadsTheLatch := by
  unfold Obligations.PfxLoadsTheLatch
  intro p n c r s hready
  have hend : ((s.due.sc.loops.head?).any fun e => decide (e.last = s.due.sc.pc)) = true ↔
      s.due.sc.loops.head?.map LoopEntry.last = some s.due.sc.pc := by
    cases s.due.sc.loops.head? <;> simp
  refine ⟨fun hat => ?_, fun hat => ⟨_, (exec_pfx hready).trans (by rw [if_neg (mt hend.1 hat)]), ?_⟩⟩
  · rw [exec_pfx hready, if_pos (hend.2 hat), State.due_wordValue]
    rfl
  · rw [State.sc_latched, Scalar.retire, loopEnd_of_head hat]
    exact ⟨rfl, rfl, rfl, rfl, (State.setSc_sameOutside _ _).trans (State.issued_sameOutside _)⟩

theorem privilegedWordsTrapInAHart : Parts.PrivilegedWordsTrapInAHart := by
  intro i s h hc hi
  have hword : privileged i = true ∧ (encodeNat i).isSome = true := by
    rcases hi with rfl | ⟨_, _, _, rfl⟩ | ⟨_, _, _, rfl⟩ | ⟨_, _, rfl⟩ | ⟨_, _, rfl⟩ | ⟨_, _, _, rfl⟩ | ⟨_, _, rfl⟩ | ⟨_, _, _, rfl⟩ |
      ⟨_, rfl⟩ <;> exact ⟨rfl, rfl⟩
  obtain ⟨f, hexec⟩ := exec_word i hword.2
  rw [hexec, runWord_privileged hc hword.1]

/-- A word with an encoding runs in the frame of R79. -/
theorem exec_of_encode {i : Instr} (h : ∃ w, encode i 0 = some w) : ∃ f : State → Flow, ∀ s, exec i s = .next (runWord i f s) := by
  obtain ⟨w, hw⟩ := h
  obtain ⟨n, hn, -⟩ := Option.map_eq_some_iff.1 hw
  exact exec_word i (Option.isSome_of_eq_some hn)

theorem stewardNotesRefusedWords : Parts.StewardNotesRefusedWords := by
  intro i s c hc hw hi
  obtain ⟨f, hexec⟩ := exec_of_encode hi
  refine ⟨_, hexec s, ?_⟩
  rw [runWord_refused hc hw, State.trapped_steward (by simpa using hc), State.due_steward hc]
  refine ⟨rfl, rfl, ?_⟩
  rw [State.core_modSteward_same, State.core_modSteward_same, Steward.note_eq]
  exact ⟨rfl, rfl, congrArg (· + 1) (Scalar.commit_instret _ _), rfl, rfl⟩

/-- Settles O9: check 3 of R79 in a hart; in a steward a trap is only noted (`State.trapped_steward`). -/
theorem privilegeSeparatesHartsAndStewards : Obligations.PrivilegeSeparatesHartsAndStewards :=
  ⟨privilegedWordsTrapInAHart, stewardNotesRefusedWords⟩

theorem prefixesRefuseOrSkipTheirWord : Parts.PrefixesRefuseOrSkipTheirWord := by
  intro i s h p hc hi hp hn hl
  obtain ⟨f, hexec⟩ := exec_of_encode hi
  rw [hexec]
  exact ⟨fun hill => by rw [runWord_pfxIllegal hc hp hn hl hill],
    fun hill hf => by rw [runWord_predicateFalse hc hp hn hl hill hf]⟩

theorem earlyReadersRaiseStall : Parts.EarlyReadersRaiseStall := by
  intro i s h r hc hi hp hn hl hw
  obtain ⟨f, hexec⟩ := exec_of_encode hi
  have hcur : s.due.cur = .hart h := by simpa using hc
  have hhart := State.due_hart_same hc
  have hwait : (s.due.hart h).wait = .none := by rw [hhart]; exact hw
  have hfailed : (s.due.hart h).failedBlocks = (s.hart h).failedBlocks := by rw [hhart]; rfl
  rw [hexec, runWord_admitted hc hp hn hl]
  refine ⟨fun h1 hk hr => ?_, fun h1 hb => ?_, fun h1 hb ho => ?_⟩
  · have hk' : (s.due.hart h).csr.schk = true := by rw [hhart]; exact hk
    rw [State.body_stalled hcur hwait h1 hk' hr, State.due_trapped hc]
    rfl
  · rw [State.body_waits hcur hwait h1, State.idle_keeps hcur (by rwa [hfailed])]
  · rw [State.body_waits hcur hwait h1, State.idle_waives hcur (by rwa [hfailed]) ho]

/-- Settles O10: the checks of the frame one after another, for every word that has an encoding. -/
theorem prefixAndStallChecksComeFirst : Obligations.PrefixAndStallChecksComeFirst :=
  ⟨prefixesRefuseOrSkipTheirWord, earlyReadersRaiseStall⟩

end Sys2Proof.Proofs
end

section
/-! PROOFS. One step of the machine: what comes first, and what the attempt of a word leaves. -/

namespace Sys2Proof.Machine

/-! ## Events from outside -/

/-- What the oldest event from outside does. -/
theorem State.inputStep_cons {s : State} {i : Instr} {rest : List Instr} (h : s.inputs = i :: rest) :
    s.inputStep =
      if !s.powered then some (if isPowerOn i then exec i { s with inputs := rest } else .next { s with inputs := rest })
      else if !fromOutside i then some (.next { s with inputs := rest })
      else if s.inputWaits i || s.behindWrite i then none
      else some (exec i { s with inputs := rest }) := by
  simp only [State.inputStep, h]

theorem State.inputStep_quiet {s : State} (h : Claims.quiet s) : s.inputStep = none := by
  rcases h with h | ⟨i, rest, h, hp, ho, hw⟩
  · simp only [State.inputStep, h]
  · rw [State.inputStep_cons h]
    simp [hp, ho, hw]

theorem step_of_input {s : State} {r : Host.Outcome State Fault Refusal} (h : s.inputStep = some r) : step s = r := by
  rw [step, State.advance, h]

/-- With no event from outside, a powered machine goes on with its cycle. -/
theorem step_quiet {s : State} (hq : Claims.quiet s) (hp : s.powered = true) :
    step s = match s.phase, s.todo with
      | .background, _ => .next s.backgroundStep
      | .issue, a :: rest => s.issueStep a rest
      | .issue, [] => .next s.tick := by
  rw [step, State.advance, State.inputStep_quiet hq, hp]
  rfl

/-! ## The issue of a word -/

theorem State.issueStep_passes {s : State} {a : Agent} {rest : List Agent}
    (h : State.mayIssue { s with todo := rest, cur := a } a = false) :
    s.issueStep a rest = .next { s with todo := rest, cur := a } := by
  simp [State.issueStep, h]

theorem State.issueStep_runs {s r : State} {a : Agent} {rest : List Agent}
    (h : State.mayIssue { s with todo := rest, cur := a } a = true)
    (hr : (State.unbar { s with todo := rest, cur := a } a).runNext = .next r) :
    s.issueStep a rest = .next (State.settleIssue { s with todo := rest, cur := a } a r) := by
  simp [State.issueStep, h, hr]

theorem State.runNext_overdue {s : State} {f : Nat × Dword} (h : s.overdueFault = some f) :
    s.runNext = .next (State.finish (.trap (s.modSelf fun t => { t with overdue := none }) f.1 f.2)) := by
  simp only [State.runNext, h]

theorem State.runNext_fetched {s t : State} {w : Word} (h : s.overdueFault = none) (hw : s.nextWord = (.ok w, t)) :
    s.runNext = exec ((decode w).getD .nonInstructionWord) { t with ir := w } := by
  simp only [State.runNext, h, hw]
  cases decode w <;> rfl

theorem State.runNext_missed {s t : State} {m : Miss} (h : s.overdueFault = none) (hw : s.nextWord = (.error m, t)) :
    s.runNext = exec .instructionFetchFault s := by
  simp only [State.runNext, h, hw]
  rfl

/-! ## Device time -/

/-- The device times of the first n cycles add up to 50 ns in 47 cycles. -/
theorem sum_nsOfCycle (n : Nat) : ((List.range n).map nsOfCycle).sum = n * 50 / 47 := by
  induction n with
  | zero => rfl
  | succ n ih =>
    rw [List.range_succ, List.map_append, List.sum_append, ih, List.map_singleton, List.sum_singleton, nsOfCycle]
    omega

end Sys2Proof.Machine

namespace Sys2Proof.Proofs

open Sys2Proof.Machine

theorem inputsRunFirst (s : State) (i : Instr) (rest : List Instr) (h : s.inputs = i :: rest) :
    let u : State := { s with inputs := rest }
    (s.powered = true → fromOutside i = true → s.inputWaits i = false → s.behindWrite i = false → step s = exec i u) ∧
    (s.powered = true → fromOutside i = false → step s = .next u) ∧
    (s.powered = false → step s = if isPowerOn i then exec i u else .next u) := by
  refine ⟨fun hp ho hw hb => step_of_input ?_, fun hp ho => step_of_input ?_, fun hp => step_of_input ?_⟩ <;>
    rw [State.inputStep_cons h]
  · simp [hp, ho, hw, hb]
  · simp [hp, ho]
  · simp [hp]

theorem agentsRunTheirWord (s : State) (a : Agent) (rest : List Agent) (hq : Claims.quiet s) (hp : s.powered = true)
    (hi : s.phase = .issue) (ht : s.todo = a :: rest) :
    let u : State := { s with todo := rest, cur := a }
    let v := u.unbar a
    (u.mayIssue a = false → step s = .next u) ∧
    (∀ f, u.mayIssue a = true → v.overdueFault = some f →
      step s = .next (u.settleIssue a (State.finish (.trap (v.modSelf fun t => { t with overdue := none }) f.1 f.2)))) ∧
    (∀ w t i r, u.mayIssue a = true → v.overdueFault = none → v.nextWord = (.ok w, t) → decode w = some i →
      exec i { t with ir := w } = .next r → step s = .next (u.settleIssue a r)) ∧
    (∀ w t r, u.mayIssue a = true → v.overdueFault = none → v.nextWord = (.ok w, t) → decode w = none →
      exec .nonInstructionWord { t with ir := w } = .next r → step s = .next (u.settleIssue a r)) ∧
    (∀ m t r, u.mayIssue a = true → v.overdueFault = none → v.nextWord = (.error m, t) →
      exec .instructionFetchFault v = .next r → step s = .next (u.settleIssue a r)) := by
  have hstep : step s = s.issueStep a rest := by rw [step_quiet hq hp, hi, ht]
  rw [hstep]
  refine ⟨State.issueStep_passes, fun f hm hf => ?_, fun w t i r hm hf hw hd hr => ?_, fun w t r hm hf hw hd hr => ?_,
    fun m t r hm hf hw hr => ?_⟩ <;> refine State.issueStep_runs hm ?_
  · exact State.runNext_overdue hf
  · rw [State.runNext_fetched hf hw, hd]
    exact hr
  · rw [State.runNext_fetched hf hw, hd]
    exact hr
  · rw [State.runNext_missed hf hw, hr]

/-- Settles O60: an event from outside is taken first; else the phase and the agents left decide (`step_quiet`). -/
theorem stepsRunTheDecodedInstruction : Obligations.StepsRunTheDecodedInstruction := by
  unfold Obligations.StepsRunTheDecodedInstruction
  refine ⟨fun s hi hp => ?_, inputsRunFirst, fun s hq hp hph => ?_, fun s hq hp hph ht => ?_, agentsRunTheirWord, sum_nsOfCycle⟩
  · rw [step, State.advance, State.inputStep_quiet (.inl hi), hp]
    rfl
  · rw [step_quiet hq hp, hph]
  · rw [step_quiet hq hp, hph, ht]

end Sys2Proof.Proofs
end

section
/-! PROOFS. What happens to a hart or a core without a word of its own: results, words that are none, fetches, walks and routines. -/

namespace Sys2Proof.Machine

/-! ## Results that come back (03 R81) -/

/-- The one entry of a board stays where it is not due, or not asked for. -/
theorem Scalar.arriveBoard_stays {sc : Scalar} {w : PendingWrite} {n : Nat} {p : PendingWrite → Bool} (hb : sc.board = [w])
    (hw : (w.due n && p w) = false) : sc.arriveBoard n p = sc := by
  simp only [Scalar.arriveBoard, hb, List.filter_cons, hw]
  simp [← hb]

theorem PendingWrite.due_iff (w : PendingWrite) (n : Nat) : w.due n = true ↔ w.owner = none ∧ w.ready ≤ n := by
  simp [PendingWrite.due]

/-! ## Words that are no instruction (R76, R78, R79) -/

theorem exec_nonInstructionWord (s : State) :
    exec .nonInstructionWord s =
      .next (s.due.trapped (if privilegedWord s.ir && s.cur.isHart then causePriv else causeIll) (s.ir.setWidth 64)) := by
  rw [← State.due_wordValue, ← State.due_ir, ← State.due_cur]
  rfl

theorem privilegedWord_iff (w : Word) :
    privilegedWord w = true ↔ w.toNat / 2 ^ 26 = 0x33 ∧ w.toNat / 8 % 256 < 8 ∨ w.toNat / 2 ^ 26 = 0x1A ∧ w.toNat / 8 % 256 = 0x10 := by
  simp [privilegedWord]

/-! ## Fetches that fail -/

theorem exec_fetchFault_of_ok {s t : State} {w : Word} (h : s.fetch = (.ok w, t)) : exec .instructionFetchFault s = .next s := by
  show execInstructionFetchFault s = _
  rw [execInstructionFetchFault, h]

theorem exec_fetchFault_of_error {s t : State} {m : Miss} (h : s.fetch = (.error m, t)) :
    exec .instructionFetchFault s = .next (t.due.trapped m.cause m.value) := by
  show execInstructionFetchFault s = _
  rw [execInstructionFetchFault, h]
  rfl

/-! ## Walks (09 R215 to R219) -/

/-- Two states with the same harts, TLBs and page of registers. -/
structure State.KeepsTlb (s t : State) : Prop where
  harts : t.harts = s.harts
  tlb : t.tlb = s.tlb
  page : t.page = s.page

theorem State.KeepsTlb.refl (s : State) : s.KeepsTlb s := ⟨rfl, rfl, rfl⟩

theorem State.KeepsTlb.trans {s t u : State} (h : s.KeepsTlb t) (h' : t.KeepsTlb u) : s.KeepsTlb u :=
  ⟨h'.harts.trans h.harts, h'.tlb.trans h.tlb, h'.page.trans h.page⟩

theorem State.Stores.keepsTlb {s t : State} (h : s.Stores t) : s.KeepsTlb t :=
  ⟨h.harts, h.tlb, h.part State.page fun _ _ _ _ _ _ => rfl⟩

/-- The range of a translation: the block of its size in which the address lies. -/
theorem TlbEntry.covers_block {e : TlbEntry} {ctx va : Nat} (n : Nat) (hn : 0 < n) (hc : e.ctx = ctx) (hs : e.size = n)
    (hb : e.base = va / n * n) : e.covers ctx va = true := by
  have hlt := Nat.lt_div_mul_add hn (a := va)
  have hle := Nat.div_mul_le_self va n
  simp [TlbEntry.covers, hc, hs, hb, hle, hlt]

theorem blockEntry_covers {ctx va n : Nat} {e : TlbEntry} (h : blockEntry ctx va n = some e) : e.covers ctx va = true := by
  rw [blockEntry] at h
  obtain ⟨-, h⟩ := Option.ite_none_right_eq_some.1 h
  obtain rfl := Option.some.inj h
  exact TlbEntry.covers_block (2 ^ 21) (by decide) rfl rfl rfl

theorem leafEntry_covers {ctx va n : Nat} {e : TlbEntry} (h : leafEntry ctx va n = some e) : e.covers ctx va = true := by
  simp only [leafEntry] at h
  split at h
  · contradiction
  · split at h <;> obtain rfl := Option.some.inj h
    · exact TlbEntry.covers_block 524288 (by decide) rfl rfl rfl
    · exact TlbEntry.covers_block 65536 (by decide) rfl rfl rfl

/-- The end of a walk from s: what it leaves alone, and that the translation it gives covers the address. -/
def Walked (s : State) (ctx va : Nat) (r : Except Nat TlbEntry × State) : Prop :=
  s.KeepsTlb r.2 ∧ ∀ e, r.1 = .ok e → e.covers ctx va = true

theorem Walked.error {s t : State} (h : s.KeepsTlb t) (ctx va c : Nat) : Walked s ctx va (.error c, t) := ⟨h, nofun⟩

theorem Walked.entry {s t : State} {ctx va : Nat} {o : Option TlbEntry} (h : s.KeepsTlb t)
    (ho : ∀ e, o = some e → e.covers ctx va = true) : Walked s ctx va (o.elim (.error causeLdpf) .ok, t) := by
  refine ⟨h, fun e he => ?_⟩
  cases o with
  | none => exact nomatch he
  | some e' => exact ho e (congrArg some (Except.ok.inj he))

theorem Walked.after {s t : State} {ctx va : Nat} {r : Except Nat TlbEntry × State} (h : s.KeepsTlb t) (hr : Walked t ctx va r) :
    Walked s ctx va r := ⟨h.trans hr.1, hr.2⟩

theorem State.keepsTlb_of_tableRead {s t : State} {core pa n : Nat} {r : Except Nat Nat} (h : s.tableRead core pa n = (r, t)) :
    s.KeepsTlb t := (State.tableRead_stores_of h).keepsTlb

/-- A walk reads tables, level by level, and may count a claim that fails. -/
theorem State.walked (s : State) (core ctx va : Nat) : Walked s ctx va (s.walk core ctx va) := by
  unfold State.walk
  split
  · exact .error (.refl s) ..
  split
  · exact .error (State.keepsTlb_of_tableRead ‹_›) ..
  refine .after (State.keepsTlb_of_tableRead ‹_›) ?_
  split
  · exact .error (.refl _) ..
  split
  · exact .error (State.keepsTlb_of_tableRead ‹_›) ..
  refine .after (State.keepsTlb_of_tableRead ‹_›) ?_
  split
  · exact .error (.refl _) ..
  split
  · exact .error (State.keepsTlb_of_tableRead ‹_›) ..
  refine .after (State.keepsTlb_of_tableRead ‹_›) ?_
  split
  · exact .entry (.refl _) fun _ => blockEntry_covers
  split
  · exact .error (.refl _) ..
  split
  · exact .error (State.keepsTlb_of_tableRead ‹_›) ..
  refine .after (State.keepsTlb_of_tableRead ‹_›) (.entry ?_ fun _ => leafEntry_covers)
  split
  · exact ⟨rfl, rfl, rfl⟩
  · exact .refl _

theorem State.target_eq_ok {s : State} {core va : Nat} {use : Access} {e : TlbEntry} {q : Target} (h : s.target core va use e = .ok q) :
    s.locOfPa (e.pa va) = some q.loc ∧ e.permits use = true := by
  unfold State.target at h
  split at h
  · exact nomatch h
  next loc hl =>
    split at h
    · exact nomatch h
    · split at h
      · exact nomatch h
      next hp =>
        obtain rfl := Except.ok.inj h
        exact ⟨hl, by simpa using hp⟩

/-- A number of the device decides what its addresses name. -/
theorem State.KeepsTlb.locOfPa {s t : State} (h : s.KeepsTlb t) (pa : Nat) : t.locOfPa pa = s.locOfPa pa := by
  simp only [State.locOfPa, h.page]

/-- The translations of a TLB in the set where e lives. -/
def tlbSetOf (core : Nat) (e : TlbEntry) (l : List TlbEntry) : List TlbEntry :=
  l.filter fun o => o.isAt core 0 && decide (o.setIn 0 = e.setIn 0)

/-- A translation enters the TLB of a core in place of those of its address, and of one of its set where that is full. -/
theorem State.tlb_enterTlb (s : State) (core ctx va : Nat) (e : TlbEntry) :
    let new : TlbEntry := { e with core := core, unit := 0 }
    let others := s.tlb.filter fun o => !(o.isAt core 0 && o.covers ctx va)
    ∃ rest, (s.enterTlb core 0 ctx va e).tlb = new :: rest ∧
      ((tlbSetOf core new others).length < 8 → rest = others) ∧
      (8 ≤ (tlbSetOf core new others).length → ∃ o ∈ tlbSetOf core new others, rest = others.erase o) := by
  intro new others
  have hset : ((others.filter fun o => o.isAt core 0).filter fun o => decide (o.setIn 0 = new.setIn 0)) = tlbSetOf core new others := by
    rw [List.filter_filter]
    exact List.filter_congr fun _ _ => Bool.and_comm _ _
  have hle : (tlbSetOf core new others).length ≤ (others.filter fun o => o.isAt core 0).length := by
    rw [← hset]
    exact List.length_filter_le _ _
  have hways : tlbWays 0 = 8 := rfl
  unfold State.enterTlb
  simp only [hways]
  split
  next hfree => exact ⟨others, rfl, fun _ => rfl, fun h8 => absurd (h8.trans hle) (Nat.not_le_of_lt hfree)⟩
  next =>
    rw [hset]
    split
    next hfree => exact ⟨others, rfl, fun _ => rfl, fun h8 => absurd hfree (Nat.not_lt_of_le h8)⟩
    next hfull =>
      refine ⟨_, rfl, fun hlt => absurd hlt hfull, fun h8 => ⟨_, ?_, rfl⟩⟩
      have hc := s.choose_lt (n := (tlbSetOf core new others).length) (by omega)
      rw [List.getD_eq_getElem _ _ hc]
      exact List.getElem_mem hc

theorem State.harts_enterTlb (s : State) (core unit ctx va : Nat) (e : TlbEntry) : (s.enterTlb core unit ctx va e).harts = s.harts := by
  unfold State.enterTlb
  simp only
  split
  · rfl
  · split
    · rfl
    · exact (congrArg State.harts (s.choose_same _) :)

/-- How a fresh translation for the core TLB ends: the harts stay; a failure leaves the TLBs; a success enters the walk's entry. -/
theorem State.translateAfresh_ends (s : State) (core : CoreId) (ctx va : Nat) (use : Access) :
    let r := s.translateAfresh core 0 ctx va use
    r.2.harts = s.harts ∧ (∀ c, r.1 = .error c → r.2.tlb = s.tlb) ∧
    (∀ q, r.1 = .ok q → ∃ e : TlbEntry, ∃ u, e.covers ctx va = true ∧ s.locOfPa (e.pa va) = some q.loc ∧ e.permits use = true ∧
      u.tlb = s.tlb ∧ r.2 = State.enterTlb u core 0 ctx va e) := by
  have hw := s.walked core ctx va
  intro r
  rcases hwalk : s.walk core ctx va with ⟨c | e, u⟩ <;> rw [hwalk] at hw <;> obtain ⟨hk, hcov⟩ := hw
  · have hr : r = (.error c, u) := by simp only [r, State.translateAfresh, hwalk]
    rw [hr]
    exact ⟨hk.harts, fun _ _ => hk.tlb, nofun⟩
  · rcases ht : u.target core va use e with c | q
    · have hr : r = (.error c, u) := by simp only [r, State.translateAfresh, hwalk, ht]
      rw [hr]
      exact ⟨hk.harts, fun _ _ => hk.tlb, nofun⟩
    · have hr : r = (.ok q, u.enterTlb core 0 ctx va e) := by simp only [r, State.translateAfresh, hwalk, ht]; rfl
      obtain ⟨hloc, hper⟩ := State.target_eq_ok ht
      rw [hr]
      refine ⟨(State.harts_enterTlb ..).trans hk.harts, nofun, fun q' hq => ?_⟩
      obtain rfl := Except.ok.inj hq
      exact ⟨e, u, hcov e rfl, by rw [← hk.locOfPa, hloc], hper, hk.tlb, rfl⟩

/-! ## Routines (R354, R356) -/

theorem SupEvent.toNat_word {e : SupEvent} (hk : e.kind < 256) (hc : e.ctx < 4096) :
    e.word.toNat = e.kind + 2 ^ 16 * e.master.toNat + 2 ^ 32 * e.ctx := by
  have := e.master.isLt
  rw [SupEvent.word, BitVec.toNat_ofNat, Nat.mod_eq_of_lt hk, Nat.mod_eq_of_lt hc]
  omega

/-- The steward as the routine of an event starts. -/
def Steward.starting (w : Steward) (e : SupEvent) (now : Nat) : Steward :=
  { w with running := true, sevk := e.word, sevv := e.value, sevpc := e.pc, sevx := e.x.setWidth 64, sdisp := 0,
           sc := { w.sc with pc := w.svec, nextIssue := max w.sc.nextIssue (now + 1) } }

theorem State.routineStep_none {s : State} {core : CoreId}
    (h : (s.core core).steward.running = true ∨ (s.core core).steward.events = []) : s.routineStep core = none := by
  unfold State.routineStep
  rcases h with h | h
  · simp only [h]
  · cases hr : (s.core core).steward.running <;> simp only [h, hr]

theorem State.routineStep_some {s : State} {core : CoreId} {e : SupEvent} {rest : List SupEvent}
    (hr : (s.core core).steward.running = false) (he : (s.core core).steward.events = e :: rest) :
    s.routineStep core = some (s.modSteward core fun w => w.starting e s.now) := by
  simp only [State.routineStep, hr, he]
  rfl

end Sys2Proof.Machine

namespace Sys2Proof.Proofs

open Sys2Proof.Machine

theorem resultsReachTheirHart (s : State) (h : HartKey) :
    (∃ t, exec (.dividerResult h) s = .next t ∧ (t.hart h).sc = (s.hart h).sc.arriveBoard s.now (fun w => w.kind == .div) ∧
      (∀ g, g ≠ h → t.hart g = s.hart g) ∧ { t with harts := s.harts } = s) ∧
    (∃ t, exec (.loadReturn h) s = .next t ∧ (t.hart h).sc = (s.hart h).sc.arriveBoard s.now (fun w => w.kind != .div) ∧
      (∀ g, g ≠ h → t.hart g = s.hart g) ∧ { t with harts := s.harts } = s) :=
  ⟨⟨_, rfl, by rw [State.hart_modHart_same], fun _ hg => State.hart_modHart_other _ _ hg, rfl⟩,
   ⟨_, rfl, by rw [State.hart_modHart_same], fun _ hg => State.hart_modHart_other _ _ hg, rfl⟩⟩

theorem dueResultsAreWritten (sc : Scalar) (w : PendingWrite) (n : Nat) (p : PendingWrite → Bool) (hb : sc.board = [w]) :
    (w.owner = none → w.ready ≤ n → p w = true → (sc.arriveBoard n p).board = [] ∧ (w.rd ≠ 0 → (sc.arriveBoard n p).get w.rd = w.value) ∧
      (∀ r, r ≠ w.rd → (sc.arriveBoard n p).get r = sc.get r)) ∧
    (¬ (w.owner = none ∧ w.ready ≤ n ∧ p w = true) → sc.arriveBoard n p = sc) := by
  refine ⟨fun ho hr hp => ?_, fun hw => Scalar.arriveBoard_stays hb ?_⟩
  · rw [Scalar.arriveBoard_one hb ((w.due_iff n).2 ⟨ho, hr⟩) hp]
    exact ⟨rfl, fun h0 => Scalar.get_put_same sc h0 w.value, fun r hne => Scalar.get_put_other sc hne w.value⟩
  · rw [← Bool.not_eq_true, Bool.and_eq_true, PendingWrite.due_iff, and_assoc]
    exact hw

theorem nonWordsTrap (s : State) (h : HartKey) (hc : s.cur = .hart h) :
    let n := s.ir.toNat
    let privileged := n / 2 ^ 26 = 0x33 ∧ n / 8 % 256 < 8 ∨ n / 2 ^ 26 = 0x1A ∧ n / 8 % 256 = 0x10
    exec .nonInstructionWord s = .next (s.due.takeTrap h (if privileged then 0x02 else 0x01) (s.ir.setWidth 64) (s.hart h).sc.pc) := by
  intro n privileged
  rw [exec_nonInstructionWord, State.due_trapped hc, hc]
  simp only [Agent.isHart, Bool.and_true, privilegedWord_iff]
  rfl

theorem nonWordsAreNoted (s : State) (c : CoreId) (hc : s.cur = .steward c) :
    exec .nonInstructionWord s = .next (s.due.trapped 0x01 (s.ir.setWidth 64)) := by
  rw [exec_nonInstructionWord, hc]
  simp [Agent.isHart, causeIll]

theorem failedFetchesTrap (s t : State) :
    (∀ w, s.fetch = (.ok w, t) → exec .instructionFetchFault s = .next s) ∧
    (∀ m h, s.fetch = (.error m, t) → t.cur = .hart h →
      exec .instructionFetchFault s = .next (t.due.takeTrap h m.cause m.value (t.hart h).sc.pc)) :=
  ⟨fun _ hf => exec_fetchFault_of_ok hf, fun m h hf hc => by rw [exec_fetchFault_of_error hf, State.due_trapped hc]⟩

theorem walksFillTheirTlb (s : State) (core : CoreId) (ctx : Nat) (va : Dword) (use : Access) :
    let a := va.toNat % 2 ^ 52
    let ending := (s.translateAfresh core 0 ctx a use).1
    (2 ^ 51 ≤ a → exec (.walk core ctx va use) s = .next s) ∧
    (a < 2 ^ 51 → ∃ t, exec (.walk core ctx va use) s = .next t ∧ t.harts = s.harts ∧
      (∀ c, ending = .error c → t.tlb = s.tlb) ∧
      (∀ q, ending = .ok q → ∃ e rest, t.tlb = e :: rest ∧ e.core = core ∧ e.unit = 0 ∧ e.covers ctx a = true ∧
        s.locOfPa (e.pa a) = some q.loc ∧ e.permits use = true ∧
        let others := s.tlb.filter fun o => !(o.isAt core 0 && o.covers ctx a)
        let set := others.filter fun o => o.isAt core 0 && decide (o.setIn 0 = e.setIn 0)
        (set.length < 8 → rest = others) ∧ (8 ≤ set.length → ∃ o ∈ set, rest = others.erase o))) := by
  intro a ending
  have hexec : exec (.walk core ctx va use) s = .next (if 2 ^ 51 ≤ a then s else (s.translateAfresh core 0 ctx a use).2) := rfl
  refine ⟨fun ha => by rw [hexec, if_pos ha], fun ha => ⟨_, hexec.trans (by rw [if_neg (Nat.not_le_of_lt ha)]), ?_⟩⟩
  obtain ⟨hharts, herr, hok⟩ := s.translateAfresh_ends core ctx a use
  refine ⟨hharts, herr, fun q hq => ?_⟩
  obtain ⟨e, u, hcov, hloc, hper, htlb, ht⟩ := hok q hq
  obtain ⟨rest, hrest, hroom, hfull⟩ := u.tlb_enterTlb core ctx a e
  rw [← ht] at hrest
  rw [htlb] at hroom hfull
  exact ⟨_, rest, hrest, rfl, rfl, hcov, hloc, hper, hroom, hfull⟩

theorem routinesStartAtSvec (s : State) (core : CoreId) :
    let w := (s.core core).steward
    (w.running = true ∨ w.events = [] → exec (.supervisorRoutineStart core) s = .next s) ∧
    (∀ e rest, w.running = false → w.events = e :: rest → e.kind < 256 → e.ctx < 4096 →
      ∃ t, exec (.supervisorRoutineStart core) s = .next t ∧ { t with cores := s.cores } = s ∧
        let v := (t.core core).steward
        v.running = true ∧ v.events = w.events ∧ v.sc.pc = w.svec ∧ v.sevv = e.value ∧ v.sevpc = e.pc ∧ v.sevx.toNat = e.x.toNat ∧
        v.sevk.toNat = e.kind + 2 ^ 16 * e.master.toNat + 2 ^ 32 * e.ctx ∧ v.sdisp = 0 ∧ v.serr = w.serr ∧ v.sc.x = w.sc.x) := by
  intro w
  have hexec : exec (.supervisorRoutineStart core) s = .next ((s.routineStep core).getD s) := rfl
  refine ⟨fun h => by rw [hexec, State.routineStep_none h]; rfl, fun e rest hr he hk hc => ?_⟩
  have hstart : exec (.supervisorRoutineStart core) s = .next (s.modSteward core fun w => w.starting e s.now) := by
    rw [hexec, State.routineStep_some hr he]
    rfl
  refine ⟨_, hstart, rfl, ?_⟩
  rw [State.core_modSteward_same]
  exact ⟨rfl, rfl, rfl, rfl, rfl, BitVec.toNat_setWidth_of_le (by decide), SupEvent.toNat_word hk hc, rfl, rfl, rfl⟩

/-- Settles O47: results go to the one register that they are for, traps are taken as any word's, a walk enters the one translation
that it gives, and a routine starts in its steward alone. -/
theorem hartAndCoreEventsComplete : Obligations.HartAndCoreEventsComplete :=
  ⟨resultsReachTheirHart, dueResultsAreWritten, nonWordsTrap, nonWordsAreNoted, failedFetchesTrap, walksFillTheirTlb, routinesStartAtSvec⟩

end Sys2Proof.Proofs
end

section
/-! PROOFS. The numbers of the scalar words (04 R99 to R102): what the model computes on 64-bit words and what the tables say modulo
2^64. -/

namespace Sys2Proof.Machine

theorem ofInt_toNat (a : Dword) : BitVec.ofInt 64 (a.toNat : Int) = a := by
  rw [BitVec.ofInt_natCast, BitVec.ofNat_toNat, BitVec.setWidth_eq]

theorem sub_eq_ofInt (a b : Dword) : a - b = BitVec.ofInt 64 ((a.toNat : Int) - b.toNat) := by
  rw [sub_eq_add_neg, sub_eq_add_neg, BitVec.ofInt_add, BitVec.ofInt_neg, ofInt_toNat, ofInt_toNat]

theorem shiftLeft_ofInt (z : Int) (k : Nat) : BitVec.ofInt 64 z <<< k = BitVec.ofInt 64 (z * 2 ^ k) := by
  have htwo : BitVec.twoPow 64 k = BitVec.ofInt 64 ((2 ^ k : Nat) : Int) := by
    rw [BitVec.ofInt_natCast]
    exact BitVec.eq_of_toNat_eq (by simp)
  rw [BitVec.shiftLeft_eq_mul_twoPow, BitVec.ofInt_mul, htwo, Nat.cast_pow]
  rfl

theorem shiftRight_eq_ofInt (a : Dword) (k : Nat) : a >>> k = BitVec.ofInt 64 ((a.toNat : Int) / 2 ^ k) := by
  rw [← ofInt_toNat (a >>> k), BitVec.toNat_ushiftRight, Nat.shiftRight_eq_div_pow]
  norm_cast

theorem sshiftRight_eq_ofInt (a : Dword) (k : Nat) : a.sshiftRight k = BitVec.ofInt 64 (a.toInt / 2 ^ k) := by
  rw [BitVec.sshiftRight, Int.shiftRight_eq_div_pow]
  norm_cast

theorem ofBool_eq_ofInt (p : Bool) : ofBool p = BitVec.ofInt 64 (Claims.truth p) := by
  cases p <;> rfl

theorem ofBool_slt (a b : Dword) : ofBool (a.slt b) = BitVec.ofInt 64 (Claims.truth (decide (a.toInt < b.toInt))) := by
  rw [BitVec.slt_eq_decide, ofBool_eq_ofInt]

theorem ofBool_ult (a b : Dword) : ofBool (a.ult b) = BitVec.ofInt 64 (Claims.truth (decide ((a.toNat : Int) < b.toNat))) := by
  rw [BitVec.ult_eq_decide, ofBool_eq_ofInt]
  norm_cast

/-- The number that a choice between two words gives. -/
theorem ite_eq_ofInt {p : Prop} [Decidable p] {a b : Dword} {x y : Int} (ha : a = BitVec.ofInt 64 x) (hb : b = BitVec.ofInt 64 y) :
    (if p then a else b) = BitVec.ofInt 64 (if p then x else y) := by
  rw [ha, hb]
  exact (apply_ite _ _ _ _).symm

theorem min_signed (a b : Dword) : (if a.slt b then a else b) = BitVec.ofInt 64 (min a.toInt b.toInt) := by
  rw [min_eq_if]
  simp only [BitVec.slt_eq_decide, decide_eq_true_eq]
  exact ite_eq_ofInt (BitVec.ofInt_toInt).symm (BitVec.ofInt_toInt).symm

theorem max_signed (a b : Dword) : (if a.slt b then b else a) = BitVec.ofInt 64 (max a.toInt b.toInt) := by
  rw [max_eq_if]
  simp only [BitVec.slt_eq_decide, decide_eq_true_eq]
  exact ite_eq_ofInt (BitVec.ofInt_toInt).symm (BitVec.ofInt_toInt).symm

theorem min_unsigned (a b : Dword) : (if a.ult b then a else b) = BitVec.ofInt 64 (min (a.toNat : Int) b.toNat) := by
  rw [min_eq_if]
  simp only [BitVec.ult_eq_decide, decide_eq_true_eq, Nat.cast_lt]
  exact ite_eq_ofInt (ofInt_toNat a).symm (ofInt_toNat b).symm

theorem max_unsigned (a b : Dword) : (if a.ult b then b else a) = BitVec.ofInt 64 (max (a.toNat : Int) b.toNat) := by
  rw [max_eq_if]
  simp only [BitVec.ult_eq_decide, decide_eq_true_eq, Nat.cast_lt]
  exact ite_eq_ofInt (ofInt_toNat b).symm (ofInt_toNat a).symm

theorem csel_eq_ofInt (c a b : Dword) :
    (if c ≠ 0 then a else b) = BitVec.ofInt 64 (if (c.toNat : Int) ≠ 0 then (a.toNat : Int) else b.toNat) := by
  have hzero : c ≠ 0 ↔ (c.toNat : Int) ≠ 0 := (BitVec.toNat_eq.trans Int.natCast_eq_zero.symm).not
  simp only [hzero]
  exact ite_eq_ofInt (ofInt_toNat a).symm (ofInt_toNat b).symm

/-- A field of a loop level, 0 where the level holds no entry. -/
theorem level_eq_ofInt (o : Option LoopEntry) (f : LoopEntry → BitVec 32) :
    (o.map fun e => (f e).setWidth 64).getD 0 = BitVec.ofInt 64 (match o with
      | some e => ((f e).toNat : Int)
      | none => 0) := by
  cases o with
  | none => rfl
  | some e =>
    change (f e).setWidth 64 = BitVec.ofInt 64 (f e).toNat
    rw [BitVec.ofInt_natCast, BitVec.ofNat_toNat]

theorem ofNat_div_eq_ofInt (m n : Nat) : BitVec.ofNat 64 (m / n) = BitVec.ofInt 64 ((m : Int) / n) := by
  rw [← BitVec.ofInt_natCast]
  norm_cast

/-! ## Immediates -/

theorem toInt_imm (c : BitVec 13) : (c.signExtend 64).toInt = c.toInt := BitVec.toInt_signExtend_of_le (by decide)

theorem toNat_imm (c : BitVec 13) : ((c.signExtend 64).toNat : Int) = c.toInt % 2 ^ 64 := by
  rw [BitVec.signExtend, BitVec.toNat_ofInt, Int.toNat_of_nonneg (Int.emod_nonneg _ (by decide))]
  norm_cast

/-- A word shifted, with the k bits that are free then filled. -/
theorem shiftLeft_or {k : Nat} (a : Dword) (c : BitVec k) :
    a <<< k ||| c.setWidth 64 = BitVec.ofInt 64 ((a.toNat : Int) * 2 ^ k + c.toNat) := by
  have hdisjoint : a <<< k &&& c.setWidth 64 = 0#64 := by
    refine BitVec.eq_of_getLsbD_eq fun i _ => ?_
    by_cases h : i < k <;> simp [h, Nat.not_lt.1]
  have hc : c.setWidth 64 = BitVec.ofInt 64 (c.toNat : Int) := by
    rw [BitVec.ofInt_natCast]
    exact BitVec.eq_of_toNat_eq (by rw [BitVec.toNat_setWidth, BitVec.toNat_ofNat])
  rw [← BitVec.add_eq_or_of_and_eq_zero _ _ hdisjoint, BitVec.ofInt_add, ← shiftLeft_ofInt, ofInt_toNat, hc]

/-! ## Bits -/

theorem clzOf_eq (a : Dword) : clzOf a = Claims.leadingZeros a := by
  have hzero : a = 0 ↔ a.toNat = 0 := BitVec.toNat_eq
  rw [clzOf, Claims.leadingZeros]
  simp only [hzero]
  exact leadingZeros_eq a.isLt

theorem ctzOf_eq (a : Dword) : ctzOf a = Claims.trailingZeros a := by
  rw [ctzOf, Claims.trailingZeros]
  cases h : (List.range 64).find? fun i => a.getLsbD i with
  | none =>
    rw [List.find?_range_eq_none] at h
    exact (length_takeWhile_range le_rfl h fun h => (lt_irrefl 64 h).elim).symm
  | some k =>
    rw [List.find?_range_eq_some] at h
    obtain ⟨hk, hlt, hbefore⟩ := h
    exact (length_takeWhile_range (List.mem_range.1 hlt).le hbefore fun _ => by simp [hk]).symm

theorem popcOf_eq (a : Dword) : popcOf a = Claims.oneBits a := by
  rw [popcOf, Claims.oneBits]
  induction List.range 64 with
  | nil => rfl
  | cons i l ih => cases h : a.getLsbD i <;> simp [h, ih, Nat.add_comm]

theorem sum_range_bits (f : Nat → Bool) (n : Nat) :
    ((List.range n).map fun j => if f j then (2 : Int) ^ j else 0).sum = bitsOf f n := by
  induction n with
  | zero => rfl
  | succ n ih => simp [List.range_succ, ih, bitsOf]

theorem reverse_eq_ofInt (a : Dword) :
    a.reverse = BitVec.ofInt 64 (((List.range 64).map fun j => if a.getLsbD (63 - j) then (2 : Int) ^ j else 0).sum) := by
  rw [sum_range_bits fun j => a.getLsbD (63 - j), BitVec.ofInt_natCast]
  refine BitVec.eq_of_getLsbD_eq fun i hi => ?_
  rw [BitVec.getLsbD_ofNat, testBit_bitsOf, BitVec.getLsbD_reverse, BitVec.getMsbD]
  simp [hi]

end Sys2Proof.Machine
end

section
/-! PROOFS. The words of register arithmetic, constants, level reads and division (04 R99 to R102, R110), one by one. -/

namespace Sys2Proof.Machine

/-- The meaning of a word that is ready, from its body in the frame of R79. -/
theorem exec_ready {i : Instr} {s : State} {f : State → Flow} (hexec : ∀ t, exec i t = .next (runWord i f t)) (h : s.Ready i) :
    exec i s = .next (State.finish (f s.due)) := by
  rw [hexec, runWord_ready h]

/-- A word gives a value: it only retires, and the number of its table, modulo 2^64, is a result of the latency of its table. -/
def GivesValue (i : Instr) (s : State) (r : Reg × Int × Nat) : Prop :=
  ∃ f : State → Dword, (∀ t, exec i t = valueWord i r.1 r.2.2 f t) ∧ f s = BitVec.ofInt 64 r.2.1

theorem GivesValue.of_some {i : Instr} {s : State} {r r' : Reg × Int × Nat} {f : State → Dword} (h : some r = some r')
    (hexec : ∀ t, exec i t = valueWord i r.1 r.2.2 f t) (hv : f s = BitVec.ofInt 64 r.2.1) : GivesValue i s r' := by
  obtain rfl := Option.some.inj h
  exact ⟨f, hexec, hv⟩

/-- Every word of the tables gives its value. -/
theorem givesValue_of_scalarValue {i : Instr} {s : State} {r : Reg × Int × Nat} (h : Claims.scalarValue i s = some r) :
    GivesValue i s r := by
  cases i
  case add d a b => exact .of_some h (fun _ => rfl) (by rw [BitVec.ofInt_add, ofInt_toNat, ofInt_toNat])
  case sub d a b => exact .of_some h (fun _ => rfl) (sub_eq_ofInt _ _)
  case and d a b => exact .of_some h (fun _ => rfl) (by rw [← BitVec.toNat_and, ofInt_toNat])
  case or d a b => exact .of_some h (fun _ => rfl) (by rw [← BitVec.toNat_or, ofInt_toNat])
  case xor d a b => exact .of_some h (fun _ => rfl) (by rw [← BitVec.toNat_xor, ofInt_toNat])
  case andn d a b => exact .of_some h (fun _ => rfl) (by rw [← BitVec.toNat_not, ← BitVec.toNat_and, ofInt_toNat])
  case sll d a b => exact .of_some h (fun _ => rfl) (by rw [← shiftLeft_ofInt, ofInt_toNat])
  case srl d a b => exact .of_some h (fun _ => rfl) (shiftRight_eq_ofInt _ _)
  case sra d a b => exact .of_some h (fun _ => rfl) (sshiftRight_eq_ofInt _ _)
  case slt d a b => exact .of_some h (fun _ => rfl) (ofBool_slt _ _)
  case sltu d a b => exact .of_some h (fun _ => rfl) (ofBool_ult _ _)
  case min d a b => exact .of_some h (fun _ => rfl) (min_signed _ _)
  case max d a b => exact .of_some h (fun _ => rfl) (max_signed _ _)
  case minu d a b => exact .of_some h (fun _ => rfl) (min_unsigned _ _)
  case maxu d a b => exact .of_some h (fun _ => rfl) (max_unsigned _ _)
  case csel d a b => exact .of_some h (fun _ => rfl) (csel_eq_ofInt _ _ _)
  case mul d a b => exact .of_some h (fun _ => rfl) (by rw [BitVec.ofInt_mul, ofInt_toNat, ofInt_toNat])
  case mulh d a b => exact .of_some h (fun _ => rfl) rfl
  case mulhu d a b => exact .of_some h (fun _ => rfl) (by rw [ofNat_div_eq_ofInt]; norm_cast)
  case clz d a => exact .of_some h (fun _ => rfl) (by rw [BitVec.ofInt_natCast, clzOf_eq])
  case ctz d a => exact .of_some h (fun _ => rfl) (by rw [BitVec.ofInt_natCast, ctzOf_eq])
  case popc d a => exact .of_some h (fun _ => rfl) (by rw [BitVec.ofInt_natCast, popcOf_eq])
  case brev d a => exact .of_some h (fun _ => rfl) (reverse_eq_ofInt _)
  case addi d a c => exact .of_some h (fun _ => rfl) (by rw [BitVec.ofInt_add, ofInt_toNat]; rfl)
  case andi d a c => exact .of_some h (fun _ => rfl) (by rw [← BitVec.toNat_and, ofInt_toNat])
  case ori d a c => exact .of_some h (fun _ => rfl) (by rw [← BitVec.toNat_or, ofInt_toNat])
  case xori d a c => exact .of_some h (fun _ => rfl) (by rw [← BitVec.toNat_xor, ofInt_toNat])
  case slti d a c => exact .of_some h (fun _ => rfl) (by rw [ofBool_slt, toInt_imm])
  case sltiu d a c => exact .of_some h (fun _ => rfl) (by rw [ofBool_ult, toNat_imm])
  case slli d a k => exact .of_some h (fun _ => rfl) (by rw [← shiftLeft_ofInt, ofInt_toNat])
  case srli d a k => exact .of_some h (fun _ => rfl) (shiftRight_eq_ofInt _ _)
  case srai d a k => exact .of_some h (fun _ => rfl) (sshiftRight_eq_ofInt _ _)
  case lih d c => exact .of_some h (fun _ => rfl) (shiftLeft_ofInt c.toInt 13)
  case lish d c => exact .of_some h (fun _ => rfl) (shiftLeft_or _ _)
  case lidx d l => exact .of_some h (fun _ => rfl) (level_eq_ofInt _ LoopEntry.index)
  case lcnt d l => exact .of_some h (fun _ => rfl) (level_eq_ofInt _ LoopEntry.count)
  all_goals exact (Option.some_ne_none r h.symm).elim

theorem GivesValue.completes {i : Instr} {s : State} {d : Reg} {v : Int} {lat : Nat} (h : GivesValue i s.due (d, v, lat))
    (hready : s.Ready i) :
    exec i s = .next (s.due.result d (BitVec.ofInt 64 v) lat).retired := by
  obtain ⟨f, hexec, hv⟩ := h
  rw [exec_ready hexec hready, hv]
  rfl

/-! ## Divisions -/

theorem divideTime_signed (a b : Dword) : divideTime true a b =
    if b.toInt = 0 ∨ (a.toInt = -2 ^ 63 ∧ b.toInt = -1) then 4 else 4 + (Claims.significant a.toInt.natAbs + 1) / 2 := by
  have h0 : b = 0 ↔ b.toInt = 0 := BitVec.toInt_inj.symm
  have hmin : a = BitVec.intMin 64 ↔ a.toInt = -2 ^ 63 := BitVec.toInt_inj.symm
  have hmax : b = BitVec.allOnes 64 ↔ b.toInt = -1 := BitVec.toInt_inj.symm
  simp only [divideTime, h0, hmin, hmax, true_and]
  rfl

theorem divideTime_unsigned (a b : Dword) : divideTime false a b =
    if (b.toNat : Int) = 0 then 4 else 4 + (Claims.significant a.toNat + 1) / 2 := by
  have h0 : b = 0 ↔ (b.toNat : Int) = 0 := BitVec.toNat_eq.trans Int.natCast_eq_zero.symm
  simp only [divideTime, h0, Bool.false_eq_true, false_and, or_false]
  rfl

/-- A word divides: its meaning is a division that gives the result of its table after the time of its table. -/
def Divides (i : Instr) (s : State) (r : Reg × Int × Nat) : Prop :=
  ∃ (signed rem : Bool) (a b : Reg), (∀ t, exec i t = divideWord i signed rem r.1 a b t) ∧
    (let q := divide signed 64 (if signed then (s.rx a).toInt else (s.rx a).toNat) (if signed then (s.rx b).toInt else (s.rx b).toNat)
     if rem then q.2 else q.1) = r.2.1 ∧
    divideTime signed (s.rx a) (s.rx b) = r.2.2

theorem divides_of_division {i : Instr} {s : State} {r : Reg × Int × Nat} (h : Claims.division i s = some r) : Divides i s r := by
  cases i
  case div d a b =>
    obtain rfl := Option.some.inj h
    exact ⟨true, false, a, b, fun _ => rfl, quot_eq_divide true 64 _ _, divideTime_signed _ _⟩
  case divu d a b =>
    obtain rfl := Option.some.inj h
    exact ⟨false, false, a, b, fun _ => rfl, quot_eq_divide false 64 _ _, divideTime_unsigned _ _⟩
  case rem d a b =>
    obtain rfl := Option.some.inj h
    exact ⟨true, true, a, b, fun _ => rfl, remainder_eq_divide true 64 _ _, divideTime_signed _ _⟩
  case remu d a b =>
    obtain rfl := Option.some.inj h
    exact ⟨false, true, a, b, fun _ => rfl, remainder_eq_divide false 64 _ _, divideTime_unsigned _ _⟩
  all_goals exact (Option.some_ne_none r h.symm).elim

theorem Divides.completes {i : Instr} {s : State} {d : Reg} {v : Int} {time : Nat} (h : Divides i s.due (d, v, time)) (hready : s.Ready i) :
    exec i s = .next (s.due.resultAt d (BitVec.ofInt 64 v) (s.now + time) .div).retired := by
  obtain ⟨signed, rem, a, b, hexec, hv, htime⟩ := h
  dsimp only at hv htime
  rw [exec_ready hexec hready, ← s.due_now, ← hv, ← htime]
  cases signed <;> rfl

end Sys2Proof.Machine

namespace Sys2Proof.Proofs

open Sys2Proof.Machine

theorem scalarWordsGiveTheirValue : Parts.ScalarWordsGiveTheirValue := fun _ _ _ _ _ h hready =>
  (givesValue_of_scalarValue h).completes hready

theorem divisionsGiveTheirResult : Parts.DivisionsGiveTheirResult := fun _ _ _ _ _ h hready =>
  (divides_of_division h).completes hready

/-- Settles O1: the body of each word computes the number of its table, modulo 2^64 (`givesValue_of_scalarValue`, `divides_of_division`). -/
theorem arithmeticWordsGiveTheirValue : Obligations.ArithmeticWordsGiveTheirValue :=
  ⟨scalarWordsGiveTheirValue, divisionsGiveTheirResult⟩

end Sys2Proof.Proofs
end

section
/-! PROOFS. Branches and jumps (04 R103 to R105), and the words of the loop stack (01 R19, 04 R106 to R110). -/

namespace Sys2Proof.Machine

/-! ## Targets -/

/-- A distance in words, as the model shifts it. -/
theorem wordOffset_eq {n : Nat} (c : BitVec n) : c.signExtend 64 <<< 2 = BitVec.ofInt 64 (4 * c.toInt) := by
  rw [BitVec.signExtend, shiftLeft_ofInt, Int.mul_comm]
  rfl

/-- An address and a signed distance to it. -/
theorem add_ofInt (a : Dword) (z : Int) : a + BitVec.ofInt 64 z = BitVec.ofInt 64 (a.toNat + z) := by
  rw [BitVec.ofInt_add, ofInt_toNat]

theorem pcOffset_eq {n : Nat} (pc : Dword) (c : BitVec n) :
    pc + c.signExtend 64 <<< 2 = BitVec.ofInt 64 (pc.toNat + 4 * c.toInt) := by
  rw [wordOffset_eq, add_ofInt]

theorem goTo_jumps {s : State} {target : Dword} {f : State → State} (ha : target.toNat % 4 = 0) (hb : target.toNat < 2 ^ 52) :
    goTo s target f = .jump (f s).refetch target := by
  simp only [goTo, targetMiss, if_neg (not_not_intro ha), if_neg (Nat.not_le.2 hb)]

theorem goTo_misaligned {s : State} {target : Dword} {f : State → State} (ha : target.toNat % 4 ≠ 0) :
    goTo s target f = .trap s causeAlign target := by
  simp only [goTo, targetMiss, if_pos ha]

theorem goTo_outside {s : State} {target : Dword} {f : State → State} (ha : target.toNat % 4 = 0) (hb : 2 ^ 52 ≤ target.toNat) :
    goTo s target f = .trap s causeBounds target := by
  simp only [goTo, targetMiss, if_neg (not_not_intro ha), if_pos hb]

/-! ## Branches and jumps -/

/-- A word that may transfer control: whether it does, to which target, and what its link does. -/
def Transfers (i : Instr) (s : State) (r : Bool × Int × Option Reg) : Prop :=
  ∃ f : State → Flow, (∀ t, exec i t = .next (runWord i f t)) ∧
    f s = if r.1 then
        goTo s (BitVec.ofInt 64 r.2.1) fun t => match r.2.2 with
          | some d => t.result d (t.sc.pc + 4) 1
          | none => t
      else .retire s

/-- A branch transfers control to its target where its condition holds. -/
theorem Transfers.of_branch {i : Instr} {s : State} {r : Bool × Int × Option Reg} {o : BitVec 13} {cond : State → Bool} {p : Prop}
    [Decidable p] (h : some (decide p, (s.sc.pc.toNat : Int) + 4 * o.toInt, (none : Option Reg)) = some r)
    (hexec : ∀ t, exec i t = branchWord i o cond t) (hc : cond s = true ↔ p) : Transfers i s r := by
  obtain rfl := Option.some.inj h
  refine ⟨_, hexec, ?_⟩
  rw [pcOffset_eq, Bool.eq_iff_iff.2 (hc.trans decide_eq_true_iff.symm)]
  rfl

theorem transfers_of_transferOf {i : Instr} {s : State} {r : Bool × Int × Option Reg} (h : Claims.transferOf i s = some r) :
    Transfers i s r := by
  have heq : ∀ a b : Reg, s.rx a = s.rx b ↔ ((s.rx a).toNat : Int) = (s.rx b).toNat := fun a b =>
    BitVec.toNat_eq.trans Int.natCast_inj.symm
  cases i
  case beq a b o => exact .of_branch h (fun _ => rfl) (by rw [beq_iff_eq, heq])
  case bne a b o => exact .of_branch h (fun _ => rfl) (by rw [bne_iff_ne, ne_eq, heq])
  case blt a b o => exact .of_branch h (fun _ => rfl) BitVec.slt_iff_toInt_lt
  case bge a b o => exact .of_branch h (fun _ => rfl) (by rw [BitVec.slt_eq_decide, Bool.not_eq_true', decide_eq_false_iff_not, not_lt])
  case bltu a b o => exact .of_branch h (fun _ => rfl) (by rw [BitVec.ult_eq_decide, decide_eq_true_iff, Nat.cast_lt])
  case bgeu a b o => exact .of_branch h (fun _ => rfl) (by
    rw [BitVec.ult_eq_decide, Bool.not_eq_true', decide_eq_false_iff_not, not_lt, Nat.cast_le])
  case jal d o =>
    obtain rfl := Option.some.inj h
    refine ⟨_, fun _ => rfl, ?_⟩
    rw [pcOffset_eq]
    rfl
  case jalr d a o =>
    obtain rfl := Option.some.inj h
    refine ⟨_, fun _ => rfl, ?_⟩
    rw [BitVec.signExtend, add_ofInt]
    rfl
  all_goals exact (Option.some_ne_none r h.symm).elim

end Sys2Proof.Machine

namespace Sys2Proof.Proofs

open Sys2Proof.Machine

/-- Settles O2: each word goes to the target of its table where its condition holds (`transfers_of_transferOf`), and that target
is checked before anything changes (`goTo`). -/
theorem branchesAndJumpsGoToTheirTarget : Obligations.BranchesAndJumpsGoToTheirTarget := by
  intro i s taken goal link h hready target linked
  obtain ⟨f, hexec, hf⟩ := transfers_of_transferOf h
  dsimp only at hf
  rw [exec_ready hexec hready, hf]
  refine ⟨fun ht => ?_, fun ht ha hb => ?_, fun ht ha => ?_, fun ht ha hb => ?_⟩
  · rw [ht]
    rfl
  · rw [if_pos ht, goTo_jumps ha hb]
    rfl
  · rw [if_pos ht, goTo_misaligned ha]
    rfl
  · rw [if_pos ht, goTo_outside ha hb]
    rfl

end Sys2Proof.Proofs
end

section
/-! PROOFS. The words of the loop stack (01 R19, 04 R106 to R110). -/

namespace Sys2Proof.Machine

/-! ## The loop-end step -/

theorem loopEnd_counts {e : LoopEntry} (h : e.index.toNat + 1 < e.count.toNat) (es : List LoopEntry) :
    loopEnd (e :: es) e.last = ({ e with index := e.index + 1 } :: es, e.start) := by
  rw [loopEnd, if_pos rfl, if_pos h]

theorem loopEnd_pops {e : LoopEntry} (h : e.count.toNat ≤ e.index.toNat + 1) (es : List LoopEntry) :
    loopEnd (e :: es) e.last = loopEnd es e.last := by
  rw [loopEnd, if_pos rfl, if_neg (Nat.not_lt.2 h)]

/-! ## LOOP and LOOPI -/

/-- The end address of a loop body. -/
theorem loopLast_eq (pc : Dword) (o : BitVec 13) : pc + o.setWidth 64 <<< 2 = pc + 4 * BitVec.ofNat 64 o.toNat := by
  rw [BitVec.ofNat_toNat, BitVec.shiftLeft_eq_mul_twoPow, BitVec.mul_comm]
  rfl

/-- The entry that LOOP pushes. -/
def State.pushLoop (s : State) (n : Nat) (last : Dword) : State :=
  s.modSc fun sc => { sc with loops := { index := 0, count := BitVec.ofNat 32 n, start := sc.pc + 4, last := last } :: sc.loops }

theorem loopFlow_eq (s : State) (n : Dword) (o : BitVec 13) :
    loopFlow s n o =
      if s.sc.loops.head?.map LoopEntry.last = some s.sc.pc then .trap s 0x0F 3
      else if 2 ^ 32 ≤ n.toNat then .trap s 0x0F 4
      else if n.toNat = 0 then .jump s (s.sc.pc + 4 * BitVec.ofNat 64 o.toNat + 4)
      else if 6 ≤ s.sc.loops.length then .trap s 0x0F 1
      else .retire (s.pushLoop n.toNat (s.sc.pc + 4 * BitVec.ofNat 64 o.toNat)) := by
  have hzero : n = 0 ↔ n.toNat = 0 := BitVec.toNat_eq
  have hcount : n.setWidth 32 = BitVec.ofNat 32 n.toNat := rfl
  simp only [loopFlow, loopLast_eq, hzero, hcount]
  rfl

/-- A loop word begins a loop of the count and the end offset of its table. -/
theorem loops_of_loopOf {i : Instr} {s : State} {r : Nat × Nat} (h : Claims.loopOf i s = some r) :
    ∃ (f : State → Flow) (n : Dword) (o : BitVec 13), (∀ t, exec i t = .next (runWord i f t)) ∧ f s = loopFlow s n o ∧
      n.toNat = r.1 ∧ o.toNat = r.2 := by
  cases i
  case loop a o =>
    obtain rfl := Option.some.inj h
    exact ⟨_, _, o, fun _ => rfl, rfl, rfl, rfl⟩
  case loopi c o =>
    obtain rfl := Option.some.inj h
    exact ⟨_, c.setWidth 64, o, fun _ => rfl, rfl, BitVec.toNat_setWidth_of_le (by decide), rfl⟩
  all_goals exact (Option.some_ne_none r h.symm).elim

/-! ## LBRK and LSKIP -/

theorem exec_lbrk_empty {s : State} (h : s.Ready .lbrk) (hl : s.due.sc.loops = []) : exec .lbrk s = .next (s.due.trapped 0x0F 2) := by
  refine (exec_ready (fun _ => rfl) h).trans ?_
  simp only [hl]
  rfl

theorem exec_lbrk {s : State} {e : LoopEntry} {es : List LoopEntry} (h : s.Ready .lbrk) (hl : s.due.sc.loops = e :: es) :
    exec .lbrk s = .next ((s.due.modSc fun sc => { sc with loops := (loopEnd es e.last).1 }).jumped (loopEnd es e.last).2) := by
  refine (exec_ready (fun _ => rfl) h).trans ?_
  simp only [hl]
  rfl

theorem exec_lskip_empty {s : State} (h : s.Ready .lskip) (hl : s.due.sc.loops = []) : exec .lskip s = .next (s.due.trapped 0x0F 2) := by
  refine (exec_ready (fun _ => rfl) h).trans ?_
  simp only [hl]
  rfl

theorem exec_lskip {s : State} {e : LoopEntry} {es : List LoopEntry} (h : s.Ready .lskip) (hl : s.due.sc.loops = e :: es) :
    exec .lskip s = .next ((s.due.modSc fun sc => { sc with loops := (loopEnd (e :: es) e.last).1 }).jumped
      (loopEnd (e :: es) e.last).2) := by
  refine (exec_ready (fun _ => rfl) h).trans ?_
  simp only [hl]
  rfl

end Sys2Proof.Machine

namespace Sys2Proof.Proofs

open Sys2Proof.Machine

theorem loopsPushTheirEntry : Parts.LoopsPushTheirEntry := by
  intro i s n o h hready sc last atEnd
  obtain ⟨f, c, k, hexec, hf, rfl, rfl⟩ := loops_of_loopOf h
  rw [exec_ready hexec hready, hf, loopFlow_eq]
  refine ⟨fun he => ?_, fun he hn => ?_, fun he hn => ?_, fun he h0 hn hd => ?_, fun he h0 hn hd => ?_⟩
  · rw [if_pos he]
    rfl
  · rw [if_neg he, if_pos hn]
    rfl
  · rw [if_neg he, if_neg (by omega), if_pos hn]
    rfl
  · rw [if_neg he, if_neg (by omega), if_neg (by omega), if_pos hd]
    rfl
  · rw [if_neg he, if_neg (by omega), if_neg (by omega), if_neg (Nat.not_le.2 hd)]
    rfl

theorem lbrkAndLskipStepTheLoops : Parts.LbrkAndLskipStepTheLoops := by
  intro s
  refine ⟨exec_lbrk_empty, exec_lskip_empty, fun e es => exec_lbrk, fun e es hr h => ⟨fun hc => ?_, fun hc => ?_⟩⟩
  · rw [exec_lskip hr h, loopEnd_counts hc]
  · rw [exec_lskip hr h, loopEnd_pops hc]

theorem loopEndStepCountsOrPops : Parts.LoopEndStepCountsOrPops := by
  intro es last
  refine ⟨fun h => loopEnd_of_head fun he => ?_, ?_, ?_⟩
  · obtain ⟨e, hhead, hlast⟩ := Option.map_eq_some_iff.1 he
    exact h e hhead hlast
  · rintro e rest rfl rfl h
    exact loopEnd_counts h rest
  · rintro e rest rfl rfl h
    exact loopEnd_pops h rest

/-- Settles O3: LOOP and LOOPI share one body (`loopFlow_eq`); what the other loop words do is the loop-end step (`loopEnd_counts`,
`loopEnd_pops`). -/
theorem loopsKeepTheirStack : Obligations.LoopsKeepTheirStack :=
  ⟨loopsPushTheirEntry, lbrkAndLskipStepTheLoops, loopEndStepCountsOrPops⟩

end Sys2Proof.Proofs
end

section
/-! PROOFS. The CSR words (04 R112, R113) and the control registers of a hart (01 R21 to R26). -/

namespace Sys2Proof.Machine

/-! ## Values that a register accepts (01 R22, 21 R433) -/

theorem csrAccepts_hart (n : Nat) (v : Dword) : csrAccepts true n v = true ↔ n ≠ 0x008 ∨ v.toNat ≤ 4 := by
  simp [csrAccepts]

/-- A count code of clctl, as a number. -/
theorem countCode_eq_three (v : Dword) (k : Nat) : v.extractLsb' (8 * k) 2 = 3 ↔ v.toNat / 2 ^ (8 * k) % 4 = 3 := by
  rw [BitVec.toNat_eq, BitVec.extractLsb'_toNat, Nat.shiftRight_eq_div_pow]
  rfl

theorem csrAccepts_steward (n : Nat) (v : Dword) :
    csrAccepts false n v = true ↔ ¬ (n = 0x10B ∧ ∃ j, j < 8 ∧ v.toNat / 2 ^ (8 * j) % 4 = 3) := by
  simp only [csrAccepts, ← countCode_eq_three]
  simp [imp_iff_not_or]

/-! ## The words -/

/-- A CSR word runs the one body of those words, with what it writes. -/
theorem csrFlow_of_csrOp {i : Instr} {s : State} {old : Dword} {d : Reg} {c : BitVec 11} {new : Option Dword}
    (h : Claims.csrOp i s old = some (d, c, new)) :
    ∃ g : State → Dword → Option Dword, (∀ t, exec i t = .next (runWord i (csrFlow d c g) t)) ∧ g s old = new := by
  cases i
  case csrr d c =>
    cases h
    exact ⟨_, fun _ => rfl, rfl⟩
  case csrw d a c =>
    cases h
    exact ⟨_, fun _ => rfl, rfl⟩
  case csrs d a c =>
    cases h
    exact ⟨_, fun _ => rfl, rfl⟩
  case csrc d a c =>
    cases h
    exact ⟨_, fun _ => rfl, rfl⟩
  all_goals exact (Option.some_ne_none _ h.symm).elim

/-! ## Writes of a hart's control registers -/

/-- The control registers after a write: one of them takes the value, as far as it is writable. -/
def Csrs.written (c : Csrs) (n : Nat) (v : Dword) : Csrs :=
  { c with
    rowbase := if n = 0x005 then v.setWidth 14 else c.rowbase
    rmode := if n = 0x008 then v.setWidth 3 else c.rmode
    fflags := if n = 0x009 then v.setWidth 7 else c.fflags
    kmask := if n = 0x00C then v else c.kmask
    mk0 := if n = 0x00D then v else c.mk0
    mk1 := if n = 0x00E then v else c.mk1
    tvec := if n = 0x018 then v &&& ~~~3 else c.tvec
    tepc := if n = 0x019 then v else c.tepc
    tcause := if n = 0x01A then v else c.tcause
    tval := if n = 0x01B then v else c.tval
    pfxl := if n = 0x01D then v.setWidth 11 else c.pfxl
    tscr := if n = 0x01E then v else c.tscr
    inh := if n = 0x01F then v.getLsbD 0 else c.inh
    ntimeo := if n = 0x020 then v else c.ntimeo
    schk := if n = 0x030 then v.getLsbD 0 else c.schk
    migwait := if n = 0x031 then v else c.migwait }

theorem Hart.csrWrite_eq (t : Hart) (n : Nat) (v : Dword) :
    t.csrWrite n v = { t with csr := t.csr.written n v,
                              sc := { t.sc with preds := if n = 0x00A then v.setWidth 8 ||| 1 else t.sc.preds } } := by
  unfold Hart.csrWrite
  split
  case h_18 =>
    unfold Csrs.written
    repeat rw [if_neg]
    all_goals assumption
  all_goals rfl

/-- Another register reads as before, but for vlmax after a write of rowbase (01 R21). -/
theorem State.csrRead_csrWrite_other {s : State} {h : HartKey} {n m : Nat} (v : Dword) (hm : m ≠ n) (hv : ¬ (n = 0x005 ∧ m = 0x006)) :
    (s.modHart h fun t => t.csrWrite n v).csrRead h m = s.csrRead h m := by
  simp only [State.csrRead, State.hart_modHart_same, Hart.csrWrite_eq, Csrs.written]
  split
  case h_7 =>
    have hn : n ≠ 0x005 := fun hn => hv ⟨hn, rfl⟩
    simp [hn]
  all_goals simp [hm.symm, State.ctxState]

/-- The registers of 64 bits that a hart writes whole. -/
def wholeCsrs : List Nat := [0x00C, 0x00D, 0x00E, 0x019, 0x01A, 0x01B, 0x01E, 0x020, 0x031]
/-- The registers of which a hart writes some bits. -/
def partCsrs : List Nat := [0x005, 0x008, 0x009, 0x00A, 0x018, 0x01D, 0x01F, 0x030]

/-- Any other register is read-only. -/
theorem csrWrite_readOnly {n : Nat} (hw : n ∉ wholeCsrs) (hp : n ∉ partCsrs) :
    Claims.writableBits n = 0 ∧ ∀ (t : Hart) (v : Dword), t.csrWrite n v = t := by
  simp only [wholeCsrs, partCsrs, List.mem_cons, List.not_mem_nil, or_false, not_or] at hw hp
  constructor
  · unfold Claims.writableBits
    split <;> simp_all
  · intro t v
    simp only [Hart.csrWrite_eq, Csrs.written, hw, hp, if_false]

/-! ## Bits kept and bits written -/

theorem masked_none (old v : Dword) : (old &&& ~~~0) ||| (v &&& 0) = old := by
  change (old &&& ~~~0#64) ||| (v &&& 0#64) = old
  rw [BitVec.not_zero, BitVec.and_allOnes, BitVec.and_zero, BitVec.or_zero]

theorem masked_all (old v : Dword) : (old &&& ~~~BitVec.allOnes 64) ||| (v &&& BitVec.allOnes 64) = v := by
  rw [BitVec.not_allOnes, BitVec.and_zero, BitVec.and_allOnes, BitVec.zero_or]

/-- The bits of a register of w bits, which reads zeros above them. -/
theorem masked_setWidth {w : Nat} (x m : BitVec w) (v : Dword) :
    (x.setWidth 64 &&& ~~~m.setWidth 64) ||| (v &&& m.setWidth 64) = ((x &&& ~~~m) ||| (v.setWidth w &&& m)).setWidth 64 := by
  refine BitVec.eq_of_getLsbD_eq fun i hi => ?_
  by_cases h : i < w <;> simp [h, hi, Nat.not_lt.1]

theorem masked_low {w : Nat} (x : BitVec w) (v : Dword) :
    (x.setWidth 64 &&& ~~~(BitVec.allOnes w).setWidth 64) ||| (v &&& (BitVec.allOnes w).setWidth 64) = (v.setWidth w).setWidth 64 := by
  rw [masked_setWidth, BitVec.not_allOnes, BitVec.and_zero, BitVec.and_allOnes, BitVec.zero_or]

theorem ofBool_eq_setWidth (b : Bool) : ofBool b = (BitVec.ofBool b).setWidth 64 := by
  cases b <;> rfl

theorem masked_bit (b : Bool) (v : Dword) : (ofBool b &&& ~~~1) ||| (v &&& 1) = ofBool (v.getLsbD 0) := by
  have hv : BitVec.ofBool (v.getLsbD 0) = v.setWidth 1 := by
    refine BitVec.eq_of_getLsbD_eq fun i hi => ?_
    simp [show i = 0 by omega]
  rw [ofBool_eq_setWidth, ofBool_eq_setWidth, hv]
  exact masked_low (BitVec.ofBool b) v

/-- The predicates, of which bit 0 is hard-wired (01 R17). -/
theorem masked_preds (p : Byte) (v : Dword) :
    ((p ||| 1).setWidth 64 &&& ~~~0xFE) ||| (v &&& 0xFE) = ((v.setWidth 8 ||| 1) ||| 1).setWidth 64 := by
  have hlow : ((p ||| 1) &&& ~~~0xFE) ||| (v.setWidth 8 &&& 0xFE) = (v.setWidth 8 ||| 1) ||| 1 := by
    refine BitVec.eq_of_getLsbD_eq fun i hi => ?_
    interval_cases i <;> simp
  rw [← hlow]
  exact masked_setWidth (p ||| 1) 0xFE v

/-- The vector, whose reserved bits read zero (01 R21). -/
theorem masked_tvec {old : Dword} (h : old &&& 3 = 0) (v : Dword) : (old &&& ~~~(~~~3)) ||| (v &&& ~~~3) = v &&& ~~~3 := by
  rw [BitVec.not_not, h]
  exact BitVec.zero_or

/-! ## What a write leaves to read -/

/-- A register that is written reads the bits written, and as before where it is not writable (01 R21, R24, R26). -/
theorem State.csrRead_csrWrite_same {s : State} {h : HartKey} {n : Nat} (v : Dword) {old : Dword} (hr : s.csrRead h n = some old)
    (htvec : n = 0x018 → old &&& 3 = 0) :
    (s.modHart h fun t => t.csrWrite n v).csrRead h n =
      some ((old &&& ~~~Claims.writableBits n) ||| (v &&& Claims.writableBits n)) := by
  by_cases hw : n ∈ wholeCsrs
  · simp only [wholeCsrs, List.mem_cons, List.not_mem_nil, or_false] at hw
    rcases hw with rfl | rfl | rfl | rfl | rfl | rfl | rfl | rfl | rfl <;>
      simp only [State.csrRead, State.hart_modHart_same] <;> exact congrArg some (masked_all old v).symm
  by_cases hp : n ∈ partCsrs
  · simp only [partCsrs, List.mem_cons, List.not_mem_nil, or_false] at hp
    rcases hp with rfl | rfl | rfl | rfl | rfl | rfl | rfl | rfl <;> simp only [State.csrRead, State.hart_modHart_same] <;>
      obtain rfl := Option.some.inj hr
    · exact congrArg some (masked_low (s.hart h).csr.rowbase v).symm
    · exact congrArg some (masked_low (s.hart h).csr.rmode v).symm
    · exact congrArg some (masked_low (s.hart h).csr.fflags v).symm
    · exact congrArg some (masked_preds (s.hart h).sc.preds v).symm
    · exact congrArg some (masked_tvec (htvec rfl) v).symm
    · exact congrArg some (masked_low (s.hart h).csr.pfxl v).symm
    · exact congrArg some (masked_bit (s.hart h).csr.inh v).symm
    · exact congrArg some (masked_bit (s.hart h).csr.schk v).symm
  · obtain ⟨hbits, hkeep⟩ := csrWrite_readOnly hw hp
    rw [hbits, masked_none, ← hr]
    simp only [hkeep, State.csrRead, State.hart_modHart_same]
    rfl

/-- A write of rowbase moves vlmax (01 R24). -/
theorem State.vlmax_csrWrite (s : State) (h : HartKey) (v : Dword) :
    (s.modHart h fun t => t.csrWrite 0x005 v).csrRead h 0x006 = some (16384 - v % 16384) := by
  simp only [State.csrRead, State.hart_modHart_same]
  have hv : (v % 16384).toNat = (v.setWidth 14).toNat := by
    rw [BitVec.toNat_umod, BitVec.toNat_setWidth]
    rfl
  have hle : v % 16384 ≤ 16384 := BitVec.le_def.2 (hv.trans_le (v.setWidth 14).isLt.le)
  refine congrArg some (BitVec.eq_of_toNat_eq ?_)
  rw [BitVec.toNat_sub_of_le hle, hv, BitVec.toNat_ofNat]
  exact Nat.mod_eq_of_lt (Nat.lt_of_le_of_lt (Nat.sub_le _ _) (by decide))

end Sys2Proof.Machine

namespace Sys2Proof.Proofs

open Sys2Proof.Machine

theorem csrWordsReadAndWrite : Parts.CsrWordsReadAndWrite := by
  intro i s d c old new h hready
  dsimp only
  obtain ⟨g, hexec, hg⟩ := csrFlow_of_csrOp h
  rw [exec_ready hexec hready, ← State.due_wordValue]
  refine ⟨fun k hc => ?_, fun k hc => ?_⟩ <;> replace hc := s.due_cur.trans hc
  · refine ⟨fun hn => ?_, fun hn hr => ?_, fun hn hr hnew => ?_, fun v hn hr hnew => ⟨fun h8 hv => ?_, fun hv => ?_⟩⟩ <;>
      simp only [csrFlow, hc]
    · rw [if_pos hn]
      rfl
    · simp only [if_neg (Nat.not_le.2 hn), hr]
      rfl
    · simp only [if_neg (Nat.not_le.2 hn), hr, hg, hnew]
      rfl
    · have hbad : csrAccepts true c.toNat v ≠ true := by
        rw [ne_eq, csrAccepts_hart]
        omega
      simp only [if_neg (Nat.not_le.2 hn), hr, hg, hnew, if_neg hbad]
      rfl
    · simp only [if_neg (Nat.not_le.2 hn), hr, hg, hnew, if_pos ((csrAccepts_hart _ v).2 hv)]
      rfl
  · refine ⟨fun hr => ?_, fun hr hnew => ?_, fun v hr hnew => ⟨fun hv => ?_, fun hv => ?_⟩⟩ <;> simp only [csrFlow, hc]
    · simp only [hr]
      rfl
    · simp only [hr, hg, hnew]
      rfl
    · have hbad : csrAccepts false c.toNat v ≠ true := fun ha => (csrAccepts_steward _ v).1 ha hv
      simp only [hr, hg, hnew, if_neg hbad]
      rfl
    · simp only [hr, hg, hnew, if_pos ((csrAccepts_steward _ v).2 hv)]
      rfl

theorem csrWritesReadBack : Parts.CsrWritesReadBack := by
  intro s h n m v old hr _ htvec t
  refine ⟨State.csrRead_csrWrite_same v hr htvec, State.csrRead_csrWrite_other v, fun hn => ?_, rfl, fun g hg =>
    State.hart_modHart_other _ _ hg⟩
  subst hn
  exact State.vlmax_csrWrite s h v

/-- Settles O28: every CSR word runs one body (`csrFlow_of_csrOp`), and a write replaces the writable bits of one register
(`Hart.csrWrite_eq`). -/
theorem csrWordsReadWriteAndReadBack : Obligations.CsrWordsReadWriteAndReadBack := ⟨csrWordsReadAndWrite, csrWritesReadBack⟩

end Sys2Proof.Proofs
end

section
/-! PROOFS. WFE, YIELD, EXIT and SNAPT (04 R117, R118, 07 R171, R187, 10 R251, 21 R428). -/

namespace Sys2Proof.Machine

/-! ## WFE and its limit -/

theorem exec_wfe_hart {s : State} {h : HartKey} (hc : s.cur = .hart h) (hr : s.Ready .wfe) :
    exec .wfe s = .next (State.finish (if (s.due.hart h).eventLatch then .retire (s.due.modHart h fun t => { t with eventLatch := false })
      else s.due.await (.wfe s.now))) := by
  refine (exec_ready (fun _ => rfl) hr).trans ?_
  simp only [State.due_cur, hc, State.due_now]

theorem exec_wfe_steward {s : State} {c : CoreId} (hc : s.cur = .steward c) (hr : s.Ready .wfe) :
    exec .wfe s = .next (s.due.delay (s.now + 65536)).retired := by
  refine (exec_ready (fun _ => rfl) hr).trans ?_
  simp only [State.due_cur, hc, State.due_now]
  rfl

theorem State.finish_await {s : State} {h : HartKey} (hc : s.cur = .hart h) (w : Wait) :
    State.finish (s.await w) =
      s.modHart h fun t => { t with wait := w, waitWord := s.ir, waitFrom := if t.wait = .none then s.now else t.waitFrom } := by
  rw [State.await, State.modSelf_hart hc]
  rfl

theorem exec_wfeTimeout (s : State) (g : HartKey) : exec (.wfeTimeout g) s = .next ((s.wfeStep g).getD s) := rfl

/-- A hart that does not wait in WFE, or is stopped, or whose limit has not passed and whose latch is empty, goes on waiting. -/
theorem State.wfeStep_none {s : State} {g : HartKey} (h : (s.hart g).runs = false ∨
    ∀ since, (s.hart g).wait = .wfe since → (s.hart g).eventLatch = false ∧ s.now < since + 65536) : s.wfeStep g = none := by
  unfold State.wfeStep
  simp only
  split
  case h_1 since hw =>
    refine if_neg ?_
    rcases h with hr | hl
    · simp [hr]
    · obtain ⟨hl, hn⟩ := hl since hw
      simp [hl, hn]
  case h_2 => rfl

theorem State.wfeStep_some {s : State} {g : HartKey} {since : Nat} (hr : (s.hart g).runs = true) (hw : (s.hart g).wait = .wfe since)
    (hl : (s.hart g).eventLatch = true ∨ since + 65536 ≤ s.now) : s.wfeStep g = some (s.completeWfe g) := by
  simp only [State.wfeStep, hw]
  exact if_pos (by simpa [hr] using hl)

/-- A WFE that completes retires in its hart alone, as a word that issued when it began to wait. -/
theorem State.completeWfe_eq {s : State} {g : HartKey} (hw : (s.hart g).wait ≠ .none) :
    s.completeWfe g = s.modHart g fun t =>
      { t with eventLatch := false, sc := t.sc.retire t.waitFrom (stallOf t.waitWord).toNat, wait := .none, claim := none } := by
  let u : State := { s with cur := .hart g, ir := (s.hart g).waitWord }
  have hcycle : (u.modHart g fun t => { t with eventLatch := false }).issueCycle = (s.hart g).waitFrom := by
    have hu : u.hart g = s.hart g := rfl
    simp [State.issueCycle, u, hu, hw]
  have hretired := State.retired_hart (s := u.modHart g fun t => { t with eventLatch := false }) (h := g) rfl
  rw [hcycle, State.modHart_modHart] at hretired
  exact congrArg (fun v : State => { v with cur := s.cur, ir := s.ir }) hretired

/-! ## YIELD -/

theorem exec_yield {s : State} {h : HartKey} (hc : s.cur = .hart h) (hr : s.Ready .yield) :
    exec .yield s = .next ((s.due.modHart h fun t => { t with barred := true }).modCluster (clusterOfHart h) fun c =>
      if c.current = some (slotOfHart h) then { c with current := none } else c).retired := by
  refine (exec_ready (fun _ => rfl) hr).trans ?_
  simp only [State.due_cur, hc]
  rfl

/-! ## SNAPT -/

theorem exec_snapt {s : State} {h : HartKey} (hc : s.cur = .hart h) (hr : s.Ready .snapt) :
    exec .snapt s = .next (s.due.trigger 1 (coreOfHart h)).retired := by
  refine (exec_ready (fun _ => rfl) hr).trans ?_
  rw [State.due_cur, hc]
  rfl

/-- The trigger changes the snapshot alone. -/
theorem State.trigger_frame (s : State) (cause source : Nat) : ∃ v, s.trigger cause source = { s with snapshot := v } := by
  unfold State.trigger
  simp only
  split <;> exact ⟨_, rfl⟩

theorem State.trigger_armed {s : State} (h : s.snapshot.armed = true) (cause source : Nat) :
    let v := (s.trigger cause source).snapshot
    v.armed = false ∧ v.cause = cause ∧ v.source = source ∧ v.time = BitVec.ofNat 64 s.devTime := by
  simp [State.trigger, h]

theorem State.trigger_unarmed {s : State} (h : s.snapshot.armed = false) (cause source : Nat) :
    (s.trigger cause source).snapshot = { s.snapshot with missed := s.snapshot.missed + 1 } := by
  simp [State.trigger, h]

/-! ## The end of a hart -/

theorem FMap.isSome_get?_iff {α : Type} (m : FMap α) (k : Nat) : (m.get? k).isSome = true ↔ k ∈ m.map Prod.fst := by
  induction m with
  | nil => simp [FMap.get?]
  | cons e m ih =>
    obtain ⟨j, v⟩ := e
    by_cases hj : j = k
    · simp [FMap.get?, hj]
    · simp [FMap.get?, hj, Ne.symm hj, ih]

theorem State.resident_iff (s : State) (h : HartKey) : s.resident h = true ↔ h ∈ s.harts.map Prod.fst := FMap.isSome_get?_iff _ _

theorem State.resident_setHart_other (s : State) {h k : HartKey} (v : Hart) (hk : h ≠ k) : (s.setHart k v).resident h = s.resident h := by
  simp [State.resident, State.setHart, hk]

theorem State.resident_holdHart_other (s : State) {h k : HartKey} (cause : Nat) (value addr : Dword) (hk : h ≠ k) :
    (s.holdHart k cause value addr).resident h = s.resident h := by
  obtain ⟨snap, states, frame⟩ := s.holding_frame k cause value addr
  rw [State.holdHart_eq, frame]
  exact s.resident_setHart_other _ hk

/-- A trap of one hart leaves the others resident or not, as they were. -/
theorem State.resident_takeTrap_other (s : State) {h k : HartKey} (cause : Nat) (value addr : Dword) (hk : h ≠ k) :
    (s.takeTrap k cause value addr).resident h = s.resident h := by
  have hmod : ∀ (s : State) (f : Hart → Hart), (s.modHart k f).resident h = s.resident h := fun s f => s.resident_setHart_other _ hk
  unfold State.takeTrap
  simp only
  split
  · split
    · rw [hmod, hmod]
    · rw [State.resident_holdHart_other _ _ _ _ hk, hmod]
  · rw [State.resident_setHart_other _ _ hk, hmod]

theorem State.resident_modTeamHarts (s : State) (n m : Nat) (f : Hart → Hart) (h : HartKey) :
    (s.modTeamHarts n m f).resident h = s.resident h := by
  rw [Bool.eq_iff_iff, State.resident_iff, State.resident_iff, State.modTeamHarts, List.map_map]
  rfl

theorem State.resident_of_mem_teamHarts {s : State} {n m : Nat} {h : HartKey} (hm : h ∈ s.teamHarts n m) : s.resident h = true := by
  obtain ⟨e, he, rfl⟩ := List.mem_map.1 hm
  exact (s.resident_iff _).2 (List.mem_map_of_mem (List.mem_filter.1 he).1)

theorem State.resident_foldl {f : State → HartKey → State} {h : HartKey}
    (hf : ∀ s k, h ≠ k → (f s k).resident h = s.resident h) {l : List HartKey} (hl : h ∉ l) (s : State) :
    (l.foldl f s).resident h = s.resident h := by
  induction l generalizing s with
  | nil => rfl
  | cons k l ih =>
    obtain ⟨hk, hl⟩ := not_or.1 (mt List.mem_cons.2 hl)
    exact (ih hl _).trans (hf s k hk)

/-- A phase that breaks makes no hart resident: it changes resident harts of its team. -/
theorem State.resident_breakPhase {s : State} {h : HartKey} (hr : s.resident h = false) (n m code : Nat) :
    (s.breakPhase n m code).resident h = false := by
  unfold State.breakPhase
  split
  · exact hr
  · have hteam : ∀ f g, (State.modTeamHarts (s.modTeam n m f) n m g).resident h = false := fun f g =>
      (State.resident_modTeamHarts _ n m g h).trans hr
    refine (State.resident_foldl (fun s k hk => ?_) (fun hm => ?_) _).trans (hteam _ _)
    · simp only
      split
      · rw [State.resident_takeTrap_other _ _ _ _ hk, State.resident_setHart_other _ _ hk]
      · rfl
    · exact Bool.false_ne_true ((hteam _ _).symm.trans (State.resident_of_mem_teamHarts hm))

theorem State.restTwin_harts (s : State) (t : PairKey) (ctx : Nat) : (s.restTwin t ctx).harts = s.harts := by
  unfold State.restTwin
  split <;> rfl

/-- A hart that has ended is resident no longer. -/
theorem State.resident_endHart (s : State) (h : HartKey) (failed : Bool) : (s.endHart h failed).resident h = false := by
  have ended : ∀ u : State, u.harts = s.harts.erase h → u.resident h = false := by
    intro u hu
    rw [State.resident, hu, FMap.get?_erase_same]
    rfl
  unfold State.endHart
  simp only
  generalize hu : State.modTeam _ _ _ _ = u
  have hleft : u.resident h = false := ended u (by rw [← hu]; exact State.restTwin_harts ..)
  clear hu
  split
  · exact hleft
  case h_2 v _ =>
    have hbroken : (if 0 < v.arrived then u.breakPhase (s.hart h).launch (s.hart h).team 1 else u).resident h = false := by
      split
      · exact State.resident_breakPhase hleft _ _ _
      · exact hleft
    split
    · exact hbroken
    · exact hbroken

theorem exec_exit_strip {s : State} {h : HartKey} (hc : s.cur = .hart h) (hr : s.Ready .exit) (hs : (s.due.hart h).strip ≠ none) :
    exec .exit s = .next (s.due.trapped 0x0D 3) := by
  refine (exec_ready (fun _ => rfl) hr).trans ?_
  simp only [State.due_cur, hc, State.self_hart (s.due_cur.trans hc), if_pos (Option.isSome_iff_ne_none.2 hs)]
  rfl

theorem exec_exit_ends {s w : State} {h : HartKey} (hc : s.cur = .hart h) (hr : s.Ready .exit) (hs : (s.due.hart h).strip = none)
    (hw : s.due.release h 3 (s.due.hart h).serial = .ok () w) : exec .exit s = .next (w.endHart h false) := by
  refine (exec_ready (fun _ => rfl) hr).trans ?_
  simp only [State.due_cur, hc, State.self_hart (s.due_cur.trans hc), hs, hw]
  rfl

end Sys2Proof.Machine

namespace Sys2Proof.Proofs

open Sys2Proof.Machine

theorem wfeWaitsOrCompletes {s : State} {h : HartKey} (hc : s.cur = .hart h) (hr : s.Ready .wfe) :
    ((s.due.hart h).eventLatch = true → exec .wfe s = .next (s.due.modHart h fun t => { t with eventLatch := false }).retired) ∧
    ((s.due.hart h).eventLatch = false →
      exec .wfe s = .next (s.due.modHart h fun t =>
        { t with wait := .wfe s.now, waitWord := s.ir, waitFrom := if t.wait = .none then s.now else t.waitFrom })) := by
  rw [exec_wfe_hart hc hr]
  refine ⟨fun hl => ?_, fun hl => ?_⟩
  · rw [if_pos hl]
    rfl
  · rw [if_neg (by simp [hl]), State.finish_await (s.due_cur.trans hc), State.due_ir, State.due_now]

theorem waitingWfeCompletes {s : State} {g : HartKey} {since : Nat} (hr : (s.hart g).runs = true)
    (hw : (s.hart g).wait = .wfe since) (hl : (s.hart g).eventLatch = true ∨ since + 65536 ≤ s.now) :
    ∃ t, exec (.wfeTimeout g) s = .next t ∧ (t.hart g).wait = .none ∧ (t.hart g).eventLatch = false ∧
      (t.hart g).sc.pc = (loopEnd (s.hart g).sc.loops (s.hart g).sc.pc).2 ∧ (t.hart g).sc.instret = (s.hart g).sc.instret + 1 ∧
      t.cur = s.cur ∧ t.ir = s.ir ∧ (∀ k, k ≠ g → t.hart k = s.hart k) := by
  refine ⟨s.completeWfe g, by rw [exec_wfeTimeout, State.wfeStep_some hr hw hl]; rfl, ?_⟩
  rw [State.completeWfe_eq (by rw [hw]; exact nofun), State.hart_modHart_same]
  exact ⟨rfl, rfl, rfl, rfl, rfl, rfl, fun k hk => State.hart_modHart_other _ _ hk⟩

theorem snaptTriggers {s : State} {h : HartKey} (hc : s.cur = .hart h) (hr : s.Ready .snapt) :
    ∃ w : State, exec .snapt s = .next w.retired ∧ w.harts = s.due.harts ∧ w.mem = s.mem ∧ w.clusters = s.clusters ∧
      (s.snapshot.armed = true → w.snapshot.armed = false ∧ w.snapshot.cause = 1 ∧ w.snapshot.source = coreOfHart h ∧
        w.snapshot.time = BitVec.ofNat 64 s.devTime) ∧
      (s.snapshot.armed = false → w.snapshot = { s.snapshot with missed := s.snapshot.missed + 1 }) := by
  obtain ⟨v, frame⟩ := s.due.trigger_frame 1 (coreOfHart h)
  refine ⟨_, exec_snapt hc hr, by rw [frame], by rw [frame]; exact s.due_mem, by rw [frame]; exact s.due_clusters,
    fun ha => ?_, fun ha => ?_⟩
  · rw [← s.due_devTime]
    exact State.trigger_armed (by rwa [State.due_snapshot]) _ _
  · rw [State.trigger_unarmed (by rwa [State.due_snapshot]), State.due_snapshot]

/-- Settles O29: word by word; a WFE completes in its hart alone (`State.completeWfe_eq`), and no step of the end of a hart makes it
resident again (`State.resident_endHart`). -/
theorem systemWordsTakeEffect : Obligations.SystemWordsTakeEffect := by
  intro s h hc u
  exact ⟨wfeWaitsOrCompletes hc, fun g hg => by rw [exec_wfeTimeout, State.wfeStep_none hg]; rfl,
    fun g since => waitingWfeCompletes, exec_yield hc,
    fun hr => ⟨exec_exit_strip hc hr, fun w hs hw => ⟨exec_exit_ends hc hr hs hw, State.resident_endHart w h false⟩⟩,
    snaptTriggers hc, fun v c => exec_wfe_steward⟩

end Sys2Proof.Proofs
end

section
/-! PROOFS. When a translation, and an access of a steward, fails rather than waits (09 R218, 11 R265, 17 R355). -/

namespace Sys2Proof.Machine

/-! ## Translations while no command owns a line -/

theorem State.tableRead_noWait {s : State} (h : s.lineOwners = []) (core pa n : Nat) : (s.tableRead core pa n).1 ≠ .error causeWait := by
  have hbusy : ∀ loc, s.lineBusy loc n none = false := fun loc => by rw [State.lineBusy, h]; rfl
  unfold State.tableRead
  split
  · exact nofun
  split
  · exact nofun
  split
  · exact nofun
  rw [hbusy]
  simp only [Bool.false_eq_true, if_false]
  split <;> exact nofun

theorem State.tableRead_lineOwners {s t : State} {core pa n : Nat} {r : Except Nat Nat} (h : s.tableRead core pa n = (r, t)) :
    t.lineOwners = s.lineOwners := (State.tableRead_stores_of h).part _ fun _ _ _ _ _ _ => rfl

theorem State.walk_noWait {s : State} (h : s.lineOwners = []) (core ctx va : Nat) : (s.walk core ctx va).1 ≠ .error causeWait := by
  have read : ∀ {u t : State} {pa n c : Nat}, u.lineOwners = [] → u.tableRead core pa n = (.error c, t) →
      (Except.error c : Except Nat TlbEntry) ≠ .error causeWait := by
    intro u t pa n c hu hr he
    refine State.tableRead_noWait hu core pa n ?_
    rw [hr, Except.error.inj he]
  have entry : ∀ o : Option TlbEntry, (o.elim (.error causeLdpf) .ok : Except Nat TlbEntry) ≠ .error causeWait := by
    intro o
    cases o <;> exact nofun
  unfold State.walk
  split
  · exact nofun
  split
  next hr => exact read h hr
  next hr =>
  replace h := (State.tableRead_lineOwners hr).trans h
  split
  · exact nofun
  split
  next hr => exact read h hr
  next hr =>
  replace h := (State.tableRead_lineOwners hr).trans h
  split
  · exact nofun
  split
  next hr => exact read h hr
  next hr =>
  replace h := (State.tableRead_lineOwners hr).trans h
  split
  · exact entry _
  split
  · exact nofun
  split
  next hr => exact read h hr
  next hr => exact entry _

theorem State.target_noWait (s : State) (core va : Nat) (use : Access) (e : TlbEntry) : s.target core va use e ≠ .error causeWait := by
  unfold State.target
  split
  · exact nofun
  · split
    · exact nofun
    · split <;> exact nofun

theorem State.translateAfresh_noWait {s : State} (h : s.lineOwners = []) (core unit ctx va : Nat) (use : Access) :
    (s.translateAfresh core unit ctx va use).1 ≠ .error causeWait := by
  unfold State.translateAfresh
  split
  next hw =>
    intro he
    refine State.walk_noWait h core ctx va ?_
    rw [hw]
    exact congrArg Except.error (Except.error.inj he)
  next hw =>
    split
    next ht => exact fun he => State.target_noWait _ core va use _ (ht.trans he)
    next => exact nofun

/-- While no command owns a line, no walk waits. -/
theorem State.translate_noWait {s : State} (h : s.lineOwners = []) {core unit ctx : Nat} {va : Dword} {use : Access} {m : Miss}
    (hm : (s.translate core unit ctx va use).1 = .error m) : m.cause ≠ causeWait := by
  have wrap : ∀ {r : Except Nat Target}, r ≠ .error causeWait →
      (r.mapError fun c => ({ cause := c, value := va } : Miss)) = .error m → m.cause ≠ causeWait := by
    intro r hr he
    cases r with
    | ok t => exact nomatch he
    | error c =>
      obtain rfl := Except.error.inj he
      exact fun hc => hr (congrArg Except.error hc)
  have choose : ∀ n, (s.choose n).2.lineOwners = s.lineOwners := fun n => (congrArg State.lineOwners (s.choose_same n) :)
  unfold State.translate at hm
  simp only at hm
  split at hm
  · exact nomatch hm
  split at hm
  · exact wrap (State.translateAfresh_noWait h _ _ _ _ _) hm
  split at hm
  · exact wrap (State.target_noWait _ _ _ _ _) hm
  split at hm
  · exact wrap (State.target_noWait _ _ _ _ _) hm
  · exact wrap (State.translateAfresh_noWait ((choose _).trans h) _ _ _ _ _) hm

/-! ## Accesses within a page -/

/-- An aligned access of a scalar lies in one page. -/
theorem pagesOf_aligned {va : Dword} {n : Nat} (hn : n = 1 ∨ n = 2 ∨ n = 4 ∨ n = 8) (ha : va.toNat % n = 0) :
    pagesOf va n = [(va, n)] := by
  have hpage : min n (65536 - va.toNat % 65536) = n ∧ n ≠ 0 := by
    rcases hn with rfl | rfl | rfl | rfl <;> omega
  simp [pagesOf, pageParts, hpage]

section
variable {s : State} {r : Reach} {use : Access} {va : Dword} {n : Nat} {m : Miss}

theorem State.translate_of_translateParts (h : (s.translateParts r use false [(va, n)]).1 = .error m) :
    (s.translate r.core r.unit r.ctx va use).1 = .error m := by
  unfold State.translateParts at h
  split at h
  next ht =>
    rw [ht]
    simpa using h
  next => exact nomatch h

theorem State.translateParts_of_translate (h : (s.translate r.core r.unit r.ctx va use).1 = .error m) (hm : m.cause ≠ causeLdpf)
    (lax : Bool) : (s.translateParts r use lax [(va, n)]).1 = .error m := by
  unfold State.translateParts
  split
  next ht =>
    obtain rfl := Except.error.inj ((congrArg Prod.fst ht).symm.trans h)
    simp [hm]
  next ht => exact nomatch (congrArg Prod.fst ht).symm.trans h

/-- An access that nothing keeps waiting does not fail with what is no trap. -/
theorem State.translateParts_noWait (hb : s.accessBlocked r use va n = false) (hh : inH va = true) (hp : pagesOf va n = [(va, n)])
    (hm : (s.translateParts r use false [(va, n)]).1 = .error m) : m.cause ≠ causeWait := by
  have ht := State.translate_of_translateParts hm
  by_cases hl : s.lineOwners = []
  · exact State.translate_noWait hl ht
  · intro hc
    have hlax := State.translateParts_of_translate (n := n) ht (by rw [hc]; decide) true
    have hl' : s.lineOwners.isEmpty = false := by simpa using hl
    simp only [State.accessBlocked, hl', hh, hp, hlax, hc] at hb
    exact Bool.noConfusion hb

theorem State.fetchBytes_noWait {l1 : Bool} {t : State} (hb : inH va = true → s.accessBlocked r use va n = false)
    (hp : pagesOf va n = [(va, n)]) (h : s.fetchBytes r l1 use va n = (.error m, t)) : m.cause ≠ causeWait := by
  unfold State.fetchBytes at h
  split at h
  next hh =>
    rw [hp] at h
    split at h
    next ht =>
      obtain rfl := Except.error.inj (congrArg Prod.fst h)
      exact State.translateParts_noWait (hb hh) hh hp (by rw [ht])
    next => exact nomatch congrArg Prod.fst h
  · split at h <;> exact nomatch congrArg Prod.fst h

theorem State.storeBytes_noWait {h : Option HartKey} {bs : List (Option Byte)} {t : State}
    (hb : inH va = true → s.accessBlocked r use va bs.length = false) (hp : pagesOf va bs.length = [(va, bs.length)])
    (hs : s.storeBytes r h use va bs = (.error m, t)) : m.cause ≠ causeWait := by
  unfold State.storeBytes at hs
  split at hs
  next hh =>
    rw [hp] at hs
    split at hs
    next ht =>
      obtain rfl := Except.error.inj (congrArg Prod.fst hs)
      exact State.translateParts_noWait (hb hh) hh hp (by rw [ht])
    next => exact nomatch congrArg Prod.fst hs
  · split at hs <;> exact nomatch congrArg Prod.fst hs

theorem Reach.check_noWait (h : r.check use va n = some m) : m.cause ≠ causeWait := by
  have prot : ∀ o : Option Nat, (o.map fun i => ({ cause := causeProt, value := va + BitVec.ofNat 64 i } : Miss)) = some m →
      m.cause ≠ causeWait := by
    intro o ho
    obtain ⟨_, -, rfl⟩ := Option.map_eq_some_iff.1 ho
    exact nofun
  unfold Reach.check at h
  simp only at h
  split at h
  · cases h
    exact nofun
  split at h
  · cases h
    exact nofun
  split at h
  · cases h
    exact nofun
  rcases ite_eq_iff.1 h with ⟨-, h⟩ | ⟨-, h⟩
  · cases h
    exact nofun
  split at h
  · split at h
    · exact nomatch h
    · exact prot _ h
  · exact nomatch h

end

/-! ## A steward's accesses -/

/-- An access to H-space takes no window. -/
theorem State.stewardWindow_inH {s t : State} {core : CoreId} {va : Dword} {n : Nat} (h : inH va = true)
    (ht : s.stewardWindow core va n = some t) : t = s := by
  have hsel : selector va = 0 := by simpa [inH] using h
  simpa [State.stewardWindow, hsel, eq_comm] using ht

theorem Acc.clean_noWait {g : Got} {s t : State} {va : Dword} {m : Miss} (h : (Acc.ok g s).clean va = .miss m t) :
    m.cause ≠ causeWait := by
  simp only [Acc.clean] at h
  split at h
  · cases h
    exact nofun
  · exact nomatch h

theorem State.stewardLoad_noWait {s t : State} {core : CoreId} {va : Dword} {n : Nat} {m : Miss} (hp : pagesOf va n = [(va, n)])
    (h : s.stewardLoad core va n = .miss m t) : m.cause ≠ causeWait := by
  unfold State.stewardLoad at h
  simp only at h
  split at h
  next hcheck =>
    cases h
    exact Reach.check_noWait hcheck
  split at h
  · cases h
    exact nofun
  split at h
  · exact nomatch h
  next hb =>
  split at h
  · exact nomatch h
  next hwindow =>
  split at h
  next hf =>
    cases h
    exact State.fetchBytes_noWait (fun hh => State.stewardWindow_inH hh hwindow ▸ Bool.not_eq_true _ ▸ hb) hp hf
  · exact Acc.clean_noWait h

theorem State.stewardStore_noWait {s t : State} {core : CoreId} {va : Dword} {bs : List (Option Byte)} {m : Miss}
    (hp : pagesOf va bs.length = [(va, bs.length)]) (h : s.stewardStore core va bs = .miss m t) : m.cause ≠ causeWait := by
  unfold State.stewardStore at h
  simp only at h
  split at h
  next hcheck =>
    cases h
    exact Reach.check_noWait hcheck
  split at h
  · cases h
    exact nofun
  split at h
  · exact nomatch h
  next hb =>
  split at h
  · exact nomatch h
  next hwindow =>
  split at h
  next hs =>
    cases h
    exact State.storeBytes_noWait (fun hh => State.stewardWindow_inH hh hwindow ▸ Bool.not_eq_true _ ▸ hb) hp hs
  · exact nomatch h

end Sys2Proof.Machine
end

section
/-! PROOFS. Scalar loads and stores (04 R111, 10 R227): their bytes, how a hart's issue, and how they are performed. -/

namespace Sys2Proof.Machine

/-! ## Bytes, the lowest first -/

theorem bitsOfBytes_eq (bs : List Byte) : bitsOfBytes 64 bs = BitVec.ofInt 64 (Claims.littleEndian bs) := by
  induction bs with
  | nil => rfl
  | cons b bs ih =>
    rw [bitsOfBytes, BitVec.or_comm, shiftLeft_or, Claims.littleEndian, ih, BitVec.ofInt_add, ← shiftLeft_ofInt, ofInt_toNat,
      shiftLeft_ofInt, ← BitVec.ofInt_add]
    congr 1
    push_cast
    ring

theorem toNat_bitsOfBytes (bs : List Byte) : (bitsOfBytes 64 bs).toNat = Claims.littleEndian bs % 2 ^ 64 := by
  rw [bitsOfBytes_eq, BitVec.ofInt_natCast, BitVec.toNat_ofNat]

theorem littleEndian_append (as bs : List Byte) :
    Claims.littleEndian (as ++ bs) = Claims.littleEndian as + 256 ^ as.length * Claims.littleEndian bs := by
  induction as with
  | nil => simp [Claims.littleEndian]
  | cons a as ih =>
    rw [List.cons_append, Claims.littleEndian, Claims.littleEndian, ih, List.length_cons]
    ring

@[simp] theorem length_bytesOfBits {w : Nat} (v : BitVec w) (n : Nat) : (bytesOfBits v n).length = n := by simp [bytesOfBits]

theorem littleEndian_bytesOfBits (v : Dword) (n : Nat) : Claims.littleEndian (bytesOfBits v n) = v.toNat % 2 ^ (8 * n) := by
  induction n with
  | zero => simp [bytesOfBits, Claims.littleEndian, Nat.mod_one]
  | succ n ih =>
    have hsnoc : bytesOfBits v (n + 1) = bytesOfBits v n ++ [v.extractLsb' (8 * n) 8] := by simp [bytesOfBits, List.range_succ]
    have hbyte : Claims.littleEndian [v.extractLsb' (8 * n) 8] = v.toNat / 2 ^ (8 * n) % 2 ^ 8 := by
      simp [Claims.littleEndian, BitVec.extractLsb'_toNat, Nat.shiftRight_eq_div_pow]
    rw [hsnoc, littleEndian_append, ih, hbyte, length_bytesOfBits, show 8 * (n + 1) = 8 * n + 8 by ring, Nat.pow_add,
      Nat.mod_mul, Nat.pow_mul]

theorem eq_of_littleEndian_eq {as bs : List Byte} (hl : as.length = bs.length) (h : Claims.littleEndian as = Claims.littleEndian bs) :
    as = bs := by
  induction as generalizing bs with
  | nil => exact (List.length_eq_zero_iff.1 hl.symm).symm
  | cons a as ih =>
    cases bs with
    | nil => exact nomatch hl
    | cons b bs =>
      have ha := a.isLt
      have hb := b.isLt
      simp only [Claims.littleEndian] at h
      rw [BitVec.eq_of_toNat_eq (show a.toNat = b.toNat by omega), ih (Nat.succ.inj hl) (by omega)]

/-- The bytes that a store takes from a register are the only ones of their number. -/
theorem eq_bytesOfBits {v : Dword} {n : Nat} {bs : List Byte} (hl : bs.length = n)
    (h : Claims.littleEndian bs = v.toNat % 2 ^ (8 * n)) : bs = bytesOfBits v n :=
  eq_of_littleEndian_eq (hl.trans (length_bytesOfBits v n).symm) (h.trans (littleEndian_bytesOfBits v n).symm)

/-! ## The words and their tables -/

/-- The sizes of scalar accesses. -/
def ScalarSize (n : Nat) : Prop := n = 1 ∨ n = 2 ∨ n = 4 ∨ n = 8

theorem loadWord_of_loadOf {i : Instr} {n : Nat} {signed : Bool} {d a : Reg} {o : BitVec 10}
    (h : Claims.loadOf i = some (n, signed, d, a, o)) :
    (∀ t, exec i t = loadWord i d a o t) ∧ scalarBytes i = n ∧ signedLoad i = signed ∧ ScalarSize n := by
  cases i
  case lb => cases h; exact ⟨fun _ => rfl, rfl, rfl, .inl rfl⟩
  case lbu => cases h; exact ⟨fun _ => rfl, rfl, rfl, .inl rfl⟩
  case lh => cases h; exact ⟨fun _ => rfl, rfl, rfl, .inr (.inl rfl)⟩
  case lhu => cases h; exact ⟨fun _ => rfl, rfl, rfl, .inr (.inl rfl)⟩
  case lw => cases h; exact ⟨fun _ => rfl, rfl, rfl, .inr (.inr (.inl rfl))⟩
  case lwu => cases h; exact ⟨fun _ => rfl, rfl, rfl, .inr (.inr (.inl rfl))⟩
  case ld => cases h; exact ⟨fun _ => rfl, rfl, rfl, .inr (.inr (.inr rfl))⟩
  all_goals exact (Option.some_ne_none _ h.symm).elim

theorem storeWord_of_storeOf {i : Instr} {n : Nat} {x a : Reg} {o : BitVec 10} (h : Claims.storeOf i = some (n, x, a, o)) :
    (∀ t, exec i t = storeWord i x a o t) ∧ scalarBytes i = n ∧ ScalarSize n := by
  cases i
  case sb => cases h; exact ⟨fun _ => rfl, rfl, .inl rfl⟩
  case sh => cases h; exact ⟨fun _ => rfl, rfl, .inr (.inl rfl)⟩
  case sw => cases h; exact ⟨fun _ => rfl, rfl, .inr (.inr (.inl rfl))⟩
  case sd => cases h; exact ⟨fun _ => rfl, rfl, .inr (.inr (.inr rfl))⟩
  all_goals exact (Option.some_ne_none _ h.symm).elim

theorem dataAddr_eq (s : State) (a : Reg) (o : BitVec 10) : s.dataAddr a o = Claims.addressOf s a o := add_ofInt _ _

/-- The sign extension of the low n bytes. -/
theorem signExtended_eq {n : Nat} (hn : ScalarSize n) (bs : List Byte) :
    (BitVec.ofNat (8 * n) (bitsOfBytes 64 bs).toNat).toInt = Claims.extended n true bs := by
  have hmod : Claims.littleEndian bs % 2 ^ 64 % 2 ^ (8 * n) = Claims.littleEndian bs % 2 ^ (8 * n) :=
    Nat.mod_mod_of_dvd _ (Nat.pow_dvd_pow 2 (by rcases hn with rfl | rfl | rfl | rfl <;> decide))
  have hhalf : 2 ^ (8 * n) = 2 * 2 ^ (8 * n - 1) := by rcases hn with rfl | rfl | rfl | rfl <;> rfl
  rw [BitVec.toInt_eq_toNat_cond, BitVec.toNat_ofNat, toNat_bitsOfBytes, hmod, Claims.extended]
  by_cases h : 2 ^ (8 * n - 1) ≤ Claims.littleEndian bs % 2 ^ (8 * n)
  · rw [if_neg (by omega), if_pos ⟨rfl, h⟩]
    norm_cast
  · rw [if_pos (by omega), if_neg (fun hv => h hv.2), if_pos rfl]

/-- What a load gives its register, from its bytes. -/
theorem loaded_eq {n : Nat} (hn : ScalarSize n) (signed : Bool) (bs : List Byte) :
    (if signed then BitVec.ofInt 64 (BitVec.ofNat (8 * n) (bitsOfBytes 64 bs).toNat).toInt else bitsOfBytes 64 bs) =
      BitVec.ofInt 64 (Claims.extended n signed bs) := by
  cases signed with
  | true => exact congrArg (BitVec.ofInt 64) (signExtended_eq hn bs)
  | false =>
    rw [Claims.extended]
    simpa using bitsOfBytes_eq bs

/-! ## The issue of a hart's access -/

/-- Nothing keeps an access of the running hart from being performed at once (10 R227, R243). -/
def State.GoesAtOnce (t : State) (i : Instr) (x : Transfer) : Prop :=
  t.self.vmem = [] ∧ t.self.keptBack x.owner 8 (x.kind == .ld) = false ∧ (orderingOf i).1 = false

theorem State.goesAtOnce_iff (t : State) (i : Instr) (x : Transfer) : t.GoesAtOnce i x ↔
    (!t.self.vmem.isEmpty || t.self.keptBack x.owner 8 (x.kind == .ld) || (orderingOf i).1) = false := by
  simp [State.GoesAtOnce, and_assoc]

section
variable {s t u : State} {i : Instr} {x : Transfer} {d : Option Reg} {m : Miss} {v : Brought}

theorem State.issueDirect_miss (h : s.directMiss s.me i x = (some m, t)) : s.issueDirect i x d = .trap t m.cause m.value := by
  simp only [State.issueDirect, h]

theorem State.issueDirect_performed (h : s.directMiss s.me i x = (none, t)) (hf : t.GoesAtOnce i x)
    (hp : t.performDirect t.me i x = .ok v u) (hl : u.self.sideLog.length ≤ 64) :
    s.issueDirect i x d = .retire (State.amoAcquire (match d with
      | some d => u.resultAt d v.1 v.2 .memory
      | none => u) i) := by
  have hfree := (t.goesAtOnce_iff i x).1 hf
  cases d with
  | some d => simp only [State.issueDirect, h, hfree, hp, if_neg (Nat.not_lt.2 hl), Bool.false_eq_true, if_false]
  | none => simp only [State.issueDirect, h, hfree, hp, if_neg (Nat.not_lt.2 hl), Bool.false_eq_true, if_false]

theorem State.issueDirect_fails (h : s.directMiss s.me i x = (none, t)) (hf : t.GoesAtOnce i x)
    (hp : t.performDirect t.me i x = .miss m u) : s.issueDirect i x d = .trap u m.cause m.value := by
  simp only [State.issueDirect, h, (t.goesAtOnce_iff i x).1 hf, hp, Bool.false_eq_true, if_false]

theorem State.issueDirect_waits (h : s.directMiss s.me i x = (none, t)) (hf : ¬ t.GoesAtOnce i x ∨ t.performDirect t.me i x = .wait ∨
    ∃ v u, t.performDirect t.me i x = .ok v u ∧ 64 < u.self.sideLog.length) :
    s.issueDirect i x d = .retire ((t.waitOnQd x d).amoAcquire i) := by
  by_cases hfree : t.GoesAtOnce i x
  · simp only [State.issueDirect, h, (t.goesAtOnce_iff i x).1 hfree, Bool.false_eq_true, if_false]
    rcases hf with hf | hw | ⟨v, u, hp, hl⟩
    · exact (hf hfree).elim
    · rw [hw]
    · rw [hp]
      exact if_pos hl
  · simp only [State.issueDirect, h, if_pos (Bool.eq_true_of_not_eq_false (mt (t.goesAtOnce_iff i x).2 hfree))]

/-- A word whose body is the issue of an access issues it. -/
theorem accessIssues_of_exec (h : exec i s = .next (State.finish (s.due.issueDirect i x d))) : Claims.AccessIssues i s x d := by
  have hme : s.due.me = s.me := by rw [State.me, State.due_cur]; rfl
  unfold Claims.AccessIssues
  rw [h, ← hme]
  refine ⟨fun m t ht => ?_, fun t ht => ⟨fun v u hf hp hl => ?_, fun m u hf hp => ?_, fun hf => ?_⟩⟩
  · rw [State.issueDirect_miss ht]
    rfl
  · rw [State.issueDirect_performed ht hf hp hl]
    rfl
  · rw [State.issueDirect_fails ht hf hp]
    rfl
  · rw [State.issueDirect_waits ht hf]
    rfl

end

/-! ## Accesses of a steward -/

theorem State.load_noWait {s t : State} {k : Agency} {va : Dword} {n : Nat} {m : Miss} (hc : s.cur.isHart = false)
    (hp : pagesOf va n = [(va, n)]) (h : s.load k va n = .miss m t) : m.cause ≠ causeWait := by
  unfold State.load at h
  split at h
  next hcur => rw [hcur] at hc; exact nomatch hc
  next => exact State.stewardLoad_noWait hp h

theorem State.store_noWait {s t : State} {va : Dword} {bs : List Byte} {m : Miss} (hc : s.cur.isHart = false)
    (hp : pagesOf va bs.length = [(va, bs.length)]) (h : s.store va bs = .miss m t) : m.cause ≠ causeWait := by
  unfold State.store at h
  split at h
  next hcur => rw [hcur] at hc; exact nomatch hc
  next => exact State.stewardStore_noWait (by rwa [List.length_map]) h

end Sys2Proof.Machine

namespace Sys2Proof.Proofs

open Sys2Proof.Machine

theorem scalarLoadsExtendTheirBytes : Parts.ScalarLoadsExtendTheirBytes := by
  intro i s n signed d a o h hready va
  obtain ⟨hexec, rfl, rfl, hsize⟩ := loadWord_of_loadOf h
  have hrun := exec_ready hexec hready
  have hva : s.due.dataAddr a o = va := dataAddr_eq _ _ _
  simp only [hva] at hrun
  refine ⟨fun ha => ?_, fun ha hh => ?_, fun bs t ha hh hl => ?_, fun m t ha hh hl => ?_⟩
  · rw [hrun, if_pos ha]
    rfl
  · refine accessIssues_of_exec ?_
    rw [hrun, if_neg (not_not_intro ha), if_pos hh]
    rfl
  · rw [hrun, if_neg (not_not_intro ha), if_neg (by rw [hh]; exact Bool.false_ne_true), hl]
    simp only [Acc.flow, loaded_eq hsize]
    rfl
  · have hc : m.cause ≠ causeWait := State.load_noWait hh (pagesOf_aligned hsize ha) hl
    rw [hrun, if_neg (not_not_intro ha), if_neg (by rw [hh]; exact Bool.false_ne_true), hl]
    simp only [Acc.flow, if_neg hc]
    rfl

theorem scalarStoresStoreTheirBytes : Parts.ScalarStoresStoreTheirBytes := by
  intro i s n x a o h hready va
  obtain ⟨hexec, rfl, hsize⟩ := storeWord_of_storeOf h
  have hrun := exec_ready hexec hready
  have hva : s.due.dataAddr a o = va := dataAddr_eq _ _ _
  simp only [hva] at hrun
  refine ⟨fun ha => ?_, fun ha hh => ?_, fun bs t ha hh hb hv hs => ?_, fun bs m t ha hh hb hv hs => ?_⟩
  · rw [hrun, if_pos ha]
    rfl
  · refine accessIssues_of_exec ?_
    rw [hrun, if_neg (not_not_intro ha), if_pos hh]
    rfl
  · rw [eq_bytesOfBits hb hv] at hs
    rw [hrun, if_neg (not_not_intro ha), if_neg (by rw [hh]; exact Bool.false_ne_true), hs]
    rfl
  · rw [eq_bytesOfBits hb hv] at hs
    have hc : m.cause ≠ causeWait := State.store_noWait hh (by rw [length_bytesOfBits]; exact pagesOf_aligned hsize ha) hs
    rw [hrun, if_neg (not_not_intro ha), if_neg (by rw [hh]; exact Bool.false_ne_true), hs]
    simp only [Acc.flow, if_neg hc]
    rfl

theorem scalarAccessesArePerformed : Parts.ScalarAccessesArePerformed := by
  intro i s h n
  refine ⟨?_, ?_⟩
  · intro signed d a o x hi hx
    dsimp only
    obtain ⟨-, rfl, rfl, hsize⟩ := loadWord_of_loadOf hi
    refine ⟨fun bs t hb => ?_, fun m t hb => ?_, fun hb => ?_⟩
    · simp only [State.performDirect, hx, hb, loaded_eq hsize]
    · simp only [State.performDirect, hx, hb]
    · simp only [State.performDirect, hx, hb]
  · intro r a o x bs hi hx hl hv
    dsimp only
    obtain ⟨-, rfl, hsize⟩ := storeWord_of_storeOf hi
    obtain rfl := eq_bytesOfBits hl hv
    refine ⟨fun t hb => ?_, fun m t hb => ?_, fun hb => ?_⟩ <;> simp only [State.performDirect, hx, hb]

/-- Settles O5: a load and a store have one body each; their bytes are the digits to base 256 of what they move (`bitsOfBytes_eq`,
`eq_bytesOfBits`), and an aligned access of a steward that fails has a trap's cause (`State.stewardLoad_noWait`). -/
theorem scalarLoadsAndStoresMoveTheirBytes : Obligations.ScalarLoadsAndStoresMoveTheirBytes :=
  ⟨scalarLoadsExtendTheirBytes, scalarStoresStoreTheirBytes, scalarAccessesArePerformed⟩

end Sys2Proof.Proofs
end

section
/-! PROOFS. Field registers and tag words (05 R122 to R126, 06 R152): the rows of a range, and the tag words one by one. -/

namespace Sys2Proof.Machine

/-! ## Field registers (05 R122, R123) -/

theorem State.setField_due {s : State} {h : HartKey} (hc : s.cur = .hart h) (v : VReg) (d : FieldDesc) :
    s.due.setField v d =
      s.due.modHart h fun t => { t with fields := t.fields.set v.toNat d (by have := v.isLt; omega) } :=
  State.modSelf_hart (by rwa [State.due_cur]) _

/-! ## The rows of a range (01 R35), and the first of them from either end -/

theorem State.range_eq_range' (s : State) (n : Nat) : s.range n = List.range' s.rowbase n :=
  (List.range'_eq_map_range ..).symm

theorem State.mem_range (s : State) (n e : Nat) : e ∈ s.range n ↔ s.rowbase ≤ e ∧ e < s.rowbase + n := by
  rw [State.range_eq_range', List.mem_range'_1]

/-- The rows of a range rise. -/
theorem State.pairwise_range (s : State) (n : Nat) : (s.range n).Pairwise (· ≤ ·) := by
  rw [State.range_eq_range']
  exact List.pairwise_le_range'

/-- In a list in the order r, the first element with a property is the one that comes before all others that have it. -/
theorem find?_eq_some_iff_of_pairwise {r : Nat → Nat → Prop} [Std.Refl r] [Std.Antisymm r] {l : List Nat} (hl : l.Pairwise r)
    (p : Nat → Bool) {e : Nat} (he : e ∈ l) : l.find? p = some e ↔ p e = true ∧ ∀ q ∈ l, p q = true → r e q := by
  induction hl with
  | nil => exact nomatch he
  | @cons x xs hx _ ih =>
    rw [List.forall_mem_cons]
    by_cases hp : p x = true
    · rw [List.find?_cons_of_pos hp, Option.some.injEq]
      constructor
      · rintro rfl
        exact ⟨hp, fun _ => refl x, fun q hq _ => hx q hq⟩
      · rintro ⟨-, hex, -⟩
        rcases List.mem_cons.1 he with rfl | he
        exacts [rfl, antisymm (hx e he) (hex hp)]
    · rw [List.find?_cons_of_neg hp]
      rcases List.mem_cons.1 he with rfl | he
      · exact iff_of_false (fun h => hp (List.find?_some h)) fun h => hp h.1
      · rw [ih he, and_iff_right (a := p x = true → r e x) fun h => absurd h hp]

theorem find?_beq_some_of_pairwise {r : Nat → Nat → Prop} [DecidableRel r] [Std.Refl r] [Std.Antisymm r] {l : List Nat}
    (hl : l.Pairwise r) (p : Nat → Bool) {e : Nat} (he : e ∈ l) :
    (l.find? p == some e) = (p e && l.all fun q => decide (r e q) || !p q) := by
  rw [Bool.eq_iff_iff, beq_iff_eq, find?_eq_some_iff_of_pairwise hl p he, Bool.and_eq_true, List.all_eq_true]
  refine and_congr_right fun _ => forall₂_congr fun q _ => ?_
  cases p q <;> simp

theorem State.firstRow_beq_some {s : State} {n e : Nat} (p : Nat → Bool) (he : e ∈ s.range n) :
    (s.firstRow n p == some e) = (p e && (s.range n).all fun q => decide (e ≤ q) || !p q) :=
  find?_beq_some_of_pairwise (s.pairwise_range n) p he

theorem State.lastRow_beq_some {s : State} {n e : Nat} (p : Nat → Bool) (he : e ∈ s.range n) :
    (s.lastRow n p == some e) = (p e && (s.range n).all fun q => decide (q ≤ e) || !p q) := by
  rw [State.lastRow, find?_beq_some_of_pairwise (r := (· ≥ ·)) (List.pairwise_reverse.2 (s.pairwise_range n)) p
    (List.mem_reverse.2 he), List.all_reverse]

theorem State.contains_range_succ {s : State} {n e : Nat} (he : e ∈ s.range n) :
    (s.range n).contains (e + 1) = decide (e + 1 < s.rowbase + n) := by
  rw [State.mem_range] at he
  rw [Bool.eq_iff_iff, List.contains_iff_mem, State.mem_range, decide_eq_true_eq]
  omega

theorem State.rowbase_lt_iff_ne {s : State} {n e : Nat} (he : e ∈ s.range n) : s.rowbase < e ↔ e ≠ s.rowbase := by
  rw [State.mem_range] at he
  omega

/-! ## The tag words (05 R124 to R126) -/

/-- A tag word performs an entry of the table: its meaning is the frame of tag words around a value that is the table's in the rows of
the range. -/
def TagWord (i : Instr) (s : State) (w : Tag × Reg × (Nat → Bool)) : Prop :=
  ∃ g : State → Nat → Nat → Bool, (∀ t, exec i t = .next (runWord i (tagWord w.1 w.2.1 g) t)) ∧
    ∀ e ∈ s.range (s.rx w.2.1).toNat, g s (s.rx w.2.1).toNat e = w.2.2 e

theorem TagWord.of_some {i : Instr} {s : State} {d : Tag} {n : Reg} {f : Nat → Bool} {w : Tag × Reg × (Nat → Bool)}
    {g : State → Nat → Nat → Bool} (h : some (d, n, f) = some w) (hexec : ∀ t, exec i t = .next (runWord i (tagWord d n g) t))
    (hg : ∀ e ∈ s.range (s.rx n).toNat, g s (s.rx n).toNat e = f e) : TagWord i s w := by
  obtain rfl := Option.some.inj h
  exact ⟨g, hexec, hg⟩

/-- Every word of the table performs its entry. -/
theorem tagWord_of_tagOp {i : Instr} {s : State} {w : Tag × Reg × (Nat → Bool)} (h : Claims.tagOp i s = some w) : TagWord i s w := by
  cases i
  case tset d n => exact .of_some h (fun _ => rfl) fun _ _ => rfl
  case tclr d n => exact .of_some h (fun _ => rfl) fun _ _ => rfl
  case tnot d a n => exact .of_some h (fun _ => rfl) fun _ _ => rfl
  case tand d a b n => exact .of_some h (fun _ => rfl) fun _ _ => rfl
  case tor d a b n => exact .of_some h (fun _ => rfl) fun _ _ => rfl
  case txor d a b n => exact .of_some h (fun _ => rfl) fun _ _ => rfl
  case tandn d a b n => exact .of_some h (fun _ => rfl) fun _ _ => rfl
  case tmov d a n => exact .of_some h (fun _ => rfl) fun _ _ => rfl
  case tfirst d a n => exact .of_some h (fun _ => rfl) fun _ he => State.firstRow_beq_some (s.myTag a) he
  case tlast d a n => exact .of_some h (fun _ => rfl) fun _ he => State.lastRow_beq_some (s.myTag a) he
  case tshup d a n => exact .of_some h (fun _ => rfl) fun e he => congrArg (· && s.myTag a (e + 1)) (State.contains_range_succ he).symm
  case tshdn d a n =>
    exact .of_some h (fun _ => rfl) fun e he => congrArg (· && s.myTag a (e - 1)) (decide_eq_decide.2 (State.rowbase_lt_iff_ne he))
  case tval d n => exact .of_some h (fun _ => rfl) fun _ _ => rfl
  all_goals exact (Option.some_ne_none _ h.symm).elim

/-! ## Words in the array frame (01 R35 to R37) -/

section
variable {i : Instr} {s : State} {n p : Nat} {ops : List (VReg × (FieldDesc → Bool))} {f : State → State}

theorem exec_array_zero (hexec : exec i s = .next (State.finish (s.due.array n ops p f))) (hn : n = 0) :
    exec i s = .next s.due.retired := by
  rw [hexec, hn, State.array_zero]
  rfl

theorem exec_array_bounds (hexec : exec i s = .next (State.finish (s.due.array n ops p f))) (hn : 0 < n)
    (hops : s.due.self.checkFields [] ops = none) (hb : 16384 < s.due.rowbase + n) :
    exec i s = .next (s.due.trapped 0x08 (BitVec.ofNat 64 n)) := by
  rw [hexec, State.array_bounds p f hn hops hb]
  rfl

theorem exec_array_done (hexec : exec i s = .next (State.finish (s.due.array n ops p f))) (hn : 0 < n)
    (hops : s.due.self.checkFields [] ops = none) (hb : s.due.rowbase + n ≤ 16384) :
    exec i s = .next ((f s.due).occupy p).retired := by
  rw [hexec, State.array_done p f hn hops hb]
  rfl

end

end Sys2Proof.Machine

namespace Sys2Proof.Proofs

open Sys2Proof.Machine

/-- Settles O16: both words write one field register of the running hart and retire (`State.setField_due`). -/
theorem vdefAndVundefSetTheFieldRegister : Obligations.VdefAndVundefSetTheFieldRegister := by
  intro v b w ty s h hc
  refine ⟨fun hready => ?_, fun hready => ?_⟩
  · rw [exec_ready (fun _ => rfl) hready, State.setField_due hc]
    rfl
  · rw [exec_ready (fun _ => rfl) hready, State.setField_due hc]
    rfl

theorem within_iff_mem_due_range {s : State} {h : HartKey} (hc : s.cur = .hart h) (n e : Nat) :
    Claims.within s n e = true ↔ e ∈ s.due.range n := by
  rw [State.mem_range, due_rowbase hc, Claims.within, State.self_hart hc, Bool.and_eq_true, decide_eq_true_eq, decide_eq_true_eq]

/-- Settles O17: each word is the array frame around a write of its tag, or of tgv, in the rows of the range (`exec_array_done`), and
its value there is that of its table (`tagWord_of_tagOp`). -/
theorem tagWordsWriteTheirTag : Obligations.TagWordsWriteTheirTag := by
  intro s h hc rb
  have hrb : s.due.rowbase = rb := due_rowbase hc
  have hme : s.due.me = h := State.due_me hc
  refine ⟨?_, ?_, ?_⟩
  · intro i d n' f hw hready n
    obtain ⟨g, hword, hg⟩ := tagWord_of_tagOp hw
    have hexec : exec i s = .next (State.finish (s.due.array n [] 1 fun t => t.setTags t.me d.toNat t.rowbase n (g t n))) :=
      exec_ready hword hready
    refine ⟨exec_array_zero hexec, fun hn hb => exec_array_bounds hexec hn rfl (by rwa [hrb]), fun hn hb =>
      ⟨g s.due n, fun e he => hg e ((within_iff_mem_due_range hc n e).1 he), ?_⟩⟩
    rw [exec_array_done hexec hn rfl (by rwa [hrb]), hme, hrb]
  · intro a n' hready n
    have hexec := exec_ready (fun _ => rfl) hready
    refine ⟨exec_array_zero hexec, fun hn hb => ?_⟩
    rw [exec_array_done hexec hn rfl (by rwa [hrb]), hme, hrb]
    rfl
  · intro a n' m hready n
    have hexec := exec_ready (fun _ => rfl) hready
    refine ⟨exec_array_zero hexec, fun hn hfit hb => ?_⟩
    have hops : s.due.self.checkFields [] [(a, fun _ => true)] = none :=
      Hart.checkFields_eq_none _ _ _ (by rw [State.due_self hc]; exact hfit) (by simp) (by simp)
    rw [exec_array_done hexec hn hops (by rwa [hrb]), hme, hrb]
    simp only [State.tagged, hme, Nat.testBit_zero]
    rfl

end Sys2Proof.Proofs
end

section
/-! PROOFS. Compares (06 R139 to R144): the fields of a word that writes no field, the tests, and the compares one by one. -/

namespace Sys2Proof.Machine

/-! ## Words over fields that write none (01 R32) -/

/-- Whether fields are in order does not depend on the scalar state. -/
theorem fieldsFit_sc (t : Hart) (sc : Scalar) (vs : List VReg) : Claims.fieldsFit { t with sc := sc } vs ↔ Claims.fieldsFit t vs := by
  induction vs with
  | nil => exact Iff.rfl
  | cons v vs ih => exact and_congr_right fun _ => and_congr_right fun _ => ih

theorem fieldsFit_due {s : State} {h : HartKey} (hc : s.cur = .hart h) (vs : List VReg) :
    Claims.fieldsFit s.due.self vs ↔ Claims.fieldsFit (s.hart h) vs := by
  rw [State.due_self hc]
  exact fieldsFit_sc ..

/-- Sources that are in order and of the classes of the word pass its checks. -/
theorem State.checkFields_sources {s : State} {ops : List (VReg × (FieldDesc → Bool))} {vs : List VReg} (hops : ops.map Prod.fst = vs)
    (hfit : Claims.fieldsFit s.self vs) (hok : ∀ p ∈ ops, p.2 (s.fieldOf p.1) = true) : s.self.checkFields [] ops = none :=
  Hart.checkFields_eq_none _ _ _ (by rwa [hops]) hok fun _ hb => (List.not_mem_nil hb).elim

/-! ## The tests (06 R142, R143) -/

theorem testInt_eq {op : Nat} (hop : op < 6) (x y : Int) : testInt op x y = Claims.intTest op x y := by
  interval_cases op <;> rfl

theorem testNum_eq {op : Nat} (hop : op < 6) (x y : Num) : testNum op x y = Claims.fltTest op x y := by
  simp only [testNum, Claims.fltTest, Bool.or_eq_true]
  split <;> interval_cases op <;> rfl

theorem isInt_eq (s : State) (v : VReg) : (s.fieldOf v).isInt = Claims.isI s v := rfl

/-- A type by its code. -/
theorem type_beq (s : State) (v : VReg) (c : BitVec 3) : ((s.fieldOf v).type == c) = decide (Claims.typ s v = c.toNat) := by
  rw [Claims.typ, Bool.beq_eq_decide_eq]
  exact decide_eq_decide.2 ⟨fun h => congrArg BitVec.toNat h, fun h => BitVec.eq_of_toNat_eq h⟩

theorem intOrFloat_eq (s : State) (v : VReg) : intOrFloat (s.fieldOf v) = (Claims.isI s v || Claims.isF s v) := by
  have hlt : Claims.typ s v < 8 := (s.fieldOf v).type.isLt
  rw [intOrFloat, isF4b_eq, Claims.isI, Claims.isF, Bool.eq_iff_iff]
  simp only [Bool.not_eq_true', decide_eq_false_iff_not, Bool.or_eq_true, decide_eq_true_eq]
  omega

theorem not_isI_of_isF {s : State} {v : VReg} (h : Claims.isF s v = true) : ¬ Claims.isI s v = true := by
  simp only [Claims.isF, Claims.isI, decide_eq_true_eq] at h ⊢
  omega

/-- MATCH: no bit in which a number differs from the key is one that the mask leaves in. -/
theorem matches_eq {w r : Nat} (k mask : Dword) (hw : w ≤ 64) :
    decide ((r ^^^ k.toNat) &&& complement64 mask.toNat % 2 ^ w = 0) =
      (List.range w).all fun j => mask.getLsbD j || (r.testBit j == k.getLsbD j) := by
  have care : ∀ j, (complement64 mask.toNat % 2 ^ w).testBit j = (decide (j < w) && !mask.getLsbD j) := by
    intro j
    rw [complement64, Nat.mod_eq_of_lt mask.isLt, Nat.sub_sub, Nat.add_comm 1, Nat.testBit_mod_two_pow,
      Nat.testBit_two_pow_sub_succ mask.isLt]
    by_cases hj : j < w
    · simp [hj, hj.trans_le hw, BitVec.getLsbD]
    · simp [hj]
  have bit : ∀ j, ((r ^^^ k.toNat) &&& complement64 mask.toNat % 2 ^ w).testBit j = false ↔
      (j < w → (mask.getLsbD j || (r.testBit j == k.getLsbD j)) = true) := by
    intro j
    rw [Nat.testBit_and, Nat.testBit_xor, care]
    by_cases hj : j < w
    · simp only [hj, BitVec.getLsbD, forall_const]
      cases r.testBit j <;> cases k.toNat.testBit j <;> cases mask.toNat.testBit j <;> simp
    · simp [hj]
  rw [Bool.eq_iff_iff, decide_eq_true_eq, List.all_eq_true]
  constructor
  · intro h j hj
    exact (bit j).1 (by rw [h, Nat.zero_testBit]) (List.mem_range.1 hj)
  · intro h
    exact Nat.zero_of_testBit_eq_false fun j => (bit j).2 fun hj => h j (List.mem_range.2 hj)

/-! ## Bodies of compares -/

/-- Body b of a word performs compare w in state s: it is the frame of compares, over the sources of w and for its passes, with class
rules that hold where w suits its sources, and, where the widths are natural, with the condition of w. -/
def CompareBody (s : State) (w : Claims.CompareOp) (b : Flow) : Prop :=
  ∃ (ops : List (VReg × (FieldDesc → Bool))) (passes : Nat) (f : State → Nat → Bool × Flags),
    b = compareWord w.tag w.combine w.mask w.count ops passes f s ∧ ops.map Prod.fst = w.sources ∧ passes = w.passes ∧
    (w.admits = true → ∀ p ∈ ops, p.2 (s.fieldOf p.1) = true) ∧
    ((∀ v ∈ w.sources, (s.fieldOf v).natural = true) → ∀ e, f s e = w.cond e)

theorem CompareBody.zero {s : State} {w : Claims.CompareOp} {b : Flow} (h : CompareBody s w b) (hn : (s.rx w.count).toNat = 0) :
    b = .retire s := by
  obtain ⟨ops, passes, f, rfl, -⟩ := h
  rw [compareWord, hn, State.array_zero]

theorem CompareBody.done {s : State} {w : Claims.CompareOp} {b : Flow} (h : CompareBody s w b) (hn : 0 < (s.rx w.count).toNat)
    (hfit : Claims.fieldsFit s.self w.sources) (hadm : w.admits = true) (hb : s.rowbase + (s.rx w.count).toNat ≤ 16384) :
    b = .retire ((s.compareRows w.tag w.combine w.mask (s.rx w.count).toNat w.cond).occupy w.passes) := by
  obtain ⟨ops, passes, f, rfl, hsrcs, rfl, hrules, hcond⟩ := h
  rw [compareWord, State.array_done _ _ hn (State.checkFields_sources hsrcs hfit (hrules hadm)) hb,
    funext (hcond (fieldsFit_natural hfit))]

/-- A body with one field source. -/
theorem compareBody_source {s : State} {w : Claims.CompareOp} {a : VReg} {ok : FieldDesc → Bool} {p : Nat}
    {f : State → Nat → Bool × Flags} (hs : w.sources = [a]) (hp : p = w.passes) (hr : w.admits = true → ok (s.fieldOf a) = true)
    (hf : (s.fieldOf a).natural = true → ∀ e, f s e = w.cond e) :
    CompareBody s w (compareWord w.tag w.combine w.mask w.count [(a, ok)] p f s) :=
  ⟨_, _, _, rfl, hs.symm, hp, fun hadm => List.forall_mem_singleton.2 (hr hadm),
    fun hn => hf (hn a (by rw [hs]; exact List.mem_singleton_self a))⟩

section
variable (s : State) (t : Tag) (c : BitVec 2) (a b : VReg) (x n : Reg) (m : BitVec 1)

theorem compareBody_fields {op : Nat} (hop : op < 6) :
    CompareBody s (Claims.compare2 s op t c a b n m) (cmpFields op t c a b n m s) := by
  unfold cmpFields
  refine ⟨_, _, _, rfl, rfl, ?_, fun hadm => ?_, fun _ e => ?_⟩
  · simp only [signed_eq, beq_iff_eq]
    rfl
  · have hpair : (Claims.isI s a = true ∧ Claims.isI s b = true) ∨ (Claims.isF s a = true ∧ Claims.typ s b = Claims.typ s a) := by
      simpa [Claims.compare2] using hadm
    have ha : intOrFloat (s.fieldOf a) = true := by
      rcases hpair with ⟨h, -⟩ | ⟨h, -⟩ <;> simp [intOrFloat_eq, h]
    have hb : (if Claims.isI s a then Claims.isI s b else (s.fieldOf b).type == (s.fieldOf a).type) = true := by
      rcases hpair with ⟨h, hb⟩ | ⟨h, ht⟩
      · rw [if_pos h, hb]
      · rw [if_neg (not_isI_of_isF h), beq_iff_eq, type_eq_iff, ht]
    simp only [List.forall_mem_cons]
    exact ⟨ha, hb, by simp⟩
  · simp only [Claims.compare2, ← testInt_eq hop, ← testNum_eq hop, num_eq_ival]
    rfl

theorem compareBody_scalar {op : Nat} (hop : op < 6) :
    CompareBody s (Claims.compareX s op t c a x n m) (cmpScalar op t c a x n m s) := by
  unfold cmpScalar
  refine compareBody_source (w := Claims.compareX s op t c a x n m) rfl rfl (intOrFloat_eq s a).trans fun _ e => ?_
  simp only [Claims.compareX, ← testInt_eq hop, ← testNum_eq hop, num_eq_ival, key_eq]
  rfl

end

/-- A word performs a compare: its meaning is a body in the frame of R79 that performs it. -/
def CompareWord (i : Instr) (s : State) (w : Claims.CompareOp) : Prop :=
  ∃ f, (∀ t, exec i t = .next (runWord i f t)) ∧ CompareBody s w (f s)

theorem CompareWord.of_some {i : Instr} {s : State} {v w : Claims.CompareOp} {f : State → Flow} (h : some v = some w)
    (hexec : ∀ t, exec i t = .next (runWord i f t)) (hbody : CompareBody s v (f s)) : CompareWord i s w :=
  ⟨f, hexec, Option.some.inj h ▸ hbody⟩

/-- Every word of the table performs its compare. -/
theorem compareWord_of_compareOp {i : Instr} {s : State} {w : Claims.CompareOp} (h : Claims.compareOp i s = some w) :
    CompareWord i s w := by
  cases i
  case eq t c a b n m => exact .of_some h (fun _ => rfl) (compareBody_fields s t c a b n m (by decide))
  case ne t c a b n m => exact .of_some h (fun _ => rfl) (compareBody_fields s t c a b n m (by decide))
  case lt t c a b n m => exact .of_some h (fun _ => rfl) (compareBody_fields s t c a b n m (by decide))
  case le t c a b n m => exact .of_some h (fun _ => rfl) (compareBody_fields s t c a b n m (by decide))
  case gt t c a b n m => exact .of_some h (fun _ => rfl) (compareBody_fields s t c a b n m (by decide))
  case ge t c a b n m => exact .of_some h (fun _ => rfl) (compareBody_fields s t c a b n m (by decide))
  case isnz t c a n m =>
    refine .of_some h (fun _ => rfl) (compareBody_source rfl (by rw [isFloat_eq]) (fun _ => rfl) fun _ e => ?_)
    simp only [isFloat_eq, Nat.pos_iff_ne_zero]
    rfl
  case eqx t c a b n m => exact .of_some h (fun _ => rfl) (compareBody_scalar s t c a b n m (by decide))
  case nex t c a b n m => exact .of_some h (fun _ => rfl) (compareBody_scalar s t c a b n m (by decide))
  case ltx t c a b n m => exact .of_some h (fun _ => rfl) (compareBody_scalar s t c a b n m (by decide))
  case lex t c a b n m => exact .of_some h (fun _ => rfl) (compareBody_scalar s t c a b n m (by decide))
  case gtx t c a b n m => exact .of_some h (fun _ => rfl) (compareBody_scalar s t c a b n m (by decide))
  case gex t c a b n m => exact .of_some h (fun _ => rfl) (compareBody_scalar s t c a b n m (by decide))
  case matchKey t c a b n m =>
    exact .of_some h (fun _ => rfl) (compareBody_source rfl rfl (fun _ => rfl) fun hn e =>
      congrArg (·, 0) (matches_eq _ _ (wid_le hn)))
  case rangeKey t c a b n m =>
    refine .of_some h (fun _ => rfl) (compareBody_source rfl rfl (intOrFloat_eq s a).trans fun _ e => ?_)
    simp only [← testNum_eq (show 3 < 6 by decide), ← testNum_eq (show 2 < 6 by decide), num_eq_ival, key_eq, ← Bool.decide_and]
    rfl
  all_goals exact (Option.some_ne_none _ h.symm).elim

end Sys2Proof.Machine

namespace Sys2Proof.Proofs

open Sys2Proof.Machine

/-- Settles O19: each compare is the frame of compares around the condition of its table (`compareWord_of_compareOp`). -/
theorem comparesWriteTheirTag : Obligations.ComparesWriteTheirTag := by
  intro i s h w hw hready hc n rb old
  obtain ⟨f, hexec, hbody⟩ := compareWord_of_compareOp hw
  have hrb : s.due.rowbase = rb := due_rowbase hc
  have hme : s.due.me = h := State.due_me hc
  rw [exec_ready hexec hready]
  refine ⟨fun hn => ?_, fun hn hfit hadm hb => ⟨fun e =>
    if s.due.tagged w.mask e then combine w.combine (old e) (w.cond e).1 else old e, fun e _ => ?_, ?_⟩⟩
  · rw [hbody.zero hn]
    rfl
  · simp only [State.tagged, hme]
    rfl
  · rw [hbody.done hn ((fieldsFit_due hc _).2 hfit) hadm (by rwa [hrb]), State.compareRows, hme, hrb]
    simp only [State.tagged, hme]
    rfl

end Sys2Proof.Proofs
end

section
/-! PROOFS. The narrowing of VTOPK and VBOTK (06 R149): which rows it keeps, and the least of them. -/

namespace Sys2Proof.Machine

/-! ## The rows that narrowing keeps -/

/-- Of two rows with their keys, q ranks above e by the low j bits of the keys: its key is greater there, or as great and its place
lower. -/
def outranks (j : Nat) (q e : Nat × Nat) : Bool :=
  decide (e.2 % 2 ^ j < q.2 % 2 ^ j) || (decide (q.2 % 2 ^ j = e.2 % 2 ^ j) && decide (q.1 < e.1))

theorem outranks_zero (q e : Nat × Nat) : outranks 0 q e = decide (q.1 < e.1) := by
  simp [outranks, Nat.mod_one]

/-- Bit j decides between rows that differ in it, and the bits below it between others. -/
theorem outranks_succ (j : Nat) (q e : Nat × Nat) :
    outranks (j + 1) q e = if q.2.testBit j = e.2.testBit j then outranks j q e else q.2.testBit j := by
  have low : ∀ x : Nat, x % 2 ^ (j + 1) = x % 2 ^ j + 2 ^ j * (x.testBit j).toNat := fun x => by
    rw [Nat.pow_succ, Nat.mod_mul, Nat.toNat_testBit]
  have hq := Nat.mod_lt q.2 (Nat.two_pow_pos j)
  have he := Nat.mod_lt e.2 (Nat.two_pow_pos j)
  rw [outranks, low, low]
  cases q.2.testBit j <;> cases e.2.testBit j
  · simp [outranks]
  · simp only [Bool.toNat_true, mul_one, Bool.toNat_false, mul_zero, add_zero, Bool.false_eq_true, ↓reduceIte,
      Bool.or_eq_false_iff, decide_eq_false_iff_not, not_lt, Bool.and_eq_false_imp, decide_eq_true_eq]
    omega
  · simp only [Bool.toNat_false, mul_zero, add_zero, Bool.toNat_true, mul_one, Bool.true_eq_false, ↓reduceIte,
      Bool.or_eq_true, decide_eq_true_eq, Bool.and_eq_true]
    omega
  · simp [outranks]

/-- Of rows in rising order, the first m are those with fewer than m rows below them. -/
theorem mem_take_iff_countP {l : List (Nat × Nat)} (hl : l.Pairwise (·.1 < ·.1)) (m : Nat) (x : Nat × Nat) :
    x ∈ l.take m ↔ x ∈ l ∧ l.countP (fun q => decide (q.1 < x.1)) < m := by
  induction hl generalizing m with
  | nil => simp
  | @cons y ys hy _ ih =>
    cases m with
    | zero => simp
    | succ m =>
      rw [List.take_succ_cons, List.mem_cons, List.mem_cons, ih, List.countP_cons]
      by_cases hx : x ∈ ys
      · have hlt := hy x hx
        have hne : x ≠ y := fun h => lt_irrefl _ (h ▸ hlt)
        simp [hx, hlt, hne]
      · have hnone : x = y → ys.countP (fun q => decide (q.1 < x.1)) = 0 := by
          rintro rfl
          exact List.countP_eq_zero.2 fun q hq => by simpa using (hy q hq).le
        constructor
        · rintro (rfl | h)
          · simp [hnone rfl]
          · exact absurd h.1 hx
        · rintro ⟨h | h, -⟩
          exacts [.inl h, absurd h hx]

/-- Counting the rows above a row by one more bit: those with that bit, if the row has it; else all of them, and of the rest those
above it by the bits below. -/
theorem countP_outranks_succ (j : Nat) (l : List (Nat × Nat)) (x : Nat × Nat) :
    l.countP (outranks (j + 1) · x) =
      if x.2.testBit j then (l.filter fun q => q.2.testBit j).countP (outranks j · x)
      else (l.filter fun q => q.2.testBit j).length + (l.filter fun q => !q.2.testBit j).countP (outranks j · x) := by
  have parts : l.countP (outranks (j + 1) · x) =
      (l.filter fun q => q.2.testBit j).countP (outranks (j + 1) · x) +
        (l.filter fun q => !q.2.testBit j).countP (outranks (j + 1) · x) := by
    simpa using List.countP_eq_countP_filter_add l (outranks (j + 1) · x) fun q => q.2.testBit j
  have one : ∀ q ∈ l.filter (fun q => q.2.testBit j), q.2.testBit j = true := fun q hq => (List.mem_filter.1 hq).2
  have zero : ∀ q ∈ l.filter (fun q => !q.2.testBit j), q.2.testBit j = false := fun q hq => by simpa using (List.mem_filter.1 hq).2
  rw [parts]
  cases hx : x.2.testBit j
  · rw [if_neg (by simp)]
    congr 1
    · rw [List.countP_eq_length]
      intro q hq
      simp [outranks_succ, one q hq, hx]
    · refine List.countP_congr fun q hq => ?_
      simp [outranks_succ, zero q hq, hx]
  · have none_above : (l.filter fun q => !q.2.testBit j).countP (outranks (j + 1) · x) = 0 :=
      List.countP_eq_zero.2 fun q hq => by simp [outranks_succ, zero q hq, hx]
    rw [if_pos rfl, none_above, Nat.add_zero]
    refine List.countP_congr fun q hq => ?_
    simp [outranks_succ, one q hq, hx]

/-- The narrowing over the low j bits of the keys keeps the rows that are sure, and of the candidates those that, with the sure
ones, fewer than k rows rank above. -/
theorem mem_narrow (k j : Nat) {cand : List (Nat × Nat)} (sure : List (Nat × Nat)) (hc : cand.Pairwise (·.1 < ·.1)) (r : Nat) :
    r ∈ narrow k j cand sure ↔
      r ∈ sure.map (·.1) ∨ ∃ x ∈ cand, x.1 = r ∧ sure.length + cand.countP (outranks j · x) < k := by
  induction j generalizing cand sure with
  | zero =>
    simp only [narrow, List.mem_append, List.mem_map (l := List.take _ _), mem_take_iff_countP hc, outranks_zero, Nat.lt_sub_iff_add_lt']
    refine or_congr_right (exists_congr fun x => ?_)
    tauto
  | succ j ih =>
    simp only [narrow, countP_outranks_succ]
    split
    · rename_i hk
      rw [ih _ (hc.filter _)]
      refine or_congr_right (exists_congr fun x => ?_)
      cases hx : x.2.testBit j
      · simp only [List.mem_filter, hx, Bool.false_eq_true, and_false, false_and, ↓reduceIte, false_iff, not_and, not_lt]
        omega
      · simp [hx]
    · rename_i hk
      rw [ih _ (hc.filter _), List.map_append, List.mem_append, or_assoc]
      refine or_congr_right ?_
      rw [List.mem_map, ← exists_or]
      refine exists_congr fun x => ?_
      cases hx : x.2.testBit j
      · simp [hx, Nat.add_assoc]
      · have hle := List.countP_le_length (p := (outranks j · x)) (l := cand.filter fun q => q.2.testBit j)
        simp only [List.mem_filter, hx, and_true, Bool.not_true, Bool.false_eq_true, and_false, List.length_append, false_and,
          or_false, ↓reduceIte, and_congr_right_iff, iff_self_and]
        omega

/-- The rows of a list that fewer than k of its rows rank above, equal ranks by their place. -/
def keptRows (rank : Nat → Nat) (k : Nat) (rows : List Nat) : List Nat :=
  rows.filter fun e =>
    decide ((rows.filter fun q => decide (rank e < rank q) || (decide (rank q = rank e) && decide (q < e))).length < k)

/-- The rows with the ranks that narrowing works on. -/
def withRanks (rank : Nat → Nat) (rows : List Nat) : List (Nat × Nat) := rows.map fun e => (e, rank e)

/-- Narrowing over all bits of the ranks keeps those rows. -/
theorem mem_narrow_withRanks {rank : Nat → Nat} {w : Nat} (hw : ∀ e, rank e < 2 ^ w) {rows : List Nat} (hrows : rows.Pairwise (· < ·))
    (k e : Nat) : e ∈ narrow k w (withRanks rank rows) [] ↔ e ∈ keptRows rank k rows := by
  rw [mem_narrow k w (cand := withRanks rank rows) [] (List.pairwise_map.2 hrows) e]
  simp [withRanks, keptRows, outranks, List.countP_map, Function.comp_def, Nat.mod_eq_of_lt (hw _), ← List.countP_eq_length_filter]

theorem contains_narrow_withRanks {rank : Nat → Nat} {w : Nat} (hw : ∀ e, rank e < 2 ^ w) {rows : List Nat}
    (hrows : rows.Pairwise (· < ·)) (k e : Nat) :
    (narrow k w (withRanks rank rows) []).contains e = (keptRows rank k rows).contains e := by
  rw [Bool.eq_iff_iff, List.contains_iff_mem, List.contains_iff_mem, mem_narrow_withRanks hw hrows]

/-- The rows with ranks that lie among those kept are those kept, with their ranks. -/
theorem filter_withRanks (rank : Nat → Nat) (k : Nat) (rows : List Nat) :
    (withRanks rank rows).filter (fun r => (keptRows rank k rows).contains r.1) = withRanks rank (keptRows rank k rows) := by
  rw [withRanks, List.filter_map, withRanks]
  refine congrArg _ (List.filter_congr fun e he => ?_)
  simp [keptRows, he]

/-! ## The best row of a list -/

/-- The row kept so far, or the next one where that is better. -/
def keepBetter (better : Nat → Nat → Prop) [DecidableRel better] (a : Option Nat) (e : Nat) : Option Nat :=
  match a with
  | some b => if better e b then some e else a
  | none => some e

theorem bestRow_cons (better : Nat → Nat → Bool) (e : Nat) (es : List Nat) :
    Claims.bestRow better (e :: es) = some ((Claims.bestRow better es).elim e fun q => if better q e then q else e) := by
  rw [Claims.bestRow]
  cases Claims.bestRow better es with
  | none => rfl
  | some q => exact (apply_ite some _ _ _).symm

/-- Going through a list with the row kept so far gives the first row that no other beats, where better is an order of keys. -/
theorem foldl_keepBetter {better : Nat → Nat → Prop} [DecidableRel better] (trans : ∀ x y z, better x y → better y z → better x z)
    (weak : ∀ x y z, ¬ better x y → ¬ better y z → ¬ better x z) (l : List Nat) :
    l.foldl (keepBetter better) none = Claims.bestRow (fun q e => decide (better q e)) l := by
  have kept : ∀ (l : List Nat) (b : Nat),
      l.foldl (keepBetter better) (some b) = Claims.bestRow (fun q e => decide (better q e)) (b :: l) := by
    intro l
    induction l with
    | nil => exact fun _ => rfl
    | cons e l ih =>
      intro b
      have hstep : keepBetter better (some b) e = some (if better e b then e else b) := (apply_ite some _ _ _).symm
      rw [List.foldl_cons, hstep, ih, bestRow_cons, bestRow_cons, bestRow_cons]
      cases Claims.bestRow (fun q e => decide (better q e)) l with
      | none => simp
      | some q =>
        by_cases heb : better e b <;> by_cases hqe : better q e
        · simp [hqe, trans q e b hqe heb, heb]
        · simp [hqe, heb]
        · simp [hqe, heb]
        · simp [hqe, heb, weak q e b hqe heb]
  cases l with
  | nil => rfl
  | cons b l => exact kept l b

theorem foldl_keepLess (rank : Nat → Nat) (l : List Nat) :
    l.foldl (keepBetter fun q e => rank q < rank e) none = Claims.bestRow (fun q e => decide (rank q < rank e)) l :=
  foldl_keepBetter (better := fun q e => rank q < rank e) (fun _ _ _ => lt_trans)
    (fun _ _ _ h h' => not_lt.2 ((not_lt.1 h').trans (not_lt.1 h))) l

theorem foldl_keepGreater (rank : Nat → Nat) (l : List Nat) :
    l.foldl (keepBetter fun q e => rank e < rank q) none = Claims.bestRow (fun q e => decide (rank e < rank q)) l :=
  foldl_keepBetter (better := fun q e => rank e < rank q) (fun _ _ _ h h' => lt_trans h' h)
    (fun _ _ _ h h' => not_lt.2 ((not_lt.1 h).trans (not_lt.1 h'))) l

/-- The row with the least rank of a list of rows with their ranks, as VTOPK and VBOTK look for it. -/
def leastRanked (l : List (Nat × Nat)) : Option (Nat × Nat) :=
  l.foldl (fun a r => match a with
    | some b => if r.2 < b.2 then some r else a
    | none => some r) none

theorem leastRanked_withRanks (rank : Nat → Nat) (rows : List Nat) :
    leastRanked (withRanks rank rows) =
      (Claims.bestRow (fun q e => decide (rank q < rank e)) rows).map fun e => (e, rank e) := by
  rw [← foldl_keepLess, leastRanked, withRanks, List.foldl_map]
  refine List.foldl_hom (Option.map fun e => (e, rank e)) (fun a e => ?_) (init := none)
  cases a with
  | none => rfl
  | some b => by_cases h : rank e < rank b <;> simp [keepBetter, h]

end Sys2Proof.Machine
end

section
/-! PROOFS. Queries (06 R145 to R150): the frame of a query, and the queries one by one. -/

namespace Sys2Proof.Machine

/-! ## The array frame of a word with a result of its own for no rows, and a check of its own (01 R36, R37, 06 R150) -/

section
variable {s : State} {n p : Nat} {ops : List (VReg × (FieldDesc → Bool))} {f empty : State → State}

theorem State.array_empty (h : n = 0) (late : Option Dword) : s.array n ops p f empty late = .retire (empty s) := if_pos h

theorem State.array_late (hn : 0 < n) (h : s.self.checkFields [] ops = none) (hb : s.rowbase + n ≤ 16384) (v : Dword) :
    s.array n ops p f empty (some v) = .trap s causeBounds v := by
  simp only [State.array, if_neg hn.ne', h, if_neg (Nat.not_lt.2 hb)]

theorem State.array_effect (hn : 0 < n) (h : s.self.checkFields [] ops = none) (hb : s.rowbase + n ≤ 16384) :
    s.array n ops p f empty none = .retire ((f s).occupy p) := by
  simp only [State.array, if_neg hn.ne', h, if_neg (Nat.not_lt.2 hb)]

end

/-! ## Bodies of queries -/

/-- Body b of a word performs query w in state s: it is the frame of queries, over the sources of w, for its passes and with its
latency, empty value and limit, with class rules that hold where w suits its sources, and, where these have columns, with the result
of w. -/
def QueryBody (s : State) (w : Claims.QueryOp) (b : Flow) : Prop :=
  ∃ (ops : List (VReg × (FieldDesc → Bool))) (passes lat : Nat) (none_ : Dword)
    (f : State → Nat → Dword × Flags × Option (Nat → Bool)),
    b = queryWord w.dest w.tag w.count ops passes lat none_ f s w.late ∧
    ops.map Prod.fst = w.sources ∧ passes = w.passes ∧ lat = w.latency ∧ none_ = w.empty ∧
    (w.admits = true → ∀ p ∈ ops, p.2 (s.fieldOf p.1) = true) ∧
    ((∀ v ∈ w.sources, (s.fieldOf v).width ≠ 0) → f s (s.rx w.count).toNat = (w.value, w.flags, w.narrowed))

theorem fieldsFit_width {t : Hart} {vs : List VReg} (h : Claims.fieldsFit t vs) : ∀ v ∈ vs, (t.field v).width ≠ 0 := by
  induction vs with
  | nil => simp
  | cons v vs ih =>
    obtain ⟨⟨hwidth, -⟩, -, hrest⟩ := h
    exact List.forall_mem_cons.2 ⟨hwidth, ih hrest⟩

/-- The flags and the result of a query, which comes its latency after its passes. -/
def State.answered (s : State) (w : Claims.QueryOp) : State :=
  (s.raise w.flags).resultAt w.dest w.value (s.now + passCycles w.passes (s.cluster s.myCluster).laneCode + w.latency) .query

section
variable {s : State} {w : Claims.QueryOp} {b : Flow}

theorem QueryBody.zero (h : QueryBody s w b) (hn : (s.rx w.count).toNat = 0) :
    b = .retire (s.resultAt w.dest w.empty (s.now + 1)) := by
  obtain ⟨ops, passes, lat, empty, f, rfl, -, -, -, rfl, -⟩ := h
  rw [queryWord, State.array_empty hn]

theorem QueryBody.late (h : QueryBody s w b) (hn : 0 < (s.rx w.count).toNat) (hfit : Claims.fieldsFit s.self w.sources)
    (hadm : w.admits = true) (hb : s.rowbase + (s.rx w.count).toNat ≤ 16384) {v : Dword} (hv : w.late = some v) :
    b = .trap s causeBounds v := by
  obtain ⟨ops, passes, lat, empty, f, rfl, hsrcs, -, -, -, hrules, -⟩ := h
  rw [queryWord, hv, State.array_late hn (State.checkFields_sources hsrcs hfit (hrules hadm)) hb]

theorem QueryBody.done (h : QueryBody s w b) (hn : 0 < (s.rx w.count).toNat) (hfit : Claims.fieldsFit s.self w.sources)
    (hadm : w.admits = true) (hb : s.rowbase + (s.rx w.count).toNat ≤ 16384) (hv : w.late = none) :
    (w.narrowed = none → b = .retire ((s.answered w).occupy w.passes)) ∧
    ∀ g, w.narrowed = some g →
      b = .retire (((s.answered w).setTags s.me w.tag.toNat s.rowbase (s.rx w.count).toNat g).occupy w.passes) := by
  obtain ⟨ops, passes, lat, empty, f, rfl, hsrcs, rfl, rfl, -, hrules, hresult⟩ := h
  have hresult := hresult (fieldsFit_width hfit)
  rw [hv, queryWord, State.array_effect hn (State.checkFields_sources hsrcs hfit (hrules hadm)) hb]
  simp only [hresult]
  refine ⟨fun hnone => ?_, fun g hg => ?_⟩
  · rw [hnone]
    rfl
  · rw [hg]
    rfl

end

/-- A body with no field source. -/
theorem queryBody_tag {s : State} {w : Claims.QueryOp} {p lat : Nat} {none_ : Dword}
    {f : State → Nat → Dword × Flags × Option (Nat → Bool)}
    (hs : w.sources = []) (hp : p = w.passes) (hlat : lat = w.latency) (hempty : none_ = w.empty) (hlate : w.late = none)
    (hf : f s (s.rx w.count).toNat = (w.value, w.flags, w.narrowed)) :
    QueryBody s w (queryWord w.dest w.tag w.count [] p lat none_ f s) :=
  ⟨[], p, lat, none_, f, by rw [hlate], hs.symm, hp, hlat, hempty, fun _ => by simp, fun _ => hf⟩

/-- A body with one field source. -/
theorem queryBody_source {s : State} {w : Claims.QueryOp} {v : VReg} {ok : FieldDesc → Bool} {p lat : Nat} {none_ : Dword}
    {f : State → Nat → Dword × Flags × Option (Nat → Bool)}
    (hs : w.sources = [v]) (hp : p = w.passes) (hlat : lat = w.latency) (hempty : none_ = w.empty)
    (hr : w.admits = true → ok (s.fieldOf v) = true)
    (hf : (s.fieldOf v).width ≠ 0 → f s (s.rx w.count).toNat = (w.value, w.flags, w.narrowed)) :
    QueryBody s w (queryWord w.dest w.tag w.count [(v, ok)] p lat none_ f s w.late) :=
  ⟨_, p, lat, none_, f, rfl, hs.symm, hp, hlat, hempty, fun hadm => List.forall_mem_singleton.2 (hr hadm),
    fun hw => hf (hw v (by rw [hs]; exact List.mem_singleton_self v))⟩

/-- A word performs a query: its meaning is a body in the frame of R79 that performs it. -/
def QueryWord (i : Instr) (s : State) (w : Claims.QueryOp) : Prop :=
  ∃ f, (∀ t, exec i t = .next (runWord i f t)) ∧ QueryBody s w (f s)

theorem QueryWord.of_some {i : Instr} {s : State} {v w : Claims.QueryOp} {f : State → Flow} (h : some v = some w)
    (hexec : ∀ t, exec i t = .next (runWord i f t)) (hbody : QueryBody s v (f s)) : QueryWord i s w :=
  ⟨f, hexec, Option.some.inj h ▸ hbody⟩

/-! ## Values -/

theorem toScalar_eq (s : State) (v : VReg) (e : Nat) :
    (s.fieldOf v).toScalar (s.raw (s.fieldOf v) e) = Claims.valueOf s v e := by
  simp only [Claims.valueOf, num_eq_ival]
  rfl

theorem lambda1_eq (n : Nat) : lambda1 n = Claims.lam n := by
  rw [lambda1, ceilLog2_eq_clog, Claims.lam]

theorem orderKey_eq (s : State) (v : VReg) (e : Nat) :
    (s.fieldOf v).orderKey (s.raw (s.fieldOf v) e) = Claims.orderKey s v e := by
  simp only [FieldDesc.orderKey, Claims.orderKey, type_beq, signed_eq, decide_eq_true_eq]
  rfl

/-- The order key has the width of its field. -/
theorem orderKey_lt (s : State) {v : VReg} (hw : (s.fieldOf v).width ≠ 0) (e : Nat) : Claims.orderKey s v e < 2 ^ Claims.wid s v := by
  have hpos : 0 < Claims.wid s v := Nat.pos_of_ne_zero fun h => hw (BitVec.eq_of_toNat_eq h)
  have hpow := Nat.two_pow_pos (Claims.wid s v)
  have hflip : Claims.bits s v e ^^^ 2 ^ (Claims.wid s v - 1) < 2 ^ Claims.wid s v :=
    Nat.xor_lt_two_pow (bits_lt s v e) (Nat.pow_lt_pow_right (by decide) (by omega))
  simp only [Claims.orderKey]
  split
  · exact bits_lt s v e
  · split
    · exact hflip
    · split
      · omega
      · exact hflip

/-- The rows of a range rise strictly. -/
theorem State.pairwise_lt_range (s : State) (n : Nat) : (s.range n).Pairwise (· < ·) := by
  rw [State.range_eq_range']
  exact List.pairwise_lt_range'

theorem State.pairwise_ranked (s : State) (t : Tag) (d : FieldDesc) (n : Nat) : (s.ranked t d n).Pairwise (· < ·) :=
  (((s.pairwise_lt_range n).filter _).filter _).filter _

/-! ## Reductions and narrowing queries (06 R147, R149) -/

/-- VREDMAX and VREDMIN, as in the table. -/
def reduceOp (s : State) (top : Bool) (d : Reg) (t : Tag) (v : VReg) (n : Reg) : Claims.QueryOp :=
  { dest := d, tag := t, count := n, sources := [v], admits := Claims.isI s v || Claims.isF s v,
    passes := if Claims.isI s v then 2 * Claims.wid s v + 1 else ((s.rx n).toNat + 15) / 16 + 4,
    latency := if Claims.isI s v then 2 else 8 + 4 * Claims.lam (s.rx n).toNat,
    value := match s.candidates t (s.rx n).toNat with
      | [] => 0
      | e :: es =>
        if Claims.isI s v then
          BitVec.ofInt 64 (es.foldl (fun a q => if top then max a (Claims.num s v q) else min a (Claims.num s v q)) (Claims.num s v e))
        else
          BitVec.ofNat 64 ((s.self.field v).fmt.round 0
            (es.foldl (fun a q => Num.minMax top a (Claims.flt s v q)) (Claims.flt s v e))).1 }

/-- The rank of a row: the order key for VTOPK, its complement for VBOTK. -/
def topRank (s : State) (top : Bool) (v : VReg) (e : Nat) : Nat :=
  if top then Claims.orderKey s v e else 2 ^ Claims.wid s v - 1 - Claims.orderKey s v e

/-- VTOPK and VBOTK, as in the table. -/
def topOp (s : State) (top : Bool) (d : Reg) (t : Tag) (v : VReg) (n : Reg) : Claims.QueryOp :=
  let k := (s.rx d).toNat
  let kept := keptRows (topRank s top v) k (s.ranked t (s.fieldOf v) (s.rx n).toNat)
  { dest := d, tag := t, count := n, sources := [v], admits := Claims.isI s v || Claims.isF s v,
    late := if 8192 < k then some (s.rx d) else none,
    passes := 3 * Claims.wid s v + min k (s.rx n).toNat + 4 + (if Claims.isI s v then 0 else 2 * Claims.wid s v + 2), latency := 2,
    value := match Claims.bestRow (fun q e => decide (topRank s top v q < topRank s top v e)) kept with
      | none => 0
      | some e => Claims.valueOf s v e,
    narrowed := some fun e => kept.contains e }

/-- VMAXLOC, as in the table. -/
def maxlocOp (s : State) (d : Reg) (t : Tag) (v : VReg) (n : Reg) : Claims.QueryOp :=
  let best := Claims.bestRow (fun q e => decide (Claims.orderKey s v e < Claims.orderKey s v q))
    (s.ranked t (s.fieldOf v) (s.rx n).toNat)
  { dest := d, tag := t, count := n, sources := [v], admits := Claims.isI s v || Claims.isF s v,
    passes := 2 * Claims.wid s v + 2 + (if Claims.isI s v then 0 else 2 * Claims.wid s v + 2), latency := 14, empty := -1,
    value := match best with
      | none => -1
      | some e => BitVec.ofNat 64 (e - s.rowbase),
    narrowed := some fun e => best == some e }

theorem topRank_lt (s : State) (top : Bool) {v : VReg} (hw : (s.fieldOf v).width ≠ 0) (e : Nat) :
    topRank s top v e < 2 ^ Claims.wid s v := by
  have hkey := orderKey_lt s hw e
  rw [topRank]
  split <;> omega

/-- The rows with their ranks, as VTOPK and VBOTK form them. -/
theorem map_ranks (s : State) (top : Bool) (v : VReg) (rows : List Nat) :
    rows.map (fun e => (e, if top then (s.fieldOf v).orderKey (s.raw (s.fieldOf v) e)
      else 2 ^ (s.fieldOf v).w - 1 - (s.fieldOf v).orderKey (s.raw (s.fieldOf v) e))) = withRanks (topRank s top v) rows := by
  simp only [orderKey_eq]
  rfl

section
variable (s : State) (top : Bool) (d : Reg) (t : Tag) (v : VReg) (n : Reg)

theorem queryBody_reduce : QueryBody s (reduceOp s top d t v n) (redMinMax top d t v n s) := by
  unfold redMinMax
  refine queryBody_source (w := reduceOp s top d t v n) rfl rfl (by rw [lambda1_eq]; rfl) rfl (intOrFloat_eq s v).trans fun _ => ?_
  simp only [reduceOp, isInt_eq, ← num_eq_ival]
  cases s.candidates t (s.rx n).toNat with
  | nil => rfl
  | cons e es => cases Claims.isI s v <;> rfl

theorem queryBody_top : QueryBody s (topOp s top d t v n) (topWord top d t v n s) := by
  unfold topWord
  refine queryBody_source (w := topOp s top d t v n) rfl rfl rfl rfl (intOrFloat_eq s v).trans fun hw => ?_
  have hkeep := contains_narrow_withRanks (topRank_lt s top hw) (s.pairwise_ranked t (s.fieldOf v) (s.rx n).toNat) (s.rx d).toNat
  have hwid : (s.fieldOf v).w = Claims.wid s v := rfl
  simp only [topOp]
  rw [map_ranks, hwid]
  simp only [hkeep, filter_withRanks, toScalar_eq]
  refine (congrArg (fun least : Option (Nat × Nat) =>
    ((match least with
      | some r => Claims.valueOf s v r.1
      | none => 0 : Dword), (0 : Flags), some _)) (leastRanked_withRanks (topRank s top v) _)).trans ?_
  cases Claims.bestRow (fun q e => decide (topRank s top v q < topRank s top v e)) (keptRows (topRank s top v) (s.rx d).toNat
    (s.ranked t (s.fieldOf v) (s.rx n).toNat)) <;> rfl

theorem queryWord_maxloc : QueryWord (.vmaxloc d t v n) s (maxlocOp s d t v n) := by
  refine ⟨_, fun _ => rfl, queryBody_source (w := maxlocOp s d t v n) rfl rfl rfl rfl (intOrFloat_eq s v).trans fun _ => ?_⟩
  simp only [orderKey_eq, maxlocOp]
  refine (congrArg (fun best : Option Nat =>
    ((match best with
      | some e => BitVec.ofNat 64 (e - s.rowbase)
      | none => BitVec.allOnes 64 : Dword), (0 : Flags), some fun e => best == some e))
    (foldl_keepGreater (Claims.orderKey s v) _)).trans ?_
  cases Claims.bestRow (fun q e => decide (Claims.orderKey s v e < Claims.orderKey s v q))
    (s.ranked t (s.fieldOf v) (s.rx n).toNat) <;> rfl

end

/-! ## The queries (06 R147, R148) -/

/-- What is made of the first row of a list, if it has one. -/
theorem match_head? {α : Type} (l : List Nat) (f : Nat → α) (x : α) :
    (match l.head? with
      | some e => f e
      | none => x) = match l with
      | [] => x
      | e :: _ => f e := by
  cases l <;> rfl

/-- Every word of the table performs its query. -/
theorem queryWord_of_queryOp {i : Instr} {s : State} {w : Claims.QueryOp} (h : Claims.queryOp i s = some w) : QueryWord i s w := by
  cases i
  case vcount d t n => exact .of_some h (fun _ => rfl) (queryBody_tag rfl rfl rfl rfl rfl rfl)
  case vany d t n =>
    refine .of_some h (fun _ => rfl) (queryBody_tag rfl rfl rfl rfl rfl ?_)
    simp only [List.isEmpty_iff]
    rfl
  case vfirstx d t n =>
    exact .of_some h (fun _ => rfl) (queryBody_tag rfl rfl rfl rfl rfl
      (congrArg (·, 0, none) (match_head? (s.responders t (s.rx n).toNat) (fun e => BitVec.ofNat 64 (e - s.rowbase)) _)))
  case vextr d t v n =>
    refine .of_some h (fun _ => rfl) (queryBody_source rfl rfl rfl rfl (fun _ => rfl) fun _ => ?_)
    simp only [toScalar_eq]
    exact congrArg (·, 0, none) (match_head? (s.responders t (s.rx n).toNat) (Claims.valueOf s v) _)
  case vredsum d t v n =>
    refine .of_some h (fun _ => rfl) (queryBody_source rfl rfl (by rw [lambda1_eq]; rfl) rfl (intOrFloat_eq s v).trans fun _ => ?_)
    simp only [isInt_eq, ← num_eq_ival, List.sum_eq_foldl, List.foldl_map]
    cases Claims.isI s v <;> rfl
  case vredmax d t v n => exact .of_some (v := reduceOp s true d t v n) h (fun _ => rfl) (queryBody_reduce s true d t v n)
  case vredmin d t v n => exact .of_some (v := reduceOp s false d t v n) h (fun _ => rfl) (queryBody_reduce s false d t v n)
  case vtopk d t v n => exact .of_some (v := topOp s true d t v n) h (fun _ => rfl) (queryBody_top s true d t v n)
  case vbotk d t v n => exact .of_some (v := topOp s false d t v n) h (fun _ => rfl) (queryBody_top s false d t v n)
  case vmaxloc d t v n => exact Option.some.inj (show some (maxlocOp s d t v n) = some w from h) ▸ queryWord_maxloc s d t v n
  all_goals exact (Option.some_ne_none _ h.symm).elim

end Sys2Proof.Machine

namespace Sys2Proof.Proofs

open Sys2Proof.Machine

/-- Settles O20: each query is the frame of queries around the result of its table (`queryWord_of_queryOp`); the narrowing of VTOPK and
VBOTK keeps the rows that fewer than k rows rank above (`mem_narrow`), and the lists that look for a best row find the table's
(`foldl_keepBetter`). -/
theorem queriesAnswerAndNarrow : Obligations.QueriesAnswerAndNarrow := by
  intro i s h w hw hready hc n rb lane ok
  obtain ⟨f, hexec, hbody⟩ := queryWord_of_queryOp hw
  have hrb : s.due.rowbase = rb := due_rowbase hc
  have hme : s.due.me = h := State.due_me hc
  rw [exec_ready hexec hready]
  refine ⟨fun hn => ?_, fun ⟨hn, hfit, hadm, hb⟩ v hv => ?_, fun ⟨hn, hfit, hadm, hb⟩ hv => ?_⟩
  · rw [hbody.zero hn, State.due_now]
    rfl
  · rw [hbody.late hn ((fieldsFit_due hc _).2 hfit) hadm (by rwa [hrb]) hv]
    rfl
  · obtain ⟨hplain, hnarrow⟩ := hbody.done hn ((fieldsFit_due hc _).2 hfit) hadm (by rwa [hrb]) hv
    have hcluster : s.due.cluster s.due.myCluster = s.cluster (clusterOfHart h) := by
      rw [State.due_cluster, State.myCluster, hme]
    have hanswered : s.due.answered w =
        (s.due.raise w.flags).resultAt w.dest w.value (s.now + w.passes * 2 ^ lane + w.latency) .query := by
      rw [State.answered, State.due_now, hcluster]
      rfl
    rw [hme, hrb, hanswered] at hnarrow
    rw [hanswered] at hplain
    refine ⟨fun hnone => ?_, fun g hg => ⟨g, fun _ _ => rfl, ?_⟩⟩
    · rw [hplain hnone]
      rfl
    · rw [hnarrow g hg]
      rfl

end Sys2Proof.Proofs
end

section
/-! PROOFS. Scans, words that move rows, and table look-ups (06 R151 to R159). -/

namespace Sys2Proof.Machine

/-! ## Bodies that give the selected rows a value and a validity -/

/-- Body b of a word performs row operation w in state s by an effect on rows: it is the array frame around that effect, over the
sources of w and for its passes, with class rules that hold where w suits its operands, and with the results of w in the rows that it
selects. -/
def EffectBody (effect : State → VReg → BitVec 1 → Nat → (Nat → Nat × Flags × Bool) → State) (s : State) (w : Claims.RowOp)
    (b : Flow) : Prop :=
  ∃ (ok : FieldDesc → Bool) (srcs : List (VReg × (FieldDesc → Bool))) (passes : Nat) (g : State → Nat → Nat × Flags × Bool),
    b = s.array (s.rx w.count).toNat (s.withCopy w.dest ok srcs) passes (fun t => effect t w.dest w.mask (s.rx w.count).toNat (g t)) ∧
    srcs.map Prod.fst = w.sources ∧ passes = w.passes ∧
    (w.admits = true → ok (s.fieldOf w.dest) = true ∧ ∀ p ∈ srcs, p.2 (s.fieldOf p.1) = true) ∧
    ∀ e, Claims.selected s w.mask (s.rx w.count).toNat e = true → g s e = w.row e

/-- A word performs a row operation by an effect: its meaning is a body in the frame of R79 that performs it. -/
def EffectWord (effect : State → VReg → BitVec 1 → Nat → (Nat → Nat × Flags × Bool) → State) (i : Instr) (s : State)
    (w : Claims.RowOp) : Prop :=
  ∃ f, (∀ t, exec i t = .next (runWord i f t)) ∧ EffectBody effect s w (f s)

section
variable {effect : State → VReg → BitVec 1 → Nat → (Nat → Nat × Flags × Bool) → State} {i : Instr} {s : State} {v w : Claims.RowOp}

theorem EffectWord.of_some {f : State → Flow} (h : some v = some w) (hexec : ∀ t, exec i t = .next (runWord i f t))
    (hbody : EffectBody effect s v (f s)) : EffectWord effect i s w :=
  ⟨f, hexec, Option.some.inj h ▸ hbody⟩

theorem EffectWord.zero (hword : EffectWord effect i s.due w) (hready : s.Ready i) (hn : (s.due.rx w.count).toNat = 0) :
    exec i s = .next s.due.retired := by
  obtain ⟨f, hexec, ok, srcs, passes, g, hbody, -⟩ := hword
  rw [exec_ready hexec hready, hbody, hn, State.array_zero]
  rfl

theorem EffectWord.done (hword : EffectWord effect i s.due w) (hready : s.Ready i) (hn : 0 < (s.due.rx w.count).toNat)
    (hfit : Claims.operandsFit s.due w.dest w.sources) (hadm : w.admits = true)
    (hb : s.due.rowbase + (s.due.rx w.count).toNat ≤ 16384) :
    ∃ f : Nat → Nat × Flags × Bool, (∀ e, Claims.selected s.due w.mask (s.due.rx w.count).toNat e → f e = w.row e) ∧
      exec i s = .next ((effect s.due w.dest w.mask (s.due.rx w.count).toNat f).occupy w.passes).retired := by
  obtain ⟨f, hexec, ok, srcs, passes, g, hbody, hsrcs, rfl, hrules, hrow⟩ := hword
  obtain ⟨hd, hs⟩ := hrules hadm
  refine ⟨g s.due, hrow, ?_⟩
  rw [exec_ready hexec hready, hbody, State.array_done _ _ hn (State.checkFields_withCopy (by rwa [hsrcs]) hd hs) hb]
  rfl

end

/-! ## Scans (06 R153) -/

/-- What has come together so far, and the contribution of one more row. -/
def scanStep (g : Int → Int → Int) (acc c : Option Int) : Option Int :=
  match acc, c with
  | some a, some b => some (g a b)
  | none, some b => some b
  | a, none => a

/-- The scan value of a row: the contributions of the rows up to it. -/
theorem find?_scanRows (g : Int → Int → Int) (c : Nat → Option Int) {rows : List Nat} (hrows : rows.Pairwise (· < ·)) {e : Nat}
    (he : e ∈ rows) (acc : Option Int) :
    ((scanRows g acc (rows.map fun q => (q, c q))).find? fun r => decide (r.1 = e)).bind Prod.snd =
      (rows.filter fun q => decide (q ≤ e)).foldl (fun a q => scanStep g a (c q)) acc := by
  induction hrows generalizing acc with
  | nil => exact nomatch he
  | @cons x xs hx _ ih =>
    have hstep : scanRows g acc ((x :: xs).map fun q => (q, c q)) =
        (x, scanStep g acc (c x)) :: scanRows g (scanStep g acc (c x)) (xs.map fun q => (q, c q)) := rfl
    rw [hstep]
    rcases List.mem_cons.1 he with rfl | he
    · have hlater : xs.filter (fun q => decide (q ≤ e)) = [] :=
        List.filter_eq_nil_iff.2 fun q hq => by simpa using hx q hq
      simp [hlater]
    · have hlt := hx e he
      rw [List.find?_cons_of_neg (by simpa using hlt.ne), ih he, List.filter_cons_of_pos (by simpa using hlt.le), List.foldl_cons]

/-- Contributions of the rows with a property come together in their order; with none there is no value. -/
theorem foldl_scanStep (g : Int → Int → Int) (p : Nat → Bool) (z : Nat → Int) (rows : List Nat) :
    rows.foldl (fun a q => scanStep g a (if p q then some (z q) else none)) none =
      match rows.filter p with
      | [] => none
      | q :: qs => some (qs.foldl (fun x q => g x (z q)) (z q)) := by
  have later : ∀ (rows : List Nat) (x : Int), rows.foldl (fun a q => scanStep g a (if p q then some (z q) else none)) (some x) =
      some ((rows.filter p).foldl (fun x q => g x (z q)) x) := by
    intro rows
    induction rows with
    | nil => exact fun _ => rfl
    | cons q rows ih =>
      intro x
      cases hp : p q
      · simpa [hp, scanStep] using ih x
      · simpa [hp, scanStep] using ih (g x (z q))
  induction rows with
  | nil => rfl
  | cons q rows ih =>
    cases hp : p q
    · simpa [hp, scanStep] using ih
    · simpa [hp, scanStep] using later rows (z q)

theorem scanValue_eq (s : State) (a : VReg) (m : BitVec 1) (n : Nat) (g : Int → Int → Int) (start : Int) {e : Nat}
    (he : Claims.selected s m n e = true) :
    (((scanRows g none (((s.range n).filter fun e => s.tagged m e).map fun e =>
      (e, if s.tgv s.me e then some (s.ival (s.fieldOf a) e) else none))).find? fun r => decide (r.1 = e)).bind Prod.snd).getD start =
      Claims.scanValue s a m n e g start := by
  have hrows : (s.selectedRows m n).Pairwise (· < ·) := (s.pairwise_lt_range n).filter _
  have hcontrib : ((s.selectedRows m n).filter fun q => decide (q ≤ e)).filter (s.tgv s.me) =
      (Claims.rowsOf s n).filter fun q => decide (q ≤ e) && (m == 0 || s.tag s.me 0 q) && s.tgv s.me q := by
    rw [State.selectedRows, List.filter_filter, List.filter_filter]
    refine List.filter_congr fun q _ => ?_
    rw [Bool.and_comm (s.tgv s.me q), Bool.and_right_comm]
    rfl
  have hfind := find?_scanRows g (fun e => if s.tgv s.me e then some (s.ival (s.fieldOf a) e) else none) hrows
    ((s.mem_selectedRows m n e).2 he) none
  rw [foldl_scanStep, hcontrib] at hfind
  refine (congrArg (Option.getD · start) hfind).trans ?_
  simp only [Claims.scanValue, num_eq_ival]
  cases (Claims.rowsOf s n).filter fun q => decide (q ≤ e) && (m == 0 || s.tag s.me 0 q) && s.tgv s.me q <;> rfl

/-- The body of a scan. -/
theorem effectBody_scan (s : State) (d a : VReg) (n : Reg) (m : BitVec 1) {w : Claims.RowOp} {cost : Nat → Nat} {g : Int → Int → Int}
    {start : FieldDesc → Int}
    (hw : w = ⟨d, [a], n, m, Claims.admitsI s d [a], cost (max (Claims.wid s a) (Claims.wid s d)) * Claims.lam (s.rx n).toNat,
      fun e => Claims.ires s d (Claims.scanValue s a m (s.rx n).toNat e g (start (s.fieldOf a)))⟩) :
    EffectBody State.forRows s w (scanWord d a n m cost g start s) := by
  subst hw
  unfold scanWord
  refine ⟨ruleI, [(a, ruleI)], _, _, rfl, rfl, by rw [lambda1_eq]; rfl, fun hadm => ?_, fun e he => ?_⟩
  · have hr := (admitsI_iff s d [a]).1 hadm
    exact ⟨hr d (by simp), by simpa using hr a (by simp)⟩
  · exact congrArg (Claims.ires s d) (scanValue_eq s a m _ g _ he)

theorem leastOf_eq (s : State) (a : VReg) : (s.fieldOf a).range.1 = Claims.leastOf s a := by
  rw [FieldDesc.range, signed_eq, Claims.leastOf]
  by_cases h : Claims.typ s a = 0
  · simp [h]
    rfl
  · simp [h]

/-- Every scan performs its row operation. -/
theorem effectWord_of_scanOp {i : Instr} {s : State} {w : Claims.RowOp} (h : Claims.scanOp i s = some w) :
    EffectWord State.forRows i s w := by
  cases i
  case vscanadd d a n m => exact .of_some h (fun _ => rfl) (effectBody_scan s d a n m rfl)
  case vscanmax d a n m => exact .of_some h (fun _ => rfl) (effectBody_scan s d a n m (by rw [leastOf_eq]))
  all_goals exact (Option.some_ne_none _ h.symm).elim

/-! ## Tables (06 R155, R157 to R159) -/

theorem tableSlot_eq (s : State) (l : BitVec 2) : s.tableSlot l = Claims.tableOf s l := by
  rw [State.tableSlot, Claims.tableOf, State.myCluster]
  cases (s.cluster (clusterOfHart s.me)).tables.getD l.toNat none <;> rfl

theorem segments_eq (t : List Byte) (ty : Nat) : segments t ty = Claims.segmentsOf t ty := by
  have hcond : (1 ≤ (t.getD 0 0).toNat ∧ (t.getD 0 0).toNat ≤ 63 ∧ (t.getD 1 0).toNat + 2 = ty) ↔
      ¬ ((t.getD 0 0).toNat = 0 ∨ 63 < (t.getD 0 0).toNat ∨ (t.getD 1 0).toNat + 2 ≠ ty) := by omega
  simp only [segments, Claims.segmentsOf, hcond, ite_not]
  rfl

/-- Going through a list with the last element so far that has a property gives the last of them. -/
theorem foldl_last (p : Nat → Bool) (l : List Nat) (d : Nat) : l.foldl (fun r i => if p i then i else r) d = (l.filter p).getLastD d := by
  induction l generalizing d with
  | nil => rfl
  | cons i l ih =>
    rw [List.foldl_cons, ih]
    cases hp : p i
    · rw [List.filter_cons_of_neg (by simp [hp])]
      rfl
    · rw [List.filter_cons_of_pos hp, List.getLastD_cons]
      rfl

theorem segmentOf_eq (f : Fmt) (x : Num) (g : List (Nat × Nat × Nat)) :
    segmentOf f x g = ((List.range g.length).filter fun j =>
      (f.decode (g.getD j (0, 0, 0)).1).lt x || (f.decode (g.getD j (0, 0, 0)).1).eq x).getLastD 0 :=
  foldl_last _ _ 0

theorem foldl_add_eq_sum_ite (p : Nat → Bool) (f : Nat → Nat) (l : List Nat) (v : Nat) :
    l.foldl (fun v j => if p j then v + f j else v) v = v + (l.map fun j => if p j then f j else 0).sum := by
  induction l generalizing v with
  | nil => rfl
  | cons j l ih => cases hp : p j <;> simp [hp, ih, Nat.add_assoc]

theorem tableEntry_eq (t : List Byte) (w e : Nat) : tableEntry t w e = Claims.packedEntry t w e :=
  (foldl_add_eq_sum_ite (fun j => (t.getD ((e * w + j) / 8) 0).getLsbD ((e * w + j) % 8)) (2 ^ ·) _ 0).trans (Nat.zero_add _)

theorem rounded_nan (d : FieldDesc) (mode : Nat) : rounded d mode (.nan, 0) = (d.fmt.nan, 0, true) :=
  congrArg (_, ·, true) BitVec.zero_or

/-- What VTLI gives in a row (06 R158): the NaN of its format for a NaN, else the segment of the last bound that is not above the
row's value, rounded once. -/
theorem interpolatedRow_eq (s : State) (d a : VReg) (g : List (Nat × Nat × Nat)) (e : Nat) (valid : Bool) :
    (let r := rounded (s.fieldOf d) s.rmode (interpolate (s.fieldOf a).fmt s.rmode g (s.fval (s.fieldOf a) e))
     (r.1, r.2.1, valid)) =
      let f := (s.self.field a).fmt
      let x := Claims.flt s a e
      if x.isNan then ((s.self.field d).fmt.nan, 0, valid)
      else
        let below := (List.range g.length).filter fun j => (f.decode (g.getD j (0, 0, 0)).1).lt x || (f.decode (g.getD j (0, 0, 0)).1).eq x
        let t := g.getD (below.getLastD 0) (0, 0, 0)
        let v := Claims.fres s d (Num.fma s.self.csr.rmode.toNat (f.decode t.2.1) x (f.decode t.2.2))
        (v.1, v.2.1, valid) := by
  have hx : Claims.flt s a e = s.fval (s.fieldOf a) e := rfl
  simp only [hx, interpolate, segmentOf_eq]
  cases (s.fval (s.fieldOf a) e).isNan with
  | false => rfl
  | true =>
    simp only [if_true, rounded_nan]
    rfl

/-! ## Words that move rows or look them up (06 R152, R157 to R159) -/

theorem firstRow_eq_head? (s : State) (n : Nat) (p : Nat → Bool) : s.firstRow n p = ((s.range n).filter p).head? := by
  rw [State.firstRow, List.head?_filter]

/-- The body of a word that moves rows or looks them up, with one field source. -/
theorem effectBody_move {s : State} {w : Claims.RowOp} {a : VReg} {rd ra : FieldDesc → Bool} {p : Nat}
    {f : State → Nat → Nat → Nat × Flags × Bool} (hs : w.sources = [a]) (hp : p = w.passes)
    (hr : w.admits = true → rd (s.fieldOf w.dest) = true ∧ ra (s.fieldOf a) = true)
    (hf : ∀ e, f s (s.rx w.count).toNat e = w.row e) :
    EffectBody State.moveRows s w (moveWord w.dest w.count w.mask (s.withCopy w.dest rd [(a, ra)]) p f s) :=
  ⟨rd, [(a, ra)], p, fun t => f t (s.rx w.count).toNat, rfl, hs.symm, hp,
    fun hadm => (hr hadm).imp id fun h => List.forall_mem_singleton.2 h, fun e _ => hf e⟩

/-- Every word that moves rows or looks them up performs its row operation. -/
theorem effectWord_of_moveOp {i : Instr} {s : State} {w : Claims.RowOp} (h : Claims.moveOp i s = some w) :
    EffectWord State.moveRows i s w := by
  have ruleB_source : ∀ d a : VReg, Claims.admitsB s d [a] = true → ruleB (s.fieldOf d) (s.fieldOf a) = true :=
    fun d a hadm => (admitsB_iff s d [a]).1 hadm a (List.mem_singleton_self a)
  cases i
  case vrowsh d a n m =>
    exact .of_some h (fun _ => rfl) (effectBody_move rfl rfl (fun hadm => ⟨rfl, ruleB_source d a hadm⟩) fun _ => rfl)
  case vrowshup d a n m =>
    exact .of_some h (fun _ => rfl) (effectBody_move rfl rfl (fun hadm => ⟨rfl, ruleB_source d a hadm⟩) fun _ => rfl)
  case vbcastf d a n m =>
    refine .of_some h (fun _ => rfl) (effectBody_move rfl rfl (fun hadm => ⟨rfl, ruleB_source d a hadm⟩) fun e => ?_)
    rw [firstRow_eq_head?]
    exact match_head? _ (fun q => (s.raw (s.fieldOf a) q, 0, s.tgv s.me q)) _
  case vtli d a l n m =>
    have hg : ((s.tableSlot l).bind fun t => segments t (s.fieldOf a).type.toNat) =
        (Claims.tableOf s l).bind fun t => Claims.segmentsOf t (Claims.typ s a) := by
      simp only [tableSlot_eq, segments_eq]
      rfl
    refine .of_some h (fun _ => rfl) (effectBody_move rfl ?_ (fun hadm => ?_) fun e => ?_)
    · rw [hg]
      generalize ((Claims.tableOf s l).bind fun t => Claims.segmentsOf t (Claims.typ s a)) = g
      cases g <;> rfl
    · obtain ⟨hd, ha⟩ := Bool.and_eq_true_iff.1 hadm
      refine ⟨?_, beq_iff_eq.2 ((type_eq_iff s a d).2 (of_decide_eq_true ha))⟩
      simp only [type_beq]
      exact hd
    · rw [hg]
      generalize ((Claims.tableOf s l).bind fun t => Claims.segmentsOf t (Claims.typ s a)) = g
      cases g with
      | none => rfl
      | some g => exact interpolatedRow_eq s d a g e _
  case vtlu d a l n m =>
    refine .of_some h (fun _ => rfl) (effectBody_move rfl ?_ (fun hadm => ⟨rfl, hadm⟩) fun e => ?_)
    · rw [tableSlot_eq]
      rfl
    · simp only [tableSlot_eq, tableEntry_eq, ← num_eq_ival]
      cases Claims.tableOf s l <;> rfl
  all_goals exact (Option.some_ne_none _ h.symm).elim

end Sys2Proof.Machine

namespace Sys2Proof.Proofs

open Sys2Proof.Machine

theorem scansCombineTheRowsBefore : Parts.ScansCombineTheRowsBefore := by
  intro i s h w hw hready hc n
  have hword := effectWord_of_scanOp hw
  exact ⟨hword.zero hready, fun hn hfit hadm hb => hword.done hready hn hfit hadm (by rwa [due_rowbase hc])⟩

theorem movesAndLookupsWriteTheirRows : Parts.MovesAndLookupsWriteTheirRows := by
  intro i s h w hw hready hc n
  have hword := effectWord_of_moveOp hw
  exact ⟨hword.zero hready, fun hn hfit hadm hb => hword.done hready hn hfit hadm (by rwa [due_rowbase hc])⟩

/-- Settles O21: a scan is a row operation whose value in a row is what the rows up to it come to (`scanValue_eq`); the other words
give each row its value and its validity (`effectWord_of_moveOp`). -/
theorem scansMovesAndLookupsWriteTheirRows : Obligations.ScansMovesAndLookupsWriteTheirRows :=
  ⟨scansCombineTheRowsBefore, movesAndLookupsWriteTheirRows⟩

end Sys2Proof.Proofs
end

section
/-! PROOFS. A command that is alone on its chain (12 R276, R284): what changes it, and the step that it takes. -/

namespace Sys2Proof.Machine

variable {s w : State} {core : CoreId} {i : Fin 17} {k e : Cmd}

/-! ## Chains and their commands -/

@[simp] theorem State.chain_modChain_same (s : State) (core : CoreId) (i : Fin 17) (f : Chain → Chain) :
    (s.modChain core i f).chain core i = f (s.chain core i) := by
  simp [State.chain, State.modChain]

@[simp] theorem State.chain_disown (s : State) (o : CoreId × Nat × BitVec 32) (core : CoreId) (i : Fin 17) :
    (s.disown o).chain core i = s.chain core i := rfl

@[simp] theorem State.launches_modCmd (s : State) (core : CoreId) (i : Fin 17) (seq : BitVec 32) (f : Cmd → Cmd) :
    (s.modCmd core i seq f).launches = s.launches := rfl

theorem State.cmds_modCmd (s : State) (core : CoreId) (i : Fin 17) (seq : BitVec 32) (f : Cmd → Cmd) :
    ((s.modCmd core i seq f).chain core i).cmds = (s.chain core i).cmds.map fun k => if k.seq = seq then f k else k := by
  simp [State.modCmd]

theorem State.cmds_modCmd_same (f : Cmd → Cmd) {seq : BitVec 32} (h : (s.chain core i).cmds = [e]) (hs : e.seq = seq) :
    ((s.modCmd core i seq f).chain core i).cmds = [f e] := by
  simp [State.cmds_modCmd, h, hs]

theorem State.cmds_modCmd_other (f : Cmd → Cmd) {seq : BitVec 32} (h : (s.chain core i).cmds = [e]) (hs : e.seq ≠ seq) :
    ((s.modCmd core i seq f).chain core i).cmds = [e] := by
  simp [State.cmds_modCmd, h, hs]

/-- The end of a command changes that command alone, and the one that follows it. -/
theorem State.cmds_finishCmd (st : Nat) (h : (s.chain core i).cmds = [e]) (hs : e.seq = k.seq) :
    ((s.finishCmd core i k st).chain core i).cmds =
      [{ e with finished := true, status := if e.status = 0 then st else e.status, ready := s.now + 6, batches := [], held := none,
                noRecord := decide ((s.cmdReach core i k).crecStatus e.crec ≠ 0) }] := by
  have hend := (s.disown (ownerOf core i k)).cmds_modCmd_same (fun e : Cmd =>
    { e with finished := true, status := if e.status = 0 then st else e.status, ready := s.now + 6, batches := [], held := none,
             noRecord := decide ((s.cmdReach core i k).crecStatus e.crec ≠ 0) }) h hs
  rw [State.finishCmd]
  split
  · exact State.cmds_modCmd_other _ hend (by simp [hs])
  · exact hend

@[simp] theorem State.launches_finishCmd (s : State) (core : CoreId) (i : Fin 17) (k : Cmd) (st : Nat) :
    (s.finishCmd core i k st).launches = s.launches := by
  rw [State.finishCmd]
  split <;> rfl

/-! ## The step of a chain -/

/-- A chain whose commands all run has none that may start. -/
theorem State.mayStart_running (h : (s.chain core i).cmds = [k]) (hr : k.stage = .running) : s.mayStart core i = none := by
  have hnone : (s.chain core i).oldest = none := by simp [Chain.oldest, h, hr]
  simp [State.mayStart, hnone]

theorem State.movable_alone (h : Claims.alone s core i k) : s.movable core i k.op = [k] := by
  obtain ⟨hcmds, hruns, hstage, hfinished, hready⟩ := h
  have hchain : (s.core core).chains[i.val].cmds = [k] := hcmds
  simp [State.movable, State.mayStart_running hcmds hstage, hchain, hstage, hfinished, hready, hruns]

/-- A command alone on its chain takes its step: there is no choice to make. -/
theorem State.chainStep_alone {run : State → Cmd → Option State} {t : State} (h : Claims.alone s core i k) (hrun : run s k = some t) :
    s.chainStep core i k.op run = some t := by
  have ⟨_, _, hstage, _, _⟩ := h
  simp [State.chainStep, State.movable_alone h, hstage, hrun, State.choose]

/-- A read of a record that finds its bytes whole goes on with them. -/
theorem State.readRecord_ok {g : Got} (f : BitVec 512 → State → Option State)
    (h : s.engineRead (s.cmdReach core i k) (ownerOf core i k) k.at_ 64 = .ok g w) (hp : g.poisoned = none) :
    s.readRecord core i k f = f (bitsOfBytes 512 g.bytes) w := by
  simp [State.readRecord, h, Step.then, hp]

/-! ## Numbers in records -/

theorem toNat_extractLsb'_eq_bitsFrom {n : Nat} (r : BitVec n) (lo len : Nat) :
    (r.extractLsb' lo len).toNat = Claims.bitsFrom r.toNat lo len := by
  rw [BitVec.extractLsb'_toNat, Nat.shiftRight_eq_div_pow, Claims.bitsFrom]

theorem extractLsb'_ne_zero_iff {n : Nat} (r : BitVec n) (lo len : Nat) :
    r.extractLsb' lo len ≠ 0 ↔ Claims.bitsFrom r.toNat lo len ≠ 0 := by
  rw [Ne, BitVec.toNat_eq, toNat_extractLsb'_eq_bitsFrom, BitVec.ofNat_eq_ofNat, BitVec.toNat_ofNat, Nat.zero_mod]

theorem getLsbD_eq_bitsFrom {n : Nat} (r : BitVec n) (j : Nat) : r.getLsbD j = decide (Claims.bitsFrom r.toNat j 1 = 1) := by
  rw [← BitVec.testBit_toNat, Nat.testBit_eq_decide_div_mod_eq, Claims.bitsFrom, Nat.pow_one]

theorem recordField_eq (r : BitVec 512) (lo n : Nat) : recordField r lo n = Claims.recordBytes r lo n :=
  toNat_extractLsb'_eq_bitsFrom r (8 * lo) (8 * n)

theorem inH_iff (va : Dword) : inH va = true ↔ va.toNat < 2 ^ 60 := by
  rw [inH, beq_iff_eq, selector, Nat.div_eq_zero_iff]
  omega

theorem littleEndian_lt (bs : List Byte) : Claims.littleEndian bs < 2 ^ (8 * bs.length) := by
  induction bs with
  | nil => exact Nat.one_pos
  | cons b bs ih =>
    have hb := b.isLt
    rw [List.length_cons, Nat.mul_succ, Nat.pow_add, Claims.littleEndian]
    omega

theorem toNat_bitsOfBytes_mod (n : Nat) (bs : List Byte) : (bitsOfBytes n bs).toNat = Claims.littleEndian bs % 2 ^ n := by
  induction bs with
  | nil => simp [bitsOfBytes, Claims.littleEndian]
  | cons b bs ih =>
    have hdisjoint : b.setWidth n &&& bitsOfBytes n bs <<< 8 = 0#n := by
      refine BitVec.eq_of_getLsbD_eq fun j _ => ?_
      by_cases hj : j < 8 <;> simp [hj, Nat.not_lt.1]
    rw [bitsOfBytes, ← BitVec.add_eq_or_of_and_eq_zero _ _ hdisjoint, BitVec.toNat_add, BitVec.toNat_setWidth, BitVec.toNat_shiftLeft,
      ih, Claims.littleEndian, Nat.shiftLeft_eq, Nat.mod_mul_mod, ← Nat.add_mod, Nat.mul_comm]

/-- Enough bits hold all of a list's bytes. -/
theorem toNat_bitsOfBytes_of_length {n : Nat} {bs : List Byte} (h : 8 * bs.length = n) :
    (bitsOfBytes n bs).toNat = Claims.littleEndian bs := by
  rw [toNat_bitsOfBytes_mod, Nat.mod_eq_of_lt (h ▸ littleEndian_lt bs)]

end Sys2Proof.Machine
end

section
/-! PROOFS. LAUNCH (07 R173 to R175, R177, R185): the launch record's fields and checks, and the two steps of the command. -/

namespace Sys2Proof.Machine

/-! ## The launch record (R173, R175, R177) -/

theorem validCore_iff (c : Nat) : validCore c = true ↔ Claims.coreExists c := by
  simp [validCore, Claims.coreExists]

theorem launchBroken_iff (r : BitVec 1024) : launchBroken r (launchFields r) = true ↔ Claims.launchMalformed r.toNat := by
  have hentry : (r.extractLsb' 0 64).extractLsb' 0 2 ≠ 0 ↔ r.toNat % 4 ≠ 0 := by
    rw [extractLsb'_ne_zero_iff, toNat_extractLsb'_eq_bitsFrom]
    simp only [Claims.bitsFrom]
    omega
  simp only [launchBroken, launchFields, Claims.launchMalformed, Bool.or_eq_true, bne_iff_ne, hentry, extractLsb'_ne_zero_iff,
    toNat_extractLsb'_eq_bitsFrom, decide_eq_true_eq, Bool.not_eq_true', ← Bool.not_eq_true, beq_iff_eq, validCore_iff, or_assoc]

theorem fits_iff (r : BitVec 1024) : (launchFields r).fits = true ↔ Claims.teamFits r.toNat := by
  simp only [LaunchRec.fits, LaunchRec.perCluster, LaunchRec.cols, launchFields, toNat_extractLsb'_eq_bitsFrom, getLsbD_eq_bitsFrom,
    decide_eq_true_eq, Claims.teamFits]
  split <;> exact decide_eq_true_iff

theorem mbx_launchFields (r : BitVec 1024) {j : Nat} (h : j < 8) : (launchFields r).mbx.getD j 0 = r.extractLsb' (128 + 64 * j) 64 := by
  simp [launchFields, Vector.getD, h]

theorem sema_launchFields (r : BitVec 1024) : (launchFields r).sema = BitVec.ofNat 64 (Claims.bitsFrom r.toNat 800 64) := by
  rw [← toNat_extractLsb'_eq_bitsFrom, BitVec.ofNat_toNat, BitVec.setWidth_eq, launchFields]

/-- Every field of a launch record is its number in the record. -/
theorem launchFields_eq (r : BitVec 1024) :
    let l := launchFields r
    let n := Claims.bitsFrom r.toNat
    l.entry.toNat = n 0 64 ∧ l.tx = n 64 16 ∧ l.ty = n 80 16 ∧ l.tz = n 96 16 ∧ l.hpt = n 112 8 ∧ l.cols = 64 * 2 ^ n 120 2 ∧
    (∀ j, j < 8 → (l.mbx.getD j 0).toNat = n (128 + 64 * j) 64) ∧ l.dptab.toNat = n 640 64 ∧ l.dpcnt = n 704 8 ∧
    l.pack = decide (n 712 1 = 1) ∧ l.core = n 720 16 ∧ l.wuse = n 736 32 ∧ l.cuse = n 768 32 ∧ l.sema.toNat = n 800 64 ∧
    l.sval.toNat = n 864 64 ∧ l.bar = decide (n 928 1 = 1) ∧ l.gang = decide (n 929 1 = 1) ∧ l.gtick.toNat = n 960 64 := by
  have field := @toNat_extractLsb'_eq_bitsFrom 1024 r
  have bit := @getLsbD_eq_bitsFrom 1024 r
  refine ⟨field .., field .., field .., field .., field .., congrArg (64 * 2 ^ ·) (field ..), fun j hj => ?_, field .., field ..,
    bit .., field .., field .., field .., field .., field .., bit .., bit .., field ..⟩
  rw [mbx_launchFields r hj]
  exact field ..

/-! ## The checks of a launch record (R175, R185) -/

variable {s w : State} {core : CoreId} {i : Fin 17} {k : Cmd} {raw : BitVec 1024} {ctx : Nat} {reach : Reach} {sema : Dword}

/-- Whether a record's team fits no core, or is bound to a core outside the partition of its context. -/
def State.launchMisplaced (w : State) (ctx r : Nat) : Prop :=
  ¬ Claims.teamFits r ∨ ctx = 0 ∨
    Claims.bitsFrom r 720 16 ≠ 0xFFFF ∧ (w.pair (pairOfCore (Claims.bitsFrom r 720 16))).part ≠ some (w.ctxPart ctx)

theorem State.launchMisplaced_iff :
    (!(launchFields raw).fits || decide (ctx = 0) ||
      ((launchFields raw).core != 0xFFFF && !w.coreOfPart ctx (launchFields raw).core)) = true ↔ w.launchMisplaced ctx raw.toNat := by
  have hcore : (launchFields raw).core = Claims.bitsFrom raw.toNat 720 16 := toNat_extractLsb'_eq_bitsFrom ..
  simp only [Bool.or_eq_true, Bool.and_eq_true, Bool.not_eq_true', ← Bool.not_eq_true, fits_iff, decide_eq_true_eq, bne_iff_ne, hcore,
    State.coreOfPart, State.launchMisplaced, or_assoc]
  tauto

theorem Reach.semaStatus_unaligned (h : sema.toNat % 32 ≠ 0) : reach.semaStatus sema = 1 := by
  simp [Reach.semaStatus, h]

theorem Reach.semaStatus_refused (h : sema.toNat % 32 = 0) (hst : reach.status .store sema 32 ≠ 0) :
    reach.semaStatus sema = reach.status .store sema 32 := by
  simp [Reach.semaStatus, h, hst]

theorem Reach.semaStatus_granted (h : sema.toNat % 32 = 0) (hst : reach.status .store sema 32 = 0) :
    reach.semaStatus sema = if inH sema then 0 else 2 := by
  cases hH : inH sema <;> simp [Reach.semaStatus, h, hst, hH]

end Sys2Proof.Machine
end

section
/-! PROOFS. LAUNCH (07 R173 to R175, R185): the step that reads its record, and the one that reads the launch record. -/

namespace Sys2Proof.Machine

variable {s w t : State} {core : CoreId} {i : Fin 17} {k : Cmd} {g : Got} {raw : BitVec 1024} {at_ : Dword}

theorem exec_launch (h : Claims.alone s core i k) (hop : k.op = 9) (hstep : State.launchStep core i s k = some t) :
    exec (.launch core i) s = .next t := by
  have hchain : s.chainEvent core i 9 State.launchStep = some t := by
    rw [State.chainEvent, dif_pos i.isLt, ← hop]
    exact State.chainStep_alone h hstep
  exact congrArg (fun o => (.next (o.getD s) : Result)) hchain

/-! ## The record of the command (R173, R284) -/

/-- The status with which the checks of a LAUNCH command's record answer. -/
def Reach.launchStatus (reach : Reach) (r : BitVec 512) : Nat :=
  if recordField r 24 32 ≠ 0 ∨ (recordAddr r 16).toNat % 8 ≠ 0 ∨ ¬ inH (recordAddr r 16) then 1
  else firstStatus [reach.status .load (recordAddr r 16) 128, reach.crecStatus (recordAddr r 56)]

theorem firstStatus_pair (a b : Nat) : firstStatus [a, b] = if a ≠ 0 then a else b := by
  by_cases ha : a = 0 <;> by_cases hb : b = 0 <;> simp [firstStatus, ha, hb]

theorem Reach.launchStatus_eq (reach : Reach) (r : BitVec 512) : reach.launchStatus r =
    if Claims.recordBytes r 24 32 ≠ 0 ∨ (recordAddr r 16).toNat % 8 ≠ 0 ∨ 2 ^ 60 ≤ (recordAddr r 16).toNat then 1
    else if reach.status .load (recordAddr r 16) 128 ≠ 0 then reach.status .load (recordAddr r 16) 128
    else reach.crecStatus (recordAddr r 56) := by
  simp only [Reach.launchStatus, recordField_eq, inH_iff, Nat.not_lt, firstStatus_pair]

theorem State.launchStep_unread (hread : k.read = false)
    (hg : s.engineRead (s.cmdReach core i k) (ownerOf core i k) k.at_ 64 = .ok g w) (hp : g.poisoned = none) :
    let r : BitVec 512 := bitsOfBytes 512 g.bytes
    let st := (w.cmdReach core i k).launchStatus r
    let t := w.modCmd core i k.seq fun k => { k with record := r, crec := recordAddr r 56, read := true, ready := w.now + 1 }
    State.launchStep core i s k = some (if st ≠ 0 then t.finishCmd core i k st else t) := by
  simp only [State.launchStep, hread, Bool.not_false, if_true, State.readRecord_ok _ hg hp]
  exact (apply_ite some _ _ _).symm

/-- A LAUNCH command reads its record in one step, and ends there where a check fails. -/
theorem exec_launch_unread (h : Claims.alone s core i k) (hop : k.op = 9) (hread : k.read = false) (hst : k.status = 0)
    (hg : s.engineRead (s.cmdReach core i k) (ownerOf core i k) k.at_ 64 = .ok g w) (hp : g.poisoned = none)
    (hw : w.chain core i = s.chain core i) :
    let r : BitVec 512 := bitsOfBytes 512 g.bytes
    let st := (w.cmdReach core i k).launchStatus r
    ∃ t e, exec (.launch core i) s = .next t ∧ (t.chain core i).cmds = [e] ∧ e.read = true ∧ e.record = r ∧
      e.finished = decide (st ≠ 0) ∧ e.status = st ∧ t.launches = w.launches := by
  intro r st
  have hexec := exec_launch h hop (State.launchStep_unread hread hg hp)
  have ⟨hone, _, _, hrunning, _⟩ := h
  have hcmds : (w.chain core i).cmds = [k] := hw ▸ hone
  have hread := State.cmds_modCmd_same (fun k => { k with record := r, crec := recordAddr r 56, read := true, ready := w.now + 1 })
    hcmds rfl
  by_cases hzero : st = 0
  · rw [if_neg (not_not.2 hzero)] at hexec
    exact ⟨_, _, hexec, hread, rfl, rfl, by simp [hzero, hrunning], hst.trans hzero.symm, rfl⟩
  · rw [if_pos hzero] at hexec
    exact ⟨_, _, hexec, State.cmds_finishCmd _ hread rfl, rfl, rfl, by simp [hzero], if_pos hst, State.launches_finishCmd ..⟩

/-! ## The launch record (R174, R175, R185) -/

/-- The launch that a command enters with its record. -/
def State.newLaunch (w : State) (core : CoreId) (i : Fin 17) (k : Cmd) (raw : BitVec 1024) : Launch :=
  { ctx := (w.chain core i).owner, part := w.ctxPart (w.chain core i).owner, core := core, chain := i.val, seq := k.seq, raw := raw,
    record := launchFields raw }

/-- The state with that launch. -/
def State.enterLaunch (w : State) (core : CoreId) (i : Fin 17) (k : Cmd) (raw : BitVec 1024) : State :=
  { w with launches := w.launches.put w.nextLaunch (w.newLaunch core i k raw), nextLaunch := w.nextLaunch + 1 }

/-- The status with which a launch is admitted once its record is read; none where its preload entries are to be read. -/
def State.launchVerdict (w : State) (ctx : Nat) (raw : BitVec 1024) : Option Nat :=
  let l := launchFields raw
  if launchBroken raw l then some 1
  else if !l.fits || decide (ctx = 0) || (l.core != 0xFFFF && !w.coreOfPart ctx l.core) then some 2
  else if l.dptab ≠ 0 ∧ (l.dptab.toNat % 8 ≠ 0 ∨ ¬ inH l.dptab) then some 3
  else if l.dptab = 0 ∨ l.dpcnt = 0 then some 0
  else none

/-- The state after a launch record whose SEMA is in order has been read. -/
def State.takeLaunch (w : State) (core : CoreId) (i : Fin 17) (k : Cmd) (raw : BitVec 1024) : State :=
  match w.launchVerdict (w.chain core i).owner raw with
  | some st => (w.enterLaunch core i k raw).admitLaunch core i k w.nextLaunch st
  | none => (w.enterLaunch core i k raw).modCmd core i k.seq fun k => { k with ready := w.now + 1 }

theorem State.launchStep_read (hread : k.read = true) (hnone : s.launchOf core i k.seq = none) :
    State.launchStep core i s k = s.readLaunch core i k (recordAddr k.record 16) := by
  simp [State.launchStep, hread, hnone]

theorem State.readLaunch_refused (hg : s.engineRead (s.cmdReach core i k) (ownerOf core i k) at_ 128 = .ok g w)
    (hp : g.poisoned = none) (hsema : (s.cmdReach core i k).semaStatus (launchFields (bitsOfBytes 1024 g.bytes)).sema ≠ 0) :
    s.readLaunch core i k at_ =
      some (w.finishCmd core i k ((s.cmdReach core i k).semaStatus (launchFields (bitsOfBytes 1024 g.bytes)).sema)) := by
  simp [State.readLaunch, hg, Step.then, hp, hsema]

/-- A launch record whose SEMA is in order enters a launch. -/
theorem State.readLaunch_entered (hg : s.engineRead (s.cmdReach core i k) (ownerOf core i k) at_ 128 = .ok g w)
    (hp : g.poisoned = none) (hraw : bitsOfBytes 1024 g.bytes = raw)
    (hsema : (s.cmdReach core i k).semaStatus (launchFields raw).sema = 0) :
    s.readLaunch core i k at_ = some (w.takeLaunch core i k raw) := by
  simp only [State.readLaunch, hg, Step.then, hp, hraw, hsema, Option.isSome_none, Bool.false_eq_true, if_false, ne_eq, not_true]
  change (if launchBroken raw (launchFields raw) then _ else if (_ || _ || (_ && !w.coreOfPart _ _)) = true then _ else _) = _
  simp only [State.takeLaunch, State.launchVerdict, ne_eq]
  split_ifs <;> rfl

theorem State.launchVerdict_malformed {ctx : Nat} (hm : Claims.launchMalformed raw.toNat) : w.launchVerdict ctx raw = some 1 := by
  rw [State.launchVerdict, if_pos ((launchBroken_iff raw).2 hm)]

theorem State.launchVerdict_misplaced {ctx : Nat} (hm : ¬ Claims.launchMalformed raw.toNat) (hp : w.launchMisplaced ctx raw.toNat) :
    w.launchVerdict ctx raw = some 2 := by
  rw [State.launchVerdict, if_neg (mt (launchBroken_iff raw).1 hm), if_pos (State.launchMisplaced_iff.2 hp)]

/-- A record in its place is judged by its preload table. -/
theorem State.launchVerdict_placed {ctx : Nat} (hm : ¬ Claims.launchMalformed raw.toNat) (hp : ¬ w.launchMisplaced ctx raw.toNat) :
    w.launchVerdict ctx raw =
      if Claims.bitsFrom raw.toNat 640 64 ≠ 0 ∧
          (Claims.bitsFrom raw.toNat 640 64 % 8 ≠ 0 ∨ 2 ^ 60 ≤ Claims.bitsFrom raw.toNat 640 64) then some 3
      else if Claims.bitsFrom raw.toNat 640 64 = 0 ∨ Claims.bitsFrom raw.toNat 704 8 = 0 then some 0 else none := by
  have htable : (launchFields raw).dptab.toNat = Claims.bitsFrom raw.toNat 640 64 := toNat_extractLsb'_eq_bitsFrom ..
  have hcount : (launchFields raw).dpcnt = Claims.bitsFrom raw.toNat 704 8 := toNat_extractLsb'_eq_bitsFrom ..
  have hzero : (launchFields raw).dptab = 0 ↔ Claims.bitsFrom raw.toNat 640 64 = 0 := not_iff_not.1 (extractLsb'_ne_zero_iff raw 640 64)
  rw [State.launchVerdict, if_neg (mt (launchBroken_iff raw).1 hm), if_neg (mt State.launchMisplaced_iff.1 hp)]
  simp only [ne_eq, inH_iff, Nat.not_lt, htable, hcount, hzero]

theorem State.launchVerdict_badTable {ctx : Nat} (hm : ¬ Claims.launchMalformed raw.toNat) (hp : ¬ w.launchMisplaced ctx raw.toNat)
    (hz : Claims.bitsFrom raw.toNat 640 64 ≠ 0)
    (hbad : Claims.bitsFrom raw.toNat 640 64 % 8 ≠ 0 ∨ 2 ^ 60 ≤ Claims.bitsFrom raw.toNat 640 64) :
    w.launchVerdict ctx raw = some 3 := by
  rw [State.launchVerdict_placed hm hp, if_pos ⟨hz, hbad⟩]

theorem State.launchVerdict_aligned {ctx : Nat} (hm : ¬ Claims.launchMalformed raw.toNat) (hp : ¬ w.launchMisplaced ctx raw.toNat)
    (ha : Claims.bitsFrom raw.toNat 640 64 % 8 = 0) (hH : Claims.bitsFrom raw.toNat 640 64 < 2 ^ 60) :
    w.launchVerdict ctx raw =
      if Claims.bitsFrom raw.toNat 640 64 = 0 ∨ Claims.bitsFrom raw.toNat 704 8 = 0 then some 0 else none := by
  rw [State.launchVerdict_placed hm hp, if_neg]
  omega

/-- An admitted launch is the one entered, with its status; its command is handed on. -/
theorem State.takeLaunch_admitted {st : Nat} (hcmds : (w.chain core i).cmds = [k])
    (hv : w.launchVerdict (w.chain core i).owner raw = some st) :
    ((w.takeLaunch core i k raw).chain core i).cmds = [{ k with stage := .handed }] ∧
    (w.takeLaunch core i k raw).nextLaunch = w.nextLaunch + 1 ∧
    (w.takeLaunch core i k raw).launches.get? w.nextLaunch = some { w.newLaunch core i k raw with
      checked := true, status := st, stop := decide (st ≠ 0), ready := max w.now (k.begun + 150) } := by
  rw [State.takeLaunch, hv]
  refine ⟨State.cmds_modCmd_same _ hcmds rfl, rfl, ?_⟩
  simp [State.admitLaunch, State.modLaunch, FMap.modify, State.enterLaunch, bne, beq_eq_decide]

/-- A launch with preload entries is entered unchecked; its command stays to read them. -/
theorem State.takeLaunch_preloads (hcmds : (w.chain core i).cmds = [k])
    (hv : w.launchVerdict (w.chain core i).owner raw = none) :
    ((w.takeLaunch core i k raw).chain core i).cmds = [{ k with ready := w.now + 1 }] ∧
    (w.takeLaunch core i k raw).launches.get? w.nextLaunch = some (w.newLaunch core i k raw) := by
  rw [State.takeLaunch, hv]
  exact ⟨State.cmds_modCmd_same _ hcmds rfl, FMap.get?_put_same ..⟩

/-- A launch record whose SEMA fails a check ends the command. -/
theorem exec_launch_refused (h : Claims.alone s core i k) (hop : k.op = 9) (hread : k.read = true) (hst : k.status = 0)
    (hnone : s.launchOf core i k.seq = none)
    (hg : s.engineRead (s.cmdReach core i k) (ownerOf core i k) (recordAddr k.record 16) 128 = .ok g w) (hp : g.poisoned = none)
    (hw : w.chain core i = s.chain core i) (hraw : bitsOfBytes 1024 g.bytes = raw)
    (hsema : (s.cmdReach core i k).semaStatus (launchFields raw).sema ≠ 0) :
    ∃ t e, exec (.launch core i) s = .next t ∧ (t.chain core i).cmds = [e] ∧ e.finished = true ∧
      e.status = (s.cmdReach core i k).semaStatus (launchFields raw).sema ∧ t.launches = w.launches := by
  subst hraw
  have hexec := exec_launch h hop ((State.launchStep_read hread hnone).trans (State.readLaunch_refused hg hp hsema))
  have ⟨hone, _, _, _, _⟩ := h
  have hcmds : (w.chain core i).cmds = [k] := hw ▸ hone
  exact ⟨_, _, hexec, State.cmds_finishCmd _ hcmds rfl, rfl, if_pos hst, State.launches_finishCmd ..⟩

theorem exec_launch_entered (h : Claims.alone s core i k) (hop : k.op = 9) (hread : k.read = true)
    (hnone : s.launchOf core i k.seq = none)
    (hg : s.engineRead (s.cmdReach core i k) (ownerOf core i k) (recordAddr k.record 16) 128 = .ok g w) (hp : g.poisoned = none)
    (hraw : bitsOfBytes 1024 g.bytes = raw) (hsema : (s.cmdReach core i k).semaStatus (launchFields raw).sema = 0) :
    exec (.launch core i) s = .next (w.takeLaunch core i k raw) :=
  exec_launch h hop ((State.launchStep_read hread hnone).trans (State.readLaunch_entered hg hp hraw hsema))

end Sys2Proof.Machine

namespace Sys2Proof.Proofs

open Sys2Proof.Machine

/-- Settles O44: the command's record is read in one step (`exec_launch_unread`); the launch record is refused by its SEMA
(`exec_launch_refused`), or enters a launch (`exec_launch_entered`), which the checks of R175 judge (`State.launchVerdict`). -/
theorem launchCommandsReadTheirRecord : Obligations.LaunchCommandsReadTheirRecord := by
  refine ⟨?_, ?_, launchFields_eq⟩
  · intro s w core i k g h hop hread hst hg hp hw r va reach broken
    obtain ⟨t, e, hexec, hcmds, hread', hrecord, hfinished, hstatus, hlaunches⟩ := exec_launch_unread h hop hread hst hg hp hw
    rw [Reach.launchStatus_eq] at hfinished hstatus
    refine ⟨fun hb => ?_, fun hb => ?_⟩
    · rw [if_pos hb] at hfinished hstatus
      exact ⟨t, e, hexec, hcmds, hfinished, hstatus⟩
    · rw [if_neg hb] at hfinished hstatus
      exact ⟨t, e, hexec, hcmds, hread', hrecord, hfinished, hstatus, hlaunches⟩
  · intro s w core i k g h hop hread hst hnone hg hp hlen hw
    rw [← toNat_bitsOfBytes_of_length (n := 1024) (bs := g.bytes) (by rw [hlen])]
    generalize hr : bitsOfBytes 1024 g.bytes = r
    intro raw sema reach ctx bound malformed misplaced semaOk refuses admits
    have hsema : (launchFields r).sema = sema := sema_launchFields r
    have hrefuses : ∀ {st}, reach.semaStatus sema = st → st ≠ 0 → refuses st := by
      rintro _ rfl hne
      rw [← hsema] at hne ⊢
      exact exec_launch_refused h hop hread hst hnone hg hp hw hr hne
    have hentered : semaOk → exec (.launch core i) s = .next (w.takeLaunch core i k r) := fun ⟨haligned, hH, hgranted⟩ =>
      exec_launch_entered h hop hread hnone hg hp hr
        (by rw [hsema, Reach.semaStatus_granted haligned hgranted, if_pos ((inH_iff sema).2 hH)])
    have ⟨hone, _, hstage, hrunning, _⟩ := h
    have hcmds : (w.chain core i).cmds = [k] := hw ▸ hone
    have howner : (w.chain core i).owner = ctx := congrArg Chain.owner hw
    have hadmits : ∀ st, semaOk → w.launchVerdict ctx r = some st → admits st := by
      intro st hok hv
      obtain ⟨hkept, hnext, hlaunch⟩ := State.takeLaunch_admitted hcmds (howner.symm ▸ hv)
      exact ⟨_, _, _, hentered hok, hkept, rfl, hrunning, hlaunch, hnext, rfl, rfl, rfl, rfl, rfl, howner, rfl, rfl, rfl, rfl, rfl⟩
    refine ⟨fun hu => ?_, fun ha hst => ?_, fun ha hgranted hH => ?_, fun hok hm => ?_, fun hok hm hpl => ?_,
      fun hok hm hpl hz hbad => ?_, fun hok hm hpl ha hH => ⟨fun hz => ?_, fun hz hcount => ?_⟩⟩
    · exact hrefuses (Reach.semaStatus_unaligned hu) Nat.one_ne_zero
    · exact hrefuses (Reach.semaStatus_refused ha hst) hst
    · refine hrefuses ?_ two_ne_zero
      rw [Reach.semaStatus_granted ha hgranted, if_neg (mt (inH_iff sema).1 (Nat.not_lt.2 hH))]
    · exact hadmits 1 hok (State.launchVerdict_malformed hm)
    · exact hadmits 2 hok (State.launchVerdict_misplaced hm hpl)
    · exact hadmits 3 hok (State.launchVerdict_badTable hm hpl hz hbad)
    · exact hadmits 0 hok ((State.launchVerdict_aligned hm hpl ha hH).trans (if_pos hz))
    · have hv : w.launchVerdict ctx r = none := (State.launchVerdict_aligned hm hpl ha hH).trans (if_neg (not_or.2 ⟨hz, hcount⟩))
      obtain ⟨hkept, hlaunch⟩ := State.takeLaunch_preloads hcmds (howner.symm ▸ hv)
      exact ⟨_, _, _, hentered hok, hkept, hstage, hrunning, hlaunch, rfl, rfl, howner, rfl⟩

end Sys2Proof.Proofs
end

section
/-! PROOFS. Farms and the rendezvous of a team (08 R188 to R194): FARM and FNEXT, the words that arrive, and AWAIT. -/

namespace Sys2Proof.Machine

/-! ## Farms (R188, R189) -/

theorem State.get?_modLaunch_same {s : State} {n : Nat} {l : Launch} (hl : s.launches.get? n = some l) (f : Launch → Launch) :
    (s.modLaunch n f).launches.get? n = some (f l) := by
  simp [State.modLaunch, FMap.modify, hl]

/-- Putting back the launches undoes a change of a launch. -/
theorem State.modLaunch_frame (s : State) (n : Nat) (f : Launch → Launch) : { s.modLaunch n f with launches := s.launches } = s := rfl

/-- A launch after a FARM of slot n: an undeclared slot is declared. -/
def Launch.declare (l : Launch) (n : Nat) (total size : Dword) : Launch :=
  match l.farm.get? n with
  | some _ => l
  | none => { l with farm := l.farm.put n { total := total, size := size, next := 0 } }

theorem Launch.declare_eq (l : Launch) (n : Nat) (total size : Dword) :
    l.declare n total size =
      if l.farm.get? n = none then { l with farm := l.farm.put n { total := total, size := size, next := 0 } } else l := by
  unfold Launch.declare
  cases l.farm.get? n <;> simp

theorem exec_farm {s : State} {h : HartKey} {f : BitVec 3} {a b : Reg} (hc : s.cur = .hart h) (hr : s.Ready (.farm f a b)) :
    exec (.farm f a b) s = .next (State.finish (if s.due.rx b = 0 then .trap s.due causeBounds 0
      else .retire (s.due.modLaunch (s.due.hart h).launch fun l => l.declare f.toNat (s.due.rx a) (s.due.rx b)))) := by
  rw [← State.self_hart (s.due_cur.trans hc)]
  exact exec_ready (fun _ => rfl) hr

/-- The cycle in which the answer of a draw comes back from the die pair that holds the slots (R189). -/
def State.drawnAt (s : State) (home : Option Nat) : Nat :=
  s.now + 60 + 22 * ((routeXY (pairOfCore s.cur.core) (home.getD (pairOfCore s.cur.core))).length - 1)

theorem exec_fnext {s : State} {h : HartKey} {d : Reg} {f : BitVec 3} {l : Launch} (hc : s.cur = .hart h) (hr : s.Ready (.fnext d f))
    (hl : s.due.launches.get? (s.due.hart h).launch = some l) :
    exec (.fnext d f) s = .next (State.retired (match l.farm.get? f.toNat with
      | none => s.due.resultAt d (-2) (s.due.drawnAt l.home)
      | some q => (s.due.modLaunch (s.due.hart h).launch fun l => { l with farm := l.farm.put f.toNat q.draw.2 }).resultAt d q.draw.1
          (s.due.drawnAt l.home))) := by
  refine (exec_ready (fun _ => rfl) hr).trans ?_
  simp only [State.self_hart (s.due_cur.trans hc), hl, Option.bind_some]
  cases l.farm.get? f.toNat <;> rfl

theorem FarmSlot.draw_exhausted {q : FarmSlot} (hq : q.total ≤ q.next) : q.draw = (-1, q) := if_pos hq

theorem FarmSlot.draw_strip {q : FarmSlot} (hq : q.next < q.total) :
    q.draw = (q.next, { q with next := BitVec.ofNat 64 (min (q.next.toNat + q.size.toNat) q.total.toNat) }) :=
  if_neg (BitVec.not_le.2 hq)

/-- A draw from a declared slot: its value comes back, and the slot is left as the draw leaves it. -/
theorem exec_fnext_declared {s : State} {h : HartKey} {d : Reg} {f : BitVec 3} {l : Launch} {q r : FarmSlot} {v : Dword}
    (hc : s.cur = .hart h) (hr : s.Ready (.fnext d f)) (hl : s.due.launches.get? (s.due.hart h).launch = some l)
    (hq : l.farm.get? f.toNat = some q) (hdraw : q.draw = (v, r)) :
    ∃ w : State, exec (.fnext d f) s = .next (w.resultAt d v (s.due.drawnAt l.home)).retired ∧
      w.launches.get? (s.due.hart h).launch = some { l with farm := l.farm.put f.toNat r } := by
  have hexec := exec_fnext hc hr hl
  simp only [hq, hdraw] at hexec
  exact ⟨_, hexec, State.get?_modLaunch_same hl _⟩

/-! ## The rendezvous (R190 to R194): what a hart's own state says of its phase -/

/-- The last phase of a hart is open: the hart has arrived in it, and the phase of its team has not passed it. -/
def State.PhaseOpen (s : State) (h : HartKey) : Prop :=
  (s.hart h).pend = true ∧ ∃ v, s.team? (s.hart h).launch (s.hart h).team = some v ∧ v.ph ≤ (s.hart h).pt

section
variable {s : State} {h : HartKey} (hc : s.cur = .hart h)
include hc

theorem State.brokenTrap_some {code : Nat} (hb : (s.hart h).broken = some code) :
    s.brokenTrap =
      some (.trap (s.modHart h fun t => { t with broken := none, pend := false }) causeBarbrk (BitVec.ofNat 64 code)) := by
  rw [State.brokenTrap, State.self_hart hc, hb, State.modSelf_hart hc]
  rfl

theorem State.brokenTrap_none (hb : (s.hart h).broken = none) : s.brokenTrap = none := by
  rw [State.brokenTrap, State.self_hart hc, hb]
  rfl

theorem State.phaseOver_eq {v : Team} (hv : s.team? (s.hart h).launch (s.hart h).team = some v) :
    s.phaseOver = decide ((s.hart h).pt < v.ph) := by
  simp only [State.phaseOver, State.self_hart hc, hv]

theorem State.phaseOpen_iff : ((s.hart h).pend && !s.phaseOver) = true ↔ s.PhaseOpen h := by
  rw [State.PhaseOpen, Bool.and_eq_true, Bool.not_eq_true']
  refine and_congr_right fun _ => ?_
  cases hv : s.team? (s.hart h).launch (s.hart h).team with
  | none => simp [State.phaseOver, State.self_hart hc, hv]
  | some v => simp [State.phaseOver_eq hc hv]

omit hc in
theorem State.me_resultAt (r : Reg) (v : Dword) (n : Nat) : (s.resultAt r v n).me = s.me := by
  simp [State.me, State.resultAt]

theorem State.acquireBy_cur (scope : Nat) : s.acquireBy s.cur scope = Claims.acquired s scope := by
  rw [Claims.acquired, hc]
  rfl

/-! ### A word that has arrived and runs again -/

theorem waitArrived_broken {code : Nat} (kind : Nat) (hb : (s.hart h).broken = some code) :
    State.finish (waitArrived kind s) =
      (s.modHart h fun t => { t with broken := none, pend := false }).trapped 0x0E (BitVec.ofNat 64 code) := by
  rw [waitArrived, State.brokenTrap_some hc hb]
  rfl

theorem waitArrived_open (kind : Nat) (hb : (s.hart h).broken = none) (ho : (s.hart h).outcome = none) :
    State.finish (waitArrived kind s) = s := by
  rw [waitArrived, State.brokenTrap_none hc hb, State.self_hart hc, ho]
  rfl

theorem waitArrived_done (kind : Nat) {value : Dword} {flags : BitVec 7} {parts : Nat} (hb : (s.hart h).broken = none)
    (ho : (s.hart h).outcome = some (value, flags, parts)) :
    State.finish (waitArrived kind s) =
      let y := Claims.acquired (s.modHart h fun t => { t with pend := false, outcome := none }) 1
      let ready := s.now + 8 + (if (kind - 1) / 32 = 5 then 6 else 2) * Nat.clog 2 parts
      (if kind = 0 then y.delay (s.now + 6)
        else ((y.resultAt (s.ir.extractLsb' 21 5) value ready).raise flags).delay ready).retired := by
  rw [waitArrived, State.brokenTrap_none hc hb, State.self_hart hc, ho]
  simp only [arrivalDone, State.modSelf_hart hc, ← ceilLog2_eq_clog]
  rw [← State.acquireBy_cur (s := s.modHart h _) hc, State.modHart_cur, hc, State.raise, State.me_resultAt]
  split <;> rfl

/-! ### A word that arrives -/

/-- A word that begins to wait does so from its issue. -/
theorem State.finish_await_begins (hw : (s.hart h).wait = .none) (w : Wait) :
    State.finish (s.await w) = s.modHart h fun t => { t with wait := w, waitWord := s.ir, waitFrom := s.now } := by
  rw [State.finish_await hc, State.modHart, hw, if_pos rfl]
  rfl

/-- Until its release is made a word that waits for the phase waits with what it has read; an ARRIVE retires and counts later. -/
theorem arriveNow_wait (kind : Nat) (value extra : Dword) (waits : Bool) (hw : (s.hart h).wait = .none)
    (hrel : (s.modHart h fun t => { t with pend := false }).release h 1 (s.hart h).serial = .wait) :
    State.finish (arriveNow kind value extra waits s) = if waits
      then s.modHart h fun t => { t with wait := .releasing value extra, waitWord := s.ir, waitFrom := s.now }
      else (s.modHart h fun t => { t with
        pend := false
        orders := t.orders ++ [{ streams := 511, loads := false, release := some 1, acquire := none, ready := s.now,
                                 owner := t.serial, arrives := true }] }).retired := by
  rw [arriveNow, State.modSelf_hart hc, State.me_hart hc, State.self_hart hc, hrel]
  simp only
  split
  · exact State.finish_await_begins hc hw _
  · rw [State.modSelf_hart hc]
    rfl

end

section
variable {s w : State} {h : HartKey} {i : Instr} {kind : Nat} {value extra : Dword} {waits : Bool}

/-- A word that arrives now, from the state that its release leaves. -/
theorem arrives_of_exec (hc : s.cur = .hart h) (hexec : exec i s = .next (State.finish (arriveNow kind value extra waits s.due)))
    (hrel : (s.due.modHart h fun t => { t with pend := false }).release h 1 (s.due.hart h).serial = .ok () w) :
    Claims.Arrives i h kind value extra waits s w := by
  intro v hw hv
  have hu := s.due_cur.trans hc
  simp only [arriveNow, State.modSelf_hart hu, State.me_hart hu, State.self_hart hu, hrel, State.self_hart hw, State.me_hart hw,
    hv] at hexec
  refine ⟨fun ha hk => ?_, fun hok => ?_⟩
  · rw [hexec, if_pos ⟨ha, hk⟩]
    rfl
  · intro place y z done
    rw [if_neg (by omega)] at hexec
    have hy : w.joinPhase h v kind value extra = y := rfl
    rw [hexec, hy, State.modSelf_hart (show y.cur = .hart h from hw)]
    cases waits <;> simp only [decide_eq_true_eq] <;> rfl

/-- The words that arrive, from their bodies in the frame of R79. -/
theorem exec_arrival (ha : Claims.arrivalOf i s.due = some (kind, value, extra, waits)) (hr : s.Ready i) :
    exec i s = .next (State.finish (arriveFlow kind value extra waits s.due)) := by
  unfold Claims.arrivalOf at ha
  split at ha <;> cases ha
  all_goals
    refine (exec_ready (fun _ => rfl) hr).trans ?_
    rfl

end

/-! ### The words by what their hart waits for, and by the state of its phase -/

/-- What AWAIT does in its frame. -/
def awaitFlow (s : State) : Flow :=
  if s.self.wait = .arrived then waitArrived kindBarrier s
  else
    match s.brokenTrap with
    | some f => f
    | none =>
      if !s.self.pend then .retire s
      else if s.phaseOver then .retire ((s.modSelf fun t => { t with pend := false }).acquireBy s.cur 1)
      else s.await .arrived

theorem exec_await {s : State} (hr : s.Ready .await) : exec .await s = .next (State.finish (awaitFlow s.due)) :=
  exec_ready (fun _ => rfl) hr

section
variable {s : State} {h : HartKey} (hc : s.cur = .hart h) (kind : Nat) (value extra : Dword) (waits : Bool)
include hc

theorem arriveFlow_arrived (hw : (s.hart h).wait = .arrived) : arriveFlow kind value extra waits s = waitArrived kind s := by
  rw [arriveFlow, State.self_hart hc, hw]

theorem arriveFlow_releasing {v e : Dword} (hw : (s.hart h).wait = .releasing v e) :
    arriveFlow kind value extra waits s = arriveNow kind v e waits s := by
  rw [arriveFlow, State.self_hart hc, hw]

theorem arriveFlow_broken {code : Nat} (hw : (s.hart h).wait = .none) (hb : (s.hart h).broken = some code) :
    State.finish (arriveFlow kind value extra waits s) =
      (s.modHart h fun t => { t with broken := none, pend := false }).trapped 0x0E (BitVec.ofNat 64 code) := by
  rw [arriveFlow, State.self_hart hc, hw, State.brokenTrap_some hc hb]
  rfl

theorem arriveFlow_open (hw : (s.hart h).wait = .none) (hb : (s.hart h).broken = none) (ho : s.PhaseOpen h) :
    State.finish (arriveFlow kind value extra waits s) = s := by
  rw [arriveFlow, State.self_hart hc, hw, State.brokenTrap_none hc hb, (State.phaseOpen_iff hc).2 ho]
  rfl

theorem arriveFlow_arrives (hw : (s.hart h).wait = .none) (hb : (s.hart h).broken = none) (ho : ¬ s.PhaseOpen h) :
    arriveFlow kind value extra waits s = arriveNow kind value extra waits s := by
  rw [arriveFlow, State.self_hart hc, hw, State.brokenTrap_none hc hb]
  exact if_neg (mt (State.phaseOpen_iff hc).1 ho)

omit kind value extra waits

theorem awaitFlow_arrived (hw : (s.hart h).wait = .arrived) : awaitFlow s = waitArrived 0 s := by
  rw [awaitFlow, State.self_hart hc, if_pos hw]
  rfl

theorem awaitFlow_broken {code : Nat} (hw : (s.hart h).wait = .none) (hb : (s.hart h).broken = some code) :
    State.finish (awaitFlow s) =
      (s.modHart h fun t => { t with broken := none, pend := false }).trapped 0x0E (BitVec.ofNat 64 code) := by
  rw [awaitFlow, State.self_hart hc, hw, State.brokenTrap_some hc hb]
  rfl

theorem awaitFlow_idle (hw : (s.hart h).wait = .none) (hb : (s.hart h).broken = none) (hp : (s.hart h).pend = false) :
    awaitFlow s = .retire s := by
  rw [awaitFlow, State.self_hart hc, hw, State.brokenTrap_none hc hb, hp]
  rfl

theorem awaitFlow_over {v : Team} (hw : (s.hart h).wait = .none) (hb : (s.hart h).broken = none) (hp : (s.hart h).pend = true)
    (hv : s.team? (s.hart h).launch (s.hart h).team = some v) (hover : (s.hart h).pt < v.ph) :
    awaitFlow s = .retire (Claims.acquired (s.modHart h fun t => { t with pend := false }) 1) := by
  rw [awaitFlow, State.self_hart hc, hw, State.brokenTrap_none hc hb, hp, State.phaseOver_eq hc hv, decide_eq_true hover,
    State.modSelf_hart hc, ← State.acquireBy_cur (s := s.modHart h _) hc]
  rfl

theorem awaitFlow_open {v : Team} (hw : (s.hart h).wait = .none) (hb : (s.hart h).broken = none) (hp : (s.hart h).pend = true)
    (hv : s.team? (s.hart h).launch (s.hart h).team = some v) (hopen : v.ph ≤ (s.hart h).pt) :
    awaitFlow s = s.await .arrived := by
  rw [awaitFlow, State.self_hart hc, hw, State.brokenTrap_none hc hb, hp, State.phaseOver_eq hc hv,
    decide_eq_false (Nat.not_lt.2 hopen)]
  rfl

end
end Sys2Proof.Machine
end

section
/-! PROOFS. The rendezvous of a team by cases (08 R190 to R194): an ARRIVE that counts after its release, and what the words leave. -/

namespace Sys2Proof.Machine

/-- An ordering point that is dropped is taken off the list. -/
theorem State.setOrder_none (s : State) (h : HartKey) (owner : Nat) :
    s.setOrder h owner none = s.modHart h fun t => { t with orders := t.orders.filter fun o => decide (o.owner ≠ owner) } := by
  have hdrop : ∀ l : List OrderPoint, (l.flatMap fun o => if o.owner = owner then (none : Option OrderPoint).toList else [o]) =
      l.filter fun o => decide (o.owner ≠ owner) := by
    intro l
    induction l with
    | nil => rfl
    | cons o l ih => by_cases ho : o.owner = owner <;> simpa [ho] using ih
  rw [State.setOrder]
  exact congrArg (s.setHart h) (congrArg (fun orders => { s.hart h with orders := orders }) (hdrop _))

theorem State.arrivalStep_some {s : State} {h : HartKey} {p : OrderPoint} {v : Team}
    (hp : (s.hart h).orders.find? (fun p => p.arrives && p.settled) = some p) :
    let n := (s.hart h).launch
    let m := (s.hart h).team
    let y := s.modHart h fun t => { t with orders := t.orders.filter fun o => decide (o.owner ≠ p.owner) }
    y.team? n m = some v →
    s.arrivalStep h = some (
      if 0 < v.arrived ∧ v.kind ≠ 0 then (y.breakPhase n m 2).modHart h fun t => { t with pend := true, broken := some 2 }
      else if v.live ≤ v.arrived + 1 then (y.joinPhase h v 0 0 0).completePhase n m else y.joinPhase h v 0 0 0) := by
  intro n m y hv
  simp only [State.arrivalStep, hp, Option.map_some, State.setOrder_none]
  simp only [y, n, m] at hv ⊢
  rw [hv]
  rfl

/-- A hart joins the phase of the team that its own record names. -/
theorem State.joinPhase_eq {s : State} {h : HartKey} {n m : Nat} (v : Team) (kind : Nat) (value extra : Dword)
    (hn : (s.hart h).launch = n) (hm : (s.hart h).team = m) :
    s.joinPhase h v kind value extra =
      (s.modTeam n m fun v => { v with kind := kind, arrived := v.arrived + 1,
                                       supplied := v.supplied ++ [((s.hart h).csr.hid, value, extra)] }).modHart h fun t =>
        { t with pend := true, pt := v.ph } := by
  subst hn hm
  rfl

end Sys2Proof.Machine

namespace Sys2Proof.Proofs

open Sys2Proof.Machine

variable {s : State} {h : HartKey}

theorem farmDeclaresItsSlot {f : BitVec 3} {a b : Reg} {l : Launch} (hc : s.cur = .hart h) (hr : s.Ready (.farm f a b))
    (hl : s.due.launches.get? (s.due.hart h).launch = some l) :
    (s.due.rx b = 0 → exec (.farm f a b) s = .next (s.due.trapped 0x08 0)) ∧
    (s.due.rx b ≠ 0 → ∃ w : State, exec (.farm f a b) s = .next (State.retired w) ∧ w.launches.get? (s.due.hart h).launch = some
      (if l.farm.get? f.toNat = none then
        { l with farm := l.farm.put f.toNat { total := s.due.rx a, size := s.due.rx b, next := 0 } } else l) ∧
      { w with launches := s.due.launches } = s.due) := by
  rw [exec_farm hc hr]
  refine ⟨fun hb => by rw [if_pos hb]; rfl, fun hb => ⟨_, by rw [if_neg hb]; rfl, ?_, State.modLaunch_frame _ _ _⟩⟩
  rw [State.get?_modLaunch_same hl, Launch.declare_eq]

theorem fnextDrawsAStrip {d : Reg} {f : BitVec 3} {l : Launch} (hc : s.cur = .hart h) (hr : s.Ready (.fnext d f))
    (hl : s.due.launches.get? (s.due.hart h).launch = some l) :
    ∃ ready, s.now + 60 ≤ ready ∧
      (l.farm.get? f.toNat = none → exec (.fnext d f) s = .next (s.due.resultAt d (-2) ready).retired) ∧
      (∀ q, l.farm.get? f.toNat = some q → q.total ≤ q.next →
        ∃ w : State, exec (.fnext d f) s = .next (w.resultAt d (-1) ready).retired ∧
          w.launches.get? (s.due.hart h).launch = some { l with farm := l.farm.put f.toNat q }) ∧
      (∀ q, l.farm.get? f.toNat = some q → q.next < q.total →
        let drawn : FarmSlot := { q with next := BitVec.ofNat 64 (min (q.next.toNat + q.size.toNat) q.total.toNat) }
        ∃ w : State, exec (.fnext d f) s = .next (w.resultAt d q.next ready).retired ∧
          w.launches.get? (s.due.hart h).launch = some { l with farm := l.farm.put f.toNat drawn }) := by
  refine ⟨s.due.drawnAt l.home, ?_, fun hnone => ?_, fun q hq hend => ?_, fun q hq hleft => ?_⟩
  · rw [State.drawnAt, State.due_now]
    exact Nat.le_add_right _ _
  · simpa only [hnone] using exec_fnext hc hr hl
  · exact exec_fnext_declared hc hr hl hq (FarmSlot.draw_exhausted hend)
  · exact exec_fnext_declared hc hr hl hq (FarmSlot.draw_strip hleft)

section
variable {i : Instr} {kind : Nat} {value extra : Dword} {waits : Bool} (hc : s.cur = .hart h)
include hc

theorem wordsArriveAtTheirIssue (ha : Claims.arrivalOf i s.due = some (kind, value, extra, waits)) (hr : s.Ready i)
    (hw : (s.due.hart h).wait = .none) :
    let u := s.due
    let t := u.hart h
    let open_ := t.pend = true ∧ ∃ v, u.team? t.launch t.team = some v ∧ v.ph ≤ t.pt
    let first := (u.modHart h fun t => { t with pend := false }).release h 1 t.serial
    (∀ code, t.broken = some code → exec i s =
      .next ((u.modHart h fun t => { t with broken := none, pend := false }).trapped 0x0E (BitVec.ofNat 64 code))) ∧
    (t.broken = none → open_ → exec i s = .next u) ∧
    (t.broken = none → ¬ open_ → first = .wait → exec i s = .next (if waits
      then u.modHart h fun t => { t with wait := .releasing value extra, waitWord := s.ir, waitFrom := s.now }
      else (u.modHart h fun t => { t with
        pend := false
        orders := t.orders ++ [{ streams := 511, loads := false, release := some 1, acquire := none, ready := s.now,
                                 owner := t.serial, arrives := true }] }).retired)) ∧
    (∀ w, t.broken = none → ¬ open_ → first = .ok () w → Claims.Arrives i h kind value extra waits s w) := by
  intro u t open_ first
  have hu : u.cur = .hart h := s.due_cur.trans hc
  have hexec := exec_arrival ha hr
  have harrive : t.broken = none → ¬ open_ → exec i s = .next (State.finish (arriveNow kind value extra waits u)) :=
    fun hb ho => by rw [hexec, arriveFlow_arrives hu _ _ _ _ hw hb ho]
  refine ⟨fun code hb => ?_, fun hb ho => ?_, fun hb ho hrel => ?_, fun w hb ho => arrives_of_exec hc (harrive hb ho)⟩
  · rw [hexec, arriveFlow_broken hu _ _ _ _ hw hb]
  · rw [hexec, arriveFlow_open hu _ _ _ _ hw hb ho]
  · rw [harrive hb ho, arriveNow_wait hu _ _ _ _ hw hrel, State.due_ir, State.due_now]

theorem waitingWordsGoOn (hi : (∃ value extra waits, Claims.arrivalOf i s.due = some (kind, value, extra, waits)) ∨
      i = .await ∧ kind = 0) (hr : s.Ready i) (hw : (s.due.hart h).wait = .arrived) :
    let u := s.due
    let t := u.hart h
    (∀ code, t.broken = some code → exec i s =
      .next ((u.modHart h fun t => { t with broken := none, pend := false }).trapped 0x0E (BitVec.ofNat 64 code))) ∧
    (t.broken = none → t.outcome = none → exec i s = .next u) ∧
    (∀ value flags parts, t.broken = none → t.outcome = some (value, flags, parts) →
      let y := Claims.acquired (u.modHart h fun t => { t with pend := false, outcome := none }) 1
      let ready := s.now + 8 + (if (kind - 1) / 32 = 5 then 6 else 2) * Nat.clog 2 parts
      exec i s = .next (if kind = 0 then y.delay (s.now + 6)
        else ((y.resultAt (s.ir.extractLsb' 21 5) value ready).raise flags).delay ready).retired) := by
  intro u t
  have hu : u.cur = .hart h := s.due_cur.trans hc
  have hexec : exec i s = .next (State.finish (waitArrived kind u)) := by
    rcases hi with ⟨value, extra, waits, ha⟩ | ⟨rfl, rfl⟩
    · rw [exec_arrival ha hr, arriveFlow_arrived hu _ _ _ _ hw]
    · rw [exec_await hr, awaitFlow_arrived hu hw]
  refine ⟨fun code hb => ?_, fun hb ho => ?_, fun value flags parts hb ho => ?_⟩
  · rw [hexec, waitArrived_broken hu _ hb]
  · rw [hexec, waitArrived_open hu _ hb ho]
  · rw [hexec, waitArrived_done hu _ hb ho, ← s.due_ir, ← s.due_now]

theorem awaitPassesOrWaits (hr : s.Ready .await) (hw : (s.due.hart h).wait = .none) :
    let u := s.due
    let t := u.hart h
    (∀ code, t.broken = some code → exec .await s =
      .next ((u.modHart h fun t => { t with broken := none, pend := false }).trapped 0x0E (BitVec.ofNat 64 code))) ∧
    (t.broken = none → t.pend = false → exec .await s = .next u.retired) ∧
    (∀ v, t.broken = none → t.pend = true → u.team? t.launch t.team = some v → t.pt < v.ph →
      exec .await s = .next (Claims.acquired (u.modHart h fun t => { t with pend := false }) 1).retired) ∧
    (∀ v, t.broken = none → t.pend = true → u.team? t.launch t.team = some v → v.ph ≤ t.pt →
      exec .await s = .next (u.modHart h fun t => { t with wait := .arrived, waitWord := s.ir, waitFrom := s.now })) := by
  intro u t
  have hu : u.cur = .hart h := s.due_cur.trans hc
  rw [exec_await hr]
  refine ⟨fun code hb => ?_, fun hb hp => ?_, fun v hb hp hv hover => ?_, fun v hb hp hv hopen => ?_⟩
  · rw [awaitFlow_broken hu hw hb]
  · rw [awaitFlow_idle hu hw hb hp]
    rfl
  · rw [awaitFlow_over hu hw hb hp hv hover]
    rfl
  · rw [awaitFlow_open hu hw hb hp hv hopen, State.finish_await_begins hu hw, State.due_ir, State.due_now]

end

theorem arrivesCountAfterTheirRelease {p : OrderPoint} {v : Team}
    (hp : (s.hart h).orders.find? (fun p => p.arrives && p.settled) = some p) :
    let n := (s.hart h).launch
    let m := (s.hart h).team
    let y := s.modHart h fun t => { t with orders := t.orders.filter fun o => decide (o.owner ≠ p.owner) }
    y.team? n m = some v →
    (0 < v.arrived → v.kind ≠ 0 → s.arrivalStep h =
      some ((y.breakPhase n m 2).modHart h fun t => { t with pend := true, broken := some 2 })) ∧
    (v.arrived = 0 ∨ v.kind = 0 →
      let place := fun (v : Team) => ({ v with kind := 0, arrived := v.arrived + 1,
                                               supplied := v.supplied ++ [((s.hart h).csr.hid, 0, 0)] } : Team)
      let z := (y.modTeam n m place).modHart h fun t => { t with pend := true, pt := v.ph }
      s.arrivalStep h = some (if v.live ≤ v.arrived + 1 then z.completePhase n m else z)) := by
  intro n m y hv
  have hy : y.hart h = { s.hart h with orders := (s.hart h).orders.filter fun o => decide (o.owner ≠ p.owner) } :=
    State.hart_modHart_same ..
  rw [State.arrivalStep_some hp hv, State.joinPhase_eq (n := n) (m := m) v 0 0 0 (by rw [hy]) (by rw [hy]), hy]
  refine ⟨fun ha hk => by rw [if_pos ⟨ha, hk⟩], fun hok => ?_⟩
  rw [if_neg (by omega)]

theorem teamWordsDrawAndMeet : Parts.TeamWordsDrawAndMeet := fun s h hc =>
  ⟨fun f a b l => farmDeclaresItsSlot hc, fun d f l => fnextDrawsAStrip hc,
    fun i kind value extra waits => wordsArriveAtTheirIssue hc,
    fun i kind value extra waits v e ha hr hw w hrel =>
      arrives_of_exec hc (by rw [exec_arrival ha hr, arriveFlow_releasing (s.due_cur.trans hc) _ _ _ _ hw]) hrel,
    fun i kind => waitingWordsGoOn hc, fun p v => arrivesCountAfterTheirRelease, awaitPassesOrWaits hc⟩

end Sys2Proof.Proofs
end

section
/-! PROOFS. The collectives of a team (08 R195, R196, 02 R68): what each participant receives. -/

namespace Sys2Proof.Machine

/-! ## The participants in the order of their numbers -/

theorem insertBy_eq_orderedInsert {α : Type} (le : α → α → Bool) (a : α) (l : List α) :
    insertBy le a l = l.orderedInsert (fun a b => le a b) a := by
  induction l with
  | nil => rfl
  | cons b l ih => rw [insertBy, List.orderedInsert_cons, ih]

theorem sortBy_eq_insertionSort {α : Type} (le : α → α → Bool) (l : List α) : sortBy le l = l.insertionSort fun a b => le a b := by
  induction l with
  | nil => rfl
  | cons a l ih => rw [sortBy, List.insertionSort_cons, ih, insertBy_eq_orderedInsert]

theorem sortBy_perm {α : Type} (le : α → α → Bool) (l : List α) : (sortBy le l).Perm l := by
  rw [sortBy_eq_insertionSort]
  exact List.perm_insertionSort ..

/-- What the participants supplied, in the order of their numbers. -/
def byNumber (l : List (Nat × Dword × Dword)) : List (Nat × Dword × Dword) := sortBy (fun a b => decide (a.1 ≤ b.1)) l

theorem byNumber_perm (l : List (Nat × Dword × Dword)) : (byNumber l).Perm l := sortBy_perm _ l

/-- The result of the participant with the number n. -/
def resultOf (kind : Nat) (l : List (Nat × Dword × Dword)) (n : Nat) : Option Dword :=
  ((treeResults kind l).1.find? fun q => q.1 = n).map Prod.snd

variable {l : List (Nat × Dword × Dword)} {p : Nat × Dword × Dword}

/-- Where each participant's result follows from its number, that is what it finds. -/
theorem find?_keyed (g : Nat → Dword) (hp : p ∈ l) :
    ((l.map fun q => (q.1, g q.1)).find? fun q => q.1 = p.1).map Prod.snd = some (g p.1) := by
  obtain ⟨r, hr⟩ := Option.isSome_iff_exists.1 (List.find?_isSome.2 ⟨(p.1, g p.1), List.mem_map_of_mem hp, decide_eq_true rfl⟩ :
    ((l.map fun q => (q.1, g q.1)).find? fun q => q.1 = p.1).isSome = true)
  obtain ⟨q, -, rfl⟩ := List.mem_map.1 (List.mem_of_find?_eq_some hr)
  have hq : q.1 = p.1 := by simpa using List.find?_some hr
  rw [hr, Option.map_some, hq]

/-- Where all participants receive one value, that is what each finds. -/
theorem resultOf_every {kind : Nat} {v : Dword} (hp : p ∈ l) (h : (treeResults kind l).1 = (byNumber l).map fun q => (q.1, v)) :
    resultOf kind l p.1 = some v := by
  rw [resultOf, h]
  exact find?_keyed (fun _ => v) ((byNumber_perm l).mem_iff.2 hp)

/-! ## Sums -/

theorem foldl_add_eq_ofNat_sum (vs : List Dword) (a : Dword) :
    vs.foldl (· + ·) a = a + BitVec.ofNat 64 (vs.map BitVec.toNat).sum := by
  induction vs generalizing a with
  | nil => simp
  | cons v vs ih => rw [List.foldl_cons, ih, List.map_cons, List.sum_cons, BitVec.ofNat_add, BitVec.ofNat_toNat,
      BitVec.setWidth_eq, BitVec.add_assoc]

theorem foldl_tail_add (vs : List Dword) :
    vs.tail.foldl (· + ·) (vs.headD 0) = BitVec.ofNat 64 (vs.map BitVec.toNat).sum := by
  cases vs with
  | nil => rfl
  | cons v vs => rw [List.tail_cons, List.headD_cons, foldl_add_eq_ofNat_sum, List.map_cons, List.sum_cons, BitVec.ofNat_add,
      BitVec.ofNat_toNat, BitVec.setWidth_eq]

/-- XREDADD. -/
theorem resultOf_add (hp : p ∈ l) : resultOf (1 + 32 * 0) l p.1 = some (BitVec.ofNat 64 (l.map fun q => q.2.1.toNat).sum) := by
  have h : (treeResults (1 + 32 * 0) l).1 = (byNumber l).map fun q =>
      (q.1, ((byNumber l).map fun q => q.2.1).tail.foldl (· + ·) (((byNumber l).map fun q => q.2.1).headD 0)) := rfl
  rw [resultOf_every hp h, foldl_tail_add, List.map_map, ((byNumber_perm l).map _).sum_eq]
  rfl

/-- XSCANADD. -/
theorem resultOf_scan (hp : p ∈ l) : resultOf (1 + 32 * 3) l p.1 =
    some (BitVec.ofNat 64 ((l.filter fun q => decide (q.1 ≤ p.1)).map fun q => q.2.1.toNat).sum) := by
  have h := find?_keyed (fun n => ((byNumber l).filter fun q => decide (q.1 ≤ n)).foldl (fun a q => a + q.2.1) 0)
    ((byNumber_perm l).mem_iff.2 hp)
  refine Eq.trans (Eq.trans rfl h) ?_
  rw [← List.foldl_map (f := fun q : Nat × Dword × Dword => q.2.1) (g := (· + ·)), foldl_add_eq_ofNat_sum, zero_add, List.map_map,
    (((byNumber_perm l).filter _).map _).sum_eq]
  rfl

/-! ## Greatest and least values -/

/-- Going through a list with the value kept so far, and keeping each better one, gives one with the greatest key. -/
theorem foldl_keep_greatest {β : Type} [LinearOrder β] (key : Dword → β) {better : Dword → Dword → Bool}
    (hbetter : ∀ a b, better a b = true ↔ key a < key b) (vs : List Dword) (a : Dword) :
    let r := vs.foldl (fun a b => if better a b then b else a) a
    r ∈ a :: vs ∧ ∀ q ∈ a :: vs, key q ≤ key r := by
  induction vs generalizing a with
  | nil => simp
  | cons b vs ih =>
    intro r
    obtain ⟨hmem, hle⟩ := ih (if better a b then b else a)
    change r ∈ _ at hmem
    change ∀ q ∈ _, key q ≤ key r at hle
    by_cases hb : better a b = true
    · rw [if_pos hb] at hmem hle
      exact ⟨List.mem_cons_of_mem _ hmem,
        List.forall_mem_cons.2 ⟨((hbetter a b).1 hb).le.trans (hle b List.mem_cons_self), hle⟩⟩
    · rw [if_neg hb] at hmem hle
      obtain ⟨ha, hle⟩ := List.forall_mem_cons.1 hle
      refine ⟨?_, List.forall_mem_cons.2 ⟨ha, List.forall_mem_cons.2 ⟨(not_lt.1 (mt (hbetter a b).2 hb)).trans ha, hle⟩⟩⟩
      rcases List.mem_cons.1 hmem with hr | hr
      · exact hr ▸ List.mem_cons_self
      · exact List.mem_cons_of_mem _ (List.mem_cons_of_mem _ hr)

/-- A collective that keeps the better of two values gives one of the values supplied, and none has a greater key. -/
theorem resultOf_greatest {β : Type} [LinearOrder β] (key : Dword → β) {better : Dword → Dword → Bool}
    (hbetter : ∀ a b, better a b = true ↔ key a < key b) {kind : Nat} (hp : p ∈ l)
    (h : (treeResults kind l).1 = (byNumber l).map fun q =>
      (q.1, ((byNumber l).map fun q => q.2.1).tail.foldl (fun a b => if better a b then b else a)
        (((byNumber l).map fun q => q.2.1).headD 0))) :
    ∃ v, resultOf kind l p.1 = some v ∧ (∃ q ∈ l, q.2.1 = v) ∧ ∀ q ∈ l, key q.2.1 ≤ key v := by
  refine ⟨_, resultOf_every hp h, ?_⟩
  have hmem : ∀ q ∈ l, q.2.1 ∈ (byNumber l).map fun q => q.2.1 := fun q hq => List.mem_map_of_mem ((byNumber_perm l).mem_iff.2 hq)
  have hsupplied : ∀ v ∈ (byNumber l).map fun q => q.2.1, ∃ q ∈ l, q.2.1 = v := fun v hv => by
    obtain ⟨q, hq, rfl⟩ := List.mem_map.1 hv
    exact ⟨q, (byNumber_perm l).mem_iff.1 hq, rfl⟩
  generalize (byNumber l).map (fun q => q.2.1) = vs at hmem hsupplied
  cases vs with
  | nil => exact absurd (hmem p hp) List.not_mem_nil
  | cons a vs =>
    obtain ⟨hr, hle⟩ := foldl_keep_greatest key hbetter vs a
    exact ⟨hsupplied _ hr, fun q hq => hle _ (hmem q hq)⟩

/-! ## XBCAST -/

theorem resultOf_broadcast (hl : (l.map Prod.fst).Nodup) (hp : p ∈ l) {r : Nat × Dword × Dword} (hr : r ∈ l) (hlt : r.1 < 2 ^ 64)
    (hroot : ∀ q ∈ l, q.1 < 2 ^ 64 ∧ q.2.2 = BitVec.ofNat 64 r.1) : resultOf (1 + 32 * 4) l p.1 = some r.2.1 := by
  have hmem : ∀ {q}, q ∈ byNumber l → q ∈ l := (byNumber_perm l).mem_iff.1
  have hhead : (((byNumber l).head?.map fun q => q.2.2).getD 0) = BitVec.ofNat 64 r.1 := by
    cases ho : byNumber l with
    | nil => exact absurd ((byNumber_perm l).mem_iff.2 hr) (ho ▸ List.not_mem_nil)
    | cons a o => exact (hroot a (hmem (ho ▸ List.mem_cons_self))).2
  have hfind : ((byNumber l).find? fun q => BitVec.ofNat 64 q.1 = BitVec.ofNat 64 r.1) = some r := by
    obtain ⟨q, hq⟩ := Option.isSome_iff_exists.1 (List.find?_isSome.2 ⟨r, (byNumber_perm l).mem_iff.2 hr, decide_eq_true rfl⟩ :
      ((byNumber l).find? fun q => BitVec.ofNat 64 q.1 = BitVec.ofNat 64 r.1).isSome = true)
    have hql := hmem (List.mem_of_find?_eq_some hq)
    have hnumber : BitVec.ofNat 64 q.1 = BitVec.ofNat 64 r.1 := by simpa using List.find?_some hq
    apply_fun BitVec.toNat at hnumber
    rw [BitVec.toNat_ofNat, BitVec.toNat_ofNat, Nat.mod_eq_of_lt (hroot q hql).1, Nat.mod_eq_of_lt hlt] at hnumber
    rw [hq, List.inj_on_of_nodup_map hl hql hr hnumber]
  have h : (treeResults (1 + 32 * 4) l).1 = (byNumber l).map fun q =>
      (q.1, (((byNumber l).find? fun q => BitVec.ofNat 64 q.1 = ((byNumber l).head?.map fun q => q.2.2).getD 0).map
        fun q => q.2.1).getD 0) := rfl
  rw [resultOf_every hp h, hhead, hfind]
  rfl

/-! ## XREDFADD -/

/-- A sum of one participant in FP32 is its value, rounded under its mode. -/
theorem resultOf_floatAdd_one (p : Nat × Dword × Dword) : resultOf (1 + 32 * 5) [p] p.1 =
    some (BitVec.ofNat 64 (fmtF32.round p.2.2.toNat (fmtF32.decode (p.2.1.toNat % 2 ^ 32))).1) :=
  find?_keyed (fun _ => BitVec.ofNat 64 (fmtF32.round p.2.2.toNat (fmtF32.decode (p.2.1.toNat % 2 ^ 32))).1) List.mem_cons_self

end Sys2Proof.Machine

namespace Sys2Proof.Proofs

open Sys2Proof.Machine

theorem collectivesCombineTheValues : Parts.CollectivesCombineTheValues := fun _ p hl hp =>
  ⟨resultOf_add hp, resultOf_scan hp,
    resultOf_greatest BitVec.toInt (fun _ _ => BitVec.slt_iff_toInt_lt) hp rfl,
    resultOf_greatest BitVec.toNat (fun _ _ => BitVec.ult_iff_toNat_lt) hp rfl,
    resultOf_greatest (OrderDual.toDual ∘ BitVec.toInt) (fun _ _ => BitVec.slt_iff_toInt_lt) hp rfl,
    resultOf_greatest (OrderDual.toDual ∘ BitVec.toNat) (fun _ _ => BitVec.ult_iff_toNat_lt) hp rfl,
    fun _ hr => resultOf_broadcast hl hp hr, fun h => h ▸ resultOf_floatAdd_one p⟩

/-- Settles O30: the team words by what their hart waits for and by the state of its phase (`teamWordsDrawAndMeet`); the collectives
by what does not depend on the order of the participants (`byNumber_perm`). -/
theorem teamWordsMeetAndCombine : Obligations.TeamWordsMeetAndCombine := ⟨teamWordsDrawAndMeet, collectivesCombineTheValues⟩

end Sys2Proof.Proofs
end

section
/-! PROOFS. The shared caches (09 R205, R207, R208): the rank of a line under the schedule of its pair, the victim of a set, and the
line that an access brings in. -/

namespace Sys2Proof.Machine

/-! ## The rank of a line (R207, R208) -/

theorem entryCovers_iff (line : Nat) (e : BitVec 128) : entryCovers line e = true ↔
    (e.extractLsb' 7 39).toNat ≤ line ∧ line < (e.extractLsb' 7 39).toNat + (e.extractLsb' 64 32).toNat := by
  simp [entryCovers]

theorem DiePair.rank_uncovered {p : DiePair} {line : Nat} (h : ∀ e ∈ p.schedule, ¬ entryCovers line e = true) :
    p.rank line = some 0 := by
  rw [DiePair.rank, List.find?_eq_none.2 h]

/-- The first entry of the schedule that covers a line decides on it. -/
theorem DiePair.rank_covered {p : DiePair} {line : Nat} {l r : List (BitVec 128)} {e : BitVec 128} (hp : p.schedule = l ++ e :: r)
    (hl : ∀ o ∈ l, ¬ entryCovers line o = true) (he : entryCovers line e = true) :
    p.rank line = if (e.extractLsb' 96 16).toNat < p.stepCount.toNat then some (e.extractLsb' 112 8).toNat else none := by
  have hfind : p.schedule.find? (entryCovers line) = some e := by
    rw [hp, List.find?_append, List.find?_eq_none.2 hl, List.find?_cons_of_pos he, Option.none_or]
  rw [DiePair.rank, hfind]

/-! ## The victim of a set (R208) -/

/-- The better candidate for a victim: the best of the lines before, or a line that may leave at a lower rank, or at the same rank from a
lower address. -/
def DiePair.better (p : DiePair) (first : Nat) (best : Option (Nat × Nat)) (l : Nat) : Option (Nat × Nat) :=
  match p.rank (first + l), best with
  | none, b => b
  | some r, none => some (r, l)
  | some r, some b => if r < b.1 ∨ (r = b.1 ∧ l < b.2) then some (r, l) else some b

theorem DiePair.victim_eq (p : DiePair) (first : Nat) (set : List Nat) :
    p.victim first set = (set.foldl (p.better first) none).map Prod.snd := rfl

variable {p : DiePair} {first l r v : Nat} {set : List Nat} {best : Option (Nat × Nat)}

theorem DiePair.better_of_kept (h : p.rank (first + l) = none) : p.better first best l = best := by
  simp only [DiePair.better, h]

theorem DiePair.better_none (h : p.rank (first + l) = some r) : p.better first none l = some (r, l) := by
  simp only [DiePair.better, h]

theorem DiePair.better_some (h : p.rank (first + l) = some r) (b : Nat × Nat) :
    p.better first (some b) l = if r < b.1 ∨ (r = b.1 ∧ l < b.2) then some (r, l) else some b := by
  simp only [DiePair.better, h]

theorem DiePair.victim_none (h : ∀ l ∈ set, p.rank (first + l) = none) : p.victim first set = none := by
  have hfold : set.foldl (p.better first) none = none := by
    induction set with
    | nil => rfl
    | cons l ls ih =>
      rw [List.foldl_cons, DiePair.better_of_kept (h l List.mem_cons_self)]
      exact ih fun x hx => h x (List.mem_cons_of_mem _ hx)
  rw [DiePair.victim_eq, hfold, Option.map_none]

/-- No candidate is better than v at rank r. -/
def NoneBetter (r v : Nat) (b : Nat × Nat) : Prop := r < b.1 ∨ r = b.1 ∧ v ≤ b.2

/-- The best candidate stays against one that is no better. -/
theorem DiePair.better_keeps (h : ∀ q, p.rank (first + l) = some q → NoneBetter r v (q, l)) :
    p.better first (some (r, v)) l = some (r, v) := by
  cases hq : p.rank (first + l) with
  | none => exact DiePair.better_of_kept hq
  | some q =>
    have hle : r < q ∨ r = q ∧ v ≤ l := h q hq
    rw [DiePair.better_some hq, if_neg]
    omega

/-- The best candidate displaces those before it. -/
theorem DiePair.better_takes (hv : p.rank (first + v) = some r) (h : ∀ b, best = some b → NoneBetter r v b) :
    p.better first best v = some (r, v) := by
  cases best with
  | none => exact DiePair.better_none hv
  | some b =>
    obtain ⟨q, l⟩ := b
    have hle : r < q ∨ r = q ∧ v ≤ l := h _ rfl
    rw [DiePair.better_some hv]
    split
    · rfl
    · rename_i hn
      obtain ⟨rfl, rfl⟩ : q = r ∧ l = v := by simp only at hn; omega
      rfl

theorem DiePair.foldl_better_keeps (h : ∀ l ∈ set, ∀ q, p.rank (first + l) = some q → NoneBetter r v (q, l)) :
    set.foldl (p.better first) (some (r, v)) = some (r, v) := by
  induction set with
  | nil => rfl
  | cons l ls ih =>
    rw [List.foldl_cons, DiePair.better_keeps (h l List.mem_cons_self)]
    exact ih fun x hx => h x (List.mem_cons_of_mem _ hx)

/-- Of lines none of which is better than v, the best one is not better either. -/
theorem DiePair.noneBetter_foldl (h : ∀ l ∈ set, ∀ q, p.rank (first + l) = some q → NoneBetter r v (q, l)) :
    ∀ {best : Option (Nat × Nat)}, (∀ b, best = some b → NoneBetter r v b) →
      ∀ b, set.foldl (p.better first) best = some b → NoneBetter r v b := by
  induction set with
  | nil => exact fun hb => hb
  | cons l ls ih =>
    intro best hb
    refine ih (fun x hx => h x (List.mem_cons_of_mem _ hx)) fun b hbest => ?_
    cases hq : p.rank (first + l) with
    | none => exact hb b ((DiePair.better_of_kept hq).symm.trans hbest)
    | some q =>
      cases best with
      | none =>
        rw [DiePair.better_none hq, Option.some.injEq] at hbest
        exact hbest ▸ h l List.mem_cons_self q hq
      | some b' =>
        rw [DiePair.better_some hq] at hbest
        split at hbest
        · rw [← Option.some.inj hbest]
          exact h l List.mem_cons_self q hq
        · exact hb b hbest

/-- The victim is the line of lowest rank, of equal ranks that of lowest address. -/
theorem DiePair.victim_least (hv : v ∈ set) (hr : p.rank (first + v) = some r)
    (h : ∀ l ∈ set, ∀ q, p.rank (first + l) = some q → r < q ∨ r = q ∧ v ≤ l) : p.victim first set = some v := by
  obtain ⟨before, after, rfl⟩ := List.append_of_mem hv
  have hbefore := DiePair.noneBetter_foldl (set := before) (fun l hl => h l (List.mem_append_left _ hl)) (best := none) nofun
  have hafter := DiePair.foldl_better_keeps (set := after) fun l hl => h l (List.mem_append_right _ (List.mem_cons_of_mem _ hl))
  rw [DiePair.victim_eq, List.foldl_append, List.foldl_cons, DiePair.better_takes hr hbefore, hafter, Option.map_some]

/-! ## A line that is brought in (R205, R208) -/

variable {s : State} {line : Nat}

/-- The lines of a line's set that its half of a shared cache holds. -/
def State.cachedSet (s : State) (line : Nat) : List Nat :=
  (s.cache.filter fun l => decide (cacheHalf l = cacheHalf line)).filter fun l => decide (cacheSetOf l = cacheSetOf line)

theorem State.allocate_held (h : line ∈ s.cache) : s.allocate line = s := by
  rw [State.allocate, State.allocated, if_pos (List.contains_iff_mem.2 h)]

theorem State.allocate_free (h : line ∉ s.cache)
    (hfree : (s.cache.filter fun l => decide (cacheHalf l = cacheHalf line)).length < 16 ∨ (s.cachedSet line).length < 16) :
    s.allocate line = { s with cache := line :: s.cache } := by
  rw [State.allocate, State.allocated, if_neg (mt List.contains_iff_mem.1 h)]
  exact congrArg (fun c => { s with cache := c }) (if_pos hfree)

/-- In a full set the victim, if there is one, makes way. -/
theorem State.allocate_full {victim : Option Nat} (h : line ∉ s.cache)
    (hhalf : 16 ≤ (s.cache.filter fun l => decide (cacheHalf l = cacheHalf line)).length) (hset : 16 ≤ (s.cachedSet line).length)
    (hv : (s.pair (cacheHalf line / 2)).victim (s.page.devnum.toNat * 2 ^ 36) (s.cachedSet line) = victim) :
    s.allocate line = { s with cache := victim.elim s.cache fun v => line :: s.cache.erase v } := by
  rw [State.cachedSet] at hv
  rw [State.allocate, State.allocated, if_neg (mt List.contains_iff_mem.1 h)]
  refine congrArg (fun c => { s with cache := c }) ((if_neg (not_or.2 ⟨Nat.not_lt.2 hhalf, Nat.not_lt.2 hset⟩)).trans ?_)
  rw [hv]
  cases victim <;> rfl

/-- Bits 7 and 16 of an address choose the half of the cache of its die pair (R205). -/
theorem cacheHalf_eq (line : Nat) : cacheHalf line =
    2 * (128 * line / (96 * 2 ^ 30)) + (if (128 * line).testBit 7 ^^ (128 * line).testBit 16 then 1 else 0) := by
  have hpair : 128 * line / (96 * 2 ^ 30) = line / (96 * 2 ^ 23) := by omega
  have h7 : 128 * line / 2 ^ 7 = line := by omega
  have h16 : 128 * line / 2 ^ 16 = line / 512 := by omega
  rw [cacheHalf, hpair, Nat.testBit_eq_decide_div_mod_eq, Nat.testBit_eq_decide_div_mod_eq, h7, h16]
  rcases Nat.mod_two_eq_zero_or_one line with h | h <;> rcases Nat.mod_two_eq_zero_or_one (line / 512) with h' | h' <;> simp [h, h']

end Sys2Proof.Machine

namespace Sys2Proof.Proofs

open Sys2Proof.Machine

/-- Settles O57: the fold over a full set ends with its least candidate (`DiePair.victim_least`), and the first entry that covers a line
gives its rank (`DiePair.rank_covered`). -/
theorem sharedCachesEvictBySchedule : Obligations.SharedCachesEvictBySchedule := by
  refine ⟨?_, ?_, cacheHalf_eq⟩
  · intro s line pair half set rank
    refine ⟨State.allocate_held, fun hout => ⟨State.allocate_free hout, fun hhalf hset => ?_⟩⟩
    exact ⟨fun hnone => State.allocate_full hout hhalf hset (DiePair.victim_none hnone),
      fun v r hv hr hleast => State.allocate_full hout hhalf hset (DiePair.victim_least hv hr hleast)⟩
  · intro p line covers
    refine ⟨fun h => DiePair.rank_uncovered fun e he => mt (entryCovers_iff line e).1 (h e he), fun l e r hp hl he => ?_⟩
    have hrank := DiePair.rank_covered hp (fun o ho => mt (entryCovers_iff line o).1 (hl o ho)) ((entryCovers_iff line e).2 he)
    exact ⟨fun hstep => hrank.trans (if_neg (Nat.not_lt.2 hstep)), fun hstep => hrank.trans (if_pos hstep)⟩

end Sys2Proof.Proofs
end

section
/-! PROOFS. A write at the home (09 R220, 11 R253, R254): the lines that it rekeys, and what a byte reads as after it. -/

namespace Sys2Proof.Machine

variable {s t : State} {key line loc : Nat}

/-! ## The lines of a range -/

theorem mem_linesOf {unit loc n l : Nat} : l ∈ linesOf unit loc n ↔ 0 < n ∧ loc / unit ≤ l ∧ l ≤ (loc + n - 1) / unit := by
  unfold linesOf
  split
  · simp only [List.not_mem_nil, false_iff]
    omega
  · rename_i hn
    have hle : loc / unit ≤ (loc + n - 1) / unit := Nat.div_le_div_right (by omega)
    simp only [List.mem_map, List.mem_range]
    constructor
    · rintro ⟨i, hi, rfl⟩
      omega
    · rintro ⟨_, hl, hl'⟩
      exact ⟨l - loc / unit, by omega, by omega⟩

theorem div_mem_linesOf {unit loc n a : Nat} (h : loc ≤ a) (h' : a < loc + n) : a / unit ∈ linesOf unit loc n :=
  mem_linesOf.2 ⟨by omega, Nat.div_le_div_right h, Nat.div_le_div_right (by omega)⟩

/-! ## What a byte reads as -/

theorem State.plain_outside (s : State) (key : Nat) {a : Nat} (h : 2 ^ 44 ≤ a) : s.plain key a = s.byte a := by
  rw [State.plain, isHome, decide_eq_false (Nat.not_lt.2 h)]
  rfl

/-- A byte of a line that was last written under the key that reads it. -/
theorem State.plain_same_key {a : Nat} (h : s.lineKeys.get? (a / 128) = some (s.keyOf key)) : s.plain key a = s.byte a := by
  simp [State.plain, h]

/-- What a byte reads as depends on its line alone, and on the keys and the place of the device. -/
theorem State.plain_of_same_line {a : Nat} (hline : t.lineKeys.get? (a / 128) = s.lineKeys.get? (a / 128))
    (hbytes : ∀ b, b / 128 = a / 128 → t.byte b = s.byte b) (hkeys : t.keys = s.keys) (hpage : t.page = s.page) :
    t.plain key a = s.plain key a := by
  have hown : t.byte a = s.byte a := hbytes a rfl
  have hall : t.bytes (a / 128 * 128) 128 = s.bytes (a / 128 * 128) 128 :=
    List.map_congr_left fun i hi => hbytes _ (by have := List.mem_range.1 hi; omega)
  have hkey : t.keyOf key = s.keyOf key := by rw [State.keyOf, hkeys, State.keyOf]
  have haddress : t.lineAddress (a / 128) = s.lineAddress (a / 128) := by rw [State.lineAddress, hpage, State.lineAddress]
  rw [State.plain, State.plain, hline, hown, hall, hkey, haddress]

/-! ## A line rekeyed (R220) -/

theorem State.setBytes_lineKeys (s : State) (loc : Nat) (bs : List (Option Byte)) : (s.setBytes loc bs).lineKeys = s.lineKeys := by
  induction bs generalizing s loc with
  | nil => rfl
  | cons o bs ih => cases o <;> exact ih ..

theorem State.setBytes_flight (s : State) (loc : Nat) (bs : List (Option Byte)) : (s.setBytes loc bs).flight = s.flight := by
  induction bs generalizing s loc with
  | nil => rfl
  | cons o bs ih => cases o <;> exact ih ..

theorem State.Stores.page (h : s.Stores t) : t.page = s.page := h.part _ fun _ _ _ _ _ _ => rfl

theorem State.Stores.keyOf (h : s.Stores t) (key : Nat) : t.keyOf key = s.keyOf key :=
  h.part (fun u => u.keyOf key) fun _ _ _ _ _ _ => rfl

/-- A rekey of a line has nothing to do where the line's key is the one given already, and only notes the key where it has none;
otherwise it also writes what each byte of the line reads as. -/
theorem State.rekey_cases (s : State) (key line : Nat) :
    (s.lineKeys.get? line = some (s.keyOf key) ∧ s.rekey key line = s) ∨
    (s.lineKeys.get? line = none ∧ s.rekey key line = { s with lineKeys := s.lineKeys.put line (s.keyOf key) }) ∨
    s.rekey key line = ({ s with lineKeys := s.lineKeys.put line (s.keyOf key) } : State).setBytes (128 * line)
      ((List.range 128).map fun i => some (s.plain key (128 * line + i))) := by
  rw [State.rekey]
  cases h : s.lineKeys.get? line with
  | none => exact .inr (.inl ⟨rfl, rfl⟩)
  | some v =>
    by_cases hv : v = s.keyOf key
    · exact .inl ⟨congrArg some hv, if_pos hv⟩
    · exact .inr (.inr (if_neg hv))

theorem State.rekey_flight (s : State) (key line : Nat) : (s.rekey key line).flight = s.flight := by
  obtain ⟨-, h⟩ | ⟨-, h⟩ | h := s.rekey_cases key line <;> rw [h]
  exact State.setBytes_flight ..

theorem State.rekey_lineKeys_same (s : State) (key line : Nat) : (s.rekey key line).lineKeys.get? line = some (s.keyOf key) := by
  obtain ⟨hkey, h⟩ | ⟨-, h⟩ | h := s.rekey_cases key line <;> rw [h]
  · exact hkey
  · exact FMap.get?_put_same ..
  · rw [State.setBytes_lineKeys]
    exact FMap.get?_put_same ..

theorem State.rekey_lineKeys_other (s : State) (key : Nat) {line l : Nat} (hl : l ≠ line) :
    (s.rekey key line).lineKeys.get? l = s.lineKeys.get? l := by
  obtain ⟨-, h⟩ | ⟨-, h⟩ | h := s.rekey_cases key line <;> rw [h]
  · exact FMap.get?_put_other _ _ hl
  · rw [State.setBytes_lineKeys]
    exact FMap.get?_put_other _ _ hl

theorem State.rekey_byte_other (s : State) (key : Nat) {line a : Nat} (ha : a / 128 ≠ line) : (s.rekey key line).byte a = s.byte a := by
  obtain ⟨-, h⟩ | ⟨-, h⟩ | h := s.rekey_cases key line <;> rw [h]
  · rfl
  · refine State.byte_setBytes_outside _ ?_
    rw [List.length_map, List.length_range]
    omega

theorem State.rekey_plain_other (s : State) (key k : Nat) {line a : Nat} (ha : a / 128 ≠ line) :
    (s.rekey key line).plain k a = s.plain k a :=
  State.plain_of_same_line (s.rekey_lineKeys_other key ha) (fun _ hb => s.rekey_byte_other key (hb ▸ ha))
    (s.rekey_stores key line).keys (s.rekey_stores key line).page

/-- Under the key of the rekey every byte reads as before. -/
theorem State.rekey_plain (s : State) (key line a : Nat) : (s.rekey key line).plain key a = s.plain key a := by
  by_cases ha : a / 128 = line
  · have hkey : (s.rekey key line).keyOf key = s.keyOf key := by rw [State.keyOf, (s.rekey_stores key line).keys, State.keyOf]
    rw [State.plain_same_key (by rw [hkey, ha, State.rekey_lineKeys_same])]
    obtain ⟨hk, h⟩ | ⟨hnone, h⟩ | h := s.rekey_cases key line <;> rw [h]
    · rw [State.plain_same_key (ha ▸ hk)]
    · simp only [State.plain, ha, hnone, ite_self]
      rfl
    · have hat : 128 * line + (a - 128 * line) = a := by omega
      rw [State.byte_setBytes, if_pos (by omega), List.getElem?_map, List.getElem?_range (by omega), Option.map_some, Option.join_some,
        Option.getD_some, hat]
  · exact s.rekey_plain_other key key ha

/-! ## Lines rekeyed one after the other -/

/-- The lines of a write become lines of its key. -/
def State.rekeyAll (s : State) (key : Nat) (lines : List Nat) : State := lines.foldl (fun s l => s.rekey key l) s

theorem State.rekeyAll_stores (s : State) (key : Nat) (lines : List Nat) : s.Stores (s.rekeyAll key lines) :=
  .foldl (fun s l => s.rekey_stores key l) lines s

theorem State.rekeyAll_flight (s : State) (key : Nat) (lines : List Nat) : (s.rekeyAll key lines).flight = s.flight := by
  induction lines generalizing s with
  | nil => rfl
  | cons l ls ih => exact (ih _).trans (s.rekey_flight key l)

theorem State.rekeyAll_plain (s : State) (key : Nat) (lines : List Nat) (a : Nat) :
    (s.rekeyAll key lines).plain key a = s.plain key a := by
  induction lines generalizing s with
  | nil => rfl
  | cons l ls ih => exact (ih _).trans (s.rekey_plain key l a)

theorem State.rekeyAll_plain_other (s : State) (key k : Nat) {lines : List Nat} {a : Nat} (h : a / 128 ∉ lines) :
    (s.rekeyAll key lines).plain k a = s.plain k a := by
  induction lines generalizing s with
  | nil => rfl
  | cons l ls ih =>
    obtain ⟨hl, hls⟩ := List.ne_and_not_mem_of_not_mem_cons h
    exact (ih _ hls).trans (s.rekey_plain_other key k hl)

theorem State.rekeyAll_lineKeys (s : State) (key : Nat) {lines : List Nat} {l : Nat}
    (h : l ∈ lines ∨ s.lineKeys.get? l = some (s.keyOf key)) : (s.rekeyAll key lines).lineKeys.get? l = some (s.keyOf key) := by
  induction lines generalizing s with
  | nil => exact h.resolve_left List.not_mem_nil
  | cons x xs ih =>
    have hkey := (s.rekey_stores key x).keyOf key
    rw [← hkey]
    refine ih _ ?_
    rw [hkey]
    by_cases hx : l = x
    · exact .inr (hx ▸ s.rekey_lineKeys_same key x)
    · rw [State.rekey_lineKeys_other s key hx]
      exact h.imp_left fun hm => (List.mem_cons.1 hm).resolve_left hx

/-! ## Bytes written at the home (R220, R253) -/

variable {bs : List (Option Byte)}

theorem State.homeSet_eq (s : State) (key : Nat) (h : loc + bs.length ≤ 2 ^ 44) :
    s.homeSet key loc bs = (s.rekeyAll key (linesOf 128 loc bs.length)).setBytes loc bs := by
  rw [State.homeSet]
  by_cases hempty : bs.length = 0
  · rw [hempty]
    exact congrArg (State.setBytes · loc bs) (ite_self _)
  · rw [isHome, decide_eq_true (show loc < 2 ^ 44 by omega)]
    rfl

theorem State.homeSet_flight (s : State) (key : Nat) (h : loc + bs.length ≤ 2 ^ 44) : (s.homeSet key loc bs).flight = s.flight := by
  rw [State.homeSet_eq s key h, State.setBytes_flight, State.rekeyAll_flight]

theorem State.homeSet_byte_outside_home (s : State) (key : Nat) (h : loc + bs.length ≤ 2 ^ 44) {a : Nat} (ha : 2 ^ 44 ≤ a) :
    (s.homeSet key loc bs).byte a = s.byte a := by
  rw [State.homeSet_eq s key h, State.byte_setBytes_outside _ (by omega), ← State.plain_outside _ key ha, State.rekeyAll_plain,
    State.plain_outside _ key ha]

/-- A byte of a line that the write meets is read as it is stored. -/
theorem State.homeSet_plain_met (s : State) (key : Nat) (h : loc + bs.length ≤ 2 ^ 44) {a : Nat}
    (ha : a / 128 ∈ linesOf 128 loc bs.length) :
    (s.homeSet key loc bs).plain key a = if loc ≤ a then ((bs[a - loc]?).join).getD (s.plain key a) else s.plain key a := by
  have hlines := s.rekeyAll_lineKeys key (.inl ha)
  have hkey := (s.rekeyAll_stores key (linesOf 128 loc bs.length)).keyOf key
  have hold : (s.rekeyAll key (linesOf 128 loc bs.length)).byte a = s.plain key a := by
    rw [← State.plain_same_key (hlines.trans (congrArg some hkey.symm)), State.rekeyAll_plain]
  have hsame := hlines.trans (congrArg some (((State.setBytes_stores _ loc bs).keyOf key).trans hkey).symm)
  rw [State.homeSet_eq s key h, State.plain_same_key ((congrArg (FMap.get? · _) (State.setBytes_lineKeys ..)).trans hsame),
    State.byte_setBytes, hold]

/-- A line that the write does not meet reads as before under every key. -/
theorem State.homeSet_plain_unmet (s : State) (key k : Nat) (h : loc + bs.length ≤ 2 ^ 44) {a : Nat}
    (ha : a / 128 ∉ linesOf 128 loc bs.length) : (s.homeSet key loc bs).plain k a = s.plain k a := by
  rw [State.homeSet_eq s key h, ← s.rekeyAll_plain_other key k ha]
  refine State.plain_of_same_line (by rw [State.setBytes_lineKeys]) (fun b hb => State.byte_setBytes_outside _ ?_)
    (State.setBytes_stores ..).keys (State.setBytes_stores ..).page
  by_contra hin
  exact ha (hb ▸ div_mem_linesOf (by omega) (by omega))

/-- A byte outside the write reads as before under its key. -/
theorem State.homeSet_plain_outside (s : State) (key : Nat) (h : loc + bs.length ≤ 2 ^ 44) {a : Nat}
    (ha : a < loc ∨ loc + bs.length ≤ a) : (s.homeSet key loc bs).plain key a = s.plain key a := by
  by_cases hmet : a / 128 ∈ linesOf 128 loc bs.length
  · rw [State.homeSet_plain_met s key h hmet]
    split
    · rw [List.getElem?_eq_none (by omega)]
      rfl
    · rfl
  · exact s.homeSet_plain_unmet key key h hmet

/-! ## A write at the home (R253, R254) -/

theorem State.foldl_revoke_eq (s : State) (words : List Nat) : ∃ l, words.foldl (fun s w => s.revoke none w) s = { s with l1 := l } := by
  induction words generalizing s with
  | nil => exact ⟨s.l1, rfl⟩
  | cons w ws ih =>
    obtain ⟨l, h⟩ := ih (s.revoke none w)
    exact ⟨l, h⟩

/-- Beside the bytes that it sets, a write at the home changes the L1s and the poison alone. -/
theorem State.homeStore_eq (s : State) (key loc : Nat) (bs : List (Option Byte)) : ∃ l p, s.homeStore key loc bs =
    { ((s.settle loc bs.length).touch loc bs.length).homeSet key loc bs with l1 := l, poison := p } := by
  obtain ⟨l, h⟩ := (((s.settle loc bs.length).touch loc bs.length).homeSet key loc bs).foldl_revoke_eq (linesOf 8 loc bs.length)
  exact ⟨l, _, by rw [State.homeStore, h]⟩

end Sys2Proof.Machine

namespace Sys2Proof.Proofs

open Sys2Proof.Machine

/-- Settles O56: the write rekeys the lines that it meets, which changes no byte under its key (`State.rekeyAll_plain`), and then sets
its bytes; a line that it does not meet keeps its bytes and its key (`State.homeSet_plain_unmet`). -/
theorem homeStoresWriteTheirBytes : Obligations.HomeStoresWriteTheirBytes := by
  intro s key loc bs hfits t u
  have hlen : (bs.map some).length = bs.length := List.length_map ..
  have hroom : loc + (bs.map some).length ≤ 2 ^ 44 := hlen.symm ▸ hfits
  obtain ⟨l, p, ht⟩ : ∃ l p, t = { (u.touch loc bs.length).homeSet key loc (bs.map some) with l1 := l, poison := p } := by
    have h := s.homeStore_eq key loc (bs.map some)
    rwa [hlen] at h
  clear_value t
  subst ht
  have hstores := (u.touch loc bs.length).homeSet_stores key loc (bs.map some)
  refine ⟨fun a ha ha' => ?_, fun a ha => ?_, fun a k ha => ?_, fun a ha => ?_, hstores.rows, hstores.harts, hstores.cores,
    State.homeSet_flight _ key hroom, hstores.keys⟩
  · refine ((u.touch loc bs.length).homeSet_plain_met key hroom (div_mem_linesOf ha (hlen.symm ▸ ha'))).trans ?_
    have hat : a - loc < bs.length := by omega
    rw [if_pos ha, List.getElem?_map, List.getElem?_eq_getElem hat, List.getD_eq_getElem _ _ hat]
    rfl
  · exact (u.touch loc bs.length).homeSet_plain_outside key hroom (hlen.symm ▸ ha)
  · refine (u.touch loc bs.length).homeSet_plain_unmet key k hroom fun hmet => ?_
    have hline := mem_linesOf.1 hmet
    omega
  · exact (u.touch loc bs.length).homeSet_byte_outside_home key hroom ha

end Sys2Proof.Proofs
end

section
/-! PROOFS. MIGRATE (09 R222, R224, R225, 12 R285, R287): the step that reads its record, the move of its page, and the shoot-down. -/

namespace Sys2Proof.Machine

variable {s w y : State} {core : CoreId} {i : Fin 17} {k e : Cmd} {g : Got} {r : BitVec 512}

/-! ## The steps and the end of a command that is alone -/

/-- A chain whose one command may step does what that command does, or waits as it does. -/
theorem State.chainStep_alone_eq (run : State → Cmd → Option State) (h : Claims.alone s core i k) :
    s.chainStep core i k.op run = run s k := by
  cases hrun : run s k with
  | some t => exact State.chainStep_alone h hrun
  | none =>
    have ⟨_, _, hstage, _, _⟩ := h
    simp [State.chainStep, State.movable_alone h, hstage, hrun]

theorem State.chainEvent_alone (run : CoreId → Fin 17 → State → Cmd → Option State) (h : Claims.alone s core i k) :
    s.chainEvent core i k.op run = run core i s k := by
  rw [State.chainEvent, dif_pos i.isLt]
  exact State.chainStep_alone_eq _ h

@[simp] theorem State.mem_finishCmd (s : State) (core : CoreId) (i : Fin 17) (k : Cmd) (st : Nat) :
    (s.finishCmd core i k st).mem = s.mem := by
  rw [State.finishCmd]
  split <;> rfl

@[simp] theorem State.tlb_finishCmd (s : State) (core : CoreId) (i : Fin 17) (k : Cmd) (st : Nat) :
    (s.finishCmd core i k st).tlb = s.tlb := by
  rw [State.finishCmd]
  split <;> rfl

@[simp] theorem State.queue_modCmd (s : State) (core : CoreId) (i : Fin 17) (seq : BitVec 32) (f : Cmd → Cmd) :
    ((s.modCmd core i seq f).core core).queue = (s.core core).queue := by
  simp [State.modCmd, State.modChain]

@[simp] theorem State.queue_finishCmd (s : State) (core : CoreId) (i : Fin 17) (k : Cmd) (st : Nat) :
    ((s.finishCmd core i k st).core core).queue = (s.core core).queue := by
  rw [State.finishCmd]
  split <;> simp only [State.queue_modCmd] <;> rfl

@[simp] theorem State.owner_modCmd (s : State) (core : CoreId) (i : Fin 17) (seq : BitVec 32) (f : Cmd → Cmd) :
    ((s.modCmd core i seq f).chain core i).owner = (s.chain core i).owner := by
  simp [State.modCmd, Chain.owner]

/-- A command that ends without a status of its own takes the one given. -/
theorem State.finishCmd_ends (st : Nat) (h : (s.chain core i).cmds = [e]) (hs : e.seq = k.seq) (h0 : e.status = 0) :
    ∃ o, ((s.finishCmd core i k st).chain core i).cmds = [o] ∧ o.seq = k.seq ∧ o.finished = true ∧ o.status = st :=
  ⟨_, State.cmds_finishCmd st h hs, hs, rfl, if_pos h0⟩

/-! ## The steps of a MIGRATE (R285, R287) -/

theorem exec_migrate (h : Claims.alone s core i k) (hop : k.op = 5) :
    exec (.migrate core i) s = .next ((State.migrateStep core i s k).getD s) := by
  have hchain := State.chainEvent_alone State.migrateStep h
  rw [hop] at hchain
  exact congrArg (fun o => (.next (o.getD s) : Result)) hchain

/-- The state in which a record has been read. -/
@[reducible] def State.takeRecord (w : State) (core : CoreId) (i : Fin 17) (k : Cmd) (r : BitVec 512) : State :=
  w.modCmd core i k.seq fun k => { k with record := r, crec := recordAddr r 56, read := true }

theorem State.cmds_takeRecord (w : State) {core : CoreId} {i : Fin 17} (h : (w.chain core i).cmds = [k]) :
    ((w.takeRecord core i k r).chain core i).cmds = [{ k with record := r, crec := recordAddr r 56, read := true }] :=
  State.cmds_modCmd_same _ h rfl

/-- Whether a MIGRATE's record is out of order: a reserved byte, a misaligned page or frame, or a context that is none. -/
@[reducible] def State.migrateBroken (w : State) (r : BitVec 512) : Prop :=
  Claims.recordBytes r 34 22 ≠ 0 ∨ (recordAddr r 16).toNat % 65536 ≠ 0 ∨ Claims.recordBytes r 24 8 % 65536 ≠ 0 ∨
    Claims.recordBytes r 32 2 = 0 ∨ 4095 < Claims.recordBytes r 32 2 ∨ w.ctxValid (Claims.recordBytes r 32 2) = false

theorem State.migrateStep_read (hread : k.read = true) :
    State.migrateStep core i s k = s.migrateMove core i k k.record := if_pos hread

/-- A move that waits for owned lines. -/
theorem State.migrateMove_none
    (h : s.migratePage core (Claims.recordBytes r 32 2) (recordAddr r 16).toNat (Claims.recordBytes r 24 8) = none) :
    s.migrateMove core i k r = none := by
  rw [State.migrateMove, recordField_eq, recordField_eq, h]

theorem State.migrateMove_some {ok : Bool}
    (h : s.migratePage core (Claims.recordBytes r 32 2) (recordAddr r 16).toNat (Claims.recordBytes r 24 8) = some (ok, y)) :
    s.migrateMove core i k r = some (y.finishCmd core i k (if ok then 0 else 6)) := by
  rw [State.migrateMove, recordField_eq, recordField_eq, h]

theorem elim_ite {α β : Type} (p : Prop) [Decidable p] (a b : Option α) (c : β) (f : α → β) :
    (if p then a else b).elim c f = if p then a.elim c f else b.elim c f := apply_ite (·.elim c f) p a b

/-- The status with which the checks of a MIGRATE's record answer, one after another; none where the page is to move. -/
def State.migrateVerdict (w : State) (core : CoreId) (i : Fin 17) (k : Cmd) (r : BitVec 512) : Option Nat :=
  let range := ((w.takeRecord core i k r).cmdReach core i k).status .store (recordAddr r 16) 65536
  let crec := (w.cmdReach core i k).crecStatus (recordAddr r 56)
  if i ≠ 16 then some 8
  else if w.migrateBroken r then some 1
  else if range ≠ 0 then some range
  else if crec ≠ 0 then some crec
  else none

section
variable (h : Claims.alone s core i k) (hop : k.op = 5) (hread : k.read = false)
  (hg : s.engineRead (s.cmdReach core i k) (ownerOf core i k) k.at_ 64 = .ok g w) (hp : g.poisoned = none)
  (hr : bitsOfBytes 512 g.bytes = r)
include h hop hread hg hp hr

theorem exec_migrate_unread : exec (.migrate core i) s = .next ((w.migrateVerdict core i k r).elim
    (((w.takeRecord core i k r).migrateMove core i { k with crec := recordAddr r 56 } r).getD (w.takeRecord core i k r))
    ((w.takeRecord core i k r).finishCmd core i { k with crec := recordAddr r 56 })) := by
  subst hr
  rw [exec_migrate h hop, State.migrateStep, if_neg (by simp [hread]), State.readRecord_ok _ hg hp]
  simp only [State.migrateVerdict, elim_ite, ← apply_ite some, recordField_eq, Bool.not_eq_true, Option.getD_some]
  rfl

/-- A MIGRATE whose record fails a check ends with the status of that check. -/
theorem exec_migrate_refused {st : Nat} (hw : w.chain core i = s.chain core i) (hst : k.status = 0)
    (hv : w.migrateVerdict core i k r = some st) :
    ∃ t e, exec (.migrate core i) s = .next t ∧ (t.chain core i).cmds = [e] ∧ e.seq = k.seq ∧ e.finished = true ∧ e.status = st := by
  have hexec := exec_migrate_unread h hop hread hg hp hr
  rw [hv] at hexec
  have ⟨hone, _, _, _, _⟩ := h
  obtain ⟨e, hends⟩ := State.finishCmd_ends (k := { k with crec := recordAddr r 56 }) st (w.cmds_takeRecord (hw ▸ hone)) rfl hst
  exact ⟨_, e, hexec, hends⟩

end

/-! ## The page that moves (R222, R224, R225) -/

/-- After a shoot-down no translation of the range is left that is for the context, or for any where none is named. -/
theorem State.shootDown_tlb {u : State} {ctx : Option Nat} {base n : Nat} {e : TlbEntry} (he : e ∈ (u.shootDown ctx base n).tlb)
    (hctx : ctx = none ∨ ctx = some e.ctx ∧ e.global = false) : ¬ (e.base < base + n ∧ base < e.base + e.size) := by
  rintro ⟨hlo, hhi⟩
  have hkept := (List.mem_filter.1 he).2
  obtain rfl | ⟨rfl, hglobal⟩ := hctx
  · simp [hlo, hhi] at hkept
  · simp [hlo, hhi, hglobal] at hkept

/-- A page that moved was shot down last: for its context, or for all where its translation is global. -/
theorem State.migratePage_moved {ctx va dst : Nat} (h : s.migratePage core ctx va dst = some (true, y)) :
    ∃ (u : State) (global : Bool), y = u.shootDown (if global then none else some ctx) va 65536 := by
  simp only [State.migratePage] at h
  split at h
  · cases h
  · split at h
    · cases h
    · split at h
      · split at h <;> cases h
      · split at h
        · split at h <;> cases h
        · split at h
          · cases h
          · split at h
            · split at h
              · cases h
              · split at h
                · cases h
                · split at h
                  · cases h
                  · cases h
                    exact ⟨_, _, rfl⟩
            · cases h

end Sys2Proof.Machine
end

section
/-! PROOFS. MMAF (12 R291): the step that reads its record, and its entry in the matrix queue. -/

namespace Sys2Proof.Machine

variable {s w : State} {core : CoreId} {i : Fin 17} {k e : Cmd} {g : Got} {r : BitVec 512}

theorem exec_mmaf (h : Claims.alone s core i k) (hop : k.op = 7) :
    exec (.mmaf core i) s = .next ((State.mmafStep core i s k).getD s) := by
  have hchain := State.chainEvent_alone State.mmafStep h
  rw [hop] at hchain
  exact congrArg (fun o => (.next (o.getD s) : Result)) hchain

@[simp] theorem State.chain_enqueueMatrix (s : State) (core : CoreId) (n : MatEntry) (i : Fin 17) :
    (s.enqueueMatrix core n).chain core i = s.chain core i := by
  simp [State.enqueueMatrix, State.chain]

@[simp] theorem State.queue_enqueueMatrix (s : State) (core : CoreId) (n : MatEntry) :
    ((s.enqueueMatrix core n).core core).queue = (s.core core).queue ++ [n] := by
  rw [State.enqueueMatrix, State.core_modCore_same]

theorem State.ctx_cmdReach (s : State) (core : CoreId) (i : Fin 17) (k : Cmd) : (s.cmdReach core i k).ctx = (s.chain core i).owner := by
  rw [State.cmdReach]
  split <;> rfl

/-! ## The entry (R291) -/

/-- The entry that the record of an MMAF describes. -/
structure MatEntry.OfRecord (n : MatEntry) (ctx : Nat) (i : Fin 17) (k : Cmd) (r : BitVec 512) : Prop where
  load : n.load = false
  ctx : n.ctx = ctx
  source : n.source = .command i k.seq
  latch : n.latch = Claims.recordBytes r 34 1
  addr : n.addr = recordAddr r 16
  cAddr : n.cAddr = (recordAddr r 24).toNat % 2 ^ 60
  rows : n.m = Claims.recordBytes r 32 2
  slot : n.slot = Claims.recordBytes r 35 1
  acc : n.acc = decide (Claims.recordBytes r 36 1 % 2 = 1)
  masked : n.masked = decide (Claims.recordBytes r 36 1 / 2 % 2 = 1)
  outMask : n.outMask = recordAddr r 48 ++ recordAddr r 40
  rm : n.rm = k.rm

theorem State.enterMmaf_full (h : 8 ≤ (s.core core).queue.length) : s.enterMmaf core i k r = none := if_pos h

theorem State.enterMmaf_eq (h : (s.core core).queue.length < 8) : ∃ n, n.OfRecord (s.chain core i).owner i k r ∧
    s.enterMmaf core i k r = some ((s.enqueueMatrix core n).modCmd core i k.seq fun k => { k with stage := .handed }) := by
  refine ⟨_, ?_, if_neg (Nat.not_le.2 h)⟩
  constructor <;> simp only [recordField_eq, State.ctx_cmdReach, offset]

/-- With room in the queue the entry goes to its end, and the command is handed on. -/
theorem State.enterMmaf_room (h : (s.core core).queue.length < 8) (hcmds : (s.chain core i).cmds = [e]) (hs : e.seq = k.seq) :
    ∃ t n, s.enterMmaf core i k r = some t ∧ (t.core core).queue = (s.core core).queue ++ [n] ∧
      (t.chain core i).cmds = [{ e with stage := .handed }] ∧ t.mem = s.mem ∧ n.OfRecord (s.chain core i).owner i k r := by
  obtain ⟨n, hn, henter⟩ := State.enterMmaf_eq (i := i) (k := k) (r := r) h
  refine ⟨_, n, henter, ?_, State.cmds_modCmd_same _ ?_ hs, rfl, hn⟩
  · rw [State.queue_modCmd, State.queue_enqueueMatrix]
  · rw [State.chain_enqueueMatrix, hcmds]

/-! ## The steps of an MMAF (R291) -/

theorem State.mmafStep_inherited (hf : k.following = true) (hi : k.inherited ≠ 0) :
    State.mmafStep core i s k = some (s.finishCmd core i k k.inherited) := if_pos ⟨hf, hi⟩

theorem State.mmafStep_read (hf : k.following = false ∨ k.inherited = 0) (hread : k.read = true) :
    State.mmafStep core i s k = s.enterMmaf core i k k.record := by
  rw [State.mmafStep, if_neg (by rcases hf with h | h <;> simp [h]), if_pos hread]

/-- Whether the fields of an MMAF's record are in their ranges. -/
@[reducible] def mmafFits (r : BitVec 512) : Prop :=
  1 ≤ Claims.recordBytes r 32 2 ∧ Claims.recordBytes r 32 2 ≤ 256 ∧ Claims.recordBytes r 34 1 ≤ 1 ∧ Claims.recordBytes r 35 1 ≤ 31 ∧
    Claims.recordBytes r 36 1 ≤ 3 ∧ Claims.recordBytes r 37 3 = 0

/-- The fault that the checks of an MMA find in an MMAF whose record has been read. -/
@[reducible] def State.mmafFault (w : State) (core : CoreId) (i : Fin 17) (k : Cmd) (r : BitVec 512) : Option (Nat × Dword × Nat) :=
  (w.takeRecord core i k r).mmaFault core { w.cmdReach core i k with kind := .matrix, unit := Agency.unit .matrix }
    (Claims.recordBytes r 34 1) (Claims.recordBytes r 35 1) (recordAddr r 16) (recordAddr r 24) (Claims.recordBytes r 32 2)

/-- The status with which the checks of an MMAF's record answer, one after another; none where its entry is to be made. -/
def State.mmafVerdict (w : State) (core : CoreId) (i : Fin 17) (k : Cmd) (r : BitVec 512) : Option Nat :=
  let crec := (w.cmdReach core i k).crecStatus (recordAddr r 56)
  if ¬ mmafFits r then some 1
  else (w.mmafFault core i k r).elim (if crec ≠ 0 then some crec else none) fun e => some e.2.2

theorem State.mmafVerdict_fault {e : Nat × Dword × Nat} (hfits : mmafFits r) (hfault : w.mmafFault core i k r = some e) :
    w.mmafVerdict core i k r = some e.2.2 := by
  rw [State.mmafVerdict, if_neg (not_not.2 hfits), hfault, Option.elim_some]

theorem State.mmafVerdict_faultless (hfits : mmafFits r) (hfault : w.mmafFault core i k r = none) :
    w.mmafVerdict core i k r = if (w.cmdReach core i k).crecStatus (recordAddr r 56) ≠ 0 then
      some ((w.cmdReach core i k).crecStatus (recordAddr r 56)) else none := by
  rw [State.mmafVerdict, if_neg (not_not.2 hfits), hfault, Option.elim_none]

section
variable (h : Claims.alone s core i k) (hop : k.op = 7) (hf : k.following = false ∨ k.inherited = 0) (hread : k.read = false)
  (hg : s.engineRead (s.cmdReach core i k) (ownerOf core i k) k.at_ 64 = .ok g w) (hp : g.poisoned = none)
  (hr : bitsOfBytes 512 g.bytes = r)
include h hop hf hread hg hp hr

theorem exec_mmaf_unread : exec (.mmaf core i) s = .next ((w.mmafVerdict core i k r).elim
    (((w.takeRecord core i k r).enterMmaf core i { k with record := r, crec := recordAddr r 56, read := true } r).getD
      (w.takeRecord core i k r))
    ((w.takeRecord core i k r).finishCmd core i k)) := by
  subst hr
  rw [exec_mmaf h hop, State.mmafStep, if_neg (by rcases hf with h | h <;> simp [h]), if_neg (by simp [hread]),
    State.readRecord_ok _ hg hp]
  simp only [State.mmafVerdict, recordField_eq]
  by_cases hfits : mmafFits (bitsOfBytes 512 g.bytes)
  · rw [if_neg (not_not.2 hfits), if_neg (by simp only [mmafFits] at hfits; omega)]
    split <;> rename_i hfault <;> rw [State.mmafFault, State.takeRecord, hfault]
    · rfl
    · simp only [Option.elim_none, elim_ite, ← apply_ite some]
      rfl
  · rw [if_pos hfits, if_pos (by simp only [mmafFits] at hfits; omega)]
    rfl

/-- An MMAF whose record fails a check ends with the status of that check, and leaves the queue. -/
theorem exec_mmaf_refused {st : Nat} (hw : w.chain core i = s.chain core i) (hst : k.status = 0)
    (hv : w.mmafVerdict core i k r = some st) :
    ∃ t e, exec (.mmaf core i) s = .next t ∧ (t.chain core i).cmds = [e] ∧ e.seq = k.seq ∧ e.finished = true ∧ e.status = st ∧
      (t.core core).queue = (w.core core).queue := by
  have hexec := exec_mmaf_unread h hop hf hread hg hp hr
  rw [hv] at hexec
  have ⟨hone, _, _, _, _⟩ := h
  obtain ⟨e, hcmds, hseq, hfinished, hstatus⟩ := State.finishCmd_ends (k := k) st (w.cmds_takeRecord (r := r) (hw ▸ hone)) rfl hst
  exact ⟨_, e, hexec, hcmds, hseq, hfinished, hstatus, (State.queue_finishCmd ..).trans (State.queue_modCmd ..)⟩

end

end Sys2Proof.Machine

namespace Sys2Proof.Proofs

open Sys2Proof.Machine

/-- Settles O41: each command alone takes its step (`State.chainEvent_alone`), whose checks come one after another
(`State.migrateVerdict`, `State.mmafVerdict`); a page that moved was shot down last (`State.migratePage_moved`). -/
theorem migrateAndMmafFollowTheirRecords : Obligations.MigrateAndMmafFollowTheirRecords := by
  refine ⟨?_, ?_, ?_, ?_⟩
  · intro s w core i k g h hop hst hread hg hp hw r va dst ctx crec reach broken z ends
    have ⟨hone, _, _, _, _⟩ := h
    have hends : ∀ {st}, w.migrateVerdict core i k r = some st → ends st := exec_migrate_refused h hop hread hg hp rfl hw hst
    refine ⟨fun hi => ?_, fun hi hb => ?_, fun hi hb hr => ?_, fun hi hb hr hc => ?_, fun hi hb hr hc => ?_⟩
    · exact hends (if_pos hi)
    · exact hends ((if_neg (not_not.2 hi)).trans (if_pos hb))
    · exact hends ((if_neg (not_not.2 hi)).trans ((if_neg hb).trans (if_pos hr)))
    · exact hends ((if_neg (not_not.2 hi)).trans ((if_neg hb).trans ((if_neg (not_not.2 hr)).trans (if_pos hc))))
    · have hsound : w.migrateVerdict core i k r = none :=
        (if_neg (not_not.2 hi)).trans ((if_neg hb).trans ((if_neg (not_not.2 hr)).trans (if_neg (not_not.2 hc))))
      have hexec := exec_migrate_unread h hop hread hg hp rfl
      rw [hsound, Option.elim_none] at hexec
      refine ⟨fun hmove => ?_, fun ok y hmove hy => ?_⟩
      · rw [State.migrateMove_none hmove] at hexec
        exact hexec
      · rw [State.migrateMove_some hmove] at hexec
        obtain ⟨e, hended⟩ := State.finishCmd_ends (k := { k with crec := crec }) (if ok then 0 else 6)
          ((congrArg Chain.cmds hy).trans (w.cmds_takeRecord (hw ▸ hone))) rfl hst
        exact ⟨⟨_, e, hexec, hended⟩, _, hexec, State.mem_finishCmd .., State.tlb_finishCmd ..⟩
  · intro s core i k h hop hst hread move
    have ⟨hone, _, _, _, _⟩ := h
    have hexec := exec_migrate h hop
    rw [State.migrateStep_read hread] at hexec
    refine ⟨fun hmove => ?_, fun ok y hmove hy => ?_⟩
    · rw [State.migrateMove_none hmove] at hexec
      exact hexec
    · rw [State.migrateMove_some hmove] at hexec
      obtain ⟨e, hcmds, _, hfinished, hstatus⟩ :=
        State.finishCmd_ends (if ok then 0 else 6) ((congrArg Chain.cmds hy).trans hone) rfl hst
      exact ⟨_, e, hexec, hcmds, hfinished, hstatus, State.mem_finishCmd .., State.tlb_finishCmd ..⟩
  · intro s y core ctx va dst hmove e he hglobal hctx
    obtain ⟨u, global, rfl⟩ := State.migratePage_moved hmove
    refine State.shootDown_tlb he ?_
    cases global with
    | false => exact .inr ⟨congrArg some hctx.symm, hglobal⟩
    | true => exact .inl rfl
  · intro s w core i k g h hop hst
    have ⟨hone, _, _, hrunning, _⟩ := h
    refine ⟨fun hf hi => ?_, fun hf hread hfull => ?_, fun hf hread hroom => ?_, fun hf hread hg hp hw => ?_⟩
    · obtain ⟨e, hcmds, _, hfinished, hstatus⟩ := State.finishCmd_ends k.inherited hone rfl hst
      have hexec := exec_mmaf h hop
      rw [State.mmafStep_inherited hf hi] at hexec
      exact ⟨_, e, hexec, hcmds, hfinished, hstatus, State.queue_finishCmd ..⟩
    · rw [exec_mmaf h hop, State.mmafStep_read hf hread, State.enterMmaf_full hfull, Option.getD_none]
    · obtain ⟨t, n, henter, hqueue, hcmds, hmem, hn⟩ := State.enterMmaf_room (k := k) (r := k.record) hroom hone rfl
      have hexec := exec_mmaf h hop
      rw [State.mmafStep_read hf hread, henter] at hexec
      exact ⟨t, _, n, hexec, hqueue, hcmds, rfl, hrunning, hn.load, hn.source, hn.addr, hn.rows, hn.rm, hmem⟩
    · intro r a c m latch slot flags crec z reach fits fault ends
      have hends : ∀ {st}, w.mmafVerdict core i k r = some st → ends st := exec_mmaf_refused h hop hf hread hg hp rfl hw hst
      have hsound : fits → fault = none → (w.cmdReach core i k).crecStatus crec = 0 → exec (.mmaf core i) s =
          .next ((z.enterMmaf core i { k with record := r, crec := crec, read := true } r).getD z) := fun hfits hfault hc => by
        rw [exec_mmaf_unread h hop hf hread hg hp rfl, State.mmafVerdict_faultless hfits hfault, if_neg (not_not.2 hc),
          Option.elim_none]
      have hqueue : (z.core core).queue = (w.core core).queue := State.queue_modCmd ..
      refine ⟨fun hbad => hends (if_pos hbad), fun e hfits hfault => hends (State.mmafVerdict_fault hfits hfault),
        fun hfits hfault hc => hends ((State.mmafVerdict_faultless hfits hfault).trans (if_pos hc)),
        fun hfits hfault hc hfull => ?_, fun hfits hfault hc hroom => ?_⟩
      · rw [hsound hfits hfault hc, State.enterMmaf_full (hqueue.symm ▸ hfull), Option.getD_none]
      · obtain ⟨t, n, henter, hentered, hcmds, hmem, hn⟩ := State.enterMmaf_room (r := r)
          (k := { k with record := r, crec := crec, read := true }) (hqueue.symm ▸ hroom) (w.cmds_takeRecord (hw ▸ hone)) rfl
        have hexec := hsound hfits hfault hc
        rw [henter] at hexec
        have howner : (z.chain core i).owner = (s.chain core i).owner := (State.owner_modCmd ..).trans (congrArg Chain.owner hw)
        obtain ⟨_, _, _, _, hflags, _⟩ := hfits
        have hmasked : flags / 2 % 2 = 1 ↔ 2 ≤ flags := by omega
        exact ⟨t, _, n, hexec, hentered.trans (congrArg (· ++ [n]) hqueue), hcmds, rfl, hrunning, hn.load, hn.ctx.trans howner,
          hn.source, hn.latch, hn.addr, hn.cAddr, hn.rows, hn.slot, hn.acc, hn.masked.trans (decide_eq_decide.2 hmasked), hn.outMask,
          hn.rm, hmem⟩

end Sys2Proof.Proofs
end

section
/-! PROOFS. Stores that arrive at their homes (11 R254, R256): which writes in flight go with one that arrives, what its bytes read as
then, and the drain of a committed strip (10 R250). -/

namespace Sys2Proof.Machine

/-! ## The writes that arrive with one (11 R254, R256) -/

section
variable {p : FlightWrite → Bool} {f g : FlightWrite} {l : List FlightWrite}

/-- A write in flight arrives, before those of its list that arrive, or it stays, before those that stay. -/
theorem arriving_cons (p : FlightWrite → Bool) (f : FlightWrite) (l : List FlightWrite) :
    ((p f = true ∨ ∃ g ∈ (arriving p l).1, g.core = f.core ∧ g.word = f.word) ∧
      arriving p (f :: l) = (f :: (arriving p l).1, (arriving p l).2)) ∨
    (p f = false ∧ arriving p (f :: l) = ((arriving p l).1, f :: (arriving p l).2)) := by
  simp only [arriving]
  split
  next h => exact .inl ⟨by simpa using h, rfl⟩
  next h => exact .inr ⟨Bool.eq_false_iff.2 fun hp => h (by rw [hp, Bool.true_or]), rfl⟩

theorem length_arriving (p : FlightWrite → Bool) (l : List FlightWrite) :
    (arriving p l).1.length + (arriving p l).2.length = l.length := by
  induction l with
  | nil => rfl
  | cons f l ih =>
    obtain ⟨-, h⟩ | ⟨-, h⟩ := arriving_cons p f l <;> rw [h] <;> simp only [List.length_cons] <;> omega

theorem arriving_stays_sublist (p : FlightWrite → Bool) (l : List FlightWrite) : (arriving p l).2.Sublist l := by
  induction l with
  | nil => exact .slnil
  | cons f l ih =>
    obtain ⟨-, h⟩ | ⟨-, h⟩ := arriving_cons p f l <;> rw [h]
    · exact ih.cons f
    · exact ih.cons_cons f

theorem mem_arriving (hf : f ∈ l) : f ∈ (arriving p l).1 ∨ f ∈ (arriving p l).2 ∧ p f = false := by
  induction l with
  | nil => exact (List.not_mem_nil hf).elim
  | cons a l ih =>
    obtain ⟨-, h⟩ | ⟨hp, h⟩ := arriving_cons p a l <;> rw [h] <;> obtain rfl | hf := List.mem_cons.1 hf
    · exact .inl (List.mem_cons_self ..)
    · exact (ih hf).imp_left (List.mem_cons_of_mem _)
    · exact .inr ⟨List.mem_cons_self .., hp⟩
    · exact (ih hf).imp_right fun hs => ⟨List.mem_cons_of_mem _ hs.1, hs.2⟩

/-- What arrives is named, or goes to the word of a write of its core that is. -/
theorem named_of_mem_arriving (hg : g ∈ (arriving p l).1) : ∃ f, p f = true ∧ g.core = f.core ∧ g.word = f.word := by
  induction l generalizing g with
  | nil => exact (List.not_mem_nil hg).elim
  | cons a l ih =>
    obtain ⟨hwhy, h⟩ | ⟨-, h⟩ := arriving_cons p a l <;> rw [h] at hg
    · obtain rfl | hg := List.mem_cons.1 hg
      · rcases hwhy with hp | ⟨b, hb, hcore, hword⟩
        · exact ⟨g, hp, rfl, rfl⟩
        · obtain ⟨f, hp, hcore', hword'⟩ := ih hb
          exact ⟨f, hp, hcore.symm.trans hcore', hword.symm.trans hword'⟩
      · exact ih hg
    · exact ih hg

/-- The last write that arrives is one that is named. -/
theorem named_of_arriving_last {fs : List FlightWrite} (h : (arriving p l).1 = fs ++ [f]) : p f = true := by
  induction l generalizing fs with
  | nil => exact absurd h.symm (List.append_ne_nil_of_right_ne_nil _ (List.cons_ne_nil _ _))
  | cons a l ih =>
    obtain ⟨hwhy, ha⟩ | ⟨-, ha⟩ := arriving_cons p a l <;> rw [ha] at h
    · cases fs with
      | nil =>
        obtain ⟨rfl, hnone⟩ := List.cons.inj h
        exact hwhy.resolve_right fun ⟨b, hb, _⟩ => List.not_mem_nil (hnone ▸ hb)
      | cons b fs => exact ih (List.cons.inj h).2
    · exact ih h

end

/-! ## A write at its home (11 R254) -/

theorem State.arrive_flight (s : State) (f : FlightWrite) : (s.arrive f).flight = s.flight := by
  rw [State.arrive, State.revoke, State.homeSet]
  refine (State.setBytes_flight ..).trans ?_
  split
  · exact s.rekeyAll_flight f.key _
  · rfl

theorem State.settleWhen_flight (s : State) (p : FlightWrite → Bool) :
    (s.settleWhen p).flight = (arriving (fun f => p f && !s.lineBusy (8 * f.word) 8 none) s.flight).2 := by
  have hfold : ∀ (l : List FlightWrite) (u : State), (l.foldl State.arrive u).flight = u.flight := by
    intro l
    induction l with
    | nil => exact fun _ => rfl
    | cons f l ih => exact fun u => (ih _).trans (u.arrive_flight f)
  exact hfold ..

theorem getElem?_maskedBytes (data : Dword) (mask : Byte) {j : Nat} (hj : j < 8) :
    (maskedBytes data mask)[j]? = some (if mask.getLsbD j then some (data.extractLsb' (8 * j) 8) else none) := by
  simp [maskedBytes, hj]

/-- A byte of a write that has arrived reads as it was written. -/
theorem State.plain_arrive (s : State) (f : FlightWrite) {j : Nat} (hj : j < 8) (hm : f.mask.getLsbD j = true) :
    (s.arrive f).plain f.key (8 * f.word + j) = f.data.extractLsb' (8 * j) 8 := by
  have hlen : (maskedBytes f.data f.mask).length = 8 := by simp [maskedBytes]
  have hbyte : ((maskedBytes f.data f.mask)[8 * f.word + j - 8 * f.word]?).join = some (f.data.extractLsb' (8 * j) 8) := by
    rw [Nat.add_sub_cancel_left, getElem?_maskedBytes _ _ hj, if_pos hm]
    rfl
  change (s.homeSet f.key (8 * f.word) (maskedBytes f.data f.mask)).plain f.key (8 * f.word + j) = _
  by_cases hhome : 8 * f.word < 2 ^ 44
  · rw [State.homeSet_plain_met s f.key (by omega) (div_mem_linesOf (by omega) (by omega)), if_pos (by omega), hbyte]
    rfl
  · rw [State.plain_outside _ _ (by omega), State.homeSet, isHome, decide_eq_false hhome, if_neg Bool.false_ne_true,
      State.byte_setBytes, if_pos (by omega), hbyte]
    rfl

/-- While no command owns a line, no access at a home waits. -/
theorem State.lineBusy_none {s : State} (h : s.lineOwners = []) (loc n : Nat) (own : Option (CoreId × Nat × BitVec 32)) :
    s.lineBusy loc n own = false := by
  rw [State.lineBusy, h]
  rfl

/-- A write in flight that arrives while no command owns a line: it leaves the flight, with writes that it had to wait for alone, and its
bytes are at the home. -/
theorem State.settleWhen_one {s : State} {f : FlightWrite} (hf : f ∈ s.flight) (hl : s.lineOwners = []) :
    let t := s.settleWhen fun g => decide (g = f)
    t.flight.length < s.flight.length ∧ (∀ g ∈ t.flight, g ∈ s.flight) ∧
    (∀ g ∈ s.flight, g ∉ t.flight → g.core = f.core ∧ g.word = f.word) ∧
    ∀ j, j < 8 → f.mask.getLsbD j = true → t.plain f.key (8 * f.word + j) = f.data.extractLsb' (8 * j) 8 := by
  intro t
  have hnamed : (fun g => decide (g = f) && !s.lineBusy (8 * g.word) 8 none) = fun g => decide (g = f) :=
    funext fun g => by rw [State.lineBusy_none hl, Bool.not_false, Bool.and_true]
  have hflight : t.flight = (arriving (fun g => decide (g = f)) s.flight).2 := by rw [← hnamed]; exact s.settleWhen_flight _
  have hgoes : f ∈ (arriving (fun g => decide (g = f)) s.flight).1 :=
    (mem_arriving hf).resolve_right fun h => of_decide_eq_false h.2 rfl
  refine ⟨?_, fun g hg => (arriving_stays_sublist _ _).subset (hflight ▸ hg), fun g hg hn => ?_, fun j hj hm => ?_⟩
  · have := List.length_pos_of_mem hgoes
    have := length_arriving (fun g => decide (g = f)) s.flight
    rw [hflight]
    omega
  · obtain ⟨e, he, hsame⟩ := named_of_mem_arriving ((mem_arriving hg).resolve_right fun h => hn (hflight ▸ h.1))
    rwa [of_decide_eq_true he] at hsame
  · obtain ⟨fs, e, he⟩ := List.eq_nil_or_concat (arriving (fun g => decide (g = f)) s.flight).1 |>.resolve_left
      (List.ne_nil_of_mem hgoes)
    rw [List.concat_eq_append] at he
    obtain rfl := of_decide_eq_true (named_of_arriving_last he)
    have ht : t = (fs.foldl State.arrive { s with flight := (arriving (fun g => decide (g = e)) s.flight).2 }).arrive e := by
      simp only [t, State.settleWhen, hnamed, he, List.foldl_append, List.foldl_cons, List.foldl_nil]
    rw [ht, State.plain_arrive _ e hj hm]

/-! ## HOME_WRITE -/

theorem State.homeStep_none {s : State} {h : HartKey} (hn : ∀ f ∈ s.flight, f.hart ≠ h) : s.homeStep h = none := by
  have hmine : (s.flight.filter fun f => decide (f.hart = h)) = [] := by simpa [List.filter_eq_nil_iff] using hn
  simp only [State.homeStep, hmine, List.isEmpty_nil, if_true]

/-- The state after a choice. -/
theorem State.choose_eq (s : State) (n : Nat) : (s.choose n).2 = { s with choice := (s.choose n).2.choice } := by
  simp only [State.choose]
  split <;> rfl

/-- While no command owns a line, some write of the hart in flight arrives. -/
theorem State.homeStep_some {s : State} {h : HartKey} (hf : ∃ f ∈ s.flight, f.hart = h) (hl : s.lineOwners = []) :
    ∃ f ∈ s.flight, f.hart = h ∧ ∃ c, s.homeStep h = some (({ s with choice := c } : State).settleWhen fun g => decide (g = f)) := by
  let mine := s.flight.filter fun f => decide (f.hart = h)
  have hpos : 0 < mine.length := by
    obtain ⟨f, hm, hh⟩ := hf
    exact List.length_pos_of_mem (List.mem_filter.2 ⟨hm, decide_eq_true hh⟩)
  have hlt := s.choose_lt hpos
  obtain ⟨hm, hh⟩ := List.mem_filter.1 (List.getElem_mem hlt)
  refine ⟨mine[(s.choose mine.length).1], hm, of_decide_eq_true hh, (s.choose mine.length).2.choice, ?_⟩
  have hne : mine.isEmpty = false := by simpa using List.ne_nil_of_length_pos hpos
  rw [← s.choose_eq mine.length]
  simp only [State.homeStep]
  rw [if_neg (by rw [hne]; exact Bool.false_ne_true), List.getElem?_eq_getElem hlt]
  exact if_neg (by rw [State.lineBusy_none hl]; exact Bool.false_ne_true)

/-! ## STRIP_DRAIN (10 R250, 11 R257) -/

theorem State.stripStep_none {s : State} {h : HartKey} (hd : (s.hart h).draining = []) : s.stripStep h = none := by
  simp [State.stripStep, hd]

/-- While no command owns memory, the first byte of the only granule that drains is stored. -/
theorem State.stripStep_one {s w : State} {h : HartKey} {g : Granule} (hd : (s.hart h).draining = [g]) (hlog : (s.hart h).sideLog = [])
    (hl : s.lineOwners = []) (hr : s.rowOwners = [])
    (hw : (s.modHart h fun t => t.drained 0 g).drainGranule h (g.masked g.firstByte) = .ok () w) : s.stripStep h = some w := by
  have hc : s.choose 1 = (0, s) := rfl
  have hblocked : ∀ (r : Reach) (va : Dword), (s.modHart h fun t => t.drained 0 g).accessBlocked r .store va 64 = false := by
    intro r va
    rw [State.accessBlocked, State.modHart_lineOwners, State.modHart_rowOwners, hl, hr]
    rfl
  have hfirst : [g].findIdx (fun o => decide (o.addr = g.addr)) = 0 := by simp [List.findIdx_cons]
  simp [State.stripStep, hd, hlog, hc, hblocked, hfirst, hw]

theorem Hart.drained_one {t : Hart} {g : Granule} (hd : t.draining = [g]) :
    t.drained 0 g = { t with draining := if g.mask &&& ~~~g.firstByte = 0 then [] else [g.masked (~~~g.firstByte)] } := by
  simp only [Hart.drained, hd]
  rfl

theorem Granule.firstByte_eq {g : Granule} {i : Nat} (hi : i < 64) (hg : g.mask.extractLsb' (2 * i) 2 ≠ 0)
    (hn : ∀ j, j < i → g.mask.extractLsb' (2 * j) 2 = 0) : g.firstByte = (3 : BitVec 128) <<< (2 * i) := by
  have hfind : (List.range 64).find? (fun i => g.mask.extractLsb' (2 * i) 2 != 0) = some i :=
    List.find?_range_eq_some.2 ⟨by simpa using hg, List.mem_range.2 hi, fun j hj => by simpa using hn j hj⟩
  rw [Granule.firstByte, hfind]

end Sys2Proof.Machine

namespace Sys2Proof.Proofs

open Sys2Proof.Machine

/-- Settles O26: the write that HOME_WRITE picks is the last that arrives (`named_of_arriving_last`), so that its bytes are those at
the home; a strip of one granule leaves no choice. -/
theorem storesArriveAtTheirHomes : Obligations.StoresArriveAtTheirHomes := by
  intro s h
  refine ⟨fun hn => ?_, fun hf hl => ?_, fun hd => ?_, fun g w hd hlog hl hr => ?_, fun g i hi hg hn => Granule.firstByte_eq hi hg hn⟩
  · exact congrArg (fun o : Option State => Host.Outcome.next (o.getD s)) (State.homeStep_none hn)
  · obtain ⟨f, hm, hh, c, hstep⟩ := State.homeStep_some hf hl
    obtain ⟨hlen, hsub, hgone, hbytes⟩ := State.settleWhen_one (s := { s with choice := c }) hm hl
    have hst := State.settleWhen_stores { s with choice := c } fun g => decide (g = f)
    refine ⟨f, hm, hh, _, congrArg (fun o : Option State => Host.Outcome.next (o.getD s)) hstep, hlen, hsub,
      fun g hg hn => .inr (hgone g hg hn), hbytes, hst.harts, hst.rows, hst.cores⟩
  · exact congrArg (fun o : Option State => Host.Outcome.next (o.getD s)) (State.stripStep_none hd)
  · intro rest hw
    have hhart : (s.modHart h fun t => t.drained 0 g) =
        s.modHart h fun t => { t with draining := if rest.mask = 0 then [] else [rest] } := by
      rw [State.modHart, State.modHart, Hart.drained_one hd]
      rfl
    exact congrArg (fun o : Option State => Host.Outcome.next (o.getD s)) (State.stripStep_one hd hlog hl hr (hhart ▸ hw))

end Sys2Proof.Proofs
end

section
/-! PROOFS. What translations and reads leave of the harts (09 R218, R219, 11 R255): all of them. -/

namespace Sys2Proof.Machine

/-! ## Translations -/

theorem State.harts_choose (s : State) (n : Nat) : (s.choose n).2.harts = s.harts := (congrArg State.harts (s.choose_same n) :)

theorem State.harts_fillTlbs (s : State) (core unit ctx va : Nat) (e : TlbEntry) : (s.fillTlbs core unit ctx va e).harts = s.harts := by
  unfold State.fillTlbs
  simp only
  split
  · exact State.harts_enterTlb ..
  · exact (State.harts_enterTlb ..).trans (State.harts_enterTlb ..)

theorem State.harts_translateAfresh (s : State) (core unit ctx va : Nat) (use : Access) :
    (s.translateAfresh core unit ctx va use).2.harts = s.harts := by
  have hw := (s.walked core ctx va).1.harts
  unfold State.translateAfresh
  rcases hwalk : s.walk core ctx va with ⟨c | e, u⟩ <;> rw [hwalk] at hw
  · exact hw
  · simp only
    split
    · exact hw
    · exact (State.harts_fillTlbs ..).trans hw

theorem State.harts_translate (s : State) (core unit ctx : Nat) (va : Dword) (use : Access) :
    (s.translate core unit ctx va use).2.harts = s.harts := by
  have keep : ∀ (t : State) (e : TlbEntry) (a : Nat), (if e.unit = unit then t else t.enterTlb core unit ctx a e).harts = t.harts := by
    intro t e a
    split
    · rfl
    · exact State.harts_enterTlb ..
  simp only [State.translate]
  split
  · rfl
  · split
    · exact State.harts_translateAfresh ..
    · split
      · exact keep s _ _
      · split
        · exact (keep _ _ _).trans (s.harts_choose _)
        · exact (State.harts_translateAfresh ..).trans (s.harts_choose _)

theorem State.harts_translateParts (s : State) (r : Reach) (use : Access) (lax : Bool) (ps : List (Dword × Nat)) :
    (s.translateParts r use lax ps).2.harts = s.harts := by
  induction ps generalizing s with
  | nil => rfl
  | cons p ps ih =>
    have ht := s.harts_translate r.core r.unit r.ctx p.1 use
    rcases hq : s.translate r.core r.unit r.ctx p.1 use with ⟨q, t⟩
    rw [hq] at ht
    have hr := (ih t).trans ht
    rcases hl : t.translateParts r use lax ps with ⟨l, u⟩
    rw [hl] at hr
    cases q with
    | error m =>
      simp only [State.translateParts, hq, hl]
      split
      · cases l <;> exact hr
      · exact ht
    | ok v =>
      simp only [State.translateParts, hq, hl]
      cases l <;> exact hr

/-! ## Reads through an L1 and at the homes -/

theorem State.harts_l1Room (s : State) (core word : Nat) : (s.l1Room core word).harts = s.harts := by
  simp only [State.l1Room]
  split
  · rfl
  · split
    · rfl
    · exact s.harts_choose _

theorem State.harts_fillWord (s : State) (core word key : Nat) : (s.fillWord core word key).2.2.harts = s.harts := by
  have hr := (s.homeRead_stores key (8 * word) 8).harts
  simp only [State.fillWord]
  split
  · exact hr
  · exact (State.harts_l1Room ..).trans hr

theorem State.harts_readWord (s : State) (core word key : Nat) (m : Byte) : (s.readWord core word key m).2.2.harts = s.harts := by
  simp only [State.readWord]
  split
  · exact s.harts_fillWord ..
  · split
    · exact s.harts_fillWord ..
    · split
      · rfl
      · split
        · rfl
        · split
          · exact s.harts_choose 2
          · exact (State.harts_fillWord ..).trans (s.harts_choose 2)

theorem State.harts_hartRead (s : State) (core key loc n : Nat) : (s.hartRead core key loc n).2.2.harts = s.harts := by
  have hfold : ∀ (l : List Nat) (a : List Byte × Option Nat × State), (l.foldl (fun (a : List Byte × Option Nat × State) w =>
      let q := a.2.2.readWord core w key (wordMask w loc n)
      (a.1 ++ bytesOfBits q.1 8, if q.2.1 then a.2.1.or (some (8 * w - loc)) else a.2.1, q.2.2)) a).2.2.harts = a.2.2.harts := by
    intro l
    induction l with
    | nil => exact fun _ => rfl
    | cons w l ih => exact fun a => (ih _).trans (a.2.2.harts_readWord core w key (wordMask w loc n))
  exact hfold _ ([], none, s)

theorem State.harts_readParts (s : State) (l1 : Bool) (core : CoreId) (ps : List (Option Target × Nat)) :
    (s.readParts l1 core ps).2.harts = s.harts := by
  induction ps generalizing s with
  | nil => rfl
  | cons p ps ih =>
    obtain ⟨o, n⟩ := p
    cases o with
    | none => exact ih s
    | some t =>
      simp only [State.readParts]
      refine (ih _).trans ?_
      split
      · rfl
      · split
        · exact s.harts_hartRead ..
        · exact (s.homeRead_stores t.key t.loc n).harts

theorem State.harts_fetchBytes (s : State) (r : Reach) (l1 : Bool) (use : Access) (va : Dword) (n : Nat) :
    (s.fetchBytes r l1 use va n).2.harts = s.harts := by
  have hp := s.harts_translateParts r use false (pagesOf va n)
  simp only [State.fetchBytes]
  split
  · split
    next h => rwa [h] at hp
    next h =>
      rw [h] at hp
      exact (State.harts_readParts ..).trans hp
  · split <;> rfl

/-- A load of a hart, as far as it succeeds, is an access that leaves the harts. -/
theorem State.hartLoad_ok {s t : State} {h : HartKey} {k : Agency} {va : Dword} {n : Nat} {o : Maker} {g : Got}
    (hl : s.hartLoad h k va n o = .ok g t) : s.Accesses t ∧ t.harts = s.harts := by
  have hacc := s.fetchBytes_accesses (s.hartReach h k) true .load va n
  have hharts := s.harts_fetchBytes (s.hartReach h k) true .load va n
  simp only [State.hartLoad] at hl
  split at hl
  · cases hl
  · split at hl
    · cases hl
    · split at hl
      · cases hl
      next hf =>
        rw [hf] at hacc hharts
        cases hl
        exact ⟨hacc, hharts⟩

theorem Acc.clean_ok {a : Acc Got} {va : Dword} {bs : List Byte} {t : State} (h : a.clean va = .ok bs t) : ∃ g, a = .ok g t := by
  cases a with
  | ok g s =>
    simp only [Acc.clean] at h
    split at h <;> cases h
    exact ⟨g, rfl⟩
  | miss => cases h
  | wait => cases h

/-- A part of a state that its harts determine. -/
theorem State.hart_of_harts {s t : State} (h : t.harts = s.harts) (k : HartKey) : t.hart k = s.hart k := by
  rw [State.hart, State.hart, h]

end Sys2Proof.Machine
end

section
/-! PROOFS. Fences, strips and ordering points (10 R245, R248 to R250, 11 R259, R272). -/

namespace Sys2Proof.Machine

variable {s : State} {h : HartKey}

/-! ## Fences (R245) -/

/-- A fence leaves its ordering point, and only retires. -/
theorem exec_fence {i : Instr} {rel acq : Bool} {c : BitVec 3} (hexec : ∀ t, exec i t = fenceWord i rel acq c t) (hr : s.Ready i)
    (hc : s.cur = .hart h) :
    exec i s = .next (s.due.modHart h fun t =>
      { t with
        orders := t.orders ++ [{ streams := 511, loads := acq, stores := rel, release := if rel then some c.toNat else none,
                                 acquire := if acq then some c.toNat else none, ready := s.now + (if rel then 2 else 0),
                                 owner := t.serial }]
        fenced := if rel && acq then t.serial + 1 else t.fenced }).retired := by
  rw [exec_ready hexec hr, State.modSelf_hart ((s.due_cur).trans hc), State.due_now]
  rfl

/-! ## Strips (R248 to R250) -/

theorem exec_strip {a : Reg} (hr : s.Ready (.strip a)) (hc : s.cur = .hart h) : exec (.strip a) s = .next (State.finish
    (if (s.due.hart h).strip.isSome then .trap s.due causeStripf 1
      else .retire (s.due.modHart h fun t => { t with strip := some (s.due.rx a) }))) := by
  have hcur := s.due_cur.trans hc
  rw [exec_ready (fun _ => rfl) hr, State.self_hart hcur, State.modSelf_hart hcur]
  rfl

theorem exec_sabort (hr : s.Ready .sabort) (hc : s.cur = .hart h) : exec .sabort s = .next (State.finish
    (if (s.due.hart h).strip.isSome then .retire (s.due.modHart h Hart.dropStrip) else .trap s.due causeStripf 2)) := by
  have hcur := s.due_cur.trans hc
  rw [exec_ready (fun _ => rfl) hr, State.self_hart hcur, State.modSelf_hart hcur]
  rfl

/-- The check of a strip translates pages, and leaves the harts. -/
theorem State.granuleMiss_frame (s : State) (r : Reach) (gs : List Granule) :
    s.Accesses (s.granuleMiss r gs).2 ∧ (s.granuleMiss r gs).2.harts = s.harts := by
  induction gs generalizing s with
  | nil => exact ⟨.refl s, rfl⟩
  | cons g gs ih =>
    have ht := s.translate_accesses r.core r.unit r.ctx g.addr .store
    have hh := s.harts_translate r.core r.unit r.ctx g.addr .store
    rcases hq : s.translate r.core r.unit r.ctx g.addr .store with ⟨m | q, t⟩ <;> rw [hq] at ht hh <;>
      simp only [State.granuleMiss, hq]
    · exact ⟨ht, hh⟩
    · exact ⟨ht.trans (ih t).1, (ih t).2.trans hh⟩

/-- The cycles of the check of a strip. -/
def State.stripCost (s : State) (h : HartKey) : Nat :=
  s.checkTime (s.hartReach h .vector)
    (((orderGranules (s.hart h).granules).map fun g => g.addr.toNat / 65536).dedup.map fun p => (BitVec.ofNat 64 (65536 * p), 1))

/-- The state in which a strip that fails its check has been discarded (R250). -/
def State.stripDiscarded (w : State) (h : HartKey) (base : Dword) (ctx : Nat) (g : Granule) (m : Miss) : State :=
  ((w.modHart h Hart.dropStrip).modCsr fun c => { c with sbase := base }).postEvent (coreOfHart h)
    { kind := 6, master := hartMaster h, ctx := ctx, value := g.addr, pc := 0, x := BitVec.ofNat 8 m.cause }

theorem exec_scommit_none (hr : s.Ready .scommit) (hc : s.cur = .hart h) (hs : (s.due.hart h).strip = none) :
    exec .scommit s = .next (s.due.trapped causeStripf 2) := by
  rw [exec_ready (fun _ => rfl) hr, State.self_hart (s.due_cur.trans hc)]
  simp only [hs]
  rfl

section
variable {base : Dword} {w : State}

/-- A strip whose pages are all in order closes, and its granules drain. -/
theorem exec_scommit_drains (hr : s.Ready .scommit) (hc : s.cur = .hart h) (hs : (s.due.hart h).strip = some base)
    (hm : s.due.granuleMiss (s.due.hartReach h .vector) (orderGranules (s.due.hart h).granules) = (none, w)) :
    exec .scommit s = .next ((w.modHart h fun t => { t.dropStrip with
      draining := t.draining ++ t.granules.map fun g => { g with ages := Vector.replicate 64 t.serial } }).delay
        (w.now + s.due.stripCost h)).retired := by
  have hcur := s.due_cur.trans hc
  rw [exec_ready (fun _ => rfl) hr, State.self_hart hcur]
  simp only [State.me_hart hcur, hs, hm]
  rfl

/-- A strip of which a page is not in order is discarded. -/
theorem exec_scommit_fails {g : Granule} {m : Miss} (hr : s.Ready .scommit) (hc : s.cur = .hart h)
    (hs : (s.due.hart h).strip = some base)
    (hm : s.due.granuleMiss (s.due.hartReach h .vector) (orderGranules (s.due.hart h).granules) = (some (g, m), w))
    (hw : m.cause ≠ causeWait) :
    exec .scommit s = .next ((w.stripDiscarded h base (s.due.hart h).ctx g m).trapped causeStripf 0) := by
  have hcur := s.due_cur.trans hc
  rw [exec_ready (fun _ => rfl) hr, State.self_hart hcur]
  simp only [State.me_hart hcur, hs, hm, if_neg hw]
  rfl

end

/-! ## Ordering points (R245, 08 R191) -/

section
variable {p : OrderPoint}

theorem State.orderMove_early (h : HartKey) (hp : s.now < p.ready) : s.orderMove h p = none := by
  rw [State.orderMove, if_pos hp]

theorem State.orderMove_arrived (h : HartKey) (hp : p.ready ≤ s.now) (hs : p.settled = true) (ha : p.arrives = true) :
    s.orderMove h p = none := by
  rw [State.orderMove, if_neg (Nat.not_lt.2 hp), if_pos hs, if_pos ha]

theorem State.orderMove_acquires (h : HartKey) {c : Nat} (hp : p.ready ≤ s.now) (hs : p.settled = true) (ha : p.arrives = false)
    (hq : p.acquire = some c) : s.orderMove h p = some ((s.acquire (coreOfHart h) c).setOrder h p.owner none) := by
  rw [State.orderMove, if_neg (Nat.not_lt.2 hp), if_pos hs, if_neg (by rw [ha]; exact Bool.false_ne_true), hq]

theorem State.orderMove_notDue (hp : p.ready ≤ s.now) (hs : p.settled = false) (hd : (s.hart h).pointDue s.now p = false) :
    s.orderMove h p = none := by
  rw [State.orderMove, if_neg (Nat.not_lt.2 hp), if_neg (by rw [hs]; exact Bool.false_ne_true), if_pos (by rw [hd]; rfl)]

/-- A point whose older accesses are performed, and whose release is made. -/
theorem State.orderMove_released {u : State} (hp : p.ready ≤ s.now) (hs : p.settled = false) (hd : (s.hart h).pointDue s.now p = true)
    (hf : p.fill = none) (hu : (p.release.elim (.ok () s) fun c => s.release h c p.owner) = .ok () u) :
    s.orderMove h p = some (u.setOrder h p.owner (p.acquire.elim
      (if p.arrives then some { p with release := none, settled := true } else none) fun c =>
        some { p with release := none, fill := none, settled := true, ready := if c = 0 then u.now else u.now + 16 })) := by
  have hlate : ¬ s.now < p.ready := Nat.not_lt.2 hp
  cases hr : p.release <;> rw [hr] at hu <;> simp only [Option.elim_none, Option.elim_some] at hu <;> cases hq : p.acquire <;>
    simp [State.orderMove, hlate, hs, hd, hr, hu, hf, hq]

/-- An ordering point that is replaced. -/
theorem State.setOrder_some (s : State) (h : HartKey) (owner : Nat) (q : OrderPoint) :
    s.setOrder h owner (some q) = s.modHart h fun t => { t with orders := t.orders.map fun o => if o.owner = owner then q else o } := by
  have hmap : ∀ l : List OrderPoint, (l.flatMap fun o => if o.owner = owner then (some q).toList else [o]) =
      l.map fun o => if o.owner = owner then q else o := by
    intro l
    rw [List.map_eq_flatMap]
    refine congrArg (List.flatMap · l) (funext fun o => ?_)
    split <;> rfl
  rw [State.setOrder]
  exact congrArg (s.setHart h) (congrArg (fun orders => { s.hart h with orders := orders }) (hmap _))

end

end Sys2Proof.Machine

namespace Sys2Proof.Proofs

open Sys2Proof.Machine

theorem fencesAndStripsTakeEffect : Parts.FencesAndStripsTakeEffect := by
  intro s h hc
  refine ⟨fun c hr => exec_fence (fun _ => rfl) hr hc, fun c hr => exec_fence (fun _ => rfl) hr hc,
    fun c hr => exec_fence (fun _ => rfl) hr hc, fun a hr => ⟨fun hs => ?_, fun hs => ?_⟩, fun hr => ⟨fun hs => ?_, fun hs => ?_⟩,
    fun hr => ⟨fun hs => exec_scommit_none hr hc hs, fun base w hs hm => ?_, fun base g m w hs hm hw => ?_⟩⟩
  · rw [exec_strip hr hc, hs]
    rfl
  · rw [exec_strip hr hc, if_pos (Option.isSome_iff_ne_none.2 hs)]
    rfl
  · rw [exec_sabort hr hc, hs]
    rfl
  · rw [exec_sabort hr hc, if_pos (Option.isSome_iff_ne_none.2 hs)]
    rfl
  · obtain ⟨hacc, hharts⟩ := s.due.granuleMiss_frame (s.due.hartReach h .vector) (orderGranules (s.due.hart h).granules)
    rw [hm] at hacc hharts
    refine ⟨w.now + s.due.stripCost h, ?_, (exec_scommit_drains hr hc hs hm).trans ?_⟩
    · rw [hacc.now, State.due_now]
      exact Nat.le_add_right ..
    · dsimp only
      rw [State.modHart, State.modHart, State.hart_of_harts hharts h]
      rfl
  · obtain ⟨hacc, -⟩ := s.due.granuleMiss_frame (s.due.hartReach h .vector) (orderGranules (s.due.hart h).granules)
    rw [hm] at hacc
    have hcur : (w.modHart h Hart.dropStrip).cur = .hart h := hacc.cur.trans (s.due_cur.trans hc)
    refine ⟨_, exec_scommit_fails hr hc hs hm hw, ?_⟩
    rw [State.stripDiscarded, State.modCsr, State.modSelf_hart hcur]
    simp [State.postEvent, Hart.dropStrip, State.modSteward]

theorem orderingPointsMove : Parts.OrderingPointsMove := by
  intro s h p
  refine ⟨State.orderMove_early h, State.orderMove_arrived h, fun hp hs ha c hq => ?_, State.orderMove_notDue,
    fun u hp hs hd hf hu => ?_⟩
  · rw [State.orderMove_acquires h hp hs ha hq, State.setOrder_none]
  · have hrel : (p.release.elim (.ok () s) fun c => s.release h c p.owner) = .ok () u := by
      cases hr : p.release <;> rw [hr] at hu <;> exact hu
    rw [State.orderMove_released hp hs hd hf hrel]
    refine ⟨fun hq ha => ?_, fun hq ha => ?_, fun c hq => ?_⟩ <;> simp only [hq, Option.elim_none, Option.elim_some]
    · rw [ha, if_neg Bool.false_ne_true, State.setOrder_none]
    · rw [ha, if_pos rfl, State.setOrder_some]
    · rw [State.setOrder_some, ← hf]

end Sys2Proof.Proofs
end

section
/-! PROOFS. Records that a word reads (10 R237, 11 R257): their numbers, when they are in reach, and the bytes that the word goes on
with. -/

namespace Sys2Proof.Machine

/-! ## Numbers in a list of bytes -/

theorem littleEndian_drop (bs : List Byte) (i : Nat) : Claims.littleEndian (bs.drop i) = Claims.littleEndian bs / 2 ^ (8 * i) := by
  induction i generalizing bs with
  | zero => rw [List.drop_zero, Nat.mul_zero, Nat.pow_zero, Nat.div_one]
  | succ i ih =>
    cases bs with
    | nil => simp [Claims.littleEndian]
    | cons b bs =>
      have hb := b.isLt
      rw [List.drop_succ_cons, ih, Claims.littleEndian, Nat.mul_succ, Nat.add_comm (8 * i), Nat.pow_add, ← Nat.div_div_eq_div_mul]
      congr 1
      omega

theorem littleEndian_take (bs : List Byte) (k : Nat) : Claims.littleEndian (bs.take k) = Claims.littleEndian bs % 2 ^ (8 * k) := by
  induction k generalizing bs with
  | zero => rw [List.take_zero, Nat.mul_zero, Nat.pow_zero, Nat.mod_one]; rfl
  | succ k ih =>
    cases bs with
    | nil => simp [Claims.littleEndian]
    | cons b bs =>
      have hb := b.isLt
      have hlow : (b.toNat + 256 * Claims.littleEndian bs) % 2 ^ 8 = b.toNat := by omega
      have hhigh : (b.toNat + 256 * Claims.littleEndian bs) / 2 ^ 8 = Claims.littleEndian bs := by omega
      rw [List.take_succ_cons, Claims.littleEndian, ih, Claims.littleEndian, Nat.mul_succ, Nat.add_comm (8 * k), Nat.pow_add,
        Nat.mod_mul, hlow, hhigh]

/-- A field of a record is the number in its bytes. -/
theorem toNat_field {n i k : Nat} {bs : List Byte} (hlen : 8 * bs.length = n) :
    ((bitsOfBytes n bs).extractLsb' (8 * i) (8 * k)).toNat = Claims.fieldAt bs i k := by
  rw [BitVec.extractLsb'_toNat, Nat.shiftRight_eq_div_pow, toNat_bitsOfBytes_of_length hlen, Claims.fieldAt, littleEndian_take,
    littleEndian_drop]

/-! ## Reach (R199, R200) -/

theorem State.recordMiss_none (s : State) {va : Dword} {n : Nat} (h : va.toNat + n ≤ 2 ^ 52) : s.recordMiss va n = none := by
  have hsel : selector va = 0 := Nat.div_eq_of_lt (by omega)
  have hoff : offset va = va.toNat := Nat.mod_eq_of_lt (by omega)
  simpa [State.recordMiss, hsel, hoff, spaceSize, inH] using h

/-! ## Reading (11 R257) -/

/-- A word that reads its whole record goes on with its bytes. -/
theorem State.recordFlow_whole {s w : State} {va : Dword} {n : Nat} {bs : List Byte} (hw : s.readsWhole va = true)
    (hl : s.loadRecord va n = .ok bs w) (x y : Dword) (f : List Byte → State → Flow) :
    s.recordFlow va x y (fun load s => load s va n) f = f bs w := by
  rw [State.recordFlow, if_pos hw, hl]
  rfl

end Sys2Proof.Machine
end

section
/-! PROOFS. Circular buffers (09 R209, 10 R246, R247). -/

namespace Sys2Proof.Machine

variable {s : State} {h : HartKey} {i : Instr} {c : BitVec 4} {b : CircBuf}

/-! ## The frame of a buffer word -/

/-- The words of a buffer but CBDEF. -/
theorem bufferWord_of_exec (hi : i = .cbput c ∨ i = .cbrel c ∨ ∃ d, i = .cbget d c ∨ i = .cbpop d c ∨ i = .cbstat d c ∨
    ∃ n, i = .cbgetn d c n ∨ i = .cbpopn d c n) : ∃ f, ∀ t, exec i t = bufferWord i c f t := by
  rcases hi with rfl | rfl | ⟨d, rfl | rfl | rfl | ⟨n, rfl | rfl⟩⟩ <;> exact ⟨_, fun _ => rfl⟩

theorem State.due_myCtx (hc : s.cur = .hart h) : s.due.myCtx = (s.hart h).ctx := by
  rw [State.myCtx, s.due_cur.trans hc]
  simp only [State.due_hart_same hc]

section
variable {f : CircBuf → State → Flow} (hexec : ∀ t, exec i t = bufferWord i c f t) (hr : s.Ready i) (hc : s.cur = .hart h)
include hexec hr hc

theorem exec_buffer_undefined (hb : s.due.buffer (coreOfHart h) c = none) :
    exec i s = .next (s.due.trapped causeBounds (c.setWidth 64)) := by
  rw [exec_ready hexec hr]
  simp only [s.due_cur.trans hc, Agent.core, hb]
  rfl

theorem exec_buffer_foreign (hb : s.due.buffer (coreOfHart h) c = some b) (hx : b.ctx ≠ (s.hart h).ctx) :
    exec i s = .next (s.due.trapped causeProt (c.setWidth 64)) := by
  rw [exec_ready hexec hr]
  simp only [s.due_cur.trans hc, Agent.core, hb, State.due_myCtx hc, if_pos hx]
  rfl

theorem exec_buffer (hb : s.due.buffer (coreOfHart h) c = some b) (hx : b.ctx = (s.hart h).ctx) :
    exec i s = .next (State.finish (f b s.due)) := by
  rw [exec_ready hexec hr]
  simp only [s.due_cur.trans hc, Agent.core, hb, State.due_myCtx hc, if_neg (not_not_intro hx)]

end

/-! ## Slots taken and returned (R246) -/

section
variable {d : Reg} {n : Dword} {count index : CircBuf → Nat} {take : CircBuf → Nat → CircBuf}

theorem takeSlots_bounds (hn : n.toNat = 0 ∨ b.slots < n.toNat) : takeSlots d c n count index take b s = .trap s causeBounds n := by
  have hzero : n = 0 ↔ n.toNat = 0 := by rw [BitVec.toNat_eq]; rfl
  rw [takeSlots, if_pos (hn.imp_left hzero.2)]

variable (h1 : 1 ≤ n.toNat) (h2 : n.toNat ≤ b.slots)
include h1 h2

theorem takeSlots_inBounds : ¬ (n = 0 ∨ b.slots < n.toNat) := by
  rintro (rfl | hlt)
  · exact absurd h1 (by decide)
  · omega

theorem takeSlots_waits (hn : count b < n.toNat) : takeSlots d c n count index take b s = .hold s := by
  rw [takeSlots, if_neg (takeSlots_inBounds h1 h2), if_pos hn]

theorem takeSlots_takes (hc : s.cur = .hart h) (hn : n.toNat ≤ count b) :
    takeSlots d c n count index take b s = .retire (Claims.acquired ((s.setBuffer (coreOfHart h) c (take b n.toNat)).resultAt d
      (b.base + BitVec.ofNat 64 (index b * b.slotSize)) (s.now + 4)) 1) := by
  have hcur : ((s.setBuffer (coreOfHart h) c (take b n.toNat)).resultAt d (b.base + BitVec.ofNat 64 (index b * b.slotSize))
      (s.now + 4)).cur = .hart h := (State.modSc_cur _ _).trans hc
  rw [takeSlots, if_neg (takeSlots_inBounds h1 h2), if_neg (Nat.not_lt.2 hn), ← State.acquireBy_cur hcur, hcur, hc]
  exact congrArg (fun a => Flow.retire (State.acquireBy _ a 1)) hc

end

theorem returnSlot_bounds {held : CircBuf → Nat} {give : CircBuf → CircBuf} (hb : held b = 0) :
    returnSlot c held give b s = .trap s causeBounds (c.setWidth 64) := if_pos hb

/-- A word returns a slot once its release is made. -/
theorem returnSlot_returns {held : CircBuf → Nat} {give : CircBuf → CircBuf} {w : State} (hb : 0 < held b) (hc : s.cur = .hart h)
    (hw : s.release h 1 (s.hart h).serial = .ok () w) : returnSlot c held give b s = .retire (w.setBuffer (coreOfHart h) c (give b)) := by
  have hcur : w.cur = .hart h := ((State.release_ok hw).1.part State.cur fun _ _ _ _ _ _ => rfl).trans hc
  rw [returnSlot, if_neg hb.ne', State.me_hart hc, State.self_hart hc, hw, Acc.flow, hcur]
  rfl

section
variable {d : Reg} {n : State → Dword} {m : Nat} {count index : CircBuf → Nat} {take : CircBuf → Nat → CircBuf}

/-- A word that takes m slots. -/
theorem exec_takes (hexec : ∀ t, exec i t = bufferWord i c (fun b t => takeSlots d c (n t) count index take b t) t) (hr : s.Ready i)
    (hc : s.cur = .hart h) (hb : s.due.buffer (coreOfHart h) c = some b) (hx : b.ctx = (s.hart h).ctx) (hm : (n s.due).toNat = m) :
    (1 ≤ m → m ≤ b.slots → (count b < m → exec i s = .next s.due) ∧
      (m ≤ count b → exec i s = .next (Claims.acquired ((s.due.setBuffer (coreOfHart h) c (take b m)).resultAt d
        (b.base + BitVec.ofNat 64 (index b * b.slotSize)) (s.now + 4)) 1).retired)) ∧
    (m = 0 ∨ b.slots < m → exec i s = .next (s.due.trapped causeBounds (n s.due))) := by
  subst hm
  have hrun := exec_buffer hexec hr hc hb hx
  refine ⟨fun h1 h2 => ⟨fun hn => ?_, fun hn => ?_⟩, fun hn => ?_⟩ <;> rw [hrun]
  · rw [takeSlots_waits h1 h2 hn]
    rfl
  · rw [takeSlots_takes h1 h2 (s.due_cur.trans hc) hn, State.due_now]
    rfl
  · rw [takeSlots_bounds hn]
    rfl

end

/-- A word that returns a slot. -/
theorem exec_returns {held : CircBuf → Nat} {give : CircBuf → CircBuf} (hexec : ∀ t, exec i t = bufferWord i c (returnSlot c held give) t)
    (hr : s.Ready i) (hc : s.cur = .hart h) (hb : s.due.buffer (coreOfHart h) c = some b) (hx : b.ctx = (s.hart h).ctx) :
    (held b = 0 → exec i s = .next (s.due.trapped causeBounds (c.setWidth 64))) ∧
    ∀ w, 0 < held b → s.due.release h 1 (s.due.hart h).serial = .ok () w →
      exec i s = .next (w.setBuffer (coreOfHart h) c (give b)).retired := by
  have hrun := exec_buffer hexec hr hc hb hx
  refine ⟨fun hz => ?_, fun w hpos hw => ?_⟩ <;> rw [hrun]
  · rw [returnSlot_bounds hz]
    rfl
  · rw [returnSlot_returns hpos (s.due_cur.trans hc) hw]
    rfl

/-! ## Definition (R209, R247) -/

/-- The buffer that a record defines. -/
def recordBuffer (bs : List Byte) (ctx : Nat) : CircBuf :=
  { base := BitVec.ofNat 64 (Claims.fieldAt bs 0 8), slotSize := Claims.fieldAt bs 8 4, slots := Claims.fieldAt bs 12 2, ctx := ctx,
    free := Claims.fieldAt bs 12 2, filled := 0 }

/-- What R209 asks of a record, and that the hart may read its slots. -/
def State.admitsBuffer (w : State) (h : HartKey) (bs : List Byte) : Prop :=
  let base : Dword := BitVec.ofNat 64 (Claims.fieldAt bs 0 8)
  let size := Claims.fieldAt bs 8 4
  let slots := Claims.fieldAt bs 12 2
  base.toNat % 64 = 0 ∧ size % 64 = 0 ∧ 64 ≤ size ∧ size ≤ 2 ^ 20 ∧ 1 ≤ slots ∧ slots ≤ 1024 ∧
    Claims.fieldAt bs 14 2 = 0 ∧ (w.hartReach h .vector).check .load base (size * slots) = none

theorem State.bufferOf_eq (w : State) (h : HartKey) {bs : List Byte} (hlen : bs.length = 16) :
    (w.admitsBuffer h bs → w.bufferOf h (bitsOfBytes 128 bs) = some (recordBuffer bs (w.hart h).ctx)) ∧
    (¬ w.admitsBuffer h bs → w.bufferOf h (bitsOfBytes 128 bs) = none) := by
  have hbits : 8 * bs.length = 128 := by omega
  have hbase : (bitsOfBytes 128 bs).extractLsb' 0 64 = BitVec.ofNat 64 (Claims.fieldAt bs 0 8) := by
    rw [← toNat_field (i := 0) (k := 8) hbits, BitVec.ofNat_toNat, BitVec.setWidth_eq]
  have hsize : ((bitsOfBytes 128 bs).extractLsb' 64 32).toNat = Claims.fieldAt bs 8 4 :=
    toNat_field (i := 8) (k := 4) hbits
  have hslots : ((bitsOfBytes 128 bs).extractLsb' 96 16).toNat = Claims.fieldAt bs 12 2 :=
    toNat_field (i := 12) (k := 2) hbits
  have hzero : (bitsOfBytes 128 bs).extractLsb' 112 16 ≠ 0 ↔ Claims.fieldAt bs 14 2 ≠ 0 := by
    rw [← toNat_field (i := 14) (k := 2) hbits, Ne, BitVec.toNat_eq]
    rfl
  have halign : ∀ x : Dword, x.extractLsb' 0 6 ≠ 0 ↔ x.toNat % 64 ≠ 0 := by
    intro x
    rw [Ne, BitVec.toNat_eq, BitVec.extractLsb'_toNat]
    rfl
  simp only [State.bufferOf, State.admitsBuffer, hbase, hsize, hslots, hzero, halign]
  refine ⟨fun hfine => ?_, fun hbad => ?_⟩
  · obtain ⟨ha, hs, hlo, hhi, h1, h2, hz, hcheck⟩ := hfine
    rw [if_neg (by omega), hcheck]
    rfl
  · split
    · rfl
    next hfields =>
      rw [if_pos]
      rw [Option.isSome_iff_ne_none]
      exact fun hcheck => hbad ⟨by omega, by omega, by omega, by omega, by omega, by omega, by omega, hcheck⟩

/-- No command on the core is about to fill the buffer. -/
theorem CoreState.producing_eq_false {v : CoreState} (hn : ∀ q ∈ v.chains.toList, ∀ k ∈ q.cmds, k.stage = .done ∨
    ∀ x, k.cbSlot = some x → x.1 ≠ c.toNat) : v.producing c = false := by
  rw [CoreState.producing, List.any_eq_false]
  intro q hq
  rw [List.any_eq_true]
  rintro ⟨k, hk, hp⟩
  rw [Bool.and_eq_true, decide_eq_true_eq] at hp
  rcases hn q hq k hk with hdone | hslot
  · exact hp.1 hdone
  · have hfill := hp.2
    split at hfill
    next x hx => exact hslot x hx (of_decide_eq_true hfill)
    next => cases hfill

/-- A CBDEF that has read its record. -/
theorem exec_cbdef {x : Reg} {bs : List Byte} {w : State} (hr : s.Ready (.cbdef c x)) (hc : s.cur = .hart h)
    (hva : (s.due.firstX x).toNat + 16 ≤ 2 ^ 52) (hw : s.due.readsWhole (s.due.firstX x) = true)
    (hl : s.due.loadRecord (s.due.firstX x) 16 = .ok bs w) :
    exec (.cbdef c x) s = .next (State.finish ((w.bufferOf h (bitsOfBytes 128 bs)).elim (.trap w causeBounds (s.due.firstX x)) fun q =>
      if (s.due.core (coreOfHart h)).producing c then .hold s.due
      else .retire ((w.setBuffer (coreOfHart h) c q).delay (s.due.recordDue (s.due.firstX x))))) := by
  have hcur := s.due_cur.trans hc
  rw [exec_ready (fun _ => rfl) hr]
  simp only [State.recordMiss_none _ hva, State.recordFlow_whole hw hl, State.me_hart hcur, hcur, Agent.core]
  cases w.bufferOf h (bitsOfBytes 128 bs) <;> rfl

end Sys2Proof.Machine

namespace Sys2Proof.Proofs

open Sys2Proof.Machine

theorem bufferWordsTakeAndReturnSlots : Parts.BufferWordsTakeAndReturnSlots := by
  intro s h c hc
  refine ⟨fun i hi hr => ?_, fun b hb hx => ?_, fun x bs w hr hva hw hl hlen => ⟨fun hbad => ?_, fun hfine hfree => ?_⟩⟩
  · obtain ⟨f, hexec⟩ := bufferWord_of_exec hi
    exact ⟨exec_buffer_undefined hexec hr hc, fun b hb hx => exec_buffer_foreign hexec hr hc hb hx⟩
  · have gets := fun (i : Instr) (d : Reg) (n : State → Dword) (m : Nat) hexec hr =>
      exec_takes (s := s) (i := i) (c := c) (d := d) (n := n) (m := m) (count := CircBuf.free) (index := CircBuf.pidx) (take := CircBuf.take)
        hexec hr hc hb hx
    have pops := fun (i : Instr) (d : Reg) (n : State → Dword) (m : Nat) hexec hr =>
      exec_takes (s := s) (i := i) (c := c) (d := d) (n := n) (m := m) (count := CircBuf.filled) (index := CircBuf.cidx) (take := CircBuf.pop)
        hexec hr hc hb hx
    refine ⟨fun d hr => (gets (.cbget d c) d (fun _ => 1) 1 (fun _ => rfl) hr rfl).1,
      fun d hr => (pops (.cbpop d c) d (fun _ => 1) 1 (fun _ => rfl) hr rfl).1,
      fun d x hr => gets (.cbgetn d c x) d (fun t => t.rx x) _ (fun _ => rfl) hr rfl,
      fun d x hr => pops (.cbpopn d c x) d (fun t => t.rx x) _ (fun _ => rfl) hr rfl,
      fun hr => exec_returns (i := .cbput c) (held := CircBuf.hp) (give := CircBuf.publish) (fun _ => rfl) hr hc hb hx,
      fun hr => exec_returns (i := .cbrel c) (held := CircBuf.hc) (give := CircBuf.giveBack) (fun _ => rfl) hr hc hb hx,
      fun d hr hfree hfilled => ?_⟩
    have hfree' : b.free % 2048 = b.free := Nat.mod_eq_of_lt hfree
    have hfilled' : b.filled % 2048 = b.filled := Nat.mod_eq_of_lt hfilled
    rw [exec_buffer (fun _ => rfl) hr hc hb hx, hfree', hfilled', State.due_now]
    rfl
  · rw [exec_cbdef hr hc hva hw hl, (w.bufferOf_eq h hlen).2 hbad]
    rfl
  · rw [exec_cbdef hr hc hva hw hl, (w.bufferOf_eq h hlen).1 hfine, Option.elim_some,
      if_neg (by rw [CoreState.producing_eq_false hfree]; exact Bool.false_ne_true)]
    rfl

/-- Settles O27: a fence leaves its ordering point, a strip's check leaves the harts (`State.granuleMiss_frame`), a point moves on once its
release is made (`State.orderMove_released`), and a record's fields are the numbers in its bytes (`toNat_field`). -/
theorem buffersFencesAndStripsTakeEffect : Obligations.BuffersFencesAndStripsTakeEffect :=
  ⟨fencesAndStripsTakeEffect, orderingPointsMove, bufferWordsTakeAndReturnSlots⟩

end Sys2Proof.Proofs
end

section
/-! PROOFS. The stream words and the records of their bindings (10 R235 to R240). -/

namespace Sys2Proof.Machine

variable {s : State} {h : HartKey} {q : BitVec 3}

/-! ## The fields of a binding record (R236) -/

theorem toNat_recordField (b : Binding) (lo n : Nat) : (b.record.extractLsb' lo n).toNat = Claims.recordField b lo n := by
  rw [BitVec.extractLsb'_toNat, Nat.shiftRight_eq_div_pow]
  rfl

theorem extractLsb'_eq_one (b : Binding) (lo : Nat) : (b.record.extractLsb' lo 8 == 1) = decide (Claims.recordField b lo 8 = 1) := by
  rw [← toNat_recordField, Bool.eq_iff_iff, beq_iff_eq, decide_eq_true_eq, BitVec.toNat_eq]
  rfl

/-- Block number k of a stream (R237, R238). -/
theorem Binding.transfer_eq (b : Binding) (q : BitVec 3) (k owner : Nat) : b.transfer q k owner = Claims.blockOf b q k owner := by
  have haddr : b.addr + BitVec.ofNat 64 k * b.stride =
      BitVec.ofNat 64 (Claims.recordField b 0 64 + k * Claims.recordField b 128 64) := by
    rw [Binding.addr, Binding.stride, ← toNat_recordField, ← toNat_recordField]
    apply BitVec.eq_of_toNat_eq
    simp [BitVec.toNat_add, BitVec.toNat_mul, Nat.add_mod, Nat.mul_mod]
  simp only [Binding.transfer, Claims.blockOf, haddr, Binding.rows, toNat_recordField, Binding.stores, Binding.scale,
    extractLsb'_eq_one, decide_eq_true_eq]

theorem Binding.start_eq (b : Binding) (q : BitVec 3) (owner : Nat) : b.start q owner = Claims.started b q owner := by
  rw [Binding.start, Binding.transfer_eq]
  rfl

/-- The binding of a record that a word has read. -/
def boundBy (bs : List Byte) (d : FieldDesc) (rowbase : Nat) : Binding := { record := bitsOfBytes 256 bs, desc := d, rowbase := rowbase }

section
variable {bs : List Byte} (hlen : bs.length = 32) (d : FieldDesc) (rowbase : Nat)
include hlen

theorem recordField_boundBy (i k : Nat) : Claims.recordField (boundBy bs d rowbase) (8 * i) (8 * k) = Claims.fieldAt bs i k := by
  rw [← toNat_recordField]
  exact toNat_field (by omega)

theorem boundBy_stores : (boundBy bs d rowbase).stores = decide (Claims.fieldAt bs 24 1 = 1) := by
  rw [Binding.stores, extractLsb'_eq_one, ← recordField_boundBy hlen d rowbase]

theorem boundBy_scale : (boundBy bs d rowbase).scale = decide (Claims.fieldAt bs 25 1 = 1) := by
  rw [Binding.scale, extractLsb'_eq_one, ← recordField_boundBy hlen d rowbase]

theorem toNat_boundBy_addr : (boundBy bs d rowbase).addr.toNat = Claims.fieldAt bs 0 8 := by
  rw [Binding.addr, toNat_recordField]
  exact recordField_boundBy hlen d rowbase 0 8

theorem boundBy_rows : (boundBy bs d rowbase).rows = Claims.fieldAt bs 8 4 := by
  rw [Binding.rows, toNat_recordField]
  exact recordField_boundBy hlen d rowbase 8 4

theorem boundBy_blocks : (boundBy bs d rowbase).blocks = Claims.fieldAt bs 12 4 := by
  rw [Binding.blocks, toNat_recordField]
  exact recordField_boundBy hlen d rowbase 12 4

/-- The checks of R236 are those of the claims. -/
theorem boundBy_broken : ((boundBy bs d rowbase).broken || decide (16384 < rowbase + (boundBy bs d rowbase).rows)) =
    !Claims.bindingAdmitted bs d rowbase := by
  have hdir : ((boundBy bs d rowbase).record.extractLsb' 192 8).toNat = Claims.fieldAt bs 24 1 :=
    (toNat_recordField ..).trans (recordField_boundBy hlen d rowbase 24 1)
  have hform : ((boundBy bs d rowbase).record.extractLsb' 200 8).toNat = Claims.fieldAt bs 25 1 :=
    (toNat_recordField ..).trans (recordField_boundBy hlen d rowbase 25 1)
  have hzero : ((boundBy bs d rowbase).record.extractLsb' 208 48 != 0) = !decide (Claims.fieldAt bs 26 6 = 0) := by
    have hfield : ((boundBy bs d rowbase).record.extractLsb' 208 48).toNat = Claims.fieldAt bs 26 6 :=
      (toNat_recordField ..).trans (recordField_boundBy hlen d rowbase 26 6)
    rw [bne, ← hfield]
    congr 1
    rw [Bool.eq_iff_iff, beq_iff_eq, decide_eq_true_eq, BitVec.toNat_eq]
    rfl
  have hdesc : (boundBy bs d rowbase).desc = d := rfl
  simp only [Binding.broken, Claims.bindingAdmitted, hdir, hform, hzero, boundBy_rows hlen, boundBy_blocks hlen, boundBy_scale hlen,
    boundBy_stores hlen, toNat_boundBy_addr hlen, selector, hdesc, FieldDesc.size, FieldDesc.isF4b]
  generalize Claims.fieldAt bs 0 8 = addr, Claims.fieldAt bs 8 4 = rows, Claims.fieldAt bs 24 1 = dir, Claims.fieldAt bs 25 1 = form,
    Claims.fieldAt bs 26 6 = rest, Claims.fieldAt bs 12 4 = blocks, (d.width.toNat + 7) / 8 = size
  rw [Bool.eq_iff_iff]
  simp [or_assoc, or_left_comm, or_comm, and_left_comm, and_comm]

end

/-! ## SBIND (R237) -/

theorem Binding.not_flies {o : Binding} (ho : ¬ (o.block ≠ none ∧ o.fault = none)) : (o.block.isSome && o.fault.isNone) = false := by
  rw [Bool.and_eq_false_iff, ← Bool.not_eq_true, ← Bool.not_eq_true, Option.isSome_iff_ne_none, Option.isNone_iff_eq_none]
  exact not_and_or.1 ho

/-- A stream that starts its first block with its binding. -/
def State.startsFirst (u : State) (h : HartKey) (q : BitVec 3) (va : Dword) (new : Binding) : Binding :=
  let b := new.start q (u.hart h).serial
  { b with block := b.block.map fun x => { x with ready := u.recordDue va + u.stall + 2 } }

/-- What SBIND does once its record has been read: the checks of its field, of the record and of its spaces, and the binding. -/
def State.bindFlow (u w : State) (h : HartKey) (q : BitVec 3) (v : VReg) (va : Dword) (new : Binding) : Flow :=
  match (u.hart h).checkFields [] [(v, fun d => !new.scale || scalePairs d)] with
  | some f => .trap w causeField (f.setWidth 64)
  | none =>
    if new.broken || decide (16384 < new.rowbase + new.rows) then .trap w causeBounds va
    else if !(Agency.may .vector (selector new.addr) (if new.stores then .store else .load)) then .trap w causeProt new.addr
    else .retire ((w.setStream h q (some (if new.stores then new else u.startsFirst h q va new))).delay (u.recordDue va))

section
variable {v : VReg} {b : Reg} (hr : s.Ready (.sbind q v b)) (hc : s.cur = .hart h)
  (hidle : ∀ o, (s.due.hart h).stream q = some o → ¬ (o.block ≠ none ∧ o.fault = none))
include hr hc hidle

theorem exec_sbind_idle : exec (.sbind q v b) s = .next (State.finish
    (if (s.due.firstX b).toNat % 8 ≠ 0 then .trap s.due causeAlign (s.due.firstX b)
      else (s.due.recordMiss (s.due.firstX b) 32).elim
        (s.due.recordFlow (s.due.firstX b) (s.due.firstX b) 0 (fun load t => load t (s.due.firstX b) 32) fun bs w =>
          s.due.bindFlow w h q v (s.due.firstX b) (boundBy bs ((s.due.hart h).field v) (s.due.hart h).csr.rowbase.toNat))
        fun m => .trap s.due m.cause m.value)) := by
  have hcur := s.due_cur.trans hc
  have hrow : s.due.rowbase = (s.due.hart h).csr.rowbase.toNat := by rw [State.rowbase, State.self_hart hcur]
  rw [exec_ready (fun _ => rfl) hr]
  simp only [State.self_hart hcur, State.me_hart hcur, hrow]
  cases hs : (s.due.hart h).stream q with
  | none => cases s.due.recordMiss (s.due.firstX b) 32 <;> rfl
  | some o =>
    simp only [Binding.not_flies (hidle o hs)]
    cases s.due.recordMiss (s.due.firstX b) 32 <;> rfl

theorem exec_sbind_misaligned (ha : (s.due.firstX b).toNat % 8 ≠ 0) :
    exec (.sbind q v b) s = .next (s.due.trapped causeAlign (s.due.firstX b)) := by
  rw [exec_sbind_idle hr hc hidle, if_pos ha]
  rfl

theorem exec_sbind {bs : List Byte} {w : State} (ha : (s.due.firstX b).toNat % 8 = 0) (hva : (s.due.firstX b).toNat + 32 ≤ 2 ^ 52)
    (hw : s.due.readsWhole (s.due.firstX b) = true) (hl : s.due.loadRecord (s.due.firstX b) 32 = .ok bs w) :
    exec (.sbind q v b) s = .next (State.finish (s.due.bindFlow w h q v (s.due.firstX b)
      (boundBy bs ((s.due.hart h).field v) (s.due.hart h).csr.rowbase.toNat))) := by
  rw [exec_sbind_idle hr hc hidle, if_neg (not_not_intro ha), State.recordMiss_none _ hva, Option.elim_none, State.recordFlow_whole hw hl]

end

theorem State.startsFirst_eq (u : State) (h : HartKey) (q : BitVec 3) (va : Dword) (new : Binding) (hnew : new.started = 0) :
    u.startsFirst h q va new =
      { new with block := some { Claims.blockOf new q 0 (u.hart h).serial with ready := u.recordDue va + u.ir.toNat % 8 + 2 }
                 started := 1 } := by
  simp only [State.startsFirst, Binding.start, Binding.transfer_eq, hnew, State.stall_eq, Option.map_some]

theorem scalePairs_iff (d : FieldDesc) : scalePairs d = true ↔ d.type.toNat = 1 ∧ d.width.toNat = 16 := by
  rw [scalePairs, Bool.and_eq_true, beq_iff_eq, beq_iff_eq, BitVec.toNat_eq, BitVec.toNat_eq]
  rfl

/-- Where an admitted binding may have its rows (11 R201). -/
theorem may_vector {sel : Nat} {stores : Bool} (h : [0, 10, 11].contains sel = true) :
    Agency.may .vector sel (if stores then .store else .load) = !(stores && decide (sel = 11)) := by
  have hsel : sel = 0 ∨ sel = 10 ∨ sel = 11 := by simpa using h
  rcases hsel with rfl | rfl | rfl <;> cases stores <;> rfl

theorem Hart.checkFields_single {t : Hart} {v : VReg} (hfit : Claims.fieldsFit t [v]) (ok : FieldDesc → Bool) :
    t.checkFields [] [(v, ok)] = if ok (t.field v) then none else some v := by
  have hacc : (t.field v).accepted t.cols [] = true :=
    (FieldDesc.accepted_iff ..).2 ⟨hfit.1, fun _ hb => (List.not_mem_nil hb).elim⟩
  simp only [Hart.checkFields, hacc, Bool.true_and]

section
variable {u w : State} {v : VReg} {va : Dword} {bs : List Byte} (hlen : bs.length = 32) (hfit : Claims.fieldsFit (u.hart h) [v])
include hfit

/-- The binding of field v by a record. -/
def State.boundTo (u : State) (h : HartKey) (v : VReg) (bs : List Byte) : Binding :=
  boundBy bs ((u.hart h).field v) (u.hart h).csr.rowbase.toNat

theorem State.bindFlow_field (hform : (u.boundTo h v bs).scale = true) (hpairs : scalePairs ((u.hart h).field v) = false) :
    u.bindFlow w h q v va (u.boundTo h v bs) = .trap w causeField (v.setWidth 64) := by
  simp only [State.bindFlow, Hart.checkFields_single hfit, hform, hpairs, Bool.not_true, Bool.or_self, Bool.false_eq_true, if_false]

variable (hpairs : (u.boundTo h v bs).scale = true → scalePairs ((u.hart h).field v) = true)
include hpairs hlen

theorem State.bindFlow_fits : u.bindFlow w h q v va (u.boundTo h v bs) =
    if !Claims.bindingAdmitted bs ((u.hart h).field v) (u.hart h).csr.rowbase.toNat then .trap w causeBounds va
    else if !(Agency.may .vector (selector (u.boundTo h v bs).addr) (if (u.boundTo h v bs).stores then .store else .load)) then
      .trap w causeProt (u.boundTo h v bs).addr
    else .retire ((w.setStream h q (some (if (u.boundTo h v bs).stores then u.boundTo h v bs
      else u.startsFirst h q va (u.boundTo h v bs)))).delay (u.recordDue va)) := by
  have hok : (!(u.boundTo h v bs).scale || scalePairs ((u.hart h).field v)) = true := by
    rw [Bool.or_eq_true, Bool.not_eq_true', ← Bool.not_eq_true]
    exact (em _).symm.imp id hpairs
  rw [← boundBy_broken hlen]
  simp only [State.bindFlow, Hart.checkFields_single hfit, hok, if_true]
  rfl

theorem State.bindFlow_admitted (hadm : Claims.bindingAdmitted bs ((u.hart h).field v) (u.hart h).csr.rowbase.toNat = true) :
    u.bindFlow w h q v va (u.boundTo h v bs) =
      if Claims.fieldAt bs 24 1 = 1 ∧ Claims.fieldAt bs 0 8 / 2 ^ 60 = 11 then .trap w causeProt (u.boundTo h v bs).addr
      else .retire ((w.setStream h q (some (if Claims.fieldAt bs 24 1 = 1 then u.boundTo h v bs
        else { u.boundTo h v bs with
          block := some { Claims.blockOf (u.boundTo h v bs) q 0 (u.hart h).serial with ready := u.recordDue va + u.ir.toNat % 8 + 2 }
          started := 1 }))).delay (u.recordDue va)) := by
  have hstores : (u.boundTo h v bs).stores = decide (Claims.fieldAt bs 24 1 = 1) := boundBy_stores hlen ..
  have hsel : selector (u.boundTo h v bs).addr = Claims.fieldAt bs 0 8 / 2 ^ 60 := congrArg (· / 2 ^ 60) (toNat_boundBy_addr hlen ..)
  have hspace : [0, 10, 11].contains (Claims.fieldAt bs 0 8 / 2 ^ 60) = true := by
    simp only [Claims.bindingAdmitted, Bool.and_eq_true] at hadm
    exact hadm.1.2
  rw [State.bindFlow_fits hlen hfit hpairs, hadm, hsel, may_vector hspace, hstores, State.startsFirst_eq _ _ _ _ _ rfl]
  simp only [Bool.not_true, Bool.false_eq_true, if_false, Bool.not_not, Bool.and_eq_true, decide_eq_true_eq]

end

/-! ## SUNB, SBAR, SWAIT and SSTAT (R238, R240) -/

section
variable (hc : s.cur = .hart h) {b : Binding}
include hc

theorem exec_sunb_unbound (hr : s.Ready (.sunb q)) (hs : (s.due.hart h).stream q = none) : exec (.sunb q) s = .next s.due.retired := by
  rw [exec_ready (fun _ => rfl) hr, State.self_hart (s.due_cur.trans hc)]
  simp only [hs]
  rfl

theorem exec_sunb (hr : s.Ready (.sunb q)) (hs : (s.due.hart h).stream q = some b) : exec (.sunb q) s = .next (State.finish
    (if b.block.isSome && b.fault.isNone then .hold s.due else .retire (s.due.setStream h q none))) := by
  rw [exec_ready (fun _ => rfl) hr, State.self_hart (s.due_cur.trans hc), State.me_hart (s.due_cur.trans hc)]
  simp only [hs]

theorem exec_sbar {a : Reg} (hr : s.Ready (.sbar a)) : exec (.sbar a) s = .next (State.finish
    (if (s.due.rx a).setWidth 9 = (0 : BitVec 9) then .retire s.due
      else .retire (s.due.modHart h fun t => { t with orders := t.orders ++
        [{ streams := (s.due.rx a).setWidth 9, loads := true, release := none, acquire := none, ready := s.now, owner := t.serial }] }))) := by
  rw [exec_ready (fun _ => rfl) hr]
  simp only [State.modSelf_hart (s.due_cur.trans hc), State.due_now]

theorem exec_swait_unbound (hr : s.Ready (.swait q)) (hs : (s.due.hart h).stream q = none) : exec (.swait q) s = .next s.due.retired := by
  rw [exec_ready (fun _ => rfl) hr, State.self_hart (s.due_cur.trans hc)]
  simp only [hs]
  rfl

theorem exec_swait_over (hr : s.Ready (.swait q)) (hs : (s.due.hart h).stream q = some b) (hb : b.blocks ≤ b.waits) :
    exec (.swait q) s = .next s.due.retired := by
  rw [exec_ready (fun _ => rfl) hr, State.self_hart (s.due_cur.trans hc)]
  simp only [hs, if_pos hb]
  rfl

/-- The stream of a SWAIT that is ready keeps no fault (R239). -/
theorem State.Ready.swait_fault (hr : s.Ready (.swait q)) (hs : (s.due.hart h).stream q = some b) : b.fault = none := by
  have hcur := s.due_cur.trans hc
  have hlate := hr.late
  rw [hcur, State.self_hart hcur] at hlate
  have hq := List.find?_eq_none.1 hlate ⟨q.toNat, q.isLt⟩ (List.mem_finRange _)
  have hsame : (s.due.hart h).streams[(⟨q.toNat, q.isLt⟩ : Fin 8)] = some b := hs
  rw [hsame] at hq
  simpa using hq

/-- Whether the block that a SWAIT waits for is moved, or its rows are read (R238). -/
def Binding.passes (b : Binding) : Bool :=
  decide (b.waits < b.started) && (decide (b.waits < b.moved) || (b.stores && b.block.all Transfer.taken))

omit hc in
theorem Binding.passes_iff (b : Binding) : b.passes = true ↔
    b.waits < b.started ∧ (b.waits < b.moved ∨ b.stores = true ∧ ∀ x, b.block = some x → x.taken = true) := by
  simp only [Binding.passes, Bool.and_eq_true, Bool.or_eq_true, decide_eq_true_eq, Option.all_eq_true]

theorem exec_swait (hr : s.Ready (.swait q)) (hs : (s.due.hart h).stream q = some b) (hb : b.waits < b.blocks) :
    exec (.swait q) s = .next (State.finish
      (if b.passes then .retire (s.due.setStream h q (some { b with waits := b.waits + 1 }))
        else if decide (b.started ≤ b.waits) && b.block.isNone then
          (s.due.setStream h q (some (Claims.started b q (s.due.hart h).serial))).await .swait
        else .hold s.due)) := by
  have hcur := s.due_cur.trans hc
  rw [exec_ready (fun _ => rfl) hr, State.self_hart hcur, State.me_hart hcur]
  simp only [hs, if_neg (Nat.not_le.2 hb), hr.swait_fault hc hs, Binding.start_eq, Binding.passes]
  cases b.block <;> rfl

omit hc in
theorem Binding.status_eq (b : Binding) : b.status b.block.isSome = 1 + 2 * (if b.stores then 1 else 0) +
    4 * (if b.block ≠ none then 1 else 0) + 8 * (if b.blocks ≤ b.moved then 1 else 0) + 2 ^ 32 * b.moved := by
  simp only [Binding.status, Option.isSome_iff_ne_none, mul_ite, Nat.mul_one, Nat.mul_zero]

theorem exec_sstat {d : Reg} (hr : s.Ready (.sstat d q)) : exec (.sstat d q) s = .next (s.due.resultAt d
    (((s.due.hart h).stream q).elim 0 fun b => BitVec.ofNat 64 (b.status b.block.isSome)) (s.now + 4)).retired := by
  rw [exec_ready (fun _ => rfl) hr, State.self_hart (s.due_cur.trans hc), State.due_now]
  cases (s.due.hart h).stream q <;> rfl

end

end Sys2Proof.Machine

namespace Sys2Proof.Proofs

open Sys2Proof.Machine

theorem streamWordsBindMoveAndWait : Parts.StreamWordsBindMoveAndWait := by
  intro q s h hc u t flies
  have hcur : u.cur = .hart h := s.due_cur.trans hc
  refine ⟨?_, ?_, ?_, ?_, ?_⟩
  · intro v b bs w hr va form dir idle ok fits admitted bound next
    have hrun : ok → exec (.sbind q v b) s = .next (State.finish (u.bindFlow w h q v va (u.boundTo h v bs))) := by
      rintro ⟨hidle, ha, hva, hw, hl, -⟩
      exact exec_sbind hr hc hidle ha (Nat.add_le_of_le_sub (by decide) hva.le) hw hl
    have hfits : ok → (fits ↔ ((u.boundTo h v bs).scale = true → scalePairs ((u.hart h).field v) = true)) := by
      rintro ⟨-, -, -, -, -, hlen, -⟩
      have hscale : (u.boundTo h v bs).scale = decide (form = 1) := boundBy_scale hlen ..
      rw [hscale, scalePairs_iff, decide_eq_true_eq, ← State.self_hart hcur]
      exact Iff.rfl
    refine ⟨fun hidle ha => exec_sbind_misaligned hr hc hidle ha, fun hok hno => ?_, fun hok hyes hadm => ?_, fun hok hyes hadm hd hw => ?_,
      fun hok hyes hadm hno => ?_⟩ <;> rw [hrun hok] <;> have hpairs := hfits hok <;> obtain ⟨-, -, -, -, -, hlen, hfit⟩ := hok
    · rw [hpairs, Classical.not_imp, Bool.not_eq_true] at hno
      rw [State.bindFlow_field hfit hno.1 hno.2]
      rfl
    · have hadm' : Claims.bindingAdmitted bs ((u.hart h).field v) (u.hart h).csr.rowbase.toNat = false := hadm
      rw [State.bindFlow_fits hlen hfit (hpairs.1 hyes), hadm']
      rfl
    · rw [State.bindFlow_admitted hlen hfit (hpairs.1 hyes) hadm, if_pos ⟨hd, hw⟩]
      rfl
    · rw [State.bindFlow_admitted hlen hfit (hpairs.1 hyes) hadm, if_neg hno, State.due_ir]
      rfl
  · refine fun hr => ⟨fun hs => exec_sunb_unbound hc hr hs, fun b hs => ⟨fun hno => ?_, fun hfly => ?_⟩⟩ <;> rw [exec_sunb hc hr hs]
    · rw [Binding.not_flies hno]
      rfl
    · rw [Option.isSome_iff_ne_none.2 hfly.1, Option.isNone_iff_eq_none.2 hfly.2]
      rfl
  · intro a hr
    have hmask : (u.rx a).setWidth 9 = (0 : BitVec 9) ↔ (u.rx a).toNat % 512 = 0 := by
      rw [BitVec.toNat_eq, BitVec.toNat_setWidth]
      rfl
    refine ⟨fun hz => ?_, fun hz => ?_⟩ <;> rw [exec_sbar hc hr]
    · rw [if_pos (hmask.2 hz)]
      rfl
    · rw [if_neg (mt hmask.1 hz)]
      rfl
  · refine fun hr => ⟨fun hs => exec_swait_unbound hc hr hs, fun b hs => ⟨fun hb => exec_swait_over hc hr hs hb, fun hb hp => ?_,
      fun hb hle hnone => ?_, fun hb hp hno => ?_⟩⟩ <;> rw [exec_swait hc hr hs hb]
    · rw [if_pos (b.passes_iff.2 hp)]
      rfl
    · have hp : b.passes ≠ true := fun hp => absurd (b.passes_iff.1 hp).1 (Nat.not_lt.2 hle)
      have hstarts : (decide (b.started ≤ b.waits) && b.block.isNone) = true := by simp [hle, hnone]
      have hir : (s.due.setStream h q (some (Claims.started b q (s.due.hart h).serial))).ir = s.ir := s.due_ir
      have hnow : (s.due.setStream h q (some (Claims.started b q (s.due.hart h).serial))).now = s.now := s.due_now
      rw [if_neg hp, if_pos hstarts, State.finish_await (h := h) (s := s.due.setStream h q _) hcur, hir, hnow]
    · have hstays : (decide (b.started ≤ b.waits) && b.block.isNone) ≠ true := by simpa using hno
      rw [if_neg (mt b.passes_iff.1 hp), if_neg hstays]
      rfl
  · intro d hr
    refine ⟨fun hs => ?_, fun b hs => ?_⟩
    · have hs' : (s.due.hart h).stream q = none := hs
      rw [exec_sstat hc hr, hs']
      rfl
    · have hs' : (s.due.hart h).stream q = some b := hs
      rw [exec_sstat hc hr, hs', Option.elim_some, b.status_eq]

end Sys2Proof.Proofs
end

section
/-! PROOFS. Records that are read in parts (11 R257): the bytes that a word has read stand, and it goes on or waits with more of them. -/

namespace Sys2Proof.Machine

variable {s w : State} {h : HartKey}

/-! ## A load leaves what the word has read -/

theorem State.stewardWindow_cur {core : CoreId} {va : Dword} {n : Nat} (hw : s.stewardWindow core va n = some w) : w.cur = s.cur := by
  unfold State.stewardWindow at hw
  split at hw
  · exact (congrArg State.cur (State.windowsFor_same hw) :)
  · cases hw
    rfl

theorem State.stewardLoad_cur {core : CoreId} {va : Dword} {n : Nat} {bs : List Byte} (hl : s.stewardLoad core va n = .ok bs w) :
    w.cur = s.cur := by
  simp only [State.stewardLoad] at hl
  split at hl
  · cases hl
  split at hl
  · cases hl
  split at hl
  · cases hl
  split at hl
  · cases hl
  next t ht =>
    have hf := (t.fetchBytes_accesses (stewardReach core) false .load va n).cur
    split at hl
    · cases hl
    next g u hg =>
      rw [hg] at hf
      obtain ⟨g', hg'⟩ := Acc.clean_ok hl
      cases hg'
      exact hf.trans (State.stewardWindow_cur ht)

/-- A load leaves the bytes that its word has read of its record. -/
theorem State.load_recordGot {va : Dword} {n : Nat} {bs : List Byte} (hl : s.load .scalar va n = .ok bs w) : w.recordGot = s.recordGot := by
  unfold State.load at hl
  split at hl
  next k hk =>
    obtain ⟨g, hg⟩ := Acc.clean_ok hl
    obtain ⟨hacc, hharts⟩ := State.hartLoad_ok hg
    rw [State.recordGot, State.recordGot, State.myWait, State.myWait, hacc.cur, hk]
    simp only [State.hart_of_harts hharts]
  next c hk => simp only [State.recordGot, State.myWait, State.stewardLoad_cur hl, hk]

/-! ## The bytes that a word goes on with -/

/-- A byte that the word has read stands over the byte that it reads now. -/
def recordByte (got : List (Dword × Byte)) (va : Dword) (i : Nat) (b : Byte) : Byte :=
  ((got.find? fun e => e.1 == va + BitVec.ofNat 64 i).map Prod.snd).getD b

theorem mapIdx_recordByte_nil (va : Dword) (bs : List Byte) : bs.mapIdx (recordByte [] va) = bs :=
  List.ext_getElem List.length_mapIdx fun _ _ _ => List.getElem_mapIdx

theorem State.loadRecord_ok {va : Dword} {n : Nat} {bs : List Byte} (hl : s.load .scalar va n = .ok bs w) :
    s.loadRecord va n = .ok (bs.mapIdx (recordByte s.recordGot va)) w := by
  simp only [State.loadRecord, hl, State.load_recordGot hl]
  split
  next hnil => rw [List.isEmpty_iff.1 hnil, mapIdx_recordByte_nil]
  next => rfl

theorem recordByte_new {got : List (Dword × Byte)} {va : Dword} {i : Nat} (b : Byte) (h : ∀ e ∈ got, e.1 ≠ va + BitVec.ofNat 64 i) :
    recordByte got va i b = b := by
  rw [recordByte, List.find?_eq_none.2 fun e he => by simpa using h e he]
  rfl

theorem recordByte_old {got : List (Dword × Byte)} {va : Dword} {i : Nat} (b : Byte) {e : Dword × Byte} (he : e ∈ got)
    (ha : e.1 = va + BitVec.ofNat 64 i) (huniq : ∀ f ∈ got, f.1 = e.1 → f = e) : recordByte got va i b = e.2 := by
  have hsome : (got.find? fun f => f.1 == va + BitVec.ofNat 64 i).isSome := List.find?_isSome.2 ⟨e, he, beq_iff_eq.2 ha⟩
  obtain ⟨f, hf⟩ := Option.isSome_iff_exists.1 hsome
  have hfa : f.1 = va + BitVec.ofNat 64 i := by simpa using List.find?_some hf
  rw [recordByte, hf, ← huniq f (List.mem_of_find?_eq_some hf) (hfa.trans ha.symm)]
  rfl

/-! ## A word that reads some bytes and waits for the rest -/

theorem State.recordFlow_parts {u : State} {va x y : Dword} {n : Nat} {v : List Byte} (f : List Byte → State → Flow) (hc : s.cur = .hart h)
    (hw : s.readsWhole va = false)
    (hn : (s.modSelf fun t => { t with wait := .record (s.recordDue va) s.recordGot x y }).noteRecord va n = .ok v u)
    (hu : u.cur = s.cur) :
    ∃ w, s.recordFlow va x y (fun load s => load s va n) f = f v w ∨
      ∃ k, s.recordGot.length ≤ k ∧ k < u.recordGot.length ∧ w.myWait = .record (s.recordDue va) (u.recordGot.take k) x y ∧
        s.recordFlow va x y (fun load s => load s va n) f = .hold w := by
  let back := u.modSelf fun t => { t with wait := s.self.wait }
  let c := back.choose (u.recordGot.length - s.recordGot.length + 1)
  have hlt : c.1 < u.recordGot.length - s.recordGot.length + 1 := back.choose_lt (Nat.succ_pos _)
  have hcur : c.2.cur = .hart h := (congrArg State.cur (back.choose_same _) :).trans (hu.trans hc)
  have hflow : s.recordFlow va x y (fun load s => load s va n) f =
      if c.1 = 0 then f v c.2
      else c.2.await (.record (s.recordDue va) (u.recordGot.take (s.recordGot.length + c.1 - 1)) x y) := by
    rw [State.recordFlow, if_neg (ne_true_of_eq_false hw)]
    simp only [hn]
    rfl
  rw [hflow]
  by_cases hz : c.1 = 0
  · exact ⟨c.2, .inl (if_pos hz)⟩
  · refine ⟨_, .inr ⟨s.recordGot.length + c.1 - 1, by omega, by omega, ?_, if_neg hz⟩⟩
    rw [State.modSelf_hart hcur, State.myWait, State.modHart_cur, hcur]
    simp only [State.hart_modHart_same]

end Sys2Proof.Machine

namespace Sys2Proof.Proofs

open Sys2Proof.Machine

theorem recordsAreReadInParts : Parts.RecordsAreReadInParts := by
  refine ⟨fun s va n bs w hl => ⟨fun hgot => ?_, _, State.loadRecord_ok hl, ?_, fun i hi hd => ?_⟩, fun s h va x y n f hc => ?_⟩
  · rw [State.loadRecord_ok hl, hgot, mapIdx_recordByte_nil]
  · exact List.length_mapIdx
  · rw [List.getElem_mapIdx]
    exact ⟨fun e he ha huniq => recordByte_old _ he ha huniq, fun hnew => recordByte_new _ hnew⟩
  · exact ⟨fun hw => if_pos hw, fun v u hw hn hu => State.recordFlow_parts f hc hw hn hu⟩

end Sys2Proof.Proofs
end

section
/-! PROOFS. The block in flight of a stream (10 R237 to R239, 15 R346). -/

namespace Sys2Proof.Machine

variable {s w : State} {h : HartKey} {q : BitVec 3} {b : Binding} {x : Transfer}

/-! ## What the check of an access leaves (R232) -/

/-- The check of an access translates pages, and leaves the harts. -/
theorem State.checkAccess_frame (s : State) (r : Reach) (use : Access) (lax strip : Bool) (va : Dword) (n count : Nat) :
    s.Accesses (s.checkAccess r use lax strip va n count).2 ∧ (s.checkAccess r use lax strip va n count).2.harts = s.harts := by
  have hacc := s.translateParts_accesses r use lax (pagesOf va (n * count))
  have hharts := s.harts_translateParts r use lax (pagesOf va (n * count))
  simp only [State.checkAccess]
  split
  · exact ⟨.refl s, rfl⟩
  · split
    · split
      next ht =>
        rw [ht] at hacc hharts
        exact ⟨hacc, hharts⟩
      next ht =>
        rw [ht] at hacc hharts
        exact ⟨hacc, hharts⟩
    · exact ⟨.refl s, rfl⟩

theorem State.blockCheck_now (s : State) (h : HartKey) (x : Transfer) : (s.blockCheck h x).2.now = s.now := by
  simp only [State.blockCheck]
  split
  · rfl
  · split <;> exact (State.checkAccess_frame ..).1.now

/-! ## The phases of a block -/

theorem streamStep_unbound (hs : (s.hart h).stream q = none) : s.streamStep h q = none := by
  simp only [State.streamStep, hs]

theorem streamStep_still (hs : (s.hart h).stream q = some b) (hb : b.block = none ∨ b.fault ≠ none) : s.streamStep h q = none := by
  rcases hx : b.block with _ | x
  · simp only [State.streamStep, hs, hx]
  · have hfault : b.fault.isSome = true := Option.isSome_iff_ne_none.2 (hb.resolve_left (by simp [hx]))
    simp only [State.streamStep, hs, hx, hfault, Bool.true_or, if_true]

section
variable (hs : (s.hart h).stream q = some b) (hx : b.block = some x)
include hs hx

theorem streamStep_early (hr : s.now < x.ready) : s.streamStep h q = none := by
  simp only [State.streamStep, hs, hx, decide_eq_true hr, Bool.or_true, Bool.true_or, if_true]

theorem streamStep_kept (hk : (s.hart h).keptBack x.owner x.stream x.plainLoad = true) (hl : x.loads = true ∨ x.taken = true) :
    s.streamStep h q = none := by
  have hor : (x.loads || x.taken) = true := by rwa [Bool.or_eq_true]
  simp only [State.streamStep, hs, hx, hk, hor, Bool.and_true, Bool.or_true, if_true]

variable (hf : b.fault = none) (hr : x.ready ≤ s.now) (hk : (s.hart h).keptBack x.owner x.stream x.plainLoad = false)
include hf hr hk

/-! ### The check phase (R237, 15 R346) -/

section
variable (hl : x.last = 0)
include hl

theorem streamStep_window (hw : s.windowNext h q x = true) : s.streamStep h q = none := by
  have hready := Nat.not_lt.2 hr
  simp [State.streamStep, hs, hx, hf, hk, hready, hl, hw]

theorem streamStep_fails {m : Miss} (hw : s.windowNext h q x = false) (hc : s.blockCheck h (x.beginBlock b.edge) = (some m, w))
    (hm : m.cause ≠ causeWait) :
    s.streamStep h q = some (w.setStream h q (some { b with block := some (x.beginBlock b.edge), fault := some (m.cause, m.value) })) := by
  have hready := Nat.not_lt.2 hr
  simp [State.streamStep, hs, hx, hf, hk, hready, hl, hw, hc, hm]

theorem streamStep_opens (hw : s.windowNext h q x = false) (hc : s.blockCheck h (x.beginBlock b.edge) = (none, w)) :
    s.streamStep h q = some (w.setStream h q (some { b with block := some (w.openBlock h (x.beginBlock b.edge)) })) := by
  have hready := Nat.not_lt.2 hr
  simp [State.streamStep, hs, hx, hf, hk, hready, hl, hw, hc]

end

/-! ### Its rows (R238, R239) -/

section
variable (hl : x.last ≠ 0) (hd : x.done = false)
include hl hd

theorem streamStep_moves {y : Transfer} (hm : s.moveTransfer h x = .ok y w) (hlog : (w.hart h).sideLog.length ≤ 64) :
    s.streamStep h q =
      some (w.setStream h q (some (if y.done then { b with block := none, moved := b.moved + 1 } else { b with block := some y }))) := by
  have hready := Nat.not_lt.2 hr
  have hroom := Nat.not_lt.2 hlog
  cases hy : y.done <;> simp [State.streamStep, hs, hx, hf, hk, hready, hl, hd, hm, hroom, hy]

theorem streamStep_faults {m : Miss} (hm : s.moveTransfer h x = .miss m w) (hcause : m.cause ≠ causeWait) (ht : x.taken = false) :
    s.streamStep h q = some (w.setStream h q (some { b with fault := some (m.cause, m.value) })) := by
  have hready := Nat.not_lt.2 hr
  simp [State.streamStep, hs, hx, hf, hk, hready, hl, hd, hm, hcause, ht]

theorem streamStep_waits (hm : s.moveTransfer h x = .wait) : s.streamStep h q = none := by
  have hready := Nat.not_lt.2 hr
  simp [State.streamStep, hs, hx, hf, hk, hready, hl, hd, hm]

end

end

theorem Transfer.beginBlock_eq (x : Transfer) (edge : Nat) : x.beginBlock edge =
    { x with edge := if x.loads = true ∧ x.index0 = 0 ∧ x.edged = false then edge else x.edge, edged := true } := by
  simp only [Transfer.beginBlock, Bool.and_eq_true, beq_iff_eq, Bool.not_eq_true', and_assoc]

/-- A block whose check has passed moves its last unit after its first. -/
theorem State.openBlock_eq (s : State) (h : HartKey) (x : Transfer) :
    ∃ ready last, s.now ≤ ready ∧ ready < last ∧ s.openBlock h x = { x with ready := ready, last := last } := by
  refine ⟨_, _, Nat.le_add_right _ _, ?_, rfl⟩
  split <;> omega

end Sys2Proof.Machine

namespace Sys2Proof.Proofs

open Sys2Proof.Machine

theorem streamBlocksMove : Parts.StreamBlocksMove := by
  intro q s h t
  have hexec : exec (.streamBlock h q) s = .next ((s.streamStep h q).getD s) := rfl
  refine ⟨fun hs => ?_, fun b hs => ⟨fun hb => ?_, fun x hx hf => ⟨fun hstill => ?_, fun hr hk hl => ?_,
    fun hr hk hl hd => ⟨fun y w hm hlog => ?_, fun m w hm hcause ht => ?_, fun hm => ?_⟩⟩⟩⟩
  · rw [hexec, streamStep_unbound hs, Option.getD_none]
  · rw [hexec, streamStep_still hs hb, Option.getD_none]
  · obtain hlt | ⟨hk, hl⟩ := hstill
    · rw [hexec, streamStep_early hs hx hlt, Option.getD_none]
    · rw [hexec, streamStep_kept hs hx hk hl, Option.getD_none]
  · intro begun
    have hbegun : x.beginBlock b.edge = begun := x.beginBlock_eq b.edge
    refine ⟨fun hw => ?_, fun m w hw hc hm => ?_, fun w hw hc => ?_⟩
    · rw [hexec, streamStep_window hs hx hf hr hk hl hw, Option.getD_none]
    · rw [← hbegun] at hc
      rw [hexec, streamStep_fails hs hx hf hr hk hl hw hc hm, hbegun, Option.getD_some]
    · have hnow : w.now = s.now := by rw [← s.blockCheck_now h begun, hc]
      obtain ⟨ready, last, hready, hlast, hopen⟩ := w.openBlock_eq h begun
      rw [← hbegun] at hc
      refine ⟨ready, last, hnow ▸ hready, hlast, ?_⟩
      rw [hexec, streamStep_opens hs hx hf hr hk hl hw hc, hbegun, hopen, Option.getD_some]
  · rw [hexec, streamStep_moves hs hx hf hr hk hl hd hm hlog, Option.getD_some]
  · rw [hexec, streamStep_faults hs hx hf hr hk hl hd hm hcause ht, Option.getD_some]
  · rw [hexec, streamStep_waits hs hx hf hr hk hl hd hm, Option.getD_none]

/-- Settles O24: the fields of a record are the numbers in its bytes (`boundBy_broken`, `Binding.transfer_eq`), a load leaves what its word
has read before (`State.load_recordGot`), and a block moves by its phases (`streamStep_opens`, `streamStep_moves`). -/
theorem streamsBindMoveAndWait : Obligations.StreamsBindMoveAndWait :=
  ⟨streamWordsBindMoveAndWait, recordsAreReadInParts, streamBlocksMove⟩

end Sys2Proof.Proofs
end

section
/-! PROOFS. The VMEM words: their check phases, and their place in the queue (10 R228 to R233, R251, 09 R211). -/

namespace Sys2Proof.Machine

variable {s u : State} {h : HartKey} {x y : Transfer} {k : TransferKind} {v : VReg} {ix : Option VReg} {a n : Reg} {m : Bool}

/-! ## What the check phase of an indexed form leaves -/

theorem State.checkRows_now (s : State) (r : Reach) (x : Transfer) (use : Access) (lax strip : Bool) (es : List (Nat × Dword)) :
    (s.checkRows r x use lax strip es).2.now = s.now := by
  induction es generalizing s with
  | nil => rfl
  | cons e es ih =>
    have hfirst := (s.checkAccess_frame r use lax strip e.2 x.elementSize 1).1.now
    rcases hq : s.checkAccess r use lax strip e.2 x.elementSize 1 with ⟨o, t⟩
    rw [hq] at hfirst
    cases o with
    | some m =>
      simp only [State.checkRows, hq]
      exact hfirst
    | none =>
      simp only [State.checkRows, hq]
      split
      · exact hfirst
      · exact (ih t).trans hfirst

theorem State.window_now {k : ClusterKey} {user cycles : Nat} (hw : s.window k user cycles = some u) : u.now = s.now := by
  obtain ⟨-, _, -, rfl⟩ := State.window_some hw
  rfl

/-! ## Elements and their places (R229, R230) -/

theorem Transfer.indexed_iff (x : Transfer) : x.indexed = true ↔ x.kind = .loadX ∨ x.kind = .storeX ∨ x.kind = .addX := by
  rw [Transfer.indexed]
  cases x.kind <;> decide

theorem Transfer.elementSize_eq (x : Transfer) (hx : x.desc.type ≠ 7) : x.elementSize = Claims.elementBytes x.desc := by
  rw [Transfer.elementSize, FieldDesc.isF4b, if_neg (by simpa using hx)]
  rfl

/-- The alignment that the check phase asks for. -/
theorem Transfer.misaligned_eq (x : Transfer) : (!x.desc.isF4b && !x.bytewise && decide (x.addr.toNat % x.elementSize ≠ 0)) =
    !Claims.elementsAligned x := by
  by_cases hx : x.desc.type = 7
  · simp [Claims.elementsAligned, FieldDesc.isF4b, hx]
  · simp [Claims.elementsAligned, FieldDesc.isF4b, Transfer.bytewise, x.elementSize_eq hx, Bool.beq_eq_decide_eq, Bool.or_assoc, Bool.and_assoc]

theorem indexedAddress_eq (x : Transfer) (hx : x.indexed = true) (i : Nat) :
    s.elementAddr s.me x i = Claims.indexedAddress s x i := by
  have hint : ∀ v : Nat, x.index.int v =
      if x.index.type = 0 ∧ v.testBit (x.index.width.toNat - 1) then (v : Int) - 2 ^ x.index.width.toNat else v := by
    intro v
    simp [FieldDesc.int, FieldDesc.signed]
  unfold Transfer.indexed at hx
  unfold State.elementAddr
  split at hx
  case h_4 => cases hx
  all_goals
  next hk =>
    rw [hk]
    simp only [hint]
    rfl

/-- The rows that an indexed form reads, and their addresses. -/
theorem State.readIndex_eq (x : Transfer) (hx : x.indexed = true) (rows : List Nat) :
    s.readIndex s.me x rows = rows.map fun i => (i, Claims.indexedAddress s x i) :=
  List.map_congr_left fun i _ => by rw [indexedAddress_eq x hx]

/-! ## The check phase of a transfer (R232) -/

theorem State.startTransfer_misaligned (ha : Claims.elementsAligned x = false) : s.startTransfer x = .trap s causeAlign x.addr := by
  have hmis := x.misaligned_eq
  rw [ha, Bool.not_false] at hmis
  simp only [State.startTransfer, hmis, if_true]

/-- A transfer under no strip, or one that goes round it, joins the queue. -/
def State.Joins (s u : State) (x y : Transfer) : Prop := u.now = s.now ∧ ∃ cost, s.startTransfer x = u.enqueue y cost

/-- Whether an open strip takes the rows of a transfer (R249). -/
def State.stripTakes (s : State) (x : Transfer) : Bool := (s.self.strip.isSome && x.storesRows) && (x.indexed || inH x.addr)

/-- The elements of a form without an index, as the check phase counts them: their number and their bytes. -/
def Transfer.units (x : Transfer) : Nat × Nat :=
  if x.kind = .spill then (x.length, 1) else if x.kind = .scale then ((x.rows + 31) / 32, 2)
  else if x.desc.isF4b then (x.length, 1) else (x.rows, x.elementSize)

theorem Transfer.units_eq (hk : x.kind = .load ∨ x.kind = .scale ∨ x.kind = .store ∨ x.kind = .spill) :
    x.units = (Claims.elementRun x).swap := by
  by_cases hf : x.desc.type = 7#3 <;> rcases hk with hk | hk | hk | hk <;>
    simp [Transfer.units, Claims.elementRun, Transfer.length, Transfer.elementSize, FieldDesc.isF4b, FieldDesc.size, Claims.elementBytes, hk, hf]

theorem State.goes (hst : s.stripTakes x = false) : (s.self.strip.isSome && x.storesRows && (x.indexed || inH x.addr)) = false := hst

section
variable (ha : Claims.elementsAligned x = true) (hst : s.stripTakes x = false)
include ha

theorem Transfer.aligned_check : (!x.desc.isF4b && !x.bytewise && decide (x.addr.toNat % x.elementSize ≠ 0)) = false := by
  rw [x.misaligned_eq, ha, Bool.not_true]

include hst

theorem State.joins_load (hk : x.kind = .load ∨ x.kind = .scale)
    (hc : s.checkAccess (s.hartReach s.me .vector) .load false false x.addr (Claims.elementRun x).1 (Claims.elementRun x).2 = (none, u))
    (hp : u.poison = []) (hq : u.rowPoison = []) : s.Joins u x x := by
  have hnow := (s.checkAccess_frame (s.hartReach s.me .vector) .load false false x.addr (Claims.elementRun x).1 (Claims.elementRun x).2).1.now
  have hmis := Transfer.aligned_check ha
  have hunits := x.units_eq (hk.elim .inl fun hk => .inr (.inl hk))
  rw [hc] at hnow
  rw [← Prod.fst_swap, ← Prod.snd_swap, ← hunits] at hc
  refine ⟨hnow, s.checkTime (s.hartReach s.me .vector) (pagesOf x.addr x.length), ?_⟩
  rcases hk with hk | hk <;>
    simp only [Transfer.units, hk, reduceCtorEq, if_false, if_true] at hc <;>
    simp only [State.startTransfer, hmis, hk, reduceCtorEq, if_false, if_true, Bool.false_eq_true, hc, hp, hq, List.isEmpty_nil, Bool.and_self,
      State.goes hst]

theorem State.joins_store (hk : x.kind = .store ∨ x.kind = .spill)
    (hc : s.checkAccess (s.hartReach s.me .vector) .store true s.self.strip.isSome x.addr (Claims.elementRun x).1
      (Claims.elementRun x).2 = (none, u)) : s.Joins u x x := by
  have hnow := (s.checkAccess_frame (s.hartReach s.me .vector) .store true s.self.strip.isSome x.addr (Claims.elementRun x).1
    (Claims.elementRun x).2).1.now
  have hmis := Transfer.aligned_check ha
  have hunits := x.units_eq (hk.elim (.inr ∘ .inr ∘ .inl) (.inr ∘ .inr ∘ .inr))
  have hrows : x.storesRows = true := by
    rw [Transfer.storesRows]; rcases hk with hk | hk <;> rw [hk]
  have hgo := State.goes hst
  rw [hrows, Bool.and_true] at hgo
  rw [hc] at hnow
  rw [← Prod.fst_swap, ← Prod.snd_swap, ← hunits] at hc
  refine ⟨hnow, s.checkTime (s.hartReach s.me .vector) (pagesOf x.addr x.length), ?_⟩
  rcases hk with hk | hk <;>
    simp only [Transfer.units, hk, reduceCtorEq, if_false, if_true] at hc <;>
    simp only [State.startTransfer, hmis, hk, reduceCtorEq, if_false, if_true, Bool.false_eq_true, hrows, Bool.and_true, hc, hgo]

/-- What the check phase of an indexed form asks of its rows: its access, whether that may find no page, and the rows. -/
def State.RowChecks (s : State) (x : Transfer) (use : Access) (lax : Bool) (rows : List Nat) : Prop :=
  x.kind = .loadX ∧ use = .load ∧ lax = false ∧ rows = (List.range x.rows).filter (s.moves s.me x) ∨
  x.kind = .storeX ∧ use = .store ∧ lax = true ∧ rows = (List.range x.rows).filter (s.stores s.me x) ∨
  x.kind = .addX ∧ use = .update ∧ lax = true ∧ rows = (List.range x.rows).filter (s.stores s.me x)

theorem State.joins_indexed {use : Access} {lax : Bool} {rows : List Nat} {w : State} (hk : s.RowChecks x use lax rows)
    (hw : s.window (clusterOfHart s.me) (windowUser s.me) (min 32 (s.rowCycles s.me x.rows)) = some w)
    (hc : w.checkRows (s.hartReach s.me .vector) x use lax false (rows.map fun i => (i, Claims.indexedAddress s x i)) = (none, u)) :
    s.Joins u x { x with addrs := rows.map fun i => (i, Claims.indexedAddress s x i) } := by
  have hnow := (w.checkRows_now (s.hartReach s.me .vector) x use lax false (rows.map fun i => (i, Claims.indexedAddress s x i)))
  have hmis := Transfer.aligned_check ha
  have hindexed : x.indexed = true := x.indexed_iff.2 (hk.imp And.left (Or.imp And.left And.left))
  have hgo := State.goes hst
  rw [hindexed, Bool.true_or, Bool.and_true] at hgo
  rw [hc, State.window_now hw] at hnow
  refine ⟨hnow, ?_⟩
  rcases hk with ⟨hk, rfl, rfl, rfl⟩ | ⟨hk, rfl, rfl, rfl⟩ | ⟨hk, rfl, rfl, rfl⟩ <;>
    simp only [State.startTransfer, hmis, hk, Bool.false_eq_true, if_false, hw, hgo, s.readIndex_eq x hindexed, hc, Bool.false_and] <;>
    exact ⟨_, rfl⟩

omit hst in
theorem State.joins_fill {f : Byte} {w : State} (hk : x.kind = .fill) (hr : (s.hartReach s.me .vector).check .store x.addr 1 = none)
    (hq : s.self.vmem = []) (hkept : s.self.keptBack x.owner 8 true = false)
    (hl : (s.hartLoad s.me .vector x.addr 1 x.maker).clean x.addr = .ok [f] w) (hf : f.toNat ≤ 2)
    (hc : w.checkAccess (s.hartReach s.me .vector) .load false false x.addr 1 (1 + imageLength x.desc.width.toNat x.rows f.toNat) = (none, u))
    (hp : u.poison = []) (hpr : u.rowPoison = []) : s.Joins u x { x with format := f.toNat } := by
  have hmis := Transfer.aligned_check ha
  have hload : w.now = s.now := by
    obtain ⟨g, hg⟩ := Acc.clean_ok hl
    exact (State.hartLoad_ok hg).1.now
  have hnow := (w.checkAccess_frame (s.hartReach s.me .vector) .load false false x.addr 1
    (1 + imageLength x.desc.width.toNat x.rows f.toNat)).1.now
  have hrows : x.storesRows = false := by rw [Transfer.storesRows, hk]
  rw [hc, hload] at hnow
  refine ⟨hnow, ?_⟩
  simp only [State.startTransfer, hmis, hk, Bool.false_eq_true, if_false, hr, hq, List.isEmpty_nil, Bool.not_true, hkept, Bool.or_self, hl,
    Acc.flow, List.headD_cons, if_neg (Nat.not_lt.2 hf), hc, State.poisonMiss, hp, hpr, Bool.and_self, if_true, hrows, Bool.and_false,
    Bool.false_and]
  exact ⟨_, rfl⟩

omit hst in
/-- A VFILL waits for the older accesses of the queue. -/
theorem State.startTransfer_fill_holds (hk : x.kind = .fill) (hr : (s.hartReach s.me .vector).check .store x.addr 1 = none)
    (hwait : s.self.vmem ≠ [] ∨ s.self.keptBack x.owner 8 true = true) : s.startTransfer x = .hold s := by
  have hmis := Transfer.aligned_check ha
  have hor : (!s.self.vmem.isEmpty || s.self.keptBack x.owner 8 true) = true := by
    rw [Bool.or_eq_true, Bool.not_eq_true', List.isEmpty_eq_false_iff]
    exact hwait
  simp only [State.startTransfer, hmis, hk, Bool.false_eq_true, if_false, hr, hor, if_true]

omit hst in
/-- A format byte above 2 raises BOUNDS. -/
theorem State.startTransfer_fill_format {f : Byte} {w : State} (hk : x.kind = .fill)
    (hr : (s.hartReach s.me .vector).check .store x.addr 1 = none) (hq : s.self.vmem = []) (hkept : s.self.keptBack x.owner 8 true = false)
    (hl : (s.hartLoad s.me .vector x.addr 1 x.maker).clean x.addr = .ok [f] w) (hf : 2 < f.toNat) :
    s.startTransfer x = .trap w causeBounds x.addr := by
  have hmis := Transfer.aligned_check ha
  simp only [State.startTransfer, hmis, hk, Bool.false_eq_true, if_false, hr, hq, List.isEmpty_nil, Bool.not_true, hkept, Bool.or_self, hl,
    Acc.flow, List.headD_cons, if_pos hf]

/-- An indexed form that no strip takes checks its rows as under none. -/
theorem State.joins_rows {use : Access} {lax : Bool} {rows : List Nat} {w : State} (hk : s.RowChecks x use lax rows)
    (hw : s.window (clusterOfHart s.me) (windowUser s.me) (min 32 (s.rowCycles s.me x.rows)) = some w)
    (hc : w.checkRows (s.hartReach s.me .vector) x use lax (s.self.strip.isSome && !Claims.readsMemory x)
      (rows.map fun i => (i, Claims.indexedAddress s x i)) = (none, u)) :
    s.Joins u x { x with addrs := rows.map fun i => (i, Claims.indexedAddress s x i) } := by
  have hgo := State.goes hst
  have hkind : (!Claims.readsMemory x) = x.storesRows ∧ x.indexed = true := by
    rw [Claims.readsMemory, Transfer.storesRows, Transfer.indexed]
    rcases hk with ⟨hk, -⟩ | ⟨hk, -⟩ | ⟨hk, -⟩ <;> rw [hk] <;> exact ⟨rfl, rfl⟩
  rw [hkind.2, Bool.true_or, Bool.and_true, ← hkind.1] at hgo
  rw [hgo] at hc
  exact State.joins_indexed ha hst hk hw hc

/-- A transfer whose check phase finds nothing joins the queue. -/
theorem State.joins (hpass : Claims.checksPass s u x y) : s.Joins u x y := by
  obtain ⟨⟨-, -, hp, hq⟩, hkind⟩ := hpass
  split at hkind
  next hk =>
    obtain ⟨rfl, hc⟩ := hkind
    exact State.joins_load ha hst (.inl hk) hc hp hq
  next hk =>
    obtain ⟨rfl, hc⟩ := hkind
    exact State.joins_load ha hst (.inr hk) hc hp hq
  next hk =>
    obtain ⟨rfl, hc⟩ := hkind
    exact State.joins_store ha hst (.inl hk) hc
  next hk =>
    obtain ⟨rfl, hc⟩ := hkind
    exact State.joins_store ha hst (.inr hk) hc
  next hk =>
    obtain ⟨rfl, w, hw, -, -, hc⟩ := hkind
    exact State.joins_rows ha hst (.inl ⟨hk, rfl, rfl, rfl⟩) hw hc
  next hk =>
    obtain ⟨rfl, w, hw, -, -, hc⟩ := hkind
    exact State.joins_rows ha hst (.inr (.inl ⟨hk, rfl, rfl, rfl⟩)) hw hc
  next hk =>
    obtain ⟨rfl, w, hw, -, -, hc⟩ := hkind
    exact State.joins_rows ha hst (.inr (.inr ⟨hk, rfl, rfl, rfl⟩)) hw hc
  next hk =>
    obtain ⟨hr, hv, hkept, f, w, hl, hf, hc, rfl⟩ := hkind
    exact State.joins_fill ha hk hr hv hkept hl hf hc hp hq
  next => exact hkind.elim

end

/-! ## The frame of a VMEM word (R228, R251) -/

/-- The class of the field that a transfer of a kind moves (R228, R230). -/
def rowClass : TransferKind → FieldDesc → Bool
  | .scale => scalePairs
  | .loadX => notF4b
  | .storeX => notF4b
  | .addX => addable
  | _ => anyField

/-- The operands of a VMEM word with their classes. -/
def transferOperands (k : TransferKind) (v : VReg) (ix : Option VReg) : List (VReg × (FieldDesc → Bool)) :=
  (v, rowClass k) :: ix.toList.map fun j => (j, FieldDesc.isInt)

/-- The words of the table of claims. -/
theorem exec_transfer {i : Instr} (hop : Claims.transferOp i = some (k, v, ix, a, n, m)) :
    (∃ tagged : BitVec 1, (∀ t, exec i t = .next (runWord i (vmemFlow k v (transferOperands k v ix) ix a n tagged) t)) ∧
      (tagged == 1) = m) ∧ (k = .loadX ∨ k = .storeX ∨ k = .addX ↔ ix ≠ none) := by
  unfold Claims.transferOp at hop
  split at hop <;> cases hop <;> exact ⟨⟨_, fun _ => rfl, rfl⟩, by simp⟩

theorem addable_of_claims {d : FieldDesc} (h : (decide (d.type.toNat ≤ 1) && [8, 16, 32, 64].contains d.width.toNat ||
    [2, 3, 4].contains d.type.toNat) = true) : addable d = true := by
  have hw : ∀ c : BitVec 7, (d.width == c) = decide (d.width.toNat = c.toNat) := fun c => by
    rw [Bool.beq_eq_decide_eq]; exact decide_eq_decide.2 BitVec.toNat_inj.symm
  have ht : ∀ c : BitVec 3, (d.type == c) = decide (d.type.toNat = c.toNat) := fun c => by
    rw [Bool.beq_eq_decide_eq]; exact decide_eq_decide.2 BitVec.toNat_inj.symm
  simp only [addable, FieldDesc.isInt, hw, ht]
  simpa [or_assoc] using h

theorem rowClass_of_admits (t : State) (hadm : Claims.transferAdmits t k v ix = true) :
    ∀ p ∈ transferOperands k v ix, p.2 (t.fieldOf p.1) = true := by
  unfold Claims.transferAdmits at hadm
  rw [Bool.and_eq_true, Option.all_eq_true] at hadm
  obtain ⟨hclass, hindex⟩ := hadm
  have hplain : Claims.typ t v ≠ 7 → notF4b (t.fieldOf v) = true := fun hne => by
    rw [notF4b, isF4b_eq, decide_eq_false hne, Bool.not_false]
  intro p hp
  rcases List.mem_cons.1 hp with rfl | hp
  · cases k with
    | scale => exact (scalePairs_iff _).2 (of_decide_eq_true hclass)
    | loadX => exact hplain (of_decide_eq_true hclass)
    | storeX => exact hplain (of_decide_eq_true hclass)
    | addX => exact addable_of_claims hclass
    | _ => rfl
  · obtain ⟨j, hj, rfl⟩ := List.mem_map.1 hp
    exact (isInt_eq t j).trans (hindex j (Option.mem_toList.1 hj))

section
variable {ops : List (VReg × (FieldDesc → Bool))} {tagged : BitVec 1}

theorem vmemFlow_empty (hn : (s.rx n).toNat = 0) : vmemFlow k v ops ix a n tagged s = .retire s := by
  have hz : s.rx n = 0 := BitVec.eq_of_toNat_eq hn
  simp only [vmemFlow, hz, if_true]

variable (hn : 0 < (s.rx n).toNat) (hops : s.self.checkFields [] ops = none)
include hn hops

theorem vmemFlow_eq : vmemFlow k v ops ix a n tagged s =
    if 16384 < s.rowbase + (s.rx n).toNat then .trap s causeBounds (s.rx n)
    else if k = .addX ∧ s.self.strip.isSome then .trap s causeStripf 4
    else s.startTransfer (Claims.queuedAs s k v ix a n (tagged == 1)) := by
  have hz : s.rx n ≠ 0 := fun h => by rw [h] at hn; exact absurd hn (by decide)
  simp only [vmemFlow, if_neg hz, hops]
  rfl

end

/-! ## The queue (R233) -/

/-- A transfer that joins the queue has its check phase before it. -/
theorem State.enqueue_eq (u : State) (y : Transfer) (cost : Nat) : ∃ ready last, u.now < ready ∧ ready ≤ last ∧
    u.enqueue y cost =
      .retire ((u.modSelf fun t => { t with vmem := t.vmem ++ [{ y with ready := ready, last := last }] }).delay ready) :=
  ⟨u.now + max 1 cost, _, by omega, Nat.le_trans (Nat.le_add_right _ _) (Nat.le_add_right _ _), rfl⟩

/-- Whether a strip takes a transfer, from its kind and its place. -/
theorem State.stripTakes_eq_false (hkind : x.indexed = true → ix ≠ none)
    (h : s.self.strip = none ∨ Claims.readsMemory x = true ∨ ix = none ∧ 2 ^ 60 ≤ x.addr.toNat) : s.stripTakes x = false := by
  rw [State.stripTakes]
  rcases h with hnone | hreads | ⟨hix, haddr⟩
  · rw [hnone]
    rfl
  · have hrows : x.storesRows = false := by
      revert hreads
      rw [Claims.readsMemory, Transfer.storesRows]
      cases x.kind <;> decide
    rw [hrows, Bool.and_false, Bool.false_and]
  · have hplain : x.indexed = false := Bool.eq_false_iff.2 fun hi => hkind hi hix
    have hfar : inH x.addr = false := by
      have : selector x.addr ≠ 0 := by
        rw [selector]
        omega
      simpa [inH] using this
    rw [hplain, hfar, Bool.or_self, Bool.and_false]

end Sys2Proof.Machine

namespace Sys2Proof.Proofs

open Sys2Proof.Machine

theorem transferWordsJoinTheVmemQueue : Parts.TransferWordsJoinTheVmemQueue := by
  intro i s h k v ix a n' m hop hr hc n x rb ok right
  obtain ⟨⟨tagged, hexec, rfl⟩, hindexed⟩ := exec_transfer hop
  have hcur := s.due_cur.trans hc
  have hme := State.me_hart hcur
  have hself := State.due_self hc
  have hrun := exec_ready hexec hr
  have hflow : ok → vmemFlow k v (transferOperands k v ix) ix a n' tagged s.due =
      if 16384 < rb + n then .trap s.due causeBounds (s.due.rx n')
      else if k = .addX ∧ (s.hart h).strip.isSome then .trap s.due causeStripf 4
      else s.due.startTransfer x := by
    rintro ⟨hn, hfit, hadm⟩
    have hops : s.due.self.checkFields [] (transferOperands k v ix) = none :=
      State.checkFields_sources (vs := v :: ix.toList) (by simp [transferOperands, Function.comp_def]) ((fieldsFit_due hc _).2 hfit)
        (rowClass_of_admits s.due hadm)
    rw [vmemFlow_eq hn hops, due_rowbase hc, hself]
  have hstart : ok → right → exec i s = .next (State.finish (s.due.startTransfer x)) := by
    rintro hok ⟨hb, hstrip⟩
    have hfree : ¬ (k = .addX ∧ (s.hart h).strip.isSome = true) := fun ⟨hk, hs⟩ => by simp [hstrip hk] at hs
    rw [hrun, hflow hok, if_neg (Nat.not_lt.2 hb), if_neg hfree]
  refine ⟨fun hn => ?_, fun hok hb => ?_, fun hok hb hk hs => ?_, fun hok hright ha => ?_, fun u y hok hright ha hpass hstrip => ?_,
    fun hk hok hright ha hcheck => ⟨fun hwait => ?_, fun f w hq hkept hl hf => ?_⟩⟩
  · rw [hrun, vmemFlow_empty hn]
    rfl
  · have hcount : BitVec.ofNat 64 n = s.due.rx n' := by rw [BitVec.ofNat_toNat, BitVec.setWidth_eq]
    rw [hrun, hflow hok, if_pos hb, hcount]
    rfl
  · rw [hrun, hflow hok, if_neg (Nat.not_lt.2 hb), if_pos ⟨hk, Option.isSome_iff_ne_none.2 hs⟩]
    rfl
  · rw [hstart hok hright, State.startTransfer_misaligned ha]
    rfl
  · have hst : s.due.stripTakes x = false :=
      State.stripTakes_eq_false (fun hi => hindexed.1 (x.indexed_iff.1 hi)) (by rw [hself]; exact hstrip)
    obtain ⟨hnow, cost, hjoin⟩ := State.joins ha hst hpass
    obtain ⟨ready, last, hready, hlast, henq⟩ := u.enqueue_eq y cost
    refine ⟨ready, last, ?_, hlast, ?_⟩
    · rwa [hnow, State.due_now] at hready
    · rw [hstart hok hright, hjoin, henq]
      rfl
  · rw [hstart hok hright, State.startTransfer_fill_holds ha hk (by rwa [hme]) (by rw [hself]; exact hwait)]
    rfl
  · rw [hstart hok hright, State.startTransfer_fill_format (w := w) ha hk (by rwa [hme]) (by rw [hself]; exact hq) (by rw [hself]; exact hkept)
      (by rwa [hme]) hf]
    rfl

end Sys2Proof.Proofs
end

section
/-! PROOFS. The head of the VMEM queue (06 R156, R160, 10 R233, R245). -/

namespace Sys2Proof.Machine

variable {s u : State} {h : HartKey} {x y : Transfer} {rest : List Transfer} {i : Instr}

/-! ## TLOAD (06 R156) -/

section
variable {l : BitVec 2} {a : Reg} (hc : s.cur = .hart h) (hr : s.Ready (.tload l a))
include hr

theorem exec_tload_misaligned (ha : (s.due.rx a).toNat % 64 ≠ 0) :
    exec (.tload l a) s = .next (s.due.trapped causeAlign (s.due.rx a)) := by
  rw [exec_ready (fun _ => rfl) hr]
  simp only [if_pos ha]
  rfl

include hc

theorem exec_tload_joins (ha : (s.due.rx a).toNat % 64 = 0)
    (hcheck : s.due.checkAccess (s.due.hartReach h .vector) .load false false (s.due.rx a) 1 512 = (none, u)) (hp : u.poison = [])
    (hq : u.rowPoison = []) : ∃ cost, exec (.tload l a) s = .next (State.finish
      (u.enqueue (Claims.tableLoad l (s.due.rx a) s.due.self.serial) cost)) := by
  rw [exec_ready (fun _ => rfl) hr]
  simp only [State.me_hart (s.due_cur.trans hc), if_neg (not_not_intro ha), hcheck, State.poisonMiss, hp, hq, List.isEmpty_nil, Bool.and_self,
    if_true]
  exact ⟨_, rfl⟩

end

/-! ## The head of the queue (R233, R245) -/

/-- A late fault of an access, one at a time. -/
theorem State.lateMiss_getD (m : Miss) (s u : State) : (u.lateMiss h m).getD s =
    if (u.hart h).overdue = none ∧ m.cause ≠ causeWait then u.modHart h fun t => { t with overdue := some (m.cause, m.value) } else s := by
  rw [State.lateMiss]
  by_cases hw : m.cause = causeWait <;> cases (u.hart h).overdue <;> simp [hw]

theorem vmemStep_empty (hq : (s.hart h).vmem = []) : s.vmemStep h = none := by
  simp only [State.vmemStep, hq]

section
variable (hq : (s.hart h).vmem = x :: rest)
include hq

theorem vmemStep_stays (hwait : s.now < x.ready ∨ (s.hart h).keptBack x.owner 8 x.plainLoad = true) : s.vmemStep h = none := by
  have hor : (decide (s.now < x.ready) || (s.hart h).keptBack x.owner 8 x.plainLoad) = true := by
    rwa [Bool.or_eq_true, decide_eq_true_eq]
  simp only [State.vmemStep, hq, hor, if_true]

variable (hr : x.ready ≤ s.now) (hk : (s.hart h).keptBack x.owner 8 x.plainLoad = false)
include hr hk

/-! ### Transfers -/

section
variable (hword : x.word = none) (hd : x.done = false)
include hword hd

theorem vmemStep_moves (hm : s.moveTransfer h x = .ok y u) (hlog : (u.hart h).sideLog.length ≤ 64) :
    s.vmemStep h = some (u.modHart h fun t => { t with vmem := if y.done then rest else y :: rest }) := by
  simp [State.vmemStep, hq, Nat.not_lt.2 hr, hk, hword, hd, hm, Nat.not_lt.2 hlog]

theorem vmemStep_misses {m : Miss} (hm : s.moveTransfer h x = .miss m u) : s.vmemStep h = u.lateMiss h m := by
  simp [State.vmemStep, hq, Nat.not_lt.2 hr, hk, hword, hd, hm]

theorem vmemStep_waits (hm : s.moveTransfer h x = .wait) : s.vmemStep h = none := by
  simp [State.vmemStep, hq, Nat.not_lt.2 hr, hk, hword, hd, hm]

end

/-! ### Scalar accesses -/

section
variable (hword : x.word = some i)
include hword

theorem vmemStep_performs (hm : s.directStep h i x = .ok () u) (hlog : (u.hart h).sideLog.length ≤ 64) :
    s.vmemStep h = some (u.modHart h fun t => { t with vmem := rest }) := by
  simp [State.vmemStep, hq, Nat.not_lt.2 hr, hk, hword, hm, Nat.not_lt.2 hlog]

theorem vmemStep_direct_misses {m : Miss} (hm : s.directStep h i x = .miss m u) : s.vmemStep h = u.lateMiss h m := by
  simp [State.vmemStep, hq, Nat.not_lt.2 hr, hk, hword, hm]

theorem vmemStep_direct_waits (hm : s.directStep h i x = .wait) : s.vmemStep h = none := by
  simp [State.vmemStep, hq, Nat.not_lt.2 hr, hk, hword, hm]

end

end

/-! ### Table loads (R160) -/

/-- A table load that has read its bytes writes its slot next. -/
theorem moveTransfer_table (hkind : x.kind = .table) (hgot : x.got.length = 512) : s.moveTransfer h x = s.tableWrite h x := by
  have hrows : x.storesRows = false := by rw [Transfer.storesRows, hkind]
  have hall : x.allRead = true := by
    rw [Transfer.allRead, hkind]
    exact decide_eq_true hgot.ge
  rw [State.moveTransfer, hrows, State.loadStep, if_pos hkind, hall]
  rfl

/-- The state after a table load has written its slot. -/
def State.tableWritten (s : State) (h : HartKey) (x : Transfer) : State :=
  s.modCluster (clusterOfHart h) fun c => { c with tables := c.tables.setIfInBounds x.slot (some { ctx := (s.hart h).ctx, data := x.got }) }

theorem tableWrite_waits (hused : s.now < (s.cluster (clusterOfHart h)).arraysFree ∧ (s.cluster (clusterOfHart h)).reading = some x.slot) :
    s.tableWrite h x = .wait := if_pos hused

theorem tableWrite_writes
    (hfree : ¬ (s.now < (s.cluster (clusterOfHart h)).arraysFree ∧ (s.cluster (clusterOfHart h)).reading = some x.slot)) :
    s.tableWrite h x = .ok { x with pos := x.rows } (s.tableWritten h x) := if_neg hfree

theorem table_done (hkind : x.kind = .table) : x.done = decide (x.rows ≤ x.pos) := by
  rw [Transfer.done, Transfer.storesRows, hkind]
  rfl

theorem tableWritten_slot (hslot : x.slot < (s.cluster (clusterOfHart h)).tables.size) :
    ((s.tableWritten h x).cluster (clusterOfHart h)).tables.getD x.slot none = some { ctx := (s.hart h).ctx, data := x.got } := by
  rw [State.tableWritten, State.cluster_modCluster_same]
  exact getD_setIfInBounds_same _ hslot _ _

end Sys2Proof.Machine

namespace Sys2Proof.Proofs

open Sys2Proof.Machine

theorem transfersMoveFromTheHeadOfTheQueue : Parts.TransfersMoveFromTheHeadOfTheQueue := by
  refine ⟨fun l a s u h hc hr => ⟨fun ha => exec_tload_misaligned hr ha, fun ha hcheck hp hq => ?_⟩, fun h s => ?_⟩
  · have hnow := (s.due.checkAccess_frame (s.due.hartReach h .vector) .load false false (s.due.rx a) 1 512).1.now
    obtain ⟨cost, hjoin⟩ := exec_tload_joins hc hr ha hcheck hp hq
    obtain ⟨ready, last, hready, hlast, henq⟩ := u.enqueue_eq (Claims.tableLoad l (s.due.rx a) s.due.self.serial) cost
    rw [hcheck, State.due_now] at hnow
    refine ⟨ready, last, hnow ▸ hready, hlast, ?_⟩
    rw [hjoin, henq]
    rfl
  · intro late
    have hexec : exec (.vmemTransfer h) s = .next ((s.vmemStep h).getD s) := rfl
    have htable : exec (.tableSlotWrite h) s = .next ((s.vmemStep h).getD s) := rfl
    refine ⟨fun hq => ?_, fun x rest hq hwait => ?_, fun x rest hq hr hk => ⟨fun hword hd => ⟨fun y u hm hlog => ?_, fun m u hm => ?_,
      fun hm => ?_⟩, fun i hword => ⟨fun u hm hlog => ?_, fun m u hm => ?_, fun hm => ?_⟩, fun hword hkind hrows hpos hgot hlog => ?_⟩⟩
    · rw [hexec, vmemStep_empty hq, Option.getD_none]
    · rw [hexec, vmemStep_stays hq hwait, Option.getD_none]
    · rw [hexec, vmemStep_moves hq hr hk hword hd hm hlog, Option.getD_some]
    · rw [hexec, vmemStep_misses hq hr hk hword hd hm, State.lateMiss_getD]
    · rw [hexec, vmemStep_waits hq hr hk hword hd hm, Option.getD_none]
    · rw [hexec, vmemStep_performs hq hr hk hword hm hlog, Option.getD_some]
    · rw [hexec, vmemStep_direct_misses hq hr hk hword hm, State.lateMiss_getD]
    · rw [hexec, vmemStep_direct_waits hq hr hk hword hm, Option.getD_none]
    · have hd : x.done = false := by
        rw [table_done hkind, hrows, hpos]
        rfl
      refine ⟨fun hused => ?_, fun hfree => ?_⟩
      · rw [htable, vmemStep_waits hq hr hk hword hd ((moveTransfer_table hkind hgot).trans (tableWrite_waits hused)), Option.getD_none]
      · have hm := (moveTransfer_table hkind hgot).trans (tableWrite_writes hfree)
        have hdone : ({ x with pos := x.rows } : Transfer).done = true :=
          (table_done (x := { x with pos := x.rows }) hkind).trans (decide_eq_true (Nat.le_refl _))
        refine ⟨(s.tableWritten h x).modHart h fun t => { t with vmem := rest }, ?_, ?_, fun hslot => tableWritten_slot hslot⟩
        · rw [htable, vmemStep_moves hq hr hk hword hd hm hlog, hdone, Option.getD_some]
          rfl
        · rw [State.hart_modHart_same]

/-- Settles O22: a transfer whose check phase finds nothing joins the queue (`State.joins`), and the head of the queue moves by its step
(`vmemStep_moves`, `vmemStep_performs`), a table load at last to its slot (`tableWrite_writes`). -/
theorem transfersJoinAndMoveTheirRows : Obligations.TransfersJoinAndMoveTheirRows :=
  ⟨transferWordsJoinTheVmemQueue, transfersMoveFromTheHeadOfTheQueue⟩

end Sys2Proof.Proofs
end

section
/-! PROOFS. Elements of rows in memory (10 R229, R230, 11 R257). -/

namespace Sys2Proof.Machine

variable {s u : State} {h : HartKey} {x : Transfer} {i n : Nat} {va : Dword} {g : Got} {bs : List Byte}

/-! ## Bytes of bit vectors of any width -/

theorem littleEndian_bytesOf {w : Nat} (v : BitVec w) (n : Nat) : Claims.littleEndian (bytesOfBits v n) = v.toNat % 2 ^ (8 * n) := by
  induction n with
  | zero => rw [Nat.mul_zero, Nat.pow_zero, Nat.mod_one]; rfl
  | succ n ih =>
    have hsnoc : bytesOfBits v (n + 1) = bytesOfBits v n ++ [v.extractLsb' (8 * n) 8] := by simp [bytesOfBits, List.range_succ]
    rw [hsnoc, littleEndian_append, ih, length_bytesOfBits, Nat.mul_succ, Nat.pow_add, Nat.mod_mul, Nat.pow_mul, Claims.littleEndian,
      Claims.littleEndian, BitVec.extractLsb'_toNat, Nat.shiftRight_eq_div_pow, Nat.mul_zero, Nat.add_zero, Nat.pow_mul]

/-! ## Reading (R229, R230) -/

/-- The elements that move as a whole. -/
theorem Transfer.bytewise_eq_false_iff (x : Transfer) : x.bytewise = false ↔
    x.elementSize = 1 ∨ x.elementSize = 2 ∨ x.elementSize = 4 ∨ x.elementSize = 8 := by
  rw [Transfer.bytewise, Bool.not_eq_false']
  simp [or_assoc]

/-- A row that is not selected is passed over. -/
theorem readUnit_skips (hk : x.kind = .load ∨ x.kind = .scale) (hi : x.pos < x.rows) (hgot : x.got = []) (hsel : s.moves h x x.pos = false) :
    s.readUnit h x = .ok { x with pos := x.pos + 1, got := [] } s := by
  rcases hk with hk | hk <;> simp [State.readUnit, State.nextGet, Transfer.nextRow, hk, hi, hgot, hsel]

/-- What a load reads next of an element: all of it, or a byte. -/
def Transfer.unitSize (x : Transfer) : Nat := if x.bytewise then 1 else x.elementSize

/-- A load of elements reads a unit of one that it moves. -/
theorem readUnit_reads (hk : x.kind = .load ∨ x.kind = .scale ∨ x.kind = .loadX) (hnext : s.nextGet h x = some (i, va))
    (hsel : x.kind = .loadX ∨ x.got ≠ [] ∨ s.moves h x i = true)
    (hl : s.hartLoad h .vector (va + BitVec.ofNat 64 x.got.length) x.unitSize x.maker = .ok g u) (hp : g.poisoned = none) :
    s.readUnit h x = .ok (x.gotBytes i va g.bytes false) u := by
  have hskip : ((x.kind == .load || x.kind == .scale) && x.got.isEmpty && !s.moves h x i) = false := by
    rcases hsel with hsel | hsel | hsel <;> simp [hsel]
  have hsingle : (x.bytewise || !(x.kind == .load || x.kind == .scale || x.kind == .loadX)) = x.bytewise := by
    rcases hk with hk | hk | hk <;> simp [hk]
  simp only [Transfer.unitSize] at hl
  simp only [State.readUnit, hnext, hskip, Bool.false_eq_true, if_false, hsingle, hl, hp, Bool.and_false]

theorem gotBytes_part (hk : x.kind = .load ∨ x.kind = .scale ∨ x.kind = .loadX) (hlen : (x.got ++ bs).length < x.elementSize) :
    x.gotBytes i va bs false = { x with got := x.got ++ bs } := by
  rcases hk with hk | hk | hk <;> simp only [Transfer.gotBytes, hk, Bool.false_eq_true, if_false, if_pos hlen]

theorem gotBytes_whole (hk : x.kind = .load ∨ x.kind = .scale ∨ x.kind = .loadX) (hlen : x.elementSize ≤ (x.got ++ bs).length) :
    x.gotBytes i va bs false = { x.nextRow with values := (i, va, x.valueOf i (x.got ++ bs)) :: x.values } := by
  rcases hk with hk | hk | hk <;> simp only [Transfer.gotBytes, hk, Bool.false_eq_true, if_false, if_neg (Nat.not_lt.2 hlen)]

/-- A load of elements reads the last unit of one. -/
theorem readUnit_element (hk : x.kind = .load ∨ x.kind = .scale ∨ x.kind = .loadX) (hnext : s.nextGet h x = some (i, va))
    (hsel : x.kind = .loadX ∨ x.got ≠ [] ∨ s.moves h x i = true)
    (hl : s.hartLoad h .vector (va + BitVec.ofNat 64 x.got.length) x.unitSize x.maker = .ok g u) (hp : g.poisoned = none)
    (hlen : x.elementSize ≤ x.got.length + g.bytes.length) :
    s.readUnit h x = .ok { x.nextRow with values := (i, va, x.valueOf i (x.got ++ g.bytes)) :: x.values } u := by
  rw [readUnit_reads hk hnext hsel hl hp, gotBytes_whole hk (by rwa [List.length_append])]

/-! ### The forms without an index -/

theorem nextGet_dense (hk : x.kind = .load ∨ x.kind = .scale) (hi : x.pos < x.rows) :
    s.nextGet h x = some (x.pos, s.elementAddr h x x.pos) := by
  rcases hk with hk | hk <;> simp only [State.nextGet, hk, if_pos hi]

theorem nextRow_dense (hk : x.kind = .load ∨ x.kind = .scale) : x.nextRow = { x with pos := x.pos + 1, got := [] } := by
  rcases hk with hk | hk <;> simp only [Transfer.nextRow, hk]

theorem elementAddr_load (hk : x.kind = .load ∨ x.kind = .store) (i : Nat) : s.elementAddr h x i =
    x.addr + BitVec.ofNat 64 (if x.desc.type = 7 then i / 2 else i * Claims.elementBytes x.desc) := by
  by_cases hf : x.desc.type = 7#3 <;> rcases hk with hk | hk <;>
    simp [State.elementAddr, FieldDesc.isF4b, FieldDesc.size, Claims.elementBytes, hk, hf]

theorem elementAddr_scale (hk : x.kind = .scale) (i : Nat) : s.elementAddr h x i = x.addr + BitVec.ofNat 64 (2 * (i / 32)) := by
  rw [State.elementAddr, hk]

theorem unitSize_of_whole (hw : x.elementSize = 1 ∨ x.elementSize = 2 ∨ x.elementSize = 4 ∨ x.elementSize = 8) :
    x.unitSize = x.elementSize := by
  rw [Transfer.unitSize, x.bytewise_eq_false_iff.2 hw]
  rfl

theorem unitSize_of_bytewise (hw : ¬ (x.elementSize = 1 ∨ x.elementSize = 2 ∨ x.elementSize = 4 ∨ x.elementSize = 8)) : x.unitSize = 1 := by
  rw [Transfer.unitSize, if_pos (by rwa [← Bool.not_eq_false, x.bytewise_eq_false_iff])]

/-- A whole element of a form without an index. -/
theorem readUnit_dense (hk : x.kind = .load ∨ x.kind = .scale) (hi : x.pos < x.rows) (hgot : x.got = [])
    (hsel : s.moves h x x.pos = true) (hva : s.elementAddr h x x.pos = va)
    (hw : x.elementSize = 1 ∨ x.elementSize = 2 ∨ x.elementSize = 4 ∨ x.elementSize = 8)
    (hl : s.hartLoad h .vector va x.elementSize x.maker = .ok g u) (hp : g.poisoned = none) (hlen : g.bytes.length = x.elementSize) :
    s.readUnit h x =
      .ok { x with pos := x.pos + 1, got := [], values := (x.pos, va, x.valueOf x.pos g.bytes) :: x.values } u := by
  have hat : va + BitVec.ofNat 64 x.got.length = va := by rw [hgot]; exact BitVec.add_zero va
  rw [readUnit_element (hk.imp_right .inl) (hva ▸ nextGet_dense hk hi) (.inr (.inr hsel)) (by rwa [hat, unitSize_of_whole hw]) hp
    (by omega), nextRow_dense hk, hgot, List.nil_append]

/-- The value of an element is the low bits of its bytes. -/
theorem valueOf_eq (hx : x.desc.type ≠ 7) (i : Nat) (bs : List Byte) :
    x.valueOf i bs = Claims.littleEndian bs % 2 ^ x.desc.width.toNat := by
  rw [Transfer.valueOf, toNat_bitsOfBytes_of_length rfl, FieldDesc.isF4b, if_neg (by simpa using hx)]

/-- The value of an f4b element is the nibble of its row. -/
theorem valueOf_f4b (hx : x.desc.type = 7) (i : Nat) (c : Byte) : x.valueOf i [c] = c.toNat / 2 ^ (4 * (i % 2)) % 16 := by
  have hbits : (bitsOfBytes (8 * [c].length) [c]).toNat = c.toNat := by
    rw [toNat_bitsOfBytes_of_length rfl]
    simp [Claims.littleEndian]
  rw [Transfer.valueOf, hbits, FieldDesc.isF4b, hx]
  rfl

/-! ## Storing (R229, R230) -/

theorem length_storeBytes (d : FieldDesc) (v : Nat) : (d.storeBytes v).length = Claims.elementBytes d := length_bytesOfBits _ _

/-- The bytes of an element, extended by its type. -/
theorem littleEndian_storeBytes (d : FieldDesc) (v : Nat) : (Claims.littleEndian (d.storeBytes v) : Int) =
    (if d.type = 0 ∧ v.testBit (d.width.toNat - 1) then (v : Int) - 2 ^ d.width.toNat else v) % 2 ^ (8 * Claims.elementBytes d) := by
  have hval : (if d.signed then d.int v else (v : Int)) =
      if d.type = 0 ∧ v.testBit (d.width.toNat - 1) then (v : Int) - 2 ^ d.width.toNat else v := by
    rw [FieldDesc.int]
    by_cases ht : d.type = 0#3 <;> simp [FieldDesc.signed, ht]
  have hsize : d.size = Claims.elementBytes d := rfl
  rw [FieldDesc.storeBytes, hval, hsize, littleEndian_bytesOf, Nat.mod_eq_of_lt (BitVec.isLt _), BitVec.toNat_ofInt, Int.toNat_of_nonneg]
  · norm_cast
  · exact Int.emod_nonneg _ (by positivity)

/-- A store takes the rows that are selected and valid. -/
theorem takeRows_store (hk : x.kind = .store) (i : Nat) : s.takeRows h x [i] =
    if (!x.masked || s.tag h 0 (x.row0 + i)) && s.tgv h (x.row0 + i) then [(i, s.elementAddr h x i, s.elem h x.desc (x.row0 + i))] else [] := by
  have hstores : s.stores h x i = ((!x.masked || s.tag h 0 (x.row0 + i)) && s.tgv h (x.row0 + i)) := rfl
  simp only [State.takeRows, hk, List.filter_cons, List.filter_nil, hstores]
  split <;> rfl

section
variable {v : Nat} {rest : List (Nat × Dword × Nat)} (hk : x.kind = .store ∨ x.kind = .storeX) (hd : x.desc.type ≠ 7)
  (hv : x.values = (i, va, v) :: rest)
include hk hd hv

/-- What a store of elements writes next: an element, or a byte of one. -/
theorem nextPut_element : x.nextPut = some (if !x.bytewise then (.bytes va ((x.desc.storeBytes v).map some), { x with values := rest })
    else (.bytes (va + BitVec.ofNat 64 x.pos) [some ((x.desc.storeBytes v).getD x.pos 0)],
      if (x.desc.storeBytes v).length ≤ x.pos + 1 then { x with values := rest, pos := 0 } else { x with pos := x.pos + 1 })) := by
  have hf : x.desc.isF4b = false := by simpa [FieldDesc.isF4b] using hd
  rcases hk with hk | hk <;> cases hb : x.bytewise <;> simp [Transfer.nextPut, hk, hv, hf, hb]

end

end Sys2Proof.Machine

namespace Sys2Proof.Proofs

open Sys2Proof.Machine

theorem rowsMoveAsLittleEndianElements : Parts.RowsMoveAsLittleEndianElements := by
  intro s h x i hme d b selects reads whole low dense
  refine ⟨?_, ?_, ?_, ?_, ?_, ?_, ?_, ?_⟩
  · rintro hk rfl hi hgot hsel
    exact readUnit_skips hk hi hgot hsel
  · rintro g u hk rfl hi hgot hsel
    refine ⟨fun hd hwhole => ?_, fun c hd => ?_⟩
    · rintro va ⟨hl, hp, hlen⟩
      have hva : s.elementAddr h x x.pos = va := by rw [elementAddr_load (.inl hk), if_neg hd]
      have hsize := x.elementSize_eq hd
      rw [readUnit_dense (.inl hk) hi hgot hsel hva (hsize ▸ hwhole) (by rwa [hsize]) hp (by rwa [hsize]), valueOf_eq hd]
    · rintro va ⟨hl, hp, hlen⟩ hc
      have hva : s.elementAddr h x x.pos = va := by rw [elementAddr_load (.inl hk), if_pos hd]
      have hsize : x.elementSize = 1 := by rw [Transfer.elementSize, FieldDesc.isF4b, hd]; rfl
      rw [readUnit_dense (.inl hk) hi hgot hsel hva (.inl hsize) (by rwa [hsize]) hp (by rwa [hsize]), hc, valueOf_f4b hd]
  · rintro g u bs c hk rfl hi hd hwhole rfl hshort hsel va ⟨hl, hp, hlen⟩ hc
    have hsize := x.elementSize_eq hd
    have hnext : s.nextGet h x = some (x.pos, va) := by
      rw [nextGet_dense (.inl hk) hi, elementAddr_load (.inl hk), if_neg hd]
    have hunit : x.unitSize = 1 := unitSize_of_bytewise (hsize ▸ hwhole)
    have hread := readUnit_reads (.inl hk) hnext (.inr hsel) (by rwa [hunit]) hp
    by_cases hpart : x.got.length + 1 < b
    · rw [hread, hc, gotBytes_part (.inl hk) (by rw [List.length_append]; exact hsize ▸ hpart), if_pos hpart]
    · rw [hread, hc, gotBytes_whole (.inl hk) (by rw [List.length_append]; exact hsize ▸ Nat.not_lt.1 hpart), if_neg hpart,
        nextRow_dense (.inl hk), valueOf_eq hd]
  · rintro g u hk htype hwidth rfl hi hgot hsel va ⟨hl, hp, hlen⟩
    have hd : x.desc.type ≠ 7 := by rw [htype]; decide
    have hsize : x.elementSize = 2 := by rw [x.elementSize_eq hd, Claims.elementBytes, hwidth]; rfl
    have hlow : Claims.littleEndian g.bytes % 2 ^ x.desc.width.toNat = Claims.littleEndian g.bytes := by
      rw [hwidth]
      exact Nat.mod_eq_of_lt ((littleEndian_lt g.bytes).trans_eq (by rw [hlen]; rfl))
    rw [readUnit_dense (.inr hk) hi hgot hsel (elementAddr_scale hk _) (.inr (.inl hsize)) (by rwa [hsize]) hp (by rwa [hsize]),
      valueOf_eq hd, hlow]
  · rintro g u rest hk hd hwhole hgot va haddrs ⟨hl, hp, hlen⟩
    have hsize := x.elementSize_eq hd
    have hnext : s.nextGet h x = some (i, va) := by
      rw [State.nextGet, hk]
      simp only [haddrs, List.head?_cons]
    have hat : va + BitVec.ofNat 64 x.got.length = va := by rw [hgot]; exact BitVec.add_zero va
    rw [readUnit_element (.inr (.inr hk)) hnext (.inl hk) (by rwa [hat, unitSize_of_whole (hsize ▸ hwhole), hsize]) hp
      (by rw [hsize, hlen]; exact Nat.le_add_left _ _), Transfer.nextRow, hk, hgot, List.nil_append, valueOf_eq hd]
    simp only [haddrs, List.tail_cons]
    rfl
  · intro hk
    rw [← hme, s.readIndex_eq x (x.indexed_iff.2 hk) [i]]
    rfl
  · intro hk
    rw [takeRows_store hk, elementAddr_load (.inr hk)]
  · rintro va v rest hk hd hv
    refine ⟨d.storeBytes v, length_storeBytes d v, littleEndian_storeBytes d v, ?_⟩
    have hwhole : x.bytewise = false ↔ whole := by rw [x.bytewise_eq_false_iff, x.elementSize_eq hd]
    have hlen : (x.desc.storeBytes v).length = b := length_storeBytes x.desc v
    rw [nextPut_element hk hd hv, hlen]
    cases hb : x.bytewise with
    | false => exact congrArg some (if_pos (hwhole.1 hb)).symm
    | true => exact congrArg some (if_neg fun hw => by rw [hwhole.2 hw] at hb; cases hb).symm

end Sys2Proof.Proofs
end

section
/-! PROOFS. Spill images (09 R211): the values that VSPILL writes are those that VFILL reads. -/

namespace Sys2Proof.Machine

/-! ## Bytes and chunks -/

theorem bitsOfBytes_bytesOfBits {n : Nat} (v : BitVec (8 * n)) : bitsOfBytes (8 * n) (bytesOfBits v n) = v := by
  apply BitVec.eq_of_toNat_eq
  rw [toNat_bitsOfBytes_of_length (by rw [length_bytesOfBits]), littleEndian_bytesOf, Nat.mod_eq_of_lt v.isLt]

/-- Chunk i of a list of chunks of one length. -/
theorem take_drop_flatMap {α β : Type} {f : α → List β} {k : Nat} (hf : ∀ a, (f a).length = k) (l : List α) {i : Nat} (hi : i < l.length) :
    ((l.flatMap f).drop (k * i)).take k = f l[i] := by
  induction l generalizing i with
  | nil => exact absurd hi (Nat.not_lt_zero i)
  | cons a l ih =>
    cases i with
    | zero =>
      rw [List.flatMap_cons, Nat.mul_zero, List.drop_zero, List.take_left' (hf a)]
      rfl
    | succ i =>
      have hdrop : ((f a ++ l.flatMap f).drop (k * (i + 1))) = (l.flatMap f).drop (k * i) := by
        rw [Nat.mul_succ, Nat.add_comm, ← List.drop_drop, List.drop_left' (hf a)]
      rw [List.flatMap_cons, hdrop, ih (Nat.lt_of_succ_lt_succ hi)]
      rfl

theorem length_flatMap_chunks {α β : Type} {f : α → List β} {k : Nat} (hf : ∀ a, (f a).length = k) (l : List α) :
    (l.flatMap f).length = k * l.length := by
  simp [List.length_flatMap, hf, Nat.mul_comm]

/-! ## The packed form -/

theorem packBits_lt (w : Nat) (vs : List Nat) : packBits w vs < 2 ^ (vs.length * w) := by
  induction vs with
  | nil => exact Nat.two_pow_pos _
  | cons v vs ih =>
    have hv := Nat.mod_lt v (Nat.two_pow_pos w)
    rw [packBits, List.length_cons, Nat.succ_mul, Nat.add_comm (vs.length * w), Nat.pow_add]
    calc v % 2 ^ w + 2 ^ w * packBits w vs < 2 ^ w * (packBits w vs + 1) := by rw [Nat.mul_succ, Nat.add_comm]; exact Nat.add_lt_add_left hv _
      _ ≤ 2 ^ w * 2 ^ (vs.length * w) := Nat.mul_le_mul_left _ ih

/-- Value i of packed values. -/
theorem packBits_getElem {w : Nat} {vs : List Nat} (hvs : ∀ v ∈ vs, v < 2 ^ w) {i : Nat} (hi : i < vs.length) :
    packBits w vs / 2 ^ (i * w) % 2 ^ w = vs[i] := by
  induction vs generalizing i with
  | nil => exact absurd hi (Nat.not_lt_zero i)
  | cons v vs ih =>
    have hv : v % 2 ^ w = v := Nat.mod_eq_of_lt (hvs v List.mem_cons_self)
    have hlt := hvs v List.mem_cons_self
    rw [packBits, hv]
    cases i with
    | zero =>
      rw [Nat.zero_mul, Nat.pow_zero, Nat.div_one, Nat.add_mul_mod_self_left, hv]
      rfl
    | succ i =>
      rw [Nat.succ_mul, Nat.add_comm (i * w), Nat.pow_add, ← Nat.div_div_eq_div_mul, Nat.add_mul_div_left _ _ (Nat.two_pow_pos w),
        Nat.div_eq_of_lt hlt, Nat.zero_add, ih (fun u hu => hvs u (List.mem_cons_of_mem v hu)) (Nat.lt_of_succ_lt_succ hi)]
      rfl

/-- The body of an image of packed values. -/
def packedBody (w : Nat) (vs : List Nat) : List Byte :=
  bytesOfBits (BitVec.ofNat (8 * ((vs.length * w + 7) / 8)) (packBits w vs)) ((vs.length * w + 7) / 8)

/-- The values of packed bits. -/
def fillPacked (w n : Nat) (body : List Byte) : List Nat :=
  (List.range n).map fun i => (bitsOfBytes (8 * body.length) body).toNat / 2 ^ (i * w) % 2 ^ w

theorem fillPacked_packedBody {w : Nat} {vs : List Nat} (hvs : ∀ v ∈ vs, v < 2 ^ w) : fillPacked w vs.length (packedBody w vs) = vs := by
  have hlen : vs.length * w ≤ 8 * ((vs.length * w + 7) / 8) := by omega
  have hbits : (bitsOfBytes (8 * (packedBody w vs).length) (packedBody w vs)).toNat = packBits w vs := by
    rw [toNat_bitsOfBytes_of_length rfl, packedBody, littleEndian_bytesOf, BitVec.toNat_ofNat, Nat.mod_mod,
      Nat.mod_eq_of_lt ((packBits_lt w vs).trans_le (Nat.pow_le_pow_right (by decide) hlen))]
  refine List.ext_getElem (by simp [fillPacked]) fun i hi hj => ?_
  simp only [fillPacked, hbits, List.getElem_map, List.getElem_range]
  exact packBits_getElem hvs hj

/-! ## The forms of differences -/

/-- The body of an image of differences of k bytes. -/
def deltaBody (w k : Nat) (vs : List Nat) : List Byte :=
  bytesOfBits (BitVec.ofNat (8 * ((w + 7) / 8)) (vs.headD 0)) ((w + 7) / 8) ++
    (vs.tail.map fun (v : Nat) => (v : Int) - (vs.headD 0 : Nat)).flatMap fun d => bytesOfBits (BitVec.ofInt (8 * k) d) k

/-- Differences that k bytes hold. -/
def DeltasFit (k : Nat) (vs : List Nat) : Prop :=
  ∀ v ∈ vs.tail, -(2 ^ (8 * k - 1) : Int) ≤ (v : Int) - (vs.headD 0 : Nat) ∧ (v : Int) - (vs.headD 0 : Nat) < 2 ^ (8 * k - 1)

/-- The values of a body of differences of k bytes. -/
def fillDeltas (w n k : Nat) (body : List Byte) : List Nat :=
  let base := (bitsOfBytes (8 * ((w + 7) / 8)) (body.take ((w + 7) / 8))).toNat
  base :: (List.range (n - 1)).map fun i =>
    fitInt w ((base : Int) + (bitsOfBytes (8 * k) ((body.drop ((w + 7) / 8 + k * i)).take k)).toInt)

theorem length_deltaBody (w k : Nat) (vs : List Nat) : (deltaBody w k vs).length = (w + 7) / 8 + k * (vs.length - 1) := by
  rw [deltaBody, List.length_append, length_bytesOfBits, length_flatMap_chunks (fun d => length_bytesOfBits _ k), List.length_map,
    List.length_tail]

theorem fitInt_natCast {w v : Nat} (hv : v < 2 ^ w) : fitInt w v = v := by
  rw [fitInt, Int.emod_eq_of_lt (Int.natCast_nonneg v) (by exact_mod_cast hv), Int.toNat_natCast]

theorem fillDeltas_deltaBody {w k : Nat} {vs : List Nat} (hk : 0 < k) (hne : vs ≠ []) (hvs : ∀ v ∈ vs, v < 2 ^ w) (hfit : DeltasFit k vs) :
    fillDeltas w vs.length k (deltaBody w k vs) = vs := by
  cases vs with
  | nil => exact absurd rfl hne
  | cons base vs =>
    have hbase : base < 2 ^ (8 * ((w + 7) / 8)) :=
      (hvs base List.mem_cons_self).trans_le (Nat.pow_le_pow_right (by decide) (by omega))
    have hhead : (deltaBody w k (base :: vs)).take ((w + 7) / 8) = bytesOfBits (BitVec.ofNat (8 * ((w + 7) / 8)) base) ((w + 7) / 8) :=
      List.take_left' (length_bytesOfBits _ _)
    have hchunk : ∀ i (hi : i < vs.length), ((deltaBody w k (base :: vs)).drop ((w + 7) / 8 + k * i)).take k =
        bytesOfBits (BitVec.ofInt (8 * k) ((vs[i] : Int) - base)) k := by
      intro i hi
      rw [deltaBody, ← List.drop_drop, List.drop_left' (length_bytesOfBits _ _),
        take_drop_flatMap (fun d => length_bytesOfBits _ k) _ (by simpa using hi)]
      simp
    have hdelta : ∀ i (hi : i < vs.length), (BitVec.ofInt (8 * k) ((vs[i] : Int) - base)).toInt = (vs[i] : Int) - base := by
      intro i hi
      obtain ⟨hlow, hhigh⟩ := hfit vs[i] (List.getElem_mem hi)
      exact BitVec.toInt_ofInt_eq_self (by omega) hlow hhigh
    simp only [fillDeltas, hhead, bitsOfBytes_bytesOfBits, BitVec.toNat_ofNat, Nat.mod_eq_of_lt hbase]
    congr 1
    refine List.ext_getElem (by simp) fun i hi hj => ?_
    have hv := hvs vs[i] (List.mem_cons_of_mem base (List.getElem_mem hj))
    rw [List.getElem_map, List.getElem_range, hchunk i hj, bitsOfBytes_bytesOfBits, hdelta i hj, add_sub_cancel, fitInt_natCast hv]

/-! ## The image -/

theorem fillValues_eq (w n : Nat) (image : List Byte) : fillValues w n image =
    if (image.headD 0).toNat = 0 then fillPacked w n (image.drop 1) else fillDeltas w n (image.headD 0).toNat (image.drop 1) := rfl

theorem deltasFit_iff (k : Nat) (vs : List Nat) :
    ((vs.tail.map fun (v : Nat) => (v : Int) - (vs.headD 0 : Nat)).all fun d =>
      decide (-(2 ^ (8 * k - 1) : Int) ≤ d) && decide (d < 2 ^ (8 * k - 1))) = true ↔ DeltasFit k vs := by
  simp only [List.all_map, List.all_eq_true, Function.comp_apply, Bool.and_eq_true, decide_eq_true_eq, DeltasFit]

/-- The differences of an image, which the model makes of integers. -/
theorem differences_eq (vs : List Nat) : (vs.tail >>= fun a => pure (a : Int)).map (fun (v : Int) => v - (vs.headD 0 : Nat)) =
    vs.tail.map fun (v : Nat) => (v : Int) - (vs.headD 0 : Nat) := by
  rw [List.bind_eq_flatMap, List.map_flatMap, List.map_eq_flatMap]
  rfl

/-- The form of an image, with what it asks of the differences and of its length. -/
theorem spillImage_cases (w : Nat) (vs : List Nat) :
    (∃ k, (k = 1 ∨ k = 2) ∧ spillImage w vs = BitVec.ofNat 8 k :: deltaBody w k vs ∧ DeltasFit k vs ∧
      (w + 7) / 8 + k * (vs.length - 1) < (vs.length * w + 7) / 8) ∨
    spillImage w vs = 0 :: packedBody w vs := by
  simp only [spillImage, differences_eq]
  split
  next h => exact .inl ⟨1, .inl rfl, rfl, (deltasFit_iff 1 vs).1 h.1, by omega⟩
  next =>
    split
    next h => exact .inl ⟨2, .inr rfl, rfl, (deltasFit_iff 2 vs).1 h.1, by omega⟩
    next => exact .inr rfl

end Sys2Proof.Machine

namespace Sys2Proof.Proofs

open Sys2Proof.Machine

theorem spillImagesFillBack : Parts.SpillImagesFillBack := by
  intro w vs hpos hw hne hvs
  rcases spillImage_cases w vs with ⟨k, hk, himage, hfit, hshort⟩ | himage
  · have hkpos : 0 < k := by omega
    have hformat : (BitVec.ofNat 8 k).toNat = k := Nat.mod_eq_of_lt (by omega)
    have hhead : ((spillImage w vs).headD 0).toNat = k := by rw [himage, List.headD_cons, hformat]
    have hlen : (spillImage w vs).length = 1 + ((w + 7) / 8 + k * (vs.length - 1)) := by
      rw [himage, List.length_cons, length_deltaBody, Nat.add_comm]
    refine ⟨?_, ?_, ?_⟩
    · rw [fillValues_eq, hhead, if_neg hkpos.ne', himage]
      exact fillDeltas_deltaBody hkpos hne hvs hfit
    · rw [hhead, hlen]
      rcases hk with rfl | rfl
      · rw [imageLength, Nat.one_mul]
      · rfl
    · rw [hlen]
      omega
  · have hhead : ((spillImage w vs).headD 0).toNat = 0 := by rw [himage]; rfl
    have hlen : (spillImage w vs).length = 1 + (vs.length * w + 7) / 8 := by
      rw [himage, List.length_cons, packedBody, length_bytesOfBits, Nat.add_comm]
    refine ⟨?_, ?_, hlen.le⟩
    · rw [fillValues_eq, hhead, if_pos rfl, himage]
      exact fillPacked_packedBody hvs
    · rw [hhead, hlen]
      rfl

/-- Settles O23: an element's value is the low bits of its bytes (`valueOf_eq`), its bytes are extended by its type
(`littleEndian_storeBytes`), and each form of an image is read back (`fillPacked_packedBody`, `fillDeltas_deltaBody`). -/
theorem rowImagesMoveAndReturn : Obligations.RowImagesMoveAndReturn := ⟨rowsMoveAsLittleEndianElements, spillImagesFillBack⟩

end Sys2Proof.Proofs
end

section
/-! PROOFS. The order of FP32 encodings (02 R53, R66), and what AMAXF leaves in a word (10 R244). -/

namespace Sys2Proof.Machine

/-! ## Signs -/

/-- A value with its sign set is below one without. -/
theorem Num.below_of_sign {x y : Num} (hx : x.isNan = false) (hy : y.isNan = false) (hsx : x.sign = true) (hsy : y.sign = false) :
    x.below y = true := by
  cases x with
  | nan => cases hx
  | inf a =>
    obtain rfl : a = true := hsx
    cases y with
    | nan => cases hy
    | inf b =>
      obtain rfl : b = false := hsy
      rfl
    | fin b n g => rfl
  | fin a m e =>
    obtain rfl : a = true := hsx
    cases y with
    | nan => cases hy
    | inf b =>
      obtain rfl : b = false := hsy
      rfl
    | fin b n g =>
      obtain rfl : b = false := hsy
      simp only [Num.below, Num.eq, Num.lt, Num.isNan, Num.sign, Bool.false_eq_true, if_true, if_false, Bool.not_false, Bool.true_and, Bool.and_true,
        Bool.or_eq_true, Bool.and_eq_true, Bool.not_eq_true', decide_eq_true_eq, decide_eq_false_iff_not]
      omega

theorem Num.below_of_plus {x y : Num} (hx : x.sign = false) : x.below y = x.lt y := by
  rw [Num.below, hx, Bool.and_false, Bool.false_and, Bool.or_false]

/-! ## FP32 (R53) -/

/-- The significand of the magnitude of a finite FP32 encoding, and how far its last place lies above that of a subnormal. -/
def sigF32 (a : Nat) : Nat := if a / 2 ^ 23 = 0 then a % 2 ^ 23 else 2 ^ 23 + a % 2 ^ 23
/-- See `sigF32`. -/
def expF32 (a : Nat) : Nat := a / 2 ^ 23 - 1

theorem decode_fmtF32 {v : Nat} (hv : v < 2 ^ 32) : fmtF32.decode v =
    if 0x7F800000 < v % 2 ^ 31 then .nan else if v % 2 ^ 31 = 0x7F800000 then .inf (decide (2 ^ 31 ≤ v))
    else .fin (decide (2 ^ 31 ≤ v)) (sigF32 (v % 2 ^ 31)) (expF32 (v % 2 ^ 31) - 149) := by
  have hneg : (v / 2 ^ 31 % 2 == 1) = decide (2 ^ 31 ≤ v) := by
    rw [Bool.beq_eq_decide_eq]
    exact decide_eq_decide.2 (by omega)
  have hexp : v / 2 ^ 23 % 2 ^ 8 = v % 2 ^ 31 / 2 ^ 23 := by omega
  have hfrac : v % 2 ^ 23 = v % 2 ^ 31 % 2 ^ 23 := by omega
  have hmag : v % 2 ^ 31 < 2 ^ 31 := Nat.mod_lt _ (by decide)
  have hq : fmtF32.qmin = -149 := rfl
  have hdecode : fmtF32.decode v =
      if v % 2 ^ 31 / 2 ^ 23 = 255 then if v % 2 ^ 31 % 2 ^ 23 = 0 then .inf (decide (2 ^ 31 ≤ v)) else .nan
      else if v % 2 ^ 31 / 2 ^ 23 = 0 then .fin (decide (2 ^ 31 ≤ v)) (v % 2 ^ 31 % 2 ^ 23) (-149)
      else .fin (decide (2 ^ 31 ≤ v)) (2 ^ 23 + v % 2 ^ 31 % 2 ^ 23) (-149 + (v % 2 ^ 31 / 2 ^ 23 : Nat) - 1) := by
    rw [← hneg, ← hexp, ← hfrac, ← hq]
    simp only [Fmt.decode, fmtF32, true_or, and_true, true_and]
    rfl
  rw [hdecode]
  generalize v % 2 ^ 31 = a at hmag
  by_cases htop : a / 2 ^ 23 = 255
  · rw [if_pos htop]
    by_cases hfrac : a % 2 ^ 23 = 0
    · rw [if_pos hfrac, if_neg (by omega), if_pos (by omega)]
    · rw [if_neg hfrac, if_pos (by omega)]
  · rw [if_neg htop, if_neg (show ¬ 0x7F800000 < a by omega), if_neg (show ¬ a = 0x7F800000 by omega), sigF32, expF32]
    by_cases hsub : a / 2 ^ 23 = 0
    · rw [if_pos hsub, if_pos hsub, hsub]
      rfl
    · rw [if_neg hsub, if_neg hsub]
      congr 1
      omega

/-- The value of a finite magnitude, in units of the least subnormal. -/
def unitsF32 (a : Nat) : Nat := sigF32 a * 2 ^ expF32 a

theorem unitsF32_upper (a : Nat) : unitsF32 a < 2 ^ 23 * 2 ^ (a / 2 ^ 23) := by
  have hfrac : a % 2 ^ 23 < 2 ^ 23 := Nat.mod_lt _ (by decide)
  rw [unitsF32, sigF32, expF32]
  cases a / 2 ^ 23 with
  | zero => simpa using hfrac
  | succ e =>
    have hpow : 2 ^ 23 * 2 ^ (e + 1) = 2 ^ 24 * 2 ^ e := by rw [Nat.pow_succ]; omega
    rw [if_neg (Nat.succ_ne_zero e), Nat.add_sub_cancel, hpow]
    exact Nat.mul_lt_mul_of_pos_right (by omega) (Nat.two_pow_pos e)

theorem unitsF32_lower {a : Nat} (h : 0 < a / 2 ^ 23) : 2 ^ 23 * 2 ^ (a / 2 ^ 23 - 1) ≤ unitsF32 a := by
  rw [unitsF32, sigF32, expF32, if_neg h.ne']
  exact Nat.mul_le_mul_right _ (Nat.le_add_right _ _)

theorem unitsF32_strictMono : StrictMono unitsF32 := by
  intro a b h
  rcases (Nat.div_le_div_right (c := 2 ^ 23) h.le).lt_or_eq with hexp | hexp
  · have hpow : 2 ^ (a / 2 ^ 23) ≤ 2 ^ (b / 2 ^ 23 - 1) := Nat.pow_le_pow_right (by decide) (by omega)
    calc unitsF32 a < 2 ^ 23 * 2 ^ (a / 2 ^ 23) := unitsF32_upper a
      _ ≤ 2 ^ 23 * 2 ^ (b / 2 ^ 23 - 1) := Nat.mul_le_mul_left _ hpow
      _ ≤ unitsF32 b := unitsF32_lower (Nat.zero_lt_of_lt hexp)
  · have hsig : sigF32 a < sigF32 b := by
      rw [sigF32, sigF32, hexp]
      split <;> omega
    rw [unitsF32, unitsF32, expF32, expF32, hexp]
    exact Nat.mul_lt_mul_of_pos_right hsig (Nat.two_pow_pos _)

/-- Finite magnitudes are in the order of their encodings. -/
theorem lt_fin (a b : Nat) :
    (Num.fin false (sigF32 a) (expF32 a - 149)).lt (.fin false (sigF32 b) (expF32 b - 149)) = decide (a < b) := by
  have hshift : ∀ x y : Nat, ((x : Int) - 149 - min ((x : Int) - 149) ((y : Int) - 149)).toNat = x - min x y := fun x y => by omega
  have hscale : ∀ n x y : Nat, n * 2 ^ (x - min x y) * 2 ^ min x y = n * 2 ^ x := fun n x y => by
    rw [Nat.mul_assoc, ← Nat.pow_add, Nat.sub_add_cancel (Nat.min_le_left x y)]
  have hmin := Nat.min_comm (expF32 a) (expF32 b)
  have hunits : sigF32 a * 2 ^ (expF32 a - min (expF32 a) (expF32 b)) < sigF32 b * 2 ^ (expF32 b - min (expF32 b) (expF32 a)) ↔ a < b := by
    rw [← unitsF32_strictMono.lt_iff_lt (a := a) (b := b), unitsF32, unitsF32,
      ← Nat.mul_lt_mul_right (Nat.two_pow_pos (min (expF32 a) (expF32 b))), hscale, hmin, hscale]
  simp only [Num.lt, Bool.false_eq_true, if_false, hshift, Int.ofNat_lt]
  rw [min_comm ((expF32 a : Int) - 149), hshift]
  exact decide_eq_decide.2 hunits

/-- Magnitudes that are no NaN are in the order of their encodings. -/
theorem lt_decode {a b : Nat} (ha : a ≤ 0x7F800000) (hb : b ≤ 0x7F800000) : (fmtF32.decode a).lt (fmtF32.decode b) = decide (a < b) := by
  have hplus : ∀ x ≤ 0x7F800000, fmtF32.decode x =
      if x = 0x7F800000 then .inf false else .fin false (sigF32 x) (expF32 x - 149) := by
    intro x hx
    have hmod : x % 2 ^ 31 = x := Nat.mod_eq_of_lt (by omega)
    rw [decode_fmtF32 (by omega), hmod, if_neg (by omega), decide_eq_false (by omega)]
  rw [hplus a ha, hplus b hb]
  by_cases htopa : a = 0x7F800000 <;> by_cases htopb : b = 0x7F800000 <;> simp only [htopa, htopb, if_true, if_false]
  · rfl
  · exact (decide_eq_false (by omega)).symm
  · exact (decide_eq_true (by omega)).symm
  · exact lt_fin a b

theorem isNan_decode {v : Nat} (hv : v < 2 ^ 32) : (fmtF32.decode v).isNan = decide (0x7F800000 < v % 2 ^ 31) := by
  rw [decode_fmtF32 hv]
  by_cases h : 0x7F800000 < v % 2 ^ 31
  · rw [if_pos h, decide_eq_true h]
    rfl
  · rw [if_neg h, decide_eq_false h]
    split <;> rfl

theorem sign_decode {v : Nat} (hv : v < 2 ^ 32) (h : v % 2 ^ 31 ≤ 0x7F800000) : (fmtF32.decode v).sign = decide (2 ^ 31 ≤ v) := by
  rw [decode_fmtF32 hv, if_neg (Nat.not_lt.2 h)]
  split <;> rfl

/-- AMAXF takes the greater magnitude (R244). -/
theorem foldMax_eq {word m : Nat} (hw : word < 2 ^ 32) (hm : m < 2 ^ 31) : foldMax word m = Claims.folded word m := by
  have hm32 : m < 2 ^ 32 := by omega
  have hmod : m % 2 ^ 31 = m := Nat.mod_eq_of_lt hm
  simp only [foldMax, Claims.folded, isNan_decode hw, isNan_decode hm32, hmod, decide_eq_true_eq]
  by_cases hmnan : 0x7F800000 < m
  · rw [if_pos hmnan, if_pos hmnan]
  by_cases hwnan : 0x7F800000 < word % 2 ^ 31
  · rw [if_neg hmnan, if_neg hmnan, if_pos hwnan, if_pos hwnan]
  rw [if_neg hmnan, if_neg hmnan, if_neg hwnan, if_neg hwnan]
  have hsm : (fmtF32.decode m).sign = false := by rw [sign_decode hm32 (by omega), decide_eq_false (by omega)]
  have hsw := sign_decode hw (Nat.not_lt.1 hwnan)
  by_cases hneg : 2 ^ 31 ≤ word
  · have hbelow : (fmtF32.decode word).below (fmtF32.decode m) = true :=
      Num.below_of_sign (by rw [isNan_decode hw, decide_eq_false hwnan]) (by rw [isNan_decode hm32, hmod, decide_eq_false hmnan])
        (by rw [hsw, decide_eq_true hneg]) hsm
    rw [if_pos hbelow, if_pos hneg]
  · have hbelow : (fmtF32.decode word).below (fmtF32.decode m) = decide (word < m) := by
      rw [Num.below_of_plus (by rw [hsw, decide_eq_false hneg]), lt_decode (by omega) (by omega)]
    rw [hbelow, if_neg hneg]
    by_cases hlt : word < m
    · rw [if_pos (decide_eq_true hlt), max_eq_right hlt.le]
    · rw [if_neg (by rwa [decide_eq_true_eq]), max_eq_left (Nat.not_lt.1 hlt)]

end Sys2Proof.Machine
end

section
/-! PROOFS. AMOs and folds (10 R242 to R244, 17 R357, R365): their issue, and their one step at the home. -/

namespace Sys2Proof.Machine

variable {s v : State} {h : HartKey} {i : Instr} {d a b : Reg} {o : BitVec 2} {w : BitVec 1} {uns host : Bool}
  {f : Nat → Nat → Nat → Nat → Option Nat} {x : Transfer}

/-! ## The words (R242) -/

/-- The greater or the lower of two numbers of n bits. -/
theorem amoBound_eq {n : Nat} (u : BitVec 1) (x y : BitVec n) :
    (if u = 1 then x.ult y else x.slt y) =
      if u = 1 then decide (x.toNat < y.toNat) else decide ((BitVec.ofNat n x.toNat).toInt < (BitVec.ofNat n y.toNat).toInt) := by
  rw [BitVec.ofNat_toNat, BitVec.ofNat_toNat, BitVec.setWidth_eq, BitVec.setWidth_eq]
  rfl

/-- An AMO of the table of claims: its body, its bytes, its order and its new value. -/
theorem amo_of_op (hop : Claims.amoOp i = some ((d, a, b), o, w, uns, host, f)) :
    (∀ t, exec i t = amoWord i d a b t) ∧ scalarBytes i = (if w = 1 then 8 else 4) ∧ (orderingOf i).1 = o.getLsbD 1 ∧
    amoUnsigned i = uns ∧ hostAtomic i = host ∧
    ∀ (n : Nat) (x y e : BitVec n), (amoNew i n x y e).map BitVec.toNat = f n x.toNat y.toNat e.toNat := by
  unfold Claims.amoOp at hop
  split at hop <;> cases hop <;> refine ⟨fun _ => rfl, rfl, rfl, rfl, rfl, fun n x y e => ?_⟩
  · exact congrArg some (BitVec.toNat_add x y)
  · exact congrArg some (BitVec.toNat_and x y)
  · exact congrArg some (BitVec.toNat_or x y)
  · exact congrArg some (BitVec.toNat_xor x y)
  · rfl
  · by_cases he : x = e
    · simp [amoNew, he]
    · simp [amoNew, he, BitVec.toNat_inj]
  · simp only [amoNew, amoBound_eq, Option.map_some, apply_ite BitVec.toNat]
  · simp only [amoNew, amoBound_eq, Option.map_some, apply_ite BitVec.toNat]

/-! ## The issue (R242) -/

/-- The host window takes no other operation. -/
theorem State.directMiss_host (hk : x.kind = .amo ∨ x.kind = .fold)
    (hcheck : (s.hartReach h .scalar).check .update x.addr (scalarBytes i) = none) (hva : 2 ^ 51 ≤ x.addr.toNat) (hhost : hostAtomic i = false) :
    s.directMiss h i x = (some { cause := causeProt, value := x.addr }, s) := by
  have huse : directUse x = .update := by
    rw [directUse]
    rcases hk with hk | hk <;> rw [hk]
  have hnot : (x.kind = .amo ∨ x.kind = .fold) ∧ 2 ^ 51 ≤ x.addr.toNat ∧ ¬ hostAtomic i = true := ⟨hk, hva, by rw [hhost]; decide⟩
  simp only [State.directMiss, huse, hcheck, if_pos hnot]

/-- The body of an AMO or a fold: ALIGN, or its issue. -/
def homeWord (i : Instr) (a : Reg) (x : State → Transfer) (dest : Option Reg) (s : State) : Flow :=
  if (s.rx a).toNat % scalarBytes i ≠ 0 then .trap s causeAlign (s.rx a) else s.issueDirect i (x s) dest

section
variable {y : State → Transfer} {dest : Option Reg} (hexec : ∀ t, exec i t = .next (runWord i (homeWord i a y dest) t)) (hr : s.Ready i)
include hexec hr

theorem exec_homeWord_misaligned (ha : (s.due.rx a).toNat % scalarBytes i ≠ 0) :
    exec i s = .next (s.due.trapped causeAlign (s.due.rx a)) := by
  rw [exec_ready hexec hr, homeWord, if_pos ha]
  rfl

theorem exec_homeWord_issues (ha : (s.due.rx a).toNat % scalarBytes i = 0) : Claims.AccessIssues i s (y s.due) dest := by
  refine accessIssues_of_exec ?_
  rw [exec_ready hexec hr, homeWord, if_neg (not_not_intro ha)]

theorem exec_homeWord_host (hc : s.cur = .hart h) (ha : (s.due.rx a).toNat % scalarBytes i = 0)
    (hk : (y s.due).kind = .amo ∨ (y s.due).kind = .fold) (haddr : (y s.due).addr = s.due.rx a)
    (hcheck : (s.due.hartReach h .scalar).check .update (s.due.rx a) (scalarBytes i) = none) (hva : 2 ^ 51 ≤ (s.due.rx a).toNat)
    (hhost : hostAtomic i = false) : exec i s = .next (s.due.trapped causeProt (s.due.rx a)) := by
  rw [← haddr] at hcheck hva
  have hmiss := State.directMiss_host hk hcheck hva hhost
  rw [← State.due_me hc] at hmiss
  rw [exec_ready hexec hr, homeWord, if_neg (not_not_intro ha), State.issueDirect_miss hmiss, haddr]
  rfl

end

/-! ## One step at the home -/

theorem length_homeRead (s : State) (key loc n : Nat) : (s.homeRead key loc n).1.length = n := by
  simp [State.homeRead]

theorem toNat_homeRead (s : State) (key loc n : Nat) :
    (bitsOfBytes (8 * n) (s.homeRead key loc n).1).toNat = Claims.littleEndian (s.homeRead key loc n).1 :=
  toNat_bitsOfBytes_of_length (by rw [length_homeRead])

/-- Bytes from their number. -/
theorem eq_bytesOf {n : Nat} {v : BitVec (8 * n)} {bs : List Byte} (hl : bs.length = n) (hv : Claims.littleEndian bs = v.toNat) :
    bs = bytesOfBits v n :=
  eq_of_littleEndian_eq (hl.trans (length_bytesOfBits v n).symm) (by rw [littleEndian_bytesOf, Nat.mod_eq_of_lt v.isLt, hv])

/-- The bytes that an AMO writes, from their numbers. -/
theorem eq_map_bytesOf {n : Nat} {v : Option (BitVec (8 * n))} {new : Option (List Byte)} (hl : ∀ bs, new = some bs → bs.length = n)
    (hv : new.map Claims.littleEndian = v.map BitVec.toNat) : new = v.map fun v => bytesOfBits v n := by
  cases new with
  | none =>
    cases v with
    | none => rfl
    | some v => cases hv
  | some bs =>
    cases v with
    | none => cases hv
    | some v => exact congrArg some (eq_bytesOf (hl bs rfl) (Option.some.inj hv))

/-- What an AMO brings: the old value, extended. -/
theorem amo_brings {n : Nat} (hn : n = 4 ∨ n = 8) (v : BitVec (8 * n)) (uns : Bool) :
    (if uns then v.setWidth 64 else v.signExtend 64) =
      BitVec.ofInt 64 (if uns = false ∧ 2 ^ (8 * n - 1) ≤ v.toNat then (v.toNat : Int) - 2 ^ (8 * n) else v.toNat) := by
  cases uns with
  | true => simp
  | false =>
    have hhalf : 2 * v.toNat < 2 ^ (8 * n) ↔ ¬ (false = false ∧ 2 ^ (8 * n - 1) ≤ v.toNat) := by
      rcases hn with rfl | rfl <;> simp <;> omega
    rw [if_neg Bool.false_ne_true, BitVec.signExtend, BitVec.toInt_eq_toNat_cond]
    simp only [hhalf, ite_not]
    push_cast
    rfl

section
variable {t : Target} {n : Nat} (hn : scalarBytes i = n) (hlog : (s.hart h).logMeets x.addr n (2 ^ 64) = false)
  (hwait : s.hartWaits h (s.hartReach h .scalar) .update x.addr n x.maker = false)
  (ht : s.translate (s.hartReach h .scalar).core (s.hartReach h .scalar).unit (s.hartReach h .scalar).ctx x.addr .update = (.ok t, v))
  (hlost : t.lost = false)
include hn hlog hwait ht hlost

/-- An AMO of a poisoned word raises UCE (17 R365). -/
theorem performAmo_poisoned {k : Nat} (hp : v.poisonAt t.loc n = some k) : s.performAmo h i x =
    .miss { cause := causeUce, value := x.addr + BitVec.ofNat 64 k }
      (v.poisonEvent (s.hartReach h .scalar).core (hartMaster h) (s.hartReach h .scalar).ctx x.addr) := by
  subst hn
  simp only [State.performAmo, hlog, hwait, Bool.or_self, Bool.false_eq_true, if_false, ht, hlost, hp]

variable (hp : v.poisonAt t.loc n = none)
include hp

/-- The host may answer with an error. -/
theorem performAmo_error (ha : (v.choose (if 2 ^ 51 ≤ x.addr.toNat then 2 else 0)).1 = 1) : s.performAmo h i x =
    .miss { cause := causeUce, value := x.addr } (v.choose (if 2 ^ 51 ≤ x.addr.toNat then 2 else 0)).2 := by
  subst hn
  simp only [State.performAmo, hlog, hwait, Bool.or_self, Bool.false_eq_true, if_false, ht, hlost, hp, if_pos ha]

theorem performAmo_steps {u : State} {m : Nat} (ha : v.choose (if 2 ^ 51 ≤ x.addr.toNat then 2 else 0) = (m, u)) (hm : m ≠ 1) :
    s.performAmo h i x =
      .ok (if amoUnsigned i then (bitsOfBytes (8 * n) (u.homeRead t.key t.loc n).1).setWidth 64
          else (bitsOfBytes (8 * n) (u.homeRead t.key t.loc n).1).signExtend 64, v.now + homeTime (s.hartReach h .scalar).core t.loc)
        (Claims.homeStep (u.homeRead t.key t.loc n).2 h x.owner x.addr t.key t.loc n
          ((amoNew i (8 * n) (bitsOfBytes (8 * n) (u.homeRead t.key t.loc n).1) (x.data.setWidth (8 * n)) (x.old.setWidth (8 * n))).map
            fun new => bytesOfBits new n) (s.hartReach h .scalar).core) := by
  have hnow : v.now = u.now := by
    have hsame := congrArg State.now (v.choose_same (if 2 ^ 51 ≤ x.addr.toNat then 2 else 0))
    rw [ha] at hsame
    exact hsame.symm
  subst hn
  simp only [State.performAmo, hlog, hwait, Bool.or_self, Bool.false_eq_true, if_false, ht, hlost, hp, ha, if_neg hm, hnow]
  cases amoNew i (8 * scalarBytes i) (bitsOfBytes (8 * scalarBytes i) (u.homeRead t.key t.loc (scalarBytes i)).1)
    (x.data.setWidth (8 * scalarBytes i)) (x.old.setWidth (8 * scalarBytes i)) <;> rfl

end

/-! ## A fold at its home, or in the side log (R244, 17 R357) -/

/-- The four bytes of a number. -/
theorem eq_wordBytes {bs : List Byte} {m : Nat} (hl : bs.length = 4) (hv : Claims.littleEndian bs = m) :
    bs = bytesOfBits (BitVec.ofNat 32 m) 4 := by
  have hlt : m < 2 ^ 32 := hv ▸ (littleEndian_lt bs).trans_eq (by rw [hl])
  exact eq_bytesOf (n := 4) hl (hv.trans (Nat.mod_eq_of_lt hlt).symm)

section
variable {bs : List Byte} (hl : bs.length = 4) (hwait : s.hartWaits h (s.hartReach h .scalar) .update x.addr 4 x.maker = false)
include hwait

include hl in
/-- A fold at a page with no valid translation goes into the side log. -/
theorem performFold_logs {e : Miss} (hv : Claims.littleEndian bs = magnitude x.data)
    (ht : s.translate (s.hartReach h .scalar).core (s.hartReach h .scalar).unit (s.hartReach h .scalar).ctx x.addr .update = (.error e, v))
    (he : e.cause = causeLdpf) : s.performFold h x = .ok (0, v.now) (v.logSide h .fold x.addr (bs.map some) x.maker) := by
  have hnot : e.cause ≠ causeWait := by rw [he]; decide
  simp only [State.performFold, hwait, Bool.false_eq_true, if_false, ht, if_neg hnot, if_pos he, eq_wordBytes hl hv]

variable {t : Target}
  (ht : s.translate (s.hartReach h .scalar).core (s.hartReach h .scalar).unit (s.hartReach h .scalar).ctx x.addr .update = (.ok t, v))
  (hlost : t.lost = false)
include ht hlost

theorem performFold_poisoned (hp : v.poisonAt t.loc 4 ≠ none) : s.performFold h x =
    .ok (0, v.now) (v.poisonEvent (s.hartReach h .scalar).core (hartMaster h) (s.hartReach h .scalar).ctx x.addr) := by
  simp only [State.performFold, hwait, Bool.false_eq_true, if_false, ht, hlost, if_pos (Option.isSome_iff_ne_none.2 hp)]

include hl in
theorem performFold_steps (hp : v.poisonAt t.loc 4 = none)
    (hv : Claims.littleEndian bs = Claims.folded (Claims.littleEndian (v.homeRead t.key t.loc 4).1) (magnitude x.data)) :
    ∃ c, s.performFold h x = .ok (0, c)
      (Claims.homeStep (v.homeRead t.key t.loc 4).2 h x.owner x.addr t.key t.loc 4 (some bs) (s.hartReach h .scalar).core) := by
  have hword : (bitsOfBytes 32 (v.homeRead t.key t.loc 4).1).toNat = Claims.littleEndian (v.homeRead t.key t.loc 4).1 :=
    toNat_homeRead v t.key t.loc 4
  have hfold : foldMax (bitsOfBytes 32 (v.homeRead t.key t.loc 4).1).toNat (magnitude x.data) = Claims.littleEndian bs := by
    rw [hv, ← hword]
    exact foldMax_eq (BitVec.isLt _) (Nat.mod_lt _ (by decide))
  simp only [State.performFold, hwait, Bool.false_eq_true, if_false, ht, hlost, hp, Option.isSome_none, hfold, ← eq_wordBytes hl rfl]
  exact ⟨_, rfl⟩

end

/-! ## The release before the step (R243) -/

theorem directStep_held (ho : (orderingOf i).1 = true) (hb : ∃ b ∈ (s.hart h).failedBlocks, b.owner < x.owner) :
    s.directStep h i x = .wait := by
  have hany : ((s.hart h).failedBlocks.any fun b => decide (b.owner < x.owner)) = true := by simpa using hb
  simp only [State.directStep, ho, Bool.not_true, Bool.false_eq_true, if_false, hany, if_true]

theorem directStep_performs {u w : State} {c : Brought} (hb : (orderingOf i).1 = true → ∀ b ∈ (s.hart h).failedBlocks, x.owner ≤ b.owner)
    (hrel : (if (orderingOf i).1 then s.release h 3 x.owner else .ok () s) = .ok () u) (hp : u.performDirect h i x = .ok c w) :
    s.directStep h i x = .ok () (w.modHart h fun t => { t with sc := t.sc.bring x.owner c.1 c.2 }) := by
  cases ho : (orderingOf i).1 with
  | false =>
    rw [ho, if_neg Bool.false_ne_true] at hrel
    cases hrel
    simp only [State.directStep, ho, Bool.not_false, if_true, hp]
  | true =>
    have hany : ((s.hart h).failedBlocks.any fun b => decide (b.owner < x.owner)) = false := by simpa using hb ho
    rw [ho, if_pos rfl] at hrel
    simp only [State.directStep, ho, Bool.not_true, Bool.false_eq_true, if_false, hany, hrel, hp]

end Sys2Proof.Machine

namespace Sys2Proof.Proofs

open Sys2Proof.Machine

/-- Settles O25: an AMO writes what its operation makes of the old number (`amo_of_op`, `performAmo_steps`), and a fold the greater magnitude,
because FP32 encodings are in the order of their values (`foldMax_eq`). -/
theorem atomicsUpdateTheirHome : Obligations.AtomicsUpdateTheirHome := by
  intro s h
  refine ⟨fun i d a b o w uns host f hop => ?_, fun i a b rel hi => ?_, fun i x ho hb => directStep_held ho hb,
    fun i x u w v hb hrel hp => directStep_performs hb hrel hp⟩
  · intro n low
    obtain ⟨hexec, hn, horder, rfl, rfl, hnew⟩ := amo_of_op hop
    have hsize : n = 4 ∨ n = 8 := by
      by_cases hw : w = 1
      · exact .inr (if_pos hw)
      · exact .inl (if_neg hw)
    refine ⟨fun hc hr => ?_, fun x v t hk hlog hwait ht hlost => ?_⟩
    · have hbody : ∀ t, exec i t = .next (runWord i (homeWord i a (fun t => t.direct .amo i (t.rx a) (t.rx b) (t.rx d)
          (t.now + if (orderingOf i).1 then 2 else 0)) (some d)) t) := hexec
      refine ⟨fun ha => ?_, fun ha hcheck hva hhost => ?_, fun ha => ?_⟩
      · exact exec_homeWord_misaligned hbody hr (hn ▸ ha)
      · exact exec_homeWord_host hbody hr hc (hn ▸ ha) (.inl rfl) rfl (hn ▸ hcheck) hva hhost
      · have hissue := exec_homeWord_issues hbody hr (hn ▸ ha)
        rw [State.direct, horder, State.due_now] at hissue
        exact hissue
    · have hperform : s.performDirect h i x = s.performAmo h i x := by simp only [State.performDirect, hk]
      rw [hperform]
      refine ⟨fun k hp => performAmo_poisoned hn hlog hwait ht hlost hp, fun hp => ?_⟩
      intro answer old word signed
      refine ⟨fun ha => performAmo_error hn hlog hwait ht hlost hp ha, fun new ha hlen hval => ?_⟩
      have hword : (bitsOfBytes (8 * n) old.1).toNat = word := toNat_homeRead answer.2 t.key t.loc n
      have hbytes : new = (amoNew i (8 * n) (bitsOfBytes (8 * n) old.1) (x.data.setWidth (8 * n)) (x.old.setWidth (8 * n))).map
          fun new => bytesOfBits new n :=
        eq_map_bytesOf hlen (by rw [hval, hnew, hword, BitVec.toNat_setWidth, BitVec.toNat_setWidth])
      have hbrings := amo_brings hsize (bitsOfBytes (8 * n) old.1) (amoUnsigned i)
      rw [hword] at hbrings
      rw [performAmo_steps hn hlog hwait ht hlost hp (u := answer.2) rfl ha, hbrings, hbytes]
  · have hbytes : scalarBytes i = 4 := by rcases hi with ⟨rfl, -⟩ | ⟨rfl, -⟩ <;> rfl
    have horder : (orderingOf i).1 = rel := by rcases hi with ⟨rfl, rfl⟩ | ⟨rfl, rfl⟩ <;> rfl
    have hhost : hostAtomic i = false := by rcases hi with ⟨rfl, -⟩ | ⟨rfl, -⟩ <;> rfl
    refine ⟨fun hc hr => ?_, fun x v hk hwait => ?_⟩
    · have hbody : ∀ t, exec i t = .next (runWord i (homeWord i a (fun t => t.direct .fold i (t.rx a) (t.rx b) 0
          (t.now + if (orderingOf i).1 then 2 else 0)) none) t) := by
        rcases hi with ⟨rfl, -⟩ | ⟨rfl, -⟩ <;> exact fun _ => rfl
      refine ⟨fun ha => ?_, fun ha hcheck hva => ?_, fun ha => ?_⟩
      · exact exec_homeWord_misaligned hbody hr (hbytes ▸ ha)
      · exact exec_homeWord_host hbody hr hc (hbytes ▸ ha) (.inr rfl) rfl (hbytes ▸ hcheck) hva hhost
      · have hissue := exec_homeWord_issues hbody hr (hbytes ▸ ha)
        rw [State.direct, horder, State.due_now] at hissue
        exact hissue
    · have hperform : s.performDirect h i x = s.performFold h x := by simp only [State.performDirect, hk]
      rw [hperform]
      exact ⟨fun t ht hlost => ⟨fun hp => ⟨_, performFold_poisoned hwait ht hlost hp⟩,
          fun hp bs hl hv => performFold_steps hl hwait ht hlost hp hv⟩,
        fun e ht he bs hl hv => ⟨_, performFold_logs hl hwait hv ht he⟩⟩

end Sys2Proof.Proofs
end

section
/-! PROOFS. Requests of the host and the peers (11 R257, R269, R270, 17 R363, R365, 21 R421): what every request meets first, and
reads, writes and atomics at their homes. -/

namespace Sys2Proof.Machine

variable {s : State} {x fn loc n : Nat}

/-! ## What a request meets (17 R363, 21 R421, R430) -/

theorem hostEvent_answers (h : s.page.boot.toNat < 0x80) (f : State → State) : hostEvent s f = .next (f s) := by
  rw [hostEvent, State.answers, decide_eq_true h, if_pos rfl]

theorem inPage_iff (loc n : Nat) : inPage loc n = true ↔ 2 ^ 46 ≤ loc ∧ loc + n ≤ 2 ^ 46 + 2 ^ 20 := by
  rw [inPage, decide_eq_true_iff, pageBase]

theorem partitionOf_virtual (h : 1 ≤ fn) (h' : fn ≤ 16) : partitionOf fn = some (fn - 1) := if_pos ⟨h, h'⟩

theorem fnMay_iff (fn loc n : Nat) :
    State.fnMay fn loc n = true ↔ ¬ (1 ≤ fn ∧ fn ≤ 16 ∧ ¬ (2 ^ 46 ≤ loc ∧ loc + n ≤ 2 ^ 46 + 2 ^ 20)) := by
  have hnone : (partitionOf fn).isNone = true ↔ ¬ (1 ≤ fn ∧ fn ≤ 16) := by
    rw [partitionOf]
    split <;> simp [*]
  rw [State.fnMay, Bool.or_eq_true, inPage_iff, hnone]
  tauto

/-- A request that is served as f says of a state that answers. -/
theorem State.request_eq {f : State → State} {served : Option State} (h : f s = served.getD s) :
    s.request fn loc n f = Claims.request s fn loc n served := by
  rw [State.request, Claims.request, List.contains_eq_mem, h]
  by_cases hfrozen : fn ∈ s.frozenFns
  · rw [decide_eq_true hfrozen, if_pos rfl, if_pos hfrozen]
  · rw [decide_eq_false hfrozen, if_neg Bool.false_ne_true, if_neg hfrozen]
    by_cases hmay : State.fnMay fn loc n = true
    · rw [hmay, Bool.not_true, if_neg Bool.false_ne_true, if_neg ((fnMay_iff ..).1 hmay)]
    · rw [Bool.eq_false_iff.2 hmay, Bool.not_false, if_pos rfl, if_pos (not_not.1 (mt (fnMay_iff ..).2 hmay)), State.freezeFn,
        List.contains_eq_mem, decide_eq_false hfrozen, if_neg Bool.false_ne_true]

/-! ## Where a range lies -/

theorem inPage_of_home (h : loc + n ≤ Config.hbmBytes) : inPage loc n = false :=
  Bool.eq_false_iff.2 fun hp => by
    have hsmall : Config.hbmBytes < 2 ^ 46 := by decide
    have := ((inPage_iff ..).1 hp).1
    omega

theorem inHbm_of_home (h : loc + n ≤ Config.hbmBytes) : inHbm loc n = true := decide_eq_true h

theorem inHbm_of_far (h : 2 ^ 46 ≤ loc) : inHbm loc n = false :=
  decide_eq_false fun hn => by
    have hsmall : Config.hbmBytes < 2 ^ 46 := by decide
    omega

theorem inPage_of_outside (h : 2 ^ 50 ≤ loc) : inPage loc n = false :=
  Bool.eq_false_iff.2 fun hp => by
    have := ((inPage_iff ..).1 hp).2
    omega

theorem State.requestWaits_none (h : s.lineOwners = []) (loc n : Nat) : s.requestWaits loc n = false := by
  rw [State.requestWaits, State.blocked, State.lineBusy_none h, Bool.and_false]

/-! ## Requests as events (R421, R430) -/

theorem exec_hostPeerRead (s : State) (x n : Nat) :
    exec (.hostPeerRead x n) s = .next (s.requestRead (x / 2 ^ 64) (x % 2 ^ 64) n) := rfl

theorem exec_hostPeerWrite (hb : s.page.boot.toNat < 0x80) (x : Nat) (bs : List Byte) :
    exec (.hostPeerWrite x bs) s = .next (s.requestWrite (x / 2 ^ 64) (x % 2 ^ 64) bs) :=
  hostEvent_answers hb fun s => s.requestWrite _ _ bs

theorem exec_hostPeerAtomic (hb : s.page.boot.toNat < 0x80) (op : PeerAtomic) (x : Nat) (wide : Bool) (y c : Dword) :
    exec (.hostPeerAtomic op x wide y c) s = .next (s.requestAtomic (x / 2 ^ 64) op (x % 2 ^ 64) wide y c) :=
  hostEvent_answers hb fun s => s.requestAtomic _ op _ wide y c

/-! ## Reads (R269) -/

theorem State.requestRead_home (hb : s.page.boot.toNat < 0x80) (h : loc + n ≤ Config.hbmBytes) (ho : s.lineOwners = []) :
    s.requestRead fn loc n =
      Claims.request s fn loc n (some { s with hostAnswer := [], reading := if n = 0 then none else some (loc, n) }) :=
  State.request_eq <| by
    simp [inPage_of_home h, inHbm_of_home h, State.requestWaits_none ho, State.answers, hb]

theorem State.requestRead_outside (hb : s.page.boot.toNat < 0x80) (h : 2 ^ 50 ≤ loc) :
    s.requestRead fn loc n = Claims.request s fn loc n (some { s with hostAnswer := s.bytes loc n }) :=
  State.request_eq <| by
    have hfar : inHbm loc n = false := inHbm_of_far (by omega)
    have hout : isOutside loc = true := decide_eq_true h
    simp [inPage_of_outside h, hfar, State.requestWaits, hout, State.answers, hb]

theorem State.requestRead_page (h : 2 ^ 46 ≤ loc) (h' : loc + n ≤ 2 ^ 46 + 2 ^ 20) :
    s.requestRead fn loc n = Claims.request s fn loc n
      (some { s with hostAnswer := (List.range n).map fun i => s.fnByte fn (loc - 2 ^ 46 + i) }) :=
  State.request_eq <| if_pos ((inPage_iff ..).2 ⟨h, h'⟩)

/-! ### The page as a function reads it (R421, R425) -/

theorem State.fnByte_management (s : State) (off : Nat) : s.fnByte 0 off = s.pageByte off := rfl

section
variable (h : 1 ≤ fn) (h' : fn ≤ 16)
include h h'

theorem State.fnQueue_virtual (q : Nat) :
    s.fnQueue fn q = (s.queues.get? q).any fun d => decide (s.ctxPart d.ctx = fn - 1) := by
  rw [State.fnQueue, partitionOf_virtual h h']

theorem State.fnByte_virtual (off : Nat) : s.fnByte fn off =
    if 0x58000 ≤ off ∧ off < 0x5A000 ∧ s.fnQueue fn ((off - 0x58000) / 8) then s.pageByte off else 0 := by
  rw [State.fnByte, partitionOf_virtual h h']

end

/-- A byte of a read that is under way comes from its home (R257). -/
theorem State.readingStep_reads {a : Nat} (hr : s.reading = some (a, n)) (hb : s.blocked a 1 = false) :
    s.readingStep = some { (s.settle a 1).touch a 1 with
      hostAnswer := s.hostAnswer ++ [((s.settle a 1).touch a 1).plain 0 a], reading := if n ≤ 1 then none else some (a + 1, n - 1) } := by
  rw [State.readingStep, hr]
  simp only [hb, Bool.false_eq_true, if_false]
  rfl

theorem State.readingStep_waits {a : Nat} (hr : s.reading = some (a, n)) (hb : s.blocked a 1 = true) : s.readingStep = none := by
  rw [State.readingStep, hr]
  exact if_pos hb

/-! ## Writes (R257, R269) -/

theorem State.requestWrite_home {bs : List Byte} (h : loc + bs.length ≤ Config.hbmBytes) :
    s.requestWrite fn loc bs = Claims.request s fn loc bs.length
      (some { s with incoming := s.incoming ++ bs.mapIdx fun i b => (loc + i, b) }) :=
  State.request_eq <| if_pos (inHbm_of_home h)

theorem State.requestWrite_outside {bs : List Byte} (h : 2 ^ 50 ≤ loc) :
    s.requestWrite fn loc bs = Claims.request s fn loc bs.length (some (s.setBytes loc (bs.map some))) :=
  State.request_eq <| by
    have hfar : inHbm loc bs.length = false := inHbm_of_far (by omega)
    have hout : isOutside loc = true := decide_eq_true h
    simp [hfar, hout]

theorem State.requestWrite_page {bs : List Byte} (h : 2 ^ 46 ≤ loc) (h' : loc + bs.length ≤ 2 ^ 46 + 2 ^ 20) :
    s.requestWrite fn loc bs = Claims.request s fn loc bs.length none :=
  State.request_eq <| by
    have hin : isOutside loc = false := decide_eq_false (by omega)
    simp [inHbm_of_far h, hin]

/-! ## Atomics (R270, R365) -/

/-- A word of a line is poisoned where its line is. -/
theorem State.poisonAt_aligned (hn : n = 4 ∨ n = 8) (ha : loc % n = 0) (s : State) :
    (s.poisonAt loc n).isSome = decide (loc / 128 ∈ s.poison) := by
  have hline : ∀ i, i < n → (loc + i) / 128 = loc / 128 := fun i hi => by
    rcases hn with rfl | rfl <;> omega
  have hpos : 0 < n := by omega
  rw [State.poisonAt, Bool.eq_iff_iff, decide_eq_true_iff]
  split
  next he => simp [List.isEmpty_iff.1 he]
  next =>
    rw [List.find?_isSome]
    constructor
    · rintro ⟨i, hi, hp⟩
      rw [hline i (List.mem_range.1 hi)] at hp
      simpa using hp
    · exact fun hp => ⟨0, List.mem_range.2 hpos, by simpa using hp⟩

/-- What an atomic stores, by the numbers that it goes by. -/
def atomicNew (op : PeerAtomic) (n old operand compare : Nat) : Option Nat :=
  match op with
  | .fetchAdd => some ((old + operand) % 2 ^ (8 * n))
  | .swap => some (operand % 2 ^ (8 * n))
  | .cas => if old = compare % 2 ^ (8 * n) then some (operand % 2 ^ (8 * n)) else none

/-- What an atomic stores, by the bit vectors that the model goes by. -/
def atomicWord (op : PeerAtomic) (n : Nat) (old : BitVec (8 * n)) (operand compare : Dword) : Option (BitVec (8 * n)) :=
  match op with
  | .fetchAdd => some (old + operand.setWidth (8 * n))
  | .swap => some (operand.setWidth (8 * n))
  | .cas => if old = compare.setWidth (8 * n) then some (operand.setWidth (8 * n)) else none

theorem toNat_atomicWord (op : PeerAtomic) (n : Nat) (old : BitVec (8 * n)) (operand compare : Dword) :
    (atomicWord op n old operand compare).map BitVec.toNat = atomicNew op n old.toNat operand.toNat compare.toNat := by
  cases op with
  | fetchAdd => simp [atomicWord, atomicNew, BitVec.toNat_add]
  | swap => simp [atomicWord, atomicNew]
  | cas =>
    have heq : old = compare.setWidth (8 * n) ↔ old.toNat = compare.toNat % 2 ^ (8 * n) := by
      rw [← BitVec.toNat_inj, BitVec.toNat_setWidth]
    simp only [atomicWord, atomicNew, heq]
    split <;> simp

/-- The read-modify-write of an atomic at the home. -/
def State.atomicAt (s : State) (op : PeerAtomic) (loc n : Nat) (operand compare : Dword) : State :=
  let old := s.homeRead 0 loc n
  { (match atomicWord op n (bitsOfBytes (8 * n) old.1) operand compare with
      | some w => if (old.2.poisonAt loc n).isSome then old.2 else old.2.homeStore 0 loc ((bytesOfBits w n).map some)
      | none => old.2) with hostAnswer := old.1 }

section
variable {op : PeerAtomic} {wide : Bool} {y c : Dword} (hn : n = if wide then 8 else 4)
include hn

theorem State.requestAtomic_eq : s.requestAtomic fn op loc wide y c = s.request fn loc n fun s =>
    if s.requestWaits loc n || !inHbm loc n || decide (loc % n ≠ 0) then s else s.atomicAt op loc n y c := by
  subst hn
  cases op <;> rfl

theorem State.requestAtomic_misaligned (ha : loc % n ≠ 0) :
    s.requestAtomic fn op loc wide y c = Claims.request s fn loc n none := by
  rw [State.requestAtomic_eq hn]
  exact State.request_eq <| by simp [ha]

theorem State.requestAtomic_home (ha : loc % n = 0) (h : loc + n ≤ Config.hbmBytes) (ho : s.lineOwners = []) :
    s.requestAtomic fn op loc wide y c = Claims.request s fn loc n (some (s.atomicAt op loc n y c)) := by
  rw [State.requestAtomic_eq hn]
  exact State.request_eq <| by simp [State.requestWaits_none ho, inHbm_of_home h, ha]

end

/-- The number that an atomic stores comes from the old number. -/
theorem State.map_toNat_atomicWord (s : State) (op : PeerAtomic) (loc n : Nat) (y c : Dword) :
    (atomicWord op n (bitsOfBytes (8 * n) (s.homeRead 0 loc n).1) y c).map BitVec.toNat =
      atomicNew op n (Claims.littleEndian (s.homeRead 0 loc n).1) y.toNat c.toNat := by
  rw [toNat_atomicWord, toNat_homeRead]

section
variable {op : PeerAtomic} {y c : Dword} (hn : n = 4 ∨ n = 8) (ha : loc % n = 0)
include hn ha

theorem State.atomicAt_keeps (h : loc / 128 ∈ (s.homeRead 0 loc n).2.poison ∨
      atomicNew op n (Claims.littleEndian (s.homeRead 0 loc n).1) y.toNat c.toNat = none) :
    s.atomicAt op loc n y c = { (s.homeRead 0 loc n).2 with hostAnswer := (s.homeRead 0 loc n).1 } := by
  rw [← State.map_toNat_atomicWord, Option.map_eq_none_iff] at h
  have hp := State.poisonAt_aligned hn ha (s.homeRead 0 loc n).2
  simp only [State.atomicAt, hp, decide_eq_true_iff]
  split
  next hw => rw [if_pos (h.resolve_right (by rw [hw]; exact Option.some_ne_none _))]
  next => rfl

theorem State.atomicAt_stores {bs : List Byte} (h : loc / 128 ∉ (s.homeRead 0 loc n).2.poison) (hl : bs.length = n)
    (hw : atomicNew op n (Claims.littleEndian (s.homeRead 0 loc n).1) y.toNat c.toNat = some (Claims.littleEndian bs)) :
    s.atomicAt op loc n y c =
      { (s.homeRead 0 loc n).2.homeStore 0 loc (bs.map some) with hostAnswer := (s.homeRead 0 loc n).1 } := by
  rw [← State.map_toNat_atomicWord, Option.map_eq_some_iff] at hw
  obtain ⟨w, hword, hnat⟩ := hw
  have hp := State.poisonAt_aligned hn ha (s.homeRead 0 loc n).2
  simp only [State.atomicAt, hp, decide_eq_true_iff, hword, if_neg h, eq_bytesOf hl hnat.symm]

end

/-! ## Flush reads (R270) -/

theorem exec_flushReadCompletion (s : State) (fn : Nat) :
    exec (.flushReadCompletion fn) s = .next (s.flushed (fun _ => true) fun p => p == fn) := rfl

/-- What stays posted to the function of a flush read is on its way still. -/
theorem State.flushed_posted {e : HartKey × Hart} (he : e ∈ (s.flushed (fun _ => true) fun p => p == fn).harts)
    (hp : fn ∈ e.2.posted) :
    ∃ f ∈ (s.flushed (fun _ => true) fun p => p == fn).flight,
      f.hart = e.1 ∧ isOutside (8 * f.word) = true ∧ functionOf (8 * f.word) = fn := by
  obtain ⟨o, -, rfl⟩ := List.mem_map.1 he
  obtain ⟨-, hkept⟩ := List.mem_filter.1 hp
  simp only [beq_self_eq_true, Bool.not_true, Bool.false_or, List.any_eq_true, Bool.and_eq_true, beq_iff_eq] at hkept
  obtain ⟨f, hf, ⟨⟨⟨-, hout⟩, -⟩, hhart⟩, hfn⟩ := hkept
  exact ⟨f, hf, hhart, hout, hfn⟩

/-- With nothing on its way, all that was posted to the function is acknowledged. -/
theorem State.flushed_empty (h : s.flight = []) : s.flushed (fun _ => true) (fun p => p == fn) =
    { s with harts := s.harts.map fun e => (e.1, { e.2 with posted := e.2.posted.filter (· ≠ fn) }) } := by
  have hsettle : ∀ p, s.settleWhen p = s := fun p => by
    rw [State.settleWhen, h]
    exact (congrArg (fun l => { s with flight := l }) h.symm :)
  have hother : (fun p => !(p == fn)) = fun p => decide (p ≠ fn) := funext fun p => by rw [decide_not, beq_eq_decide]
  simp only [State.flushed, hsettle, h, List.any_nil, Bool.or_false, if_true, hother]

end Sys2Proof.Machine
end

section
/-! PROOFS. What an append of the host leaves of the chains (12 R277 to R280): its walks, its checks and its stores change none. -/

namespace Sys2Proof.Machine

variable {s t u : State}

/-! ## States with the same chains -/

/-- Two states with the same chains. -/
structure State.KeepsChains (s t : State) : Prop where
  chain : ∀ core i, t.chain core i = s.chain core i

theorem State.KeepsChains.refl (s : State) : s.KeepsChains s := ⟨fun _ _ => rfl⟩

theorem State.KeepsChains.trans (h : s.KeepsChains t) (h' : t.KeepsChains u) : s.KeepsChains u :=
  ⟨fun core i => (h'.chain core i).trans (h.chain core i)⟩

theorem State.KeepsChains.of_cores (h : t.cores = s.cores) : s.KeepsChains t :=
  ⟨fun core i => by rw [State.chain, State.chain, State.core, State.core, h]⟩

theorem State.Stores.keepsChains (h : s.Stores t) : s.KeepsChains t := .of_cores h.cores

theorem State.choose_keepsChains (s : State) (n : Nat) : s.KeepsChains (s.choose n).2 :=
  .of_cores (congrArg State.cores (s.choose_same n) :)

theorem State.modSteward_keepsChains (s : State) (core : CoreId) (f : Steward → Steward) : s.KeepsChains (s.modSteward core f) := by
  refine ⟨fun c i => ?_⟩
  by_cases hc : c = core
  · subst hc
    rw [State.chain, State.core_modSteward_same, State.chain]
  · rw [State.chain, State.core_modSteward_other _ _ hc, State.chain]

/-! ## Translations (09 R218, R219) -/

theorem State.keepsChains_of_tableRead {core pa n : Nat} {r : Except Nat Nat} (h : s.tableRead core pa n = (r, t)) : s.KeepsChains t :=
  (State.tableRead_stores_of h).keepsChains

theorem State.walk_keepsChains (s : State) (core ctx va : Nat) : s.KeepsChains (s.walk core ctx va).2 := by
  unfold State.walk
  split
  · exact .refl s
  split
  · exact State.keepsChains_of_tableRead ‹_›
  refine .trans (State.keepsChains_of_tableRead ‹_›) ?_
  split
  · exact .refl _
  split
  · exact State.keepsChains_of_tableRead ‹_›
  refine .trans (State.keepsChains_of_tableRead ‹_›) ?_
  split
  · exact .refl _
  split
  · exact State.keepsChains_of_tableRead ‹_›
  refine .trans (State.keepsChains_of_tableRead ‹_›) ?_
  split
  · exact .refl _
  split
  · exact .refl _
  split
  · exact State.keepsChains_of_tableRead ‹_›
  refine .trans (State.keepsChains_of_tableRead ‹_›) ?_
  simp only
  split
  · exact State.modSteward_keepsChains ..
  · exact .refl _

theorem State.enterTlb_keepsChains (s : State) (core unit ctx va : Nat) (e : TlbEntry) : s.KeepsChains (s.enterTlb core unit ctx va e) := by
  simp only [State.enterTlb]
  split
  · exact .of_cores rfl
  · split
    · exact .of_cores rfl
    · exact (s.choose_keepsChains _).trans (.of_cores rfl)

theorem State.translateAfresh_keepsChains (s : State) (core unit ctx va : Nat) (use : Access) :
    s.KeepsChains (s.translateAfresh core unit ctx va use).2 := by
  have hw := s.walk_keepsChains core ctx va
  unfold State.translateAfresh
  rcases hwalk : s.walk core ctx va with ⟨c | e, u⟩ <;> rw [hwalk] at hw
  · exact hw
  · simp only
    split
    · exact hw
    · refine hw.trans ?_
      simp only [State.fillTlbs]
      split
      · exact State.enterTlb_keepsChains ..
      · exact (State.enterTlb_keepsChains ..).trans (State.enterTlb_keepsChains ..)

theorem State.translate_keepsChains (s : State) (core unit ctx : Nat) (va : Dword) (use : Access) :
    s.KeepsChains (s.translate core unit ctx va use).2 := by
  have keep : ∀ (t : State) (e : TlbEntry) (a : Nat), t.KeepsChains (if e.unit = unit then t else t.enterTlb core unit ctx a e) := by
    intro t e a
    split
    · exact .refl t
    · exact State.enterTlb_keepsChains ..
  simp only [State.translate]
  split
  · exact .refl s
  · split
    · exact State.translateAfresh_keepsChains ..
    · split
      · exact keep ..
      · split
        · exact (s.choose_keepsChains _).trans (keep ..)
        · exact (s.choose_keepsChains _).trans (State.translateAfresh_keepsChains ..)

theorem State.translateParts_keepsChains (s : State) (r : Reach) (use : Access) (lax : Bool) (ps : List (Dword × Nat)) :
    s.KeepsChains (s.translateParts r use lax ps).2 := by
  induction ps generalizing s with
  | nil => exact .refl s
  | cons p ps ih =>
    have ht := s.translate_keepsChains r.core r.unit r.ctx p.1 use
    rcases hq : s.translate r.core r.unit r.ctx p.1 use with ⟨q, t⟩
    rw [hq] at ht
    have hr := ht.trans (ih t)
    rcases hl : t.translateParts r use lax ps with ⟨l, u⟩
    rw [hl] at hr
    cases q with
    | error m =>
      simp only [State.translateParts, hq, hl]
      split
      · cases l <;> exact hr
      · exact ht
    | ok v =>
      simp only [State.translateParts, hq, hl]
      cases l <;> exact hr

/-! ## Stores that are no hart's (09 R198, 11 R254) -/

theorem State.writeParts_stores (s : State) (va : Dword) (ps : List (Option Target × Nat)) (bs : List (Option Byte)) :
    s.Stores (s.writeParts none va ps bs).2 := by
  induction ps generalizing s va bs with
  | nil => exact .refl s
  | cons p ps ih =>
    obtain ⟨o, n⟩ := p
    cases o with
    | none => exact ih ..
    | some t =>
      simp only [State.writeParts]
      split
      · exact ih ..
      · exact (s.homeStore_stores ..).trans (ih ..)

theorem State.arrayStore_cores (s : State) (core off : Nat) (bs : List (Option Byte)) : (s.arrayStore core off bs).cores = s.cores := by
  have hwrite : (s.arrayWrite core off bs).cores = s.cores := by
    induction bs generalizing s off with
    | nil => rfl
    | cons o bs ih =>
      cases o with
      | none => exact ih ..
      | some b => exact ih ..
  rw [State.arrayStore]
  split <;> exact hwrite

theorem State.storeBytes_keepsChains (s : State) (r : Reach) (use : Access) (va : Dword) (bs : List (Option Byte)) :
    s.KeepsChains (s.storeBytes r none use va bs).2 := by
  have hp := s.translateParts_keepsChains r use false (pagesOf va bs.length)
  simp only [State.storeBytes]
  split
  · split
    next h => rwa [h] at hp
    next h =>
      rw [h] at hp
      exact hp.trans (State.writeParts_stores ..).keepsChains
  · split
    · exact .of_cores (s.arrayStore_cores ..)
    · exact (s.typedStore_stores ..).keepsChains

theorem State.hostStores_keepsChains (s : State) (r : Reach) (l : List (Dword × List Byte)) : s.KeepsChains (s.hostStores r l) := by
  induction l generalizing s with
  | nil => exact .refl s
  | cons p l ih => exact (s.storeBytes_keepsChains ..).trans (ih _)

theorem State.checkAccess_keepsChains (s : State) (r : Reach) (use : Access) (lax strip : Bool) (va : Dword) (n count : Nat) :
    s.KeepsChains (s.checkAccess r use lax strip va n count).2 := by
  have hp := s.translateParts_keepsChains r use lax (pagesOf va (n * count))
  simp only [State.checkAccess]
  split
  · exact .refl s
  · split
    · split <;> (rename_i h; rwa [h] at hp)
    · exact .refl s

theorem State.storesMiss_keepsChains (s : State) (r : Reach) (l : List (Dword × List Byte)) : s.KeepsChains (s.storesMiss r l).2 := by
  induction l generalizing s with
  | nil => exact .refl s
  | cons p l ih =>
    have hc := s.checkAccess_keepsChains r .store false false p.1 p.2.length 1
    rw [State.storesMiss]
    split
    next h => rwa [h] at hc
    next h =>
      rw [h] at hc
      exact hc.trans (ih _)

theorem State.keepsChains_of_storesMiss {r : Reach} {l : List (Dword × List Byte)} {m : Option Miss} (h : s.storesMiss r l = (m, t)) :
    s.KeepsChains t := by
  have := s.storesMiss_keepsChains r l
  rwa [h] at this

/-! ## Appending a list (12 R277 to R280, 21 R427, R437) -/

theorem length_cmdsOf (rm : BitVec 3) (team : Option (Nat × Nat)) (hart : Option HartKey) (seq : BitVec 32) (follows : Bool)
    (l : List Header) : (cmdsOf rm team hart seq follows l).length = l.length := by
  induction l generalizing seq follows with
  | nil => rfl
  | cons r l ih => rw [cmdsOf, List.length_cons, ih, List.length_cons]

theorem Chain.stage_handOver {c : Chain} {ready : Nat} {k : Cmd} (h : k ∈ (c.handOver ready).cmds) : k.stage ≠ .batch := by
  obtain ⟨o, -, rfl⟩ := List.mem_map.1 h
  split
  · exact nofun
  · assumption

section
variable {r : Reach} {expl : Bool} {core : CoreId} {i : Fin 17} {list : Dword}

/-- An append that is made has read its list whole, and the chain has room for it; its commands follow those of the chain and are handed
over. -/
theorem State.hostAppend_ok {n : BitVec 32} {w : State} (h : s.hostAppend r expl core i list = some (.ok (n, w))) :
    ∃ l y ready, hostList (hostReader r) expl 257 s list [] = .ok l y ∧ (y.chain core i).pend + l.length ≤ 4096 ∧
      n = (y.chain core i).appSeq + BitVec.ofNat 32 l.length ∧
      w.chain core i = ((y.chain core i).append (cmdsOf 0 none none ((y.chain core i).appSeq + 1) false l)).handOver ready := by
  unfold State.hostAppend at h
  split at h
  · exact nomatch h
  · exact nomatch h
  next l y hl =>
  simp only at h
  split at h
  · exact nomatch h
  next hroom =>
  split at h
  · exact nomatch h
  next z hz =>
  obtain ⟨rfl, rfl⟩ := Prod.mk.inj (Except.ok.inj (Option.some.inj h))
  refine ⟨l, y, z.now + 30, hl, Nat.not_lt.1 hroom, by rw [length_cmdsOf], ?_⟩
  rw [State.chain_modChain_same, (State.hostStores_keepsChains ..).chain, (State.keepsChains_of_storesMiss hz).chain]

theorem State.hostAppend_refused {why : Nat} (h : hostList (hostReader r) expl 257 s list [] = .refused why) :
    s.hostAppend r expl core i list = some (.error why) := by
  rw [State.hostAppend, h]

theorem State.hostAppend_full {l : List Header} {y : State} (h : hostList (hostReader r) expl 257 s list [] = .ok l y)
    (hfull : 4096 < (y.chain core i).pend + l.length) : s.hostAppend r expl core i list = some (.error 5) := by
  rw [State.hostAppend, h]
  exact if_pos hfull

theorem hostList_misplaced (read : State → Dword → Nat → Acc (List Byte)) (f : Nat)
    (h : list.toNat % 64 ≠ 0 ∨ 2 ^ 60 ≤ list.toNat) : hostList read expl (f + 1) s list [] = .refused 1 := by
  rw [hostList]
  refine if_pos (h.imp_right fun hfar => ?_)
  rw [inH_iff]
  exact Nat.not_lt.2 hfar

end

end Sys2Proof.Machine
end

section
/-! PROOFS. Doorbells, append registers and the system append (12 R280, 21 R425, R427, R437). -/

namespace Sys2Proof.Machine

variable {s w : State} {fn q : Nat} {d : Queue} {f : Queue → State}

/-! ## The queues of a function (R425) -/

theorem State.fnQueue_iff (hq : s.queues.get? q = some d) : s.fnQueue fn q = true ↔ Claims.fnQueue s fn d := by
  rw [State.fnQueue, partitionOf, Claims.fnQueue]
  by_cases hv : 1 ≤ fn ∧ fn ≤ 16
  · simp only [if_pos hv, hq, Option.any_some, decide_eq_true_iff]
    omega
  · simp only [if_neg hv, beq_iff_eq]
    omega

theorem State.fnWrite_unbound (hq : s.queues.get? q = none) : s.fnWrite fn q f = s := by
  rw [State.fnWrite, hq]
  exact ite_self s

section
variable (hq : s.queues.get? q = some d)
include hq

theorem State.fnWrite_dropped (h : fn ∈ s.frozenFns ∨ ¬ Claims.fnQueue s fn d) : s.fnWrite fn q f = s := by
  refine if_pos ?_
  rw [Bool.or_eq_true, List.contains_iff_mem, Bool.not_eq_true', ← Bool.not_eq_true, State.fnQueue_iff hq]
  exact h

theorem State.fnWrite_served (hf : fn ∉ s.frozenFns) (hd : Claims.fnQueue s fn d) : s.fnWrite fn q f = f d := by
  rw [State.fnWrite, if_neg, hq]
  rw [Bool.or_eq_true, List.contains_iff_mem, Bool.not_eq_true', ← Bool.not_eq_true, State.fnQueue_iff hq]
  tauto

end

/-! ## Doorbells (R280) -/

theorem exec_doorbell (hb : s.page.boot.toNat < 0x80) (x : Nat) : exec (.doorbell x) s = .next (s.fnWrite (x / 2 ^ 64) (x % 2 ^ 64)
    fun q => s.modChain q.core (Fin.ofNat 17 q.chain) fun c => c.handOver (s.now + 30)) :=
  hostEvent_answers hb fun s => s.fnWrite _ _ fun q => s.modChain q.core (Fin.ofNat 17 q.chain) fun c => c.handOver (s.now + 30)

/-! ## Append registers (R437) -/

theorem exec_appendRegister (hb : s.page.boot.toNat < 0x80) (x : Nat) (list : Dword) :
    exec (.appendRegister x list) s = .next (s.appendWrite (x / 2 ^ 64) (x % 2 ^ 64) list) :=
  hostEvent_answers hb fun s => s.appendWrite _ _ list

/-- How a queue's engine reaches the H-space of its context. -/
def Queue.reach (d : Queue) : Reach := { kind := .copy, core := d.core, ctx := d.ctx, unit := Agency.unit .copy }

/-- The append register of a queue while it asks for a list. -/
def State.asks (s : State) (q : Nat) (list : Dword) : State :=
  { s with appends := s.appends.put q { (s.appends.get? q).getD {} with asking := some list } }

/-- How an append of a queue ends: its number is reported, or why there is none. -/
def State.appendEnds (s : State) (q : Nat) (old : Append) : Except Nat (BitVec 32 × State) → State
  | .ok (n, w) => { w with appends := w.appends.put q { seq := n } }
  | .error why => { s with appends := s.appends.put q { old with asking := none, refused := true, why := why } }

@[simp] theorem State.asks_queues (s : State) (q : Nat) (list : Dword) : (s.asks q list).queues = s.queues := rfl

@[simp] theorem State.get?_asks (s : State) (q : Nat) (list : Dword) :
    (s.asks q list).appends.get? q = some { (s.appends.get? q).getD {} with asking := some list } := FMap.get?_put_same ..

theorem State.queueAppend_eq (s : State) (d : Queue) (list : Dword) :
    s.queueAppend d list = s.hostAppend d.reach true d.core (Fin.ofNat 17 d.chain) list := rfl

theorem State.queueAppendStep_asks {list : Dword} (hq : s.queues.get? q = some d) : (s.asks q list).queueAppendStep q =
    ((s.asks q list).hostAppend d.reach true d.core (Fin.ofNat 17 d.chain) list).map
      ((s.asks q list).appendEnds q ((s.appends.get? q).getD {})) := by
  simp only [State.queueAppendStep, State.get?_asks, State.asks_queues, hq, Option.getD_some, State.queueAppend_eq]
  rcases (s.asks q list).hostAppend d.reach true d.core (Fin.ofNat 17 d.chain) list with _ | why | ⟨n, w⟩ <;> rfl

section
variable {list : Dword} (hq : s.queues.get? q = some d)
include hq

theorem State.appendWrite_dropped (h : fn ∈ s.frozenFns ∨ ¬ Claims.fnQueue s fn d) : s.appendWrite fn q list = s :=
  State.fnWrite_dropped hq h

variable (hf : fn ∉ s.frozenFns) (hd : Claims.fnQueue s fn d)
include hf hd

theorem State.appendWrite_busy (ha : ((s.appends.get? q).getD {}).asking ≠ none) : s.appendWrite fn q list = s := by
  rw [State.appendWrite, State.fnWrite_served hq hf hd]
  exact if_pos (Option.isSome_iff_ne_none.2 ha)

variable (ha : ((s.appends.get? q).getD {}).asking = none)
include ha

/-- A list that is asked for is appended, or refused, or asked for still. -/
theorem State.appendWrite_begins : s.appendWrite fn q list =
    (((s.asks q list).hostAppend d.reach true d.core (Fin.ofNat 17 d.chain) list).map
      ((s.asks q list).appendEnds q ((s.appends.get? q).getD {}))).getD (s.asks q list) := by
  rw [← State.queueAppendStep_asks hq, State.appendWrite, State.fnWrite_served hq hf hd]
  simp only [ha, Option.isSome_none, Bool.false_eq_true, if_false]
  rfl

theorem State.appendWrite_waits (h : (s.asks q list).hostAppend d.reach true d.core (Fin.ofNat 17 d.chain) list = none) :
    s.appendWrite fn q list = s.asks q list := by
  rw [State.appendWrite_begins hq hf hd ha, h]
  rfl

theorem State.appendWrite_refused {why : Nat}
    (h : (s.asks q list).hostAppend d.reach true d.core (Fin.ofNat 17 d.chain) list = some (.error why)) :
    s.appendWrite fn q list = { s.asks q list with
      appends := (s.asks q list).appends.put q { (s.appends.get? q).getD {} with refused := true, why := why } } := by
  rw [State.appendWrite_begins hq hf hd ha, h]
  simp only [Option.map_some, Option.getD_some, State.appendEnds, ha]

theorem State.appendWrite_made {n : BitVec 32}
    (h : (s.asks q list).hostAppend d.reach true d.core (Fin.ofNat 17 d.chain) list = some (.ok (n, w))) :
    s.appendWrite fn q list = { w with appends := w.appends.put q { seq := n } } := by
  rw [State.appendWrite_begins hq hf hd ha, h]
  rfl

end

/-- BUSY of an append register. -/
theorem State.getLsbD_appendWord {v : Append} (h : s.appends.get? q = some v) : (s.appendWord q).getLsbD 33 = v.asking.isSome := by
  have hseq := v.seq.isLt
  rw [State.appendWord, h, BitVec.getLsbD_ofNat, Nat.testBit_eq_decide_div_mod_eq]
  cases v.refused <;> cases v.asking <;> simp <;> omega

/-! ## The system append (R427) -/

/-- A command of the host control page: its argument bytes are written, and it runs unless another is in progress. -/
theorem hostCommand_answers (hb : s.page.boot.toNat < 0x80) (low mid : Nat) (addr : Dword) (f : State → State) :
    hostCommand s (commandArgs low mid addr) f =
      .next (if s.page.go then Claims.commanded s low mid addr else f (Claims.commanded s low mid addr)) :=
  hostEvent_answers hb _

theorem exec_systemAppend (hb : s.page.boot.toNat < 0x80) (core : CoreId) (list : Dword) : exec (.systemAppend core list) s =
    .next (if s.page.go then Claims.commanded s core 0 list else (Claims.commanded s core 0 list).systemAppend core list) :=
  hostCommand_answers hb core 0 list fun s => s.systemAppend core list

/-- The command block while a system append goes on. -/
def State.appending (s : State) (core : CoreId) (list : Dword) : State :=
  { s with page := { s.page with append := some (core, list), op := 11, go := true } }

/-- The command block at the end of a system append. -/
def State.appended (s : State) (status : Byte) : State :=
  { s with page := { s.page with append := none, op := 11, go := false, status := status } }

/-- How a system append ends: with its status. -/
def State.systemAppendEnds (s : State) : Except Nat (BitVec 32 × State) → State
  | .ok (_, w) => w.appended 0
  | .error _ => s.appended 2

theorem State.systemAppendStep_appending (s : State) (core : CoreId) (list : Dword) : (s.appending core list).systemAppendStep =
    ((s.appending core list).hostAppend (stewardReach core) true core 16 list).map (s.appending core list).systemAppendEnds := by
  have happend : (s.appending core list).page.append = some (core, list) := rfl
  simp only [State.systemAppendStep, happend, State.chainAppend]
  rcases (s.appending core list).hostAppend (stewardReach core) true core 16 list with _ | why | ⟨n, w⟩ <;> rfl

section
variable {core : CoreId} {list : Dword}

theorem State.systemAppend_malformed (h : ¬ Claims.coreExists core) : s.systemAppend core list = s.pageDone 11 1 := by
  refine if_pos ?_
  rwa [Bool.not_eq_true', ← Bool.not_eq_true, validCore_iff]

/-- A list for a core's system chain is appended, or refused, or kept back. -/
theorem State.systemAppend_begins (hc : Claims.coreExists core) : s.systemAppend core list =
    (((s.appending core list).hostAppend (stewardReach core) true core 16 list).map (s.appending core list).systemAppendEnds).getD
      (s.appending core list) := by
  rw [← State.systemAppendStep_appending, State.systemAppend, (validCore_iff core).2 hc]
  rfl

end

end Sys2Proof.Machine
end

section
/-! PROOFS. Requests of the host and the peers, all of them (11 R257, R269, R270, 12 R280, 21 R421, R425, R427, R437). -/

namespace Sys2Proof.Proofs

open Sys2Proof.Machine

theorem hostRequestsTakeEffect : Parts.HostRequestsTakeEffect := by
  refine ⟨fun s x n => ?reads, fun s => ?reading, fun s x bs hb => ?writes, fun s x op wide y c hb => ?atomics, fun s fn => ?flushes,
    fun s x hb => ?doorbells, fun s x list d hb => ?registers, fun s q v h => State.getLsbD_appendWord h,
    fun s core list hb => ?system, fun s w r expl core i list n h => ?appended⟩
  case reads =>
    intro fn a answered
    refine ⟨fun hb hn ho => ?_, fun hb ha => ?_, fun ha hn => ?_⟩
    · exact congrArg Host.Outcome.next (State.requestRead_home hb hn ho)
    · exact congrArg Host.Outcome.next (State.requestRead_outside hb ha)
    · have hbyte : ∀ i, i < n → ((List.range n).map fun i => s.fnByte fn (a - 2 ^ 46 + i))[i]? = some (s.fnByte fn (a - 2 ^ 46 + i)) :=
        fun i hi => by simp [hi]
      refine ⟨(List.range n).map fun i => s.fnByte fn (a - 2 ^ 46 + i), by simp,
        congrArg Host.Outcome.next (State.requestRead_page ha hn), fun hfn i hi => ?_, fun h h' i hi => ?_⟩
      · rw [hbyte i hi, hfn, State.fnByte_management]
      · intro off
        rw [hbyte i hi, State.fnByte_virtual h h', State.fnQueue_virtual h h']
        refine ⟨fun d hl hr hq hp => ?_, fun hout => ?_, fun d hq hp => ?_⟩
        · rw [if_pos ⟨hl, hr, by rw [hq, Option.any_some, decide_eq_true hp]⟩]
        · rw [if_neg fun hc => hout ⟨hc.1, hc.2.1⟩]
        · rw [hq, Option.any_some, decide_eq_false hp, if_neg fun hc => Bool.false_ne_true hc.2.2]
  case reading =>
    refine ⟨fun h => by rw [State.readingStep, h], fun a n h => ⟨State.readingStep_waits h, State.readingStep_reads h⟩⟩
  case writes =>
    intro fn a answered
    have hexec : exec (.hostPeerWrite x bs) s = .next (s.requestWrite fn a bs) := exec_hostPeerWrite hb x bs
    exact ⟨fun h => hexec.trans (congrArg _ (State.requestWrite_home h)), fun h => hexec.trans (congrArg _ (State.requestWrite_outside h)),
      fun h h' _ => hexec.trans (congrArg _ (State.requestWrite_page h h'))⟩
  case atomics =>
    intro fn a n answered
    have hexec : exec (.hostPeerAtomic op x wide y c) s = .next (s.requestAtomic fn op a wide y c) := exec_hostPeerAtomic hb op x wide y c
    have hn : n = 4 ∨ n = 8 := by cases wide <;> simp [n]
    refine ⟨fun ha => hexec.trans (congrArg _ (State.requestAtomic_misaligned rfl ha)), fun ha hhome ho => ?_⟩
    intro u l old new
    have hnew : new = atomicNew op n old y.toNat c.toNat := by cases op <;> rfl
    rw [State.requestAtomic_home rfl ha hhome ho] at hexec
    refine ⟨fun hp bs hl hw => ?_, fun hkeep => ?_⟩
    · rw [State.atomicAt_stores hn ha hp hl (hnew ▸ hw)] at hexec
      exact hexec
    · rw [State.atomicAt_keeps hn ha (hnew ▸ hkeep)] at hexec
      exact hexec
  case flushes =>
    refine ⟨_, exec_flushReadCompletion s fn, fun e he hp => State.flushed_posted he hp, fun h => ?_⟩
    rw [State.flushed_empty h]
    exact ⟨rfl, rfl⟩
  case doorbells =>
    intro fn q
    rw [exec_doorbell hb]
    refine ⟨fun hq => congrArg _ (State.fnWrite_unbound hq), fun d hq => ⟨fun h => congrArg _ (State.fnWrite_dropped hq h), ?_⟩⟩
    intro hf hd
    refine ⟨_, congrArg _ (State.fnWrite_served hq hf hd), rfl, ?_⟩
    rw [State.chain_modChain_same, Chain.handOver]
  case registers =>
    intro fn q hq i r old begun refuses
    have hexec : exec (.appendRegister x list) s = .next (s.appendWrite fn q list) := exec_appendRegister hb x list
    refine ⟨fun h => hexec.trans (congrArg _ (State.appendWrite_dropped hq h)),
      fun hf hd ha => hexec.trans (congrArg _ (State.appendWrite_busy hq hf hd ha)), fun hf hd ha => ?_⟩
    have hrefused : ∀ {why}, begun.hostAppend r true d.core i list = some (.error why) → refuses why :=
      fun h => hexec.trans (congrArg _ (State.appendWrite_refused hq hf hd ha h))
    refine ⟨fun h => ?_, fun why h => ?_, fun l w h hw hfull => ?_, fun h => ?_, fun n w h => ?_⟩
    · exact hrefused (State.hostAppend_refused (hostList_misplaced _ _ h))
    · exact hrefused (State.hostAppend_refused h)
    · exact hrefused (State.hostAppend_full h (hw ▸ hfull))
    · exact hexec.trans (congrArg _ (State.appendWrite_waits hq hf hd ha h))
    · exact hexec.trans (congrArg _ (State.appendWrite_made hq hf hd ha h))
  case system =>
    intro u begun ended
    rw [exec_systemAppend hb]
    refine ⟨fun hgo => by rw [if_pos hgo], fun hgo hc => ?_, fun hgo hc hc' => ?_⟩
    · rw [hgo, if_neg Bool.false_ne_true, State.systemAppend_malformed hc]
    · rw [hgo, if_neg Bool.false_ne_true, State.systemAppend_begins ⟨hc, hc'⟩]
      refine ⟨fun h => ?_, fun why h => ?_, fun n w h => ?_⟩
      all_goals
        replace h : (State.appending u core list).hostAppend (stewardReach core) true core 16 list = _ := h
        rw [h]
        rfl
  case appended =>
    obtain ⟨l, y, ready, hl, hroom, hn, hw⟩ := State.hostAppend_ok h
    refine ⟨⟨l, y, hl, hroom, hn⟩, ?_, fun k hk => ?_⟩
    · rw [hw, hn]
      exact congrArg (fun n => (y.chain core i).appSeq + BitVec.ofNat 32 n) (length_cmdsOf ..)
    · rw [hw] at hk
      exact Chain.stage_handOver hk

end Sys2Proof.Proofs
end

section
/-! PROOFS. The bytes of writes of the host and the peers, on their way to their homes (11 R257, R265, R269, 17 R365). -/

namespace Sys2Proof.Machine

variable {s : State} {loc line : Nat} {rest : List (Nat × Byte)} {bs : List Byte}

theorem State.incomingStep_byte {b : Byte} (h : s.incoming = (loc, b) :: rest) (hp : loc / 128 ∉ s.poison) :
    s.incomingStep = if s.blocked loc 1 then none else some (({ s with incoming := rest } : State).homeStore 0 loc [some b]) := by
  simp [State.incomingStep, h, hp]

/-! ## Bytes with their places -/

theorem map_fst_placed (loc : Nat) (bs : List Byte) :
    (bs.mapIdx fun i b => (loc + i, b)).map Prod.fst = (List.range bs.length).map fun i => loc + i :=
  List.ext_getElem (by simp) fun i _ _ => by simp

theorem map_snd_placed (loc : Nat) (bs : List Byte) :
    ((bs.mapIdx fun i b => (loc + i, b)).map fun (p : Nat × Byte) => some p.2) = bs.map some :=
  List.ext_getElem (by simp) fun i _ _ => by simp

/-! ## A whole line (R365) -/

theorem State.incomingStep_line (hl : bs.length = 128) (h : s.incoming = bs.mapIdx (fun i b => (128 * line + i, b)) ++ rest)
    (hp : line ∈ s.poison) :
    s.incomingStep = if s.blocked (128 * line) 128 then none
      else some (({ s with incoming := rest } : State).homeStore 0 (128 * line) (bs.map some)) := by
  have hplaced : (bs.mapIdx fun i b => (128 * line + i, b)).length = 128 := List.length_mapIdx.trans hl
  have htake : s.incoming.take 128 = bs.mapIdx fun i b => (128 * line + i, b) := by rw [h, List.take_left' hplaced]
  have hdrop : s.incoming.drop 128 = rest := by rw [h, List.drop_left' hplaced]
  have hhere : 128 * line / 128 = line := by omega
  have hback : line * 128 = 128 * line := Nat.mul_comm ..
  obtain ⟨b, l, rfl⟩ := List.exists_cons_of_length_eq_add_one hl
  have hfirst : s.incoming = (128 * line, b) :: (l.mapIdx (fun i b => (128 * line + (i + 1), b)) ++ rest) := by
    rw [h, List.mapIdx_cons]
    rfl
  rw [State.incomingStep, hfirst]
  simp only [← hfirst, htake, hdrop, hhere, hback, map_fst_placed, map_snd_placed, hl, List.contains_iff_mem.2 hp, decide_true,
    Bool.and_self, if_true]

/-- A line that is written whole is poisoned no longer (R365). -/
theorem State.homeStore_cleans (hl : bs.length = 128) (s : State) (key : Nat) :
    line ∉ (s.homeStore key (128 * line) (bs.map some)).poison := by
  intro h
  have hwhole : wholeLine (128 * line) (bs.map some) line = true := by
    rw [wholeLine, List.length_map, hl, Nat.sub_self, List.drop_zero, List.take_of_length_le (by rw [List.length_map, hl])]
    simp
  have hkept := (List.mem_filter.1 h).2
  rw [hwhole] at hkept
  exact Bool.false_ne_true hkept

end Sys2Proof.Machine

namespace Sys2Proof.Proofs

open Sys2Proof.Machine

theorem hostWritesArrive : Parts.HostWritesArrive := by
  intro s
  refine ⟨fun h => by rw [State.incomingStep, h], fun loc b rest h hp => ?_, fun line rest bs hl h hp => ?_⟩
  · rw [State.incomingStep_byte h hp]
    exact ⟨fun hb => if_pos hb, fun hb => if_neg (hb ▸ Bool.false_ne_true)⟩
  · rw [State.incomingStep_line hl h hp]
    exact ⟨fun hb => if_pos hb, fun hb => ⟨_, if_neg (hb ▸ Bool.false_ne_true), State.homeStore_cleans hl _ 0, rfl⟩⟩

end Sys2Proof.Proofs
end

section
/-! PROOFS. The tables and registers of the host control page (15 R334, 18 R371 to R373, 21 R426): which bits a table keeps, and what
its writes do or refuse. -/

namespace Sys2Proof.Machine

variable {s : State} {ctx q : Nat}

/-! ## The bits that a table keeps -/

/-- The mask of k bits from bit lo on. -/
def bitField (n lo k : Nat) : BitVec n := (BitVec.allOnes k).setWidth n <<< lo

theorem getLsbD_bitField {n j : Nat} (hj : j < n) (lo k : Nat) : (bitField n lo k).getLsbD j = decide (lo ≤ j ∧ j < lo + k) := by
  rw [bitField, BitVec.getLsbD_shiftLeft, BitVec.getLsbD_setWidth, BitVec.getLsbD_allOnes, Bool.eq_iff_iff]
  simp only [Bool.and_eq_true, decide_eq_true_iff, Bool.not_eq_true', decide_eq_false_iff_not]
  omega

theorem contextMask_eq : contextMask = bitField 512 320 4 ||| bitField 512 224 32 ||| bitField 512 200 12 ||| bitField 512 128 66 |||
    bitField 512 64 32 ||| bitField 512 13 33 ||| bitField 512 0 1 := by decide +kernel

theorem poolMask_eq : poolMask = bitField 128 96 12 ||| bitField 128 64 17 ||| bitField 128 13 39 ||| bitField 128 0 1 := by
  decide

theorem getLsbD_contextMask {j : Nat} (hj : j < 512) : contextMask.getLsbD j =
    (decide (j = 0) || decide (13 ≤ j ∧ j < 46) || decide (64 ≤ j ∧ j < 96) || decide (128 ≤ j ∧ j < 194) ||
      decide (200 ≤ j ∧ j < 212) || decide (224 ≤ j ∧ j < 256) || decide (320 ≤ j ∧ j < 324)) := by
  simp only [contextMask_eq, BitVec.getLsbD_or, getLsbD_bitField hj]
  rw [Bool.eq_iff_iff]
  simp only [Bool.or_eq_true, decide_eq_true_iff]
  omega

theorem getLsbD_poolMask {j : Nat} (hj : j < 128) : poolMask.getLsbD j =
    (decide (j = 0) || decide (13 ≤ j ∧ j < 52) || decide (64 ≤ j ∧ j < 81) || decide (96 ≤ j ∧ j < 108)) := by
  simp only [poolMask_eq, BitVec.getLsbD_or, getLsbD_bitField hj]
  rw [Bool.eq_iff_iff]
  simp only [Bool.or_eq_true, decide_eq_true_iff]
  omega

/-! ## The context table (R371) -/

/-- What R371 asks of an entry. -/
theorem contextBroken_iff (ctx : Nat) (e : BitVec 512) : contextBroken ctx (e &&& contextMask) = true ↔
    Claims.bitsFrom e.toNat 193 1 = 1 ∧ (Claims.bitsFrom e.toNat 64 12 ≠ ctx ∨ Claims.bitsFrom e.toNat 128 7 ≠ 0) := by
  have hpart : ∀ {lo n : Nat}, contextMask.extractLsb' lo n = BitVec.allOnes n →
      (e &&& contextMask).extractLsb' lo n = e.extractLsb' lo n := fun h => by
    rw [BitVec.extractLsb'_and, h, BitVec.and_allOnes]
  have hvalid : (e &&& contextMask).getLsbD 193 = e.getLsbD 193 := by
    rw [BitVec.getLsbD_and, getLsbD_contextMask (by decide)]
    exact Bool.and_true _
  rw [contextBroken, hvalid, hpart (by decide +kernel), hpart (by decide +kernel), getLsbD_eq_bitsFrom, ← extractLsb'_ne_zero_iff,
    ← toNat_extractLsb'_eq_bitsFrom e 64 12]
  simp only [Bool.and_eq_true, Bool.or_eq_true, bne_iff_ne, decide_eq_true_iff]

/-- A context's entry once it is written (R372). -/
def State.contextWritten (s : State) (ctx : Nat) (e : BitVec 512) : State :=
  let s : State := { s with contexts := if e = 0 then s.contexts.erase ctx else s.contexts.put ctx e }
  let s := s.modCtx ctx fun c => { c with failed := false, saved := false }
  if e.getLsbD 193 then s else s.dropPools ctx

section
variable (s : State) (ctx : Nat) (e : BitVec 512)

@[simp] theorem State.contextWritten_contexts :
    (s.contextWritten ctx e).contexts = if e = 0 then s.contexts.erase ctx else s.contexts.put ctx e := by
  simp only [State.contextWritten]
  split <;> rfl

@[simp] theorem State.contextWritten_mem : (s.contextWritten ctx e).mem = s.mem := by
  simp only [State.contextWritten]
  split <;> rfl

@[simp] theorem State.contextWritten_harts : (s.contextWritten ctx e).harts = s.harts := by
  simp only [State.contextWritten]
  split <;> rfl

theorem State.ctxState_contextWritten :
    (s.contextWritten ctx e).ctxState ctx = { s.ctxState ctx with failed := false, saved := false } := by
  have hstates : (s.contextWritten ctx e).ctxStates =
      (s.modCtx ctx fun c => { c with failed := false, saved := false }).ctxStates := by
    simp only [State.contextWritten]
    split <;> rfl
  rw [State.ctxState, hstates]
  exact State.ctxState_modCtx_same ..

theorem State.ctxEntry_contextWritten_same : (s.contextWritten ctx e).ctxEntry ctx = e := by
  rw [State.ctxEntry, State.contextWritten_contexts]
  split
  next h => rw [FMap.get?_erase_same, h, Option.getD_none]
  next => rw [FMap.get?_put_same, Option.getD_some]

theorem State.ctxEntry_contextWritten_other {c : Nat} (hc : c ≠ ctx) : (s.contextWritten ctx e).ctxEntry c = s.ctxEntry c := by
  rw [State.ctxEntry, State.contextWritten_contexts]
  split
  · rw [FMap.get?_erase_other _ hc, State.ctxEntry]
  · rw [FMap.get?_put_other _ _ hc, State.ctxEntry]

end

theorem exec_contextTableWrite (hb : s.page.boot.toNat < 0x80) (ctx : Nat) (e : BitVec 512) : exec (.contextTableWrite ctx e) s =
    .next (if 4096 ≤ ctx ∨ contextBroken ctx (e &&& contextMask) ∨ s.hasState ctx ∨ (s.ctxState ctx).spill.isSome then s
      else s.contextWritten ctx (e &&& contextMask)) :=
  hostEvent_answers hb fun s =>
    if 4096 ≤ ctx ∨ contextBroken ctx (e &&& contextMask) ∨ s.hasState ctx ∨ (s.ctxState ctx).spill.isSome then s
    else s.contextWritten ctx (e &&& contextMask)

/-! ## Queue descriptors (R373) -/

/-- The queue that a descriptor describes. -/
def descQueue (d : BitVec 128) : Queue :=
  { ctx := Claims.bitsFrom d.toNat 1 12, weight := Claims.bitsFrom d.toNat 13 8, core := Claims.bitsFrom d.toNat 21 9,
    chain := Claims.bitsFrom d.toNat 30 4 }

/-- What binding a queue asks for: a free chain of a core of the context's partition. -/
def State.QueueFits (s : State) (q : Nat) (v : Queue) : Prop :=
  (s.chain v.core (Fin.ofNat 17 v.chain)).ctx = none ∧ v.ctx ≠ 0 ∧ v.weight ≠ 0 ∧ Claims.coreExists v.core ∧ s.ctxValid v.ctx = true ∧
    (s.pair (pairOfCore v.core)).part = some (s.ctxPart v.ctx) ∧ s.queues.get? q = none

/-- A queue that is bound to its chain. -/
def State.withQueue (s : State) (q : Nat) (v : Queue) : State :=
  ({ s with queues := s.queues.put q v, spareQueues := s.spareQueues.erase q } : State).modChain v.core (Fin.ofNat 17 v.chain)
    fun _ => { ctx := some v.ctx }

/-- What keeps a queue from removal: its work, or its context's state under the turn. -/
def State.QueueKept (s : State) (q : Nat) (v : Queue) : Prop :=
  let p := s.partition (s.ctxPart v.ctx)
  0 < (s.chain v.core (Fin.ofNat 17 v.chain)).pend ∨ p.incoming = some q ∨
    p.turn = some q ∧ (s.hasState v.ctx = true ∨ p.switch ≠ none)

/-- The fields of a descriptor stay, while it is not valid. -/
def State.withSpare (s : State) (q : Nat) (d : BitVec 128) : State := { s with spareQueues := s.spareQueues.put q (queueFields d) }

/-- A queue that is removed releases its chain, and loses the turn. -/
def State.withoutQueue (s : State) (q : Nat) (v : Queue) (d : BitVec 128) : State :=
  let t := (({ s with queues := s.queues.erase q } : State).modChain v.core (Fin.ofNat 17 v.chain) fun _ => {}).withSpare q d
  if (s.partition (s.ctxPart v.ctx)).turn = some q then
    t.modPartition (s.ctxPart v.ctx) fun p => { p with turn := none, idle := true }
  else t

/-- A queue fits where the model does not refuse it. -/
theorem State.refusesQueue_iff (s : State) (q : Nat) (v : Queue) :
    ((s.chain v.core (Fin.ofNat 17 v.chain)).ctx.isSome || decide (v.ctx = 0 ∨ v.weight = 0) || !validCore v.core ||
      !s.ctxValid v.ctx || !s.coreOfPart v.ctx v.core || (s.queues.get? q).isSome) = true ↔ ¬ s.QueueFits q v := by
  simp only [Bool.or_eq_true, decide_eq_true_iff, Bool.not_eq_true', ← Bool.not_eq_true, Option.isSome_iff_ne_none, validCore_iff,
    State.coreOfPart, Bool.and_eq_true, State.QueueFits]
  tauto

theorem State.queueKept_iff (s : State) (q : Nat) (v : Queue) :
    (s.hasWork v || decide ((s.partition (s.ctxPart v.ctx)).incoming = some q) ||
      ((s.partition (s.ctxPart v.ctx)).turn == some q && (s.hasState v.ctx || (s.partition (s.ctxPart v.ctx)).switch.isSome))) = true ↔
      s.QueueKept q v := by
  simp only [Bool.or_eq_true, Bool.and_eq_true, decide_eq_true_iff, beq_iff_eq, Option.isSome_iff_ne_none, State.hasWork,
    State.QueueKept, or_assoc]

section
variable (hb : s.page.boot.toNat < 0x80) {d : BitVec 128} {v : Queue}
include hb

theorem exec_queueDescriptorWrite_far (h : 1024 ≤ q) : exec (.queueDescriptorWrite q d) s = .next s := by
  show execQueueDescriptorWrite q d s = _
  rw [execQueueDescriptorWrite, hostEvent_answers hb]
  exact congrArg _ (if_pos h)

variable (hq : q < 1024)
include hq

theorem exec_queueDescriptorWrite_refused (hv : d.getLsbD 0 = true) (hf : ¬ s.QueueFits q (descQueue d)) :
    exec (.queueDescriptorWrite q d) s = .next s := by
  show execQueueDescriptorWrite q d s = _
  rw [execQueueDescriptorWrite, hostEvent_answers hb]
  simp only [if_neg (Nat.not_le.2 hq), hv, if_true, toNat_extractLsb'_eq_bitsFrom]
  exact congrArg _ (if_pos ((s.refusesQueue_iff q (descQueue d)).2 hf))

theorem exec_queueDescriptorWrite_bound (hv : d.getLsbD 0 = true) (hf : s.QueueFits q (descQueue d)) :
    exec (.queueDescriptorWrite q d) s = .next (s.withQueue q (descQueue d)) := by
  show execQueueDescriptorWrite q d s = _
  rw [execQueueDescriptorWrite, hostEvent_answers hb]
  simp only [if_neg (Nat.not_le.2 hq), hv, if_true, toNat_extractLsb'_eq_bitsFrom]
  exact congrArg _ (if_neg (mt (s.refusesQueue_iff q (descQueue d)).1 (not_not_intro hf)))

variable (hv : d.getLsbD 0 = false)
include hv

theorem exec_queueDescriptorWrite_spare (hn : s.queues.get? q = none) :
    exec (.queueDescriptorWrite q d) s = .next (s.withSpare q d) := by
  show execQueueDescriptorWrite q d s = _
  rw [execQueueDescriptorWrite, hostEvent_answers hb]
  simp only [if_neg (Nat.not_le.2 hq), hv, Bool.false_eq_true, if_false, hn]
  rfl

theorem exec_queueDescriptorWrite_kept (hn : s.queues.get? q = some v) (hk : s.QueueKept q v) :
    exec (.queueDescriptorWrite q d) s = .next s := by
  show execQueueDescriptorWrite q d s = _
  rw [execQueueDescriptorWrite, hostEvent_answers hb]
  simp only [if_neg (Nat.not_le.2 hq), hv, Bool.false_eq_true, if_false, hn]
  exact congrArg _ (if_pos ((s.queueKept_iff q v).2 hk))

theorem exec_queueDescriptorWrite_removed (hn : s.queues.get? q = some v) (hk : ¬ s.QueueKept q v) :
    exec (.queueDescriptorWrite q d) s = .next (s.withoutQueue q v d) := by
  show execQueueDescriptorWrite q d s = _
  rw [execQueueDescriptorWrite, hostEvent_answers hb]
  simp only [if_neg (Nat.not_le.2 hq), hv, Bool.false_eq_true, if_false, hn]
  exact congrArg _ (if_neg (mt (s.queueKept_iff q v).1 hk))

end

/-! ### What the page reads of a queue that is not valid -/

theorem getLsbD_queueFields (d : BitVec 128) {j : Nat} (hj : j < 128) :
    ((queueFields d).setWidth 128).getLsbD j = (d.getLsbD j && decide (1 ≤ j ∧ j < 34)) := by
  rw [queueFields, BitVec.getLsbD_setWidth, BitVec.getLsbD_and, BitVec.getLsbD_setWidth, BitVec.getLsbD_not, Bool.eq_iff_iff]
  cases d.getLsbD j with
  | false => simp
  | true =>
    simp [hj]
    omega

theorem State.queueWord_spare {d : BitVec 128} (hq : s.queues.get? q = none) (hs : s.spareQueues.get? q = some (queueFields d)) {j : Nat}
    (hj : j < 128) : (s.queueWord q).getLsbD j = (d.getLsbD j && decide (1 ≤ j ∧ j < 34)) := by
  rw [State.queueWord, hq, hs, ← getLsbD_queueFields d hj, Option.getD_some]

section
variable (s : State) (q : Nat) (v : Queue) (d : BitVec 128)

@[simp] theorem State.withoutQueue_queues : (s.withoutQueue q v d).queues = s.queues.erase q := by
  simp only [State.withoutQueue]
  split <;> rfl

@[simp] theorem State.withoutQueue_spareQueues : (s.withoutQueue q v d).spareQueues = s.spareQueues.put q (queueFields d) := by
  simp only [State.withoutQueue]
  split <;> rfl

theorem State.chain_withoutQueue : (s.withoutQueue q v d).chain v.core (Fin.ofNat 17 v.chain) = {} := by
  have hcores : (s.withoutQueue q v d).cores = (s.modChain v.core (Fin.ofNat 17 v.chain) fun _ => {}).cores := by
    simp only [State.withoutQueue]
    split <;> rfl
  rw [(State.KeepsChains.of_cores hcores).chain, State.chain_modChain_same]

theorem State.turn_withoutQueue : ((s.withoutQueue q v d).partition (s.ctxPart v.ctx)).turn ≠ some q := by
  simp only [State.withoutQueue]
  split
  · rw [State.partition_modPartition_same]
    exact nofun
  · assumption

end

/-! ## Registers (15 R334, 21 R426) -/

theorem exec_registerWrite_devnum (s : State) (v : Dword) : exec (.registerWrite 0x0008 v) s =
    .next (if s.ports.any fun p => decide (p ≠ 0) then s else { s with page := { s.page with devnum := v.setWidth 3 } }) := rfl

theorem exec_registerWrite_plimit (s : State) (v : Dword) : exec (.registerWrite 0x0018 v) s =
    .next (if 1000 ≤ v.toNat ∧ v.toNat ≤ 8500 then { s with page := { s.page with plimit := v.toNat } } else s) := rfl

theorem exec_registerWrite_devtime (s : State) (v : Dword) : exec (.registerWrite 0x0010 v) s = .next s := rfl

/-- Half h of a pool descriptor is written: the low one, or the high one. -/
def poolHalf (old : BitVec 128) (h : Nat) (v : Dword) : BitVec 128 :=
  (if h = 0 then old.extractLsb' 64 64 ++ v else v ++ old.extractLsb' 0 64) &&& poolMask

theorem exec_registerWrite_pool (hb : s.page.boot.toNat < 0x80) {n h : Nat} (hn : n < 65536) (hh : h < 2) (v : Dword) :
    exec (.registerWrite (0x100000 + 8 * h + 16 * n) v) s =
      .next { s with poolTable := s.poolTable.put n (poolHalf ((s.poolTable.get? n).getD 0) h v) } := by
  have hindex : (0x100000 + 8 * h + 16 * n - 0x100000) / 16 = n := by omega
  have hhalf : (0x100000 + 8 * h + 16 * n) / 8 % 2 = h := by omega
  have hanswers : s.answers = true := decide_eq_true hb
  show execRegisterWrite _ v s = _
  rw [execRegisterWrite, if_neg (by omega), if_neg (by omega), if_neg (by omega), if_neg (by omega), if_pos ⟨by omega, by omega, hanswers⟩]
  simp only [hindex, hhalf]
  rfl

section
variable (old : BitVec 128) (v : Dword) {j : Nat}

/-- The half that is written holds the value's bits, as far as the table keeps them. -/
theorem getLsbD_poolHalf_low (hj : j < 64) :
    (poolHalf old 0 v).getLsbD j = (v.getLsbD j && (decide (j = 0) || decide (13 ≤ j ∧ j < 52))) := by
  rw [poolHalf, if_pos rfl, BitVec.getLsbD_and, getLsbD_poolMask (by omega), BitVec.getLsbD_append, if_pos hj]
  simp only [decide_eq_false (show ¬ (64 ≤ j ∧ j < 81) by omega), decide_eq_false (show ¬ (96 ≤ j ∧ j < 108) by omega), Bool.or_false]

theorem getLsbD_poolHalf_low_kept (hj : 64 ≤ j) (hj' : j < 128) :
    (poolHalf old 0 v).getLsbD j = (old.getLsbD j && (decide (64 ≤ j ∧ j < 81) || decide (96 ≤ j ∧ j < 108))) := by
  rw [poolHalf, if_pos rfl, BitVec.getLsbD_and, getLsbD_poolMask hj', BitVec.getLsbD_append, if_neg (by omega), BitVec.getLsbD_extractLsb',
    decide_eq_true (by omega), Bool.true_and, Nat.add_sub_cancel' hj]
  simp only [decide_eq_false (show ¬ j = 0 by omega), decide_eq_false (show ¬ (13 ≤ j ∧ j < 52) by omega), Bool.false_or]

theorem getLsbD_poolHalf_high (hj : 64 ≤ j) (hj' : j < 128) :
    (poolHalf old 1 v).getLsbD j = (v.getLsbD (j - 64) && (decide (64 ≤ j ∧ j < 81) || decide (96 ≤ j ∧ j < 108))) := by
  rw [poolHalf, if_neg Nat.one_ne_zero, BitVec.getLsbD_and, getLsbD_poolMask hj', BitVec.getLsbD_append, if_neg (by omega)]
  simp only [decide_eq_false (show ¬ j = 0 by omega), decide_eq_false (show ¬ (13 ≤ j ∧ j < 52) by omega), Bool.false_or]

theorem getLsbD_poolHalf_high_kept (hj : j < 64) :
    (poolHalf old 1 v).getLsbD j = (old.getLsbD j && (decide (j = 0) || decide (13 ≤ j ∧ j < 52))) := by
  rw [poolHalf, if_neg Nat.one_ne_zero, BitVec.getLsbD_and, getLsbD_poolMask (by omega), BitVec.getLsbD_append, if_pos hj,
    BitVec.getLsbD_extractLsb', decide_eq_true hj, Bool.true_and, Nat.zero_add]
  simp only [decide_eq_false (show ¬ (64 ≤ j ∧ j < 81) by omega), decide_eq_false (show ¬ (96 ≤ j ∧ j < 108) by omega), Bool.or_false]

end

end Sys2Proof.Machine
end

section
/-! PROOFS. The host control page takes what is written to its tables and registers (15 R334, 18 R371 to R373, 21 R426). -/

namespace Sys2Proof.Proofs

open Sys2Proof.Machine

theorem hostTablesTakeTheirWrites : Parts.HostTablesTakeTheirWrites := by
  refine ⟨fun s ctx e hb => ?contexts, fun s q d hb => ?queues, fun s v => ?registers, fun s i v hb hi => ?pools⟩
  case contexts =>
    intro n broken busy
    rw [exec_contextTableWrite hb]
    have hrefuses : (4096 ≤ ctx ∨ contextBroken ctx (e &&& contextMask) ∨ s.hasState ctx ∨ (s.ctxState ctx).spill.isSome) ↔
        (broken ∨ busy) := by
      rw [contextBroken_iff, Option.isSome_iff_ne_none, ← or_assoc]
    simp only [hrefuses]
    refine ⟨fun h => by rw [if_pos h], fun hbroken hbusy => ⟨_, by rw [if_neg (not_or.2 ⟨hbroken, hbusy⟩)], fun j hj => ?_,
      fun q hq => State.ctxEntry_contextWritten_other _ _ _ hq, ?_, ?_, State.contextWritten_mem .., State.contextWritten_harts ..⟩⟩
    · rw [State.ctxEntry_contextWritten_same, BitVec.getLsbD_and, getLsbD_contextMask hj]
    · rw [State.ctxState_contextWritten]
    · rw [State.ctxState_contextWritten]
  case queues =>
    intro n ctx core i fits reads
    have hvalid : d.getLsbD 0 = decide (n 0 1 = 1) := getLsbD_eq_bitsFrom d 0
    have hinvalid : n 0 1 = 0 → d.getLsbD 0 = false := fun h => by rw [hvalid, h]; rfl
    refine ⟨fun hv hf => ?_, fun hv hf => ?_, fun hv hq hn => ?_, fun hq => exec_queueDescriptorWrite_far hb hq, fun v hv hq hn => ?_⟩
    · by_cases hq : q < 1024
      · exact exec_queueDescriptorWrite_refused hb hq (hvalid.trans (decide_eq_true hv)) fun h => hf ⟨hq, h⟩
      · exact exec_queueDescriptorWrite_far hb (Nat.not_lt.1 hq)
    · refine ⟨_, descQueue d, exec_queueDescriptorWrite_bound hb hf.1 (hvalid.trans (decide_eq_true hv)) hf.2,
        FMap.get?_put_same .., rfl, rfl, rfl, rfl, rfl, ?_, ?_, rfl⟩
      · exact congrArg Chain.ctx (State.chain_modChain_same ..)
      · exact congrArg Chain.cmds (State.chain_modChain_same ..)
    · exact ⟨_, exec_queueDescriptorWrite_spare hb hq (hinvalid hv) hn,
        fun j hj => State.queueWord_spare (s := s.withSpare q d) hn (FMap.get?_put_same ..) hj, rfl⟩
    · intro c p kept
      refine ⟨fun hk => exec_queueDescriptorWrite_kept hb hq (hinvalid hv) hn hk, fun hk => ⟨_,
        exec_queueDescriptorWrite_removed hb hq (hinvalid hv) hn hk, fun j hj => ?_, ?_, ?_, State.turn_withoutQueue _ _ _ _⟩⟩
      · exact State.queueWord_spare (by simp) (by simp) hj
      · simp
      · rw [State.chain_withoutQueue]
  case registers =>
    rw [exec_registerWrite_devnum, exec_registerWrite_plimit, exec_registerWrite_devtime]
    refine ⟨fun ⟨p, hp, h0⟩ => ?_, fun h => ?_, fun hl hu => by rw [if_pos ⟨hl, hu⟩], fun h => by rw [if_neg (by omega)], rfl⟩
    · rw [if_pos (List.any_eq_true.2 ⟨p, hp, decide_eq_true h0⟩)]
    · rw [if_neg fun hany => ?_]
      obtain ⟨p, hp, h0⟩ := List.any_eq_true.1 hany
      exact of_decide_eq_true h0 (h p hp)
  case pools =>
    intro old
    refine ⟨⟨_, _, exec_registerWrite_pool hb hi (h := 0) (by decide) v, FMap.get?_put_same .., fun j hj => getLsbD_poolHalf_low _ v hj,
        fun j hj hj' => getLsbD_poolHalf_low_kept _ v hj hj', rfl⟩,
      ⟨_, _, exec_registerWrite_pool hb hi (h := 1) (by decide) v, FMap.get?_put_same ..,
        fun j hj hj' => getLsbD_poolHalf_high _ v hj hj', fun j hj => getLsbD_poolHalf_high_kept _ v hj, rfl⟩⟩

/-- Settles O49: each request goes by the checks of its function (`State.request_eq`) to its service, an append leaves the chains up to
the commands that it adds (`State.hostAppend_ok`), and a table keeps the bits of its mask (`getLsbD_contextMask`, `getLsbD_poolMask`). -/
theorem hostRequestsAndTablesTakeEffect : Obligations.HostRequestsAndTablesTakeEffect :=
  ⟨hostRequestsTakeEffect, hostWritesArrive, hostTablesTakeTheirWrites⟩

end Sys2Proof.Proofs
end

section
/-! PROOFS. The pieces of a contiguous move, of the rows of COPY, of FILL, and of a row of GATHER or SCATTER (12 R287, R288). -/

namespace Sys2Proof.Machine

/-! ## One piece (R287) -/

/-- The bytes of the first piece of a move: up to the nearer end of a line. -/
@[reducible] def pieceLen (src dst : Dword) (n : Nat) : Nat :=
  min n (min (sourceLine src - src.toNat % sourceLine src) (128 - dst.toNat % 128))

/-- Bounds the pieces of a move, by the ends of lines ahead of it. -/
def pieceBound (src dst : Dword) (n : Nat) : Nat :=
  (n + src.toNat % 64) / 64 + 1 + if src.toNat % 64 = dst.toNat % 64 then 0 else (n + dst.toNat % 128) / 128

theorem sourceLine_eq (src : Dword) : sourceLine src = if src.toNat / 2 ^ 60 = 10 then 64 else 128 := by
  simp only [sourceLine, selector, beq_iff_eq]

theorem sourceLine_cases (src : Dword) : sourceLine src = 64 ∨ sourceLine src = 128 := by
  rw [sourceLine_eq]
  split <;> simp

/-- A piece has bytes, no more than the move, and ends within the line of its source and of its destination. -/
theorem pieceLen_fits {src dst : Dword} {n : Nat} (hn : n ≠ 0) :
    0 < pieceLen src dst n ∧ pieceLen src dst n ≤ n ∧ dst.toNat % 128 + pieceLen src dst n ≤ 128 ∧
      src.toNat % sourceLine src + pieceLen src dst n ≤ sourceLine src := by
  rcases sourceLine_cases src with h | h <;> rw [pieceLen, h] <;> omega

theorem pieceBound_pos (src dst : Dword) (n : Nat) : 0 < pieceBound src dst n := by
  rw [pieceBound]
  omega

/-- The ends of lines of m bytes that n bytes from a on have ahead, after the first k of them. -/
theorem lines_rest {m n k : Nat} (a : Nat) (hm : 0 < m) (hk : k ≤ n) :
    (n + a % m) / m = (n - k + (a + k) % m) / m + (a % m + k) / m := by
  have hsplit : n + a % m = n - k + (a + k) % m + m * ((a % m + k) / m) := by
    have hdiv := Nat.mod_add_div (a % m + k) m
    rw [Nat.mod_add_mod] at hdiv
    omega
  rw [hsplit, Nat.add_mul_div_left _ _ hm]

theorem lines_pass {m a k : Nat} (hm : 0 < m) (hk : 0 < k) (hend : (a + k) % m = 0) : 0 < (a % m + k) / m :=
  Nat.div_pos (Nat.le_of_dvd (by omega) (Nat.dvd_of_mod_eq_zero (by rw [Nat.mod_add_mod, hend]))) hm

/-- A piece that does not end the move ends at the end of a line, which the rest of the move then has behind it. -/
theorem pieceBound_rest {src dst : Dword} {n : Nat} (h : pieceLen src dst n < n) :
    pieceBound (src + BitVec.ofNat 64 (pieceLen src dst n)) (dst + BitVec.ofNat 64 (pieceLen src dst n)) (n - pieceLen src dst n) <
      pieceBound src dst n := by
  have hends : (src.toNat + pieceLen src dst n) % 64 = 0 ∨ (dst.toNat + pieceLen src dst n) % 128 = 0 := by
    revert h
    rcases sourceLine_cases src with h | h <;> rw [pieceLen, h] <;> omega
  have ⟨hpos, _⟩ := pieceLen_fits (src := src) (dst := dst) (n := n) (by omega)
  generalize pieceLen src dst n = k at *
  have hsrc : (src + BitVec.ofNat 64 k).toNat % 64 = (src.toNat + k) % 64 := by simp only [BitVec.toNat_add, BitVec.toNat_ofNat]; omega
  have hdst : (dst + BitVec.ofNat 64 k).toNat % 128 = (dst.toNat + k) % 128 := by simp only [BitVec.toNat_add, BitVec.toNat_ofNat]; omega
  have halike : (src.toNat + k) % 64 = (dst + BitVec.ofNat 64 k).toNat % 64 ↔ src.toNat % 64 = dst.toNat % 64 := by omega
  simp only [pieceBound, halike, hsrc, hdst, lines_rest src.toNat (by decide : 0 < 64) h.le,
    lines_rest dst.toNat (by decide : 0 < 128) h.le]
  by_cases heq : src.toNat % 64 = dst.toNat % 64
  · have hpass := lines_pass (by decide) hpos (a := src.toNat) (m := 64) (by omega)
    rw [if_pos heq, if_pos heq]
    omega
  · have hpass : 0 < (src.toNat % 64 + k) / 64 + (dst.toNat % 128 + k) / 128 :=
      hends.elim (fun h => Nat.add_pos_left (lines_pass (by decide) hpos h) _) fun h => Nat.add_pos_right _ (lines_pass (by decide) hpos h)
    rw [if_neg heq, if_neg heq]
    omega

theorem pieceBound_le_pieces (src dst : Dword) (n : Nat) : pieceBound src dst n ≤ n / 32 + 4 := by
  rw [pieceBound]
  split <;> omega

theorem pieceBound_le_fill (base : Dword) (n : Nat) : pieceBound base base n ≤ n / 64 + 2 := by
  rw [pieceBound, if_pos rfl]
  omega

/-! ## The pieces of a move (R287) -/

theorem piecesOf_zero (f : Nat) (src dst : Dword) : piecesOf f src dst 0 = [] := by
  cases f <;> rfl

theorem piecesOf_succ {n : Nat} (f : Nat) (src dst : Dword) (hn : n ≠ 0) :
    piecesOf (f + 1) src dst n = { src := src, dst := dst, len := pieceLen src dst n } ::
      piecesOf f (src + BitVec.ofNat 64 (pieceLen src dst n)) (dst + BitVec.ofNat 64 (pieceLen src dst n)) (n - pieceLen src dst n) :=
  if_neg hn

theorem piecesOf_fit {f n : Nat} {src dst : Dword} {p : Piece} (hp : p ∈ piecesOf f src dst n) :
    0 < p.len ∧ p.dst.toNat % 128 + p.len ≤ 128 ∧ p.src.toNat % sourceLine p.src + p.len ≤ sourceLine p.src := by
  induction f generalizing src dst n with
  | zero => cases hp
  | succ f ih =>
    by_cases hn : n = 0
    · rw [hn, piecesOf_zero] at hp
      cases hp
    · rw [piecesOf_succ f src dst hn] at hp
      rcases List.mem_cons.1 hp with rfl | hp
      · obtain ⟨hpos, _, hdst, hsrc⟩ := pieceLen_fits (src := src) (dst := dst) hn
        exact ⟨hpos, hdst, hsrc⟩
      · exact ih hp

/-- The moves of the bytes of a range, in order. -/
@[reducible] def rangeMoves (src dst : Dword) (n : Nat) : List (Dword × Dword) :=
  (List.range n).map fun b => (src + BitVec.ofNat 64 b, dst + BitVec.ofNat 64 b)

theorem rangeMoves_add (src dst : Dword) (k m : Nat) :
    rangeMoves src dst (k + m) = rangeMoves src dst k ++ rangeMoves (src + BitVec.ofNat 64 k) (dst + BitVec.ofNat 64 k) m := by
  simp only [rangeMoves, List.range_add, List.map_append, List.map_map, Function.comp_def, BitVec.ofNat_add, BitVec.add_assoc]

/-- With enough pieces allowed, a move is cut into pieces that move every byte of its range once, in order. -/
theorem byteMoves_piecesOf {f n : Nat} {src dst : Dword} (hf : n = 0 ∨ pieceBound src dst n ≤ f) :
    Claims.byteMoves (piecesOf f src dst n) = rangeMoves src dst n := by
  induction f generalizing src dst n with
  | zero =>
    obtain rfl : n = 0 := hf.resolve_right (Nat.not_le.2 (pieceBound_pos src dst n))
    rfl
  | succ f ih =>
    by_cases hn : n = 0
    · rw [hn, piecesOf_zero]
      rfl
    · have ⟨_, hle, _⟩ := pieceLen_fits (src := src) (dst := dst) hn
      have hrest := ih (src := src + BitVec.ofNat 64 (pieceLen src dst n)) (dst := dst + BitVec.ofNat 64 (pieceLen src dst n))
        (n := n - pieceLen src dst n) (by
          have hbound := hf.resolve_left hn
          rcases hle.lt_or_eq with hlt | heq
          · exact .inr (Nat.le_of_lt_succ ((pieceBound_rest hlt).trans_le hbound))
          · exact .inl (by omega))
      calc Claims.byteMoves (piecesOf (f + 1) src dst n)
        _ = rangeMoves src dst (pieceLen src dst n) ++ _ := by rw [piecesOf_succ f src dst hn]; rfl
        _ = rangeMoves src dst (pieceLen src dst n + (n - pieceLen src dst n)) := by rw [rangeMoves_add, ← hrest]; rfl
        _ = rangeMoves src dst n := by rw [Nat.add_sub_cancel' hle]

theorem byteMoves_pieces (src dst : Dword) (n : Nat) : Claims.byteMoves (pieces src dst n) = rangeMoves src dst n :=
  byteMoves_piecesOf (.inr (pieceBound_le_pieces src dst n))

/-! ## COPY and FILL (R287) -/

theorem recordAddr_eq (r : BitVec 512) (lo : Nat) : recordAddr r lo = BitVec.ofNat 64 (Claims.recordBytes r lo 8) := by
  rw [← recordField_eq, recordField, BitVec.ofNat_toNat, BitVec.setWidth_eq, recordAddr]

/-- COPY moves the bytes of its rows, one row after the other. -/
theorem byteMoves_copyPieces (r : BitVec 512) (base : Dword) : Claims.byteMoves (copyPieces r base) =
    (List.range (copyRows r)).flatMap fun j => rangeMoves (copySrc r j) (copyDst r base j) (copyLen r) := by
  rw [Claims.byteMoves, copyPieces, List.flatMap_assoc]
  exact congrArg (List.flatMap · _) (funext fun j => byteMoves_pieces ..)

/-- A piece of FILL has its offset in the range for its source. -/
theorem fillPieces_bytes (r : BitVec 512) (base : Dword) :
    (fillPieces r base).flatMap (fun p => (List.range p.len).map fun b => (p.dst + BitVec.ofNat 64 b, (p.src.toNat + b) % 8)) =
      (Claims.byteMoves (piecesOf (recordField r 24 8 / 64 + 2) base base (recordField r 24 8))).map fun m =>
        (m.2, (m.1 - base).toNat % 8) := by
  rw [fillPieces, List.flatMap_map, Claims.byteMoves, List.map_flatMap]
  refine congrArg (List.flatMap · _) (funext fun p => ?_)
  rw [List.map_map]
  refine congrArg (List.map · _) (funext fun b => Prod.ext rfl ?_)
  have hoffset : p.src + BitVec.ofNat 64 b - base = (p.src - base) + BitVec.ofNat 64 b := by
    rw [BitVec.sub_eq_add_neg, BitVec.sub_eq_add_neg, BitVec.add_assoc, BitVec.add_assoc, BitVec.add_comm (BitVec.ofNat 64 b)]
  simp only [Function.comp_apply, hoffset, BitVec.toNat_add, BitVec.toNat_ofNat]
  omega

/-! ## Rows of GATHER and SCATTER (R288) -/

variable {k : Cmd} {b : IndexBatch} {i : Nat}

theorem IndexBatch.row_some {r : BitVec 512} {x : Nat} (hi : (b.index[i - b.first]?).join = some x) (hx : x < tableRows r) :
    b.row r i = some x := by
  rw [IndexBatch.row, hi]
  exact if_pos hx

theorem IndexBatch.row_none {r : BitVec 512} (h : ∀ x, (b.index[i - b.first]?).join = some x → tableRows r ≤ x) :
    b.row r i = none := by
  rw [IndexBatch.row]
  split
  case h_1 x hi => exact if_neg (Nat.not_lt.2 (h x hi))
  case h_2 => rfl

/-- A row whose index names a table row moves between that row and the chunks of the packed row. -/
theorem Cmd.piecesOfRow_some {x : Nat} (h : b.row k.record i = some x) : k.piecesOfRow b i =
    (packedChunks k.record k.base i).flatMap fun c =>
      if k.op = 2 then pieces (tableRow k.record x + BitVec.ofNat 64 c.2.2) c.1 c.2.1
      else pieces c.1 (tableRow k.record x + BitVec.ofNat 64 c.2.2) c.2.1 := by
  rw [Cmd.piecesOfRow, h]
  simp only [rowPieces, beq_iff_eq]

theorem Cmd.piecesOfRow_none (h : b.row k.record i = none) : k.piecesOfRow b i =
    if k.op = 2 then (packedChunks k.record k.base i).flatMap fun c => pieces c.1 c.1 c.2.1 else [] := by
  rw [Cmd.piecesOfRow, h]

end Sys2Proof.Machine

namespace Sys2Proof.Proofs

open Sys2Proof.Machine

theorem rowsMoveByTheirIndex : Parts.RowsMoveByTheirIndex := by
  intro k b i _ bytes table chunks index
  have hchunks : packedChunks k.record k.base i = chunks := by
    simp only [packedChunks, rowLayout, rowBytes, recordField_eq]
    rfl
  have htable : ∀ x, tableRow k.record x = table x := fun x => by simp only [tableRow, rowBytes, recordField_eq]; rfl
  have hrows : tableRows k.record = Claims.recordBytes k.record 48 4 := recordField_eq ..
  refine ⟨fun x hi hx => ?_, fun hnone => ?_⟩
  · rw [Cmd.piecesOfRow_some (IndexBatch.row_some hi (hrows ▸ hx)), hchunks, htable]
  · have hrow := Cmd.piecesOfRow_none (k := k) (IndexBatch.row_none fun x hi => hrows ▸ hnone x hi)
    rw [hchunks] at hrow
    exact ⟨fun hop => hrow.trans (if_pos hop), fun hop => hrow.trans (if_neg (by omega))⟩

theorem piecesCoverTheirRange : Parts.PiecesCoverTheirRange := by
  refine ⟨fun src dst n => ⟨byteMoves_pieces src dst n, fun p hp => ?_⟩, fun r base => ?_, fun r base => ?_⟩
  · have hfit := piecesOf_fit hp
    rwa [sourceLine_eq] at hfit
  · rw [byteMoves_copyPieces]
    simp only [rangeMoves, copyRows, copyLen, copySrc, copyDst, recordField_eq, recordAddr_eq, BitVec.ofNat_add, BitVec.ofNat_mul,
      BitVec.add_assoc]
  · rw [fillPieces_bytes, byteMoves_piecesOf (.inr (pieceBound_le_fill ..)), List.map_map, recordField_eq]
    refine congrArg (List.map · _) (funext fun b => Prod.ext rfl ?_)
    simp only [Function.comp_apply, BitVec.add_comm base, BitVec.add_sub_cancel, BitVec.toNat_ofNat]
    omega

/-- Settles O40: each piece ends at the end of a line or of the range (`pieceLen_fits`, `pieceBound_rest`), so that the pieces of
a move are enough for its range (`byteMoves_piecesOf`). -/
theorem rowsAndPiecesCoverTheirRange : Obligations.RowsAndPiecesCoverTheirRange := ⟨rowsMoveByTheirIndex, piecesCoverTheirRange⟩

end Sys2Proof.Proofs
end

section
/-! PROOFS. The CQ words (12 R278 to R283): the chain that a word names, and what each word does on it. -/

namespace Sys2Proof.Machine

variable {s w : State} {c : Reg} {n : Fin 17} {i : Instr} {f : Fin 17 → State → Flow}

/-! ## The chain of a CQ word (R274, R278) -/

theorem chainNumber_eq (hn : n.val = c.toNat) : chainNumber c = n := by
  have hlt : c.toNat < 17 := hn ▸ n.isLt
  rw [chainNumber, dif_pos hlt]
  exact Fin.ext hn.symm

/-- The frame of a CQ word that is ready. -/
theorem chainWord_ready (hn : n.val = c.toNat) (hr : s.Ready i) : chainWord i c f s = .next (State.finish
    (if (s.due.chain s.due.cur.core n).ctx = some s.due.myCtx then f n s.due else .trap s.due causeProt (c.setWidth 64))) := by
  have hlt : ¬ 17 ≤ c.toNat := Nat.not_le.2 (hn ▸ n.isLt)
  rw [chainWord, runWord_ready hr, chainNumber_eq hn, if_neg hlt]

/-- A CQ word runs on a chain that is bound to the context of its agent. -/
theorem chainWord_bound (hn : n.val = c.toNat) (hr : s.Ready i) (hq : (s.due.chain s.due.cur.core n).ctx = some s.due.myCtx) :
    chainWord i c f s = .next (State.finish (f n s.due)) := by
  rw [chainWord_ready hn hr, if_pos hq]

theorem chainWord_unbound (hn : n.val = c.toNat) (hr : s.Ready i) (hq : (s.due.chain s.due.cur.core n).ctx ≠ some s.due.myCtx) :
    chainWord i c f s = .next (s.due.trapped causeProt (c.setWidth 64)) := by
  rw [chainWord_ready hn hr, if_neg hq]
  rfl

/-- In a hart a CQ word that names the system chain meets ILL before its prefix and its operands. -/
theorem chainWord_system (hp : privileged i = false) (hc : namesSystemChain i = true) (hh : s.cur.isHart = true) :
    chainWord i c f s = .next (s.due.trapped causeIll s.due.wordValue) := by
  rw [chainWord, runWord_eq, hp, hh, if_pos rfl, hc]
  rfl

/-- Every CQ word has this frame, and names the system chain by bit 4 of its field. -/
theorem exec_chainWord
    (h : i = .cqgo c ∨ (∃ d, i = .cqstat d c) ∨ (∃ b, i = .cqwait c b) ∨ (∃ d b, i = .cqapp d c b ∨ i = .cqdone d c b)) :
    (∃ f, ∀ s, exec i s = chainWord i c f s) ∧ privileged i = false ∧ namesSystemChain i = c.getLsbD 4 := by
  rcases h with rfl | ⟨d, rfl⟩ | ⟨b, rfl⟩ | ⟨d, b, rfl | rfl⟩
  · exact ⟨⟨_, execCqgo.eq_1 c⟩, rfl, rfl⟩
  · exact ⟨⟨_, execCqstat.eq_1 d c⟩, rfl, rfl⟩
  · exact ⟨⟨_, execCqwait.eq_1 c b⟩, rfl, rfl⟩
  · exact ⟨⟨_, execCqapp.eq_1 d c b⟩, rfl, rfl⟩
  · exact ⟨⟨_, execCqdone.eq_1 d c b⟩, rfl, rfl⟩

/-- Words that end alike leave the same state. -/
theorem finish_congr {f g : Flow} (h : f = g) : (.next (State.finish f) : Result) = .next (State.finish g) :=
  congrArg (fun f => Host.Outcome.next (State.finish f)) h

/-! ## CQAPP (R279) -/

/-- A word that reads its whole record goes on with what its reader answers. -/
theorem State.recordFlow_read {α : Type} {va : Dword} {v : α} {read : (State → Dword → Nat → Acc (List Byte)) → State → Acc α}
    (hw : s.readsWhole va = true) (hl : read State.loadRecord s = .ok v w) (x y : Dword) (g : α → State → Flow) :
    s.recordFlow va x y read g = g v w := by
  rw [State.recordFlow, if_pos hw, hl]
  rfl

/-- Whose commands the running agent appends: of a hart its team, itself and its rounding mode (R277). -/
@[reducible] def State.appender (s : State) : Option (Nat × Nat) × Option HartKey × BitVec 3 :=
  match s.cur with
  | .hart h => (some ((s.hart h).launch, (s.hart h).team), some h, (s.hart h).csr.rmode)
  | .steward _ => (none, none, 0)

/-- The commands that a list makes on a chain of the state w that its read leaves. -/
@[reducible] def State.listed (s w : State) (n : Fin 17) (list : List Header) : List Cmd :=
  cmdsOf s.appender.2.2 s.appender.1 s.appender.2.1 ((w.chain s.cur.core n).appSeq + 1) false list

/-- The stores of an append into its records. -/
@[reducible] def recordStores (list : List Header) (ks : List Cmd) : List (Dword × List Byte) :=
  (list.zip ks).flatMap fun p => p.1.stores p.2

section
variable {d b : Reg} {list : List Header} (hn : n.val = c.toNat) (hr : s.Ready (.cqapp d c b))
  (hq : (s.due.chain s.due.cur.core n).ctx = some s.due.myCtx) (hw : s.due.readsWhole (s.due.firstX b) = true)
  (hl : readList State.loadRecord 257 s.due (s.due.firstX b) [] = .ok list w)
include hn hr hq hw hl

/-- An append waits while its chain has no room for its list. -/
theorem exec_cqapp_full (hfull : 4096 < (w.chain s.due.cur.core n).pend + list.length) : exec (.cqapp d c b) s = .next s.due := by
  refine ((execCqapp.eq_1 d c b s).trans (chainWord_bound hn hr hq)).trans (finish_congr (g := .hold s.due) ?_)
  exact (State.recordFlow_read (read := fun load s => readList load 257 s _ []) hw hl ..).trans (if_pos hfull)

/-- An append whose stores all may be made makes them, and its commands join the chain. -/
theorem exec_cqapp_appends {y z : State} (hroom : (w.chain s.due.cur.core n).pend + list.length ≤ 4096)
    (hmiss : w.storesMiss s.due.myReach (recordStores list (s.due.listed w n list)) = (none, y))
    (hstore : y.storeAll (recordStores list (s.due.listed w n list)) = .ok () z) :
    exec (.cqapp d c b) s = .next ((z.modChain s.due.cur.core n fun q => q.append (s.due.listed w n list)).resultAt d
      (((w.chain s.due.cur.core n).appSeq + BitVec.ofNat 32 (s.due.listed w n list).length).setWidth 64)
      (s.due.issueCycle + 20 + 4 * (s.due.listed w n list).length)).retired := by
  refine ((execCqapp.eq_1 d c b s).trans (chainWord_bound hn hr hq)).trans (finish_congr
    ((State.recordFlow_read hw hl ..).trans ((if_neg (Nat.not_lt.2 hroom)).trans ?_)))
  cases hcur : s.due.cur <;> simp only [recordStores, State.listed, State.appender, hcur] at hmiss hstore ⊢ <;>
    simp only [hmiss, hstore, Acc.flow]

end

/-! ## CQGO, CQWAIT, CQDONE and CQSTAT (R280 to R283) -/

theorem State.now_acquired (s : State) (scope : Nat) : (Claims.acquired s scope).now = s.now := by
  rw [Claims.acquired]
  split
  · rfl
  · rw [State.acquire]
    split <;> rfl

section
variable (hn : n.val = c.toNat) (hq : (s.due.chain s.due.cur.core n).ctx = some s.due.myCtx)
include hn hq

/-- CQGO hands the batch over after the release of its hart; a steward makes none. -/
theorem exec_cqgo (hr : s.Ready (.cqgo c)) (hhart : ∀ h, s.due.cur = .hart h → s.due.release h 3 (s.due.hart h).serial = .ok () w)
    (hsteward : ∀ k, s.due.cur = .steward k → w = s.due) (hcur : w.cur = s.due.cur) :
    exec (.cqgo c) s = .next (w.modChain s.due.cur.core n fun q => q.handOver (w.now + 30)).retired := by
  refine ((execCqgo.eq_1 c s).trans (chainWord_bound hn hr hq)).trans (congrArg Host.Outcome.next ?_)
  cases h : s.due.cur with
  | hart g =>
    simp only [hhart g h, Acc.flow, hcur, h]
    rfl
  | steward g =>
    obtain rfl := hsteward g h
    simp only [h]
    rfl

theorem exec_cqwait {b : Reg} (hr : s.Ready (.cqwait c b)) :
    let q := s.due.chain s.due.cur.core n
    let t : BitVec 32 := (s.due.rx b).setWidth 32
    exec (.cqwait c b) s = .next (State.finish (if t ≠ q.appSeq ∧ Claims.reached q.appSeq t then .trap s.due causeBounds (s.due.rx b)
      else if Claims.reached t q.doneSeq then .retire (s.due.acquireBy s.due.cur 3) else .hold s.due)) :=
  (execCqwait.eq_1 c b s).trans (chainWord_bound hn hr hq)

/-- What CQDONE answers: 1 for a number that is done, -1 for one that is not yet appended, else 0. -/
@[reducible] def Chain.answer (q : Chain) (t : BitVec 32) : Dword :=
  if Claims.reached t q.doneSeq then 1
  else if t ≠ q.appSeq ∧ Claims.reached q.appSeq t then BitVec.allOnes 64
  else ofBool (q.cmds.any fun k => decide (k.seq = t) && decide (k.stage = .done))

theorem exec_cqdone {d b : Reg} {v : Dword} (hr : s.Ready (.cqdone d c b))
    (hv : (s.due.chain s.due.cur.core n).answer ((s.due.rx b).setWidth 32) = v) :
    exec (.cqdone d c b) s = .next ((if v = 1 then Claims.acquired s.due 3 else s.due).resultAt d v (s.now + 6)).retired := by
  have hnow : (if v = 1 then Claims.acquired s.due 3 else s.due).now = s.now := by
    rw [apply_ite State.now, State.now_acquired, State.due_now, ite_id]
  rw [← hnow, ← hv]
  exact (execCqdone.eq_1 d c b s).trans (chainWord_bound hn hr hq)

/-- The word of CQSTAT (R283). -/
@[reducible] def Chain.status (q : Chain) : Nat :=
  q.doneSeq.toNat + 2 ^ 32 * q.pend + (if q.cmds.any fun k => k.stage.isParked then 2 ^ 45 else 0)
    + (if q.err then 2 ^ 46 else 0) + (if q.cmds.any fun k => decide (k.stage = .batch) then 2 ^ 47 else 0)

theorem exec_cqstat {d : Reg} (hr : s.Ready (.cqstat d c)) : exec (.cqstat d c) s =
    .next (s.due.resultAt d (BitVec.ofNat 64 (s.due.chain s.due.cur.core n).status) (s.now + 6)).retired :=
  s.due_now ▸ (execCqstat.eq_1 d c s).trans (chainWord_bound hn hr hq)

end

theorem Chain.pend_le (q : Chain) : q.pend ≤ q.cmds.length := List.length_filter_le ..

theorem Chain.status_eq (q : Chain) : q.status = q.doneSeq.toNat + 2 ^ 32 * q.pend + 2 ^ 45 * (q.cmds.any fun k => k.stage.isParked).toNat
    + 2 ^ 46 * q.err.toNat + 2 ^ 47 * (q.cmds.any fun k => decide (k.stage = .batch)).toNat := by
  have hbit : ∀ (b : Bool) (m : Nat), (if b then m else 0) = m * b.toNat := by
    rintro (_ | _) m <;> simp
  simp only [Chain.status, hbit]

/-- The fields of a number that is put together from 32 bits, 13 bits and three single bits. -/
theorem packed_fields {a p : Nat} (x y z : Bool) (ha : a < 2 ^ 32) (hp : p < 2 ^ 13) :
    let v : Dword := BitVec.ofNat 64 (a + 2 ^ 32 * p + 2 ^ 45 * x.toNat + 2 ^ 46 * y.toNat + 2 ^ 47 * z.toNat)
    (v.setWidth 32).toNat = a ∧ (v.extractLsb' 32 13).toNat = p ∧ v.getLsbD 45 = x ∧ v.getLsbD 46 = y ∧ v.getLsbD 47 = z := by
  intro v
  have hbit : ∀ (b : Bool) (m : Nat), m = b.toNat → decide (m = 1) = b := by
    rintro (_ | _) m rfl <;> rfl
  have hx := x.toNat_le
  have hy := y.toNat_le
  have hz := z.toNat_le
  have hv : v.toNat = a + 2 ^ 32 * p + 2 ^ 45 * x.toNat + 2 ^ 46 * y.toNat + 2 ^ 47 * z.toNat := by
    rw [BitVec.toNat_ofNat]
    omega
  simp only [← BitVec.testBit_toNat, Nat.testBit_eq_decide_div_mod_eq, BitVec.toNat_setWidth, BitVec.extractLsb'_toNat,
    Nat.shiftRight_eq_div_pow, hv]
  refine ⟨by omega, by omega, hbit x _ ?_, hbit y _ ?_, hbit z _ ?_⟩ <;> omega

/-! ### The answers of CQDONE (R273, R282) -/

theorem Chain.answer_done {q : Chain} {t : BitVec 32} (h : Claims.reached t q.doneSeq = true ∨
    (t = q.appSeq ∨ Claims.reached q.appSeq t = false) ∧ ∃ k ∈ q.cmds, k.seq = t ∧ k.stage = .done) : q.answer t = 1 := by
  rcases h with h | ⟨happ, k, hk, hseq, hstage⟩
  · exact if_pos h
  · have hany : (q.cmds.any fun k => decide (k.seq = t) && decide (k.stage = .done)) = true :=
      List.any_eq_true.2 ⟨k, hk, by simp [hseq, hstage]⟩
    have hnot : ¬ (t ≠ q.appSeq ∧ Claims.reached q.appSeq t = true) := by
      rintro ⟨hne, hle⟩
      exact happ.elim hne fun h => Bool.noConfusion (hle.symm.trans h)
    rw [Chain.answer, if_neg hnot, hany]
    exact ite_id _

theorem Chain.answer_beyond {q : Chain} {t : BitVec 32} (hd : Claims.reached t q.doneSeq = false) (hne : t ≠ q.appSeq)
    (ha : Claims.reached q.appSeq t = true) : q.answer t = -1 := by
  rw [Chain.answer, if_neg (Bool.eq_false_iff.1 hd), if_pos ⟨hne, ha⟩]
  rfl

theorem Chain.answer_open {q : Chain} {t : BitVec 32} (hdone : ¬ (Claims.reached t q.doneSeq = true ∨
      (t = q.appSeq ∨ Claims.reached q.appSeq t = false) ∧ ∃ k ∈ q.cmds, k.seq = t ∧ k.stage = .done))
    (hbeyond : ¬ (Claims.reached t q.doneSeq = false ∧ t ≠ q.appSeq ∧ Claims.reached q.appSeq t = true)) : q.answer t = 0 := by
  obtain ⟨hd, hcmds⟩ := not_or.1 hdone
  have hnot : ¬ (t ≠ q.appSeq ∧ Claims.reached q.appSeq t = true) := fun h => hbeyond ⟨Bool.eq_false_iff.2 hd, h⟩
  have hany : (q.cmds.any fun k => decide (k.seq = t) && decide (k.stage = .done)) = false := by
    refine Bool.eq_false_iff.2 fun h => hcmds ⟨?_, by simpa using h⟩
    by_cases hne : t = q.appSeq
    · exact .inl hne
    · exact .inr (Bool.eq_false_iff.2 fun h => hnot ⟨hne, h⟩)
  rw [Chain.answer, if_neg hd, if_neg hnot, hany]
  rfl

end Sys2Proof.Machine

namespace Sys2Proof.Proofs

open Sys2Proof.Machine

/-- Settles O31: word by word; every CQ word is in one frame (`exec_chainWord`), which refuses it or runs it on its chain
(`chainWord_bound`). -/
theorem chainWordsAppendAndAnswer : Obligations.ChainWordsAppendAndAnswer := by
  intro s c n hn u core q who words
  refine ⟨fun i hi hh hc => ?_, fun i hi hr hq => ?_, fun hq => ⟨fun d b list w hr hw hl => ⟨?_, fun y z hroom hmiss hstore => ?_⟩,
    fun w hr hrel hcur => ?_, fun b hr => ?_, fun d b hr => ?_, fun d hr => ?_⟩⟩
  · obtain ⟨⟨f, hexec⟩, hp, hname⟩ := exec_chainWord hi
    have hc16 : c = 16 := BitVec.eq_of_toNat_eq (by have := n.isLt; show c.toNat = 16; omega)
    rw [hexec, chainWord_system hp (by rw [hname, hc16]; rfl) hh, State.due_wordValue]
    rfl
  · obtain ⟨⟨f, hexec⟩, _⟩ := exec_chainWord hi
    rw [hexec, chainWord_unbound hn hr hq]
    rfl
  · exact exec_cqapp_full hn hr hq hw hl
  · exact exec_cqapp_appends hn hr hq hw hl hroom hmiss hstore
  · refine exec_cqgo hn hq hr (fun h hh => ?_) (fun k hk => ?_) hcur
    · simpa only [u, hh] using hrel
    · simp only [u, hk] at hrel
      exact (Acc.ok.inj hrel).2.symm
  · have hexec := exec_cqwait hn hq hr
    refine ⟨fun hb => ?_, fun hb hd => ?_, fun hb hd => ?_⟩
    · exact hexec.trans (finish_congr (if_pos hb))
    · exact hexec.trans (finish_congr ((if_neg hb).trans (if_pos hd)))
    · exact hexec.trans (finish_congr ((if_neg hb).trans (if_neg (Bool.eq_false_iff.1 hd))))
  · refine ⟨fun h => ?_, fun ⟨hd, hne, ha⟩ => ?_, fun hd hb => ?_⟩
    · exact exec_cqdone hn hq hr (Chain.answer_done h)
    · exact exec_cqdone hn hq hr (Chain.answer_beyond hd hne ha)
    · exact exec_cqdone hn hq hr (Chain.answer_open hd hb)
  · refine ⟨_, exec_cqstat hn hq hr, fun hlen => ?_⟩
    rw [Chain.status_eq]
    obtain ⟨hseq, hrest⟩ := packed_fields (q.cmds.any fun k => k.stage.isParked) q.err (q.cmds.any fun k => decide (k.stage = .batch))
      q.doneSeq.isLt (q.pend_le.trans_lt hlen)
    exact ⟨BitVec.eq_of_toNat_eq hseq, hrest⟩

end Sys2Proof.Proofs
end

section
/-! PROOFS. The start of a command (09 R201, 12 R276, R284, 17 R363): which command starts, its execution slot, and its first step. -/

namespace Sys2Proof.Machine

variable {s : State} {core : CoreId} {i : Fin 17} {k : Cmd} {v : Instr}

/-! ## The event of a chain -/

/-- A COLL whose chain has no command in the hands of the collective engine is the event of its chain alone. -/
theorem State.collEvent_eq (h : (s.chain core i).cmds = [k]) (hstage : k.stage ≠ .handed) :
    s.collEvent core i = s.chainEvent core i 8 State.collStep := by
  have hnone : (s.chain core i).cmds.filter (fun k => decide (k.op = 8) && decide (k.stage = .handed) && !k.finished) = [] := by
    simp [h, hstage]
  rw [State.collEvent, dif_pos i.isLt]
  simp only [Fin.eta, hnone, List.findSome?_nil, ite_self]
  cases s.chainEvent core i 8 State.collStep <;> rfl

/-- The event of a chain's opcode takes a step of that opcode. -/
theorem exec_carries {op : Nat} (hv : Claims.carries core i op v) (h : (s.chain core i).cmds = [k]) (hstage : k.stage ≠ .handed) :
    exec v s = .next ((s.chainEvent core i op (Claims.stepOf op)).getD s) := by
  rcases hv with ⟨rfl, rfl⟩ | ⟨rfl, rfl⟩ | ⟨rfl, rfl⟩ | ⟨rfl, rfl⟩ | ⟨rfl, rfl⟩ | ⟨rfl, rfl⟩ | ⟨rfl, rfl⟩ |
    ⟨rfl, rfl⟩ | ⟨rfl, rfl⟩
  · rfl
  · rfl
  · rfl
  · rfl
  · rfl
  · rfl
  · rfl
  · exact congrArg (fun o => (.next (o.getD s) : Result)) (State.collEvent_eq h hstage)
  · rfl

/-! ## Which command starts (R276) -/

theorem Chain.oldest_queued {c : Chain} (h : c.cmds = [k]) (hq : k.stage = .queued) : c.oldest = some ([], k) := by
  simp [Chain.oldest, h, hq]

/-- A core whose one command has not started has a free execution slot. -/
theorem State.slotFree_queued (h : (s.chain core i).cmds = [k]) (hq : k.stage = .queued)
    (hothers : ∀ j, j ≠ i → (s.chain core j).cmds = []) : (s.core core).slotFree = true := by
  have hnone : ∀ c ∈ (s.core core).chains.toList, (c.cmds.filter fun k => k.stage.executing).length = 0 := by
    intro c hc
    obtain ⟨j, hj, rfl⟩ := Vector.mem_iff_getElem.1 (Vector.mem_toList_iff.1 hc)
    by_cases hji : j = i.val
    · have hcmds : (s.core core).chains[j].cmds = [k] := by
        subst hji
        exact h
      rw [hcmds, List.filter_cons_of_neg (by rw [hq]; exact Bool.false_ne_true)]
      rfl
    · have hcmds : (s.core core).chains[j].cmds = [] := hothers ⟨j, hj⟩ fun hfin => hji (congrArg Fin.val hfin)
      rw [hcmds]
      rfl
  rw [CoreState.slotFree, List.sum_eq_zero (by simpa using hnone)]
  rfl

/-- Whether a command may start: its chain runs, its context's copy work is not frozen, and its cycle and that of the engine have come. -/
@[reducible] def State.startsNow (s : State) (core : CoreId) (i : Fin 17) (k : Cmd) : Prop :=
  s.chainRuns core i = true ∧ (s.chain core i).owner ∉ (s.core core).copyFrozen ∧ k.ready ≤ s.now ∧
    (s.core core).nextStart ≤ s.now

section
variable (h : (s.chain core i).cmds = [k]) (hq : k.stage = .queued) (hothers : ∀ j, j ≠ i → (s.chain core j).cmds = [])
include h hq hothers

theorem State.mayStart_queued (hcb : k.cbdst = false) : s.mayStart core i = if s.startsNow core i k then some k else none := by
  simp [State.mayStart, Chain.oldest_queued h hq, State.slotFree_queued h hq hothers, State.bufferReady, hcb, and_assoc]

omit h hq in
theorem State.mayStart_empty {j : Fin 17} (hj : j ≠ i) : s.mayStart core j = none := by
  have hnone : (s.chain core j).oldest = none := by simp [Chain.oldest, hothers j hj]
  rw [State.mayStart, hnone]

end

theorem findSome?_of_unique {α β : Type} {l : List α} {f : α → Option β} {a : α} {b : β} (ha : a ∈ l) (hf : f a = some b)
    (hother : ∀ x ∈ l, x ≠ a → f x = none) : l.findSome? f = some b := by
  cases h : l.findSome? f with
  | none => rw [List.findSome?_eq_none_iff.1 h a ha] at hf; cases hf
  | some c =>
    obtain ⟨x, hx, hxc⟩ := List.exists_of_findSome?_eq_some h
    obtain rfl : x = a := by_contra fun hne => Option.some_ne_none c (hxc.symm.trans (hother x hx hne))
    rw [← hxc, hf]

/-- In whatever order the chains are asked, the one that has a command to start is found (R276). -/
theorem State.startChain_only (hk : s.mayStart core i = some k) (hothers : ∀ j, j ≠ i → s.mayStart core j = none) :
    s.startChain core = some i := by
  have hmem : i.val ∈ (List.range 17).map fun j => ((s.core core).chainTurn + j) % 17 :=
    List.mem_map.2 ⟨(i.val + 17 - (s.core core).chainTurn % 17) % 17, List.mem_range.2 (Nat.mod_lt _ (by decide)), by omega⟩
  refine findSome?_of_unique hmem (by rw [dif_pos i.isLt, hk]; rfl) fun j _ hj => ?_
  split
  case isTrue hlt => rw [hothers ⟨j, hlt⟩ fun hji => hj (congrArg Fin.val hji)]; rfl
  case isFalse => rfl

/-! ## The execution slot (R276, R284) -/

/-- The team whose windows a command takes: its own, or of the host the oldest of its context (09 R201). -/
@[reducible] def State.startTeam (s : State) (core : CoreId) (i : Fin 17) (k : Cmd) : Option (Nat × Nat) :=
  if k.hart.isSome || i == 16 then k.team else s.oldestTeam core (s.chain core i).owner

/-- The windows that a command takes. -/
@[reducible] def State.startWindow (s : State) (core : CoreId) (i : Fin 17) (k : Cmd) : (Nat × Nat) × (Nat × Nat) :=
  match s.startTeam core i k with
  | some t => s.teamWindow t.1 t.2
  | none => ((0, 0), (0, 0))

/-- A command in its execution slot. -/
@[reducible] def State.started (s : State) (core : CoreId) (i : Fin 17) (k e : Cmd) : Cmd :=
  { e with stage := .running, ready := s.now, begun := s.now, team := s.startTeam core i k, window := s.startWindow core i k }

/-- The round robin after a start. -/
@[reducible] def State.turned (s : State) (core : CoreId) (i : Fin 17) : State :=
  s.modCore core fun v => { v with chainTurn := (i.val + 1) % 17, nextStart := s.now + 1 }

theorem State.chain_turned (s : State) (core : CoreId) (i : Fin 17) : (s.turned core i).chain core i = s.chain core i := by
  simp [State.chain]

theorem State.enterSlot_queued (hq : k.stage = .queued) :
    s.enterSlot core i k = (s.turned core i).modCmd core i k.seq (s.started core i k) := by
  have hteam : (s.turned core i).startTeam core i k = s.startTeam core i k := by
    simp only [State.startTeam, State.chain_turned]
    rfl
  have hwindow : (s.turned core i).startWindow core i k = s.startWindow core i k := by
    simp only [State.startWindow, hteam]
    rfl
  have hstarted : (s.turned core i).started core i k = s.started core i k := by
    funext e
    rw [State.started, State.started, hteam, hwindow]
    rfl
  exact (if_pos hq).trans (congrArg ((s.turned core i).modCmd core i k.seq) hstarted)

section
variable (h : (s.chain core i).cmds = [k]) (hq : k.stage = .queued)
include h hq

theorem State.enterSlot_cmds : ((s.enterSlot core i k).chain core i).cmds = [s.started core i k k] := by
  rw [State.enterSlot_queued hq]
  exact State.cmds_modCmd_same _ (by rw [State.chain_turned, h]) rfl

omit h in
theorem State.enterSlot_turn : ((s.enterSlot core i k).core core).chainTurn = (i.val + 1) % 17 ∧
    ((s.enterSlot core i k).core core).nextStart = s.now + 1 ∧ { s.enterSlot core i k with cores := s.cores } = s := by
  rw [State.enterSlot_queued hq]
  simp only [State.modCmd, State.modChain, State.core_modCore_same, true_and]
  rfl

/-- A command that starts takes its slot, and then a step from there. -/
theorem State.startWith_eq (run : State → Cmd → Option State) :
    s.startWith core i k run = run (s.enterSlot core i k) (s.started core i k k) := by
  simp [State.startWith, State.enterSlot_cmds h hq]

variable (hcb : k.cbdst = false) (hothers : ∀ j, j ≠ i → (s.chain core j).cmds = [])
include hcb hothers

theorem State.movable_queued : s.movable core i k.op = if s.startsNow core i k then [k] else [] := by
  have hchain : (s.core core).chains[i.val].cmds = [k] := h
  by_cases hnow : s.startsNow core i k
  · have hmay := (State.mayStart_queued h hq hothers hcb).trans (if_pos hnow)
    have honly := State.startChain_only hmay fun j hj => State.mayStart_empty hothers hj
    simp [State.movable, hmay, honly, hchain, hq, hnow]
  · have hmay := (State.mayStart_queued h hq hothers hcb).trans (if_neg hnow)
    simp [State.movable, hmay, hchain, hq, hnow]

/-- The one command that is queued starts, if it may and its first step can be made. -/
theorem State.chainStep_queued (run : State → Cmd → Option State) : s.chainStep core i k.op run =
    if s.startsNow core i k then run (s.enterSlot core i k) (s.started core i k k) else none := by
  rw [State.chainStep, State.movable_queued h hq hcb hothers]
  by_cases hnow : s.startsNow core i k
  · rw [if_pos hnow, if_pos hnow]
    cases hrun : run (s.enterSlot core i k) (s.started core i k k) with
    | none =>
      have hgoes : (s.startWith core i k run).isSome = false := by rw [State.startWith_eq h hq, hrun]; rfl
      rw [List.filter_cons_of_neg (by rw [hq, hgoes]; exact Bool.false_ne_true)]
      rfl
    | some t =>
      have hgoes : (s.startWith core i k run).isSome = true := by rw [State.startWith_eq h hq, hrun]; rfl
      rw [List.filter_cons_of_pos (by rw [hq, hgoes])]
      show (match k.stage with
        | .parking va => some (s.park core i k va)
        | .running => run s k
        | .queued => s.startWith core i k run
        | _ => some (s.enterSlot core i k)) = some t
      rw [hq]
      exact (State.startWith_eq h hq run).trans hrun
  · rw [if_neg hnow, if_neg hnow]
    rfl

theorem exec_queued (hv : Claims.carries core i k.op v) : exec v s = .next
    ((if s.startsNow core i k then Claims.stepOf k.op core i (s.enterSlot core i k) (s.started core i k k) else none).getD s) := by
  rw [exec_carries hv h (by simp [hq]), State.chainEvent, dif_pos i.isLt]
  exact congrArg (fun o => (.next (o.getD s) : Result)) (State.chainStep_queued h hq hcb hothers _)

end

end Sys2Proof.Machine
end

section
/-! PROOFS. The completion of a command (12 R273, R284, R286): its record, its end in its chain, and the event of its hart. -/

namespace Sys2Proof.Machine

variable {s w : State} {core : CoreId} {i : Fin 17} {k : Cmd} {h : HartKey}

/-! ## The event of a hart (R117) -/

theorem Hart.wait_of_inWfe {t : Hart} (ht : t.inWfe = true) : t.wait ≠ .none := by
  intro hw
  rw [Hart.inWfe, hw] at ht
  cases ht

/-- An event changes its hart alone: a WFE that waits in a hart that runs completes, else the latch is set. -/
theorem State.postHartEvent_eq (hr : s.resident h = true) : ∃ f, s.postHartEvent h = s.modHart h f ∧
    ((s.hart h).inWfe = false ∨ (s.hart h).runs = false → (f (s.hart h)).eventLatch = true) ∧
    ((s.hart h).inWfe = true → (s.hart h).runs = true → (f (s.hart h)).wait = .none) := by
  by_cases hw : (s.hart h).inWfe = true ∧ (s.hart h).runs = true
  · refine ⟨fun t => { t with eventLatch := false, sc := t.sc.retire t.waitFrom (stallOf t.waitWord).toNat,
                              wait := .none, claim := none }, ?_, fun hno => ?_, fun _ _ => rfl⟩
    · simp only [State.postHartEvent, hr, hw.1, hw.2, Bool.not_true, Bool.and_self, Bool.false_eq_true, if_false, if_true]
      exact State.completeWfe_eq (Hart.wait_of_inWfe hw.1)
    · simp [hw.1, hw.2] at hno
  · refine ⟨fun t => { t with eventLatch := true }, ?_, fun _ => rfl, fun h1 h2 => absurd ⟨h1, h2⟩ hw⟩
    simp only [State.postHartEvent, hr, Bool.not_true, Bool.false_eq_true, if_false]
    exact if_neg (by simpa using hw)

/-! ## The end of a command in its chain (R273) -/

/-- The chain, and what its commands own, once a command has left it. -/
def State.withoutCmd (s : State) (core : CoreId) (i : Fin 17) (k : Cmd) : State :=
  (s.disown (ownerOf core i k)).modChain core i fun c =>
    Chain.advance { c with err := c.err || decide (k.status ≠ 0),
                           cmds := c.cmds.map fun e => if e.seq = k.seq then { e with stage := .done } else e }

@[simp] theorem State.hart_withoutCmd (s : State) (core : CoreId) (i : Fin 17) (k : Cmd) (h : HartKey) :
    (s.withoutCmd core i k).hart h = s.hart h := rfl

@[simp] theorem State.resident_withoutCmd (s : State) (core : CoreId) (i : Fin 17) (k : Cmd) (h : HartKey) :
    (s.withoutCmd core i k).resident h = s.resident h := rfl

/-- The end of a command leaves its chain, and may post an event to the hart that appended it. -/
theorem State.retireCmd_eq (s : State) (core : CoreId) (i : Fin 17) (k : Cmd) :
    s.retireCmd core i k = s.withoutCmd core i k ∨ ∃ h f, s.retireCmd core i k = (s.withoutCmd core i k).modHart h f := by
  rw [State.retireCmd]
  split
  · split
    case isTrue hpost =>
      simp only [Bool.and_eq_true] at hpost
      obtain ⟨f, hf, _⟩ := State.postHartEvent_eq hpost.1.2
      exact .inr ⟨_, f, hf⟩
    case isFalse => exact .inl rfl
  · exact .inl rfl

/-- With SIGNAL, the hart that appended a command receives its event, while it is there with its team. -/
theorem State.retireCmd_posts (hs : k.signal = true) (hk : k.hart = some h) (hr : s.resident h = true)
    (hteam : k.team = some ((s.hart h).launch, (s.hart h).team)) :
    s.retireCmd core i k = (s.withoutCmd core i k).postHartEvent h := by
  rw [State.retireCmd, hk]
  exact if_pos (by
    show (k.signal && (s.withoutCmd core i k).resident h && _) = true
    rw [hs, State.resident_withoutCmd, hr, hteam]
    exact decide_eq_true rfl)

/-- What the completion of a chain's one command leaves. -/
structure State.CmdGone (s t : State) (core : CoreId) (i : Fin 17) (k : Cmd) : Prop where
  cmds : (t.chain core i).cmds = []
  doneSeq : (t.chain core i).doneSeq = (s.chain core i).doneSeq + 1
  err : (t.chain core i).err = ((s.chain core i).err || decide (k.status ≠ 0))
  appSeq : (t.chain core i).appSeq = (s.chain core i).appSeq
  lines : ∀ o ∈ t.lineOwners, o.2 ≠ ownerOf core i k
  rows : ∀ o ∈ t.rowOwners, o.2 ≠ ownerOf core i k
  mem : t.mem = s.mem

theorem State.withoutCmd_gone (hone : (s.chain core i).cmds = [k]) : s.CmdGone (s.withoutCmd core i k) core i k := by
  constructor
  case lines => exact fun o ho => of_decide_eq_true (List.mem_filter.1 ho).2
  case rows => exact fun o ho => of_decide_eq_true (List.mem_filter.1 ho).2
  case mem => rfl
  all_goals simp [State.withoutCmd, Chain.advance, hone]

theorem State.retireCmd_gone (hone : (s.chain core i).cmds = [k]) : s.CmdGone (s.retireCmd core i k) core i k := by
  have hgone := State.withoutCmd_gone hone
  rcases s.retireCmd_eq core i k with heq | ⟨h, f, heq⟩
  · rwa [heq]
  · rw [heq]
    exact ⟨hgone.cmds, hgone.doneSeq, hgone.err, hgone.appSeq, hgone.lines, hgone.rows, hgone.mem⟩

/-! ## Completion (R284, R286) -/

/-- A finished command that took no slot publishes none. -/
theorem State.publishSlot_none (hcb : k.cbSlot = none) (s : State) : s.publishSlot core k = s := by
  rw [State.publishSlot, hcb]

theorem exec_commandCompletion (s : State) (core : CoreId) (i : Fin 17) :
    exec (.commandCompletion core i) s = .next ((s.completeStep core i).getD s) :=
  congrArg Host.Outcome.next (dif_pos i.isLt)

section
variable (hone : (s.chain core i).cmds = [k]) (hfinished : k.finished = true) (hstage : k.stage = .running ∨ k.stage = .handed)
  (hcb : k.cbSlot = none)
include hfinished hstage hcb

/-- A finished command is held back by its cycle and by its chain alone. -/
theorem State.completion_gate {due : Bool} (hdue : decide (k.ready ≤ s.now ∧ s.chainRuns core i = true) = due) :
    (!k.finished || decide (k.stage = .done) || decide (s.now < k.ready) || !(k.stage == .running || k.stage == .handed) ||
      !(s.chainRuns core i) || (s.core core).slotWaits k) = !due := by
  have hdone : k.stage ≠ .done := by rcases hstage with h | h <;> simp [h]
  have hslot : (s.core core).slotWaits k = false := by rw [CoreState.slotWaits, hcb]
  have hin : (k.stage == .running || k.stage == .handed) = true := by simpa using hstage
  have hlate : decide (s.now < k.ready) = !decide (k.ready ≤ s.now) := by
    rw [← decide_not, decide_eq_decide, Nat.not_le]
  rw [← hdue, hfinished, decide_eq_false hdone, hlate, hin, hslot, Bool.decide_and, Bool.decide_eq_true]
  cases decide (k.ready ≤ s.now) <;> cases s.chainRuns core i <;> rfl

omit hstage hcb in
theorem State.mmafDone_finished : (s.core core).mmafDone i k = false := by
  simp [CoreState.mmafDone, hfinished]

include hone

theorem State.completeStep_early (hdue : ¬ (k.ready ≤ s.now ∧ s.chainRuns core i = true)) : s.completeStep core i = none := by
  simp only [State.completeStep, hone, List.findSome?_cons, List.findSome?_nil, State.mmafDone_finished hfinished,
    State.completion_gate hfinished hstage hcb (decide_eq_false hdue)]
  rfl

variable (hdue : k.ready ≤ s.now ∧ s.chainRuns core i = true)
include hdue

theorem State.completeStep_unrecorded (hno : k.signal = false ∨ k.crec = 0 ∨ k.noRecord = true) :
    s.completeStep core i = some (s.retireCmd core i k) := by
  have hrecord : (k.signal && k.crec != 0 && !k.noRecord) = false := by rcases hno with h | h | h <;> simp [h]
  simp only [State.completeStep, hone, List.findSome?_cons, List.findSome?_nil, State.mmafDone_finished hfinished,
    State.completion_gate hfinished hstage hcb (decide_eq_true hdue), hrecord, State.publishSlot_none hcb]
  rfl

theorem State.completeStep_recorded (hs : k.signal = true) (hc : k.crec ≠ 0) (hno : k.noRecord = false)
    (hw : s.engineWrite (s.cmdReach core i k) (ownerOf core i k) k.crec (k.completion.map some) false = .ok () w) :
    s.completeStep core i = some (w.retireCmd core i k) := by
  have hrecord : (k.signal && k.crec != 0 && !k.noRecord) = true := by
    rw [hs, hno, bne_iff_ne.2 hc]
    rfl
  simp only [State.completeStep, hone, List.findSome?_cons, List.findSome?_nil, State.mmafDone_finished hfinished,
    State.completion_gate hfinished hstage hcb (decide_eq_true hdue), hrecord, hw, Step.then, State.publishSlot_none hcb]
  rfl

end

end Sys2Proof.Machine

namespace Sys2Proof.Proofs

open Sys2Proof.Machine

theorem commandsStartInTheirSlot : Parts.CommandsStartInTheirSlot := by
  intro s core i k v h hq hcb hv hothers now team
  have hexec := exec_queued h hq hcb hothers hv
  refine ⟨fun hnow => ⟨s.enterSlot core i k, s.started core i k k, ?_, State.enterSlot_cmds h hq, rfl, rfl, rfl, rfl, rfl, rfl, rfl,
    rfl, rfl, State.enterSlot_turn hq⟩, fun hnow => ?_⟩
  · rw [hexec, if_pos hnow]
  · rw [hexec, if_neg hnow]
    rfl

theorem completionAdvancesDoneseq : Parts.CompletionAdvancesDoneseq := by
  intro s core i k hone hfinished hstage hcb c due retired
  rw [exec_commandCompletion]
  have hretired : ∀ {w : State}, w.chain core i = c → retired (w.retireCmd core i k) ∧ (w.retireCmd core i k).mem = w.mem := by
    intro w hw
    obtain ⟨hcmds, hdone, herr, happ, hlines, hrows, hmem⟩ := State.retireCmd_gone ((congrArg Chain.cmds hw).trans hone)
    exact ⟨⟨hcmds, hw ▸ hdone, hw ▸ herr, hw ▸ happ, hlines, hrows⟩, hmem⟩
  refine ⟨fun hdue => ?_, fun hdue hno => ?_, fun w hdue hs hc hno hw hchain => ?_, fun h hdue hs hc hk hr hteam => ?_⟩
  · rw [State.completeStep_early hone hfinished hstage hcb hdue]
    rfl
  · rw [State.completeStep_unrecorded hone hfinished hstage hcb hdue hno]
    exact ⟨_, rfl, hretired rfl⟩
  · rw [State.completeStep_recorded hone hfinished hstage hcb hdue hs hc hno hw]
    exact ⟨_, rfl, hretired hchain⟩
  · obtain ⟨f, hpost, hlatch, hwait⟩ := State.postHartEvent_eq ((s.resident_withoutCmd core i k h).trans hr)
    rw [State.completeStep_unrecorded hone hfinished hstage hcb hdue (.inr (.inl hc)), State.retireCmd_posts hs hk hr hteam, hpost]
    refine ⟨_, rfl, ?_⟩
    rw [Option.getD_some, State.hart_modHart_same]
    exact ⟨hlatch, hwait⟩

/-- Settles O42: the one command that is queued is the one that starts (`exec_queued`), and a finished one leaves its chain
(`State.retireCmd_gone`) once its record is written. -/
theorem commandsStartAndComplete : Obligations.CommandsStartAndComplete := ⟨commandsStartInTheirSlot, completionAdvancesDoneseq⟩

end Sys2Proof.Proofs
end

section
/-! PROOFS. A piece of work of the copy engine (09 R203, 11 R265, 12 R287, R289, 17 R366): the source line that holds it, the window of
its accesses, and its move. -/

namespace Sys2Proof.Machine

variable {s w x y : State} {r : Reach} {o : CoreId × Nat × BitVec 32} {pattern : Option Dword} {held : Option LineBuf} {p : Piece}

/-! ## The source line (R287) -/

/-- A mask of n bits that is taken away leaves the multiple of 2^n. -/
theorem and_not_mask (v : Dword) (n : Nat) : v &&& ~~~BitVec.ofNat 64 (2 ^ n - 1) = BitVec.ofNat 64 (v.toNat / 2 ^ n * 2 ^ n) := by
  refine BitVec.eq_of_getLsbD_eq fun j hj => ?_
  simp only [BitVec.getLsbD_and, BitVec.getLsbD_not, BitVec.getLsbD_ofNat, hj, decide_true, Bool.true_and, Nat.testBit_two_pow_sub_one,
    Nat.testBit_mul_two_pow, Nat.testBit_div_two_pow]
  by_cases hn : n ≤ j
  · simp [hn, Nat.not_lt.2 hn, BitVec.testBit_toNat]
  · simp [hn, Nat.not_le.1 hn]

theorem lineOfSource_eq (src : Dword) : lineOfSource src = BitVec.ofNat 64 (src.toNat / sourceLine src * sourceLine src) := by
  rw [lineOfSource]
  rcases sourceLine_cases src with h | h <;> rw [h]
  · exact and_not_mask src 6
  · exact and_not_mask src 7

/-- The line that holds a piece's source is the line read last. -/
@[reducible] def lineKept (held : Option LineBuf) (p : Piece) : Prop := ∃ b, held = some b ∧ b.addr = lineOfSource p.src

/-- The ranges that a move of a piece accesses. -/
@[reducible] def pieceRanges (reads : Bool) (p : Piece) : List (Dword × Nat) :=
  (if reads then [(lineOfSource p.src, sourceLine p.src)] else []) ++ [(p.dst, p.len)]

theorem reads_iff : (pattern.isNone && !held.any fun b => decide (b.addr = lineOfSource p.src)) = true ↔
    pattern = none ∧ ¬ lineKept held p := by
  cases pattern <;> cases held <;> simp [lineKept]

theorem State.readLine_kept {b : LineBuf} (hb : b.addr = lineOfSource p.src) : s.readLine r o (some b) p.src = .ok b s := by
  have hsome : (some b).filter (fun b => decide (b.addr = lineOfSource p.src)) = some b := by simp [Option.filter, hb]
  rw [State.readLine]
  simp only [hsome]

theorem State.readLine_read {g : Got} (hk : ¬ lineKept held p)
    (hg : s.readOpen r o (lineOfSource p.src) (sourceLine p.src) = .ok g x) : s.readLine r o held p.src =
      .ok { addr := lineOfSource p.src, bytes := g.bytes, poisoned := g.poisoned.isSome } x := by
  have hnone : held.filter (fun b => decide (b.addr = lineOfSource p.src)) = none := by
    cases held with
    | none => rfl
    | some b => simpa [lineKept] using hk
  rw [State.readLine]
  simp only [hnone, hg]

/-! ## The window of the arrays (R203, R366) -/

section
variable {α : Type} {core : CoreId} {user : Nat} {ranges : List (Dword × Nat)} {go : State → Step α}

/-- Whether an access uses an array of a fenced cluster. -/
@[reducible] def State.meetsFence (s : State) (core : CoreId) (ranges : List (Dword × Nat)) : Prop :=
  ∃ q ∈ ranges, ∃ c ∈ arraysOf core q.1 q.2, (s.cluster c).fenced = true

theorem State.meetsFence_iff :
    ((ranges.flatMap fun p => arraysOf core p.1 p.2).any fun k => (s.cluster k).fenced) = true ↔ s.meetsFence core ranges := by
  simp only [List.any_flatMap, List.any_eq_true]

theorem State.arrayGate_fenced (h : s.meetsFence core ranges) : s.arrayGate core user ranges go = .fail 4 s :=
  if_pos (State.meetsFence_iff.2 h)

theorem State.arrayGate_waits (h : ¬ s.meetsFence core ranges)
    (hw : s.windowsFor core user (ranges.flatMap fun p => rowsOf p.1 p.2) = none) : s.arrayGate core user ranges go = .wait := by
  rw [State.arrayGate, if_neg (mt State.meetsFence_iff.1 h), hw]

theorem State.arrayGate_goes (h : ¬ s.meetsFence core ranges)
    (hw : s.windowsFor core user (ranges.flatMap fun p => rowsOf p.1 p.2) = some w) : s.arrayGate core user ranges go = go w := by
  rw [State.arrayGate, if_neg (mt State.meetsFence_iff.1 h), hw]

end

/-! ## The move (R287, R289) -/

/-- What a move does in its window: FILL writes its pattern, the others a part of the line read last or of the line that they read. -/
structure MovesOpen (r : Reach) (o : CoreId × Nat × BitVec 32) (pattern : Option Dword) (held : Option LineBuf) (p : Piece)
    (go : State → Step (Option LineBuf)) : Prop where
  fills : ∀ {w y v}, pattern = some v →
    w.writeOpen r o p.dst ((List.range p.len).map fun j => some (v.extractLsb' (8 * ((p.src.toNat + j) % 8)) 8)) false = .ok () y →
    go w = .ok none y
  keeps : ∀ {w y b}, pattern = none → held = some b → b.addr = lineOfSource p.src →
    w.writeOpen r o p.dst (((b.bytes.drop (p.src.toNat % sourceLine p.src)).take p.len).map some) b.poisoned = .ok () y →
    go w = .ok (some b) y
  reads : ∀ {w x y g}, pattern = none → ¬ lineKept held p → w.readOpen r o (lineOfSource p.src) (sourceLine p.src) = .ok g x →
    x.writeOpen r o p.dst (((g.bytes.drop (p.src.toNat % sourceLine p.src)).take p.len).map some) g.poisoned.isSome = .ok () y →
    go w = .ok (some { addr := lineOfSource p.src, bytes := g.bytes, poisoned := g.poisoned.isSome }) y

theorem State.movePiece_eq (s : State) (r : Reach) (o : CoreId × Nat × BitVec 32) (pattern : Option Dword) (held : Option LineBuf)
    (p : Piece) : ∃ go, MovesOpen r o pattern held p go ∧ s.movePiece r o pattern held p =
      s.arrayGate r.core r.unit (pieceRanges (pattern.isNone && !held.any fun b => decide (b.addr = lineOfSource p.src)) p) go := by
  refine ⟨_, ?_, rfl⟩
  constructor
  case fills =>
    rintro w y v rfl hw
    have hbytes : ((List.range p.len).map fun j => v.extractLsb' (8 * ((p.src.toNat + j) % 8)) 8).map some =
        (List.range p.len).map fun j => some (v.extractLsb' (8 * ((p.src.toNat + j) % 8)) 8) := List.map_map
    simp only [hbytes, hw]
  case keeps =>
    rintro w y b rfl rfl hb hw
    simp only [State.readLine_kept hb, hw]
  case reads =>
    rintro w x y g rfl hk hg hw
    simp only [State.readLine_read hk hg, hw]

end Sys2Proof.Machine

namespace Sys2Proof.Proofs

open Sys2Proof.Machine

theorem piecesMoveThroughTheirLine : Parts.PiecesMoveThroughTheirLine := by
  intro s r o pattern held p size line kept ranges fenced windows
  have hsize : sourceLine p.src = size := sourceLine_eq p.src
  have hline : lineOfSource p.src = line := by rw [lineOfSource_eq, hsize]
  obtain ⟨go, hgo, hmove⟩ := s.movePiece_eq r o pattern held p
  have hkept : kept ↔ pattern = none ∧ lineKept held p := by rw [lineKept, hline]
  have hranges : pieceRanges (pattern.isNone && !held.any fun b => decide (b.addr = lineOfSource p.src)) p = ranges := by
    have hreads : (pattern.isNone && !held.any fun b => decide (b.addr = lineOfSource p.src)) = true ↔ pattern = none ∧ ¬ kept := by
      rw [reads_iff, hkept]
      exact and_congr_right fun hp => not_congr (and_iff_right hp).symm
    rw [pieceRanges, if_congr hreads rfl rfl, hline, hsize]
  rw [hranges] at hmove
  refine ⟨fun hf => ?_, fun hf hw => ?_, fun w hf hw => ?_⟩
  · rw [hmove, State.arrayGate_fenced hf]
  · rw [hmove, State.arrayGate_waits hf hw]
  · rw [hmove, State.arrayGate_goes hf hw]
    rw [← hline, ← hsize]
    refine ⟨fun v y hv => hgo.fills hv, fun b y hp hb ha => hgo.keeps hp hb ha, fun g x y hp hk => hgo.reads hp fun hk' => hk ?_⟩
    exact hkept.2 ⟨hp, hk'⟩

end Sys2Proof.Proofs
end

section
/-! PROOFS. The commands that move rows (12 R284, R287): how one goes on or ends, its record, and the next piece of COPY and FILL. -/

namespace Sys2Proof.Machine

variable {s u w y z : State} {core : CoreId} {i : Fin 17} {k e : Cmd} {v : Instr} {g : Got} {p : Piece} {ps : List Piece}
  {line : Option LineBuf}

/-! ## A command goes on or ends -/

/-- A copy command that is alone takes a step of the copy engine. -/
theorem exec_moves (h : Claims.alone s core i k) (hv : Claims.carries core i k.op v)
    (hop : k.op = 1 ∨ k.op = 2 ∨ k.op = 3 ∨ k.op = 4 ∨ k.op = 6) : exec v s = .next ((State.moveStep core i s k).getD s) := by
  have ⟨hone, _, hstage, _, _⟩ := h
  have hstep : Claims.stepOf k.op = State.moveStep := by rcases hop with h | h | h | h | h <;> rw [h] <;> rfl
  rw [exec_carries hv hone (by simp [hstage]), State.chainEvent_alone _ h, hstep]

theorem State.modCmd_congr {seq : BitVec 32} {f f' : Cmd → Cmd} (h : (s.chain core i).cmds = [k]) (hf : f k = f' k) :
    s.modCmd core i seq f = s.modCmd core i seq f' := by
  have hcmds : (s.core core).chains[i].cmds = [k] := h
  simp only [State.modCmd, State.modChain, State.modCore, hcmds, List.map_cons, List.map_nil, hf]

theorem State.withCmd_one {seq : BitVec 32} {f : Cmd → Option State} (h : (s.chain core i).cmds = [e]) (hs : e.seq = seq) :
    s.withCmd core i seq f = f e := by
  simp [State.withCmd, h, hs]

/-- What a command owns is all that changes when it owns what it still has to write. -/
theorem State.ownLeft_some (h : s.ownLeft core i k = some u) : ∃ lines rows, u = { s with lineOwners := lines, rowOwners := rows } := by
  rw [State.ownLeft, State.own] at h
  split at h
  · cases h
  · exact ⟨_, _, (Option.some.inj h).symm⟩

theorem State.ownLeft_getD (s : State) (core : CoreId) (i : Fin 17) (k : Cmd) :
    ∃ lines rows, (s.ownLeft core i k).getD s = { s with lineOwners := lines, rowOwners := rows } := by
  cases h : s.ownLeft core i k with
  | none => exact ⟨_, _, rfl⟩
  | some u => exact State.ownLeft_some h

/-- The command e of a chain ends, or goes on and owns what it still has to write. -/
def State.proceed (s : State) (core : CoreId) (i : Fin 17) (e : Cmd) (ends : Bool) : State :=
  if ends then s.finishCmd core i e 0 else (s.ownLeft core i e).getD s

/-- A command that has ended without an error of its end. -/
@[reducible] def State.ended (s : State) (core : CoreId) (i : Fin 17) (e : Cmd) : Cmd :=
  { e with finished := true, ready := s.now + 6, batches := [], held := none,
           noRecord := decide ((s.cmdReach core i e).crecStatus e.crec ≠ 0) }

theorem State.proceed_cmds (h : (s.chain core i).cmds = [e]) (ends : Bool) :
    ((s.proceed core i e ends).chain core i).cmds = [if ends then s.ended core i e else e] := by
  cases ends with
  | true =>
    have hstatus : (if e.status = 0 then 0 else e.status) = e.status := by split <;> simp [*]
    have hcmds := State.cmds_finishCmd 0 h rfl
    rwa [hstatus] at hcmds
  | false =>
    obtain ⟨lines, rows, heq⟩ := s.ownLeft_getD core i e
    rw [State.proceed, if_neg Bool.false_ne_true, heq, if_neg Bool.false_ne_true]
    exact h

theorem State.finishCmd_rows_poison (s : State) (core : CoreId) (i : Fin 17) (k : Cmd) (st : Nat) :
    (s.finishCmd core i k st).rows = s.rows ∧ (s.finishCmd core i k st).poison = s.poison := by
  rw [State.finishCmd]
  split <;> exact ⟨rfl, rfl⟩

theorem State.proceed_keeps (s : State) (core : CoreId) (i : Fin 17) (e : Cmd) (ends : Bool) :
    (s.proceed core i e ends).mem = s.mem ∧ (s.proceed core i e ends).rows = s.rows ∧ (s.proceed core i e ends).poison = s.poison := by
  cases ends with
  | true => exact ⟨s.mem_finishCmd core i e 0, s.finishCmd_rows_poison core i e 0⟩
  | false =>
    obtain ⟨lines, rows, heq⟩ := s.ownLeft_getD core i e
    rw [State.proceed, if_neg Bool.false_ne_true, heq]
    exact ⟨rfl, rfl, rfl⟩

/-- After a step, a command that its chain holds alone is changed, and then goes on or ends. -/
theorem State.withCmd_proceed {f : Cmd → Cmd} (hone : (s.chain core i).cmds = [k]) (hf : f k = e) (hs : e.seq = k.seq)
    {ends : Cmd → Prop} [∀ e, Decidable (ends e)] : ((s.modCmd core i k.seq f).withCmd core i k.seq fun e =>
      if ends e then some ((s.modCmd core i k.seq f).finishCmd core i e 0)
      else some (((s.modCmd core i k.seq f).ownLeft core i e).getD (s.modCmd core i k.seq f))) =
    some ((s.modCmd core i k.seq f).proceed core i e (decide (ends e))) := by
  rw [State.withCmd_one (hf ▸ State.cmds_modCmd_same f hone rfl) hs, State.proceed]
  by_cases h : ends e <;> simp [h]

/-! ## The record (R284) -/

/-- The command whose record r has been read. -/
@[reducible] def Cmd.withRecord (k : Cmd) (r : BitVec 512) : Cmd := { k with record := r, crec := recordAddr r 56, read := true }

/-- The status of the ranges and the bytes of a record that names no buffer. -/
@[reducible] def Reach.ownStatus (reach : Reach) (k : Cmd) (r : BitVec 512) : Nat :=
  if recordBroken k.op false r (k.dstField r) then 1 else reach.rangeStatus k.op r (k.dstField r) 0

/-- The status with which the checks of a record answer: of its own bytes and ranges, then of CREC. -/
@[reducible] def Reach.recordStatus (reach : Reach) (k : Cmd) (r : BitVec 512) : Nat :=
  if reach.ownStatus k r ≠ 0 then reach.ownStatus k r else reach.crecStatus (recordAddr r 56)

theorem State.cmdReach_modCmd (s : State) (core : CoreId) (i : Fin 17) (seq : BitVec 32) (f : Cmd → Cmd) (e : Cmd) :
    (s.modCmd core i seq f).cmdReach core i e = s.cmdReach core i e := by
  rw [State.cmdReach, State.owner_modCmd, State.cmdReach]
  rfl

/-- A record that is in order is kept with its command, which owns its destinations; else the command ends with its status. -/
theorem State.beginMove_eq (hcbdst : k.cbdst = false) (hslot : k.cbSlot = none) {r : BitVec 512} (hr : bitsOfBytes 512 g.bytes = r)
    (hg : s.engineRead (s.cmdReach core i k) (ownerOf core i k) k.at_ 64 = .ok g w) (hp : g.poisoned = none)
    (hone : (w.chain core i).cmds = [k]) :
    s.beginMove core i k = some (if (w.cmdReach core i k).recordStatus k r ≠ 0 ∨ k.op = 6
      then (w.modCmd core i k.seq fun _ => k.withRecord r).finishCmd core i (k.withRecord r) ((w.cmdReach core i k).recordStatus k r)
      else ((w.modCmd core i k.seq fun _ => k.withRecord r).ownLeft core i (k.withRecord r)).getD
        (w.modCmd core i k.seq fun _ => k.withRecord r)) := by
  have hkept : ({ k with record := r, crec := recordAddr r 56, read := true, cbSlot := none, cbdst := false } : Cmd) = k.withRecord r := by
    rw [← hslot, ← hcbdst]
  have hmod := State.modCmd_congr (seq := k.seq) hone (f := fun k =>
    { k with record := r, crec := recordAddr r 56, read := true, cbSlot := none }) (f' := fun _ => k.withRecord r) (by rw [← hslot])
  rw [State.beginMove, State.readRecord_ok _ hg hp, hr]
  simp only [hcbdst, Bool.false_eq_true, if_false, Option.any_none, Option.map_none, false_and, or_false, hmod, hkept,
    Reach.recordStatus, Reach.ownStatus]
  generalize (if recordBroken k.op false r (k.dstField r) then 1 else _) = own
  generalize (w.cmdReach core i k).crecStatus _ = crec
  by_cases hown : own = 0
  · by_cases hcrec : crec = 0 <;> by_cases hop : k.op = 6 <;> simp [hown, hcrec, hop]
  · simp [hown]

/-! ## The pieces of COPY and FILL (R287, R292) -/

theorem newPoison_iff {before after : Option LineBuf} : newPoison before after = true ↔
    ∃ b, after = some b ∧ b.poisoned = true ∧ before.map LineBuf.addr ≠ some b.addr := by
  cases after <;> simp [newPoison]

/-- The change of a command e by a piece that the command k has moved, with the line read last. -/
@[reducible] def Cmd.afterPiece (k : Cmd) (now : Nat) (line : Option LineBuf) (e : Cmd) : Cmd :=
  { e with pos := e.pos + 1, ready := now + 1, held := line, errors := if newPoison k.held line then e.errors + 1 else e.errors,
           status := if newPoison k.held line && e.status == 0 then 4 else e.status }

/-- The next piece of COPY or FILL moves, and the command ends with its last. -/
theorem State.pieceStep_eq (hdrop : k.allPieces.drop k.pos = p :: ps) (hown : s.ownLeft core i k = some u)
    (hmove : u.movePiece (u.cmdReach core i k) (ownerOf core i k) (if k.op = 4 then some (recordAddr k.record 32) else none) k.held p =
      .ok line y)
    (hone : (y.chain core i).cmds = [k]) : s.pieceStep core i k =
      some ((y.modCmd core i k.seq (k.afterPiece y.now line)).proceed core i (k.afterPiece y.now line k) (decide (ps = []))) := by
  have hends : (k.afterPiece y.now line k).allPieces.length ≤ (k.afterPiece y.now line k).pos ↔ ps = [] := by
    have hlen := congrArg List.length hdrop
    rw [List.length_drop, List.length_cons] at hlen
    rw [← List.length_eq_zero_iff]
    show k.allPieces.length ≤ k.pos + 1 ↔ _
    omega
  rw [← decide_eq_decide.2 hends, ← State.withCmd_proceed hone rfl rfl (ends := fun e => e.allPieces.length ≤ e.pos), State.pieceStep,
    hdrop]
  simp only [hown, hmove]
  rfl

/-- A poisoned line that is new is counted once, and gives status 4. -/
theorem Cmd.afterPiece_poison (k : Cmd) (now : Nat) (line : Option LineBuf) :
    (newPoison k.held line = true → (k.afterPiece now line k).errors = k.errors + 1 ∧
      (k.afterPiece now line k).status = if k.status = 0 then 4 else k.status) ∧
    (¬ newPoison k.held line = true → (k.afterPiece now line k).errors = k.errors ∧ (k.afterPiece now line k).status = k.status) := by
  cases h : newPoison k.held line <;> simp [h]

end Sys2Proof.Machine
end

section
/-! PROOFS. GATHER and SCATTER (12 R288, R289, R292, R293): the batches of their indices, and the rows in flight. -/

namespace Sys2Proof.Machine

variable {s u w y : State} {core : CoreId} {i : Fin 17} {k : Cmd} {g : Got} {b : IndexBatch} {l : RowLeft} {p : Piece} {ps : List Piece}
  {line : Option LineBuf}

/-! ## Batches (R288) -/

theorem batchCount_le_iff (r : BitVec 512) (n : Nat) : batchCount r ≤ n ↔ rowCount r ≤ 8 * n := by
  rw [batchCount]
  omega

/-- The index of a row names a row of the table. -/
theorem IndexBatch.row_isSome_iff (r : BitVec 512) (n : Nat) :
    (b.row r n).isSome = true ↔ ∃ x, (b.index[n - b.first]?).join = some x ∧ x < tableRows r := by
  rw [IndexBatch.row]
  cases (b.index[n - b.first]?).join with
  | none => simp
  | some x => by_cases hx : x < tableRows r <;> simp [hx]

/-- The rows of a command's next batch. -/
@[reducible] def Cmd.batchRows (k : Cmd) : Nat := min 8 (rowCount k.record - 8 * k.pos)

/-- Where the indices of a command's next batch stand. -/
@[reducible] def Cmd.indexAt (k : Cmd) : Dword :=
  recordAddr k.record 32 + BitVec.ofNat 64 (8 * k.pos * recordField k.record 52 1)

/-- The batch whose indices have been read. -/
@[reducible] def Cmd.batchOf (k : Cmd) (g : Got) (now : Nat) : IndexBatch :=
  { first := 8 * k.pos
    index := (List.range k.batchRows).map fun j => if g.poisoned.isSome then none
      else some (bitsOfBytes 64 ((g.bytes.drop (j * recordField k.record 52 1)).take (recordField k.record 52 1))).toNat
    left := (List.range k.batchRows).map fun j => { row := 8 * k.pos + j }
    ready := now + if k.op = 2 then 180 else 1 }

/-- The change of a command e by a batch that the command k has read. -/
@[reducible] def Cmd.afterBatch (k : Cmd) (g : Got) (now : Nat) (e : Cmd) : Cmd :=
  { e with pos := e.pos + 1, batches := e.batches ++ [k.batchOf g now], ready := now + 1,
           status := if g.poisoned.isSome ∧ e.status = 0 then 4 else e.status }

/-- While fewer than four batches are in flight, the indices of the next are read. -/
theorem State.indexedStep_reads (hhalt : k.halting = false) (hpos : 8 * k.pos < rowCount k.record) (hfew : k.batches.length < 4)
    (hg : s.engineRead (s.cmdReach core i k) (ownerOf core i k) k.indexAt (k.batchRows * recordField k.record 52 1) = .ok g w)
    (hone : (w.chain core i).cmds = [k]) : s.indexedStep core i k =
      some ((w.modCmd core i k.seq (k.afterBatch g w.now)).proceed core i (k.afterBatch g w.now k) false) := by
  have hmore : k.pos < batchCount k.record := Nat.not_le.1 fun h => Nat.not_le.2 hpos ((batchCount_le_iff ..).1 h)
  rw [State.indexedStep, if_neg (by omega), if_pos ⟨by simp [hhalt], hmore, hfew⟩, State.readBatch]
  simp only [indexWidth, hg, Step.then]
  exact State.withCmd_one (State.cmds_modCmd_same (k.afterBatch g w.now) hone rfl) rfl

/-! ## A row in flight (R289, R292, R293) -/

section
variable (hbatch : k.batches = [b]) (hleft : b.left = [l])
include hbatch hleft

/-- One row in flight lands from the cycle of its batch on: no other row of SCATTER is before it. -/
theorem Cmd.landing_one (now : Nat) : k.landing now = if b.ready ≤ now then [(b, l)] else [] := by
  by_cases hready : b.ready ≤ now <;> cases hrow : b.row k.record l.row <;> simp [Cmd.landing, hbatch, hleft, hready, hrow]

/-- Once all batches have been read, the one row in flight goes on, from the cycle of its batch on. -/
theorem State.indexedStep_lands (hhalt : k.halting = false) (hpos : rowCount k.record ≤ 8 * k.pos) (hrows : rowCount k.record ≠ 0) :
    s.indexedStep core i k = if b.ready ≤ s.now then s.moveRow core i k b l else none := by
  rw [State.indexedStep, if_neg hrows, if_neg fun h => Nat.not_lt.2 ((batchCount_le_iff ..).2 hpos) h.2.1, Cmd.landing_one hbatch hleft]
  by_cases hready : b.ready ≤ s.now <;> simp [hready, hhalt, State.choose]

/-- The row after its next piece. -/
@[reducible] def RowLeft.moves (l : RowLeft) (line : Option LineBuf) : RowLeft :=
  { l with moved := l.moved + 1, held := line, spoilt := l.spoilt || line.any LineBuf.poisoned }

/-- What the end of a row adds to the errors: a row whose index names none counts. -/
@[reducible] def Cmd.missedRow (k : Cmd) (b : IndexBatch) (l : RowLeft) (done : Bool) : Nat :=
  if done && !(b.row k.record l.row).isSome then 1 else 0

/-- What a step of a row adds to the errors: a poisoned line of a row that had none counts too. -/
@[reducible] def Cmd.rowErrors (k : Cmd) (b : IndexBatch) (l : RowLeft) (line : Option LineBuf) (done : Bool) : Nat :=
  (if line.any LineBuf.poisoned && !l.spoilt then 1 else 0) + k.missedRow b l done

/-- The change of a command e by a piece of row l of batch b that the command k has moved. -/
@[reducible] def Cmd.afterRow (k : Cmd) (b : IndexBatch) (l : RowLeft) (now : Nat) (line : Option LineBuf) (done : Bool) (e : Cmd) : Cmd :=
  { e.stepRow b.first (l.moves line) done with
    errors := e.errors + k.rowErrors b l line done
    status := if line.any LineBuf.poisoned && e.status == 0 then 4 else e.status
    ready := now + 1 }

omit hbatch hleft in
/-- A poisoned line is counted once for its row, and gives status 4. -/
theorem Cmd.afterRow_poison (now : Nat) (line : Option LineBuf) (done : Bool) :
    (¬ line.any LineBuf.poisoned = true → (k.afterRow b l now line done k).status = k.status ∧
      (k.afterRow b l now line done k).errors = k.errors + k.missedRow b l done) ∧
    (line.any LineBuf.poisoned = true → (k.afterRow b l now line done k).status = (if k.status = 0 then 4 else k.status) ∧
      (k.afterRow b l now line done k).errors = k.errors + (if l.spoilt then 0 else 1) + k.missedRow b l done) := by
  cases h : line.any LineBuf.poisoned <;> cases hspoilt : l.spoilt <;> simp [h, hspoilt, Nat.add_assoc]

theorem Cmd.batches_afterRow (now : Nat) (line : Option LineBuf) (done : Bool) :
    (k.afterRow b l now line done k).batches = if done then [] else [{ b with left := [l.moves line] }] := by
  cases done <;> simp [Cmd.stepRow, hbatch, hleft]

/-- A piece of the one row in flight moves, or there is none to move; with the row's last piece the command ends. -/
theorem State.moveRow_eq (hpos : rowCount k.record ≤ 8 * k.pos) (hown : s.ownLeft core i k = some u)
    (hmove : (k.piecesOfRow b l.row).drop l.moved = [] ∧ line = l.held ∧ y = u ∨
      ∃ p ps, (k.piecesOfRow b l.row).drop l.moved = p :: ps ∧
      u.movePiece (u.cmdReach core i k) (ownerOf core i k) (if (b.row k.record l.row).isSome then none else some 0) l.held p = .ok line y)
    (hone : (y.chain core i).cmds = [k]) {done : Bool} (hdone : decide ((k.piecesOfRow b l.row).length ≤ l.moved + 1) = done) :
    s.moveRow core i k b l =
      some ((y.modCmd core i k.seq (k.afterRow b l y.now line done)).proceed core i (k.afterRow b l y.now line done k) done) := by
  have hall : batchCount k.record ≤ k.pos := (batchCount_le_iff ..).2 hpos
  have hends : decide ((k.afterRow b l y.now line done k).batches.isEmpty = true ∧
      batchCount (k.afterRow b l y.now line done k).record ≤ (k.afterRow b l y.now line done k).pos) = done := by
    rw [Cmd.batches_afterRow hbatch hleft]
    cases done <;> simp [hall, Cmd.stepRow]
  have hproceed := State.withCmd_proceed (f := k.afterRow b l y.now line done) hone rfl rfl
    (ends := fun e => e.batches.isEmpty = true ∧ batchCount e.record ≤ e.pos)
  rw [hends] at hproceed
  rw [← hproceed, State.moveRow]
  rcases hmove with ⟨hdrop, rfl, rfl⟩ | ⟨p, ps, hdrop, hmove⟩
  · simp only [hown, hdrop, hdone, Step.then]
  · simp only [hown, hdrop, hmove, hdone, Step.then]

end

end Sys2Proof.Machine
end

section
/-! PROOFS. The steps of the copy engine's commands (12 R284, R287 to R289, R292, R293). -/

namespace Sys2Proof.Machine

variable {s z : State} {core : CoreId} {i : Fin 17} {k e : Cmd} {v : Instr}

/-- A copy command whose record is read takes a step of its pieces or of its batches. -/
theorem exec_pieces (h : Claims.alone s core i k) (hv : Claims.carries core i k.op v) (hread : k.read = true)
    (hop : k.op = 1 ∨ k.op = 4) : exec v s = .next ((s.pieceStep core i k).getD s) := by
  rw [exec_moves h hv (by omega), State.moveStep, hread, if_neg (by decide), if_neg (by omega)]

theorem exec_indexed (h : Claims.alone s core i k) (hv : Claims.carries core i k.op v) (hread : k.read = true)
    (hop : k.op = 2 ∨ k.op = 3) : exec v s = .next ((s.indexedStep core i k).getD s) := by
  rw [exec_moves h hv (by omega), State.moveStep, hread, if_neg (by decide), if_pos hop]

/-- What a step from z leaves, that changes the command e of a chain last and lets it go on or end. -/
theorem State.proceed_spec (h : (z.chain core i).cmds = [e]) (ends : Bool) : ∃ o,
    ((z.proceed core i e ends).chain core i).cmds = [o] ∧ (z.proceed core i e ends).mem = z.mem ∧
    (z.proceed core i e ends).rows = z.rows ∧ (z.proceed core i e ends).poison = z.poison ∧
    (ends = true → o = z.ended core i e) ∧ (ends = false → o = e) := by
  obtain ⟨hmem, hrows, hpoison⟩ := z.proceed_keeps core i e ends
  exact ⟨_, State.proceed_cmds h ends, hmem, hrows, hpoison, fun h => if_pos h, fun h => if_neg (by simp [h])⟩

end Sys2Proof.Machine

namespace Sys2Proof.Proofs

open Sys2Proof.Machine

theorem copyEngineMovesItsCommands : Parts.CopyEngineMovesItsCommands := by
  refine ⟨?record, ?piece, ?batch, ?row⟩
  case record =>
    intro s w core i k v g h hv hread hcbdst hslot hop hst hg hp hw r reach own status e' z
    have ⟨hone, _⟩ := h
    have honew : (w.chain core i).cmds = [k] := hw ▸ hone
    have hz : (z.chain core i).cmds = [e'] := State.cmds_modCmd_same _ honew rfl
    have hexec := exec_moves h hv hop
    rw [State.moveStep, hread, Bool.not_false, if_pos rfl, State.beginMove_eq hcbdst hslot rfl hg hp honew, Option.getD_some] at hexec
    refine ⟨fun hends => ?_, fun hst0 hop6 => ?_⟩
    · rw [if_pos hends] at hexec
      refine ⟨_, _, hexec, State.cmds_finishCmd status hz rfl, rfl, rfl, rfl, rfl, if_pos hst, rfl, rfl, ?_, State.mem_finishCmd ..⟩
      rw [State.cmdReach_modCmd]
      rfl
    · rw [if_neg (not_or.2 ⟨not_not.2 hst0, hop6⟩)] at hexec
      refine ⟨fun hnone => hexec.trans (congrArg (fun o => (.next (o.getD z) : Result)) hnone), hz, fun t hsome => ?_⟩
      obtain ⟨lines, rows, rfl⟩ := State.ownLeft_some hsome
      exact ⟨hexec.trans (congrArg (fun o => (.next (o.getD z) : Result)) hsome), hz, rfl⟩
  case piece =>
    intro s u y core i k v p ps line h hv hread hop hdrop hown hmove hy bad
    have ⟨hone, _, _, hfinished, _⟩ := h
    have honey : (y.chain core i).cmds = [k] := hy ▸ hone
    have hall : k.allPieces = if k.op = 1 then copyPieces k.record k.base else fillPieces k.record k.base := by
      rcases hop with h | h <;> simp [Cmd.allPieces, h]
    have hexec := exec_pieces h hv hread hop
    rw [State.pieceStep_eq (hall ▸ hdrop) hown hmove honey, Option.getD_some] at hexec
    obtain ⟨o, hcmds, hmem, hrows, hpoison, hended, hgoes⟩ :=
      State.proceed_spec (State.cmds_modCmd_same (k.afterPiece y.now line) honey rfl) (decide (ps = []))
    obtain ⟨hbad, hgood⟩ := k.afterPiece_poison y.now line
    rw [newPoison_iff] at hbad hgood
    refine ⟨_, o, hexec, hcmds, ?_⟩
    by_cases hps : ps = []
    · rw [hended (decide_eq_true hps), if_pos hps, if_pos hps]
      exact ⟨rfl, rfl, (decide_eq_true hps).symm, rfl, rfl, hbad, hgood, hmem, hrows, hpoison⟩
    · rw [hgoes (decide_eq_false hps), if_neg hps, if_neg hps]
      exact ⟨rfl, rfl, hfinished.trans (decide_eq_false hps).symm, rfl, rfl, hbad, hgood, hmem, hrows, hpoison⟩
  case batch =>
    intro s w core i k v g h hv hread hhalt hop hpos hfew n width hg hw
    have ⟨hone, _⟩ := h
    have honew : (w.chain core i).cmds = [k] := hw ▸ hone
    have hexec := exec_indexed h hv hread hop
    rw [State.indexedStep_reads hhalt hpos hfew hg honew, Option.getD_some] at hexec
    obtain ⟨o, hcmds, hmem, _, _, _, hgoes⟩ := State.proceed_spec (State.cmds_modCmd_same (k.afterBatch g w.now) honew rfl) false
    rw [hgoes rfl] at hcmds
    refine ⟨_, _, k.batchOf g w.now, hexec, hcmds, rfl, rfl, rfl, rfl, rfl, rfl, fun j hj => ?_, rfl, hmem⟩
    rw [List.getElem?_map, List.getElem?_range hj, Option.map_some, toNat_bitsOfBytes_mod]
  case row =>
    intro s u core i k v b l h hv hread hhalt hop hpos hrows0 hbatch hleft
    have ⟨hone, _, _, hfinished, _⟩ := h
    have hexec := exec_indexed h hv hread hop
    rw [State.indexedStep_lands hbatch hleft hhalt hpos hrows0] at hexec
    refine ⟨fun hearly => ?_, IndexBatch.row_isSome_iff .., fun hready hown => ?_⟩
    · rw [if_neg (Nat.not_le.2 hearly)] at hexec
      exact hexec
    intro missed
    rw [if_pos hready] at hexec
    have hmissed : ∀ (q : Prop) [Decidable q], k.missedRow b l (decide q) = if q then missed else 0 := by
      intro q _
      by_cases hq : q <;> cases hrow : (b.row k.record l.row).isSome <;> simp [Cmd.missedRow, missed, hq, hrow]
    refine ⟨fun hno _ hheld hu => ?_, fun p ps line y hdrop hmove hy => ?_⟩
    · have honeu : (u.chain core i).cmds = [k] := hu ▸ hone
      rw [State.moveRow_eq hbatch hleft hpos hown (.inl ⟨by rw [hno, List.drop_nil], rfl, rfl⟩) honeu (done := true) (by simp [hno]),
        Option.getD_some, hheld] at hexec
      obtain ⟨o, hcmds, hmem, _, _, hended, _⟩ :=
        State.proceed_spec (State.cmds_modCmd_same (k.afterRow b l u.now none true) honeu rfl) true
      obtain ⟨hstatus, herrors⟩ := (Cmd.afterRow_poison (k := k) (b := b) (l := l) u.now none true).1 Bool.false_ne_true
      have hcount := herrors.trans (congrArg (k.errors + ·) (hmissed True))
      exact ⟨_, o, hexec, hcmds, hended rfl ▸ ⟨rfl, rfl, hstatus, hcount, rfl, hmem⟩⟩
    · intro bad
      have honey : (y.chain core i).cmds = [k] := hy ▸ hone
      have hpattern : (if missed = 0 then (none : Option Dword) else some 0) = if (b.row k.record l.row).isSome then none else some 0 := by
        cases hrow : (b.row k.record l.row).isSome <;> simp [missed, hrow]
      have hdone : decide ((k.piecesOfRow b l.row).length ≤ l.moved + 1) = decide (ps = []) := by
        have hlen := congrArg List.length hdrop
        rw [List.length_drop, List.length_cons] at hlen
        rw [decide_eq_decide, ← List.length_eq_zero_iff]
        omega
      have hline : line.any LineBuf.poisoned = true ↔ bad := by cases line <;> simp [bad]
      rw [State.moveRow_eq hbatch hleft hpos hown (.inr ⟨p, ps, hdrop, hpattern ▸ hmove⟩) honey hdone, Option.getD_some] at hexec
      obtain ⟨o, hcmds, hmem, hrows, hpoison, hended, hgoes⟩ :=
        State.proceed_spec (State.cmds_modCmd_same (k.afterRow b l y.now line (decide (ps = []))) honey rfl) (decide (ps = []))
      obtain ⟨hgood, hbad⟩ := Cmd.afterRow_poison (k := k) (b := b) (l := l) y.now line (decide (ps = []))
      rw [hmissed, hline] at hgood hbad
      refine ⟨_, o, hexec, hcmds, hmem, hrows, hpoison, ?_⟩
      by_cases hps : ps = []
      · rw [hended (decide_eq_true hps)]
        exact ⟨fun _ => ⟨rfl, rfl, rfl⟩, fun hne => absurd hps hne, hgood, hbad⟩
      · rw [hgoes (decide_eq_false hps)]
        refine ⟨fun h => absurd h hps, fun _ => ⟨hfinished, rfl, l.moves line, ?_, rfl, rfl, rfl⟩, hgood, hbad⟩
        exact (Cmd.batches_afterRow hbatch hleft y.now line _).trans (if_neg (by simpa using hps))

/-- Settles O39: a piece moves in the window of its accesses (`State.movePiece_eq`); a command's step reads its record
(`State.beginMove_eq`), or moves the next piece of its range (`State.pieceStep_eq`), or reads a batch of indices or moves the next
piece of a row (`State.indexedStep_reads`, `State.moveRow_eq`), and then goes on or ends (`State.proceed_spec`). -/
theorem copyEngineMovesItsPieces : Obligations.CopyEngineMovesItsPieces := ⟨piecesMoveThroughTheirLine, copyEngineMovesItsCommands⟩

end Sys2Proof.Proofs
end
